-- ==== Sys2Proof/Word.lean ====
section
/-!
DEFINITION. Balanced ternary words and trytes (00 R1 to R5, R7) and their plainest arithmetic.

A word is one of 3^27 values and a tryte one of 3^9, held as residues: the residue `n` stands for the balanced
integer that is congruent to it. Addition of residues is therefore wrap27 (wrap9) of the exact sum.
-/
namespace Sys2Proof

/-- One trit (00 R1). -/
inductive Trit where
  | neg | zero | pos
deriving DecidableEq, Repr

/-- The value of a trit. -/
def Trit.toInt : Trit → Int
  | .neg => -1
  | .zero => 0
  | .pos => 1

/-- The trit of the sign of an integer. -/
def Trit.ofSign (x : Int) : Trit :=
  if x < 0 then .neg else if x = 0 then .zero else .pos

/-- A word of 27 trits (00 Table 0.1), as a residue modulo 3^27. -/
abbrev Word := Fin 7625597484987

/-- A tryte of 9 trits (00 Table 0.1), as a residue modulo 3^9. -/
abbrev Tryte := Fin 19683

/-- The balanced value of a word: val of 00 Table 0.2. -/
def wval (w : Word) : Int :=
  if w.val ≤ 3812798742493 then (w.val : Int) else (w.val : Int) - 7625597484987

/-- The word whose value is wrap27 of an integer (00 Table 0.2). -/
def word (x : Int) : Word :=
  ⟨(x % 7625597484987).toNat, by omega⟩

/-- The balanced value of a tryte. -/
def tval (t : Tryte) : Int :=
  if t.val ≤ 9841 then (t.val : Int) else (t.val : Int) - 19683

/-- The tryte whose value is wrap9 of an integer. -/
def tryte (x : Int) : Tryte :=
  ⟨(x % 19683).toNat, by omega⟩

/-- The y congruent to x modulo 3^n with |y| ≤ (3^n − 1)/2 (00 Table 0.2: wrap9, wrap27, wrap81). -/
def wrapT (n : Nat) (x : Int) : Int :=
  (x + ((3 ^ n / 2 : Nat) : Int)) % ((3 ^ n : Nat) : Int) - ((3 ^ n / 2 : Nat) : Int)

/-- The value of the trits lo .. lo + n − 1 of a balanced integer (00 R2, R6). -/
def field (x : Int) (lo n : Nat) : Int :=
  wrapT n ((x - wrapT lo x) / ((3 ^ lo : Nat) : Int))

/-- Trit i of a balanced integer (00 R2). -/
def trit (x : Int) (i : Nat) : Int := field x i 1

/-- The greatest value of an n-trit string, (3^n − 1)/2 (00 R3). -/
def maxT (n : Nat) : Int := ((3 ^ n / 2 : Nat) : Int)

/-- sat of 00 Table 0.2. -/
def satT (x lo hi : Int) : Int :=
  if x < lo then lo else if x > hi then hi else x

/-- The sign of an integer as −1, 0 or +1. -/
def sgn (x : Int) : Int :=
  if x < 0 then -1 else if x = 0 then 0 else 1

end Sys2Proof
end

