-- ==== Sys2Proof/Syntax.lean ====
section
/-!
DEFINITION. The instructions of the 927 and the device's own steps: one constructor per row of the table of
operations and events. An instruction carries the fields of its format (06 Tables 6.1 to 6.6) as the balanced values
of their trits: whether a field names a register, a predicate, an immediate or a reserved code depends on the
instruction and on the generation that runs it (06 R95, R110), and a reserved value must reach issue to trap in the
order of 06 R92. A device step carries what its agent supplies.
-/
namespace Sys2Proof

/-- Format A, register (06 Table 6.1). -/
structure FA where
  dst : Int
  a : Int
  b : Int
  pred : Int
  ty : Int
deriving DecidableEq, Repr

/-- Format B, immediate (06 Table 6.2). -/
structure FB where
  dst : Int
  a : Int
  imm : Int
  ty : Int
deriving DecidableEq, Repr

/-- Format C, three-source (06 Table 6.3). -/
structure FC where
  dst : Int
  a : Int
  b : Int
  c : Int
  ty : Int
deriving DecidableEq, Repr

/-- Format D, memory (06 Table 6.4). -/
structure FD where
  data : Int
  base : Int
  off : Int
  pred : Int
  width : Int
deriving DecidableEq, Repr

/-- Format E, branch (06 Table 6.5). -/
structure FE where
  unif : Int
  pred : Int
  off : Int
deriving DecidableEq, Repr

/-- Format F, engine and tile (06 Table 6.6). -/
structure FF where
  x : Int
  y : Int
  z : Int
  slot : Int
  ctl : Int
deriving DecidableEq, Repr

/-- Format H, hint words: the 21 trits t20..t0 (06 Tables 6.11, 6.12). -/
structure FH where
  pay : Int
deriving DecidableEq, Repr

/-- A row: its gang's identifier, %blk and %row (05 R76, 23 R403). -/
structure RowRef where
  gid : Word
  blk : Nat
  row : Nat
deriving DecidableEq, Repr

/-- The kind of memory an access reaches (12 R216 MK, 15 R255), or a launch's constant copy (11 R213). -/
inductive MemKind where
  | hbm | hostLine | hostByte | peer | const
deriving DecidableEq, Repr

/-- One tryte of the memory outside the cores. For device HBM `a` is the physical tryte address (13 R234); for the
host's line view the offset o of 15 R255, for its byte view the host byte; for a peer the peer's identity, window and
offset (15 R267) as one number; for a constant copy, which only an L1 holds by line (13 R232), the grid's number and the
offset as one number. -/
structure Loc where
  kind : MemKind
  a : Nat
deriving DecidableEq, Repr

/-- Where a safe-point map places a portable register (03 R57). -/
inductive Place where
  | vec (n : Nat) | sca (n : Nat) | window (addr : Int) | portable
deriving DecidableEq, Repr

/-- One safe point of a generation: the portable safe point's index, the word that is the safe point, the word at which a
group that swaps to this generation enters it, and the places of the portable registers live there (03 R57). -/
structure SafePoint where
  portable : Int
  stands : Int
  idx : Int
  places : List (Nat × Place)
deriving DecidableEq, Repr

/-- A translation that the translator firmware installs: code words from index 0, the function table, safe-point map
and the return map (return point of this generation, portable return point) (03 R55, R57, 10 R180). -/
structure Translation where
  words : List Word
  funcs : List Int
  safe : List SafePoint
  rets : List (Int × Int)
deriving DecidableEq, Repr

/-- The instructions and device steps: one constructor per row of spec/opcode_table.json. (The rows the model's own
code never builds stand last: compiled Lean bounds the index of a constructor with fields.) -/
inductive Instr where
  /-- HDR (R100). -/
  | hdr (f : FH)
  /-- IMM (R102). -/
  | imm (f : FH)
  /-- MODH (R103). -/
  | modh (f : FH)
  /-- NOP (R105). -/
  | nop (f : FH)
  /-- SAFE (R106). -/
  | safe (f : FH)
  /-- MOV (R136). -/
  | mov (f : FA)
  /-- ADD (R136). -/
  | add (f : FA)
  /-- SUB (R136). -/
  | sub (f : FA)
  /-- MUL (R136). -/
  | mul (f : FA)
  /-- MULH (R136). -/
  | mulh (f : FA)
  /-- DIV (R137). -/
  | div (f : FA)
  /-- MOD (R137). -/
  | mod (f : FA)
  /-- DIVT (R137). -/
  | divt (f : FA)
  /-- MODT (R137). -/
  | modt (f : FA)
  /-- MIN (R136). -/
  | min (f : FA)
  /-- MAX (R136). -/
  | max (f : FA)
  /-- ABS (R136). -/
  | abs (f : FA)
  /-- SGN (R136). -/
  | sgn (f : FA)
  /-- SHL (R138). -/
  | shl (f : FA)
  /-- SHR (R138). -/
  | shr (f : FA)
  /-- ROT (R138). -/
  | rot (f : FA)
  /-- TCNT (R139). -/
  | tcnt (f : FA)
  /-- TMIN (R140). -/
  | tmin (f : FA)
  /-- TMAX (R140). -/
  | tmax (f : FA)
  /-- TNOT (R140). -/
  | tnot (f : FA)
  /-- TSUM (R140). -/
  | tsum (f : FA)
  /-- TMUL (R140). -/
  | tmul (f : FA)
  /-- TCONS (R140). -/
  | tcons (f : FA)
  /-- PACK9 (R141). -/
  | pack9 (f : FA)
  /-- UNP9 (R141). -/
  | unp9 (f : FA)
  /-- CMP (R148). -/
  | cmp (f : FA)
  /-- MOVI (R143). -/
  | movi (f : FB)
  /-- ADDI (R143). -/
  | addi (f : FB)
  /-- MULI (R143). -/
  | muli (f : FB)
  /-- SHLI (R143). -/
  | shli (f : FB)
  /-- SHRI (R143). -/
  | shri (f : FB)
  /-- CMPI (R143). -/
  | cmpi (f : FB)
  /-- TEXT (R144). -/
  | text (f : FB)
  /-- TINS (R144). -/
  | tins (f : FB)
  /-- MAD (R145). -/
  | mad (f : FC)
  /-- CLAMP (R145). -/
  | clamp (f : FC)
  /-- TSEL (R146). -/
  | tsel (f : FC)
  /-- LEA (R147). -/
  | lea (f : FC)
  /-- LEAD (R147). -/
  | lead (f : FC)
  /-- QMIN (R150). -/
  | qmin (f : FA)
  /-- QMAX (R150). -/
  | qmax (f : FA)
  /-- QNOT (R150). -/
  | qnot (f : FA)
  /-- QMOV (R150). -/
  | qmov (f : FA)
  /-- SEL (R151). -/
  | sel (f : FA)
  /-- VOTE_ALL (R153). -/
  | voteAll (f : FA)
  /-- VOTE_ANY (R153). -/
  | voteAny (f : FA)
  /-- VOTE_CNT (R153). -/
  | voteCnt (f : FA)
  /-- MOVQ_TO_REGISTER (R152). -/
  | movqToRegister (f : FA)
  /-- MOVQ_TO_PREDICATE (R152). -/
  | movqToPredicate (f : FA)
  /-- MOVQ_BALLOT (R152). -/
  | movqBallot (f : FA)
  /-- MOVS (R154). -/
  | movs (f : FA)
  /-- LANE (R154). -/
  | lane (f : FA)
  /-- FADD (R159). -/
  | fadd (f : FA)
  /-- FSUB (R159). -/
  | fsub (f : FA)
  /-- FMUL (R159). -/
  | fmul (f : FA)
  /-- FDIV (R160). -/
  | fdiv (f : FA)
  /-- FSQRT (R160). -/
  | fsqrt (f : FA)
  /-- FRCP (R160). -/
  | frcp (f : FA)
  /-- FRSQ (R160). -/
  | frsq (f : FA)
  /-- FMIN (R162). -/
  | fmin (f : FA)
  /-- FMAX (R162). -/
  | fmax (f : FA)
  /-- FABS (R162). -/
  | fabs (f : FA)
  /-- FCMP (R163). -/
  | fcmp (f : FA)
  /-- FCLS (R164). -/
  | fcls (f : FA)
  /-- FSCL (R165). -/
  | fscl (f : FA)
  /-- FEXN (R165). -/
  | fexn (f : FA)
  /-- FRND (R166). -/
  | frnd (f : FA)
  /-- FEXP (R161). -/
  | fexp (f : FA)
  /-- FLOG (R161). -/
  | flog (f : FA)
  /-- FSINT (R161). -/
  | fsint (f : FA)
  /-- FCOST (R161). -/
  | fcost (f : FA)
  /-- FLGR (R167). -/
  | flgr (f : FA)
  /-- FLGC (R167). -/
  | flgc (f : FA)
  /-- FMA (R159). -/
  | fma (f : FC)
  /-- CVT (R168). -/
  | cvt (src : Int) (f : FA)
  /-- XLN_AT (R171). -/
  | xlnAt (f : FA)
  /-- XLN_BK (R171). -/
  | xlnBk (f : FA)
  /-- XLN_FW (R171). -/
  | xlnFw (f : FA)
  /-- XLN_TRI (R171). -/
  | xlnTri (f : FA)
  /-- LRED (R173). -/
  | lred (f : FA)
  /-- LSCAN (R174). -/
  | lscan (f : FA)
  /-- BR (R177). -/
  | br (f : FE)
  /-- CALL (R178). -/
  | call (f : FE)
  /-- JMPR (R179). -/
  | jmpr (f : FA)
  /-- CALLR (R179). -/
  | callr (f : FA)
  /-- RET (R180). -/
  | ret (f : FA)
  /-- EXIT (R181). -/
  | exit (f : FA)
  /-- YIELD (R182). -/
  | yield (f : FA)
  /-- TRAP (R183). -/
  | trap (f : FB)
  /-- RTE (R184). -/
  | rte (f : FA)
  /-- BKPT (R183). -/
  | bkpt (f : FA)
  /-- WATCH (R185). -/
  | watch (f : FA)
  /-- SLEEP (R186). -/
  | sleep (f : FA)
  /-- TIME (R187). -/
  | time (f : FA)
  /-- CYC (R187). -/
  | cyc (f : FA)
  /-- CSRR (R190). -/
  | csrr (f : FB)
  /-- CSRW (R190). -/
  | csrw (f : FB)
  /-- CSRX (R190). -/
  | csrx (f : FB)
  /-- LAUNCH (R189). -/
  | launch (f : FF)
  /-- LAUNCH_AT_QUEUE_HOME (R72). -/
  | launchAtQueueHome (r : RowRef)
  /-- EVWAIT (R188). -/
  | evwait (f : FA)
  /-- EVWAIT_REREAD (R188). -/
  | evwaitReread (r : RowRef)
  /-- GLD (R201). -/
  | gld (f : FD)
  /-- GST (R201). -/
  | gst (f : FD)
  /-- GLDS (R201). -/
  | glds (f : FD)
  /-- PRF (R202). -/
  | prf (f : FD)
  /-- LDS (R203). -/
  | lds (f : FD)
  /-- STS (R203). -/
  | sts (f : FD)
  /-- LDS_WF (R208). -/
  | ldsWf (f : FD)
  /-- LDS_WFE (R208). -/
  | ldsWfe (f : FD)
  /-- STS_WE (R208). -/
  | stsWe (f : FD)
  /-- STS_ST (R208). -/
  | stsSt (f : FD)
  /-- WAIT_FULL_RETRY (R209). -/
  | waitFullRetry (r : RowRef)
  /-- LDP (R212). -/
  | ldp (f : FD)
  /-- STP (R212). -/
  | stp (f : FD)
  /-- LDC (R213). -/
  | ldc (f : FD)
  /-- TNEW (R273). -/
  | tnew (f : FF)
  /-- TSPLIT (R274). -/
  | tsplit (f : FF)
  /-- TFREE (R275). -/
  | tfree (f : FF)
  /-- TACQ (R278). -/
  | tacq (f : FF)
  /-- TACQ_GRANT (R278). -/
  | tacqGrant (k : Nat)
  /-- TREL (R281). -/
  | trel (f : FF)
  /-- TQRY (R290). -/
  | tqry (f : FF)
  /-- FENCE_T (R289). -/
  | fenceT (f : FF)
  /-- REDC (R288). -/
  | redc (f : FF)
  /-- RECALL (R280). -/
  | recall (k : Nat)
  /-- PUSH (R283). -/
  | push (k : Nat)
  /-- FLUSH (R287). -/
  | flush (r : RowRef) (line : Loc)
  /-- MMA (R299). -/
  | mma (f : FF)
  /-- MMAS (R301). -/
  | mmas (f : FF)
  /-- MXREL (R308). -/
  | mxrel (f : FF)
  /-- QUANT (R312). -/
  | quant (f : FF)
  /-- DEQ (R314). -/
  | deq (f : FF)
  /-- QCNT (R318). -/
  | qcnt (f : FF)
  /-- MATRIX_ARBITRATE (R305). -/
  | matrixArbitrate (quad : Nat)
  /-- PASS_COMPLETE (R303). -/
  | passComplete (r : RowRef)
  /-- QUANT_COMPLETE (R316). -/
  | quantComplete (r : RowRef)
  /-- DEQ_COMPLETE (R314). -/
  | deqComplete (r : RowRef)
  /-- RUN_HOLD_LAPSE (R307). -/
  | runHoldLapse (r : RowRef)
  /-- CPY (R326). -/
  | cpy (f : FF)
  /-- GATH (R326). -/
  | gath (f : FF)
  /-- SCAT (R326). -/
  | scat (f : FF)
  /-- PEER (R327). -/
  | peer (f : FF)
  /-- CHAIN (R329). -/
  | chain (f : FF)
  /-- COLL (R331). -/
  | coll (f : FF)
  /-- QFENCE (R333). -/
  | qfence (f : FF)
  /-- BCLOSE (R334). -/
  | bclose (f : FF)
  /-- BWAIT (R335). -/
  | bwait (f : FF)
  /-- COMMAND_START (R323). -/
  | commandStart (r : RowRef) (slot : Nat)
  /-- COMMAND_COMPLETE (R324). -/
  | commandComplete (r : RowRef) (slot : Nat)
  /-- JOIN_COMPLETE (R333). -/
  | joinComplete (r : RowRef) (slot : Nat)
  /-- COLL_INSTANCE_COMPLETE (R331). -/
  | collInstanceComplete (k : Nat)
  /-- PEER_DELIVERED (R327). -/
  | peerDelivered (r : RowRef) (ok : Bool)
  /-- ATOM_ADD (R364). -/
  | atomAdd (f : FC)
  /-- ATOM_MIN (R364). -/
  | atomMin (f : FC)
  /-- ATOM_MAX (R364). -/
  | atomMax (f : FC)
  /-- ATOM_TMIN (R364). -/
  | atomTmin (f : FC)
  /-- ATOM_TMAX (R364). -/
  | atomTmax (f : FC)
  /-- ATOM_XCHG (R364). -/
  | atomXchg (f : FC)
  /-- ATOM_CAS (R364). -/
  | atomCas (f : FC)
  /-- ATOM_FADD (R364). -/
  | atomFadd (f : FC)
  /-- RED_ADD (R359). -/
  | redAdd (f : FC)
  /-- RED_MIN (R359). -/
  | redMin (f : FC)
  /-- RED_MAX (R359). -/
  | redMax (f : FC)
  /-- RED_TMIN (R359). -/
  | redTmin (f : FC)
  /-- RED_TMAX (R359). -/
  | redTmax (f : FC)
  /-- RED_X81 (R364). -/
  | redX81 (f : FC)
  /-- RED_FADD (R359). -/
  | redFadd (f : FC)
  /-- ATOMIC_APPLY (R358). -/
  | atomicApply (core : Nat) (k : Nat)
  /-- FENCE (R349). -/
  | fence (f : FA)
  /-- BARA (R369). -/
  | bara (f : FA)
  /-- BARW (R369). -/
  | barw (f : FA)
  /-- BARS (R369). -/
  | bars (f : FA)
  /-- BARRIER_ARRIVAL_APPLY (R367). -/
  | barrierArrivalApply (r : RowRef)
  /-- BARRIER_RELAY_FORWARD (R372). -/
  | barrierRelayForward (gid : Word) (blk : Nat) (bar : Nat)
  /-- BARL (R375). -/
  | barl (f : FA)
  /-- BARL_INSTANCE_COMPLETE (R375). -/
  | barlInstanceComplete (k : Nat)
  /-- REPLAY_TOK (R408). -/
  | replayTok (f : FA)
  /-- REPLAY_PAGE (R408). -/
  | replayPage (f : FA)
  /-- REPLAY_FAIL (R408). -/
  | replayFail (f : FA)
  /-- TLBI_FLD (R409). -/
  | tlbiFld (f : FA)
  /-- TLBI_VA (R409). -/
  | tlbiVa (f : FA)
  /-- CTXS (R411). -/
  | ctxs (f : FA)
  /-- CTXS_PORT (R411). -/
  | ctxsPort (f : FA)
  /-- CTXR (R412). -/
  | ctxr (f : FA)
  /-- CTXR_DROP (R412). -/
  | ctxrDrop (f : FA)
  /-- PREEMPT_HALT (R405). -/
  | preemptHalt (gid : Word)
  /-- CONTEXT_SAVE_COMPLETE (R406). -/
  | contextSaveComplete (gid : Word)
  /-- PORTABLE_HALT_TIMEOUT (R416). -/
  | portableHaltTimeout (gid : Word)
  /-- STALL_WATCHDOG_EXPIRY (R128). -/
  | stallWatchdogExpiry (r : RowRef)
  /-- SLEEP_WAKE (R186). -/
  | sleepWake (r : RowRef)
  /-- SLEEP_TIMEOUT (R186). -/
  | sleepTimeout (r : RowRef)
  /-- LOAD_COMPLETE (R214). -/
  | loadComplete (r : RowRef)
  /-- STORE_FIFO_DRAIN (R343). -/
  | storeFifoDrain (r : RowRef)
  /-- STORE_APPLY (R214). -/
  | storeApply (core : Nat) (k : Nat)
  /-- PAGE_WALK (R218). -/
  | pageWalk (core : Nat) (fld : Nat) (va : Word)
  /-- ROW_UNPARK_REISSUE (R226). -/
  | rowUnparkReissue (r : RowRef)
  /-- OVERFLOW_REISSUE (R229). -/
  | overflowReissue (die : Nat)
  /-- L2_WRITE_BACK (R242). -/
  | l2WriteBack (line : Nat)
  /-- LINE_MIGRATE (R236). -/
  | lineMigrate (line : Nat)
  /-- BACK_INVALIDATE_SNOOP_RESPONSE (R260). -/
  | backInvalidateSnoopResponse (line : Nat)
  /-- HOST_LINE_READ (R254). -/
  | hostLineRead (line : Nat) (want : Nat)
  /-- HOST_LINE_WRITE (R45). -/
  | hostLineWrite (line : Nat) (bytes : List Nat) (inv : Bool)
  /-- HOST_BICONFLICT (R260). -/
  | hostBiconflict (line : Nat)
  /-- HOST_SNOOP (R257). -/
  | hostSnoop (line : Nat)
  /-- FLIT_RECEIVE (R249). -/
  | flitReceive (link : Nat) (e : Nat) (bytes : List Nat)
  /-- NAK_RECEIVE (R249). -/
  | nakReceive (link : Nat) (e : Nat) (ack : Nat)
  /-- NULL_FLIT_SEND (R249). -/
  | nullFlitSend (link : Nat) (e : Nat)
  /-- RETRAIN_COMPLETE (R250). -/
  | retrainComplete (link : Nat) (wide : Bool) (narrow : Bool)
  /-- SEEDLING_ENTRY (R18). -/
  | seedlingEntry (die : Nat)
  /-- LINK_TRAINED (R17). -/
  | linkTrained (link : Nat) (lanes : Nat)
  /-- HBM_STACK_TRAINED (R19). -/
  | hbmStackTrained (die : Nat) (ok : Bool)
  /-- LEAVE_SEEDLING (R19). -/
  | leaveSeedling (die : Nat)
  /-- JUNCTION_TRIP (R14). -/
  | junctionTrip (die : Nat)
  /-- TRIP_RELEASE (R14). -/
  | tripRelease (die : Option Nat)
  /-- CLCMD_LOAD (R53). -/
  | clcmdLoad (fn : Int) (slot : Int)
  /-- CLCMD_UNLOAD (R53). -/
  | clcmdUnload (fn : Int) (slot : Int)
  /-- CODE_OBJECT_LOAD_COMPLETE (R53). -/
  | codeObjectLoadComplete (fn : Int)
  /-- LQBASE_ARM (R66). -/
  | lqbaseArm (fn : Int) (q : Nat) (base : Word)
  /-- LQBASE_DISARM (R66). -/
  | lqbaseDisarm (fn : Int) (q : Nat)
  /-- SOWER_TAKE_RECORDS (R67). -/
  | sowerTakeRecords (fld : Nat) (q : Nat)
  /-- DEPENDENCE_MET (R69). -/
  | dependenceMet (fld : Nat) (k : Nat) (d : Nat)
  /-- SOWER_SCHEDULE (R71). -/
  | sowerSchedule (fld : Nat)
  /-- HEAD_RESERVATION_BAR (R89). -/
  | headReservationBar (fld : Nat)
  /-- FALLOW_ENTRY (R75). -/
  | fallowEntry (die : Nat)
  /-- FALLOW_EXIT (R75). -/
  | fallowExit (die : Nat)
  /-- GANG_RETIRE (R442). -/
  | gangRetire (gid : Word)
  /-- GRID_RETIRE (R443). -/
  | gridRetire (grid : Nat)
  /-- FUNCTION_LEVEL_RESET (R261). -/
  | functionLevelReset (vf : Nat)
  /-- KEYCMD_INSTALL (R261). -/
  | keycmdInstall (fld : Int) (key : Int)
  /-- FIRMWARE_SLOT_REWRITE (R16). -/
  | firmwareSlotRewrite (image : List Nat)
  /-- REHASH_LINE_MOVE (R426). -/
  | rehashLineMove (line : Nat)
  /-- HOST_REGISTER_WRITE (R263). -/
  | hostRegisterWrite (fn : Int) (offset : Nat) (value : Int)
  /-- UNASSIGNED_OPCODE (R91). -/
  | unassignedOpcode (w : Word)
  /-- GET_VERSION (R262). -/
  | getVersion
  /-- GET_CAPABILITIES (R262). -/
  | getCapabilities
  /-- NEGOTIATE_ALGORITHMS (R262). -/
  | negotiateAlgorithms
  /-- GET_DIGESTS (R262). -/
  | getDigests
  /-- DEVICE_RESET (R16). -/
  | deviceReset
  /-- RECCTL_SUBMIT (R16). -/
  | recctlSubmit
  /-- POWER_TRIP (R14). -/
  | powerTrip
  /-- THERMAL_HALT (R14). -/
  | thermalHalt
  /-- QUAD_LEAVE_END (R427). -/
  | quadLeaveEnd
  /-- SCRUB_END (R425). -/
  | scrubEnd
  /-- REHASH_COMPLETE (R426). -/
  | rehashComplete
  /-- VACATE_END (R428). -/
  | vacateEnd
  /-- TILE_REQUEST_ANSWER (R279). -/
  | tileRequestAnswer
  /-- HOST_LINK_RETRAIN (R253). -/
  | hostLinkRetrain
  /-- SRIOV_VF_ENABLE (R73). -/
  | sriovVfEnable (vf : Nat) (on : Bool)
  /-- FIELD_RESET (R271). -/
  | fieldReset (fld : Nat)
  /-- SECURITY_VERSION_ADVANCE (R16). -/
  | securityVersionAdvance (v : Nat)
  /-- FRCMD_SHRINK (R424). -/
  | frcmdShrink (kind : Int) (die : Int) (index : Int) (fld : Int)
  /-- TRANSLATION_INSTALL (R55). -/
  | translationInstall (fld : Nat) (slot : Int) (tr : Translation)
  /-- CHALLENGE (R262). -/
  | challenge (nonce : List Nat)
  /-- GET_CERTIFICATE (R262). -/
  | getCertificate (slot : Nat)
  /-- GET_MEASUREMENTS (R262). -/
  | getMeasurements (index : Nat)
  /-- KEYCMD_ERASE (R261). -/
  | keycmdErase (fld : Int) (key : Int)
  /-- FRCMD_GROW (R424). -/
  | frcmdGrow (kind : Int) (die : Int) (index : Int) (fld : Int)

deriving DecidableEq, Repr

end Sys2Proof
end

