-- ==== Sys2Proof/WellFormed.lean ====
section
/-!
DEFINITION. The instructions a word can carry: every field inside the range of its trits (06 R93), and the sub-forms
of one opcode with the type code that selects them (08 R152, 23 Table 23.4). For a device step: its agent's numbers
inside the ranges the device has.
-/
namespace Sys2Proof

/-- A value of n trits. -/
def inT (n : Nat) (x : Int) : Bool := decide (-(maxT n) ≤ x ∧ x ≤ maxT n)

def FA.wf (f : FA) : Bool := inT 5 f.dst && inT 5 f.a && inT 5 f.b && inT 4 f.pred && inT 2 f.ty
def FB.wf (f : FB) : Bool := inT 5 f.dst && inT 5 f.a && inT 9 f.imm && inT 2 f.ty
def FC.wf (f : FC) : Bool := inT 5 f.dst && inT 5 f.a && inT 5 f.b && inT 5 f.c && inT 1 f.ty
def FD.wf (f : FD) : Bool := inT 5 f.data && inT 5 f.base && inT 5 f.off && inT 4 f.pred && inT 2 f.width
def FE.wf (f : FE) : Bool := inT 1 f.unif && inT 4 f.pred && inT 16 f.off
def FF.wf (f : FF) : Bool := inT 5 f.x && inT 5 f.y && inT 5 f.z && inT 2 f.slot && inT 4 f.ctl
def FH.wf (f : FH) : Bool := inT 21 f.pay

/-- A row of the device: %blk and %row inside 05 R76's limits. -/
def RowRef.wf (r : RowRef) : Bool := decide (r.blk < 8 ∧ r.row < 81)

/-- A byte sequence. -/
def bytesWf (l : List Nat) : Bool := l.all (fun b => decide (b < 256))

/-- A register function: the physical function (−1) or a VF (04 R73). -/
def fnWf (fn : Int) : Bool := decide (-1 ≤ fn ∧ fn < 128)

/-- An end of a link of the package (0 to 71, two ends), or of a Coluri port (72 + k, the device's end). -/
def linkEndWf (link e : Nat) : Bool := decide ((link < 72 ∧ e < 2) ∨ (link < 90 ∧ e = 0))

/-- Assigned opcodes (06 Table 6.9), by class and function. -/
def assigned (cls fn : Int) : Bool :=
  if cls = 0 then decide (0 ≤ fn ∧ fn ≤ 4)
  else if fn = 0 then false
  else if cls = 1 then true
  else if cls = 2 then decide (1 ≤ fn ∧ fn ≤ 8)
  else if cls = 3 then decide (1 ≤ fn ∧ fn ≤ 5)
  else if cls = 4 then decide (1 ≤ fn ∧ fn ≤ 11)
  else if cls = 5 then decide (-8 ≤ fn)
  else if cls = 6 then decide (fn = 1)
  else if cls = 7 then decide (1 ≤ fn ∧ fn ≤ 9)
  else if cls = 8 then decide (1 ≤ fn ∧ fn ≤ 6)
  else if cls = -1 then decide (1 ≤ fn ∧ fn ≤ 2)
  else if cls = -2 then decide (1 ≤ fn ∧ fn ≤ 8)
  else if cls = -3 then decide (1 ≤ fn ∧ fn ≤ 9)
  else if cls = -4 then decide (1 ≤ fn)
  else if cls = -5 then decide (1 ≤ fn ∧ fn ≤ 8)
  else if cls = -6 then decide (1 ≤ fn ∧ fn ≤ 6)
  else if cls = -7 then decide (1 ≤ fn ∧ fn ≤ 9)
  else if cls = -8 then decide (1 ≤ fn ∧ fn ≤ 8)
  else if cls = -9 then decide (1 ≤ fn ∧ fn ≤ 7)
  else if cls = -10 then decide (1 ≤ fn ∧ fn ≤ 5)
  else if cls = -11 then decide (1 ≤ fn ∧ fn ≤ 4)
  else false

/-- The well-formed instructions. -/
def Instr.wf : Instr → Bool
  | .hdr f => f.wf
  | .imm f => f.wf
  | .modh f => f.wf
  | .nop f => f.wf
  | .safe f => f.wf
  | .mov f => f.wf
  | .add f => f.wf
  | .sub f => f.wf
  | .mul f => f.wf
  | .mulh f => f.wf
  | .div f => f.wf
  | .mod f => f.wf
  | .divt f => f.wf
  | .modt f => f.wf
  | .min f => f.wf
  | .max f => f.wf
  | .abs f => f.wf
  | .sgn f => f.wf
  | .shl f => f.wf
  | .shr f => f.wf
  | .rot f => f.wf
  | .tcnt f => f.wf
  | .tmin f => f.wf
  | .tmax f => f.wf
  | .tnot f => f.wf
  | .tsum f => f.wf
  | .tmul f => f.wf
  | .tcons f => f.wf
  | .pack9 f => f.wf
  | .unp9 f => f.wf
  | .cmp f => f.wf
  | .movi f => f.wf
  | .addi f => f.wf
  | .muli f => f.wf
  | .shli f => f.wf
  | .shri f => f.wf
  | .cmpi f => f.wf
  | .text f => f.wf
  | .tins f => f.wf
  | .mad f => f.wf
  | .clamp f => f.wf
  | .tsel f => f.wf
  | .lea f => f.wf
  | .lead f => f.wf
  | .qmin f => f.wf
  | .qmax f => f.wf
  | .qnot f => f.wf
  | .qmov f => f.wf
  | .sel f => f.wf
  | .voteAll f => f.wf
  | .voteAny f => f.wf
  | .voteCnt f => f.wf
  | .movqToRegister f => f.wf && decide (f.ty = 0)
  | .movqToPredicate f => f.wf && decide (f.ty = 1)
  | .movqBallot f => f.wf && decide (f.ty = -1)
  | .movs f => f.wf
  | .lane f => f.wf
  | .fadd f => f.wf
  | .fsub f => f.wf
  | .fmul f => f.wf
  | .fdiv f => f.wf
  | .fsqrt f => f.wf
  | .frcp f => f.wf
  | .frsq f => f.wf
  | .fmin f => f.wf
  | .fmax f => f.wf
  | .fabs f => f.wf
  | .fcmp f => f.wf
  | .fcls f => f.wf
  | .fscl f => f.wf
  | .fexn f => f.wf
  | .frnd f => f.wf
  | .fexp f => f.wf
  | .flog f => f.wf
  | .fsint f => f.wf
  | .fcost f => f.wf
  | .flgr f => f.wf
  | .flgc f => f.wf
  | .fma f => f.wf
  | .cvt src f => decide (1 ≤ src ∧ src ≤ 9) && f.wf
  | .xlnAt f => f.wf
  | .xlnBk f => f.wf
  | .xlnFw f => f.wf
  | .xlnTri f => f.wf
  | .lred f => f.wf
  | .lscan f => f.wf
  | .br f => f.wf
  | .call f => f.wf
  | .jmpr f => f.wf
  | .callr f => f.wf
  | .ret f => f.wf
  | .exit f => f.wf
  | .yield f => f.wf
  | .trap f => f.wf
  | .rte f => f.wf
  | .bkpt f => f.wf
  | .watch f => f.wf
  | .sleep f => f.wf
  | .time f => f.wf
  | .cyc f => f.wf
  | .csrr f => f.wf
  | .csrw f => f.wf
  | .csrx f => f.wf
  | .launch f => f.wf
  | .launchAtQueueHome r => r.wf
  | .evwait f => f.wf
  | .evwaitReread r => r.wf
  | .gld f => f.wf
  | .gst f => f.wf
  | .glds f => f.wf
  | .prf f => f.wf
  | .lds f => f.wf
  | .sts f => f.wf
  | .ldsWf f => f.wf
  | .ldsWfe f => f.wf
  | .stsWe f => f.wf
  | .stsSt f => f.wf
  | .waitFullRetry r => r.wf
  | .ldp f => f.wf
  | .stp f => f.wf
  | .ldc f => f.wf
  | .tnew f => f.wf
  | .tsplit f => f.wf
  | .tfree f => f.wf
  | .tacq f => f.wf
  | .tacqGrant _ => true
  | .trel f => f.wf
  | .tqry f => f.wf
  | .fenceT f => f.wf
  | .redc f => f.wf
  | .recall _ => true
  | .push _ => true
  | .flush r _ => r.wf
  | .mma f => f.wf
  | .mmas f => f.wf
  | .mxrel f => f.wf
  | .quant f => f.wf
  | .deq f => f.wf
  | .qcnt f => f.wf
  | .matrixArbitrate quad => decide (quad < 240)
  | .passComplete r => r.wf
  | .quantComplete r => r.wf
  | .deqComplete r => r.wf
  | .runHoldLapse r => r.wf
  | .cpy f => f.wf
  | .gath f => f.wf
  | .scat f => f.wf
  | .peer f => f.wf
  | .chain f => f.wf
  | .coll f => f.wf
  | .qfence f => f.wf
  | .bclose f => f.wf
  | .bwait f => f.wf
  | .commandStart r slot => r.wf && decide (slot < 9)
  | .commandComplete r slot => r.wf && decide (slot < 9)
  | .joinComplete r slot => r.wf && decide (slot < 9)
  | .collInstanceComplete _ => true
  | .peerDelivered r _ => r.wf
  | .atomAdd f => f.wf
  | .atomMin f => f.wf
  | .atomMax f => f.wf
  | .atomTmin f => f.wf
  | .atomTmax f => f.wf
  | .atomXchg f => f.wf
  | .atomCas f => f.wf
  | .atomFadd f => f.wf
  | .redAdd f => f.wf
  | .redMin f => f.wf
  | .redMax f => f.wf
  | .redTmin f => f.wf
  | .redTmax f => f.wf
  | .redX81 f => f.wf
  | .redFadd f => f.wf
  | .atomicApply core _ => decide (core < 961)
  | .fence f => f.wf
  | .bara f => f.wf
  | .barw f => f.wf
  | .bars f => f.wf
  | .barrierArrivalApply r => r.wf
  | .barrierRelayForward _ blk bar => decide (blk < 8) && decide (bar < 9)
  | .barl f => f.wf
  | .barlInstanceComplete _ => true
  | .replayTok f => f.wf && decide (f.ty = 1)
  | .replayPage f => f.wf && decide (f.ty = 2)
  | .replayFail f => f.wf && decide (f.ty = 3)
  | .tlbiFld f => f.wf && decide (f.ty = 1)
  | .tlbiVa f => f.wf && decide (f.ty = 2)
  | .ctxs f => f.wf && decide (f.ty = 0)
  | .ctxsPort f => f.wf && decide (f.ty = 1)
  | .ctxr f => f.wf && decide (f.ty = 0)
  | .ctxrDrop f => f.wf && decide (f.ty = 1)
  | .preemptHalt _ => true
  | .contextSaveComplete _ => true
  | .portableHaltTimeout _ => true
  | .stallWatchdogExpiry r => r.wf
  | .sleepWake r => r.wf
  | .sleepTimeout r => r.wf
  | .loadComplete r => r.wf
  | .storeFifoDrain r => r.wf
  | .storeApply core _ => decide (core < 961)
  | .pageWalk core fld _ => decide (core < 961) && decide (fld < 12)
  | .rowUnparkReissue r => r.wf
  | .overflowReissue die => decide (die < 12)
  | .l2WriteBack line => decide (line < 12 * 10 ^ 9)
  | .lineMigrate line => decide (line < 12 * 10 ^ 9)
  | .backInvalidateSnoopResponse line => decide (line < 12 * 10 ^ 9)
  | .hostLineRead line want => decide (line < 12 * 10 ^ 9) && decide (want < 3)
  | .hostLineWrite line bytes _ => decide (line < 12 * 10 ^ 9) && bytesWf bytes && decide (bytes.length = 64)
  | .hostBiconflict line => decide (line < 12 * 10 ^ 9)
  | .hostSnoop line => decide (line < 12 * 10 ^ 9)
  | .flitReceive link e bytes => linkEndWf link e && bytesWf bytes && decide (bytes.length = 64)
  | .nakReceive link e ack => linkEndWf link e && decide (ack < 4096)
  | .nullFlitSend link e => linkEndWf link e
  | .retrainComplete link _ _ => linkEndWf link 0
  | .seedlingEntry die => decide (die < 12)
  | .linkTrained link lanes => linkEndWf link 0 && decide (lanes = 64 ∨ lanes = 32 ∨ lanes = 0)
  | .hbmStackTrained die _ => decide (die < 12)
  | .leaveSeedling die => decide (die < 12)
  | .junctionTrip die => decide (die < 12)
  | .tripRelease die => (match die with | some d => decide (d < 12) | none => true)
  | .clcmdLoad fn slot => fnWf fn && inT 5 slot
  | .clcmdUnload fn slot => fnWf fn && inT 5 slot
  | .codeObjectLoadComplete fn => fnWf fn
  | .lqbaseArm fn q _ => fnWf fn && decide (q < 9)
  | .lqbaseDisarm fn q => fnWf fn && decide (q < 9)
  | .sowerTakeRecords fld q => decide (fld < 12) && decide (q < 9)
  | .dependenceMet fld _ _ => decide (fld < 12)
  | .sowerSchedule fld => decide (fld < 12)
  | .headReservationBar fld => decide (fld < 12)
  | .fallowEntry die => decide (die < 12)
  | .fallowExit die => decide (die < 12)
  | .gangRetire _ => true
  | .gridRetire _ => true
  | .frcmdGrow kind die index fld => inT 2 kind && inT 4 die && inT 5 index && inT 4 fld
  | .frcmdShrink kind die index fld => inT 2 kind && inT 4 die && inT 5 index && inT 4 fld
  | .rehashLineMove line => decide (line < 12 * 10 ^ 9)
  | .hostRegisterWrite fn _ _ => fnWf fn
  | .unassignedOpcode w => !assigned (field (wval w) 24 3) (field (wval w) 21 3)
  | .getVersion => true
  | .getCapabilities => true
  | .negotiateAlgorithms => true
  | .getDigests => true
  | .deviceReset => true
  | .recctlSubmit => true
  | .powerTrip => true
  | .thermalHalt => true
  | .quadLeaveEnd => true
  | .scrubEnd => true
  | .rehashComplete => true
  | .vacateEnd => true
  | .tileRequestAnswer => true
  | .hostLinkRetrain => true
  | .sriovVfEnable vf _ => decide (vf < 128)
  | .fieldReset fld => decide (fld < 12)
  | .securityVersionAdvance _ => true
  | .firmwareSlotRewrite image => bytesWf image
  | .translationInstall fld slot _ => decide (fld < 12) && inT 5 slot
  | .challenge nonce => bytesWf nonce
  | .getCertificate _ => true
  | .getMeasurements _ => true
  | .functionLevelReset vf => decide (vf < 128)
  | .keycmdErase fld key => decide (0 ≤ fld ∧ fld < 12) && decide (0 ≤ key ∧ key ≤ 26)
  | .keycmdInstall fld key => decide (0 ≤ fld ∧ fld < 12) && decide (0 ≤ key ∧ key ≤ 26)

end Sys2Proof
end

