-- ==== Sys2Proof/Decode.lean ====
section
/-!
DEFINITION. From a word of 27 trits to the instruction it stands for (06 R91, R93, Table 6.9), and back.
-/
namespace Sys2Proof

/-- A word whose opcode is assigned but whose type field selects none of the opcode's forms (each traps ILLMOD at
issue: 08 R152, 23 R407). -/
inductive DecodeError where
  | reservedMovq (f : FA)
  | reservedReplay (f : FA)
  | reservedTlbi (f : FA)
  | reservedCtxs (f : FA)
  | reservedCtxr (f : FA)
deriving DecidableEq, Repr

/-- 06 Table 6.1. -/
def fmtA (x : Int) : FA := ⟨field x 16 5, field x 11 5, field x 6 5, field x 2 4, field x 0 2⟩
/-- 06 Table 6.2. -/
def fmtB (x : Int) : FB := ⟨field x 16 5, field x 11 5, field x 2 9, field x 0 2⟩
/-- 06 Table 6.3. -/
def fmtC (x : Int) : FC := ⟨field x 16 5, field x 11 5, field x 6 5, field x 1 5, field x 0 1⟩
/-- 06 Table 6.4. -/
def fmtD (x : Int) : FD := ⟨field x 16 5, field x 11 5, field x 6 5, field x 2 4, field x 0 2⟩
/-- 06 Table 6.5. -/
def fmtE (x : Int) : FE := ⟨field x 20 1, field x 16 4, field x 0 16⟩
/-- 06 Table 6.6. -/
def fmtF (x : Int) : FF := ⟨field x 16 5, field x 11 5, field x 6 5, field x 4 2, field x 0 4⟩
/-- Format H: t20..t0 (06 Tables 6.11, 6.12). -/
def fmtH (x : Int) : FH := ⟨field x 0 21⟩

/-- Class +0 of 06 Table 6.9; none where the function is not assigned. -/
def decode_p0 (fn x : Int) : Option (Except DecodeError Instr) :=
  if fn = 0 then some (.ok (.hdr (fmtH x)))
  else if fn = 1 then some (.ok (.imm (fmtH x)))
  else if fn = 2 then some (.ok (.modh (fmtH x)))
  else if fn = 3 then some (.ok (.nop (fmtH x)))
  else if fn = 4 then some (.ok (.safe (fmtH x)))
  else none

/-- Class +1 of 06 Table 6.9; none where the function is not assigned. -/
def decode_p1 (fn x : Int) : Option (Except DecodeError Instr) :=
  if fn = 1 then some (.ok (.mov (fmtA x)))
  else if fn = 2 then some (.ok (.add (fmtA x)))
  else if fn = 3 then some (.ok (.sub (fmtA x)))
  else if fn = 4 then some (.ok (.mul (fmtA x)))
  else if fn = 5 then some (.ok (.mulh (fmtA x)))
  else if fn = 6 then some (.ok (.div (fmtA x)))
  else if fn = 7 then some (.ok (.mod (fmtA x)))
  else if fn = 8 then some (.ok (.divt (fmtA x)))
  else if fn = 9 then some (.ok (.modt (fmtA x)))
  else if fn = 10 then some (.ok (.min (fmtA x)))
  else if fn = 11 then some (.ok (.max (fmtA x)))
  else if fn = 12 then some (.ok (.abs (fmtA x)))
  else if fn = 13 then some (.ok (.sgn (fmtA x)))
  else if fn = -1 then some (.ok (.shl (fmtA x)))
  else if fn = -2 then some (.ok (.shr (fmtA x)))
  else if fn = -3 then some (.ok (.rot (fmtA x)))
  else if fn = -4 then some (.ok (.tcnt (fmtA x)))
  else if fn = -5 then some (.ok (.tmin (fmtA x)))
  else if fn = -6 then some (.ok (.tmax (fmtA x)))
  else if fn = -7 then some (.ok (.tnot (fmtA x)))
  else if fn = -8 then some (.ok (.tsum (fmtA x)))
  else if fn = -9 then some (.ok (.tmul (fmtA x)))
  else if fn = -10 then some (.ok (.tcons (fmtA x)))
  else if fn = -11 then some (.ok (.pack9 (fmtA x)))
  else if fn = -12 then some (.ok (.unp9 (fmtA x)))
  else if fn = -13 then some (.ok (.cmp (fmtA x)))
  else none

/-- Class +2 of 06 Table 6.9; none where the function is not assigned. -/
def decode_p2 (fn x : Int) : Option (Except DecodeError Instr) :=
  if fn = 1 then some (.ok (.movi (fmtB x)))
  else if fn = 2 then some (.ok (.addi (fmtB x)))
  else if fn = 3 then some (.ok (.muli (fmtB x)))
  else if fn = 4 then some (.ok (.shli (fmtB x)))
  else if fn = 5 then some (.ok (.shri (fmtB x)))
  else if fn = 6 then some (.ok (.cmpi (fmtB x)))
  else if fn = 7 then some (.ok (.text (fmtB x)))
  else if fn = 8 then some (.ok (.tins (fmtB x)))
  else none

/-- Class +3 of 06 Table 6.9; none where the function is not assigned. -/
def decode_p3 (fn x : Int) : Option (Except DecodeError Instr) :=
  if fn = 1 then some (.ok (.mad (fmtC x)))
  else if fn = 2 then some (.ok (.clamp (fmtC x)))
  else if fn = 3 then some (.ok (.tsel (fmtC x)))
  else if fn = 4 then some (.ok (.lea (fmtC x)))
  else if fn = 5 then some (.ok (.lead (fmtC x)))
  else none

/-- Class +4 of 06 Table 6.9; none where the function is not assigned. -/
def decode_p4 (fn x : Int) : Option (Except DecodeError Instr) :=
  if fn = 1 then some (.ok (.qmin (fmtA x)))
  else if fn = 2 then some (.ok (.qmax (fmtA x)))
  else if fn = 3 then some (.ok (.qnot (fmtA x)))
  else if fn = 4 then some (.ok (.qmov (fmtA x)))
  else if fn = 5 then some (.ok (.sel (fmtA x)))
  else if fn = 6 then some (.ok (.voteAll (fmtA x)))
  else if fn = 7 then some (.ok (.voteAny (fmtA x)))
  else if fn = 8 then some (.ok (.voteCnt (fmtA x)))
  else if fn = 9 then some (if (fmtA x).ty = 0 then .ok (.movqToRegister (fmtA x)) else if (fmtA x).ty = 1 then .ok (.movqToPredicate (fmtA x)) else if (fmtA x).ty = -1 then .ok (.movqBallot (fmtA x)) else .error (.reservedMovq (fmtA x)))
  else if fn = 10 then some (.ok (.movs (fmtA x)))
  else if fn = 11 then some (.ok (.lane (fmtA x)))
  else none

/-- Class +5 of 06 Table 6.9; none where the function is not assigned. -/
def decode_p5 (fn x : Int) : Option (Except DecodeError Instr) :=
  if fn = 1 then some (.ok (.fadd (fmtA x)))
  else if fn = 2 then some (.ok (.fsub (fmtA x)))
  else if fn = 3 then some (.ok (.fmul (fmtA x)))
  else if fn = 4 then some (.ok (.fdiv (fmtA x)))
  else if fn = 5 then some (.ok (.fsqrt (fmtA x)))
  else if fn = 6 then some (.ok (.frcp (fmtA x)))
  else if fn = 7 then some (.ok (.frsq (fmtA x)))
  else if fn = 8 then some (.ok (.fmin (fmtA x)))
  else if fn = 9 then some (.ok (.fmax (fmtA x)))
  else if fn = 10 then some (.ok (.fabs (fmtA x)))
  else if fn = 11 then some (.ok (.fcmp (fmtA x)))
  else if fn = 12 then some (.ok (.fcls (fmtA x)))
  else if fn = 13 then some (.ok (.fscl (fmtA x)))
  else if fn = -1 then some (.ok (.fexn (fmtA x)))
  else if fn = -2 then some (.ok (.frnd (fmtA x)))
  else if fn = -3 then some (.ok (.fexp (fmtA x)))
  else if fn = -4 then some (.ok (.flog (fmtA x)))
  else if fn = -5 then some (.ok (.fsint (fmtA x)))
  else if fn = -6 then some (.ok (.fcost (fmtA x)))
  else if fn = -7 then some (.ok (.flgr (fmtA x)))
  else if fn = -8 then some (.ok (.flgc (fmtA x)))
  else none

/-- Class +6 of 06 Table 6.9; none where the function is not assigned. -/
def decode_p6 (fn x : Int) : Option (Except DecodeError Instr) :=
  if fn = 1 then some (.ok (.fma (fmtC x)))
  else none

/-- Class +7 of 06 Table 6.9; none where the function is not assigned. -/
def decode_p7 (fn x : Int) : Option (Except DecodeError Instr) :=
  if 1 ≤ fn ∧ fn ≤ 9 then some (.ok (.cvt fn (fmtA x))) else none

/-- Class +8 of 06 Table 6.9; none where the function is not assigned. -/
def decode_p8 (fn x : Int) : Option (Except DecodeError Instr) :=
  if fn = 1 then some (.ok (.xlnAt (fmtA x)))
  else if fn = 2 then some (.ok (.xlnBk (fmtA x)))
  else if fn = 3 then some (.ok (.xlnFw (fmtA x)))
  else if fn = 4 then some (.ok (.xlnTri (fmtA x)))
  else if fn = 5 then some (.ok (.lred (fmtA x)))
  else if fn = 6 then some (.ok (.lscan (fmtA x)))
  else none

/-- Class -1 of 06 Table 6.9; none where the function is not assigned. -/
def decode_m1 (fn x : Int) : Option (Except DecodeError Instr) :=
  if fn = 1 then some (.ok (.br (fmtE x)))
  else if fn = 2 then some (.ok (.call (fmtE x)))
  else none

/-- Class -2 of 06 Table 6.9; none where the function is not assigned. -/
def decode_m2 (fn x : Int) : Option (Except DecodeError Instr) :=
  if fn = 1 then some (.ok (.jmpr (fmtA x)))
  else if fn = 2 then some (.ok (.callr (fmtA x)))
  else if fn = 3 then some (.ok (.ret (fmtA x)))
  else if fn = 4 then some (.ok (.exit (fmtA x)))
  else if fn = 5 then some (.ok (.yield (fmtA x)))
  else if fn = 6 then some (.ok (.trap (fmtB x)))
  else if fn = 7 then some (.ok (.rte (fmtA x)))
  else if fn = 8 then some (.ok (.bkpt (fmtA x)))
  else none

/-- Class -3 of 06 Table 6.9; none where the function is not assigned. -/
def decode_m3 (fn x : Int) : Option (Except DecodeError Instr) :=
  if fn = 1 then some (.ok (.watch (fmtA x)))
  else if fn = 2 then some (.ok (.sleep (fmtA x)))
  else if fn = 3 then some (.ok (.time (fmtA x)))
  else if fn = 4 then some (.ok (.cyc (fmtA x)))
  else if fn = 5 then some (.ok (.csrr (fmtB x)))
  else if fn = 6 then some (.ok (.csrw (fmtB x)))
  else if fn = 7 then some (.ok (.csrx (fmtB x)))
  else if fn = 8 then some (.ok (.launch (fmtF x)))
  else if fn = 9 then some (.ok (.evwait (fmtA x)))
  else none

/-- Class -4 of 06 Table 6.9; none where the function is not assigned. -/
def decode_m4 (fn x : Int) : Option (Except DecodeError Instr) :=
  if fn = 1 then some (.ok (.gld (fmtD x)))
  else if fn = 2 then some (.ok (.gst (fmtD x)))
  else if fn = 3 then some (.ok (.glds (fmtD x)))
  else if fn = 4 then some (.ok (.prf (fmtD x)))
  else if fn = 5 then some (.ok (.lds (fmtD x)))
  else if fn = 6 then some (.ok (.sts (fmtD x)))
  else if fn = 7 then some (.ok (.ldsWf (fmtD x)))
  else if fn = 8 then some (.ok (.ldsWfe (fmtD x)))
  else if fn = 9 then some (.ok (.stsWe (fmtD x)))
  else if fn = 10 then some (.ok (.stsSt (fmtD x)))
  else if fn = 11 then some (.ok (.ldp (fmtD x)))
  else if fn = 12 then some (.ok (.stp (fmtD x)))
  else if fn = 13 then some (.ok (.ldc (fmtD x)))
  else none

/-- Class -5 of 06 Table 6.9; none where the function is not assigned. -/
def decode_m5 (fn x : Int) : Option (Except DecodeError Instr) :=
  if fn = 1 then some (.ok (.tnew (fmtF x)))
  else if fn = 2 then some (.ok (.tsplit (fmtF x)))
  else if fn = 3 then some (.ok (.tfree (fmtF x)))
  else if fn = 4 then some (.ok (.tacq (fmtF x)))
  else if fn = 5 then some (.ok (.trel (fmtF x)))
  else if fn = 6 then some (.ok (.tqry (fmtF x)))
  else if fn = 7 then some (.ok (.fenceT (fmtF x)))
  else if fn = 8 then some (.ok (.redc (fmtF x)))
  else none

/-- Class -6 of 06 Table 6.9; none where the function is not assigned. -/
def decode_m6 (fn x : Int) : Option (Except DecodeError Instr) :=
  if fn = 1 then some (.ok (.mma (fmtF x)))
  else if fn = 2 then some (.ok (.mmas (fmtF x)))
  else if fn = 3 then some (.ok (.mxrel (fmtF x)))
  else if fn = 4 then some (.ok (.quant (fmtF x)))
  else if fn = 5 then some (.ok (.deq (fmtF x)))
  else if fn = 6 then some (.ok (.qcnt (fmtF x)))
  else none

/-- Class -7 of 06 Table 6.9; none where the function is not assigned. -/
def decode_m7 (fn x : Int) : Option (Except DecodeError Instr) :=
  if fn = 1 then some (.ok (.cpy (fmtF x)))
  else if fn = 2 then some (.ok (.gath (fmtF x)))
  else if fn = 3 then some (.ok (.scat (fmtF x)))
  else if fn = 4 then some (.ok (.peer (fmtF x)))
  else if fn = 5 then some (.ok (.chain (fmtF x)))
  else if fn = 6 then some (.ok (.coll (fmtF x)))
  else if fn = 7 then some (.ok (.qfence (fmtF x)))
  else if fn = 8 then some (.ok (.bclose (fmtF x)))
  else if fn = 9 then some (.ok (.bwait (fmtF x)))
  else none

/-- Class -8 of 06 Table 6.9; none where the function is not assigned. -/
def decode_m8 (fn x : Int) : Option (Except DecodeError Instr) :=
  if fn = 1 then some (.ok (.atomAdd (fmtC x)))
  else if fn = 2 then some (.ok (.atomMin (fmtC x)))
  else if fn = 3 then some (.ok (.atomMax (fmtC x)))
  else if fn = 4 then some (.ok (.atomTmin (fmtC x)))
  else if fn = 5 then some (.ok (.atomTmax (fmtC x)))
  else if fn = 6 then some (.ok (.atomXchg (fmtC x)))
  else if fn = 7 then some (.ok (.atomCas (fmtC x)))
  else if fn = 8 then some (.ok (.atomFadd (fmtC x)))
  else none

/-- Class -9 of 06 Table 6.9; none where the function is not assigned. -/
def decode_m9 (fn x : Int) : Option (Except DecodeError Instr) :=
  if fn = 1 then some (.ok (.redAdd (fmtC x)))
  else if fn = 2 then some (.ok (.redMin (fmtC x)))
  else if fn = 3 then some (.ok (.redMax (fmtC x)))
  else if fn = 4 then some (.ok (.redTmin (fmtC x)))
  else if fn = 5 then some (.ok (.redTmax (fmtC x)))
  else if fn = 6 then some (.ok (.redX81 (fmtC x)))
  else if fn = 7 then some (.ok (.redFadd (fmtC x)))
  else none

/-- Class -10 of 06 Table 6.9; none where the function is not assigned. -/
def decode_m10 (fn x : Int) : Option (Except DecodeError Instr) :=
  if fn = 1 then some (.ok (.fence (fmtA x)))
  else if fn = 2 then some (.ok (.bara (fmtA x)))
  else if fn = 3 then some (.ok (.barw (fmtA x)))
  else if fn = 4 then some (.ok (.bars (fmtA x)))
  else if fn = 5 then some (.ok (.barl (fmtA x)))
  else none

/-- Class -11 of 06 Table 6.9; none where the function is not assigned. -/
def decode_m11 (fn x : Int) : Option (Except DecodeError Instr) :=
  if fn = 1 then some (if (fmtA x).ty = 1 then .ok (.replayTok (fmtA x)) else if (fmtA x).ty = 2 then .ok (.replayPage (fmtA x)) else if (fmtA x).ty = 3 then .ok (.replayFail (fmtA x)) else .error (.reservedReplay (fmtA x)))
  else if fn = 2 then some (if (fmtA x).ty = 1 then .ok (.tlbiFld (fmtA x)) else if (fmtA x).ty = 2 then .ok (.tlbiVa (fmtA x)) else .error (.reservedTlbi (fmtA x)))
  else if fn = 3 then some (if (fmtA x).ty = 0 then .ok (.ctxs (fmtA x)) else if (fmtA x).ty = 1 then .ok (.ctxsPort (fmtA x)) else .error (.reservedCtxs (fmtA x)))
  else if fn = 4 then some (if (fmtA x).ty = 0 then .ok (.ctxr (fmtA x)) else if (fmtA x).ty = 1 then .ok (.ctxrDrop (fmtA x)) else .error (.reservedCtxr (fmtA x)))
  else none

/-- The instruction a word stands for. A word whose opcode is not assigned decodes to the step that traps ILLOP
(06 R91, R107). -/
def decode (w : Word) : Except DecodeError Instr :=
  let x := wval w
  let cls := field x 24 3
  let fn := field x 21 3
  let r : Option (Except DecodeError Instr) :=
    if cls = 0 then decode_p0 fn x
    else if cls = 1 then decode_p1 fn x
    else if cls = 2 then decode_p2 fn x
    else if cls = 3 then decode_p3 fn x
    else if cls = 4 then decode_p4 fn x
    else if cls = 5 then decode_p5 fn x
    else if cls = 6 then decode_p6 fn x
    else if cls = 7 then decode_p7 fn x
    else if cls = 8 then decode_p8 fn x
    else if cls = -1 then decode_m1 fn x
    else if cls = -2 then decode_m2 fn x
    else if cls = -3 then decode_m3 fn x
    else if cls = -4 then decode_m4 fn x
    else if cls = -5 then decode_m5 fn x
    else if cls = -6 then decode_m6 fn x
    else if cls = -7 then decode_m7 fn x
    else if cls = -8 then decode_m8 fn x
    else if cls = -9 then decode_m9 fn x
    else if cls = -10 then decode_m10 fn x
    else if cls = -11 then decode_m11 fn x
    else none
  match r with
  | some y => y
  | none => .ok (.unassignedOpcode w)

/-- The word of an opcode and the operand trits (06 R91). -/
def encOp (cls fn operands : Int) : Int := cls * 3 ^ 24 + fn * 3 ^ 21 + operands
def FA.enc (f : FA) : Int := f.dst * 3 ^ 16 + f.a * 3 ^ 11 + f.b * 3 ^ 6 + f.pred * 3 ^ 2 + f.ty
def FB.enc (f : FB) : Int := f.dst * 3 ^ 16 + f.a * 3 ^ 11 + f.imm * 3 ^ 2 + f.ty
def FC.enc (f : FC) : Int := f.dst * 3 ^ 16 + f.a * 3 ^ 11 + f.b * 3 ^ 6 + f.c * 3 + f.ty
def FD.enc (f : FD) : Int := f.data * 3 ^ 16 + f.base * 3 ^ 11 + f.off * 3 ^ 6 + f.pred * 3 ^ 2 + f.width
def FE.enc (f : FE) : Int := f.unif * 3 ^ 20 + f.pred * 3 ^ 16 + f.off
def FF.enc (f : FF) : Int := f.x * 3 ^ 16 + f.y * 3 ^ 11 + f.z * 3 ^ 6 + f.slot * 3 ^ 4 + f.ctl
def FH.enc (f : FH) : Int := f.pay

/-- The value of the word of an instruction; none for a device step, which no word encodes. -/
def encodeVal : Instr → Option Int
  | .hdr f => some (encOp (0) (0) f.enc)
  | .imm f => some (encOp (0) (1) f.enc)
  | .modh f => some (encOp (0) (2) f.enc)
  | .nop f => some (encOp (0) (3) f.enc)
  | .safe f => some (encOp (0) (4) f.enc)
  | .mov f => some (encOp (1) (1) f.enc)
  | .add f => some (encOp (1) (2) f.enc)
  | .sub f => some (encOp (1) (3) f.enc)
  | .mul f => some (encOp (1) (4) f.enc)
  | .mulh f => some (encOp (1) (5) f.enc)
  | .div f => some (encOp (1) (6) f.enc)
  | .mod f => some (encOp (1) (7) f.enc)
  | .divt f => some (encOp (1) (8) f.enc)
  | .modt f => some (encOp (1) (9) f.enc)
  | .min f => some (encOp (1) (10) f.enc)
  | .max f => some (encOp (1) (11) f.enc)
  | .abs f => some (encOp (1) (12) f.enc)
  | .sgn f => some (encOp (1) (13) f.enc)
  | .shl f => some (encOp (1) (-1) f.enc)
  | .shr f => some (encOp (1) (-2) f.enc)
  | .rot f => some (encOp (1) (-3) f.enc)
  | .tcnt f => some (encOp (1) (-4) f.enc)
  | .tmin f => some (encOp (1) (-5) f.enc)
  | .tmax f => some (encOp (1) (-6) f.enc)
  | .tnot f => some (encOp (1) (-7) f.enc)
  | .tsum f => some (encOp (1) (-8) f.enc)
  | .tmul f => some (encOp (1) (-9) f.enc)
  | .tcons f => some (encOp (1) (-10) f.enc)
  | .pack9 f => some (encOp (1) (-11) f.enc)
  | .unp9 f => some (encOp (1) (-12) f.enc)
  | .cmp f => some (encOp (1) (-13) f.enc)
  | .movi f => some (encOp (2) (1) f.enc)
  | .addi f => some (encOp (2) (2) f.enc)
  | .muli f => some (encOp (2) (3) f.enc)
  | .shli f => some (encOp (2) (4) f.enc)
  | .shri f => some (encOp (2) (5) f.enc)
  | .cmpi f => some (encOp (2) (6) f.enc)
  | .text f => some (encOp (2) (7) f.enc)
  | .tins f => some (encOp (2) (8) f.enc)
  | .mad f => some (encOp (3) (1) f.enc)
  | .clamp f => some (encOp (3) (2) f.enc)
  | .tsel f => some (encOp (3) (3) f.enc)
  | .lea f => some (encOp (3) (4) f.enc)
  | .lead f => some (encOp (3) (5) f.enc)
  | .qmin f => some (encOp (4) (1) f.enc)
  | .qmax f => some (encOp (4) (2) f.enc)
  | .qnot f => some (encOp (4) (3) f.enc)
  | .qmov f => some (encOp (4) (4) f.enc)
  | .sel f => some (encOp (4) (5) f.enc)
  | .voteAll f => some (encOp (4) (6) f.enc)
  | .voteAny f => some (encOp (4) (7) f.enc)
  | .voteCnt f => some (encOp (4) (8) f.enc)
  | .movqToRegister f => some (encOp (4) (9) f.enc)
  | .movqToPredicate f => some (encOp (4) (9) f.enc)
  | .movqBallot f => some (encOp (4) (9) f.enc)
  | .movs f => some (encOp (4) (10) f.enc)
  | .lane f => some (encOp (4) (11) f.enc)
  | .fadd f => some (encOp (5) (1) f.enc)
  | .fsub f => some (encOp (5) (2) f.enc)
  | .fmul f => some (encOp (5) (3) f.enc)
  | .fdiv f => some (encOp (5) (4) f.enc)
  | .fsqrt f => some (encOp (5) (5) f.enc)
  | .frcp f => some (encOp (5) (6) f.enc)
  | .frsq f => some (encOp (5) (7) f.enc)
  | .fmin f => some (encOp (5) (8) f.enc)
  | .fmax f => some (encOp (5) (9) f.enc)
  | .fabs f => some (encOp (5) (10) f.enc)
  | .fcmp f => some (encOp (5) (11) f.enc)
  | .fcls f => some (encOp (5) (12) f.enc)
  | .fscl f => some (encOp (5) (13) f.enc)
  | .fexn f => some (encOp (5) (-1) f.enc)
  | .frnd f => some (encOp (5) (-2) f.enc)
  | .fexp f => some (encOp (5) (-3) f.enc)
  | .flog f => some (encOp (5) (-4) f.enc)
  | .fsint f => some (encOp (5) (-5) f.enc)
  | .fcost f => some (encOp (5) (-6) f.enc)
  | .flgr f => some (encOp (5) (-7) f.enc)
  | .flgc f => some (encOp (5) (-8) f.enc)
  | .fma f => some (encOp (6) (1) f.enc)
  | .xlnAt f => some (encOp (8) (1) f.enc)
  | .xlnBk f => some (encOp (8) (2) f.enc)
  | .xlnFw f => some (encOp (8) (3) f.enc)
  | .xlnTri f => some (encOp (8) (4) f.enc)
  | .lred f => some (encOp (8) (5) f.enc)
  | .lscan f => some (encOp (8) (6) f.enc)
  | .br f => some (encOp (-1) (1) f.enc)
  | .call f => some (encOp (-1) (2) f.enc)
  | .jmpr f => some (encOp (-2) (1) f.enc)
  | .callr f => some (encOp (-2) (2) f.enc)
  | .ret f => some (encOp (-2) (3) f.enc)
  | .exit f => some (encOp (-2) (4) f.enc)
  | .yield f => some (encOp (-2) (5) f.enc)
  | .trap f => some (encOp (-2) (6) f.enc)
  | .rte f => some (encOp (-2) (7) f.enc)
  | .bkpt f => some (encOp (-2) (8) f.enc)
  | .watch f => some (encOp (-3) (1) f.enc)
  | .sleep f => some (encOp (-3) (2) f.enc)
  | .time f => some (encOp (-3) (3) f.enc)
  | .cyc f => some (encOp (-3) (4) f.enc)
  | .csrr f => some (encOp (-3) (5) f.enc)
  | .csrw f => some (encOp (-3) (6) f.enc)
  | .csrx f => some (encOp (-3) (7) f.enc)
  | .launch f => some (encOp (-3) (8) f.enc)
  | .evwait f => some (encOp (-3) (9) f.enc)
  | .gld f => some (encOp (-4) (1) f.enc)
  | .gst f => some (encOp (-4) (2) f.enc)
  | .glds f => some (encOp (-4) (3) f.enc)
  | .prf f => some (encOp (-4) (4) f.enc)
  | .lds f => some (encOp (-4) (5) f.enc)
  | .sts f => some (encOp (-4) (6) f.enc)
  | .ldsWf f => some (encOp (-4) (7) f.enc)
  | .ldsWfe f => some (encOp (-4) (8) f.enc)
  | .stsWe f => some (encOp (-4) (9) f.enc)
  | .stsSt f => some (encOp (-4) (10) f.enc)
  | .ldp f => some (encOp (-4) (11) f.enc)
  | .stp f => some (encOp (-4) (12) f.enc)
  | .ldc f => some (encOp (-4) (13) f.enc)
  | .tnew f => some (encOp (-5) (1) f.enc)
  | .tsplit f => some (encOp (-5) (2) f.enc)
  | .tfree f => some (encOp (-5) (3) f.enc)
  | .tacq f => some (encOp (-5) (4) f.enc)
  | .trel f => some (encOp (-5) (5) f.enc)
  | .tqry f => some (encOp (-5) (6) f.enc)
  | .fenceT f => some (encOp (-5) (7) f.enc)
  | .redc f => some (encOp (-5) (8) f.enc)
  | .mma f => some (encOp (-6) (1) f.enc)
  | .mmas f => some (encOp (-6) (2) f.enc)
  | .mxrel f => some (encOp (-6) (3) f.enc)
  | .quant f => some (encOp (-6) (4) f.enc)
  | .deq f => some (encOp (-6) (5) f.enc)
  | .qcnt f => some (encOp (-6) (6) f.enc)
  | .cpy f => some (encOp (-7) (1) f.enc)
  | .gath f => some (encOp (-7) (2) f.enc)
  | .scat f => some (encOp (-7) (3) f.enc)
  | .peer f => some (encOp (-7) (4) f.enc)
  | .chain f => some (encOp (-7) (5) f.enc)
  | .coll f => some (encOp (-7) (6) f.enc)
  | .qfence f => some (encOp (-7) (7) f.enc)
  | .bclose f => some (encOp (-7) (8) f.enc)
  | .bwait f => some (encOp (-7) (9) f.enc)
  | .atomAdd f => some (encOp (-8) (1) f.enc)
  | .atomMin f => some (encOp (-8) (2) f.enc)
  | .atomMax f => some (encOp (-8) (3) f.enc)
  | .atomTmin f => some (encOp (-8) (4) f.enc)
  | .atomTmax f => some (encOp (-8) (5) f.enc)
  | .atomXchg f => some (encOp (-8) (6) f.enc)
  | .atomCas f => some (encOp (-8) (7) f.enc)
  | .atomFadd f => some (encOp (-8) (8) f.enc)
  | .redAdd f => some (encOp (-9) (1) f.enc)
  | .redMin f => some (encOp (-9) (2) f.enc)
  | .redMax f => some (encOp (-9) (3) f.enc)
  | .redTmin f => some (encOp (-9) (4) f.enc)
  | .redTmax f => some (encOp (-9) (5) f.enc)
  | .redX81 f => some (encOp (-9) (6) f.enc)
  | .redFadd f => some (encOp (-9) (7) f.enc)
  | .fence f => some (encOp (-10) (1) f.enc)
  | .bara f => some (encOp (-10) (2) f.enc)
  | .barw f => some (encOp (-10) (3) f.enc)
  | .bars f => some (encOp (-10) (4) f.enc)
  | .barl f => some (encOp (-10) (5) f.enc)
  | .replayTok f => some (encOp (-11) (1) f.enc)
  | .replayPage f => some (encOp (-11) (1) f.enc)
  | .replayFail f => some (encOp (-11) (1) f.enc)
  | .tlbiFld f => some (encOp (-11) (2) f.enc)
  | .tlbiVa f => some (encOp (-11) (2) f.enc)
  | .ctxs f => some (encOp (-11) (3) f.enc)
  | .ctxsPort f => some (encOp (-11) (3) f.enc)
  | .ctxr f => some (encOp (-11) (4) f.enc)
  | .ctxrDrop f => some (encOp (-11) (4) f.enc)
  | .cvt src f => some (encOp 7 src f.enc)
  | .launchAtQueueHome _ => none
  | .evwaitReread _ => none
  | .waitFullRetry _ => none
  | .tacqGrant _ => none
  | .recall _ => none
  | .push _ => none
  | .flush _ _ => none
  | .matrixArbitrate _ => none
  | .passComplete _ => none
  | .quantComplete _ => none
  | .deqComplete _ => none
  | .runHoldLapse _ => none
  | .commandStart _ _ => none
  | .commandComplete _ _ => none
  | .joinComplete _ _ => none
  | .collInstanceComplete _ => none
  | .peerDelivered _ _ => none
  | .atomicApply _ _ => none
  | .barrierArrivalApply _ => none
  | .barrierRelayForward _ _ _ => none
  | .barlInstanceComplete _ => none
  | .preemptHalt _ => none
  | .contextSaveComplete _ => none
  | .portableHaltTimeout _ => none
  | .stallWatchdogExpiry _ => none
  | .sleepWake _ => none
  | .sleepTimeout _ => none
  | .loadComplete _ => none
  | .storeFifoDrain _ => none
  | .storeApply _ _ => none
  | .pageWalk _ _ _ => none
  | .rowUnparkReissue _ => none
  | .overflowReissue _ => none
  | .l2WriteBack _ => none
  | .lineMigrate _ => none
  | .backInvalidateSnoopResponse _ => none
  | .hostLineRead _ _ => none
  | .hostLineWrite _ _ _ => none
  | .hostBiconflict _ => none
  | .hostSnoop _ => none
  | .flitReceive _ _ _ => none
  | .nakReceive _ _ _ => none
  | .nullFlitSend _ _ => none
  | .retrainComplete _ _ _ => none
  | .seedlingEntry _ => none
  | .linkTrained _ _ => none
  | .hbmStackTrained _ _ => none
  | .leaveSeedling _ => none
  | .junctionTrip _ => none
  | .tripRelease _ => none
  | .clcmdLoad _ _ => none
  | .clcmdUnload _ _ => none
  | .codeObjectLoadComplete _ => none
  | .lqbaseArm _ _ _ => none
  | .lqbaseDisarm _ _ => none
  | .sowerTakeRecords _ _ => none
  | .dependenceMet _ _ _ => none
  | .sowerSchedule _ => none
  | .headReservationBar _ => none
  | .fallowEntry _ => none
  | .fallowExit _ => none
  | .gangRetire _ => none
  | .gridRetire _ => none
  | .frcmdGrow _ _ _ _ => none
  | .frcmdShrink _ _ _ _ => none
  | .rehashLineMove _ => none
  | .hostRegisterWrite _ _ _ => none
  | .unassignedOpcode w => some (wval w)
  | .getVersion => none
  | .getCapabilities => none
  | .negotiateAlgorithms => none
  | .getDigests => none
  | .deviceReset => none
  | .recctlSubmit => none
  | .powerTrip => none
  | .thermalHalt => none
  | .quadLeaveEnd => none
  | .scrubEnd => none
  | .rehashComplete => none
  | .vacateEnd => none
  | .tileRequestAnswer => none
  | .hostLinkRetrain => none
  | .sriovVfEnable _ _ => none
  | .fieldReset _ => none
  | .securityVersionAdvance _ => none
  | .firmwareSlotRewrite _ => none
  | .translationInstall _ _ _ => none
  | .challenge _ => none
  | .getCertificate _ => none
  | .getMeasurements _ => none
  | .functionLevelReset _ => none
  | .keycmdErase _ _ => none
  | .keycmdInstall _ _ => none

/-- The word of an instruction (06 Table 6.9 and the formats). -/
def encode (i : Instr) : Option Word := (encodeVal i).map word

/-- The word a binary instruction image stands for. The spec gives a word no bits; the model reads the image as the
host sees a word, a 64-bit two's-complement value (15 R263), and takes wrap27 of it (DESIGN CHOICE, log 1). -/
def wordOfBits (w : Nat) : Word :=
  let v : Nat := w % 18446744073709551616
  word (if v < 9223372036854775808 then (v : Int) else (v : Int) - 18446744073709551616)

/-- The instruction the decoder reads from an instruction of `nbits` bits `w` (log 1). -/
def decodeTableWord (nbits w : Nat) : Option Instr :=
  match decode (wordOfBits (w % 2 ^ nbits)) with
  | .ok i => some i
  | .error _ => none

end Sys2Proof
end

