-- ==== Sys2Proof/Config.lean ====
section
/-!
DEFINITION. The values the manual leaves free, as opaque constants (nothing can evaluate them), and the constants
an implementation fixes.
-/
namespace Sys2Proof.Config

/-- Nanoseconds of the always-on counter that pass in a step (log 3; 10 R187 gives no time to a step). -/
opaque nanos : Nat → Nat

/-- How far a compute die's copy of the always-on counter leads the least of them, less whole dozens (19 R357; log 104). -/
opaque skew : Nat → Nat

/-- Core clock cycles of a die that pass in a step (log 3). -/
opaque cycles : Nat → Nat → Nat

/-- SM3 digest of a byte sequence, 32 bytes (log 6; 03 R49 names the standard only). -/
opaque sm3 : List Nat → List Nat

/-- SM2 verification: key coordinates, digest, r, s (log 6). -/
opaque sm2Verify : List Nat → List Nat → List Nat → List Nat → Bool

/-- SM2 signature with a key named by its seed (log 6). -/
opaque sm2Sign : List Nat → List Nat → List Nat

/-- The check of a firmware image against the fused Gulseros key (01 R16, check 2; log 6). -/
opaque imageSigned : List Nat → Bool

/-- The set of an RDC that a line falls in, by its physical line number: 13 R238 gives 27 ways and no index function (log 43). -/
opaque rdcSet : Int → Nat
/-- The security version that a firmware image carries (01 R16, check 3; log 12). -/
opaque imageVersion : List Nat → Nat

/-- The certificate chain for a firmware measurement (01 R17; log 6). -/
opaque certChain : List Nat → List Nat

/-- The measured bytes of the boot ROM and of the translator (01 R17; log 6). -/
opaque romBytes : List Nat
opaque translatorBytes : List Nat

/-- The rounding of a special function whose exact value were a boundary of two roundings; none is (log 9). -/
opaque freeRound : Nat → Int → Int

/-- The value written where the manual states none, for a counter (log 3). -/
opaque freeWord : Nat → Word

/-- What SCL of a CHAIN on an integer type gives for v × 3^o that is no integer (18 R329 states none; log 36). -/
opaque chainScale : Int → Int → Int

/-- What a read of a retired block's scratch gives, by block and word (log 37; 26 R442 gives its lines away). -/
opaque freeScratch : Nat → Nat → Word

/-- The lines of a native save image beyond its header, and its words: their layout is not given (23 R410; log 7). -/
opaque imageLines : Nat → Nat
opaque imageWord : Nat → Nat → Word

/-- Network hops from a quad (of 20) to a slice (of 256) of its die: no floor plan is given (13 R236; log 43). -/
opaque sliceHops : Nat → Nat → Nat

/-- The set of an L2 slice that a line falls in, less whole 81s: no index function is given (13 R235; log 43). -/
opaque l2Set : Nat → Nat

/-- PCI Express Revision ID and low trits of the serial number (23 R410; log 7). -/
opaque revId : Word
opaque serial : Word

/-- Whether an access to a peer fails there, at a step and a place (15 R267; log 113). -/
opaque peerFails : Nat → Nat → Bool

/-- The translator's current portable version Vc (03 R51; log 11): a constant of the loaded firmware. -/
opaque portableVersion : Nat → Int

end Sys2Proof.Config
end

