-- ==== Sys2Proof/Machine/State.lean ====
section
/-!
DEFINITION. The state of the device: plain data. Every record's docstring names the rules of the spec that give it.
-/
namespace Sys2Proof.Machine

/-- Causes of a trap (10 Table 10.3). -/
inductive Cause where
  | illop | illmod | unif | align | page | prot | data | stall | esc | trapi
deriving DecidableEq, Repr

/-- Why a step stops the model. -/
inductive Fault where
  /-- Raised by an instruction executed while no row is issuing (`cur` names no resident row with a head group).
  Safe: the machine has no such step. -/
  | noIssuingRow
deriving DecidableEq, Repr

/-- Why a step has no meaning. -/
inductive Refusal where
  /-- An instruction whose meaning is not written. Safe: no step is claimed. -/
  | notModelled (mnemonic : String)
deriving DecidableEq, Repr

/-- The sticky flags of one thread (02 Table 2.9). -/
structure Fx where
  iv : Bool
  dz : Bool
  of : Bool
  uf : Bool
  nx : Bool
  io : Bool
deriving DecidableEq, Repr

/-- A native code address (03 Table 3.5). -/
structure CodeAddr where
  gen : Int
  slot : Int
  idx : Int
deriving DecidableEq, Repr

/-- An entry of a row's PC table (07 R116, R117), with the clause position of its group: the words still to issue and
the clause's flags A and B (06 R100). -/
structure PcEntry where
  addr : CodeAddr
  threads : List Nat
  mark : Bool
  park : Bool
  rem : Nat
  fa : Nat
  fb : Nat
deriving DecidableEq, Repr

/-- The prefixes issued for the next word of the head group: the address of the first, IMM's 21 trits, MODH's 21 trits
(06 R102 to R104). -/
structure Prefix where
  start : CodeAddr
  imm : Option Int
  modh : Option Int
deriving DecidableEq, Repr

/-- The handler state of a row: TRAPPC, TRAPCAUSE, TRAPINFO, TRAPCLS, the threads that entered, whether TRAPPC was
written, and the words from TRAPPC to the resume address (10 R183, R184, R192, R194, 23 R399). -/
structure Handler where
  active : Bool
  members : List Nat
  pc : Word
  pcWritten : Bool
  cause : Int
  bk : Bool
  info : Word
  rem : Nat
  fa : Nat
  fb : Nat
  skip : Nat
deriving DecidableEq, Repr

/-- The row's watch (10 R185, Table 10.4). -/
structure Watch where
  armed : Bool
  trig : Bool
  va : Word
  line : Loc
deriving DecidableEq, Repr

/-- The operation of an atomic or a reduction (20 Table 20.2). -/
inductive AtomOp where
  | add | min | max | tmin | tmax | xchg | cas | x81 | fadd
deriving DecidableEq, Repr

/-- What an access does. `fence` is the place a FENCE .rel holds in its row's FIFO (19 R349); `mark` that of a release which is
performed apart from the FIFO, behind what precedes it in the core's L1 order (19 R347). -/
inductive AccKind where
  | load | store | atom (o : AtomOp) | red (o : AtomOp) | fence | mark
deriving DecidableEq, Repr

/-- One acting thread of an access: its position, its effective address, the location of each unit it covers (empty
while untranslated), and the words it stores or combines (11 R199, R200, 20 R364). -/
structure Lane where
  thread : Nat
  va : Word
  locs : List Loc
  data : List Word
deriving DecidableEq, Repr

/-- A global or private access of a row, from issue to completion (11 R214, 19 R342, R343). `dst` is the data field,
`flag` the completion flag it counts on (0 none), `ord` its release or acquire scope (0 none), `priv` a private
access, `group` the group that issued it, `stamp` the step of issue, which orders the row's accesses. For a load, `rel` = 1 when a FENCE .ar stands before
it; for a fence, `acq` = 1 when it is of kind .ar. -/
structure MemOp where
  kind : AccKind
  width : Int
  lanes : List Lane
  dst : Int
  flag : Nat
  perRow : Bool
  rel : Int
  acq : Int
  cache : Int
  sat : Bool
  t9 : Bool
  gen0 : Bool
  priv : Bool
  who : RowRef
  group : List Nat
  stamp : Nat
deriving DecidableEq, Repr

/-- A faulted instruction of a parked row: the access with its faulted lanes, the wait-table entries (die, index) it
waits under, whether it is on its die's overflow entry, the address its group stands at and the prefixes there, and the virtual address of its
first faulted word, and the threads that faulted (12 R225 to R230). An access without lanes is an instruction that is issued again whole (WATCH,
EVWAIT, LAUNCH, TNEW). -/
structure FaultRec where
  op : MemOp
  units : List (Nat × Int)
  overflow : Bool
  pos : CodeAddr
  k : Nat
  info : Word
  mask : List Nat
deriving DecidableEq, Repr

/-- A lane of a parked synchronising scratch instruction: target block, word indices, data (11 R208, R209). -/
structure SyncLane where
  thread : Nat
  blk : Nat
  words : List Nat
  sub : Nat
  data : List Word
deriving DecidableEq, Repr

/-- Which synchronising scratch instruction (11 R208). -/
inductive SyncKind where
  | wf | wfe | we
deriving DecidableEq, Repr

/-- A synchronising instruction with the lanes not yet done: its group is parked (11 R209), or is empty where an STS.WE
that found its words empty awaits its release while its threads, the owners, go on (19 R345); it is stuck when its release was
met and a try then failed: the owners are parked where they stand (log 27). -/
structure SyncOp where
  kind : SyncKind
  width : Int
  dst : Int
  flag : Nat
  perRow : Bool
  gen0 : Bool
  group : List Nat
  pos : CodeAddr
  k : Nat
  todo : List SyncLane
  since : Nat
  owners : List Nat
  stuck : Bool
deriving DecidableEq, Repr

/-- A scratch atomic or reduction that is a release and waits to be performed (19 R345, 20 R363): its form, its lanes, its
release and acquire scopes, and the step of issue. -/
structure ScrRel where
  op : AtomOp
  returns : Bool
  t9 : Bool
  sat : Bool
  lanes : List SyncLane
  dst : Int
  flag : Nat
  perRow : Bool
  gen0 : Bool
  group : List Nat
  scope : Int
  acq : Int
  stamp : Nat
deriving DecidableEq, Repr

/-- A group parked in SLEEP: its threads, the address its entry keeps and the prefixes there, the time its timeout ends (none: no timeout) and its status register
(10 R186). -/
structure SleepOp where
  group : List Nat
  pos : CodeAddr
  k : Nat
  until_ : Option Nat
  dst : Int
  gen0 : Bool
deriving DecidableEq, Repr

/-- Kinds of engine command (18 Table 18.1). -/
inductive CmdKind where
  | cpy | gath | scat | peer | chain | coll
deriving DecidableEq, Repr

/-- A unit of a PEER command handed to the link: its virtual address, its place at the peer, its trytes (18 R327). -/
structure PeerUnit where
  va : Word
  loc : Loc
  data : List Tryte
deriving DecidableEq, Repr

/-- An engine command: operands as accepted, spaces and unit, batch, whether it has started, units done, the list or record
read at its start, units a PEER has handed to the link, the scratch words (block, word) it set pending and has not
written, the wait-table entry that holds it or whether the overflow entry does, the faulted address, and the step of acceptance
(18 R323 to R336). -/
structure Cmd where
  kind : CmdKind
  x : Word
  y : Word
  z : Word
  line : Bool
  ssp : Bool
  dsp : Bool
  ctl : Int
  flag : Nat
  batch : Nat
  started : Bool
  done_ : Nat
  data : List Word
  sent : List PeerUnit
  pend : List (Nat × Nat)
  held : Option (Nat × Int)
  spill : Bool
  faultVa : Word
  stamp : Nat
deriving DecidableEq, Repr

/-- A PEER command complete and not yet applied at its peer: its units and its step of acceptance (18 R327). -/
structure PeerOut where
  units : List PeerUnit
  stamp : Nat
deriving DecidableEq, Repr

/-- An entry of an engine slot: a command, or a join with the number its QFENCE carries in every slot (18 R333). -/
inductive SlotEntry where
  | cmd (c : Cmd)
  | join (id : Nat)
deriving DecidableEq, Repr

/-- An engine queue slot: entries oldest first, the open batch (number, commands in it) if any (18 R334). -/
structure EngSlot where
  entries : List SlotEntry
  openBatch : Option (Nat × Nat)
deriving DecidableEq, Repr

/-- A failed command not yet reported (18 R338). -/
structure CmdFail where
  slot : Nat
  flag : Nat
  cause : Cause
  info : Word
deriving DecidableEq, Repr

/-- A matrix pass: an entry of the quad's reservation table (17 R304): its operand words, the first register of its A
group, its posting order (the step, and its place among those a restore posts together) and the die's cycle at posting, the A values read at its grant, and the run it belongs to (17
R307). -/
structure Pass where
  scaled : Bool
  ctl : Int
  opw : Word
  panel : Word
  scale : Word
  flag : Nat
  aa : Int
  order : Nat × Nat
  posted : Nat
  granted : Bool
  aVals : List Word
  run : Option Nat
  closes : Bool
  gen0 : Bool
deriving DecidableEq, Repr

/-- A run whose A group is locked (17 R307): its number in the row, form and K, first register of the A group, whether it
is open, the latch, the cores whose arrays it holds, and the cycle its last pass completed. -/
structure Run where
  id : Nat
  form : Int
  k : Int
  aa : Int
  gen0 : Bool
  open_ : Bool
  latch : Option (List Word)
  holds : List Nat
  last : Nat
deriving DecidableEq, Repr

/-- A QUANT or DEQ in progress (17 R312, R314): its words, the step of issue, and for QUANT the wide group read at issue. -/
structure QuantOp where
  ctl : Int
  opw : Word
  addr : Word
  par : Word
  flag : Nat
  stamp : Nat
  wide : List Word
  gen0 : Bool
deriving DecidableEq, Repr

/-- A request to a tile directory (16 R272, R279). -/
inductive TileKind where
  | tnew (desc : List Word) | tsplit (spec : Word) | tfree | tacq (kind : Int) | trel | tqry | redc
deriving DecidableEq, Repr

/-- A tile instruction on its way to the package directory (stage 0), queued there (1), or granted and not yet complete
(2); the threads of its group, for a result in generation 0; the descriptor of a handle granted (16 R278, R279). -/
structure TileReq where
  who : RowRef
  kind : TileKind
  handle : Word
  dst : Int
  flag : Nat
  fld : Nat
  stage : Nat
  gen0 : Bool
  group : List Nat
  desc : List Word
deriving DecidableEq, Repr

/-- A barrier arrival in flight (20 R369, R372): target block, barrier, token register, whether it goes straight to the
port (0), to the partner die's relay (1) or is counted there (2), its group and the step of issue. -/
structure Arrival where
  blk : Nat
  bar : Nat
  dst : Int
  gen0 : Bool
  stage : Nat
  group : List Nat
  stamp : Nat
deriving DecidableEq, Repr

/-- A LAUNCH in flight (10 R189): queue, record address, status register, flag, its group and the step of issue. -/
structure LaunchReq where
  q : Int
  rec_ : Word
  dst : Int
  flag : Nat
  gen0 : Bool
  group : List Nat
  stamp : Nat
deriving DecidableEq, Repr

/-- A TLBI that has not completed (23 R409): its field, the address of TLBI.va, its flag, the step of issue, and the step of its
removals. -/
structure TlbiOp where
  fld : Nat
  va : Option Word
  flag : Nat
  stamp : Nat
  done_ : Option Nat
deriving DecidableEq, Repr

/-- What a row that cannot issue waits for: KIND, FLAG and SLOT of 07 Table 7.3, and the line an EVWAIT reads (15 R259). -/
structure Wait where
  kind : Int
  flag : Nat
  slot : Int
  line : Option Loc := none
deriving DecidableEq, Repr

/-- An entry of a row's scalar-to-vector queue: where a vector-side instruction stands and the values of its scalar
sources (07 R122). -/
structure SvEntry where
  pos : CodeAddr
  vals : List Word
deriving DecidableEq, Repr

/-- An entry of a row's vector-to-scalar queue (07 R122): a result for the scalar register of a field, whose value lies in
that register once nothing owes it, or the outcome of a transfer. -/
inductive VsEntry where
  | value (f : Int)
  | outcome
deriving DecidableEq, Repr

/-- What the scalar side has done past the row's place in program order (07 R122, R123): where it stands and the prefixes
it has passed there, the scalar registers as it sees them, those that instructions of the vector side will still give it,
whether it awaits an instruction that it has passed on, the scalar-to-vector queue, oldest first, and the number of words it
has performed that program order has still to reach. -/
structure Ahead where
  here : PcEntry
  pfx : Option Prefix
  sregs : List Word
  owed : List Int
  turn : Bool
  sv : List SvEntry
  ran : Nat
deriving DecidableEq, Repr

/-- A level barrier arrival of a row: the BARL that made it, and the instance it joined (20 R375). -/
structure LevelWait where
  pos : CodeAddr
  dst : Int
  key : List Int
  seq : Int
  gen0 : Bool
deriving DecidableEq, Repr

/-- A row (05 R76 and the rules named at each record). `vregs` is indexed 9·n … as the register block of 11 R204:
word w × n + p is vn of the thread at position p; `pregs` is indexed w × n + p alike for portable registers.
`escDue` and `escLost` hold the flags counted on of the unreported events and losses (17 R317).
`head` is the address of the head group once chosen (07 R117); `vs` is the vector-to-scalar queue (07 R122), oldest first; `waitS` and `waitV` are wait(r) of the two sides (07 R125). `busy` lists the register fields that long-latency operations of the row still write (06 R100). -/
structure Row where
  row : Nat
  pct : List PcEntry
  head : Option CodeAddr
  pfx : Option Prefix
  sregs : List Word
  vregs : List Word
  pregs : List Word
  qs : List (List Trit)
  fx : List Fx
  flags : List Nat
  busy : List Int
  handler : Handler
  watch : Watch
  escpol : Word
  mxst : Word
  sat : Word
  zero : Word
  ovf : Word
  runs : List Run
  passes : List Pass
  quants : List QuantOp
  deqs : List QuantOp
  loads : List MemOp
  fifo : List MemOp
  fault : Option FaultRec
  parks : List SyncOp
  rels : List ScrRel
  sleeps : List SleepOp
  slots : List EngSlot
  joins : Nat
  batches : Nat
  peers : List PeerOut
  fails : List CmdFail
  escDue : List Nat
  escLost : List Nat
  arrivals : List Arrival
  launches : List LaunchReq
  tlbis : List TlbiOp
  levels : List LevelWait
  wait : Option Wait
  stall : Nat
  waitS : Nat
  waitV : Nat
  ahead : Option Ahead
  vs : List VsEntry
  ended : Bool
  held : Bool
deriving DecidableEq, Repr

/-- A barrier of a block (20 R367). -/
structure Barrier where
  exp : Nat
  cnt : Nat
  ph : Word
deriving DecidableEq, Repr

/-- A block's tenure on a handle: kind 1 read, 2 update, 3 commute, 0 none; and LOST (16 R276, R290). -/
structure Tenure where
  handle : Word
  kind : Int
  lost : Bool
deriving DecidableEq, Repr

/-- A partial line of a commute holder (16 R286): the line, the element type and its nine words. -/
structure Partial where
  line : Loc
  ty : Int
  words : List Word
deriving DecidableEq, Repr

/-- A block: scratch words listed with their state trits (unlisted: 0 and −) (05 R85, 11 R207), barriers, tenures,
partial lines; `bad` lists the scratch words that no code repairs (13 R239); `core` is 80 × die + 4 × quad + core (16 R276), or 960 for the management core. -/
structure Block where
  blk : Nat
  core : Nat
  rows : List Row
  scratch : List (Nat × Word × Trit)
  bad : List Nat
  bars : List Barrier
  tenures : List Tenure
  partials : List Partial
  privLines : List Nat
  retired : Bool
deriving DecidableEq, Repr

/-- Where a gang stands (05 R77, 23 R405, R411, 26 R442); `waking`: its cores are taken and its rows are not ready, while a die
of its set leaves a fallow state (04 R75, 05 R88). -/
inductive GangState where
  | resident | waking | halting | saved | restoring | retiring
deriving DecidableEq, Repr

/-- The fields of a launch record (04 Table 4.1), as the words taken. -/
structure LaunchRec where
  words : List Word
deriving DecidableEq, Repr

/-- An escalation event of a core's queue: the row that raised it, whether it is still unreported, the flag its QUANT counted
on, and what orders events of one cycle: the cycle and %row (17 R316, R317). -/
structure EscEvent where
  who : RowRef
  ev : Word
  fresh : Bool
  flag : Nat
  cyc : Nat
  row : Nat
deriving DecidableEq, Repr

/-- The CTXS that waits for a gang's save: its row, status register, flag and group (23 R411). -/
structure SaveTo where
  who : RowRef
  dst : Int
  flag : Nat
  gen0 : Bool
  group : List Nat
deriving DecidableEq, Repr

/-- A gang (05 R76, 23 R403). `partner` is the partner die (05 R79); `events` the escalation events saved with it (17
R319); `saveTo` the CTXS that waits for its save. -/
structure Gang where
  gid : Word
  grid : Nat
  index : Nat
  fld : Nat
  lrec : LaunchRec
  consts : List Word
  blocks : List Block
  partner : Option Nat
  status : GangState
  saveLine : Nat
  dieMask : Word
  saveOrder : Nat
  saveTo : Option SaveTo
  events : List EscEvent
  portHalt : Bool
  deadline : Nat
  mgmt : Bool
deriving DecidableEq, Repr

/-- A native image that the device wrote (23 R410): its header's GID and time, and the gang in it (log 7). -/
structure SavedImage where
  gid : Word
  lo : Word
  hi : Word
  gang : Gang
deriving DecidableEq, Repr

/-- A grid: its record, queue, counts and error reason (04 R59, R63, 26 R443). -/
structure Grid where
  id : Nat
  fld : Nat
  q : Nat
  prio : Int
  lrec : LaunchRec
  recAddr : Word
  consts : List Word
  deps : List Bool
  placed : Nat
  finished : Nat
  reason : Nat
  ended : Bool
  armed : Bool
  gridDone : Bool
deriving DecidableEq, Repr

/-- A generation of a slot: its GEN value, its issue count, its code while held, its maps, and, once its code is freed, the
gangs for whose sake its return map is kept (03 R55, R57, 10 R180, 23 R415). -/
structure Gener where
  gen : Int
  count : Nat
  held : Bool
  tr : Translation
  users : List Word
deriving DecidableEq, Repr

/-- A code object slot: state 0 empty, 1 loading, 2 loaded, 3 fallow (03 R52); its stored words; its generations, newest
last. -/
structure Slot where
  slot : Int
  state : Nat
  words : List Word
  gens : List Gener
deriving DecidableEq, Repr

/-- A launch queue of a field (04 R65 to R67): base, whether armed (1), faulted (−1) or disarmed (0), CAP, QPRIO, MODE,
and the record number of the next record to take. -/
structure Queue where
  base : Word
  st : Int
  cap : Nat
  prio : Int
  mode : Int
  head : Word
  by_ : Int
deriving DecidableEq, Repr

/-- A tile handle index: its generation, state (0 free, 1 live, 2 fallow) and descriptor (16 R269, R271). -/
structure TileIdx where
  idx : Int
  gen : Int
  state : Nat
  desc : List Word
deriving DecidableEq, Repr

/-- An allocation of the private pool: GID and block, or a save area (block 8), and its lines (05 R86, 24 R427). -/
structure PoolAlloc where
  gid : Word
  blk : Nat
  lines : List Nat
deriving DecidableEq, Repr

/-- The head gang's reservation (05 R89): grid or saved gang, target cores, time it became head, barred. -/
structure HeadRes where
  saved : Bool
  id : Word
  prio : Int
  target : List Nat
  since : Nat
  barred : Bool
deriving DecidableEq, Repr

/-- A field (24 and the rules named at each record). -/
structure FieldSt where
  ptroot : Word
  slots : List Slot
  keys : List (Nat × List Word)
  minver : Word
  queues : List Queue
  fcause : Int
  fq : Int
  rr : List Nat
  fltol : Word
  ppbase : Word
  ppsize : Word
  pool : List PoolAlloc
  tiles : List TileIdx
  serial : Nat
  head : Option HeadRes
  issueCount : Nat
deriving DecidableEq, Repr

/-- A cached copy of a line in an L1 or an RDC: the line's first tryte, its 27 trytes, and its CACHE hint
(13 R232, R233, R238). -/
structure Copy where
  line : Loc
  data : List Tryte
  hint : Int
deriving DecidableEq, Repr

/-- A cached leaf or pointer of a TLB (12 R222): field, level it maps at, its unit's number, the entry. -/
structure TlbEntry where
  fld : Nat
  level : Nat
  unit : Int
  entry : Word
deriving DecidableEq, Repr

/-- A core: BSCAP's SDIE and USE trits, L1, the L1 order of accesses that left their FIFOs, the escalation queue, the
core TLB (05 R81, 13 R232, 19 R343, 17 R316, 12 R222); `units` gives the non-pipelined units in use, each with the cycle of
its die up to which it is busy (08 Table 8.0, 09 Table 9.0). -/
structure Core where
  sdie : Trit
  fused : Bool
  l1 : List Copy
  order : List MemOp
  escq : List EscEvent
  tlb : List TlbEntry
  units : List (Nat × Nat)
deriving DecidableEq, Repr

/-- An entry of a fault wait table (12 R225): field, fault unit (level, lowest address number), kind, generation, live. -/
structure WaitEntry where
  idx : Int
  gen : Int
  live : Bool
  fld : Nat
  level : Nat
  unit : Int
  kind : Int
deriving DecidableEq, Repr

/-- A compute die (`overflow`: the rows, 0, and commands, slot + 1, on its overflow entry; `freed`: an entry of its wait table has
been freed since those last issued again): service 0 none, 1 seedling, 2 full (01 R18, R19); HBM trit; clocks and trips; fallow state; RDC; fault
wait table; core cycles. -/
structure DieSt where
  service : Nat
  hbm : Int
  hot : Bool
  fallow : Nat
  waking : Bool
  idleSince : Nat
  rdc : List Copy
  waits : List WaitEntry
  overflow : List (RowRef × Nat)
  freed : Bool
  cyc : Nat
deriving DecidableEq, Repr

/-- A line held in L2: its home slice, whether dirty, the C trit of its last store, its hint, and the quad and
length of its present run of requests (13 R234 to R236). The pins of seedling service (01 R18) follow from the die's
service. -/
structure L2Line where
  line : Nat
  slice : Nat
  dirty : Bool
  c : Bool
  hint : Int
  quad : Nat
  run : Nat
deriving DecidableEq, Repr

/-- A tag line: 81 tag codes (as 3·high + low of 13 Table 13.3) and three constant slots (13 R241). -/
structure TagLine where
  group : Nat
  tags : List Int
  consts : List Word
deriving DecidableEq, Repr

/-- A flit that waits at its sender: KIND, CLS, TAG and the line of its payload (14 R247). -/
structure FlitReq where
  kind : Nat
  cls : Nat
  tag : Nat
  line : List Tryte
deriving DecidableEq, Repr

/-- One end of a die-to-die link (14 R248 to R251): LINKST's fields (`wid` keeps the last trained width: + 64 lanes, − 32),
the sequence numbers and the replay buffer, the SEQ that last failed its check and how often in succession, the flits
delivered and sent, for each class (request, response) the credits held and those to return, and the flits that wait to be
sent. -/
structure LinkEnd where
  state : Int
  wid : Int
  crce : Nat
  rply : Nat
  retr : Nat
  nextSeq : Nat
  expected : Nat
  acked : Nat
  buffer : List (Nat × List Nat)
  nakOut : Bool
  badSeq : Nat
  badRun : Nat
  delivered : List (List Nat)
  sent : List (List Nat)
  credits : Nat × Nat
  owed : Nat × Nat
  queue : List FlitReq
deriving DecidableEq, Repr

/-- Errors that strike stored trits or bytes (13 R239, R240; log 28): in a sector of HBM, or in that of a tag line, the masks by which some of its
bytes change; so many trits of one Hamming group of a line in an L1 or an RDC, or of a bank-store word of a block; of a line in
L2, with the trits' new values. -/
inductive Upset where
  | sector (line : Nat) (bytes : List (Nat × Nat))
  | tag (group : Nat) (bytes : List (Nat × Nat))
  | l1 (core : Nat) (line : Loc) (trits : Nat)
  | rdc (die : Nat) (line : Loc) (trits : Nat)
  | l2 (line : Nat) (trits : List (Nat × Int))
  | scratch (who : RowRef) (at_ : Nat) (trits : Nat)
deriving DecidableEq, Repr

/-- A peer's access to an export window (15 R267): what it does, the window, the offset in it, the trytes it loads, those it
stores, and an atomic's operands and element kind. -/
structure PeerAccess where
  kind : AccKind
  window : Nat
  off : Nat
  len : Nat
  data : List Tryte
  ops : List Word
  t9 : Bool
  sat : Bool
deriving DecidableEq, Repr

/-- What comes from outside the compute dies and has no row of the opcode table: the host's reads of registers and its writes
of any size (15 R263, R264), the firmware's write of word k of window i (01 R15), a flit for line n that sets out from a die
or at a Coluri port (14 R245, R247, 15 R265), a peer's access (15 R267). -/
inductive Outside where
  | hostRead (fn : Int) (off size : Nat)
  | hostWrite (fn : Int) (off size : Nat) (v : Int)
  | firmwareWindow (i k : Nat) (v : Word)
  | flit (die dst : Nat) (n : Int) (q : FlitReq)
  | portFlit (dst n : Int) (q : FlitReq)
  | peer (a : PeerAccess)
deriving DecidableEq, Repr

/-- What moves next (log 2): a device step, the issue of one row, an error in what is stored (log 28), what comes from
outside (log 116), or the host's accesses that a home holds, tried again behind the device accesses that a snoop held
(15 R260). -/
inductive Act where
  | event (i : Instr)
  | issue (r : RowRef)
  | upset (u : Upset)
  | outside (o : Outside)
  | held
deriving DecidableEq, Repr

/-- Host-state entry of a device line (15 R258, R260): 0 I, 1 S, 2 A; the snoop outstanding (0 none, 1 BISnpInv, 2
BISnpData); successive yields; whether a host read was granted while the snoop was outstanding; the device accesses that wait
for it, in arrival order, each with its step of issue. With no snoop outstanding those are accesses of several lines that
wait for another: the host gets at the line behind them (log 122). -/
structure HostLine where
  line : Nat
  st : Nat
  snoop : Nat
  yields : Nat
  again : Bool
  waiting : List (Act × Nat)
deriving DecidableEq, Repr

/-- A host access of a device line that is held (24 R420, 15 R258): a read with the state it asks for (0 I, 1 S, 2 A), or
a write of 64 bytes with MetaValue I or not. -/
inductive HostAcc where
  | read (line : Nat) (want : Nat)
  | write (line : Nat) (bytes : List Nat) (inv : Bool)
deriving DecidableEq, Repr

/-- Registers of one function (04 R73, 03 R52): CLBASE, CLSTAT's ST, OVR and SLOT, and the load in progress: its field,
slot and address. -/
structure FnRegs where
  clbase : Word
  st : Int
  ovr : Bool
  slot : Int
  loading : Option (Nat × Int × Word)
deriving DecidableEq, Repr

/-- Ownership of a resource: owner 0..11, −1 free, −2 scrub; PHASE (24 R419, R423). -/
structure Owner where
  owner : Int
  phase : Int
deriving DecidableEq, Repr

/-- A headland request in progress (24 R421, R424). -/
structure FieldReq where
  grow : Bool
  kind : Int
  die : Nat
  index : Nat
  fld : Nat
deriving DecidableEq, Repr

/-- A page on its way to another frame (12 R231, 24 R428): its frame and the new one, the virtual address and the entry of each
leaf of 3^9 trytes that named it, and the step at which their rights were lowered. -/
structure PageMove where
  frame : Nat
  to_ : Nat
  olds : List (Int × Word)
  since : Nat
deriving DecidableEq, Repr

/-- A level-barrier (20 R374, R375): its name, P and arrivals of the open instance, instances completed. -/
structure LevelBar where
  key : List Int
  p : Int
  cnt : Int
  done_ : Int
deriving DecidableEq, Repr

/-- An arrival at a collective instance: its row and index, and the source and destination that the descriptor gave it as it
arrived (18 R330, R331). -/
structure CollArrival where
  who : RowRef
  idx : Nat
  src : Int
  dst : Int
deriving DecidableEq, Repr

/-- A collective instance (18 R331): descriptor's physical line, its field and virtual address, kind, scope, place of the
first arrival, the nine words of the descriptor as that arrival read them, and the arrivals. -/
structure CollInst where
  line : Loc
  va : Word
  fld : Nat
  kind : Int
  scope : Int
  home : Nat
  desc : List Word
  arrived : List CollArrival
deriving DecidableEq, Repr

/-- A push from a home to one holder (16 R283): the line, the holder's block, and the write that waits for it: its row,
flag and stamp (16 R284). -/
structure PushMsg where
  line : Loc
  who : RowRef
  src : Option (RowRef × Nat × Nat)
deriving DecidableEq, Repr

/-- A recall or release under way (16 R280, R281): the holder, the handle, whether LOST is set, and the step at which it
began. -/
structure RecallMsg where
  who : RowRef
  handle : Word
  lost : Bool
  stamp : Nat
deriving DecidableEq, Repr

/-- A host window (15 R256). -/
structure Window where
  base : Word
  lim : Word
  ctl : Word
deriving DecidableEq, Repr

/-- An export window (15 R267). -/
structure Export where
  ctl : Word
  base : Word
deriving DecidableEq, Repr

/-- Firmware and root of trust (01 R16): 0 boot not done, 1 running, −1 recovery; the flash slot; the buffered image; the
image running; the fused security version; RECCTL; the current portable version (03 R51); the image that a rewrite of the slot
is writing, and whether the slot holds a part of an image. -/
structure Firmware where
  mode : Int
  flash : List Nat
  buffer : List Nat
  image : List Nat
  fused : Nat
  recctl : Int
  vc : Int
  rewriting : Option (List Nat)
  torn : Bool
deriving DecidableEq, Repr

/-- The host-visible registers that are plain words, the error log (15 Table 15.4, 23 Table 23.2a), what the device has
answered on the host link: SPDM responses, lines read, lines whose read carried poison (13 R240), BIConflicts that await their
BIConflictAck and those answered (15 R260), how often it has signalled the host (01 R14), the values of register reads (15
R263), and the answers to peers' accesses (15 R267): whether each was performed, and the trytes it returned. -/
structure HostRegs where
  pffield : Nat
  hlmode : Word
  linkMode : Word
  linkHalf : Bool
  ratecap : Word
  podctl : Word
  keycmd : Word
  keyadr : Word
  frst : Int
  frovr : Bool
  frqsel : Word
  eloghead : Nat
  elogtail : Word
  eloglost : Nat
  log : List (List Word)
  cecnt : List Nat
  vffield : List Int
  vfon : List Bool
  fns : List FnRegs
  windows : List Window
  exports : List Export
  spdm : List (List Nat)
  reads : List (List Nat)
  poison : List Nat
  conflicts : List Nat
  acks : List Nat
  signals : Nat
  values : List Nat
  answers : List (Bool × List Tryte)
deriving DecidableEq, Repr

/-- The state of the device. `agenda`, `steps` and `cur` are the model's own fields (log 2, 3), and so is
`images`: what the free words of native images stand for (log 7). `mem` is device memory as
the homes hold it, `sectors` the bytes of the HBM sectors that were written back (02 R42, 13 R243), by line number, `tagCache`
the tag lines that slices cache, by 256 × die + slice (13 R241); `tagHits` the sectors of tag lines that errors have struck, by
group (13 R239), `checks` the line checks that host writes supplied and that disagree, by line
number (02 R45); `sleepers` the device accesses that wait for a die to leave F3 (04 R75), in arrival order; `moving` the page that
a vacate is moving (24 R428, log 58); `reports` what the firmware on the management core is told: of the sower 1 a placement, 2 a
restore, 3 a save, 4 a retirement, each with its GID (23 R403), and 5 a new entry of a fault wait table with its token (12 R225,
log 120). -/
structure State where
  agenda : List Act
  steps : Nat
  cur : Option RowRef
  now : Nat
  fw : Firmware
  dies : List DieSt
  cores : List Core
  quadTlb : List (Nat × List TlbEntry)
  walker : List (Nat × List TlbEntry)
  fields : List FieldSt
  gangs : List Gang
  images : List SavedImage
  grids : List Grid
  mem : List (Nat × Tryte)
  hostMem : List Host.Cell
  peerMem : List (Nat × Tryte)
  failing : List Nat
  l2 : List L2Line
  forwards : List (Nat × Nat)
  tags : List TagLine
  tagCache : List (Nat × TagLine)
  tagHits : List (Nat × List Nat)
  sectors : List (Nat × List Nat)
  checks : List (Nat × List Nat)
  hostLines : List HostLine
  hostQueue : List HostAcc
  sleepers : List (Act × Nat)
  links : List (LinkEnd × LinkEnd)
  coluri : List LinkEnd
  host : HostRegs
  quads : List Owner
  groups : List Owner
  chans : List Owner
  freq : Option FieldReq
  moving : Option PageMove
  rehash : List (Nat × Nat)
  levelBars : List LevelBar
  colls : List CollInst
  tileIn : List TileReq
  tileQ : List TileReq
  pushes : List PushMsg
  recalls : List RecallMsg
  power : Bool
  halted : Bool
  mgmtCyc : Nat
  reports : List (Int × Word)
  turn : Nat
deriving DecidableEq, Repr

/-- fx with every flag clear. -/
def Fx.clear : Fx := ⟨false, false, false, false, false, false⟩

/-- Outside a handler every trap register reads 0 (10 R184, R192). -/
def Handler.off : Handler := ⟨false, [], 0, false, 0, false, 0, 0, 0, 0, 0⟩

/-- The location named by nothing. -/
def Loc.none_ : Loc := ⟨.hbm, 0⟩

/-- No watch (10 Table 10.4). -/
def Watch.off : Watch := ⟨false, false, 0, Loc.none_⟩

/-- An end of a link before training (14 Table 14.3 resets). -/
def LinkEnd.reset : LinkEnd := ⟨0, 0, 0, 0, 0, 0, 0, 4095, [], false, 0, 0, [], [], (243, 243), (0, 0), []⟩

/-- A field at device reset (04 R66, R71, R75, 03 R50; log 10, 17). -/
def FieldSt.reset : FieldSt :=
  { ptroot := 0, slots := [], keys := [], minver := 0
    queues := List.replicate 9 ⟨0, 0, 0, 0, 0, 0, -1⟩, fcause := 0, fq := 0, rr := [0, 0, 0]
    fltol := 0, ppbase := 0, ppsize := 0, pool := [], tiles := [], serial := 1, head := none, issueCount := 0 }

/-- A core at device reset (log 14). -/
def Core.reset : Core := ⟨.pos, false, [], [], [], [], []⟩

/-- A die at device reset: in no service (01 Table 1.5, R20; log 13). -/
def DieSt.reset : DieSt := ⟨0, 0, false, 0, false, 0, [], [], [], false, 0⟩

/-- Host-visible registers at device reset (15 Table 15.4, 04 Table 4.9; log 10). -/
def HostRegs.reset : HostRegs :=
  { pffield := 0, hlmode := 0, linkMode := 0, linkHalf := false, ratecap := 16, podctl := 0, keycmd := 0, keyadr := 0
    frst := 0, frovr := false, frqsel := 0, eloghead := 0, elogtail := 0, eloglost := 0
    log := List.replicate 729 [], cecnt := List.replicate 12 0
    vffield := List.replicate 128 (-1), vfon := List.replicate 128 false
    fns := List.replicate 129 ⟨0, 0, false, 0, none⟩
    windows := List.replicate 27 ⟨0, 0, 0⟩, exports := List.replicate 9 ⟨0, 0⟩, spdm := [], reads := [], poison := []
    conflicts := [], acks := [], signals := 0, values := [], answers := [] }

/-- The device right after reset: boot not done, every die in no service, field 0 the owner of every resource
(24 R419), nothing resident, memory with nothing listed; the flash slot empty and the portable version 0 (DESIGN CHOICE, log
12, 11: 01 R16 and 03 R51 give neither). -/
def State.reset : State :=
  { agenda := [], steps := 0, cur := none, now := 0
    fw := ⟨0, [], [], [], 0, 0, 0, none, false⟩
    dies := List.replicate 12 DieSt.reset
    cores := List.replicate 961 Core.reset
    quadTlb := [], walker := []
    fields := List.replicate 12 FieldSt.reset
    gangs := [], images := [], grids := []
    mem := [], hostMem := [], peerMem := [], failing := []
    l2 := [], forwards := [], tags := [], tagCache := [], tagHits := [], sectors := [], checks := [], hostLines := [], hostQueue := [], sleepers := []
    links := List.replicate 72 (LinkEnd.reset, LinkEnd.reset)
    coluri := List.replicate 18 LinkEnd.reset
    host := HostRegs.reset
    quads := List.replicate 240 ⟨0, 0⟩
    groups := List.replicate 192 ⟨0, 0⟩
    chans := List.replicate 384 ⟨0, 0⟩
    freq := none, moving := none, rehash := [], levelBars := [], colls := []
    tileIn := [], tileQ := [], pushes := [], recalls := []
    power := false, halted := false, mgmtCyc := 0, reports := [], turn := 0 }

end Sys2Proof.Machine
end

