-- ==== Sys2Proof/Machine/Ops.lean ====
section
/-!
DEFINITION. The operations every meaning shares: finding a row, reading and writing registers, the PC table, fetching,
the error log, taking a trap and leaving a handler.
-/
namespace Sys2Proof.Machine

/-! ### Lists keyed by a number, in one canonical form -/

/-- The value listed at a key, or the default. -/
def amGet {β : Type} (d : β) : List (Nat × β) → Nat → β
  | [], _ => d
  | (k, v) :: r, a => if k = a then v else amGet d r a

/-- Write a value at a key: keys stay strictly rising and no entry holds the default. -/
def amSet {β : Type} [DecidableEq β] (d : β) : List (Nat × β) → Nat → β → List (Nat × β)
  | [], a, v => if v = d then [] else [(a, v)]
  | (k, w) :: r, a, v =>
    if a < k then (if v = d then (k, w) :: r else (a, v) :: (k, w) :: r)
    else if a = k then (if v = d then r else (a, v) :: r)
    else (k, w) :: amSet d r a v

/-- Every key is above `lo`, keys rise strictly, and no entry holds the default. -/
def amWfFrom {β : Type} [DecidableEq β] (d : β) : Option Nat → List (Nat × β) → Bool
  | _, [] => true
  | lo, (k, v) :: r =>
    (match lo with | none => true | some l => decide (l < k)) && decide (v ≠ d) && amWfFrom d (some k) r

/-- The canonical form. -/
def amWf {β : Type} [DecidableEq β] (d : β) (m : List (Nat × β)) : Bool := amWfFrom d none m

/-- Insert a number into an ascending list without repeats. -/
def insNat (a : Nat) : List Nat → List Nat
  | [] => [a]
  | k :: r => if a < k then a :: k :: r else if a = k then k :: r else k :: insNat a r

/-- Replace the entry a predicate names, by its first place. -/
def modFirst {α : Type} (p : α → Bool) (f : α → α) : List α → List α
  | [] => []
  | x :: r => if p x then f x :: r else x :: modFirst p f r

/-- Drop the first entry a predicate names. -/
def dropFirst {α : Type} (p : α → Bool) : List α → List α
  | [] => []
  | x :: r => if p x then r else x :: dropFirst p r

/-- Change the entry at an index. -/
def modAt {α : Type} (l : List α) (i : Nat) (f : α → α) : List α :=
  match l, i with
  | [], _ => []
  | x :: r, 0 => f x :: r
  | x :: r, j + 1 => x :: modAt r j f

/-! ### The launch record's fields (04 Tables 4.1 to 4.4) -/

/-- Word k of a record. -/
def LaunchRec.w (l : LaunchRec) (k : Nat) : Int := wval (l.words.getD k 0)
def LaunchRec.hndl (l : LaunchRec) : Int := field (l.w 0) 0 10
def LaunchRec.entry (l : LaunchRec) : Int := field (l.w 0) 10 9
def LaunchRec.slot (l : LaunchRec) : Int := field (l.w 0) 19 5
def LaunchRec.gen (l : LaunchRec) : Int := field (l.w 0) 24 3
/-- Row width in threads. -/
def LaunchRec.width (l : LaunchRec) : Nat :=
  let t := trit (l.w 1) 0
  if t < 0 then 9 else if t = 0 then 27 else 81
def LaunchRec.rows (l : LaunchRec) : Nat := (field (l.w 1) 1 5).toNat
def LaunchRec.blks (l : LaunchRec) : Nat := (field (l.w 1) 6 3).toNat
def LaunchRec.span (l : LaunchRec) : Int := trit (l.w 1) 9
def LaunchRec.strad (l : LaunchRec) : Int := trit (l.w 1) 10
def LaunchRec.order (l : LaunchRec) : Int := trit (l.w 1) 11
def LaunchRec.prio (l : LaunchRec) : Int := trit (l.w 1) 12
def LaunchRec.vreg (l : LaunchRec) : Nat := (field (l.w 2) 0 7).toNat
def LaunchRec.sreg (l : LaunchRec) : Nat := (field (l.w 2) 7 5).toNat
def LaunchRec.priv (l : LaunchRec) : Nat := (field (l.w 2) 12 9).toNat
def LaunchRec.scr (l : LaunchRec) : Nat := (l.w 3).toNat
def LaunchRec.gangs (l : LaunchRec) : Nat := (l.w 4).toNat
def LaunchRec.clen (l : LaunchRec) : Nat := (l.w 6).toNat
/-- The row register block B of 05 R82, in words. -/
def LaunchRec.block (l : LaunchRec) : Nat :=
  9 * ((l.width * (l.vreg + 1) + l.sreg + 8) / 9)
/-- The bank-store demand D of one block (05 R82). -/
def LaunchRec.demand (l : LaunchRec) : Nat := l.rows * l.block + l.scr

/-! ### Code addresses (03 Table 3.5) -/

def CodeAddr.toWord (a : CodeAddr) : Word := word (a.gen * 3 ^ 24 + a.slot * 3 ^ 19 + a.idx)
def CodeAddr.ofWord (w : Word) : CodeAddr :=
  ⟨field (wval w) 24 3, field (wval w) 19 5, field (wval w) 0 19⟩
def CodeAddr.plus (a : CodeAddr) (n : Int) : CodeAddr := { a with idx := a.idx + n }

/-! ### Rows -/

def State.fieldSt (s : State) (f : Nat) : FieldSt := s.fields.getD f FieldSt.reset
def State.core (s : State) (c : Nat) : Core := s.cores.getD c Core.reset
def State.die (s : State) (d : Nat) : DieSt := s.dies.getD d DieSt.reset
/-- The cycle count of the die a core stands on: the management core counts its own (10 R187). -/
def State.cycOf (s : State) (core : Nat) : Nat := if core = 960 then s.mgmtCyc else (s.die (core / 80)).cyc
def State.modField (s : State) (f : Nat) (g : FieldSt → FieldSt) : State :=
  { s with fields := modAt s.fields f g }
def State.modCore (s : State) (c : Nat) (g : Core → Core) : State := { s with cores := modAt s.cores c g }
def State.modDie (s : State) (d : Nat) (g : DieSt → DieSt) : State := { s with dies := modAt s.dies d g }

def State.gang? (s : State) (gid : Word) : Option Gang := s.gangs.find? (fun g => g.gid == gid)
def Gang.block? (g : Gang) (b : Nat) : Option Block := g.blocks.find? (fun x => x.blk == b)
def Block.row? (b : Block) (r : Nat) : Option Row := b.rows.find? (fun x => x.row == r)

def State.modGang (s : State) (gid : Word) (f : Gang → Gang) : State :=
  { s with gangs := modFirst (fun g => g.gid == gid) f s.gangs }
def Gang.modBlock (g : Gang) (b : Nat) (f : Block → Block) : Gang :=
  { g with blocks := modFirst (fun x => x.blk == b) f g.blocks }
def Block.modRow (b : Block) (r : Nat) (f : Row → Row) : Block :=
  { b with rows := modFirst (fun x => x.row == r) f b.rows }
def State.modBlock (s : State) (r : RowRef) (f : Block → Block) : State :=
  s.modGang r.gid (fun g => g.modBlock r.blk f)
def State.modRow (s : State) (r : RowRef) (f : Row → Row) : State :=
  s.modBlock r (fun b => b.modRow r.row f)
def State.block? (s : State) (r : RowRef) : Option Block := (s.gang? r.gid).bind (fun g => g.block? r.blk)
def State.row? (s : State) (r : RowRef) : Option Row := (s.block? r).bind (fun b => b.row? r.row)
def State.modGrid (s : State) (i : Nat) (f : Grid → Grid) : State :=
  { s with grids := modFirst (fun g => g.id == i) f s.grids }

/-- Every row of the device, with its place. -/
def State.allRows (s : State) : List (RowRef × Gang × Block × Row) :=
  s.gangs.flatMap (fun g => g.blocks.flatMap (fun b => b.rows.map (fun r => (⟨g.gid, b.blk, r.row⟩, g, b, r))))

/-- The issuing row with everything an instruction reads of its place: `e` is the head group's entry and `k` the number
of prefix words already issued for it (06 R104). -/
structure Ctx where
  ref : RowRef
  g : Gang
  b : Block
  r : Row
  e : PcEntry
  k : Nat
deriving DecidableEq, Repr

/-- Row width. -/
def Ctx.w (c : Ctx) : Nat := c.g.lrec.width
/-- The active threads (07 R117). -/
def Ctx.act (c : Ctx) : List Nat := c.e.threads
/-- Whether the head group runs portable code (06 R110). -/
def Ctx.gen0 (c : Ctx) : Bool := c.e.addr.gen == 0
/-- The address of the instruction itself, after its prefixes. -/
def Ctx.ia (c : Ctx) : CodeAddr := c.e.addr.plus c.k
/-- The words of the clause still to issue, counting the instruction. -/
def Ctx.rem (c : Ctx) : Nat := c.e.rem - c.k
def Ctx.fld (c : Ctx) : Nat := c.g.fld
def Ctx.core (c : Ctx) : Nat := c.b.core
def Ctx.die (c : Ctx) : Nat := c.b.core / 80

def Prefix.count (p : Option Prefix) : Nat :=
  match p with
  | none => 0
  | some p => (if p.imm.isSome then 1 else 0) + (if p.modh.isSome then 1 else 0)

/-- The threads of the groups parked at an address by SLEEP or a synchronising scratch instruction (07 R119). -/
def Row.parkedAt (r : Row) (a : CodeAddr) : List Nat :=
  (r.parks.filter (fun o => o.pos == a)).flatMap (·.group) ++ (r.sleeps.filter (fun z => z.pos == a)).flatMap (·.group) ++
    (r.parks.filter (·.stuck)).flatMap (·.owners)

/-- The threads of an entry that are not parked there. -/
def Row.awake (r : Row) (e : PcEntry) : PcEntry :=
  if e.park then e else { e with threads := e.threads.filter (fun t => !(r.parkedAt e.addr).contains t) }

/-- Whether an entry may be chosen: not parked, and inside a handler only threads that entered it (23 R400). -/
def entryOpen (r : Row) (e : PcEntry) : Bool :=
  !e.park && (!r.handler.active || e.threads.all (fun t => r.handler.members.contains t))

/-- The head group of the procedure choose_head (07 R117). -/
def firstHead (r : Row) : Option PcEntry :=
  let es := (r.pct.map r.awake).filter (entryOpen r)
  match es.find? (fun e => !e.mark) with
  | some e => some e
  | none => es.head?

/-- The head group: one that waits or has issued a prefix stays the head (07 R117, 06 R104). -/
def chooseHead (r : Row) : Option PcEntry :=
  match (r.pfx.map (·.start)).orElse (fun _ => r.head) with
  | some a => ((r.pct.map r.awake).find? (fun e => e.addr == a && entryOpen r e)).orElse (fun _ => firstHead r)
  | none => firstHead r

/-- The head group is chosen (07 R117). -/
def Row.choose (r : Row) : Row := { r with head := (firstHead r).map (·.addr) }

/-- The context of a row's group that a choice of entry picks. -/
def State.ctxBy (s : State) (rr : RowRef) (pick : Row → Option PcEntry) : Option Ctx :=
  match s.gang? rr.gid with
  | none => none
  | some g =>
    match g.block? rr.blk with
    | none => none
    | some b =>
      match b.row? rr.row with
      | none => none
      | some r =>
        match pick r with
        | none => none
        | some e => some ⟨rr, g, b, r, e, Prefix.count r.pfx⟩

/-- The context of a row's head group. -/
def State.ctxOf (s : State) (rr : RowRef) : Option Ctx := s.ctxBy rr chooseHead
/-- The context of a row's group at an address. -/
def State.ctxAt (s : State) (rr : RowRef) (a : CodeAddr) : Option Ctx :=
  s.ctxBy rr (fun r => (r.pct.map r.awake).find? (fun e => e.addr == a))

/-- The issuing row's context. -/
def State.ctx? (s : State) : Option Ctx := s.cur.bind s.ctxOf

/-! ### Code (03 R52 to R57) -/

def State.slot? (s : State) (f : Nat) (n : Int) : Option Slot :=
  (s.fieldSt f).slots.find? (fun x => x.slot == n)
def State.gener? (s : State) (f : Nat) (slot gen : Int) : Option Gener :=
  match s.slot? f slot with
  | none => none
  | some sl => sl.gens.find? (fun g => g.gen == gen && g.held)
/-- The word at a code address; none outside the generation's code. -/
def State.codeWord (s : State) (f : Nat) (a : CodeAddr) : Option Word :=
  if a.idx < 0 then none else
  match s.gener? f a.slot a.gen with
  | none => none
  | some g => g.tr.words[a.idx.toNat]?
/-- The newest generation of a slot. -/
def Slot.current (sl : Slot) : Int := (sl.gens.getLast?.map (·.gen)).getD 0
/-- The issue count of a generation (07 R116): 0 for generation 0. -/
def State.age (s : State) (f : Nat) (a : CodeAddr) : Nat :=
  ((s.gener? f a.slot a.gen).map (·.count)).getD 0
/-- The opcode is HDR's (06 Table 6.9). -/
def isHeader (w : Word) : Bool := field (wval w) 21 6 == 0
/-- A control transfer may land there: a header, or in generation 0 any word of the code (06 R101, R110). -/
def State.canEnter (s : State) (f : Nat) (a : CodeAddr) : Bool :=
  match s.codeWord f a with
  | none => false
  | some w => a.gen == 0 || isHeader w

/-- The word at a context's instruction address: the trapping word of 23 R401. -/
def State.trapWord (s : State) (c : Ctx) : Word := (s.codeWord c.fld c.ia).getD 0

/-! ### Registers (06 R95, R110, 11 R204) -/

def Row.sreg (r : Row) (n : Nat) : Word := r.sregs.getD n 0
def Row.vreg (r : Row) (w n p : Nat) : Word := r.vregs.getD (w * n + p) 0
def Row.preg (r : Row) (w n p : Nat) : Word := r.pregs.getD (w * n + p) 0
def Row.setS (r : Row) (n : Nat) (v : Word) : Row := { r with sregs := r.sregs.set n v }
def Row.setV (r : Row) (w n p : Nat) (v : Word) : Row := { r with vregs := r.vregs.set (w * n + p) v }
def Row.setP (r : Row) (w n p : Nat) (v : Word) : Row := { r with pregs := r.pregs.set (w * n + p) v }
def Row.q (r : Row) (n p : Nat) : Trit := (r.qs.getD p []).getD n .zero
def Row.setQ (r : Row) (n p : Nat) (t : Trit) : Row := { r with qs := modAt r.qs p (fun l => l.set n t) }
def Row.fxOf (r : Row) (p : Nat) : Fx := r.fx.getD p Fx.clear
def Row.setFx (r : Row) (p : Nat) (x : Fx) : Row := { r with fx := r.fx.set p x }
def Row.flag (r : Row) (n : Nat) : Nat := if n = 0 then 0 else r.flags.getD (n - 1) 0
/-- Count an operation on a flag (07 R124); flag 0 counts nothing. -/
def Row.flagUp (r : Row) (n : Nat) : Row :=
  if n = 0 then r else { r with flags := modAt r.flags (n - 1) (· + 1) }
def Row.flagDown (r : Row) (n : Nat) : Row :=
  if n = 0 then r else { r with flags := modAt r.flags (n - 1) (· - 1) }

/-- Native register fields (06 R95). -/
def isVec (f : Int) : Bool := decide (0 ≤ f ∧ f ≤ 121)
def isSca (f : Int) : Bool := decide (-81 ≤ f ∧ f ≤ -1)
/-- A special that 06 Table 6.7 defines. -/
def isSpecial (f : Int) : Bool := decide (-97 ≤ f ∧ f ≤ -82)
/-- A thread-kind special: %tid, %lane. -/
def isThreadSpecial (f : Int) : Bool := f == -85 || f == -86
/-- A scalar register or a row-kind special (06 R96). -/
def isRowKind (f : Int) : Bool := isSca f || (isSpecial f && !isThreadSpecial f)

/-- The value of a special register (06 Table 6.7). -/
def special (c : Ctx) (f : Int) (p : Nat) : Int :=
  let l := c.g.lrec
  if f = -83 then 1
  else if f = -84 then -1
  else if f = -85 then ((c.ref.row * c.w + p : Nat) : Int)
  else if f = -86 then ((p % 27 : Nat) : Int)
  else if f = -87 then (c.ref.row : Int)
  else if f = -88 then (c.ref.blk : Int)
  else if f = -89 then (c.g.index : Int)
  else if f = -90 then (l.gangs : Int)
  else if f = -91 then (l.rows : Int)
  else if f = -92 then (l.blks : Int)
  else if f = -93 then (c.w : Int)
  else if f = -94 then ((c.core % 4 : Nat) : Int)
  else if f = -95 then ((c.core % 80 / 4 : Nat) : Int)
  else if f = -96 then ((c.core / 80 : Nat) : Int)
  else if f = -97 then (c.fld : Int)
  else 0

/-- The value a register field gives the thread at position p (06 R95; R110 in generation 0). -/
def rd (c : Ctx) (f : Int) (p : Nat) : Int :=
  if c.gen0 then wval (c.r.preg c.w (f + 121).toNat p)
  else if isVec f then wval (c.r.vreg c.w f.toNat p)
  else if isSca f then wval (c.r.sreg (-f - 1).toNat)
  else wrapT 27 (special c f p)

/-- The value a register field gives the row: that of the lowest active thread (06 R96). -/
def rdRow (c : Ctx) (f : Int) : Int := rd c f (c.act.headD 0)

/-- Write a thread's register in a row of width w; gen0 names the portable file. -/
def wrReg (gen0 : Bool) (w : Nat) (r : Row) (f : Int) (p : Nat) (v : Int) : Row :=
  if gen0 then r.setP w (f + 121).toNat p (word v)
  else if isVec f then r.setV w f.toNat p (word v)
  else if isSca f then r.setS (-f - 1).toNat (word v)
  else r

/-- Write the result of a per-row instruction: the scalar register, or in generation 0 the portable register of every
thread of the group (06 R98, R110). -/
def wrRow (gen0 : Bool) (w : Nat) (r : Row) (ts : List Nat) (f : Int) (v : Int) : Row :=
  if gen0 then ts.foldl (fun r p => wrReg true w r f p v) r else wrReg false w r f 0 v

/-- The field of the k-th successor of a register (10 R168 chain): vN to v(N+1), sN to s(N+1). -/
def succReg (gen0 : Bool) (f : Int) (k : Nat) : Int :=
  if gen0 then f + k else if isVec f then f + k else f - k

/-- A register field may be named (06 R95): allocated, or for a source a defined special. -/
def regOk (c : Ctx) (f : Int) (isDst : Bool) : Bool :=
  if c.gen0 then decide (-121 ≤ f ∧ f ≤ 121)
  else if isVec f then decide (f.toNat < c.g.lrec.vreg)
  else if isSca f then decide ((-f - 1).toNat < c.g.lrec.sreg)
  else !isDst && isSpecial f

/-- A register and its n − 1 successors may be named (09 R168). -/
def regsOk (c : Ctx) (f : Int) (n : Nat) (isDst : Bool) : Bool :=
  regOk c f isDst &&
    (n ≤ 1 || (if c.gen0 then decide (f + (n : Int) - 1 ≤ 121)
      else if isVec f then decide (f.toNat + n ≤ c.g.lrec.vreg)
      else if isSca f then decide ((-f - 1).toNat + n ≤ c.g.lrec.sreg)
      else true))

/-! ### The error log (23 R404) -/

/-- Location word of 23 Table 23.3 for a row. -/
def logPlace (core row : Nat) : Int :=
  (core / 80 : Nat) + (core % 80 / 4 : Nat) * 3 ^ 4 + (core % 4 : Nat) * 3 ^ 8 + row * 3 ^ 10

/-- Write a log record, or count it lost when HEAD − TAIL stands at 729. -/
def State.log (s : State) (kind : Int) (gid : Word) (place : Int) (pc info : Word) (line : Int) : State :=
  let h := s.host
  if (h.eloghead : Int) - wval h.elogtail ≥ 729 then { s with host := { h with eloglost := h.eloglost + 1 } }
  else
    let rec_ : List Word :=
      [word kind, gid, word place, pc, info, word line, word s.now,
        word (((s.now : Int) - wrapT 27 s.now) / 3 ^ 27), word h.eloghead]
    { s with host := { h with log := h.log.set (h.eloghead % 729) rec_, eloghead := h.eloghead + 1 } }

/-- A log record about the issuing row. -/
def State.logRow (s : State) (kind : Int) (r : RowRef) (pc info : Word) (line : Int) : State :=
  let core := ((s.block? r).map (·.core)).getD 0
  s.log kind r.gid (logPlace core r.row) pc info line

/-- A report to the firmware on the management core: of the sower (23 R403: 1 a placement, 2 a restore, 3 a save, 4 a
retirement, with the GID), or 5 a new entry of a fault wait table (12 R225), with its token. -/
def State.report (s : State) (what : Int) (gid : Word) : State := { s with reports := s.reports ++ [(what, gid)] }

/-! ### The end of a grid with an error (23 R402) -/

/-- PEER units that commands still in their slots have handed to the link: they are on their way (18 R327). -/
def EngSlot.sentUnits (x : EngSlot) : List PeerOut :=
  x.entries.filterMap (fun e => match e with
    | .cmd c => if c.sent.isEmpty then none else some ⟨c.sent, c.stamp⟩
    | .join _ => none)
/-- A row ended where it stands: what it had not started is dropped; PEER units on their way stay. -/
def Row.cut (r : Row) : Row :=
  { r with
    peers := r.peers ++ r.slots.flatMap EngSlot.sentUnits
    parks := r.parks.filter (fun o => o.group.isEmpty && !o.stuck)
    ended := true, pct := [], pfx := none, ahead := none, vs := [], fault := none, tlbis := [], sleeps := []
    passes := [], runs := []
    slots := r.slots.map (fun (x : EngSlot) => { x with entries := [] }) }

/-- A saved gang that is dropped (23 R412): its rows end, its blocks and tenures are gone. -/
def Gang.drop (g : Gang) : Gang :=
  { g with
    status := .retiring
    events := []
    blocks := g.blocks.map (fun (b : Block) =>
      { b with retired := true, bars := [], tenures := [], partials := [], rows := b.rows.map Row.cut }) }

/-- The gang has been saved and stands on no cores (16 R291). -/
def Gang.absent (g : Gang) : Bool := g.status == .saved || g.status == .restoring

/-- Every gang of the grid stops issuing and drains; saved gangs are dropped, with the tile requests they have queued (16
R281); gangs not placed are never placed. The
reason is that of the earliest event (26 Table 26.1). -/
def State.endGrid (s : State) (grid reason : Nat) : State :=
  let s := s.modGrid grid (fun g => { g with ended := true, reason := if g.reason = 0 then reason else g.reason })
  let stop (g : Gang) : Gang := if g.grid != grid then g else if g.absent then g.drop else { g with status := .retiring }
  let gone := (s.gangs.filter (fun g => g.grid == grid && g.absent)).map (·.gid)
  { s with gangs := s.gangs.map stop, tileQ := s.tileQ.filter (fun q => !gone.contains q.who.gid) }

/-! ### The PC table (07 R116 to R118) -/

/-- Merge two groups that meet at one address: a mark stays only if both carry it, where a parked group has no say, and
the entry is parked only if both are (07 R118, R120; log 26). -/
def joinEntry (x y : PcEntry) : PcEntry :=
  { x with
    threads := y.threads.foldl (fun l t => insNat t l) x.threads
    mark := (x.mark || x.park) && (y.mark || y.park) && !(x.park && y.park)
    park := x.park && y.park }

/-- Insert a group into a table ordered by age, then index. -/
def insEntry (age : CodeAddr → Nat) (n : PcEntry) : List PcEntry → List PcEntry
  | [] => [n]
  | e :: r =>
    if e.addr = n.addr then joinEntry e n :: r
    else if age n.addr < age e.addr ∨ (age n.addr = age e.addr ∧ n.addr.idx < e.addr.idx) then n :: e :: r
    else e :: insEntry age n r

/-- What stays of the head group's entry when its threads leave it: the groups parked there, and threads that have joined it
since, with which it is not parked. -/
def stayParked (parked : List Nat) (head : PcEntry) (pct : List PcEntry) : List PcEntry :=
  pct.filterMap (fun e =>
    if e.addr != head.addr then some e
    else
      let ts := e.threads.filter (fun t => !head.threads.contains t)
      if ts.isEmpty then none else some { e with threads := ts, park := ts.all parked.contains })

/-- The table after the head group's threads have moved, the other entries as they were (07 R118). -/
def regroup (age : CodeAddr → Nat) (parked : List Nat) (pct : List PcEntry) (head : PcEntry) (moves : List PcEntry) : List PcEntry :=
  moves.foldl (fun t m => if m.threads.isEmpty then t else insEntry age m t) (stayParked parked head pct)

/-- The table after the head group has issued: marks are cleared first, the head's entry is replaced by the groups its
threads move to, and the marks the instruction sets come with them (07 R117, R118). -/
def movePct (age : CodeAddr → Nat) (parked : List Nat) (pct : List PcEntry) (head : PcEntry) (moves : List PcEntry) : List PcEntry :=
  regroup age parked (pct.map (fun e => { e with mark := false })) head moves

/-- The head group at the word after the instruction. -/
def Ctx.next (c : Ctx) : PcEntry :=
  { c.e with addr := c.e.addr.plus ((c.k : Int) + 1), rem := c.e.rem - (c.k + 1), mark := false, park := false }

/-- Some of the head group's threads at the word after the instruction. -/
def Ctx.nextOf (c : Ctx) (ts : List Nat) : PcEntry := { c.next with threads := ts }

/-- Some of the head group's threads at the target of a transfer: the clause there is entered afresh. -/
def Ctx.goto (_c : Ctx) (ts : List Nat) (a : CodeAddr) : PcEntry := ⟨a, ts, false, false, 0, 0, 0⟩

/-- The row with a new PC table after its head group has moved: the next head is chosen, nothing waits. -/
def Row.moved (r : Row) (pct : List PcEntry) : Row :=
  Row.choose { r with pct := pct, pfx := none, wait := none, stall := 0 }

/-- The instruction has issued: its row as changed, its threads moved, the next head group chosen. -/
def State.issued (s : State) (c : Ctx) (r : Row) (moves : List PcEntry) : State :=
  s.modRow c.ref (fun _ => r.moved (movePct (s.age c.fld) (r.parkedAt c.e.addr) r.pct c.e moves))

/-- The instruction has issued and its group goes on to the next word. -/
def State.finish (s : State) (c : Ctx) (r : Row) : State := s.issued c r [c.next]

/-- The instruction does not issue yet: the row waits (07 R125), and STALL would report this (07 Table 7.3). -/
def State.hold (s : State) (c : Ctx) (kind : Int) (flag : Nat := 0) (slot : Int := 0) : State :=
  s.modRow c.ref (fun r => { r with wait := some { kind := kind, flag := flag, slot := slot }, head := some c.e.addr })

/-! ### Traps (23 R399 to R402, 10 R184) -/

/-- The code of a cause (10 Table 10.3). -/
def Cause.code : Cause → Int
  | .illop => 1 | .illmod => 2 | .unif => 3 | .align => 4 | .page => 5 | .prot => 6 | .data => 7
  | .stall => 8 | .esc => 9 | .trapi => 10

/-- What a failed check gives: the cause, TRAPINFO where a rule names a value of its own (otherwise the trapping word),
and TRAPPC where a rule names another address. -/
structure Trap where
  cause : Cause
  info : Option Int
  pc : Option CodeAddr
deriving DecidableEq, Repr

def Trap.illop : Trap := ⟨.illop, none, none⟩
def Trap.illmod : Trap := ⟨.illmod, none, none⟩

/-- Function n of the code a context runs, at its first word (03 R48, 23 R399). -/
def State.funcAddr (s : State) (c : Ctx) (n : Int) : CodeAddr :=
  let fs := ((s.gener? c.fld c.e.addr.slot c.e.addr.gen).map (fun g => g.tr.funcs)).getD []
  { c.e.addr with idx := fs.getD n.toNat 0 }

/-- The group of a trap moves. A word that traps has not issued, and the yield marks stay (07 R117, R119; log 94); TRAP and
BKPT have (`done_`). -/
def State.trapped (s : State) (c : Ctx) (r : Row) (done_ : Bool) (moves : List PcEntry) : State :=
  if done_ then s.issued c r moves
  else s.modRow c.ref (fun _ => r.moved (regroup (s.age c.fld) (r.parkedAt c.e.addr) r.pct c.e moves))

/-- Taking a trap (23 R399): fatal without a handler or inside one; otherwise TRAPPC, TRAPCAUSE, TRAPINFO and TRAPCLS
are written and the group continues at the handler's first word. `skip` words lie between TRAPPC and the resume
address, where the clause has `rem` words left. -/
def takeTrapAt (s : State) (c : Ctx) (cause : Cause) (info : Word) (pc : CodeAddr) (bk : Bool) (skip rem : Nat) : State :=
  if c.g.lrec.hndl < 0 ∨ c.r.handler.active then
    (s.logRow cause.code c.ref pc.toWord info 0).endGrid c.g.grid cause.code.toNat
  else
    let h : Handler := ⟨true, c.act, pc.toWord, false, cause.code, bk, info, rem, c.e.fa, c.e.fb, skip⟩
    s.trapped c { c.r with handler := h, ahead := none } (skip != 0) [c.goto c.act (s.funcAddr c c.g.lrec.hndl)]

/-- A trap taken before the instruction has any effect (06 R92). -/
def takeTrap (s : State) (c : Ctx) (t : Trap) : State :=
  let info := match t.info with | some x => word x | none => s.trapWord c
  takeTrapAt s c t.cause info (t.pc.getD c.e.addr) false 0 c.e.rem

/-- The resume address of the handler (10 R184). -/
def resumeAddr (h : Handler) : CodeAddr :=
  if h.pcWritten then CodeAddr.ofWord h.pc else (CodeAddr.ofWord h.pc).plus h.skip

/-- Leaving the handler (10 R184): the threads continue at the resume address in the clause state of TRAPCLS, in generation 0 in
none (06 R110); every trap register reads 0; a BARL whose place it does not go back to is waited for no more. -/
def leaveHandler (s : State) (c : Ctx) : State :=
  let h := c.r.handler
  let a := resumeAddr h
  s.issued c { c.r with handler := Handler.off, ahead := none, levels := c.r.levels.filter (fun v => v.pos == a) } [if a.gen = 0 then ⟨a, c.act, false, false, 0, 0, 0⟩ else ⟨a, c.act, false, false, h.rem, h.fa, h.fb⟩]

/-- Nothing of the row issues: it has ended, is parked on a page fault, or its gang is not running (07 R119, R125). -/
def Ctx.blocked (c : Ctx) : Bool := c.r.ended || c.r.fault.isSome || c.g.status != .resident

/-- An acquire of scope .quad or wider holds the issue of every later instruction of its row (19 R345). -/
def Row.acquiring (r : Row) : Bool := r.loads.any (fun o => decide (2 ≤ o.acq)) || r.busy.contains 1001

/-- The outcome of a meaning's checks and effect on the issuing row. Generation 0 issues a word only after every
register result of earlier words has been written (06 R110). -/
def withRow (s : State) (f : Ctx → Except Trap State) : Host.Outcome State Fault Refusal :=
  match s.ctx? with
  | none => .fault .noIssuingRow
  | some c =>
    if c.blocked then .next s
    else if c.r.acquiring then .next (s.hold c 15)
    else if c.gen0 && !c.r.busy.isEmpty then .next (s.hold c 11)
    else
      match f c with
      | .ok t => .next t
      | .error t => .next (takeTrap s c t)

end Sys2Proof.Machine
end

