-- ==== Sys2Proof/Machine/Place.lean ====
section
/-!
DEFINITION. A row, a block and a gang as placement leaves them (05 R85, 20 R367, 23 R403), and the operation that puts
one word where the next step fetches it (log 1).
-/
namespace Sys2Proof.Machine

/-- A row at placement: the entry point with every thread, everything else zero, empty or clear (05 R85, 07 R116). -/
def newRow (l : LaunchRec) (n : Nat) (entry : CodeAddr) : Row :=
  { row := n, pct := [⟨entry, List.range l.width, false, false, 0, 0, 0⟩], head := some entry, pfx := none
    sregs := List.replicate l.sreg 0, vregs := List.replicate (l.width * l.vreg) 0
    pregs := List.replicate (l.width * 243) 0
    qs := List.replicate l.width (List.replicate 9 .zero), fx := List.replicate l.width Fx.clear
    flags := List.replicate 12 0, busy := [], handler := Handler.off, watch := Watch.off
    escpol := 0, mxst := 0, sat := 0, zero := 0, ovf := 0, runs := []
    passes := [], quants := [], deqs := [], loads := [], fifo := [], fault := none, parks := [], rels := [], sleeps := []
    slots := List.replicate 9 ⟨[], none⟩, joins := 0, batches := 0, peers := [], fails := [], escDue := []
    escLost := [], arrivals := [], launches := [], tlbis := [], levels := [], wait := none, stall := 0, waitS := 0, waitV := 0, ahead := none, vs := []
    ended := false, held := false }

/-- A block at placement on a core: nine barriers that expect every row of the gang (20 R367). -/
def newBlock (l : LaunchRec) (blk core : Nat) (entry : CodeAddr) (priv : List Nat) : Block :=
  { blk := blk, core := core, rows := (List.range l.rows).map (fun r => newRow l r entry), scratch := []
    bars := List.replicate 9 ⟨l.rows * l.blks, 0, 0⟩, tenures := [], partials := [], bad := [], privLines := priv, retired := false }

/-! ### One word in reach of the next step (log 1) -/

/-- The launch record of the model's own one-row gang: a row of 9 threads, every register a field can name. -/
def probeRec : LaunchRec :=
  ⟨[word 0, word (-1 + 3 + 3 ^ 6), word (122 + 81 * 3 ^ 7), 0, 1, 0, 0, 0, 0]⟩

/-- The identifier of that gang: that of field 0's first gang. -/
def probeGid : Word := 1

/-- The words of the clause left at a word: none at a header, two at a prefix, one elsewhere (06 R100, R101, R104). -/
def probeRem (w : Word) : Nat :=
  let op := field (wval w) 21 6
  if op = 0 then 0 else if op = 1 ∨ op = 2 then 2 else 1

/-- The gang: one block on core 0 whose one row stands at word 0 of generation 1 of slot 0. -/
def probeGang (w : Word) : Gang :=
  let a : CodeAddr := ⟨1, 0, 0⟩
  let b := newBlock probeRec 0 0 a []
  { gid := probeGid, grid := 0, index := 0, fld := 0, lrec := probeRec, consts := []
    blocks := [{ b with rows := b.rows.map (fun r => { r with pct := [⟨a, List.range 9, false, false, probeRem w, 0, 0⟩] }) }]
    partner := none, status := .resident, saveLine := 0, dieMask := 0, saveOrder := 0, saveTo := none, events := []
    portHalt := false, deadline := 0, mgmt := false }

/-- The slot that holds the word alone. -/
def probeSlot (w : Word) : Slot := ⟨0, 2, [w], [⟨1, 1, true, ⟨[w], [0], [], []⟩, []⟩]⟩

/-- The other gangs, so that no choice on core 0 and no watchdog comes before the word: those on core 0 are left out, and the
watchdog counts of the rest begin again. -/
def besideProbe (gs : List Gang) : List Gang :=
  (gs.filter (fun g => g.gid != probeGid && g.blocks.all (fun b => b.core != 0))).map (fun g =>
    { g with blocks := g.blocks.map (fun b => { b with rows := b.rows.map (fun r => { r with stall := 0 }) }) })
/-- A state whose next step fetches and runs the word. -/
def State.probe (s : State) (w : Word) : State :=
  let s := s.modField 0 (fun f => { f with slots := probeSlot w :: f.slots.filter (fun x => x.slot != 0) })
  { s with gangs := probeGang w :: besideProbe s.gangs, agenda := [.issue ⟨probeGid, 0, 0⟩] }

end Sys2Proof.Machine
end

