-- ==== Sys2Proof/Machine/Flags.lean ====
section
/-!
DEFINITION. The sticky flags of fx (02 R33, R34) and the completion of an integer result, wrapped or saturated
(08 R132).
-/
namespace Sys2Proof.Machine

/-- The union of two sets of flags. -/
def Fx.union (x y : Fx) : Fx :=
  ⟨x.iv || y.iv, x.dz || y.dz, x.of || y.of, x.uf || y.uf, x.nx || y.nx, x.io || y.io⟩
def Fx.IV : Fx := { Fx.clear with iv := true }
def Fx.DZ : Fx := { Fx.clear with dz := true }
def Fx.IO : Fx := { Fx.clear with io := true }
def Fx.NX : Fx := { Fx.clear with nx := true }
/-- OF with NX, and UF with NX (02 Table 2.8). -/
def Fx.OFNX : Fx := { Fx.clear with of := true, nx := true }
def Fx.UFNX : Fx := { Fx.clear with uf := true, nx := true }
/-- A flag that a condition raises. -/
def Fx.cond (b : Bool) (x : Fx) : Fx := if b then x else Fx.clear

/-- Flag number i of Table 2.9. -/
def Fx.bit (x : Fx) (i : Nat) : Bool :=
  match i with
  | 0 => x.iv | 1 => x.dz | 2 => x.of | 3 => x.uf | 4 => x.nx | 5 => x.io | _ => false

/-- fx as the value of its six trits (02 Table 2.9). -/
def Fx.toInt (x : Fx) : Int :=
  let b (c : Bool) : Int := if c then 1 else 0
  b x.iv + 3 * b x.dz + 9 * b x.of + 27 * b x.uf + 81 * b x.nx + 243 * b x.io

/-- Keep the flags a predicate on their numbers selects. -/
def Fx.keep (x : Fx) (k : Nat → Bool) : Fx :=
  ⟨x.iv && k 0, x.dz && k 1, x.of && k 2, x.uf && k 3, x.nx && k 4, x.io && k 5⟩

/-- Raise flags in the fx of one thread (02 R34). -/
def Row.raise (r : Row) (p : Nat) (x : Fx) : Row := r.setFx p ((r.fxOf p).union x)

/-- Raise flags in the fx of several threads (08 R133). -/
def Row.raiseAll (r : Row) (ts : List Nat) (x : Fx) : Row := ts.foldl (fun r p => r.raise p x) r

/-- Complete an element's exact result (08 R132): sat to the element's range, raising IO when that changes it, or wrap
without a flag. -/
def complete (w : Nat) (sat : Bool) (e : Int) : Int × Fx :=
  if sat then (satT e (-(maxT w)) (maxT w), Fx.cond (decide (satT e (-(maxT w)) (maxT w) ≠ e)) Fx.IO)
  else (wrapT w e, Fx.clear)

/-- Element j of width w (08 R130). -/
def elem (x : Int) (w j : Nat) : Int := field x (w * j) w

/-- Build a result word from its elements, with the union of the flags raised (08 R130, 02 R34). -/
def build (w : Nat) (n : Nat) (f : Nat → Int × Fx) : Int × Fx :=
  (List.range n).foldl
    (fun acc j => (acc.1 + (f j).1 * 3 ^ (w * j), acc.2.union (f j).2)) (0, Fx.clear)

/-- The number of elements of width w in a word. -/
def elems (w : Nat) : Nat := if w = 9 then 3 else 1

/-- Apply an element operation to the words of an instruction. -/
def perElem (w : Nat) (f : Nat → Int × Fx) : Int × Fx := build w (elems w) f

end Sys2Proof.Machine
end

