-- ==== Sys2Proof/Machine/Operands.lean ====
section
/-!
DEFINITION. Operand forms every family shares: predicates (06 R97, R98), the MODH and IMM prefixes (06 R102 to R104),
the side an instruction runs on (06 R96), and the checks in the order of 06 R92.
-/
namespace Sys2Proof.Machine

/-! ### Predicates (06 R97) -/

def predSel (p : Int) : Int := field p 2 2
def predCode (p : Int) : Int := field p 0 2
/-- A condition code that Table 6.8a does not reserve. -/
def condOk (code : Int) : Bool := code != 4 && code != -4
/-- The condition of Table 6.8a on a trit's value. -/
def condHolds (code : Int) (t : Int) : Bool :=
  if code = -1 then decide (t < 0)
  else if code = 3 then decide (t = 0)
  else if code = 1 then decide (0 < t)
  else if code = 2 then decide (t ≤ 0)
  else if code = -2 then decide (0 ≤ t)
  else if code = -3 then decide (t ≠ 0)
  else true
/-- A predicate field that traps nothing: no reserved condition, and selector 0 under always. -/
def predOk (p : Int) : Bool := condOk (predCode p) && (predCode p != 0 || predSel p == 0)
/-- The condition of a predicate field for the thread at position t. -/
def predHolds (c : Ctx) (p : Int) (t : Nat) : Bool :=
  predCode p == 0 || condHolds (predCode p) (c.r.q (predSel p + 4).toNat t).toInt

/-- The active threads whose condition holds. -/
def Ctx.acting (c : Ctx) (p : Int) : List Nat := c.act.filter (predHolds c p)

/-! ### Prefixes (06 R102, R103) -/

/-- The fields of MODH (06 Table 6.13). -/
structure Mod where
  pred : Int
  ord : Int
  scope : Int
  cache : Int
  na : Int
  nb : Int
  nc : Int
  sat : Int
  rest : Int
deriving DecidableEq, Repr

def Mod.ofPay (x : Int) : Mod :=
  ⟨field x 17 4, field x 15 2, field x 12 3, field x 10 2, field x 9 1, field x 8 1, field x 7 1, field x 6 1,
    field x 0 6⟩

/-- MODH of the issuing instruction; without one, every field is 0. -/
def Ctx.mod (c : Ctx) : Mod :=
  match c.r.pfx with
  | some ⟨_, _, some m⟩ => Mod.ofPay m
  | _ => ⟨0, 0, 0, 0, 0, 0, 0, 0, 0⟩

/-- IMM's HI of the issuing instruction. -/
def Ctx.immHi (c : Ctx) : Option Int := c.r.pfx.bind (·.imm)

/-- The immediate a format B instruction sees (06 R102). -/
def Ctx.immVal (c : Ctx) (imm : Int) : Int :=
  match c.immHi with
  | none => imm
  | some hi => wrapT 27 (hi * 19683 + imm)

/-- What an instruction accepts from its prefixes. -/
structure Accept where
  imm : Bool := false
  p : Bool := false
  na : Bool := false
  nb : Bool := false
  nc : Bool := false
  sat : Bool := false
  cache : Bool := false
  scope : Bool := false
  ord : List Int := []
deriving DecidableEq, Repr

/-- No prefix at all is accepted. -/
def Accept.nothing : Accept := {}

/-- A trit that says no (0) or yes (+), and no unless accepted. -/
def yesOk (ok : Bool) (x : Int) : Bool := x == 0 || (ok && x == 1)

/-- No field of MODH is reserved, and none is nonzero unless accepted (06 R103). -/
def modOk (a : Accept) (m : Mod) : Bool :=
  predOk m.pred && (m.pred == 0 || a.p) && (m.ord == 0 || a.ord.contains m.ord) &&
    (m.scope == 0 || (a.scope && decide (1 ≤ m.scope ∧ m.scope ≤ 6))) &&
    (m.cache == 0 || (a.cache && (m.cache == 1 || m.cache == -1 || m.cache == 3))) &&
    yesOk a.na m.na && yesOk a.nb m.nb && yesOk a.nc m.nc && yesOk a.sat m.sat && m.rest == 0

/-- The prefixes of the issuing instruction are ones it accepts. -/
def pfxOk (a : Accept) (c : Ctx) : Bool := (a.imm || c.immHi.isNone) && modOk a c.mod

/-! ### Registers and sides (06 R95, R96) -/

/-- A use of a register field: the field, whether it is a destination, and how many successive registers. -/
structure Use where
  f : Int
  isDst : Bool
  n : Nat
deriving DecidableEq, Repr

def src (f : Int) : Use := ⟨f, false, 1⟩
def dst (f : Int) : Use := ⟨f, true, 1⟩

/-- The instruction runs once per row because its destination is scalar (06 R96); never in generation 0. -/
def rowSide (c : Ctx) (d : Int) : Bool := !c.gen0 && isSca d

/-- Sources of a per-row instruction in native code: scalar registers or row-kind specials (06 R96). -/
def rowSrcs (c : Ctx) (fs : List Int) : Bool := c.gen0 || fs.all isRowKind

/-- The register kinds of an instruction whose side follows its destination. -/
def sideOk (c : Ctx) (d : Int) (fs : List Int) : Bool := !rowSide c d || rowSrcs c fs

/-- A scalar destination, or any in generation 0. -/
def scaDst (c : Ctx) (d : Int) : Bool := c.gen0 || isSca d
/-- A vector destination, or any in generation 0. -/
def vecDst (c : Ctx) (d : Int) : Bool := c.gen0 || isVec d

/-- The row sources hold one value across the active threads in generation 0 (06 R110). -/
def uniform (c : Ctx) (fs : List Int) : Bool :=
  !c.gen0 || fs.all (fun f => c.act.all (fun p => rd c f p == rdRow c f))

/-! ### The checks (06 R92) -/

/-- Clause structure (06 R101): an instruction stands inside a clause, and a transfer is its last word. Generation 0
has no clauses (06 R110). -/
def clauseOk (c : Ctx) (transfer : Bool) : Bool :=
  c.gen0 || (decide (1 ≤ c.rem) && (!transfer || c.rem == 1))

/-- A check. -/
def need (b : Bool) (t : Trap) : Except Trap Unit := if b then .ok () else .error t

def Trap.prot (x : Int) : Trap := ⟨.prot, some x, none⟩
def Trap.align (x : Int) : Trap := ⟨.align, some x, none⟩
def Trap.data (x : Int) : Trap := ⟨.data, some x, none⟩
def Trap.unif (c : Ctx) (p : Int) : Trap := ⟨.unif, some ((c.acting p).length : Int), none⟩

/-- UNIF for a source that differs between threads (06 R110); DEDUCED (log 18): the count is of all active threads. -/
def Trap.nonUniform (c : Ctx) : Trap := ⟨.unif, some (c.act.length : Int), none⟩

/-! ### Matrix register groups (17 R297, R303, R307) -/

/-- Register field n of a group whose first register is numbered `first`. -/
def groupField (gen0 : Bool) (first : Int) (n : Nat) : Int := if gen0 then first + (n : Int) - 121 else first + n
/-- Registers of an A group of a form and K. -/
def aRegs (form k : Int) : Nat := (if form = 4 then k else k / 3).toNat
/-- The register fields of an A group. -/
def aFields (gen0 : Bool) (form k aa : Int) : List Int := (List.range (aRegs form k)).map (groupField gen0 aa)
/-- K of an operand word (17 Table 17.4), and the form of a ctl (17 Table 17.3). -/
def opK (w : Word) : Int := field (wval w) 16 6
def mxForm (ctl : Int) : Int := field ctl 0 2
/-- The fields locked by the row's runs. -/
def Row.locked (r : Row) : List Int := r.runs.flatMap (fun x => aFields x.gen0 x.form x.k x.aa)
/-- The fields of A groups that passes have still to read. -/
def Row.unread (r : Row) : List Int :=
  (r.passes.filter (fun p => !p.granted)).flatMap (fun p => aFields p.gen0 (mxForm p.ctl) (opK p.opw) p.aa)
/-- A write of a locked register traps ILLOP with the register field (17 R307). -/
def lockCheck (c : Ctx) (fs : List Int) : Except Trap Unit :=
  match fs.find? (fun f => c.r.locked.contains f) with
  | some f => .error ⟨.illop, some f, none⟩
  | none => .ok ()
/-- The register fields of a use. -/
def Use.fields (c : Ctx) (u : Use) : List Int := (List.range u.n).map (fun k => succReg c.gen0 u.f k)

/-- Checks 2 to 4 of 06 R92: clause structure, register fields, then every modifier, type, width, condition, field
value and unused field. The ILLOP of a write to a locked register (17 R307), which R92 does not place, comes after step 3
(DESIGN CHOICE, log 126). -/
def gate (c : Ctx) (transfer : Bool) (uses : List Use) (fields : Bool) (a : Accept) : Except Trap Unit := do
  need (clauseOk c transfer) Trap.illop
  need (uses.all (fun u => regsOk c u.f u.n u.isDst)) Trap.illop
  lockCheck c ((uses.filter (·.isDst)).flatMap (fun u => u.fields c))
  need (fields && pfxOk a c) Trap.illmod

/-- The condition of a per-row instruction (06 R98): whether it acts. A mixed condition traps UNIF. -/
def rowActs (c : Ctx) (p : Int) : Except Trap Bool :=
  if (c.acting p).length = c.act.length then .ok true
  else if c.acting p = [] then .ok false
  else .error (Trap.unif c p)

/-! ### Outstanding register writes (06 R100) -/

/-- The row's registers that a long-latency operation now owes. -/
def Row.owe (r : Row) (fs : List Int) : Row := { r with busy := r.busy ++ fs }
/-- The operation has written them. -/
def Row.paid (r : Row) (fs : List Int) : Row :=
  { r with busy := fs.foldl (fun l f => dropFirst (· == f) l) r.busy }

/-- An entry has its value. -/
def VsEntry.arrived (r : Row) : VsEntry → Bool
  | .value f => !r.busy.contains f
  | .outcome => true
/-- The entries that the scalar side has still to consume: it takes each in turn as soon as its value is there (07 R122). -/
def Row.vsLive (r : Row) : List VsEntry := r.vs.dropWhile (VsEntry.arrived r)

/-- Some register the instruction names is still to be written, or one it writes is still to be read by a pass
(17 R303); generation 0 waits for every outstanding result (06 R110). -/
def usesBusy (c : Ctx) (uses : List Use) : Bool :=
  (if c.gen0 then !c.r.busy.isEmpty
    else uses.any (fun u => (u.fields c).any (fun f => c.r.busy.contains f))) ||
    uses.any (fun u => u.isDst && (u.fields c).any (fun f => c.r.unread.contains f))

/-- The number under which an ATOM owes fx: a thread's fx is read only after every earlier ATOM has written its
result (20 R362). -/
def fxField : Int := 1000
/-- Some ATOM of the row still owes its flags. -/
def fxBusy (c : Ctx) : Bool := c.r.busy.contains fxField

/-- The number under which an ATOM with .acq holds the row's issue until it is complete (20 R363). -/
def acqField : Int := 1001

/-! ### Register-to-register instructions -/

/-- Write successive registers of one thread. -/
def wrRegs (gen0 : Bool) (w : Nat) (r : Row) (f : Int) (p : Nat) (vs : List Int) : Row :=
  (vs.foldl (fun (acc : Row × Nat) v => (wrReg gen0 w acc.1 (succReg gen0 f acc.2) p v, acc.2 + 1)) (r, 0)).1

/-- The operands of an instruction that computes from registers: destination, its number of words, the uses of its
sources, the sources a per-row form needs at row kind, predicate, field checks, prefixes accepted. -/
structure Alu where
  dst : Int
  n : Nat
  srcs : List Use
  pred : Int
  fields : Bool
  acc : Accept
deriving DecidableEq, Repr

/-- Checks 2 to 4 of R92 for such an instruction. -/
def aluGate (c : Ctx) (a : Alu) : Except Trap Unit :=
  gate c false (⟨a.dst, true, a.n⟩ :: a.srcs) (a.fields && sideOk c a.dst (a.srcs.map (·.f))) a.acc

/-- The result of a per-thread form: every acting thread gets what its own sources give, and raises its flags. -/
def perThread (c : Ctx) (d : Int) (pred : Int) (f : Nat → List Int × Fx) : Row :=
  (c.acting pred).foldl (fun r p => (wrRegs c.gen0 c.w r d p (f p).1).raise p (f p).2) c.r

/-- The result of a per-row form: the row's registers once, flags in every active thread (08 R133). -/
def perRow (c : Ctx) (d : Int) (f : Nat → List Int × Fx) : Row :=
  (wrRegs false c.w c.r d 0 (f (c.act.headD 0)).1).raiseAll c.act (f (c.act.headD 0)).2

/-- Run an instruction of classes +1 to +7 whose side follows its destination. -/
def alu (s : State) (c : Ctx) (a : Alu) (f : Nat → List Int × Fx) : Except Trap State := do
  aluGate c a
  if usesBusy c (⟨a.dst, true, a.n⟩ :: a.srcs) then .ok (s.hold c 11)
  else if rowSide c a.dst then
    let acts ← rowActs c a.pred
    .ok (s.finish c (if acts then perRow c a.dst f else c.r))
  else .ok (s.finish c (perThread c a.dst a.pred f))

/-- Type code of format C (06 R99) as an element width: 27 or 9. -/
def widthOfC (ty : Int) : Nat := if ty = 1 then 9 else 27
/-- Type code of formats A and B as an integer element width: .t9 or .t27. -/
def widthOfA (ty : Int) : Nat := if ty = 1 then 9 else 27

/-- A source word after MODH negation: every trit inverted (08 R132). -/
def negIf (n : Int) (x : Int) : Int := if n = 1 then -x else x

end Sys2Proof.Machine
end

