-- ==== Sys2Proof/Machine/Report.lean ====
section
/-!
DEFINITION. Reports that fall due at a header, a BWAIT or an EXIT: engine failures (18 R338), then escalations
(17 R317).
-/
namespace Sys2Proof.Machine

/-- Forget the row's unreported engine failures. -/
def Row.noFails (r : Row) : Row := { r with fails := [] }
/-- Forget the row's unreported events and losses. -/
def Row.noEsc (r : Row) : Row := { r with escDue := [], escLost := [] }

/-- TRAPINFO of ESC (17 Table 17.14): the row's unreported events still queued, and whether a loss was unreported. -/
def State.escInfo (s : State) (c : Ctx) : Word :=
  let n := (((s.core c.core).escq.filter (fun e => e.who == c.ref && e.fresh)).length : Int)
  word (n + (if c.r.escLost.isEmpty then 0 else 81))

/-- Every queued event of the row is reported. -/
def State.escReported (s : State) (c : Ctx) : State :=
  s.modCore c.core (fun k =>
    { k with escq := k.escq.map (fun e => if e.who = c.ref then { e with fresh := false } else e) })

/-- The trap for every unreported failure: the cause and address of the oldest. -/
def reportFails (s : State) (c : Ctx) (f : CmdFail) : State :=
  takeTrapAt s { c with r := c.r.noFails } f.cause f.info c.e.addr false 0 c.e.rem
/-- The trap for everything unreported of ESC. -/
def reportEsc (s : State) (c : Ctx) : State :=
  takeTrapAt (s.escReported c) { c with r := c.r.noEsc } .esc (s.escInfo c) c.e.addr false 0 c.e.rem

/-- The report due at a point: `fail` and `esc` say which failures and flags make one due there. Inside a handler none
falls due (23 R400). -/
def reportDue (s : State) (c : Ctx) (fail : CmdFail → Bool) (esc : Nat → Bool) : Option State :=
  if c.r.handler.active then none
  else if c.r.fails.any fail then (c.r.fails.head?).map (reportFails s c)
  else if c.r.escDue.any esc || c.r.escLost.any esc then some (reportEsc s c)
  else none

end Sys2Proof.Machine
end

