-- ==== Sys2Proof/Machine/Hints.lean ====
section
/-!
DEFINITION. Class 0: the hint words HDR, IMM, MODH, NOP and SAFE (06 R100 to R106), and words of no assigned opcode
(06 R91).
-/
namespace Sys2Proof.Machine

/-! ### HDR -/

def hdrLen (p : Int) : Int := field p 18 3
/-- The WAIT trit of flag i (06 R100). -/
def hdrWait (p : Int) (i : Nat) : Int := trit p (5 + i)
def hdrA (p : Int) : Int := field p 3 3
def hdrB (p : Int) : Int := field p 0 3
/-- The flags a header waits for, ascending. -/
def hdrWaits (p : Int) : List Nat := ((List.range 12).map (· + 1)).filter (fun i => hdrWait p i == 1)
/-- LEN, WAIT, A and B hold no reserved value. -/
def hdrOk (p : Int) : Bool :=
  decide (0 < hdrLen p) && ((List.range 12).map (· + 1)).all (fun i => hdrWait p i != -1) &&
    decide (0 ≤ hdrA p ∧ hdrA p ≤ 12 ∧ 0 ≤ hdrB p ∧ hdrB p ≤ 12)

/-- The group inside the clause of the header it stands at. -/
def Ctx.opened (c : Ctx) (p : Int) : PcEntry :=
  { c.next with rem := (hdrLen p).toNat, fa := (hdrA p).toNat, fb := (hdrB p).toNat }

/-- HDR (R100, R101, R317, R338). -/
def execHdr (f : FH) (s : State) : Host.Outcome State Fault Refusal :=
  withRow s (fun c => do
    need (!c.gen0 && c.e.rem == 0 && hdrLen f.pay != 0) Trap.illop
    need (hdrOk f.pay) Trap.illmod
    match (hdrWaits f.pay).find? (fun i => c.r.flag i != 0) with
    | some i => .ok (s.hold c 1 i)
    | none =>
      match reportDue s c (fun x => (hdrWaits f.pay).contains x.flag) (fun x => (hdrWaits f.pay).contains x) with
      | some t => .ok t
      | none => .ok (s.issued c c.r [c.opened f.pay]))

/-! ### Prefixes -/

/-- A prefix word: it is not the last of its clause, and may stand here (06 R104). The row keeps its head group. -/
def prefixWord (s : State) (may : Option Prefix → Bool) (p : CodeAddr → Option Prefix → Prefix) :
    Host.Outcome State Fault Refusal :=
  withRow s (fun c => do
    need (clauseOk c false) Trap.illop
    need (may c.r.pfx && (c.gen0 || decide (1 < c.rem))) Trap.illmod
    .ok (s.modRow c.ref (fun r => { r with pfx := some (p c.e.addr r.pfx), wait := none, stall := 0 })))

/-- IMM (R102): HI for the next format B instruction. -/
def execImm (f : FH) (s : State) : Host.Outcome State Fault Refusal :=
  prefixWord s (·.isNone) (fun a _ => ⟨a, some f.pay, none⟩)

/-- MODH (R103): alone, or after IMM. -/
def execModh (f : FH) (s : State) : Host.Outcome State Fault Refusal :=
  prefixWord s (fun p => match p with | none => true | some q => q.modh.isNone)
    (fun a p => ⟨a, p.bind (·.imm), some f.pay⟩)

/-- NOP (R105). -/
def execNop (f : FH) (s : State) : Host.Outcome State Fault Refusal :=
  withRow s (fun c => do
    gate c false [] (f.pay == 0 && c.r.pfx.isNone) {}
    .ok (s.finish c c.r))

/-! ### The register window (11 R204, R205) -/

/-- A thread's state word (11 Table 11.5). -/
def stateWord (r : Row) (p : Nat) : Int :=
  (List.range 9).foldl (fun acc i => acc + (r.q i p).toInt * 3 ^ i) 0 + (r.fxOf p).toInt * 3 ^ 9
/-- Write a thread's state word: a − in an FX trit as 0, reserved trits discarded. -/
def Row.setStateWord (r : Row) (p : Nat) (v : Int) : Row :=
  let r := { r with qs := r.qs.set p ((List.range 9).map (fun i => Trit.ofSign (trit v i))) }
  let b (i : Nat) : Bool := trit v (9 + i) == 1
  r.setFx p ⟨b 0, b 1, b 2, b 3, b 4, b 5⟩

/-- What word i of the row's register block is (11 Table 11.4). -/
inductive WindowWord where
  | sca (n : Nat) | vec (n p : Nat) | st (p : Nat) | pad
deriving DecidableEq, Repr

def windowWord (l : LaunchRec) (i : Nat) : WindowWord :=
  let w := l.width
  if i < l.sreg then .sca i
  else if i < l.sreg + w * l.vreg then .vec ((i - l.sreg) / w) ((i - l.sreg) % w)
  else if i < l.sreg + w * (l.vreg + 1) then .st ((i - l.sreg) % w)
  else .pad

/-- Read and write a word of the register block. -/
def Row.window (r : Row) (l : LaunchRec) (i : Nat) : Int :=
  match windowWord l i with
  | .sca n => wval (r.sreg n)
  | .vec n p => wval (r.vreg l.width n p)
  | .st p => stateWord r p
  | .pad => 0
def Row.setWindow (r : Row) (l : LaunchRec) (i : Nat) (v : Int) : Row :=
  match windowWord l i with
  | .sca n => r.setS n (word v)
  | .vec n p => r.setV l.width n p (word v)
  | .st p => r.setStateWord p v
  | .pad => r
/-- The register field a window word covers, for outstanding writes. -/
def windowField (l : LaunchRec) (i : Nat) : Option Int :=
  match windowWord l i with
  | .sca n => some (-(n : Int) - 1)
  | .vec n _ => some (n : Int)
  | _ => none

/-! ### SAFE and the swap of generations (03 R57, 06 R106) -/

/-- The value a place holds for a thread. -/
def placeVal (c : Ctx) (pr : Nat) (pl : Place) (t : Nat) : Word :=
  match pl with
  | .vec n => c.r.vreg c.w n t
  | .sca n => c.r.sreg n
  | .window a => word (c.r.window c.g.lrec (((a + 3 * (c.g.lrec.block : Int)) / 3).toNat))
  | .portable => c.r.preg c.w pr t
/-- Write a thread's value to a place. A window word is one word of the row, so that of the last thread stands (DESIGN
CHOICE, log 99: the spec does not say how a window place holds a value per thread). -/
def setPlace (c : Ctx) (r : Row) (pr : Nat) (pl : Place) (t : Nat) (v : Word) : Row :=
  match pl with
  | .vec n => r.setV c.w n t v
  | .sca n => r.setS n v
  | .window a => r.setWindow c.g.lrec (((a + 3 * (c.g.lrec.block : Int)) / 3).toNat) (wval v)
  | .portable => r.setP c.w pr t v

/-- Move every value live at a safe point from its place in one map to its place in another, for the group. -/
def movePlaces (c : Ctx) (old new : SafePoint) : Row :=
  new.places.foldl (fun r q =>
    match old.places.find? (fun x => x.1 == q.1) with
    | none => r
    | some o => c.act.foldl (fun r t => setPlace c r q.1 q.2 t (placeVal c q.1 o.2 t)) r) c.r

/-- The safe point of the slot's newer current generation for a portable safe point, with that generation. Where that
generation lists several SAFE words for it, the first listed (DESIGN CHOICE, log 102: R57 does not say which). -/
def State.swapTarget (s : State) (c : Ctx) (pt : Int) : Option (Int × SafePoint) :=
  match s.slot? c.fld c.e.addr.slot with
  | none => none
  | some sl =>
    match sl.gens.getLast? with
    | none => none
    | some g =>
      if g.gen = c.e.addr.gen ∨ !g.held then none
      else (g.tr.safe.find? (fun p => p.portable == pt)).map (fun p => (g.gen, p))

/-- The map of the safe point the group stands at: that of its own generation for this SAFE word; generation 0 keeps every
register in its own place (03 R57). -/
def State.ownMap (s : State) (c : Ctx) (new : SafePoint) : SafePoint :=
  if c.gen0 then { new with places := new.places.map (fun q => (q.1, .portable)) }
  else ((s.gener? c.fld c.e.addr.slot c.e.addr.gen).bind (fun g =>
    g.tr.safe.find? (fun p => p.stands == c.ia.idx && p.portable == new.portable))).getD { new with places := [] }

/-- The register field of a place. -/
def placeField (c : Ctx) (q : Nat × Place) : Option Int :=
  match q.2 with
  | .vec n => some n
  | .sca n => some (-(n : Int) - 1)
  | .window a => windowField c.g.lrec (((a + 3 * (c.g.lrec.block : Int)) / 3).toNat)
  | .portable => some ((q.1 : Int) - 121)

/-- A register the swap reads or overwrites is still to be written (06 R100), or one it overwrites is still to be read by a pass
(17 R303). -/
def swapBusy (c : Ctx) (old new : SafePoint) : Bool :=
  ((old.places ++ new.places).filterMap (placeField c)).any (fun f => c.r.busy.contains f) ||
    (new.places.filterMap (placeField c)).any (fun f => c.r.unread.contains f)

/-- The group enters the current generation at a safe point, if that generation maps it (03 R57); the swap waits for the
registers it moves (DEDUCED, log 119). -/
def State.swapAt (s : State) (c : Ctx) (pt : Int) : Option State :=
  match s.swapTarget c pt with
  | none => none
  | some (gen, new) =>
    let old := s.ownMap c new
    some (if swapBusy c old new then s.hold c 11
      else s.issued c { movePlaces c old new with ahead := none } [c.goto c.act ⟨gen, c.e.addr.slot, new.idx⟩])

/-- A group held for a portable halt stays parked at its safe point (23 R416). -/
def State.holdGroup (s : State) (c : Ctx) : State :=
  s.modRow c.ref (fun r =>
    Row.choose { r with held := true, pct := r.pct.map (fun e => if e.addr = c.e.addr then { e with park := true } else e) })

/-- What a group does at safe point `pt` before it issues further: it is held for a portable halt, or it swaps; otherwise
it goes on (none). -/
def State.atSafePoint (s : State) (c : Ctx) (pt : Int) : Option State :=
  if c.g.portHalt then some (s.holdGroup c) else s.swapAt c pt

/-- SAFE (R106). -/
def execSafe (f : FH) (s : State) : Host.Outcome State Fault Refusal :=
  withRow s (fun c => do
    need (!c.gen0 && clauseOk c false) Trap.illop
    need (decide (0 ≤ f.pay) && c.r.pfx.isNone) Trap.illmod
    .ok ((s.atSafePoint c f.pay).getD (s.finish c c.r)))

/-- In generation 0 a backward branch or a call site is a safe point: the one listed at its word (03 R57, 06 R110). -/
def State.atPortableSafePoint (s : State) (c : Ctx) : Option State :=
  if c.gen0 then
    ((s.gener? c.fld c.e.addr.slot 0).bind (fun g => g.tr.safe.find? (fun p => p.stands == c.ia.idx))).bind
      (fun p => s.atSafePoint c p.portable)
  else none

/-- A word of no assigned opcode traps ILLOP (R91, R92). -/
def execUnassignedOpcode (_w : Word) (s : State) : Host.Outcome State Fault Refusal :=
  withRow s (fun _ => .error Trap.illop)

end Sys2Proof.Machine
end

