-- ==== Sys2Proof/Machine/Packing.lean ====
section
/-!
DEFINITION. Lines: their places (13 R234, 15 R254), the line check (02 R46), and the packing of trits into bytes (02 R42, R43).
-/
namespace Sys2Proof.Machine

/-! ### Lines -/

/-- The location of the first tryte of the line that holds a location (00 Table 0.1). -/
def lineOf (l : Loc) : Loc := ⟨l.kind, 27 * (l.a / 27)⟩
/-- A tryte further up. -/
def locAt (l : Loc) (n : Nat) : Loc := ⟨l.kind, l.a + n⟩
/-- The compute die of an HBM address (13 R234). -/
def hbmDie (a : Nat) : Nat := a / 3 ^ 26
/-- The offset within the die. -/
def hbmOff (a : Nat) : Nat := a % 3 ^ 26
/-- The line index n on its die. -/
def lineIdx (a : Nat) : Nat := hbmOff a / 27
/-- Lines of one die's stack: 10^9 (13 R234). -/
def dieLines : Nat := 1000000000
/-- The channel, as die × 32 + channel on the die. -/
def chanOf (a : Nat) : Nat := 32 * hbmDie a + lineIdx a / 729 % 32
/-- The HBM address exists. -/
def hbmExists (a : Nat) : Bool := decide (hbmDie a < 12 ∧ lineIdx a < dieLines)

/-- The line number L of a device line: die × 10^9 + n. -/
def lineNo (l : Loc) : Nat := hbmDie l.a * dieLines + lineIdx l.a
/-- The device line of a number. -/
def lineAddr (n : Nat) : Loc := ⟨.hbm, n / dieLines * 3 ^ 26 + 27 * (n % dieLines)⟩
/-! ### Words of a line (00 R5) -/

/-- The word of three trytes (00 R5). -/
def wordFrom (a b c : Tryte) : Word := word (tval a + 19683 * tval b + 387420489 * tval c)
/-- The trytes of a word, lowest first. -/
def tryteOfWord (w : Word) (k : Nat) : Tryte := tryte (elem (wval w) 9 k)
/-- Words of a line. -/
def lineWords (d : List Tryte) : List Word :=
  (List.range 9).map (fun j => wordFrom (d.getD (3 * j) 0) (d.getD (3 * j + 1) 0) (d.getD (3 * j + 2) 0))

/-! ### The line check (02 R46) -/

/-- One step of the division by g: x^18 ≡ −x^11 + x^4 − x + 1. -/
def checkStep (r : List Int) (d : Int) : List Int :=
  let fb := wrapT 1 (r.getD 17 0 + d)
  (List.range 18).map (fun i =>
    let low := if i = 0 then 0 else r.getD (i - 1) 0
    let c : Int := if i = 0 then 1 else if i = 1 then -1 else if i = 4 then 1 else if i = 11 then -1 else 0
    wrapT 1 (low + c * fb))
/-- The 18 check trits of a line's 243 trits, t0 first. -/
def lineCheck (ts : List Int) : List Int := ts.reverse.foldl checkStep (List.replicate 18 0)

/-- The trits of trytes, t0 first. -/
def tritsOf (d : List Tryte) : List Int := d.flatMap (fun t => (List.range 9).map (trit (tval t)))
/-- A tryte from nine trits. -/
def tryteOf (ts : List Int) : Tryte := tryte ((List.range 9).foldl (fun acc i => acc + ts.getD i 0 * 3 ^ i) 0)

/-! ### Packing (02 R42, Table 2.12) -/

/-- A byte from up to five trits. -/
def packByte (ts : List Int) : Nat :=
  ((List.range ts.length).foldl (fun acc j => acc + (ts.getD j 0 + 1) * 3 ^ j) 0).toNat
/-- Trit j of a byte. -/
def unpackTrit (b j : Nat) : Int := ((b / 3 ^ j % 3 : Nat) : Int) - 1
/-- Groups of five trits, then the rest. -/
def packTrits : Nat → List Int → List Nat
  | 0, _ => []
  | n + 1, ts => packByte (ts.take 5) :: packTrits n (ts.drop 5)

/-- Bytes 0–48 of a line. -/
def packData (d : List Tryte) : List Nat := packTrits 49 (tritsOf d)
/-- Bytes 49–52: the check. -/
def packCheck (c : List Int) : List Nat := packTrits 4 c
/-- The 64 bytes a device writes in the host's line view (15 R255): data, check, metadata 0x04, zeros. -/
def packLine (d : List Tryte) : List Nat :=
  packData d ++ packCheck (lineCheck (tritsOf d)) ++ [4] ++ List.replicate 10 0

/-- The largest value of byte i that Table 2.12 allows in the data and check bytes. -/
def byteMax (i : Nat) : Nat := if i = 48 ∨ i = 52 then 26 else 242
/-- Trits of bytes, five to a byte; a byte that does not decode gives zeros (02 R45). -/
def unpackBytes (first : Nat) (bs : List Nat) (n : Nat) : List Int :=
  (List.range n).map (fun t =>
    let i := t / 5
    let b := bs.getD i 0
    if b ≤ byteMax (first + i) then unpackTrit b (t % 5) else 0)
/-- The 27 trytes of bytes 0–48. -/
def unpackLine (bs : List Nat) : List Tryte :=
  let ts := unpackBytes 0 bs 243
  (List.range 27).map (fun k => tryteOf (ts.drop (9 * k)))
/-- Bytes first .. first + n − 1 hold only values the table allows. -/
def bytesOk (first : Nat) (bs : List Nat) (n : Nat) : Bool :=
  (List.range n).all (fun i => decide (bs.getD i 0 ≤ byteMax (first + i)))
/-- Bytes 49–52 are all 0xFF. -/
def noCheck (bs : List Nat) : Bool := (List.range 4).all (fun i => bs.getD (49 + i) 0 == 255)
/-- A 64-byte block of the line view whose bytes 0–52 are valid: data decodes, and the check is 0xFF four times, or
decodes and agrees (02 R45). -/
def blockOk (bs : List Nat) : Bool :=
  bytesOk 0 bs 49 && (noCheck bs ||
    (bytesOk 49 (bs.drop 49) 4 && unpackBytes 49 (bs.drop 49) 18 == lineCheck (unpackBytes 0 bs 243)))

/-- The metadata byte is of packing version 1 with 0 in bits 7..5 (02 R43, Table 2.13). -/
def metaOk (b : Nat) : Bool := b / 4 == 1
/-- A block of host memory that the device reads in the line view holds a valid line (15 R255). -/
def hostBlockOk (bs : List Nat) : Bool := blockOk bs && metaOk (bs.getD 53 0)

end Sys2Proof.Machine
end

