-- ==== Sys2Proof/Machine/Sector.lean ====
section
/-!
DEFINITION. HBM below the L2: Reed–Solomon codes (02 R44, 13 R243), sectors and half sectors (02 R42, R43, 13 R243), tag lines
(13 R241), classification at write-back (13 R242), and what a read of a line from HBM gives (13 R239, R244).
-/
namespace Sys2Proof.Machine

/-! ### GF(2^8), with x^8 + x^4 + x^3 + x^2 + 1 (02 R44) -/

/-- The product with α. -/
def gfDouble (a : Nat) : Nat := if 2 * a < 256 then 2 * a else (2 * a) ^^^ 285
/-- The product, by the low n bits of the second factor. -/
def gfTimes : Nat → Nat → Nat → Nat
  | 0, _, _ => 0
  | n + 1, a, b => (if b % 2 = 1 then a else 0) ^^^ gfTimes n (gfDouble a) (b / 2)
def gfMul (a b : Nat) : Nat := gfTimes 8 a b
/-- α to a power. -/
def gfExp : Nat → Nat
  | 0 => 1
  | n + 1 => gfDouble (gfExp n)
/-- The inverse: the 254th power. -/
def gfInv (a : Nat) : Nat := (List.range 253).foldl (fun x _ => gfMul x a) a

/-- The value of a polynomial, highest coefficient first. -/
def gfEval (p : List Nat) (x : Nat) : Nat := p.foldl (fun a c => gfMul a x ^^^ c) 0
/-- Sums and products of polynomials, lowest coefficient first. -/
def gfAdd : List Nat → List Nat → List Nat
  | [], q => q
  | p, [] => p
  | a :: p, b :: q => (a ^^^ b) :: gfAdd p q
def gfScale (k : Nat) (p : List Nat) : List Nat := p.map (gfMul k)
def gfProduct : List Nat → List Nat → List Nat
  | [], _ => []
  | a :: p, q => gfAdd (gfScale a q) (0 :: gfProduct p q)

/-! ### Reed–Solomon codes: n check symbols, roots α^0 .. α^(n−1); the first byte is the highest power (log 108) -/

/-- The generator without its leading 1, highest coefficient first. -/
def rsGen (n : Nat) : List Nat := ((List.range n).foldl (fun g i => gfProduct [gfExp i, 1] g) [1]).reverse.tail
/-- The check symbols of data bytes. -/
def rsCheck (n : Nat) (data : List Nat) : List Nat :=
  let g := rsGen n
  data.foldl (fun r d => gfAdd (r.tail ++ [0]) (gfScale (d ^^^ r.headD 0) g)) (List.replicate n 0)
/-- The syndromes of a word. -/
def rsSyndromes (n : Nat) (ws : List Nat) : List Nat := (List.range n).map (fun j => gfEval ws (gfExp j))

/-- The state of the search for the shortest recurrence of the syndromes: the recurrence, the one before it, its length, the
shift and the discrepancy of the one before. -/
structure RsSearch where
  c : List Nat
  b : List Nat
  len : Nat
  shift : Nat
  last : Nat
deriving DecidableEq, Repr

/-- One step of the search. -/
def rsStep (syn : List Nat) (x : RsSearch) (n : Nat) : RsSearch :=
  let d := (List.range (x.len + 1)).foldl (fun a i => a ^^^ gfMul (x.c.getD i 0) (if i ≤ n then syn.getD (n - i) 0 else 0)) 0
  if d = 0 then { x with shift := x.shift + 1 }
  else
    let c := gfAdd x.c (List.replicate x.shift 0 ++ gfScale (gfMul d (gfInv x.last)) x.b)
    if 2 * x.len ≤ n then ⟨c, x.c, n + 1 - x.len, 1, d⟩ else { x with c := c, shift := x.shift + 1 }
/-- The locator of the bytes in error, lowest coefficient first, and their number. -/
def rsLocator (syn : List Nat) : List Nat × Nat :=
  let x := (List.range syn.length).foldl (rsStep syn) ⟨[1], [1], 0, 1, 1⟩
  (x.c, x.len)
/-- The error of the byte whose power is e. -/
def rsError (syn loc : List Nat) (e : Nat) : Nat :=
  let x := gfExp (255 - e)
  let val := (gfProduct syn loc).take syn.length
  let der := loc.zipIdx.tail.map (fun q => if q.2 % 2 = 1 then q.1 else 0)
  gfMul (gfExp e) (gfMul (gfEval val.reverse x) (gfInv (gfEval der.reverse x)))
/-- A word corrected of at most n ÷ 2 bytes in error, with their number; none when no such word is a code word. -/
def rsCorrect (n : Nat) (ws : List Nat) : Option (List Nat × Nat) :=
  let syn := rsSyndromes n ws
  if syn.all (· == 0) then some (ws, 0)
  else
    let q := rsLocator syn
    let hit := (List.range ws.length).filter (fun p => gfEval q.1.reverse (gfExp (255 - (ws.length - 1 - p))) == 0)
    let fix := hit.foldl (fun w p => w.set p (w.getD p 0 ^^^ rsError syn q.1 (ws.length - 1 - p))) ws
    if hit.length = q.2 ∧ q.2 ≤ n / 2 ∧ (rsSyndromes n fix).all (· == 0) then some (fix, q.2) else none

/-! ### Sectors (02 R42, R43) -/

/-- A sector with its ten check symbols. -/
def sectorOf (d : List Tryte) : List Nat :=
  let bs := (packLine d).take 54
  bs ++ rsCheck 10 bs
/-- The sector of a failing line: its check disagrees. It is the one that the host supplied (02 R45), or any. -/
def spoiltSector (d : List Tryte) (supplied : List Nat) : List Nat :=
  let spoilt := packCheck ((lineCheck (tritsOf d)).map (fun t => wrapT 1 (t + 1)))
  let bs := packData d ++ (if supplied.isEmpty then spoilt else supplied) ++ [4]
  bs ++ rsCheck 10 bs
/-- What a read of a sector gives: the line and how many bytes were corrected, or a line that no code repairs, as its bytes
decode. -/
inductive SectorRead where
  | good (d : List Tryte) (fixed : Nat)
  | bad (d : List Tryte)
deriving DecidableEq, Repr
/-- A full sector of class 0. -/
def readSector (bs : List Nat) : SectorRead :=
  match rsCorrect 10 bs with
  | none => .bad (unpackLine bs)
  | some (ws, n) => if blockOk ws && !noCheck ws && ws.getD 53 0 == 4 then .good (unpackLine ws) n else .bad (unpackLine ws)

/-! ### Half sectors (13 R243) -/

/-- b of a line: the integer nearest (max + min) ÷ 2, the tie toward zero (13 R242). -/
def deltaBase (ws : List Word) : Int :=
  let vs := ws.map wval
  Int.tdiv (vs.foldl Max.max (-(maxT 27)) + vs.foldl Min.min (maxT 27)) 2
/-- The trits of an integer, lowest first. -/
def tritList (n : Nat) (x : Int) : List Int := (List.range n).map (trit x)
/-- The value of trits, lowest first. -/
def valTrits (ts : List Int) : Int := ts.foldr (fun t a => t + 3 * a) 0
/-- The 32 bytes of a base-plus-delta line (Table 13.4). -/
def halfSectorOf (d : List Tryte) : List Nat :=
  let ws := lineWords d
  let b := deltaBase ws
  let payload := tritList 27 b ++ ws.flatMap (fun w => tritList 9 (wval w - b)) ++ [0, 0]
  let bs := packTrits 22 payload ++ packCheck (lineCheck (tritsOf d)) ++ [7]
  bs ++ rsCheck 5 bs
/-- The line that the payload of a half sector gives. -/
def unpackHalf (bs : List Nat) : List Tryte :=
  let ts := unpackBytes 0 bs 110
  let b := valTrits (ts.take 27)
  (List.range 9).flatMap (fun j =>
    let w := word (b + valTrits ((ts.drop (27 + 9 * j)).take 9))
    (List.range 3).map (tryteOfWord w))
/-- A half sector of class 3: its payload decodes, with 0 in trits 108 and 109 (log 108), its check agrees. -/
def readHalf (bs : List Nat) : SectorRead :=
  match rsCorrect 5 bs with
  | none => .bad (unpackHalf bs)
  | some (ws, n) =>
    let d := unpackHalf ws
    if bytesOk 0 ws 22 && (unpackBytes 0 ws 110).drop 108 == [0, 0] && bytesOk 49 (ws.drop 22) 4 &&
        unpackBytes 49 (ws.drop 22) 18 == lineCheck (tritsOf d) && ws.getD 26 0 == 7
    then .good d n else .bad d

/-! ### Tag lines (13 R241) -/

/-- Tag lines of one die: one for each group of 81 lines. -/
def dieGroups : Nat := 12345680
/-- The key of a line's group, and the line's place in it. -/
def groupOf (line : Nat) : Nat := line / dieLines * dieGroups + line % dieLines / 81
def placeOf (line : Nat) : Nat := line % dieLines % 81
/-- Tag codes (Table 13.3), as val of the two trits. -/
def tagZero : Int := -1
def tagFull : Int := 0
def tagDelta : Int := 1
/-- The tag of a line equal to constant slot k. -/
def tagConst (k : Nat) : Int := 2 + (k : Int)
/-- A tag line that was never written: zero lines, slots of 0 (log 5). -/
def emptyTags (g : Nat) : TagLine := ⟨g, List.replicate 81 tagZero, [0, 0, 0]⟩
/-- The 243 trits of a tag line: tag i in trits 2i + 1..2i, slot s in trits 188 + 27s..162 + 27s. -/
def TagLine.trits (t : TagLine) : List Int :=
  (List.range 81).flatMap (fun i => tritList 2 (t.tags.getD i 0)) ++
    (List.range 3).flatMap (fun k => tritList 27 (wval (t.consts.getD k 0)))
/-- The tag line of a group from its trits. -/
def TagLine.ofTrits (g : Nat) (ts : List Int) : TagLine :=
  ⟨g, (List.range 81).map (fun i => valTrits ((ts.drop (2 * i)).take 2)),
    (List.range 3).map (fun k => word (valTrits ((ts.drop (162 + 27 * k)).take 27)))⟩

/-- A slot is free when no tag of the group names it. -/
def TagLine.free (t : TagLine) (k : Nat) : Bool := !t.tags.contains (tagConst k)
/-- The lowest slot that holds a value or is free. -/
def TagLine.slotFor (t : TagLine) (v : Word) : Option Nat :=
  (List.range 3).find? (fun k => t.free k || t.consts.getD k 0 == v)
/-- The tag of a line's words, and the slot it takes (13 R242). -/
def TagLine.classify (t : TagLine) (c : Bool) (ws : List Word) : Int × Option Nat :=
  let v := ws.headD 0
  if !c then (tagFull, none)
  else if ws.all (· == 0) then (tagZero, none)
  else
    match (if ws.all (· == v) then t.slotFor v else none) with
    | some k => (tagConst k, some k)
    | none =>
      let b := deltaBase ws
      if ws.all (fun w => decide ((wval w - b).natAbs ≤ 9841)) then (tagDelta, none) else (tagFull, none)
/-- The tag line after the write-back of line i. -/
def TagLine.store (t : TagLine) (i : Nat) (c : Bool) (ws : List Word) : TagLine :=
  let x := t.classify c ws
  { t with
    tags := t.tags.set i x.1
    consts := match x.2 with | some k => t.consts.set k (ws.headD 0) | none => t.consts }
/-- The bytes that the write-back of a line of a tag writes: a full sector, a low half sector, or none. -/
def storedBytes (tag : Int) (d : List Tryte) (old : List Nat) : List Nat :=
  if tag = tagFull then sectorOf d else if tag = tagDelta then halfSectorOf d else old

/-! ### Tags and sectors of the device -/

/-- The tag line that was last written for a group. -/
def State.tagWritten (s : State) (g : Nat) : TagLine := (s.tags.find? (fun t => t.group == g)).getD (emptyTags g)
/-- The 27 trytes of a tag line. -/
def TagLine.trytes (t : TagLine) : List Tryte := (List.range 27).map (fun k => tryteOf (t.trits.drop (9 * k)))
/-- What HBM gives for a group's tag line, which is stored as any line is, in a full sector (13 R239; log 109). -/
def State.readTags (s : State) (g : Nat) : SectorRead :=
  match amGet [] s.tagHits g with
  | [] => .good (s.tagWritten g).trytes 0
  | bs => readSector bs
/-- The tag line that HBM holds for a group, as it decodes. -/
def State.tagLine (s : State) (g : Nat) : TagLine :=
  match amGet [] s.tagHits g with
  | [] => s.tagWritten g
  | bs => match readSector bs with
    | .good d _ => TagLine.ofTrits g (tritsOf d)
    | .bad d => TagLine.ofTrits g (tritsOf d)
/-- A tag line is written: in HBM, and in every slice that caches it (log 43). -/
def State.putTagLine (s : State) (t : TagLine) : State :=
  { s with
    tagHits := amSet [] s.tagHits t.group []
    tags := s.tags.filter (fun x => x.group != t.group) ++ (if t = emptyTags t.group then [] else [t])
    tagCache := s.tagCache.map (fun q => if q.2.group = t.group then (q.1, t) else q) }
/-- The tag line as a slice, 256 × die + slice, sees it: its cached copy, or HBM's. -/
def State.tagsAt (s : State) (slice g : Nat) : TagLine :=
  ((s.tagCache.find? (fun q => q.1 == slice && q.2.group == g)).map (·.2)).getD (s.tagLine g)
/-- A slice caches a tag line it has used: 81 of them, the longest unused first replaced. -/
def State.cacheTags (s : State) (slice g : Nat) : State :=
  let mine := s.tagCache.filter (fun q => q.1 == slice && q.2.group != g)
  { s with tagCache := s.tagCache.filter (fun q => q.1 != slice) ++ mine.drop (mine.length - 80) ++ [(slice, s.tagsAt slice g)] }
/-- No code repairs the tag line that a slice would have to read for a group: the slice caches none. -/
def State.tagLost (s : State) (slice g : Nat) : Bool :=
  !s.tagCache.any (fun q => q.1 == slice && q.2.group == g) &&
    match s.readTags g with
    | .bad _ => true
    | .good _ _ => false
/-- A line's sector bytes. -/
def State.stored (s : State) (line : Nat) : List Nat := amGet [] s.sectors line
/-- A read of a line from HBM by its slice, as its tag says (Table 13.3); `d` is the line as it was last known, which stays
when a reserved tag, or a tag line that no code repairs, names no sector. -/
def State.hbmRead (s : State) (slice line : Nat) (d : List Tryte) : SectorRead :=
  let t := s.tagsAt slice (groupOf line)
  let tag := t.tags.getD (placeOf line) 0
  if s.tagLost slice (groupOf line) then .bad d
  else if tag = tagZero then .good (List.replicate 27 0) 0
  else if tag = tagFull then readSector (s.stored line)
  else if tag = tagDelta then readHalf (s.stored line)
  else if 2 ≤ tag then
    .good ((List.range 9).flatMap (fun _ => (List.range 3).map (tryteOfWord (t.consts.getD (tag - 2).toNat 0)))) 0
  else .bad d
/-- The L2's record of a line. -/
def State.l2Find (s : State) (l : Loc) : Option L2Line := s.l2.find? (fun x => x.line == lineNo l)
/-- A line is read from HBM before it is used: it is not in L2, its group's tag line has been written or struck, and its die runs in
full service; a failing line stays as it is stored (13 R240). -/
def State.needsFill (s : State) (l : Loc) : Bool :=
  (s.tags.any (fun t => t.group == groupOf (lineNo l)) || s.tagHits.any (fun q => q.1 == groupOf (lineNo l))) && l.kind == .hbm && (s.l2Find l).isNone &&
    !s.failing.contains l.a && (s.die (hbmDie l.a)).service == 2

end Sys2Proof.Machine
end

