-- ==== Sys2Proof/Machine/Memory.lean ====
section
/-!
DEFINITION. Memory outside the cores by the tryte: device HBM, host memory in its line and byte views, peer memory
(13 R234, 15 R255, R267); failing lines (13 R240); routes (14 R245, R250) and the host window (15 R256).
-/
namespace Sys2Proof.Machine

/-- The canonical form of the memories (log 5): keys strictly rising, no entry equal to what an unlisted key reads as. -/
def Memory.wf (m : List (Nat × Tryte)) : Bool := amWf 0 m
/-- The same of host memory. -/
def Memory.hostWf (m : List Host.Cell) : Bool := amWf 0 m

/-! ### Host memory -/

def State.hostByte (s : State) (a : Nat) : Nat := (amGet (0 : BitVec 8) s.hostMem a).toNat
def State.setHostByte (s : State) (a v : Nat) : State :=
  { s with hostMem := amSet (0 : BitVec 8) s.hostMem a (BitVec.ofNat 8 v) }
/-- The host address of the line-view block that holds offset o. -/
def hostBlk (o : Nat) : Nat := 64 * (o / 27)
def State.hostBlock (s : State) (o : Nat) : List Nat := (List.range 64).map (fun i => s.hostByte (hostBlk o + i))
def State.setHostBlock (s : State) (o : Nat) (bs : List Nat) : State :=
  (List.range 64).foldl (fun s i => s.setHostByte (hostBlk o + i) (bs.getD i 0)) s

/-! ### Trytes -/

/-- The tryte at a location, as its home holds it. -/
def State.tryteAt (s : State) (l : Loc) : Tryte :=
  match l.kind with
  | .hbm => amGet 0 s.mem l.a
  | .peer => amGet 0 s.peerMem l.a
  | .hostByte => tryte (s.hostByte l.a)
  | .hostLine => (unpackLine (s.hostBlock l.a)).getD (l.a % 27) 0
  | .const => 0

/-- Write trytes of one line, each at its place in the line. -/
def State.putTrytes (s : State) (line : Loc) (ws : List (Nat × Tryte)) : State :=
  match line.kind with
  | .hbm => { s with mem := ws.foldl (fun m w => amSet 0 m (line.a + w.1) w.2) s.mem }
  | .peer => { s with peerMem := ws.foldl (fun m w => amSet 0 m (line.a + w.1) w.2) s.peerMem }
  | .hostByte => ws.foldl (fun s w => s.setHostByte (line.a + w.1) ((tval w.2) % 256).toNat) s
  | .hostLine =>
    let old := unpackLine (s.hostBlock line.a)
    s.setHostBlock line.a (packLine (ws.foldl (fun d w => d.set w.1 w.2) old))
  | .const => s

/-- The 27 trytes of a line. -/
def State.lineAt (s : State) (line : Loc) : List Tryte := (List.range 27).map (fun k => s.tryteAt (locAt line k))

def State.wordAt (s : State) (l : Loc) : Word :=
  wordFrom (s.tryteAt l) (s.tryteAt (locAt l 1)) (s.tryteAt (locAt l 2))
/-- The trytes of a word at its place in a line. -/
def wordTrytes (off : Nat) (w : Word) : List (Nat × Tryte) :=
  [(off, tryteOfWord w 0), (off + 1, tryteOfWord w 1), (off + 2, tryteOfWord w 2)]
def State.hbmWord (s : State) (a : Nat) : Word := s.wordAt ⟨.hbm, a⟩

/-! ### Slices (13 R234) -/

/-- The slices of a group take new lines of its owner: not while it parts (24 R426). -/
def Owner.homes (o : Owner) (f : Int) : Bool := o.owner == f && o.phase != 1
/-- Slices of a field on a die, ascending: 16 × group + index. -/
def State.slicesOf (s : State) (f : Int) (die : Nat) : List Nat :=
  (List.range 16).flatMap (fun g =>
    if (s.groups.getD (16 * die + g) ⟨-1, 0⟩).homes f then (List.range 16).map (fun i => 16 * g + i) else [])
/-- The field that owns a device line's channel. -/
def State.lineOwner (s : State) (l : Loc) : Int := (s.chans.getD (chanOf l.a) ⟨-1, 0⟩).owner
/-- The channel of a device line does not accept the tag of a field (24 R420). -/
def State.foreign (s : State) (f : Nat) (l : Loc) : Bool := l.kind == .hbm && s.lineOwner l != (f : Int)
/-- The hash slice of a device line (13 R234). -/
def State.hashSlice (s : State) (l : Loc) : Nat :=
  let n := lineIdx l.a
  let ss := s.slicesOf (s.lineOwner l) (hbmDie l.a)
  if ss.isEmpty then 0 else ss.getD ((n + 5 * (n / 729)) % ss.length) 0
/-- The home slice: where the line's one L2 copy stands, or else its hash slice. -/
def State.homeSlice (s : State) (l : Loc) : Nat := ((s.l2Find l).map (·.slice)).getD (s.hashSlice l)

/-! ### Failing lines and seedling service (13 R240, 01 R18) -/

/-- Lines of the L2 of a die, the length of a seedling window (01 R18). -/
def seedLines : Nat := 559872
/-- The HBM line is served: its die is in full service, or in seedling service with the line in its window. -/
def State.hbmServed (s : State) (a : Nat) : Bool :=
  let d := s.die (hbmDie a)
  d.service == 2 || (d.service == 1 && decide (lineIdx a < seedLines))
/-- The hash slice of a line, as 256 × die + slice. -/
def State.sliceKey (s : State) (l : Loc) : Nat := 256 * hbmDie l.a + s.hashSlice l
/-- What a read of a device line from HBM gives (13 R239, R244). -/
def State.readHbm (s : State) (line : Loc) : SectorRead := s.hbmRead (s.sliceKey line) (lineNo line) (s.lineAt line)
def SectorRead.isBad : SectorRead → Bool
  | .bad _ => true
  | .good _ _ => false
/-- A read of the line consumes data that no code repairs: a failing line, one whose die does not serve it, or one that HBM
does not give. -/
def State.badLine (s : State) (l : Loc) : Bool :=
  match l.kind with
  | .hbm => s.failing.contains (lineOf l).a || !s.hbmServed l.a || (s.needsFill (lineOf l) && (s.readHbm (lineOf l)).isBad)
  | .hostLine => !hostBlockOk (s.hostBlock l.a)
  | _ => false
/-- A line can be written whole: only an unserved HBM line faults. -/
def State.badWhole (s : State) (l : Loc) : Bool :=
  match l.kind with
  | .hbm => !s.hbmServed l.a
  | _ => false
/-- A whole-line write clears the failing state. -/
def State.clearFailing (s : State) (line : Loc) : State :=
  if line.kind = .hbm then { s with failing := s.failing.filter (· != line.a), checks := amSet [] s.checks (lineNo line) [] } else s

/-! ### Links (15 R264) -/

/-- Neighbouring compute dies in ascending order of (lower, higher) (01 R11, R12). -/
def diePairs : List (Nat × Nat) :=
  (List.range 12).flatMap (fun d =>
    (if d % 4 < 3 then [(d, d + 1)] else []) ++ (if d < 8 then [(d, d + 4)] else []))
/-- The dies at the two ends of a die-to-die link; 12 is the hub die. -/
def linkDies (l : Nat) : Nat × Nat :=
  if l < 68 then diePairs.getD (l / 4) (0, 1) else ([1, 2, 5, 6].getD (l - 68) 1, 12)
/-- The links of a die. -/
def dieLinks (d : Nat) : List Nat := (List.range 72).filter (fun l => (linkDies l).1 == d || (linkDies l).2 == d)
/-- The links that join two dies. -/
def pairLinks (d e : Nat) : List Nat :=
  (List.range 68).filter (fun l => linkDies l == (d, e) || linkDies l == (e, d))
/-- STATE of a link: failed or training at either end, or up (14 Table 14.3). -/
def State.linkState (s : State) (l : Nat) : Int :=
  match s.links[l]? with
  | none => 0
  | some (a, b) => if a.state = -1 ∨ b.state = -1 then -1 else if a.state = 1 ∧ b.state = 1 then 1 else 0
/-- The next die of a route: along the row first, then the column (14 R245). -/
def meshNext (d e : Nat) : Nat :=
  if d % 4 < e % 4 then d + 1 else if e % 4 < d % 4 then d - 1 else if d < e then d + 4 else d - 4
/-- The pairs a route from one compute die to another crosses. -/
def meshRoute : Nat → Nat → Nat → List (Nat × Nat)
  | 0, _, _ => []
  | n + 1, d, e => if d = e then [] else (d, meshNext d e) :: meshRoute n (meshNext d e) e
/-- The centre die through which a die's traffic with the hub goes (14 R245). -/
def centreOf (d : Nat) : Nat := (if d < 4 then 1 else 5) + (if d % 4 < 2 then 0 else 1)
/-- The line number that chooses a link (14 R245): of a device line, counted across the package; of a host or peer line,
⌊val(pa) ÷ 27⌋. -/
def pathLine (l : Loc) : Int :=
  match l.kind with
  | .hbm => (lineNo l : Int)
  | .hostLine => ((l.a : Int) - 3 ^ 29) / 27
  | .hostByte => ((l.a : Int) + 3 ^ 28 - 3 ^ 29) / 27
  | .peer => ((l.a : Int) - maxT 29 + 3 ^ 29) / 27
  | .const => 0
/-- The physical line number ⌊val(pa) ÷ 27⌋ of a line, for a log record and an RDC set. -/
def physLine (l : Loc) : Int := if l.kind = .hbm then ((l.a / 27 : Nat) : Int) else pathLine l
/-- The link of a pair that carries line n: k = n mod 4, or the next after it that has not failed (14 R245). -/
def State.linkFor (s : State) (d e : Nat) (n : Int) : Option Nat :=
  ((List.range 4).map (fun (i : Nat) => (pairLinks d e).getD ((n + (i : Int)) % 4).toNat 0)).find? (fun k => s.linkState k != -1)
/-- The die that a route's next hop leads to; 12 is the hub die, which is reached through the centre die of the other end. -/
def hopOf (d e : Nat) : Nat :=
  if d = 12 then centreOf e
  else if e = 12 then (if d = centreOf d then 12 else meshNext d (centreOf d))
  else meshNext d e
/-- The link of the next hop of a route for line n. -/
def State.hopLink (s : State) (d e : Nat) (n : Int) : Option Nat :=
  let h := hopOf d e
  if d = 12 ∨ h = 12 then
    ((List.range 4).map (68 + ·)).find? (fun k => (linkDies k).1 == Min.min d h && s.linkState k != -1)
  else s.linkFor d h n
/-- No working link is left for a route's hop, or for one of its answer's, between two compute dies (14 R250). -/
def State.cutOff (s : State) (die : Nat) (l : Loc) : Bool :=
  let e := if l.kind = .hbm then hbmDie l.a else centreOf die
  e != die && (meshRoute 5 die e ++ meshRoute 5 e die).any (fun p => (s.linkFor p.1 p.2 (pathLine l)).isNone)

/-- The same of the hub's accesses: the sower's, the loader's and the host's (14 R245). -/
def State.hubCut (s : State) (l : Loc) : Bool :=
  l.kind == .hbm &&
    ((List.range 4).any (fun k => (linkDies (68 + k)).1 == centreOf (hbmDie l.a) && s.linkState (68 + k) == -1) ||
      s.cutOff (centreOf (hbmDie l.a)) l)

/-! ### The host window (15 R256) -/

def Window.grants (w : Window) (wr : Bool) (b : Nat) : Bool :=
  trit (wval w.ctl) 0 == 1 && trit (wval w.ctl) (if wr then 2 else 1) == 1 &&
    decide (wval w.base ≤ ((b / 4096 : Nat) : Int) ∧ ((b / 4096 : Nat) : Int) ≤ wval w.lim)
/-- Every byte a tryte's access touches is granted: the byte, or the whole 64-byte block. -/
def State.windowOk (s : State) (l : Loc) (wr : Bool) : Bool :=
  let one (b : Nat) : Bool := s.host.windows.any (fun w => w.grants wr b)
  match l.kind with
  | .hostByte => one l.a
  | .hostLine => (List.range 64).all (fun i => one (hostBlk l.a + i))
  | _ => true

/-- Every tryte of a run from a location is granted. -/
def State.windowRun (s : State) (l : Loc) (n : Nat) (wr : Bool) : Bool := (List.range n).all (fun k => s.windowOk (locAt l k) wr)

end Sys2Proof.Machine
end

