-- ==== Sys2Proof/Machine/Lines.lean ====
section
/-!
DEFINITION. A line at its home before it is used: the L2's record and what is replaced for it (13 R233 to R237), the read from
HBM (13 R239, R240, R244), host copies and snoops (15 R258 to R260).
-/
namespace Sys2Proof.Machine

/-! ### The L2's record of a line (13 R235, R236) -/

/-- A correction on a die: counted, and logged with kind +11 (13 R239, 23 Table 23.2a; log 109). The unit is a slice, or 256
an RDC, 257 an L1, 258 a bank store; the code is 0 for (64, 54), 1 for (32, 27), 2 for a Hamming code. -/
def State.corrected (s : State) (die : Nat) (place : Int) (unit code : Nat) (line : Int) : State :=
  let s := { s with host := { s.host with cecnt := modAt s.host.cecnt die (· + 1) } }
  s.log 11 0 place 0 (word ((3 * unit + code : Nat) : Int)) line
/-- A slice, 256 × die + slice, needs a group's tag line for a line: it caches it, and a correction of it is counted
(13 R239, R241). -/
def State.fetchTags (s : State) (key : Nat) (l : Loc) : State :=
  let g := groupOf (lineNo l)
  let t := s.cacheTags key g
  if s.tagCache.any (fun q => q.1 == key && q.2.group == g) then t
  else match s.readTags g with
    | .bad _ => s
    | .good _ 0 => t
    | .good _ (_ + 1) => t.corrected (key / 256) ((key / 256 : Nat) : Int) (key % 256) 0 (physLine l)
/-- A dirty line is written to HBM: its sector, as its class has one, then its tag (13 R242); the sector of a failing line
keeps a check that disagrees (log 110). A tag line that no code repairs stays as it is (log 109). -/
def State.storeTag (s : State) (x : L2Line) : State :=
  if !x.dirty then s
  else
    let l := lineAddr x.line
    let key := 256 * hbmDie l.a + x.slice
    let lost := s.tagLost key (groupOf x.line)
    let s := s.fetchTags key l
    let d := s.lineAt l
    let bad := s.failing.contains l.a
    let t := (s.tagsAt key (groupOf x.line)).store (placeOf x.line) (x.c && !bad) (lineWords d)
    let bs := if bad then spoiltSector d (amGet [] s.checks x.line) else storedBytes (t.tags.getD (placeOf x.line) 0) d (s.stored x.line)
    let s := { s with sectors := amSet [] s.sectors x.line bs }
    if lost then s else s.putTagLine t
/-- The line leaves L2, and its forwarding entry goes (13 R237). -/
def State.dropL2 (s : State) (line : Nat) : State :=
  { s with l2 := s.l2.filter (fun x => x.line != line), forwards := s.forwards.filter (fun q => q.1 != line) }
/-- A line is replaced: written back, then gone (13 R235). -/
def State.evict (s : State) (x : L2Line) : State := (s.storeTag x).dropL2 x.line
/-- A pinned line: its die is in seedling service (01 R18). -/
def State.pinned (s : State) (line : Nat) : Bool := (s.die (line / dieLines)).service == 1
/-- The L2 lines of a slice of a die. -/
def State.sliceLines (s : State) (die slice : Nat) : List L2Line :=
  s.l2.filter (fun x => x.line / dieLines == die && x.slice == slice)
/-- The set of a slice that a line falls in (log 43). -/
def l2Set (line : Nat) : Nat := Config.l2Set line % 81
/-- The line that is replaced first: .strm before plain before .keep, the oldest of each, none that is pinned (13 R233). -/
def State.l2Victim (s : State) (xs : List L2Line) : Option L2Line :=
  let xs := xs.filter (fun x => !s.pinned x.line)
  match xs.find? (fun x => x.hint == -1) with
  | some x => some x
  | none => match xs.find? (fun x => x.hint != 1) with
    | some x => some x
    | none => xs.head?
/-- A set of 27 ways that is full gives up a line for a new one (13 R235). -/
def State.makeRoom (s : State) (die slice line : Nat) : State :=
  let here := s.sliceLines die slice
  if here.length < 27 then s
  else
    let set := here.filter (fun x => l2Set x.line == l2Set line)
    if set.length < 27 then s
    else match s.l2Victim set with
      | none => s
      | some x => s.evict x
/-- Hold the line in L2. -/
def State.l2Fill (s : State) (l : Loc) : State :=
  if l.kind != .hbm || (s.l2Find l).isSome then s
  else
    let s := s.makeRoom (hbmDie l.a) (s.hashSlice l) (lineNo l)
    { s with l2 := s.l2 ++ [⟨lineNo l, s.hashSlice l, false, false, 0, 0, 0⟩] }
def State.modL2 (s : State) (l : Loc) (f : L2Line → L2Line) : State :=
  { s with l2 := modFirst (fun x => l.kind == .hbm && x.line == lineNo l) f s.l2 }
/-- The line is homed on a die in F3. -/
def State.homeAsleep (s : State) (l : Loc) : Bool := l.kind == .hbm && (s.die (hbmDie l.a)).fallow == 3
/-- A request for a line homed on a die in F3 wakes the die (04 R75). -/
def State.wakeHome (s : State) (l : Loc) : State :=
  if s.homeAsleep l then s.modDie (hbmDie l.a) (fun (d : DieSt) => { d with waking := true })
  else s
/-- A request by a quad: the run of one quad's requests (13 R236), and the hint (13 R233). -/
def State.l2Request (s : State) (l : Loc) (quad : Nat) (hint : Int) : State :=
  ((s.wakeHome l).l2Fill l).modL2 l (fun x =>
    { x with run := if x.quad = quad then x.run + 1 else 1, quad := quad, hint := if hint = 0 then x.hint else hint })
/-- A write: the line is dirty, and C of its last store. -/
def State.l2Write (s : State) (l : Loc) (c : Bool) : State :=
  (s.l2Fill l).modL2 l (fun x => { x with dirty := true, c := c })

/-! ### Reading a line from HBM (13 R239, R240, R244) -/

/-- A line becomes failing (13 R240). -/
def State.failLine (s : State) (l : Loc) : State := { s with failing := insNat l.a s.failing }
/-- A miss: the line comes from its sector or its tag into L2; one that no code repairs becomes failing. -/
def State.fillLine (s : State) (l : Loc) : State :=
  let put (s : State) (d : List Tryte) : State := s.putTrytes l (d.zipIdx.map (fun q => (q.2, q.1)))
  match s.readHbm l with
  | .bad d => (put s d).failLine l
  | .good d n =>
    let t := ((put s d).fetchTags (s.sliceKey l) l).l2Fill l
    if n = 0 then t
    else t.corrected (hbmDie l.a) (hbmDie l.a) (s.hashSlice l) (if (s.stored (lineNo l)).length = 32 then 1 else 0) ((l.a / 27 : Nat) : Int)

/-! ### Host copies (15 R258 to R260) -/

def State.hostEntry (s : State) (l : Loc) : HostLine :=
  if l.kind = .hbm then (s.hostLines.find? (fun x => x.line == lineNo l)).getD ⟨lineNo l, 0, 0, 0, false, []⟩ else ⟨0, 0, 0, 0, false, []⟩
/-- An entry in state I with nothing outstanding and nothing waiting is not listed; one that is listed keeps its place, which is its age. -/
def State.setHostEntry (s : State) (e : HostLine) : State :=
  { s with hostLines :=
      if e.st = 0 ∧ e.snoop = 0 ∧ e.waiting.isEmpty then s.hostLines.filter (fun x => x.line != e.line)
      else if s.hostLines.any (fun x => x.line == e.line) then modFirst (fun x => x.line == e.line) (fun _ => e) s.hostLines
      else s.hostLines ++ [e] }
/-- A device access needs a back-invalidation first: a write of a line in S or A, a load of a line in A. -/
def State.needsSnoop (s : State) (write : Bool) (l : Loc) : Bool :=
  let e := s.hostEntry l
  e.snoop != 0 || (if write then e.st != 0 else e.st == 2)
/-- Issue the snoop, unless one is outstanding for the line. -/
def State.snoop (s : State) (write : Bool) (l : Loc) : State :=
  let e := s.hostEntry l
  if e.snoop != 0 then s else s.setHostEntry { e with snoop := if write then 1 else 2, again := false }
/-- A line is not yet as an access needs it at its home: its die must leave F3, it must be read from HBM, or a snoop must
end. -/
def State.notReady (s : State) (write : Bool) (l : Loc) : Bool := s.homeAsleep l || s.needsFill l || s.needsSnoop write l
/-- What its home does for it. -/
def State.prepare (s : State) (write : Bool) (l : Loc) : State :=
  if s.homeAsleep l then s.wakeHome l else if s.needsFill l then s.fillLine l else s.snoop write l
/-- The lines an access must wait for: none when it need not wait. -/
def State.snoopFirst (s : State) (write : Bool) (ls : List Loc) : Option State :=
  let need := ls.filter (s.notReady write)
  if need.isEmpty then none else some (need.foldl (fun s l => s.prepare write l) s)

/-- What comes once, from the host or a peer: a second one like it is another access. -/
def Act.once : Act → Bool
  | .outside _ => true
  | .event (.lqbaseArm _ _ _) => true
  | .event (.lqbaseDisarm _ _) => true
  | .event (.functionLevelReset _) => true
  | .event (.keycmdInstall _ _) => true
  | _ => false
/-- An access joins those that wait, behind them. -/
def joinWaiting (w : Act × Nat) (ws : List (Act × Nat)) : List (Act × Nat) :=
  if !w.1.once && ws.contains w then ws else ws ++ [w]
/-- A device access that must wait (15 R258, log 122). With a snoop outstanding for some of its lines, it joins those that wait
at each of its lines; one whose home sleeps is tried again when its die is active (04 R75); one that only waited for HBM goes on
at once. -/
def State.await (s : State) (a : Act) (stamp : Nat) (ls : List Loc) : State :=
  if ls.any (fun l => (s.hostEntry l).snoop != 0) then
    (ls.filter (fun l => l.kind == .hbm)).eraseDups.foldl (fun s l =>
      let e := s.hostEntry l
      s.setHostEntry { e with waiting := joinWaiting (a, stamp) e.waiting }) s
  else if ls.any s.homeAsleep then { s with sleepers := joinWaiting (a, stamp) s.sleepers }
  else if !a.once ∧ s.agenda.head? = some a then s
  else { s with agenda := a :: s.agenda }
/-- A home's line is kept for device accesses that wait for another of their lines. -/
def State.captured (s : State) (l : Loc) : Bool := (s.hostEntry l).snoop == 0 && !(s.hostEntry l).waiting.isEmpty
/-- An access that waited, as it now stands: entries of a core's order and of the recalls are found by their stamps. -/
def State.resumed (s : State) (w : Act × Nat) : Act :=
  match w.1 with
  | .event (.storeApply core _) => .event (.storeApply core ((s.core core).order.findIdx (fun o => o.stamp == w.2)))
  | .event (.atomicApply core _) => .event (.atomicApply core ((s.core core).order.findIdx (fun o => o.stamp == w.2)))
  | .event (.recall _) => .event (.recall (s.recalls.findIdx (fun m => m.stamp == w.2)))
  | .event (.collInstanceComplete _) => .event (.collInstanceComplete (s.colls.findIdx (fun x => x.line.a == w.2)))
  | a => a
/-- The snoop of a line has ended: the accesses that waited there and now wait for no other snoop are served next, in arrival
order, and then the host's accesses that the home holds (15 R260). -/
def State.serveWaiting (s : State) (l : Loc) : State :=
  let e := s.hostEntry l
  let more (w : Act × Nat) : Bool := s.hostLines.any (fun x => x.line != e.line && x.snoop != 0 && x.waiting.contains w)
  let go := e.waiting.filter (fun w => !more w)
  let free (x : HostLine) : HostLine := if x.snoop = 0 then { x with waiting := x.waiting.filter (fun w => !go.contains w) } else x
  { s with
    hostLines := (s.hostLines.map free).filter (fun x => x.st != 0 || x.snoop != 0 || !x.waiting.isEmpty)
    agenda := go.map s.resumed ++ .held :: s.agenda }

end Sys2Proof.Machine
end

