-- ==== Sys2Proof/Machine/Translate.lean ====
section
/-!
DEFINITION. Address translation: the walk, the caches of its results, and what an access gets (12 R215 to R224).
-/
namespace Sys2Proof.Machine

/-- Entry fields (12 Table 12.1). -/
def entFrame (e : Word) : Int := field (wval e) 6 21
def entMK (e : Word) : Int := trit (wval e) 26
def entV (e : Word) : Int := trit (wval e) 5
def entR (e : Word) : Int := trit (wval e) 4
def entW (e : Word) : Int := trit (wval e) 3
def entX (e : Word) : Int := trit (wval e) 2
def entC (e : Word) : Int := trit (wval e) 1
def entT (e : Word) : Int := trit (wval e) 0
/-- SUB of a pointer. -/
def entSub (e : Word) : Int := field (wval e) 3 2
/-- The physical address of the table a pointer names. -/
def entTable (e : Word) : Int := entFrame e * 19683 + (entSub e + 4) * 2187

/-- The size of the unit a level maps, as an exponent of 3 (12 R215). -/
def levelExp (level : Nat) : Nat := if level = 0 then 27 else 9 + 6 * (3 - level)
/-- The number of the unit of a level that holds an address: h reduced into −364..+364 at level 1; the whole range at
level 0. -/
def unitOf (level : Nat) (va : Int) : Int :=
  if level = 0 then 0
  else
    let h := va / 3 ^ 21
    -- a unit cut by the end of the range counts once (12 R215)
    let va' := if h = -365 then va + 3 ^ 27 else va
    va' / 3 ^ levelExp level
/-- The index at a level (12 R215). -/
def levelIndex (level : Nat) (va : Int) : Int :=
  if level = 1 then wrapT 6 (va / 3 ^ 21) else (va / 3 ^ levelExp level) % 729 - 364
/-- The offset of an address within the unit of a level. -/
def levelOff (level : Nat) (va : Int) : Int := va - 3 ^ levelExp level * (va / 3 ^ levelExp level)

/-- The table lies in the field's own channels (12 R217): a table is 81 lines within one page, so one channel, but the last
page of a die is cut short. -/
def State.tableOk (s : State) (f : Nat) (pa : Int) : Bool :=
  decide (0 ≤ pa) && hbmExists pa.toNat && hbmExists (pa.toNat + 2186) && (s.chans.getD (chanOf pa.toNat) ⟨-1, 0⟩).owner == (f : Int)

/-- Malformed entries (12 R217). -/
def State.malformed (s : State) (f : Nat) (e : Word) (level : Nat) : Bool :=
  if entV e = -1 then
    level == 3 || entMK e != 0 || field (wval e) 0 3 != 0 || !s.tableOk f (entTable e)
  else if entV e = 1 then
    (level == 1 && field (wval e) 6 12 != 0) || (level == 2 && field (wval e) 6 6 != 0) ||
      entX e == -1 || entC e == -1 || entT e == -1 || (entMK e == 1 && (entC e == 1 || entT e == 1))
  else false

/-- Kinds of fault (12 R225): invalid, malformed, R = −, W = −. -/
inductive FaultKind where
  | invalid | malformed | rMinus | wMinus
deriving DecidableEq, Repr
def FaultKind.code : FaultKind → Int
  | .invalid => 0 | .malformed => 1 | .rMinus => 2 | .wMinus => 3

/-- The end of a walk: a fault at a level, or a leaf of a level. -/
inductive WalkEnd where
  | fault (malformed : Bool) (level : Nat)
  | leaf (e : Word) (level : Nat)
deriving DecidableEq, Repr

/-- The walk from an entry read at a level; pointers followed are collected, each with the level at which it was read
(12 R218). A table line that is failing, or that no die serves, is read as it is stored, with no fault (DESIGN CHOICE, log 118:
13 R240's consuming accesses do not name a walk). -/
def State.walkFrom (s : State) (f : Nat) (va : Int) : Nat → Nat → Word → List (Nat × Word) → WalkEnd × List (Nat × Word)
  | 0, level, _, ps => (.fault false level, ps)
  | n + 1, level, e, ps =>
    if entV e != -1 || s.malformed f e level then
      (.fault (entV e == -1) level, ps)
    else
      let e' := s.hbmWord (entTable e + 3 * (levelIndex (level + 1) va + 364)).toNat
      let ps := (level, e) :: ps
      if entV e' = 1 then
        (if s.malformed f e' (level + 1) then .fault true (level + 1) else .leaf e' (level + 1), ps)
      else if level + 1 = 3 then (.fault (entV e' == -1) 3, ps)
      else s.walkFrom f va n (level + 1) e' ps

/-- The lines of the tables that a walk reads. -/
def State.walkLinesFrom (s : State) (f : Nat) (va : Int) : Nat → Nat → Word → List Loc
  | 0, _, _ => []
  | n + 1, level, e =>
    if entV e != -1 || s.malformed f e level then []
    else
      let a := (entTable e + 3 * (levelIndex (level + 1) va + 364)).toNat
      let e' := s.hbmWord a
      lineOf ⟨.hbm, a⟩ :: (if entV e' = 1 then [] else s.walkLinesFrom f va n (level + 1) e')
def State.walkLines (s : State) (f : Nat) (va : Int) : List Loc := s.walkLinesFrom f va 3 0 (s.fieldSt f).ptroot
/-- The walk of R218 from PTROOT. -/
def State.walk (s : State) (f : Nat) (va : Int) : WalkEnd × List (Nat × Word) :=
  s.walkFrom f va 3 0 (s.fieldSt f).ptroot []

/-! ### What an access gets -/

/-- What an access needs of a leaf (12 R219), and how many trytes from its address it touches (01 R15, 15 R256). -/
structure Need where
  r : Bool
  w : Bool
  x : Bool
  len : Nat := 1
  atom : Bool := false
  posted : Bool := false
deriving DecidableEq, Repr
def Need.load : Need := { r := true, w := false, x := false }
def Need.store : Need := { r := false, w := true, x := false }
/-- An atomic or a reduction, which host memory refuses (20 R358, R361). -/
def Need.both : Need := { r := true, w := true, x := false, atom := true }
/-- A unit of a PEER command: whether it fails at the peer is known at its delivery only (18 R327). -/
def Need.peer : Need := { Need.store with posted := true }
def Need.code : Need := { r := false, w := false, x := true }

/-- The outcome of one access unit: a walk that waits for lines of its tables; a walk with a table line that no route reaches
(14 R250); PROT (with the kind of its log record: 16 the host window, 14 the peer, 0 none), a fault on a unit of a level, or the
location with the leaf's C and T. -/
inductive Xlat where
  | wait (ls : List Loc)
  | cut (l : Loc)
  | prot (kind : Nat)
  | fault (kind : FaultKind) (level : Nat)
  | ok (l : Loc) (c : Bool) (t : Bool)
deriving DecidableEq, Repr

/-- The physical address of an access through a leaf, 30 trits (12 R216). -/
def leafPA (e : Word) (level : Nat) (va : Int) : Int := wrapT 30 (entFrame e * 19683 + levelOff level va)

/-- Where a physical address leads, or PROT, by the window (16) or not (12 R220, 15 R255, R267); a PEER's leads to a peer
(18 R327). -/
def State.place (s : State) (f : Nat) (mk pa : Int) (n : Need) : Except Nat Loc :=
  if n.posted ∧ mk ≠ 1 then .error 0
  else if mk = 0 then
    if decide (0 ≤ pa) && hbmExists pa.toNat && (s.chans.getD (chanOf pa.toNat) ⟨-1, 0⟩).owner == (f : Int)
    then .ok ⟨.hbm, pa.toNat⟩ else .error 0
  else if mk = 1 then
    if trit (wval s.host.podctl) 6 = 1 then .ok ⟨.peer, (field pa 0 29 + maxT 29).toNat⟩ else .error 0
  else
    let o := field pa 0 28
    let v := trit pa 28
    if o < 0 ∨ v < 0 ∨ n.atom then .error 0
    else
      let l : Loc := ⟨if v = 0 then .hostLine else .hostByte, o.toNat⟩
      let last := o.toNat + (n.len - 1)
      let top := if v = 0 then hostBlk last else last
      if top ≥ 2 ^ 52 then .error 0
      else if (!(n.r || n.x) || s.windowRun l n.len false) && (!n.w || s.windowRun l n.len true) then .ok l else .error 16

/-- The access fails at its peer: the window is disabled there, the identity names no device, or the access faults there (15
R267). Only the peer knows: a free value (log 113). -/
def State.peerFails (s : State) (l : Loc) (n : Need) : Bool := l.kind == .peer && !n.posted && Config.peerFails s.steps l.a

/-- The outcome of an access whose walk ended in a leaf (12 R219, R221): PROT first, then a trit of −, then what a peer
answers. -/
def State.throughLeaf (s : State) (f : Nat) (e : Word) (level : Nat) (va : Int) (n : Need) : Xlat :=
  match s.place f (entMK e) (leafPA e level va) n with
  | .error w => .prot w
  | .ok l =>
    if (n.r && entR e == 0) || (n.w && entW e == 0) || (n.x && entX e == 0) then .prot 0
    else if n.r && entR e == -1 then .fault .rMinus level
    else if n.w && entW e == -1 then .fault .wMinus level
    else if s.peerFails l n then .prot 14
    else .ok l (entC e == 1) (entT e == 1)

/-- The outcome of an access by a walk from the tables. -/
def State.xlatTables (s : State) (f : Nat) (va : Int) (n : Need) : Xlat :=
  match (s.walk f va).1 with
  | .fault m level => .fault (if m then .malformed else .invalid) level
  | .leaf e level => s.throughLeaf f e level va n

/-! ### Cached translations (12 R222, R223) -/

def tlbHit (f : Nat) (va : Int) (t : TlbEntry) : Bool := t.fld == f && t.unit == unitOf t.level va

/-- The leaf a cache holds for an address. -/
def tlbFind (l : List TlbEntry) (f : Nat) (va : Int) : Option TlbEntry := l.find? (tlbHit f va)
/-- Put an entry first, within the capacity. -/
def tlbPut (cap : Nat) (t : TlbEntry) (l : List TlbEntry) : List TlbEntry :=
  (t :: l.filter (fun x => !(x.fld == t.fld && x.level == t.level && x.unit == t.unit))).take cap

/-- Keyed lists of caches: quads and walkers. -/
def cacheOf (l : List (Nat × List TlbEntry)) (k : Nat) : List TlbEntry := amGet [] l k

def State.quadTlbOf (s : State) (core : Nat) : List TlbEntry := cacheOf s.quadTlb (core / 4)
def State.walkerOf (s : State) (core : Nat) : List TlbEntry := cacheOf s.walker (core / 80)

/-- Hold a leaf in the core's and the quad's TLB, and the pointers followed in the die's walkers. -/
def State.fillTlb (s : State) (core f : Nat) (va : Int) (e : Word) (level : Nat) (ps : List (Nat × Word)) : State :=
  let t : TlbEntry := ⟨f, level, unitOf level va, e⟩
  let s := s.modCore core (fun c => { c with tlb := tlbPut 81 t c.tlb })
  let s := { s with quadTlb := amSet [] s.quadTlb (core / 4) (tlbPut 2187 t (s.quadTlbOf core)) }
  let ptrs := ps.filter (fun p => p.1 != 0)
  let held := ptrs.foldl (fun l p => tlbPut 729 ⟨f, p.1, unitOf p.1 va, p.2⟩ l) (s.walkerOf core)
  { s with walker := amSet [] s.walker (core / 80) held }

/-- Drop the leaf a core and its quad hold for an address. -/
def State.dropTlb (s : State) (core f : Nat) (va : Int) : State :=
  let s := s.modCore core (fun c => { c with tlb := c.tlb.filter (fun t => !tlbHit f va t) })
  { s with quadTlb := amSet [] s.quadTlb (core / 4) ((s.quadTlbOf core).filter (fun t => !tlbHit f va t)) }

/-- Where a walk begins: the levels it has to read, and the entry it has, with that entry's level. -/
structure WalkStart where
  fuel : Nat
  level : Nat
  entry : Word
deriving DecidableEq, Repr

/-- A walk from PTROOT. -/
def State.walkRoot (s : State) (f : Nat) : WalkStart := ⟨3, 0, (s.fieldSt f).ptroot⟩
/-- The deepest pointer of an address that the die's walkers hold. -/
def State.walkCached (s : State) (core f : Nat) (va : Int) : Option WalkStart :=
  let w := s.walkerOf core
  match w.find? (fun t => t.level == 2 && tlbHit f va t) with
  | some t => some ⟨1, 2, t.entry⟩
  | none => (w.find? (fun t => t.level == 1 && tlbHit f va t)).map (fun t => ⟨2, 1, t.entry⟩)

/-- An outcome that a cached entry may decide: only one that faults neither way (12 R222). -/
def Xlat.good : Xlat → Bool
  | .ok _ _ _ => true
  | _ => false

/-- A walk from some entry: its table lines must be reached (14 R250), and are waited for as a load's are (12 R218, 15 R258). -/
inductive Walked where
  | cut (l : Loc)
  | wait (ls : List Loc) (s : State)
  | done (e : WalkEnd) (ptrs : List (Nat × Word))
deriving DecidableEq, Repr
def State.walkAt (s : State) (core f : Nat) (va : Int) (st : WalkStart) : Walked :=
  let ls := s.walkLinesFrom f va st.fuel st.level st.entry
  match ls.find? (s.cutOff (core / 80)), s.snoopFirst false ls with
  | some l, _ => .cut l
  | none, some t => .wait ls t
  | none, none =>
    let y := s.walkFrom f va st.fuel st.level st.entry []
    .done y.1 y.2
/-- What an access gets from a walk: one whose access does not go through caches nothing. -/
def State.xlatWalk (s : State) (core f : Nat) (va : Int) (n : Need) (st : WalkStart) : Xlat × State :=
  match s.walkAt core f va st with
  | .cut l => (.cut l, s)
  | .wait ls t => (.wait ls, t)
  | .done (.fault m level) _ => (.fault (if m then .malformed else .invalid) level, s)
  | .done (.leaf e level) ps =>
    let x := s.throughLeaf f e level va n
    (x, if x.good then s.fillTlb core f va e level ps else s)

/-- One access unit of a core: the core's TLB, the quad's, a walk from a cached pointer, then the tables. A cached entry
that would make the access fault is dropped, and what a cached pointer leads to is not trusted either, but the walk of R218
decides. -/
def State.xlat (s : State) (core f : Nat) (va : Int) (n : Need) : Xlat × State :=
  let viaLeaf (t : TlbEntry) : Xlat := s.throughLeaf f t.entry t.level va n
  match (tlbFind (s.core core).tlb f va).orElse (fun _ => tlbFind (s.quadTlbOf core) f va) with
  | some t =>
    if (viaLeaf t).good then (viaLeaf t, s.fillTlb core f va t.entry t.level [])
    else
      let s := s.dropTlb core f va
      s.xlatWalk core f va n (s.walkRoot f)
  | none =>
    match (s.walkCached core f va).map (s.xlatWalk core f va n) with
    | some (.ok l c t, u) => (.ok l c t, u)
    | some (.wait ls, u) => (.wait ls, u)
    | _ => s.xlatWalk core f va n (s.walkRoot f)

/-- Translate several units in turn. -/
def State.xlats (s : State) (core f : Nat) (n : Need) : List Int → List Xlat × State
  | [] => ([], s)
  | va :: r =>
    let x := s.xlat core f va n
    let y := x.2.xlats core f n r
    (x.1 :: y.1, y.2)

end Sys2Proof.Machine
end

