-- ==== Sys2Proof/Machine/Access.lean ====
section
/-!
DEFINITION. The operations every memory instruction shares: widths and lanes (11 R197 to R200), the checks of R199 with
the outcome of translation (12 R221), failing lines (13 R240), the fault path and the fault wait table
(12 R225 to R230), and the row's outstanding loads and store FIFO (19 R342, R343).
-/
namespace Sys2Proof.Machine

/-! ### Widths (06 Table 6.8, 11 Table 11.2a) -/

def widthOk (w : Int) : Bool := decide (-1 ≤ w ∧ w ≤ 3)
def widthScale (w : Int) : Int := if w = -1 then 1 else if w = 2 then 9 else if w = 3 then 27 else 3
/-- The unit an address must be a multiple of. -/
def widthAlign (w : Int) : Int := widthScale w
/-- Registers an access moves. -/
def widthRegs (w : Int) : Nat := if w = 1 then 2 else if w = 2 then 3 else if w = 3 then 9 else 1
/-- Trytes of each word an access moves. -/
def widthTrytes (w : Int) : Nat := if w = -1 then 1 else 3

/-- The effective address of a thread (11 R198). -/
def effAddr (c : Ctx) (base off w : Int) (p : Nat) : Int := wrapT 27 (rd c base p + off * widthScale w)

/-- The addresses an access is translated at: each word of .w2, otherwise the first (11 R198). -/
def xlatAddrs (w ea : Int) : List Int := if w = 1 then [ea, wrapT 27 (ea + 3)] else [ea]
/-- The locations of the words, from those of the translated addresses. -/
def wordLocs (w : Int) (ls : List Loc) : List Loc :=
  if w = 1 then ls
  else match ls with
    | l :: _ => (List.range (widthRegs w)).map (fun j => locAt l (3 * j))
    | [] => []

/-! ### Outcomes of a lane -/

/-- A lane being checked: thread, effective address, outcome of each translated address. -/
structure LaneX where
  thread : Nat
  ea : Int
  xs : List (Int × Xlat)
deriving DecidableEq, Repr

def Xlat.isProt : Xlat → Bool
  | .prot _ => true
  | _ => false
def Xlat.waits? : Xlat → Option (List Loc)
  | .wait ls => some ls
  | _ => none
def Xlat.isFault : Xlat → Bool
  | .fault _ _ => true
  | _ => false
def Xlat.loc? : Xlat → Option Loc
  | .ok l _ _ => some l
  | _ => none
def LaneX.prot (x : LaneX) : Bool := x.xs.any (fun y => y.2.isProt)
/-- What the peer refuses, known only when the access reaches it (12 R221, 15 R267). -/
def LaneX.atPeer (x : LaneX) : Bool := x.xs.any (fun y => y.2 == .prot 14)
/-- What the issuing device refuses. -/
def LaneX.refused (x : LaneX) : Bool := x.xs.any (fun y => y.2.isProt && y.2 != .prot 14)
def LaneX.faulted (x : LaneX) : Bool := x.xs.any (fun y => y.2.isFault)
/-- The first faulted word. -/
def LaneX.firstFault (x : LaneX) : Option (Int × Xlat) := x.xs.find? (fun y => y.2.isFault)
def LaneX.locs (x : LaneX) (w : Int) : List Loc := wordLocs w (x.xs.filterMap (fun y => y.2.loc?))
/-- The C trit of the leaf. -/
def LaneX.c (x : LaneX) : Bool := x.xs.any (fun y => match y.2 with | .ok _ c _ => c | _ => false)

/-- The trytes from each translated address that an access of a width touches. -/
def xlatLen (w : Int) : Nat := if w = 1 then 3 else widthRegs w * widthTrytes w
/-- Translate the lanes of an access in ascending position. -/
def State.xlatLanes (s : State) (core f : Nat) (n : Need) (w : Int) : List (Nat × Int) → List LaneX × State
  | [] => ([], s)
  | (t, ea) :: r =>
    let vas := xlatAddrs w ea
    let x := s.xlats core f { n with len := xlatLen w } vas
    let y := x.2.xlatLanes core f n w r
    (⟨t, ea, vas.zip x.1⟩ :: y.1, y.2)

/-! ### The fault wait table (12 R225, R229) -/

/-- The entry of a field's live fault unit that holds an address. -/
def DieSt.liveEntry (d : DieSt) (f : Nat) (va : Int) : Option WaitEntry :=
  d.waits.find? (fun w => w.live && w.fld == f && w.unit == unitOf w.level va)

/-- The first free index: one never used, or one whose entry was freed. -/
def DieSt.freeIdx (d : DieSt) : Option (Int × Int) :=
  let cand := (List.range 729).map (fun i => (i : Int) - 364)
  match cand.find? (fun i => !(d.waits.any (fun w => w.idx == i && w.live))) with
  | none => none
  | some i => some (i, ((d.waits.find? (fun w => w.idx == i)).map (·.gen)).getD 0)

/-- The token of an entry (12 R225), with the number of its die in trits 12..9 (the die's place in the report is the model's, log
120). -/
def entryToken (die : Nat) (idx gen : Int) : Word := word (idx + 729 * gen + 19683 * (die : Int))

/-- Enter a fault at a die's table: the entry joined or allocated, which the firmware is told of; none when no entry is free. -/
def State.faultEntry (s : State) (die f : Nat) (va : Int) (k : FaultKind) (level : Nat) : Option (Int × State) :=
  let d := s.die die
  match d.liveEntry f va with
  | some w => some (w.idx, s)
  | none =>
    match d.freeIdx with
    | none => none
    | some (i, g) =>
      let w : WaitEntry := ⟨i, g, true, f, level, unitOf level va, k.code⟩
      some (i, (s.modDie die (fun d => { d with waits := w :: d.waits.filter (fun x => x.idx != i) })).report 5 (entryToken die i g))

/-- Enter every faulted address: the entries to wait under, and whether some fault found no entry. -/
def State.faultEntries (s : State) (die f : Nat) : List (Int × Xlat) → List (Nat × Int) × Bool × State
  | [] => ([], false, s)
  | (va, x) :: r =>
    match x with
    | .fault k level =>
      match s.faultEntry die f va k level with
      | none => let y := s.faultEntries die f r; (y.1, true, y.2.2)
      | some (i, t) =>
        let y := t.faultEntries die f r
        (if y.1.contains (die, i) then y.1 else (die, i) :: y.1, y.2.1, y.2.2)
    | _ => s.faultEntries die f r

/-- Park the row of a group that met the fault path: its instruction is kept with the lanes still to perform. -/
def State.parkFault (s : State) (c : Ctx) (mask : List Nat) (faults : List (Int × Xlat)) (op : MemOp) : State :=
  let y := s.faultEntries c.die c.fld faults
  let info := word ((faults.head?.map (·.1)).getD 0)
  let t := y.2.2.modRow c.ref (fun r => { r with fault := some ⟨op, y.1, y.2.1, c.e.addr, c.k, info, mask⟩, wait := none, stall := 0 })
  if y.2.1 ∧ !((s.die c.die).overflow.contains (c.ref, 0)) then
    t.modDie c.die (fun d => { d with overflow := d.overflow ++ [(c.ref, 0)] })
  else t

/-- The faulted addresses of lanes, lowest lane first. -/
def faultsOf (xs : List LaneX) : List (Int × Xlat) := xs.flatMap (fun x => x.xs.filter (fun y => y.2.isFault))

/-! ### Failing lines (13 R240) -/

/-- The virtual line address of an address. -/
def lineVa (va : Int) : Int := va - va % 27

/-- A word whose walk has a table line that no route reaches: its virtual line address and that line (14 R250). -/
def LaneX.cut (x : LaneX) : Option (Int × Loc) :=
  x.xs.findSome? (fun q => match q.2 with | .cut l => some (lineVa q.1, l) | _ => none)
/-- The first word of a lane on a line that the access consumes while it is failing: its virtual line address and its
location. `whole` is a store of all nine words. A location that no route reaches faults alike (14 R250). -/
def State.badLane (s : State) (die : Nat) (w : Int) (whole : Bool) (x : LaneX) : Option (Int × Loc) :=
  let ws := (x.locs w).zipIdx.map (fun q => (wrapT 27 (x.ea + 3 * (q.2 : Int)), q.1))
  x.cut.orElse (fun _ =>
    ((ws.find? (fun q => s.cutOff die q.2 || (if whole then s.badWhole q.2 else s.badLine q.2)))).map (fun q => (lineVa q.1, q.2)))

/-- The DATA trap for a lane, with its log record of kind +12 (23 Table 23.3). -/
def dataTrap (s : State) (c : Ctx) (va : Int) (l : Loc) : State :=
  let t := s.logRow 12 c.ref c.e.addr.toWord (word va) ((l.a / 27 : Nat) : Int)
  takeTrap t c (Trap.data va)

/-- The same for a word of scratch that no code repairs (log 124). -/
def scrDataTrap (s : State) (c : Ctx) (ea : Int) : State :=
  takeTrap (s.logRow 12 c.ref c.e.addr.toWord (word (lineVa ea)) 0) c (Trap.data (lineVa ea))

/-- The PROT trap for a lane; one that the host window refused is logged with kind +16 (01 R15),
one that failed at its peer with +14 (15 R267). -/
def protTrap (s : State) (c : Ctx) (x : LaneX) : State :=
  let has (k : Nat) : Bool := x.xs.any (fun y => y.2 == .prot k)
  let t := if has 14 then s.logRow 14 c.ref c.e.addr.toWord (word x.ea) 0
    else if has 16 then s.logRow 16 c.ref c.e.addr.toWord (word x.ea) 0 else s
  takeTrap t c (Trap.prot x.ea)

/-! ### Outcome of check 3 (12 R221) -/

/-- What check 3 of R199 gives: a walk that waits for lines of its tables; a trap taken; or the lanes translated, some of which may have faulted. -/
inductive Checked where
  | wait (ls : List Loc) (s : State)
  | trapped (s : State)
  | lanes (xs : List LaneX) (s : State)
deriving DecidableEq, Repr

/-- A walk that waits first; then PROT of any lane at the issuing device; then a failing line read by a lane that translated;
then, with no lane faulted, a peer's refusal (log 113); then the lanes. -/
def check3 (s : State) (c : Ctx) (n : Need) (w : Int) (whole : Bool) (eas : List (Nat × Int)) : Checked :=
  let y := s.xlatLanes c.core c.fld n w eas
  match y.1.findSome? (fun x => x.xs.findSome? (fun q => q.2.waits?)), y.1.find? LaneX.refused with
  | some ls, _ => .wait ls y.2
  | none, some x => .trapped (protTrap y.2 c x)
  | none, none =>
    match (y.1.filter (fun x => !x.faulted)).findSome? (fun x => y.2.badLane c.die w whole x),
        (if y.1.any LaneX.faulted then none else y.1.find? LaneX.atPeer) with
    | some q, _ => .trapped (dataTrap y.2 c q.1 q.2)
    | none, some x => .trapped (protTrap y.2 c x)
    | none, none => .lanes y.1 y.2

/-- A row whose walk waits issues again when it may go on. -/
def walkWait (s : State) (c : Ctx) (ls : List Loc) : State := (s.await (.issue c.ref) 0 ls).hold c 11

/-! ### Operations in progress -/

/-- A lane of an access from its translation. -/
def laneOf (w : Int) (x : LaneX) (data : List Word) : Lane := ⟨x.thread, word x.ea, x.locs w, data⟩

/-- A lane not yet translated. -/
def laneBare (t : Nat) (ea : Int) (data : List Word) : Lane := ⟨t, word ea, [], data⟩

/-- An access without lanes, for an instruction that is issued again whole. -/
def bareOp (c : Ctx) (stamp : Nat) : MemOp :=
  ⟨.load, 0, [], 0, 0, false, 0, 0, 0, false, false, c.gen0, false, c.ref, c.act, stamp⟩

/-- The fields of the registers an access writes. -/
def MemOp.dstFields (o : MemOp) : List Int :=
  match o.kind with
  | .load => (List.range (widthRegs o.width)).map (fun k => succReg o.gen0 o.dst k)
  | .atom _ => [o.dst, fxField] ++ (if 1 ≤ o.acq then [acqField] else [])
  | _ => []

/-- The store FIFO's 27 entries hold writes; a FENCE or the mark of a release takes none (07 Table 7.2). -/
def Row.fifoFull (r : Row) : Bool := decide (27 ≤ (r.fifo.filter (fun o => o.kind != .fence && o.kind != .mark)).length)

/-- The values an issued operation's flag needs: below 26 (07 R124). -/
def flagFull (r : Row) (n : Nat) : Bool := n != 0 && r.flag n == 26

/-- An operation waits for its flag to fall below 26; an instruction none of whose threads acts counts nothing (07 R124). -/
def flagWait (c : Ctx) (pred : Int) (n : Nat) : Bool := !(c.acting pred).isEmpty && flagFull c.r n

/-- A write waits for a place in the store FIFO (07 Table 7.2). -/
def fifoWait (c : Ctx) (pred : Int) : Bool := !(c.acting pred).isEmpty && c.r.fifoFull

/-- The acting threads of a per-thread or per-row access: one notional thread for a per-row one (11 R197). -/
def accessThreads (c : Ctx) (perRow : Bool) (pred : Int) : Except Trap (List Nat) :=
  if perRow then (rowActs c pred).map (fun a => if a then [c.act.headD 0] else []) else .ok (c.acting pred)

/-- Alignment of the acting threads (11 R199, check 1): the lowest that fails traps ALIGN. -/
def alignCheck (m : Int) (eas : List (Nat × Int)) : Except Trap Unit :=
  match eas.find? (fun x => x.2 % m != 0) with
  | some x => .error (Trap.align x.2)
  | none => .ok ()

/-- Bounds of a space (11 R199, check 2): the lowest that fails traps PROT. -/
def boundCheck (ok : Int → Bool) (eas : List (Nat × Int)) : Except Trap Unit :=
  match eas.find? (fun x => !ok x.2) with
  | some x => .error (Trap.prot x.2)
  | none => .ok ()

/-- The words a store takes from its data registers for a thread. -/
def storeWords (c : Ctx) (f : Int) (n : Nat) (p : Nat) : List Word :=
  (List.range n).map (fun k => word (rd c (succReg c.gen0 f k) p))

/-! ### Reading through the FIFO, the L1 order and the caches (19 R342, R343, 13 R232, R238) -/

/-- The tryte a store's lane gives a location, if it covers it; of the byte view the byte v mod 256 (15 R255). -/
def Lane.tryte? (ln : Lane) (w : Int) (l : Loc) : Option Tryte :=
  ((ln.locs.zip ln.data).find? (fun q => q.1.kind == l.kind && decide (q.1.a ≤ l.a ∧ l.a < q.1.a + widthTrytes w))).map
    (fun q =>
      let v := tryteOfWord q.2 (l.a - q.1.a)
      if l.kind = .hostByte then tryte (tval v % 256) else v)
/-- The tryte a store gives a location: that of the highest lane that covers it (11 R200). -/
def MemOp.tryte? (o : MemOp) (l : Loc) : Option Tryte :=
  if o.kind = .store then o.lanes.reverse.findSome? (fun x => x.tryte? o.width l) else none
/-- Some lane covers the location. -/
def MemOp.covers (o : MemOp) (l : Loc) : Bool :=
  o.lanes.any (fun x => x.locs.any (fun q => q.kind == l.kind && decide (q.a ≤ l.a ∧ l.a < q.a + widthTrytes o.width)))
/-- The lines an operation touches. -/
def MemOp.lines (o : MemOp) : List Loc :=
  (o.lanes.flatMap (fun x => x.locs.map lineOf)).foldl (fun acc l => if acc.contains l then acc else acc ++ [l]) []
def AccKind.isAtomic : AccKind → Bool
  | .atom _ => true
  | .red _ => true
  | _ => false

/-- The copy of a line that a core's L1 holds. -/
def Core.copyOf (k : Core) (line : Loc) : Option Copy := k.l1.find? (fun x => x.line == line)
def DieSt.copyOf (d : DieSt) (line : Loc) : Option Copy := d.rdc.find? (fun x => x.line == line)

/-- The line is homed elsewhere than on a die (13 R238). -/
def remoteTo (die : Nat) (l : Loc) : Bool := l.kind != .hbm || hbmDie l.a != die

/-- A line beyond the L1: the die's RDC copy of a remote line, or the home. -/
def State.beyondL1 (s : State) (die : Nat) (line : Loc) : List Tryte :=
  match (if remoteTo die line then (s.die die).copyOf line else none) with
  | some k => k.data
  | none => s.lineAt line

/-- Stores of the L1 order that are not yet applied, laid over a line. -/
def State.overOrder (s : State) (core : Nat) (line : Loc) (d : List Tryte) : List Tryte :=
  (s.core core).order.foldl (fun d o =>
    d.zipIdx.map (fun q => (o.tryte? (locAt line q.2)).getD q.1)) d

/-- The line as a row of the core sees it without its own FIFO: the L1 copy (which the L1 order keeps up to date), or the
line beyond the L1 under the stores of the L1 order; `home`: as it stands at its home (16 R285). -/
def State.lineSeen (s : State) (core : Nat) (nol1 home : Bool) (line : Loc) : List Tryte :=
  if home then s.overOrder core line (s.lineAt line)
  else
    match (if nol1 then none else (s.core core).copyOf line) with
    | some k => k.data
    | none => s.overOrder core line (s.beyondL1 (core / 80) line)

/-- The tryte a load of the row takes: from the youngest earlier store of its FIFO that covers it, else from the line. -/
def seenTryte (fifo : List MemOp) (stamp : Nat) (line : List Tryte) (l : Loc) : Tryte :=
  ((fifo.filter (fun o => decide (o.stamp < stamp))).reverse.findSome? (fun o => o.tryte? l)).getD
    (line.getD (l.a % 27) 0)

/-- A load must wait: an atomic or reduction of the row's FIFO before it, or of the L1 order, covers one of its
granules and has not been applied (19 R342, R343). -/
def State.loadWaits (s : State) (core : Nat) (r : Row) (o : MemOp) : Bool :=
  let touch (x : MemOp) : Bool :=
    x.kind.isAtomic && o.lanes.any (fun ln => ln.locs.any (fun l => (List.range (widthTrytes o.width)).any (fun k => x.covers (locAt l k))))
  (r.fifo.filter (fun x => decide (x.stamp < o.stamp))).any touch || (s.core core).order.any touch

end Sys2Proof.Machine
end

