-- ==== Sys2Proof/Machine/Tenure.lean ====
section
/-!
DEFINITION. Tile handles, descriptors and footprints (16 R268 to R271), and who holds tenure on which line, computed
from the tenures the blocks hold (16 R276, R277, R282).
-/
namespace Sys2Proof.Machine

/-! ### Handles (16 Table 16.1) -/

def hFld (h : Word) : Int := field (wval h) 24 3
def hIdx (h : Word) : Int := field (wval h) 16 8
def hGen (h : Word) : Int := field (wval h) 10 6
def mkHandle (fld idx gen : Int) : Word := word (fld * 3 ^ 24 + idx * 3 ^ 16 + gen * 3 ^ 10)
/-- The next value of the cycle +1 .. +364, −364 .. −1 (16 R271). -/
def nextGen364 (g : Int) : Int := if g = 364 then -364 else if g = -1 then 1 else g + 1

/-- The live index a handle names in a field; none when the handle is stale (16 R271). -/
def State.tileOf (s : State) (fld : Nat) (h : Word) : Option TileIdx :=
  if field (wval h) 0 10 != 0 || hGen h == 0 || hFld h != (fld : Int) then none
  else (s.fieldSt fld).tiles.find? (fun t => t.idx == hIdx h && t.state == 1 && t.gen == hGen h)

/-! ### Descriptors (16 Table 16.2) -/

def dW (d : List Word) (k : Nat) : Int := wval (d.getD k 0)
def dType (d : List Word) : Int := field (dW d 1) 0 2
def dRank (d : List Word) : Nat := (field (dW d 1) 2 2).toNat
def dExt (d : List Word) (i : Nat) : Int := dW d (2 + i)
def dStr (d : List Word) (i : Nat) : Int := dW d (5 + i)
/-- Element size in trytes; 0 for a type that no tile has. -/
def elemTrytes (ty : Int) : Int :=
  if ty = 1 ∨ ty = 4 ∨ ty = 2 then 1 else if ty = 0 ∨ ty = 3 then 3 else if ty = -2 then 9 else 0
/-- The least or greatest offset of an element. -/
def spanLo (d : List Word) : Int :=
  (List.range 3).foldl (fun a i => a + Min.min 0 ((dExt d i - 1) * dStr d i)) 0
def spanHi (d : List Word) : Int :=
  (List.range 3).foldl (fun a i => a + Max.max 0 ((dExt d i - 1) * dStr d i)) 0

/-- The descriptor is well formed (16 R269). -/
def descOk (d : List Word) : Bool :=
  let z := elemTrytes (dType d)
  let r := field (dW d 1) 2 2
  z != 0 && decide (1 ≤ r ∧ r ≤ 3) && field (dW d 1) 4 23 == 0 && dW d 8 == 0 && dW d 0 % z == 0 &&
    (List.range 3).all (fun i =>
      if i < r.toNat then
        decide (1 ≤ dExt d i ∧ dExt d i ≤ 387420489) && dStr d i != 0 && dStr d i % z == 0
      else dExt d i == 1 && dStr d i == 0) &&
    decide (dExt d 0 * dExt d 1 * dExt d 2 ≤ 387420489) &&
    decide (-(maxT 27 - z) ≤ dW d 0 + spanLo d ∧ dW d 0 + spanHi d ≤ maxT 27 - z)

/-! ### Footprints (16 R270) -/

/-- Add a number to a list without repeats. -/
def addNew (l : List Int) (x : Int) : List Int := if l.contains x then l else l ++ [x]
/-- The virtual line addresses a handle's elements lie in. -/
def tileLines (d : List Word) : List Int :=
  (List.range (dExt d 2).toNat).foldl (fun l k =>
    (List.range (dExt d 1).toNat).foldl (fun l j =>
      (List.range (dExt d 0).toNat).foldl (fun l i =>
        let a := dW d 0 + i * dStr d 0 + j * dStr d 1 + k * dStr d 2
        addNew l (a - a % 27)) l) l) []
/-- Two handles overlap. -/
def tilesOverlap (d e : List Word) : Bool :=
  let f := tileLines e
  (tileLines d).any (fun l => f.contains l)

/-- The device line a virtual line of a field lies at now; none when it is not a valid leaf of device memory. -/
def State.lineLoc (s : State) (f : Nat) (va : Int) : Option Loc :=
  match (s.walk f va).1 with
  | .leaf e level =>
    if entMK e = 0 then
      match s.place f 0 (leafPA e level va) Need.load with
      | .ok l => some l
      | .error _ => none
    else none
  | _ => none
/-- The device lines of a descriptor's footprint. -/
def State.footprint (s : State) (f : Nat) (d : List Word) : List Loc := (tileLines d).filterMap (s.lineLoc f)
/-- The lines of a live handle's footprint. -/
def State.tileFoot (s : State) (f : Nat) (h : Word) : List Loc :=
  match s.tileOf f h with
  | none => []
  | some t => s.footprint f t.desc

/-- The virtual lines of a live handle's footprint. -/
def State.tileVas (s : State) (f : Nat) (h : Word) : List Int := ((s.tileOf f h).map (fun t => tileLines t.desc)).getD []

/-! ### Holders (16 R276, R277) -/

/-- A holding block: its place (row 0 of it), field, core, kind, handle and descriptor, and whether it is absent (16
R291). -/
structure Holder where
  who : RowRef
  fld : Nat
  core : Nat
  kind : Int
  handle : Word
  desc : List Word
  absent : Bool
deriving DecidableEq, Repr

/-- The holders one block is. -/
def blockHolders (s : State) (g : Gang) (b : Block) : List Holder :=
  (b.tenures.filter (fun t => t.kind != 0)).map (fun t =>
    ⟨⟨g.gid, b.blk, 0⟩, g.fld, b.core, t.kind, t.handle, ((s.tileOf g.fld t.handle).map (·.desc)).getD [], g.absent⟩)
/-- Every holder of the package. -/
def State.holders (s : State) : List Holder :=
  s.gangs.flatMap (fun g => g.blocks.flatMap (blockHolders s g))
/-- The holders of one handle. -/
def State.holdersOf (s : State) (h : Word) : List Holder := s.holders.filter (fun x => x.handle == h)
/-- The holders whose handle marks a device line (16 R282). -/
def State.marks (s : State) (line : Loc) : List Holder :=
  s.holders.filter (fun x => (s.footprint x.fld x.desc).contains line)
/-- A holder's kind on a handle or an overlapping one conflicts with a request (16 Table 16.4). -/
def conflicts (k : Int) (ty : Int) (k' : Int) (ty' : Int) : Bool :=
  if k = 3 ∧ k' = 3 then ty != ty' else k == 3 || k' == 3
/-- The tenure a block holds on a handle. -/
def Block.tenure? (b : Block) (h : Word) : Option Tenure := b.tenures.find? (fun t => t.handle == h)
/-- Set a block's kind and LOST on a handle; a block without either keeps no record. -/
def Block.setTenure (b : Block) (h : Word) (kind : Int) (lost : Bool) : Block :=
  let rest := b.tenures.filter (fun t => t.handle != h)
  if kind = 0 ∧ lost = false then { b with tenures := rest } else { b with tenures := rest ++ [⟨h, kind, lost⟩] }

/-! ### Copies of lines -/

/-- Drop some lines from a core's L1. -/
def State.dropL1 (s : State) (core : Nat) (ls : List Loc) : State :=
  s.modCore core (fun k => { k with l1 := k.l1.filter (fun c => !ls.contains c.line) })
/-- Drop some lines from a die's RDC. -/
def State.dropRdc (s : State) (die : Nat) (ls : List Loc) : State :=
  s.modDie die (fun d => { d with rdc := d.rdc.filter (fun c => !ls.contains c.line) })
/-- Every copy a holder keeps of some lines. -/
def State.dropCopies (s : State) (core : Nat) (ls : List Loc) : State := (s.dropL1 core ls).dropRdc (core / 80) ls

end Sys2Proof.Machine
end

