-- ==== Sys2Proof/Machine/Home.lean ====
section
/-!
DEFINITION. What a line's home does: the write of a line with its watches and pushes (10 R185, 16 R282 to R285), the flush
of partial lines (16 R287), and the copies of lines that cores and dies hold (13 R232, R233, R238).
-/
namespace Sys2Proof.Machine

/-! ### Watches (10 R185) -/

/-- A write to a line reaches its home, or the line migrates: every row that watches it is triggered, at the home where the WATCH
found it or where its page has moved since (24 R429). -/
def State.trigger (s : State) (line : Loc) : State :=
  { s with gangs := s.gangs.map (fun g => { g with blocks := g.blocks.map (fun b => { b with rows := b.rows.map (fun r =>
      if r.watch.armed && (r.watch.line == line || s.lineLoc g.fld (wval r.watch.va) == some line) then { r with watch := { r.watch with trig := true } } else r) }) }) }

/-! ### Writes at the home -/

/-- Write trytes of a line at its home: data, L2, watches. -/
def State.homePut (s : State) (line : Loc) (ws : List (Nat × Tryte)) (c : Bool) : State :=
  ((s.putTrytes line ws).l2Write line c).trigger line
/-- The trytes are a whole line. -/
def wholeLine (ws : List (Nat × Tryte)) : Bool := (List.range 27).all (fun k => ws.any (fun w => w.1 == k))

/-- The pushes a write sends (16 R283): one to every present read or update holder that marks the line. A write by an
update holder waits for them (16 R284). -/
def State.pushesFor (s : State) (line : Loc) (src : Option (RowRef × Nat × Nat)) : List PushMsg :=
  let ms := s.marks line
  let hs := (ms.filter (fun h => (h.kind == 1 || h.kind == 2) && !h.absent)).map (·.who)
  let hs := hs.foldl (fun (l : List RowRef) w => if l.contains w then l else l ++ [w]) []
  let src := src.bind (fun q =>
    if ms.any (fun h => h.kind == 2 && h.who.gid == q.1.gid && h.who.blk == q.1.blk) then some q else none)
  hs.map (fun w => ⟨line, w, src⟩)

/-- Add the partial line's words into the line, with the type's own wrap (16 R286, R287). -/
def addPartial (ty : Int) (old add : List Word) : List Word :=
  if ty = 1 then
    (old.zip add).map (fun q => word ((List.range 3).foldl (fun a j =>
      a + wrapT 9 (elem (wval q.1) 9 j + elem (wval q.2) 9 j) * 3 ^ (9 * j)) 0))
  else if ty = -2 then
    (List.range 9).map (fun j =>
      let cell (l : List Word) : Int := (List.range 3).foldl (fun a i => a + wval (l.getD (3 * (j / 3) + i) 0) * 3 ^ (27 * i)) 0
      word (field (wrapT 81 (cell old + cell add)) (27 * (j % 3)) 27))
  else (old.zip add).map (fun q => word (wval q.1 + wval q.2))

/-- Write nine words at a line's home. -/
def State.homePutWords (s : State) (line : Loc) (ws : List Word) (c : Bool) : State :=
  s.homePut line (ws.zipIdx.flatMap (fun q => wordTrytes (3 * q.2) q.1)) c

/-- A flush: a block's partial for a line is added at the home and is gone (16 R287); a line that no code repairs takes none,
and the event is logged (log 110); nor does one whose channel is no longer the block's field's (24 R420). -/
def State.flushOne (s : State) (who : RowRef) (line : Loc) : State :=
  match (s.block? who).bind (fun b => b.partials.find? (fun p => p.line == line)) with
  | none => s
  | some p =>
    let core := ((s.block? who).map (·.core)).getD 0
    let gone (kind : Int) : State :=
      (s.log kind who.gid (logPlace core who.row) 0 0 (if kind = 12 then ((line.a / 27 : Nat) : Int) else 0)).modBlock who
        (fun b => { b with partials := b.partials.filter (fun q => q.line != line) })
    if s.foreign (((s.gang? who.gid).map (·.fld)).getD 0) line then gone 16
    else if s.badLine line || s.cutOff (core / 80) line then gone 12
    else
    let c := ((s.l2Find line).map (·.c)).getD false
    let s := s.homePutWords line (addPartial p.ty (lineWords (s.lineAt line)) p.words) c
    let s := { s with pushes := s.pushes ++ s.pushesFor line none }
    s.modBlock who (fun b => { b with partials := b.partials.filter (fun q => q.line != line) })

/-- The blocks with a partial for a line, in ascending holder index. -/
def State.partialsOf (s : State) (line : Loc) : List RowRef :=
  let bs := s.gangs.flatMap (fun g => (g.blocks.filter (fun b => b.partials.any (fun p => p.line == line))).map
    (fun b => (b.core, (⟨g.gid, b.blk, 0⟩ : RowRef))))
  (bs.foldl (fun (l : List (Nat × RowRef)) x => l.filter (fun y => decide (y.1 ≤ x.1)) ++ [x] ++ l.filter (fun y => decide (x.1 < y.1))) []).map (·.2)
/-- Force every partial of a line home (16 R285). -/
def State.flushLine (s : State) (line : Loc) : State := (s.partialsOf line).foldl (fun s w => s.flushOne w line) s
/-- Flush every partial of one block that a list of lines holds. -/
def State.flushBlock (s : State) (who : RowRef) (ls : List Loc) : State :=
  let ps := (((s.block? who).map (·.partials)).getD []).map (·.line)
  (ps.filter (fun l => ls.contains l)).foldl (fun s l => s.flushOne who l) s

/-- A write of trytes to a line from outside its home's own actions: partials first, then the write, then its pushes. One of
the whole line ends its failing state (13 R240). -/
def State.homeWrite (s : State) (line : Loc) (ws : List (Nat × Tryte)) (c : Bool) (src : Option (RowRef × Nat × Nat)) :
    State :=
  let s := s.flushLine line
  let s := s.homePut line ws c
  let s := if wholeLine ws then s.clearFailing line else s
  { s with pushes := s.pushes ++ s.pushesFor line src }

/-! ### Copies (13 R232, R233, R238, 19 R341) -/

/-- The RDC may hold a line: device lines of other dies, peers' lines, and host lines in CXL mode (13 Table 13.2). -/
def State.rdcMay (s : State) (die : Nat) (l : Loc) : Bool :=
  match l.kind with
  | .hbm => hbmDie l.a != die
  | .peer => true
  | .hostLine => s.host.linkMode == 1
  | .hostByte => false
  | .const => false
/-- The order of replacement: .strm lines first, then plain, then .keep; the oldest of each first. -/
def victim (l : List Copy) : Option Copy :=
  match l.find? (fun c => c.hint == -1) with
  | some c => some c
  | none => match l.find? (fun c => c.hint == 0) with
    | some c => some c
    | none => l.head?
/-- Put a line last, replacing within a capacity. -/
def putCopy (cap : Nat) (c : Copy) (l : List Copy) : List Copy :=
  let l := l.filter (fun x => x.line != c.line)
  let l := if l.length < cap then l else
    match victim l with
    | none => l
    | some v => l.filter (fun x => x.line != v.line)
  if cap = 0 then [] else l ++ [c]
/-- Put a line into an RDC: 729 sets of 27 ways (13 R238; log 43). -/
def putRdc (c : Copy) (l : List Copy) : List Copy :=
  let set (x : Copy) : Nat := Config.rdcSet (physLine x.line) % 729
  let l := l.filter (fun x => x.line != c.line)
  let here := l.filter (fun x => set x == set c)
  match (if here.length < 27 then none else victim here) with
  | none => l ++ [c]
  | some v => l.filter (fun x => x.line != v.line) ++ [c]
/-- Words of bank store that blocks hold on a core (05 R82, R84). -/
def State.usedWords (s : State) (core : Nat) : Nat :=
  (s.gangs.filter (fun g => !g.absent)).foldl (fun n g =>
    n + ((g.blocks.filter (fun b => b.core == core && !b.retired)).length * g.lrec.demand)) 0
/-- Bank-store words the core offers (05 Table 5.2). -/
def Core.words (k : Core) : Nat := if k.fused then 0 else if k.sdie = .pos then 118098 else 59049
/-- Lines of the core's L1 (13 R232). -/
def State.l1Cap (s : State) (core : Nat) : Nat := ((s.core core).words - s.usedWords core) / 9
/-- The partial lines on a core, with their blocks (16 R286). -/
def State.corePartials (s : State) (core : Nat) : List (RowRef × Loc) :=
  s.gangs.flatMap (fun g => (g.blocks.filter (fun b => b.core == core)).flatMap (fun b =>
    b.partials.map (fun p => (⟨g.gid, b.blk, 0⟩, p.line))))
/-- Lines of the core's L1 that no partial takes. -/
def State.l1Room (s : State) (core : Nat) : Nat := s.l1Cap core - (s.corePartials core).length
/-- Replace copies until a number remains. -/
def trimCopies (cap : Nat) : Nat → List Copy → List Copy
  | 0, l => l
  | n + 1, l =>
    if l.length ≤ cap then l
    else match victim l with
      | none => l
      | some v => trimCopies cap n (l.filter (fun x => x.line != v.line))
/-- The L1 keeps the copies for which it has lines. -/
def State.trimL1 (s : State) (core : Nat) : State :=
  s.modCore core (fun k => { k with l1 := trimCopies (s.l1Room core) k.l1.length k.l1 })
/-- A partial line whose bank-store line the L1 needs is flushed first; one whose line the host holds is snooped (R286). -/
def State.flushRoom (s : State) (core : Nat) : State :=
  match (s.corePartials core).find? (fun q => !s.needsSnoop true q.2) with
  | some q => s.flushOne q.1 q.2
  | none => match s.corePartials core with
    | q :: _ => s.snoop true q.2
    | [] => s
/-- Partial lines on cores whose L1 has too few lines for them. -/
def State.overPartials (s : State) : List (RowRef × Loc) :=
  let cs := s.gangs.flatMap (fun g => (g.blocks.filter (fun b => !b.partials.isEmpty)).map (·.core))
  (cs.filter (fun c => decide (s.l1Cap c < (s.corePartials c).length))).flatMap s.corePartials
/-- The line is served by the die's RDC copy. -/
def State.rdcServes (s : State) (die : Nat) (line : Loc) : Bool := remoteTo die line && ((s.die die).copyOf line).isSome
/-- A hint as a copy keeps it: .keep and .strm stay until the copy goes (13 R233). -/
def keptHint (held : Option Copy) (hint : Int) : Int :=
  if hint = 1 ∨ hint = -1 then hint else (held.map (·.hint)).getD 0
/-- A load that the L1 serves: its hint, and the copy's place in the order of replacement. -/
def State.l1Hit (s : State) (core : Nat) (line : Loc) (hint : Int) : State :=
  s.modCore core (fun k =>
    match k.copyOf line with
    | none => k
    | some x => { k with l1 := k.l1.filter (fun y => y.line != line) ++ [{ x with hint := keptHint (some x) hint }] })
/-- Put a line into the L1 (13 R232): with no line of it free of partials, one partial is flushed first (16 R286). -/
def State.l1Put (s : State) (core : Nat) (x : Copy) : State :=
  let s := if s.l1Room core = 0 then s.flushRoom core else s
  s.modCore core (fun k => { k with l1 := putCopy (s.l1Room core) x k.l1 })
/-- Fill the RDC and the L1 with a line just read, as its hint says (13 R233): the L1 copy stands at the L1 order. -/
def State.fillCopies (s : State) (core : Nat) (line : Loc) (hint : Int) : State :=
  let die := core / 80
  let d := s.beyondL1 die line
  let s := if s.rdcMay die line then
      s.modDie die (fun x => { x with rdc := putRdc ⟨line, d, keptHint (x.copyOf line) hint⟩ x.rdc })
    else s
  let held := (s.core core).copyOf line
  if hint = 3 && held.isNone then s
  else if line.kind == .hostLine || line.kind == .hostByte then s
  else s.l1Put core ⟨line, s.overOrder core line d, keptHint held hint⟩
/-- A line read at its home: the copies that the core and its die hold take the value read (19 R341). -/
def State.refreshCopies (s : State) (core : Nat) (line : Loc) : State :=
  let d := s.lineAt line
  let put (d : List Tryte) (l : List Copy) : List Copy := l.map (fun c => if c.line = line then { c with data := d } else c)
  (s.modDie (core / 80) (fun x => { x with rdc := put d x.rdc })).modCore core
    (fun k => { k with l1 := put (s.overOrder core line d) k.l1 })
/-- A line whose loads are served at its home: one under commute tenure (16 R285). -/
def State.atHome (s : State) (line : Loc) : Bool := (s.marks line).any (fun h => h.kind == 3)
/-- The caches and L2 after a core's load of a line: a line the L1 serves stays as it is, a line read at its home because of
commute tenure sets the copies that are held, and any other is read beyond the L1. A line the host window refuses leaves
nothing. -/
def State.loadLine (s : State) (core : Nat) (line : Loc) (hint : Int) : State :=
  if !s.windowOk line false then s
  else if s.atHome line then (s.l2Request line (core / 4) 0).refreshCopies core line
  else if hint != 3 && ((s.core core).copyOf line).isSome then s.l1Hit core line hint
  else
    let s := if s.rdcServes (core / 80) line then s else s.l2Request line (core / 4) (if hint = 3 then 0 else hint)
    if s.badLine line then s else s.fillCopies core line hint
/-- A store of a row writes its die's RDC copy of a remote line when the home acknowledges it: the words it covers are then
those of the home (13 R238, 19 R350). -/
def State.rdcUpdate (s : State) (die : Nat) (line : Loc) (ws : List (Nat × Tryte)) : State :=
  let d := s.lineAt line
  let put (c : Copy) : Copy :=
    { c with data := c.data.zipIdx.map (fun q => if ws.any (fun w => w.1 / 3 == q.2 / 3) then d.getD q.2 q.1 else q.1) }
  s.modDie die (fun x => { x with rdc := x.rdc.map (fun c => if c.line = line then put c else c) })
/-- The same for the core's L1 copy, under the stores that are still in the L1 order: no load then returns a word that no write
produced, or an earlier one (19 R341). -/
def State.copiesUpdate (s : State) (core : Nat) (line : Loc) (ws : List (Nat × Tryte)) : State :=
  let s := s.rdcUpdate (core / 80) line ws
  let d := s.overOrder core line (s.lineAt line)
  let put (c : Copy) : Copy :=
    { c with data := c.data.zipIdx.map (fun q => if ws.any (fun w => w.1 / 3 == q.2 / 3) then d.getD q.2 q.1 else q.1) }
  s.modCore core (fun k => { k with l1 := k.l1.map (fun c => if c.line = line then put c else c) })

end Sys2Proof.Machine
end

