-- ==== Sys2Proof/Machine/Order.lean ====
section
/-!
DEFINITION. Scopes, what a release waits for and what an acquire drops (19 R346, R348, Table 19.2), and the point of a
row's own earlier accesses.
-/
namespace Sys2Proof.Machine

/-- The narrowest scope that contains two cores: .core, .quad, .die or .pkg (11 R210, 20 R370). -/
def narrowScope (a b : Nat) : Int :=
  if a = b then 1 else if a / 4 = b / 4 then 2 else if a / 80 = b / 80 then 3 else 4

/-- The device lines that present read and update holders of some cores keep (16 R283). -/
def State.keptLines (s : State) (onCore : Nat → Bool) : List Loc :=
  (s.holders.filter (fun h => (h.kind == 1 || h.kind == 2) && !h.absent && onCore h.core)).flatMap
    (fun h => s.footprint h.fld h.desc)

/-- The cache actions of an acquire by a row of a core (19 Table 19.2). -/
def State.doAcquire (s : State) (core : Nat) (scope : Int) : State :=
  let die := core / 80
  let s := if 2 ≤ scope then
      let kept := s.keptLines (· == core)
      s.modCore core (fun k => { k with l1 := k.l1.filter (fun c => kept.contains c.line) })
    else s
  let s := if 4 ≤ scope then
      let kept := s.keptLines (fun c => c / 80 == die)
      s.modDie die (fun d => { d with rdc := d.rdc.filter (fun c => c.line.kind != .hbm || kept.contains c.line) })
    else s
  if 5 ≤ scope then s.modDie die (fun d => { d with rdc := d.rdc.filter (fun c => c.line.kind != .peer) }) else s

/-- A write still in the FIFO; a fence entry or a mark is none. -/
def MemOp.isWrite (o : MemOp) : Bool := o.kind != .fence && o.kind != .mark && o.kind != .load

/-- Steps of acceptance of the row's PEER commands that are undelivered: accepted, and not yet applied at the peer's home
in full (18 R327). -/
def Row.undelivered (r : Row) : List Nat :=
  r.peers.map (·.stamp) ++ (r.slots.flatMap (fun x => x.entries)).filterMap (fun e => match e with
    | .cmd c => if c.kind = .peer then some c.stamp else none
    | .join _ => none)

/-- A scratch release of the row, issued before a step, has still to be performed (19 R345). -/
def Row.scrOpen (r : Row) (stamp : Nat) : Bool :=
  r.rels.any (fun o => decide (o.stamp < stamp)) || r.parks.any (fun o => o.group.isEmpty && decide (o.since < stamp))

/-- A FENCE of the row, issued before a step, still stands in its core's order. -/
def Core.fenceOpen (k : Core) (ref : RowRef) (stamp : Nat) : Bool :=
  k.order.any (fun o => o.kind == .fence && o.who == ref && decide (o.stamp < stamp))

/-- A FENCE of kind .ar of the row, issued before a step, still holds its later loads (19 R349). -/
def State.arOpen (s : State) (ref : RowRef) (stamp : Nat) : Bool :=
  match s.block? ref, s.row? ref with
  | some b, some r =>
    let ar (o : MemOp) : Bool := o.kind == .fence && o.acq == 1 && decide (o.stamp < stamp)
    r.fifo.any ar || (s.core b.core).order.any (fun o => o.who == ref && ar o)
  | _, _ => false

/-- At least 40 ns pass from the issue of a release to the acquire on another die that it synchronises with (19 R357): a
release wide enough for two dies is performed that much later on the always-on counter (log 104). -/
def State.flight (s : State) (scope : Int) : State := if 4 ≤ scope then { s with now := s.now + 40 } else s

/-- The waits of a release by a row, beyond the writes that precede it in its core's order, over what the row issued before
a step (19 Table 19.2): scratch accesses at .quad and wider, pushes at .die and wider, undelivered PEER commands at .pod
and wider. -/
def State.releaseRest (s : State) (ref : RowRef) (scope : Int) (stamp : Nat) : Bool :=
  (scope < 2 || !(((s.row? ref).map (fun r => r.scrOpen stamp)).getD false)) &&
    (scope < 3 || !s.pushes.any (fun p => match p.src with
    | some q => q.1 == ref && decide (q.2.2 < stamp)
    | none => false)) &&
    (scope < 5 || !(((s.row? ref).map (·.undelivered)).getD []).any (fun t => decide (t < stamp)))

/-- The place of a release that is performed apart from the FIFO: it leaves the FIFO behind the row's earlier writes and after its
earlier loads have returned, so that it stands in the L1 order behind every store that one of those loads may have read, and
leaves the order once the waits of its scope are met (19 R347, Table 19.2). -/
def markEntry (s : State) (c : Ctx) (scope : Int) : MemOp := { bareOp c s.steps with kind := .mark, rel := scope }
/-- The row with such a release in its FIFO. -/
def State.marked (s : State) (c : Ctx) (r : Row) (scope : Int) : Row := { r with fifo := r.fifo ++ [markEntry s c scope] }
/-- The waits of a release that a row issued at a step and that is performed apart from the FIFO are met: its mark is gone. -/
def State.releaseMetAt (s : State) (ref : RowRef) (stamp : Nat) : Bool :=
  match s.block? ref, s.row? ref with
  | some b, some r =>
    let mine (o : MemOp) : Bool := o.kind == .mark && o.stamp == stamp
    !(r.fifo.any mine) && !((s.core b.core).order.any (fun o => o.who == ref && mine o))
  | _, _ => true

/-- Every wait of a release that issues now is met already: nothing of the row is in its FIFO or has a value to return, no scratch
release or FENCE before it is open, and from .quad on its core's order is empty. -/
def State.releaseMet (s : State) (ref : RowRef) (scope : Int) : Bool :=
  match s.block? ref, s.row? ref with
  | some b, some r =>
    let k := s.core b.core
    r.fifo.isEmpty && r.loads.isEmpty && !r.scrOpen (s.steps + 1) && !k.fenceOpen ref (s.steps + 1) &&
      (scope < 2 || k.order.isEmpty) && s.releaseRest ref scope (s.steps + 1)
  | _, _ => true

/-- The narrowest scope that contains every core of a gang (20 R370). -/
def Gang.scope (g : Gang) : Int :=
  g.blocks.foldl (fun m b => g.blocks.foldl (fun m x => Max.max m (narrowScope b.core x.core)) m) 1

end Sys2Proof.Machine
end

