-- ==== Sys2Proof/Machine/Scratch.lean ====
section
/-!
DEFINITION. The scratch space: address decoding (11 R203, R204, R206), words and their state trits (R207), the tries of
the synchronising instructions (R208, R209), and parking (07 R119, R126).
-/
namespace Sys2Proof.Machine

/-! ### Addresses (11 Table 11.3) -/

/-- A word of scratch: of the row's register window, or of a block of the gang; and the tryte within it. -/
inductive ScrWord where
  | window (i : Nat) (sub : Nat)
  | blk (k : Nat) (w : Nat) (sub : Nat)
deriving DecidableEq, Repr

/-- The word of a block that an address outside the register window names: block, word, tryte within it; none out of
bounds. -/
def blockWord (g : Gang) (own : Nat) (a : Int) : Option (Nat × Nat × Nat) :=
  let off (k : Nat) (o : Int) : Option (Nat × Nat × Nat) :=
    if 0 ≤ o ∧ o < 3 * (g.lrec.scr : Int) then some (k, (o / 3).toNat, (o % 3).toNat) else none
  if a < 0 then none
  else if trit a 26 = 0 then off own a
  else
    let k := field a 22 3
    if trit a 25 = -1 ∨ (trit a 25 = 1 ∧ g.partner.isNone) ∨ k < 0 ∨ k ≥ (g.lrec.blks : Int) then none
    else off k.toNat (field a 0 22)

/-- The word an address names; none out of bounds. In generation 0 no window exists (11 R204). -/
def scrWord (c : Ctx) (a : Int) : Option ScrWord :=
  if a < 0 then
    let b := 3 * (c.g.lrec.block : Int)
    if c.gen0 || decide (a < -b) then none else some (.window ((a + b) / 3).toNat ((a + b) % 3).toNat)
  else (blockWord c.g c.ref.blk a).map (fun q => .blk q.1 q.2.1 q.2.2)

/-- The words of an access, each decoded by its own address (log 24); none when one is out of bounds. -/
def scrWords (c : Ctx) (w ea : Int) : Option (List ScrWord) :=
  (List.range (widthRegs w)).mapM (fun j => scrWord c (wrapT 27 (ea + 3 * (j : Int))))

/-- The address whose trailing trits decide alignment: a window address is aligned by its offset (11 R203). -/
def scrAlign (ea : Int) : Int := if 0 ≤ ea ∧ trit ea 26 = 1 then field ea 0 22 else ea

/-! ### Words and states -/

/-- A word of a block's scratch; that of a retired block, whose lines are given away, reads as a free value (log 37). -/
def Block.word (b : Block) (w : Nat) : Word × Trit :=
  let v := amGet (0, .neg) b.scratch w
  if b.retired then (Config.freeScratch b.blk w, v.2) else v
def Block.setWord (b : Block) (w : Nat) (v : Word × Trit) : Block := 
  { b with scratch := amSet (0, .neg) b.scratch w v, bad := b.bad.filter (· != w) }
def State.blk (s : State) (ref : RowRef) (k : Nat) : Block :=
  (s.block? { ref with blk := k }).getD ⟨k, 0, [], [], [], [], [], [], [], true⟩
def State.scrGet (s : State) (ref : RowRef) (k w : Nat) : Word × Trit := (s.blk ref k).word w
/-- Only the state trit of a word changes. -/
def State.scrMark (s : State) (ref : RowRef) (k w : Nat) (t : Trit) : State :=
  s.modBlock { ref with blk := k } (fun b => { b with scratch := amSet (0, .neg) b.scratch w ((b.word w).1, t) })
def State.scrSet (s : State) (ref : RowRef) (k w : Nat) (v : Word × Trit) : State :=
  s.modBlock { ref with blk := k } (fun b => b.setWord w v)

/-- Replace tryte `sub` of a word. -/
def mergeTryte (old : Int) (sub : Nat) (v : Int) : Int :=
  old - elem old 9 sub * 3 ^ (9 * sub) + wrapT 9 v * 3 ^ (9 * sub)

/-- What a load of one word gives, by its width. -/
def loadVal (w : Int) (sub : Nat) (v : Int) : Int := if w = -1 then elem v 9 sub else v
/-- What a word holds after a store. -/
def storeVal (w : Int) (sub : Nat) (old v : Int) : Int := if w = -1 then mergeTryte old sub v else v

/-- Read a scratch word: window words from the row as it stood before the instruction. -/
def scrRead (s : State) (c : Ctx) (w : Int) (x : ScrWord) : Int :=
  match x with
  | .window i sub => loadVal w sub (c.r.window c.g.lrec i)
  | .blk k n sub => loadVal w sub (wval (s.scrGet c.ref k n).1)
/-- Write a scratch word: the state trit stays; window words go to the row being built. -/
def scrWrite (s : State) (c : Ctx) (r : Row) (w : Int) (x : ScrWord) (v : Word) : State × Row :=
  match x with
  | .window i sub => (s, r.setWindow c.g.lrec i (storeVal w sub (r.window c.g.lrec i) (wval v)))
  | .blk k n sub =>
    let o := s.scrGet c.ref k n
    (s.scrSet c.ref k n (word (storeVal w sub (wval o.1) (wval v)), o.2), r)

/-- The owed register a window word covers, a state word's being fx. -/
def scrOwed (c : Ctx) (x : ScrWord) : List Int :=
  match x with
  | .window i _ =>
    match windowWord c.g.lrec i with
    | .sca n => [-(n : Int) - 1]
    | .vec n _ => [(n : Int)]
    | .st _ => [fxField]
    | .pad => []
  | _ => []
/-- A window access waits for every outstanding write of the registers it covers (11 R204). -/
def scrBusy (c : Ctx) (xs : List ScrWord) : Bool := xs.any (fun x => (scrOwed c x).any (fun f => c.r.busy.contains f))
/-- A window store waits for passes that have still to read a register it covers (17 R303). -/
def scrUnread (c : Ctx) (xs : List ScrWord) : Bool := xs.any (fun x => (scrOwed c x).any (fun f => c.r.unread.contains f))

/-! ### Parking (07 R119) -/

/-- Groups parked in the rows that stand on a core. -/
def State.parkedOn (s : State) (core : Nat) : Nat :=
  (s.allRows.filter (fun q => q.2.2.1.core == core && !q.2.1.absent)).foldl
    (fun n q => n + (q.2.2.2.parks.filter (fun o => !o.group.isEmpty || o.stuck)).length + q.2.2.2.sleeps.length) 0

/-- The group is parked at the instruction: its entry keeps the instruction's address. -/
def State.parkGroup (s : State) (c : Ctx) (r : Row) : State := s.issued c r [{ c.e with park := true, mark := false }]

/-- With a full park table the group takes a yield mark and issues again at its next choice; the watchdog goes on
counting (07 Table 7.2, log 25). -/
def State.parkFull (s : State) (c : Ctx) : State :=
  (s.issued c c.r [{ c.e with mark := true }]).modRow c.ref (fun r => { r with stall := c.r.stall })

/-- A row with no head group chooses one; a head group stays the head (07 R117). -/
def Row.rechoose (r : Row) : Row := if r.head.isSome then r else r.choose
/-- A parked group goes on after its instruction: its threads, parked no more, move to the next word; the others of its
entry stay, as parked as they are. -/
def Row.goOn (age : CodeAddr → Nat) (r : Row) (pos : CodeAddr) (k : Nat) (group : List Nat) : Row :=
  match r.pct.find? (fun e => e.addr == pos) with
  | none => r
  | some e =>
    let rest := e.threads.filter (fun t => !group.contains t)
    let without := dropFirst (fun x => x.addr == pos) r.pct
    let stay : PcEntry := { e with threads := rest, park := e.park && rest.all (fun t => (r.parkedAt pos).contains t) }
    let go : PcEntry :=
      { e with addr := pos.plus ((k : Int) + 1), threads := group, park := false, mark := false, rem := e.rem - (k + 1) }
    let t := if rest.isEmpty then without else insEntry age stay without
    { r with pct := insEntry age go t }
/-- A parked group goes on, and may become the head. -/
def Row.unpark (age : CodeAddr → Nat) (r : Row) (pos : CodeAddr) (k : Nat) (group : List Nat) : Row :=
  (r.goOn age pos k group).rechoose

/-! ### Tries (11 R208) -/

/-- Try one lane of a synchronising instruction: what it reads, and the block words after it; none when it is not done. -/
def State.tryLane (s : State) (ref : RowRef) (kind : SyncKind) (w : Int) (ln : SyncLane) : Option (List Int × State) :=
  let ws := ln.words.map (fun n => (n, s.scrGet ref ln.blk n))
  let ready := ws.all (fun q => q.2.2 == (match kind with | .we => Trit.neg | _ => Trit.pos))
  if !ready then none
  else
    match kind with
    | .wf => some (ws.map (fun q => loadVal w ln.sub (wval q.2.1)), s)
    | .wfe => some (ws.map (fun q => loadVal w ln.sub (wval q.2.1)),
        ws.foldl (fun s q => s.scrMark ref ln.blk q.1 .neg) s)
    | .we => some ([], (ws.zip ln.data).foldl (fun s q =>
        s.scrSet ref ln.blk q.1.1 (word (storeVal w ln.sub (wval q.1.2.1) (wval q.2)), .pos)) s)

/-- The row after a done lane of a load has written its registers. -/
def syncWrite (w : Nat) (r : Row) (o : SyncOp) (ln : SyncLane) (vs : List Int) : Row :=
  if vs.isEmpty then r
  else if o.perRow then
    (vs.foldl (fun (a : Row × Nat) v => (wrRow o.gen0 w a.1 o.group (succReg o.gen0 o.dst a.2) v, a.2 + 1)) (r, 0)).1
  else wrRegs o.gen0 w r o.dst ln.thread vs

/-- The scope at which a lane synchronises (11 R210). -/
def State.laneScope (s : State) (core : Nat) (ref : RowRef) (ln : SyncLane) : Int := narrowScope core (s.blk ref ln.blk).core

/-- Try the lanes of an operation in ascending position: the state, the row's writes, the lanes not done, and the widest
scope of the lanes done. `may` says whether a lane's turn has come. -/
def State.tryLanes (s : State) (core : Nat) (ref : RowRef) (w : Nat) (o : SyncOp) (may : SyncLane → Bool) :
    List SyncLane → Row → State × Row × List SyncLane × Int
  | [], r => (s, r, [], 0)
  | ln :: rest, r =>
    match (if may ln then s.tryLane ref o.kind o.width ln else none) with
    | none =>
      let y := s.tryLanes core ref w o may rest r
      (y.1, y.2.1, ln :: y.2.2.1, y.2.2.2)
    | some (vs, s') =>
      let y := s'.tryLanes core ref w o may rest (syncWrite w r o ln vs)
      (y.1, y.2.1, y.2.2.1, Max.max y.2.2.2 (s.laneScope core ref ln))

/-- The register fields an operation still owes. -/
def SyncOp.owed (o : SyncOp) : List Int :=
  match o.kind with
  | .we => []
  | _ => (List.range (widthRegs o.width)).map (fun k => succReg o.gen0 o.dst k)

/-- The scope of a release or acquire over some lanes: the widest of theirs. -/
def State.lanesScope (s : State) (core : Nat) (ref : RowRef) (ls : List SyncLane) : Int :=
  ls.foldl (fun m ln => Max.max m (s.laneScope core ref ln)) 1

/-- An operation may be tried: an STS.WE only once the waits of its release are met (11 R210, 19 R345). -/
def State.syncReady (s : State) (ref : RowRef) (o : SyncOp) : Bool := o.kind != .we || s.releaseMetAt ref o.since

/-- A lane of an operation waits on one of some words of a block, and its try would succeed now. -/
def State.firstAt (s : State) (ref : RowRef) (o : SyncOp) (ln : SyncLane) : Bool :=
  o.todo.any (fun x => x.blk == ln.blk && x.words.any (fun w => ln.words.contains w) && (s.tryLane ref o.kind o.width x).isSome) &&
    s.syncReady ref o

/-- The lane's turn at its words: of the operations of the gang that wait on one of them, one that parked earlier and can go
on is tried first (11 R209). -/
def State.laneTurn (s : State) (ref : RowRef) (since : Nat) (ln : SyncLane) : Bool :=
  match s.gang? ref.gid with
  | none => true
  | some g => !(g.blocks.any (fun b => b.rows.any (fun r => r.parks.any (fun o =>
      decide (o.since < since) && s.firstAt ⟨ref.gid, b.blk, r.row⟩ o ln))))

/-- A word of a block that no code repairs (13 R239). -/
def State.scrSpoilt (s : State) (c : Ctx) : ScrWord → Bool
  | .blk k n _ => (s.blk c.ref k).bad.contains n
  | .window _ _ => false
/-- The lowest lane whose words include such a one: its address. -/
def State.spoiltLane (s : State) (c : Ctx) (w : Int) (eas : List (Nat × Int)) : Option Int :=
  (eas.find? (fun q => ((scrWords c w q.2).getD []).any (s.scrSpoilt c))).map (·.2)
/-- An earlier scratch store or atomic of the row is still to be applied to some words: areas of a block, each an address and its
trytes. -/
def Row.scrPending (r : Row) (stamp : Nat) (areas : List (Nat × Int × Int)) : Bool :=
  let hit (ln : SyncLane) : Bool := areas.any (fun q =>
    ln.blk == q.1 && ln.words.any (fun w => decide (q.2.1 < 3 * (w : Int) + 3 ∧ 3 * (w : Int) < q.2.1 + q.2.2)))
  r.parks.any (fun o => o.kind == .we && decide (o.since < stamp) && o.todo.any hit) ||
    r.rels.any (fun o => decide (o.stamp < stamp) && o.lanes.any hit)

/-! ### A row's scratch accesses in program order (11 R211, 19 R343, R349; log 103) -/

/-- An access of scratch words beyond the register window. -/
def anyBlk (xs : List ScrWord) : Bool := xs.any (fun x => match x with | .blk _ _ _ => true | .window _ _ => false)
/-- What holds a scratch load: a scratch release of the row that is not performed, earlier loads that have not returned, or
a FENCE .ar. -/
def State.scrLoadHold (s : State) (c : Ctx) : Option Int :=
  if c.r.scrOpen (s.steps + 1) then some 4
  else if !c.r.loads.isEmpty || s.arOpen c.ref (s.steps + 1) then some 15
  else none
/-- What holds a scratch store: the same, or a write or a FENCE of the row that has not entered the L1 order. -/
def State.scrStoreHold (s : State) (c : Ctx) : Option Int :=
  if c.r.scrOpen (s.steps + 1) || c.r.fifo.any (fun o => o.kind != .mark) || (s.core c.core).fenceOpen c.ref (s.steps + 1) then some 4
  else if !c.r.loads.isEmpty then some 15
  else none
/-- The hold, for an access that touches such words. -/
def heldBy (b : Bool) (h : Option Int) : Option Int := if b then h else none

end Sys2Proof.Machine
end

