-- ==== Sys2Proof/Machine/Mem.lean ====
section
/-!
DEFINITION. Class −4: the memory instructions (11 R196 to R214).
-/
namespace Sys2Proof.Machine

/-! ### Fields -/

/-- ORD and SCOPE stand together or not at all (11 R196). -/
def ordScopeOk (c : Ctx) : Bool := (c.mod.ord != 0) == (c.mod.scope != 0)
/-- No special as the data of several words (11 R198). -/
def dataOk (c : Ctx) (f : FD) : Bool := c.gen0 || widthRegs f.width ≤ 1 || !isSpecial f.data
/-- The uses of a load and of a store. -/
def loadUses (f : FD) : List Use := [⟨f.data, true, widthRegs f.width⟩, src f.base]
def storeUses (f : FD) : List Use := [⟨f.data, false, widthRegs f.width⟩, src f.base]
/-- Field checks every memory instruction shares. -/
def fdOk (f : FD) : Bool := predOk f.pred && widthOk f.width
/-- A store is per-row when data and base are of row kind, in native code (11 R197). -/
def storeRow (c : Ctx) (f : FD) : Bool := !c.gen0 && isRowKind f.data && isRowKind f.base
/-- A load is per-row when its destination is scalar; in generation 0 only GLDS is. -/
def loadRow (c : Ctx) (f : FD) : Bool := rowSide c f.data
/-- The addresses of the acting threads. -/
def eaList (c : Ctx) (f : FD) (ts : List Nat) : List (Nat × Int) := ts.map (fun t => (t, effAddr c f.base f.off f.width t))
/-- The release or acquire scope of MODH. -/
def ordScope (c : Ctx) : Int := if c.mod.ord = 0 then 0 else c.mod.scope

/-! ### Global loads (11 R201) -/

/-- Enter a load: its lanes that translated are performed as one operation, its faulted lanes park the row (12 R226); lanes
that a peer refuses are performed with those (12 R221; log 113). -/
def issueLoad (s : State) (c : Ctx) (op : MemOp) (xs : List LaneX) : State :=
  let ok := xs.filter (fun x => !x.faulted && !x.atPeer)
  let bad := xs.filter (fun x => x.faulted || x.atPeer)
  let whole := { op with lanes := ok.map (fun x => laneOf op.width x []) }
  if bad.isEmpty then
    s.finish c ((({ c.r with loads := c.r.loads ++ [whole] }).owe whole.dstFields).flagUp op.flag)
  else
    let part := { whole with flag := 0, acq := 0 }
    let r := c.r.flagUp op.flag
    let r := if ok.isEmpty then r else ({ r with loads := r.loads ++ [part] }).owe part.dstFields
    (s.modRow c.ref (fun _ => r)).parkFault c ((bad.filter LaneX.faulted).map (·.thread)) (faultsOf bad)
      { op with lanes := bad.map (fun x => laneBare x.thread x.ea []) }

/-- GLD and GLDS. -/
def loadGlobal (s : State) (f : FD) (row : Bool) : Host.Outcome State Fault Refusal :=
  withRow s (fun c => do
    gate c false (loadUses f) (fdOk f && ordScopeOk c &&
      (if row then scaDst c f.data && rowSrcs c [f.base] else vecDst c f.data)) { cache := true, scope := true, ord := [1] }
    if usesBusy c (loadUses f) then .ok (s.hold c 11)
    else if flagWait c f.pred c.e.fa then .ok (s.hold c 2 c.e.fa)
    else
      need (!row || uniform c [f.base]) (Trap.nonUniform c)
      let ts ← accessThreads c row f.pred
      if ts.isEmpty then .ok (s.finish c c.r)
      else
        alignCheck (widthAlign f.width) (eaList c f ts)
        let op : MemOp := { bareOp c s.steps with
          width := f.width, dst := f.data, flag := c.e.fa, perRow := row, acq := ordScope c, cache := c.mod.cache,
          rel := if s.arOpen c.ref (s.steps + 1) then 1 else 0 }
        match check3 s c Need.load f.width false (eaList c f ts) with
        | .wait ls t => .ok (walkWait t c ls)
        | .trapped t => .ok t
        | .lanes xs t => .ok (issueLoad t c op xs))

/-- GLD (R201). -/
def execGld (f : FD) (s : State) : Host.Outcome State Fault Refusal := loadGlobal s f false
/-- GLDS (R201). -/
def execGlds (f : FD) (s : State) : Host.Outcome State Fault Refusal := loadGlobal s f true

/-! ### Global stores (11 R201) -/

/-- Enter a store, atomic or reduction that translated into the FIFO; with a faulted lane it parks whole (12 R227). -/
def issueWrite (s : State) (c : Ctx) (r : Row) (op : MemOp) (xs : List LaneX) : State :=
  let data (t : Nat) : List Word := ((op.lanes.find? (fun ln => ln.thread == t)).map (·.data)).getD []
  let r := (r.owe op.dstFields).flagUp op.flag
  if xs.any (fun x => x.faulted) then
    (s.modRow c.ref (fun _ => r)).parkFault c ((xs.filter (fun x => x.faulted)).map (·.thread)) (faultsOf xs) op
  else
    s.finish c { r with fifo := r.fifo ++ [{ op with lanes := xs.map (fun x => laneOf op.width x (data x.thread)) }] }

/-- The lanes of a store, with their data. -/
def storeLanes (c : Ctx) (f : FD) (ts : List Nat) : List Lane :=
  (eaList c f ts).map (fun q => laneBare q.1 q.2 (storeWords c f.data (widthRegs f.width) q.1))

/-- GST (R201). -/
def execGst (f : FD) (s : State) : Host.Outcome State Fault Refusal :=
  withRow s (fun c => do
    gate c false (storeUses f) (fdOk f && ordScopeOk c && dataOk c f) { cache := true, scope := true, ord := [-1] }
    if usesBusy c (storeUses f) then .ok (s.hold c 11)
    else if flagWait c f.pred c.e.fb then .ok (s.hold c 2 c.e.fb)
    else if fifoWait c f.pred then .ok (s.hold c 4)
    else
      let ts ← accessThreads c (storeRow c f) f.pred
      if ts.isEmpty then .ok (s.finish c c.r)
      else
        alignCheck (widthAlign f.width) (eaList c f ts)
        let op : MemOp := { bareOp c s.steps with
          kind := .store, width := f.width, lanes := storeLanes c f ts, flag := c.e.fb, perRow := storeRow c f,
          rel := ordScope c, cache := c.mod.cache }
        match check3 s c Need.store f.width (f.width == 3) (eaList c f ts) with
        | .wait ls t => .ok (walkWait t c ls)
        | .trapped t => .ok t
        | .lanes xs t => .ok (issueWrite t c c.r op xs))

/-- The line a prefetch brings: one that a load of the line could read now, and that stands under no commute tenure. -/
def State.prefetchOne (s : State) (c : Ctx) (ea : Int) : State :=
  if ea % 27 != 0 then s
  else
    let x := s.xlat c.core c.fld ea Need.load
    match x.1.loc? with
    | none => x.2
    | some l =>
      if x.2.cutOff c.die l || x.2.needsSnoop false l || x.2.badLine l || x.2.atHome l then x.2
      else (if x.2.needsFill l then x.2.fillLine l else x.2).loadLine c.core l c.mod.cache

/-- PRF (R202). -/
def execPrf (f : FD) (s : State) : Host.Outcome State Fault Refusal :=
  withRow s (fun c => do
    gate c false [src f.base] (predOk f.pred && f.width == 3 && f.data == 0) { cache := true }
    if usesBusy c [src f.base] then .ok (s.hold c 11)
    else
      let t := (eaList c f (c.acting f.pred)).foldl (fun t q => t.prefetchOne c q.2) s
      .ok (t.finish c c.r))

/-! ### Scratch (11 R203 to R207) -/

/-- The words each acting thread's access covers, after alignment and bounds. -/
def scrLanes (c : Ctx) (f : FD) (ts : List Nat) : Except Trap (List (Nat × List ScrWord)) := do
  let eas := eaList c f ts
  match eas.find? (fun q => scrAlign q.2 % widthAlign f.width != 0) with
  | some q => .error (Trap.align q.2)
  | none => .ok ()
  boundCheck (fun ea => (scrWords c f.width ea).isSome) eas
  .ok (eas.map (fun q => (q.1, (scrWords c f.width q.2).getD [])))

/-- Write a load's words to the registers of a thread, or of the row. -/
def putLoad (c : Ctx) (r : Row) (row : Bool) (d : Int) (t : Nat) (vs : List Int) : Row :=
  if row then wrRegs false c.w r d 0 vs else wrRegs c.gen0 c.w r d t vs

/-- LDS (R203, R204). -/
def execLds (f : FD) (s : State) : Host.Outcome State Fault Refusal :=
  withRow s (fun c => do
    gate c false (loadUses f) (fdOk f && sideOk c f.data [f.base]) {}
    if usesBusy c (loadUses f) then .ok (s.hold c 11)
    else if flagWait c f.pred c.e.fa then .ok (s.hold c 2 c.e.fa)
    else
      let ts ← accessThreads c (loadRow c f) f.pred
      let ls ← scrLanes c f ts
      if scrBusy c (ls.flatMap (·.2)) then .ok (s.hold c 11)
      else
        match heldBy (anyBlk (ls.flatMap (·.2))) (s.scrLoadHold c), s.spoiltLane c f.width (eaList c f ts) with
        | some k, _ => .ok (s.hold c k)
        | none, some ea => .ok (scrDataTrap s c ea)
        | none, none => .ok (s.finish c (ls.foldl
            (fun r q => putLoad c r (loadRow c f) f.data q.1 (q.2.map (scrRead s c f.width))) c.r)))

/-- A store of a tryte into a word that no code repairs: a partial store (13 R240; log 124). -/
def State.partSpoilt (s : State) (c : Ctx) (f : FD) (eas : List (Nat × Int)) : Option Int :=
  if f.width = -1 then s.spoiltLane c f.width eas else none
/-- Store one thread's words to scratch. -/
def putScratch (c : Ctx) (w : Int) (acc : State × Row) (ws : List ScrWord) (vs : List Word) : State × Row :=
  (ws.zip vs).foldl (fun a q => scrWrite a.1 c a.2 w q.1 q.2) acc

/-- STS (R203, R204, R205). -/
def execSts (f : FD) (s : State) : Host.Outcome State Fault Refusal :=
  withRow s (fun c => do
    gate c false (storeUses f) (fdOk f && dataOk c f) {}
    if usesBusy c (storeUses f) then .ok (s.hold c 11)
    else if flagWait c f.pred c.e.fb then .ok (s.hold c 2 c.e.fb)
    else
      let ts ← accessThreads c (storeRow c f) f.pred
      let ls ← scrLanes c f ts
      lockCheck c (ls.flatMap (fun q => q.2.flatMap (scrOwed c)))
      if scrBusy c (ls.flatMap (·.2)) || scrUnread c (ls.flatMap (·.2)) then .ok (s.hold c 11)
      else
        match heldBy (anyBlk (ls.flatMap (·.2))) (s.scrStoreHold c), s.partSpoilt c f (eaList c f ts) with
        | some k, _ => .ok (s.hold c k)
        | none, some ea => .ok (scrDataTrap s c ea)
        | none, none =>
          let y := ls.foldl (fun a q => putScratch c f.width a q.2 (storeWords c f.data (widthRegs f.width) q.1)) (s, c.r)
          .ok (y.1.finish c y.2))

/-! ### Synchronising scratch instructions (11 R208 to R210) -/

/-- The lanes of a synchronising instruction: none of them may be in the register window (R204). -/
def syncLanes (c : Ctx) (f : FD) (ts : List Nat) (data : Nat → List Word) : Except Trap (List SyncLane) := do
  let eas := eaList c f ts
  match eas.find? (fun q => scrAlign q.2 % widthAlign f.width != 0) with
  | some q => .error (Trap.align q.2)
  | none => .ok ()
  let blkOf (x : ScrWord) : Option (Nat × Nat × Nat) := match x with | .blk k w b => some (k, w, b) | .window _ _ => none
  boundCheck (fun ea => match scrWords c f.width ea with
    | some ws => ws.all (fun x => (blkOf x).isSome)
    | none => false) eas
  .ok (eas.map (fun q =>
    let ws := ((scrWords c f.width q.2).getD []).filterMap blkOf
    ⟨q.1, (ws.headD (0, 0, 0)).1, ws.map (·.2.1), (ws.headD (0, 0, 0)).2.2, data q.1⟩))

/-- The group of an instruction some of whose lanes are not done parks, with those lanes (11 R209). -/
def parkSync (s t : State) (c : Ctx) (r : Row) (o : SyncOp) (left : List SyncLane) : State :=
  if 243 ≤ s.parkedOn c.core then s.parkFull c
  else
    let r := (r.owe o.owed).flagUp o.flag
    t.parkGroup c { r with parks := r.parks ++ [{ o with todo := left }] }

/-- Try a synchronising instruction as it issues: done whole, it issues; otherwise its group parks with the lanes left. -/
def issueSync (s : State) (c : Ctx) (o : SyncOp) (lanes : List SyncLane) : State :=
  let y := s.tryLanes c.core c.ref c.w o (s.laneTurn c.ref s.steps) lanes c.r
  let t := match o.kind with
    | .we => y.1.flight y.2.2.2
    | _ => y.1.doAcquire c.core y.2.2.2
  if y.2.2.1.isEmpty then t.finish c y.2.1 else parkSync s t c y.2.1 o y.2.2.1

/-- An STS.WE whose release has still to wait: where the tries of its lanes, one after the other, would all succeed, its threads go
on and the write stays to be performed (19 R345); otherwise its group parks. -/
def deferSync (s : State) (c : Ctx) (o : SyncOp) (lanes : List SyncLane) : State :=
  let r := s.marked c c.r (s.lanesScope c.core c.ref lanes)
  if (s.tryLanes c.core c.ref c.w o (s.laneTurn c.ref s.steps) lanes c.r).2.2.1.isEmpty then
    s.finish c { r.flagUp o.flag with parks := r.parks ++ [{ o with group := [], todo := lanes }] }
  else parkSync s s c r o lanes

/-- The record of a synchronising instruction. -/
def syncOp (s : State) (c : Ctx) (f : FD) (kind : SyncKind) (flag : Nat) (row : Bool) : SyncOp :=
  { kind := kind, width := f.width, dst := f.data, flag := flag, perRow := row, gen0 := c.gen0, group := c.act
    pos := c.e.addr, k := c.k, todo := [], since := s.steps, owners := c.act, stuck := false }

/-- LDS.WF and LDS.WFE. -/
def syncLoad (s : State) (f : FD) (kind : SyncKind) : Host.Outcome State Fault Refusal :=
  withRow s (fun c => do
    gate c false (loadUses f) (fdOk f && sideOk c f.data [f.base]) {}
    if usesBusy c (loadUses f) then .ok (s.hold c 11)
    else if flagWait c f.pred c.e.fa then .ok (s.hold c 2 c.e.fa)
    else
      let ts ← accessThreads c (loadRow c f) f.pred
      let ls ← syncLanes c f ts (fun _ => [])
      match heldBy (!ls.isEmpty) (s.scrLoadHold c), s.spoiltLane c f.width (eaList c f ts) with
      | some k, _ => .ok (s.hold c k)
      | none, some ea => .ok (scrDataTrap s c ea)
      | none, none => .ok (issueSync s c (syncOp s c f kind c.e.fa (loadRow c f)) ls))

/-- LDS.WF (R208). -/
def execLdsWf (f : FD) (s : State) : Host.Outcome State Fault Refusal := syncLoad s f .wf
/-- LDS.WFE (R208). -/
def execLdsWfe (f : FD) (s : State) : Host.Outcome State Fault Refusal := syncLoad s f .wfe

/-- STS.WE (R208, R210): a release, performed once the waits of its scope are met (19 R345; log 27). -/
def execStsWe (f : FD) (s : State) : Host.Outcome State Fault Refusal :=
  withRow s (fun c => do
    gate c false (storeUses f) (fdOk f && dataOk c f) {}
    if usesBusy c (storeUses f) then .ok (s.hold c 11)
    else if flagWait c f.pred c.e.fb then .ok (s.hold c 2 c.e.fb)
    else
      let ts ← accessThreads c (storeRow c f) f.pred
      let ls ← syncLanes c f ts (storeWords c f.data (widthRegs f.width))
      let o := syncOp s c f .we c.e.fb (storeRow c f)
      if c.r.scrOpen (s.steps + 1) && !ls.isEmpty then .ok (s.hold c 4)
      else
        match s.partSpoilt c f (eaList c f ts) with
        | some ea => .ok (scrDataTrap s c ea)
        | none => .ok (if ls.isEmpty || s.releaseMet c.ref (s.lanesScope c.core c.ref ls) then issueSync s c o ls else deferSync s c o ls))

/-- STS.ST (R208): the states of the words become the sign of the data; contents unchanged. -/
def execStsSt (f : FD) (s : State) : Host.Outcome State Fault Refusal :=
  withRow s (fun c => do
    gate c false [src f.data, src f.base] (fdOk f) {}
    if usesBusy c [src f.data, src f.base] then .ok (s.hold c 11)
    else if flagWait c f.pred c.e.fb then .ok (s.hold c 2 c.e.fb)
    else
      let ts ← accessThreads c (storeRow c f) f.pred
      let ls ← syncLanes c f ts (fun t => [word (rd c f.data t)])
      match heldBy (!ls.isEmpty) (s.scrStoreHold c) with
      | some k => .ok (s.hold c k)
      | none =>
      let t := ls.foldl (fun s ln => ln.words.foldl (fun s w =>
        s.scrMark c.ref ln.blk w (Trit.ofSign (wval (ln.data.headD 0)))) s) s
      .ok (t.finish c c.r))

/-- A try of a deferred STS.WE failed once its release was met: its owners park where they stand, a prefix of theirs and what the
scalar side has done ahead given up (11 R209; log 27). -/
def Row.stick (r : Row) (since : Nat) : Row :=
  let x := { r with parks := r.parks.map (fun (p : SyncOp) => if p.since = since then { p with stuck := true } else p) }
  let x := { x with pct := x.pct.map (fun (e : PcEntry) => { e with park := e.park || e.threads.all (x.parkedAt e.addr).contains }) }
  if x.pct.any (fun e => e.park && r.head == some e.addr) then { x with pfx := none, ahead := none, wait := none }.choose else x
/-- Its owners go on from there. -/
def Row.unstick (r : Row) : Row :=
  Row.rechoose { r with pct := r.pct.map (fun (e : PcEntry) => { e with park := e.park && e.threads.all (r.parkedAt e.addr).contains }) }

/-- WAIT_FULL_RETRY (R209): the parked instructions of a row try their lanes again, the first parked first. -/
def retryParks (r : RowRef) (w core : Nat) : List SyncOp → State → State
  | [], s => s
  | o :: rest, s =>
    match s.row? r, s.gang? r.gid with
    | some row, some g =>
      let ready := s.syncReady r o
      let y := s.tryLanes core r w o (fun ln => ready && s.laneTurn r o.since ln) o.todo row
      let sticks := ready && o.group.isEmpty && !o.stuck && !y.2.2.1.isEmpty
      if y.2.2.1.length = o.todo.length then
        retryParks r w core rest (if sticks then s.modRow r (fun x => x.stick o.since) else s)
      else
        let t := match o.kind with | .we => y.1.flight y.2.2.2 | _ => y.1.doAcquire core y.2.2.2
        let left := y.2.2.1
        let x := y.2.1
        let x :=
          if left.isEmpty then
            let x := (({ x with parks := x.parks.filter (fun p => p.since != o.since) }).paid o.owed).flagDown o.flag
            if o.stuck then x.unstick else if o.group.isEmpty then x else x.unpark (s.age g.fld) o.pos o.k o.group
          else
            let x := { x with parks := x.parks.map (fun p => if p.since = o.since then { p with todo := left } else p) }
            if sticks then x.stick o.since else x
        retryParks r w core rest (t.modRow r (fun _ => x))
    | _, _ => s

/-! ### Private space (11 R212) -/

/-- The location of a tryte of a thread's stack. -/
def privLoc (c : Ctx) (t : Nat) (ea : Int) : Loc :=
  let o := 3 * c.g.lrec.priv * (c.ref.row * c.w + t) + ea.toNat
  ⟨.hbm, c.b.privLines.getD (o / 27) 0 + o % 27⟩
/-- A private lane: every word lies in the thread's stack. -/
def privLane (c : Ctx) (w : Int) (t : Nat) (ea : Int) (data : List Word) : Lane :=
  ⟨t, word ea, (List.range (widthRegs w)).map (fun j => privLoc c t (ea + 3 * (j : Int))), data⟩
/-- Bounds of the private space: every word of the access lies below 3 × PRIV (log 24). -/
def privOk (c : Ctx) (w ea : Int) : Bool :=
  decide (0 ≤ ea ∧ ea + (if w = -1 then 1 else 3 * (widthRegs w : Int)) ≤ 3 * (c.g.lrec.priv : Int))
/-- The lowest lane that touches a failing line, or one that no route reaches. -/
def privBad (s : State) (die : Nat) (lanes : List Lane) : Option (Int × Loc) :=
  lanes.findSome? (fun ln => (ln.locs.find? (fun l => s.badLine l || s.cutOff die l)).map (fun l => (lineVa (wval ln.va), l)))

/-- The lowest lane on a line that no route reaches, or that its die does not serve. -/
def privCut (s : State) (die : Nat) (lanes : List Lane) : Option (Int × Loc) :=
  lanes.findSome? (fun ln => (ln.locs.find? (fun l => s.badWhole l || s.cutOff die l)).map (fun l => (lineVa (wval ln.va), l)))

/-- LDP (R212). -/
def execLdp (f : FD) (s : State) : Host.Outcome State Fault Refusal :=
  withRow s (fun c => do
    gate c false (loadUses f) (fdOk f && vecDst c f.data) { cache := true }
    if usesBusy c (loadUses f) then .ok (s.hold c 11)
    else if flagWait c f.pred c.e.fa then .ok (s.hold c 2 c.e.fa)
    else
      let eas := eaList c f (c.acting f.pred)
      alignCheck (widthAlign f.width) eas
      boundCheck (privOk c f.width) eas
      let lanes := eas.map (fun q => privLane c f.width q.1 q.2 [])
      let op : MemOp := { bareOp c s.steps with
        width := f.width, lanes := lanes, dst := f.data, flag := c.e.fa, cache := c.mod.cache, priv := true,
        rel := if s.arOpen c.ref (s.steps + 1) then 1 else 0 }
      if lanes.isEmpty then .ok (s.finish c c.r)
      else
        match privBad s c.die lanes with
        | some q => .ok (dataTrap s c q.1 q.2)
        | none => .ok (s.finish c ((({ c.r with loads := c.r.loads ++ [op] }).owe op.dstFields).flagUp op.flag)))

/-- STP (R212): always per-thread. -/
def execStp (f : FD) (s : State) : Host.Outcome State Fault Refusal :=
  withRow s (fun c => do
    gate c false (storeUses f) (fdOk f && dataOk c f) { cache := true }
    if usesBusy c (storeUses f) then .ok (s.hold c 11)
    else if flagWait c f.pred c.e.fb then .ok (s.hold c 2 c.e.fb)
    else if fifoWait c f.pred then .ok (s.hold c 4)
    else
      let eas := eaList c f (c.acting f.pred)
      alignCheck (widthAlign f.width) eas
      boundCheck (privOk c f.width) eas
      let lanes := eas.map (fun q => privLane c f.width q.1 q.2 (storeWords c f.data (widthRegs f.width) q.1))
      let op : MemOp := { bareOp c s.steps with
        kind := .store, width := f.width, lanes := lanes, flag := c.e.fb, cache := c.mod.cache, priv := true }
      if lanes.isEmpty then .ok (s.finish c c.r)
      else
        match (if f.width = 3 then privCut s c.die lanes else privBad s c.die lanes) with
        | some q => .ok (dataTrap s c q.1 q.2)
        | none => .ok (s.finish c (({ c.r with fifo := c.r.fifo ++ [op] }).flagUp op.flag)))

/-! ### Constant space (11 R213) -/

/-- Bounds of the constant space (log 24). -/
def constOk (c : Ctx) (w ea : Int) : Bool :=
  decide (0 ≤ ea ∧ ea + (if w = -1 then 1 else 3 * (widthRegs w : Int)) ≤ 3 * (c.g.lrec.clen : Int))
/-- The words a thread reads of the constant copy. -/
def constWords (c : Ctx) (w ea : Int) : List Int :=
  (List.range (widthRegs w)).map (fun j =>
    loadVal w (ea.toNat % 3) (wval (c.g.consts.getD (ea.toNat / 3 + j) 0)))

/-- A line of a gang's constant copy, as the L1 of its core holds it. -/
def constCopy (g : Gang) (n : Nat) : Copy :=
  ⟨⟨.const, g.grid * 3 ^ 27 + 27 * n⟩, (List.range 9).flatMap (fun j =>
    (List.range 3).map (tryteOfWord (g.consts.getD (9 * n + j) 0))), 0⟩
/-- The lines that the threads of a constant load read, each once. -/
def constLines (eas : List (Nat × Int)) : List Nat :=
  (eas.map (fun q => q.2.toNat / 27)).eraseDups
/-- The L1 holds lines read by constant loads (13 R232). -/
def State.constFill (s : State) (c : Ctx) (eas : List (Nat × Int)) : State :=
  (constLines eas).foldl (fun s n => s.l1Put c.core (constCopy c.g n)) s

/-- LDC (R213). -/
def execLdc (f : FD) (s : State) : Host.Outcome State Fault Refusal :=
  withRow s (fun c => do
    gate c false (loadUses f) (fdOk f && sideOk c f.data [f.base]) {}
    if usesBusy c (loadUses f) then .ok (s.hold c 11)
    else if flagWait c f.pred c.e.fa then .ok (s.hold c 2 c.e.fa)
    else
      let ts ← accessThreads c (loadRow c f) f.pred
      let eas := eaList c f ts
      alignCheck (widthAlign f.width) eas
      boundCheck (constOk c f.width) eas
      .ok ((s.constFill c eas).finish c
        (eas.foldl (fun r q => putLoad c r (loadRow c f) f.data q.1 (constWords c f.width q.2)) c.r)))

end Sys2Proof.Machine
end

