-- ==== Sys2Proof/Machine/Barriers.lean ====
section
/-!
DEFINITION. Class −10: FENCE (19 R349, 20 R366), gang barriers (20 R367 to R373) and level barriers (20 R374, R375).
-/
namespace Sys2Proof.Machine

/-! ### FENCE -/

/-- Kinds: .acq, .rel, .ar (20 R366). -/
def fenceKind (ty : Int) : Bool := ty == 1 || ty == -1 || ty == 3

/-- The place a FENCE .rel or .ar holds in its row's FIFO: later writes wait behind it, and under .ar later loads too. -/
def fenceEntry (s : State) (c : Ctx) (f : FA) : MemOp :=
  { bareOp c s.steps with kind := .fence, rel := f.b, acq := if f.ty = 3 then 1 else 0 }

/-- FENCE (R366, R349). -/
def execFence (f : FA) (s : State) : Host.Outcome State Fault Refusal :=
  withRow s (fun c => do
    gate c false [] (predOk f.pred && f.dst == 0 && f.a == 0 && decide (1 ≤ f.b ∧ f.b ≤ 6) && fenceKind f.ty &&
      c.r.pfx.isNone) {}
    let acts ← rowActs c f.pred
    if !acts then .ok (s.finish c c.r)
    else if f.ty != -1 && !c.r.loads.isEmpty then .ok (s.hold c 15)
    else
      let t := if f.ty = -1 then s else s.doAcquire c.core f.b
      let r := if f.ty = 1 then c.r else { c.r with fifo := c.r.fifo ++ [fenceEntry s c f] }
      .ok (t.finish c r))

/-! ### Gang barriers -/

def Block.bar (b : Block) (n : Nat) : Barrier := b.bars.getD n ⟨1, 0, 0⟩
def State.setBar (s : State) (ref : RowRef) (k n : Nat) (x : Barrier) : State :=
  s.modBlock { ref with blk := k } (fun b => { b with bars := b.bars.set n x })
/-- A phase completes when CNT reaches EXP (20 R367). -/
def Barrier.settle (x : Barrier) : Barrier :=
  if x.exp ≤ x.cnt then { x with cnt := 0, ph := word (wval x.ph + 1) } else x

/-- The barrier number in a register: outside 0..8 it traps ILLMOD with the number (20 R368). -/
def barNum (n : Int) : Except Trap Nat :=
  if 0 ≤ n ∧ n ≤ 8 then .ok n.toNat else .error ⟨.illmod, some n, none⟩

/-- BARA (R369): the arrival leaves for its port, or for the partner die's relay (R372). -/
def execBara (f : FA) (s : State) : Host.Outcome State Fault Refusal :=
  withRow s (fun c => do
    let us := [dst f.dst, src f.a, src f.b]
    gate c false us (predOk f.pred && f.ty == 0 && scaDst c f.dst && rowSrcs c [f.a, f.b]) {}
    if usesBusy c us then .ok (s.hold c 11)
    else
      need (uniform c [f.a, f.b]) (Trap.nonUniform c)
      let acts ← rowActs c f.pred
      if !acts then .ok (s.finish c c.r)
      else
        let n ← barNum (rdRow c f.a)
        let k := rdRow c f.b
        need (decide (0 ≤ k ∧ k < (c.g.lrec.blks : Int))) (Trap.prot k)
        let far := (s.blk c.ref k.toNat).core / 80 != c.die
        let a : Arrival := ⟨k.toNat, n, f.dst, c.gen0, if far then 1 else 0, c.act, s.steps⟩
        let scope := narrowScope c.core (s.blk c.ref k.toNat).core
        .ok (s.finish c ({ s.marked c c.r scope with arrivals := c.r.arrivals ++ [a] }.owe [f.dst])))

/-- Apply an arrival at its barrier's port: the token is PH as it stood (20 R369); the barrier of a retired block gives a
free value. -/
def State.arrive (s : State) (ref : RowRef) (w : Nat) (a : Arrival) : State :=
  let b := s.blk ref a.blk
  let x := b.bar a.bar
  let tok := if b.retired then Config.freeWord s.steps else x.ph
  let s := if b.retired then s else s.setBar ref a.blk a.bar ({ x with cnt := x.cnt + 1 }.settle)
  s.modRow ref (fun r =>
    (wrRow a.gen0 w { r with arrivals := dropFirst (· == a) r.arrivals } a.group a.dst (wval tok)).paid [a.dst])

/-- The scope of an arrival: the narrowest with both cores (20 R370). -/
def State.arriveScope (s : State) (ref : RowRef) (a : Arrival) : Int :=
  narrowScope (((s.block? ref).map (·.core)).getD 0) (s.blk ref a.blk).core

/-- BARRIER_ARRIVAL_APPLY (R367, R369): the row's first arrival on its way, after its release waits, is applied at the
port or counted at the relay. -/
def execBarrierArrivalApply (r : RowRef) (s : State) : Host.Outcome State Fault Refusal :=
  match s.gang? r.gid, s.row? r with
  | some g, some row =>
    match row.arrivals.find? (fun a => decide (a.stage < 2)) with
    | none => .next s
    | some a =>
      if !s.releaseMetAt r a.stamp then .next s
      else if a.stage = 0 then .next ((s.flight (s.arriveScope r a)).arrive r g.lrec.width a)
      else .next ((s.flight (s.arriveScope r a)).modRow r (fun x => { x with arrivals := modFirst (· == a) (fun a => { a with stage := 2 }) x.arrivals }))
  | _, _ => .next s

/-- BARRIER_RELAY_FORWARD (R372): every arrival a relay has counted for one barrier crosses and is applied. -/
def execBarrierRelayForward (gid : Word) (blk bar : Nat) (s : State) : Host.Outcome State Fault Refusal :=
  match s.gang? gid with
  | none => .next s
  | some g =>
    let held := g.blocks.flatMap (fun b => b.rows.flatMap (fun r =>
      (r.arrivals.filter (fun a => a.stage == 2 && a.blk == blk && a.bar == bar)).map
        (fun a => ((⟨gid, b.blk, r.row⟩ : RowRef), a))))
    .next (held.foldl (fun s q => s.arrive q.1 g.lrec.width q.2) s)

/-- BARW (R369, R370). -/
def execBarw (f : FA) (s : State) : Host.Outcome State Fault Refusal :=
  withRow s (fun c => do
    let us := [dst f.dst, src f.a, src f.b]
    gate c false us (predOk f.pred && f.ty == 0 && scaDst c f.dst && rowSrcs c [f.a, f.b]) {}
    if usesBusy c us then .ok (s.hold c 11)
    else
      need (uniform c [f.a, f.b]) (Trap.nonUniform c)
      let acts ← rowActs c f.pred
      if !acts then .ok (s.finish c c.r)
      else
        let n ← barNum (rdRow c f.a)
        let ph := wval (c.b.bar n).ph
        if ph = rdRow c f.b then .ok (s.hold c 8)
        else .ok ((s.doAcquire c.core c.g.scope).finish c (wrRow c.gen0 c.w c.r c.act f.dst ph)))

/-- BARS (R369). -/
def execBars (f : FA) (s : State) : Host.Outcome State Fault Refusal :=
  withRow s (fun c => do
    let us := [src f.a, src f.b]
    gate c false us (predOk f.pred && f.ty == 0 && f.dst == 0 && rowSrcs c [f.a, f.b]) {}
    if usesBusy c us then .ok (s.hold c 11)
    else
      need (uniform c [f.a, f.b]) (Trap.nonUniform c)
      let acts ← rowActs c f.pred
      if !acts then .ok (s.finish c c.r)
      else
        let n ← barNum (rdRow c f.a)
        let e := rdRow c f.b
        need (decide (1 ≤ e ∧ e ≤ 19683)) ⟨.illmod, some e, none⟩
        .ok ((s.setBar c.ref c.ref.blk n ({ c.b.bar n with exp := e.toNat }.settle)).finish c c.r))

/-! ### Level barriers -/

/-- Levels .die, .pkg, .pod (20 R374), as scopes. -/
def levelScope (ty : Int) : Int := if ty = 2 then 3 else if ty = 3 then 4 else 5
def levelOk (ty : Int) : Bool := ty == 2 || ty == 3 || ty == 4
/-- A level barrier's name: field, level, number and, for .die, the die. -/
def levelKey (c : Ctx) (ty : Int) (n : Nat) : List Int :=
  [(c.fld : Int), ty, (n : Int)] ++ (if ty = 2 then [(c.die : Int)] else [])

def State.levelBar (s : State) (key : List Int) : LevelBar := (s.levelBars.find? (fun b => b.key == key)).getD ⟨key, 0, 0, 0⟩
def State.setLevelBar (s : State) (b : LevelBar) : State :=
  { s with levelBars := if s.levelBars.any (fun x => x.key == b.key)
      then s.levelBars.map (fun x => if x.key = b.key then b else x) else s.levelBars ++ [b] }

/-- An arrival joins the open instance; a different P traps PROT (20 R375). -/
def levelArrive (s : State) (c : Ctx) (f : FA) (key : List Int) (p : Int) : Except Trap State := do
  let b := s.levelBar key
  if b.cnt ≠ 0 ∧ b.cnt = b.p then .ok (s.hold c 8)
  else
    need (b.cnt == 0 || b.p == p) (Trap.prot p)
    let t := (s.flight (levelScope f.ty)).setLevelBar { b with p := p, cnt := b.cnt + 1 }
    .ok ((t.modRow c.ref (fun r => { r with levels := r.levels ++ [⟨c.e.addr, f.dst, key, b.done_, c.gen0⟩] })).hold c 8)

/-- BARL (R374, R375): it arrives once its release waits are met, and holds its row until its instance has completed, the one it
was counted in, even where a restore has moved the row to another die. -/
def execBarl (f : FA) (s : State) : Host.Outcome State Fault Refusal :=
  withRow s (fun c => do
    let us := [dst f.dst, src f.a, src f.b]
    gate c false us (predOk f.pred && levelOk f.ty && scaDst c f.dst && rowSrcs c [f.a, f.b]) {}
    if usesBusy c us then .ok (s.hold c 11)
    else
      need (uniform c [f.a, f.b]) (Trap.nonUniform c)
      let acts ← rowActs c f.pred
      if !acts then .ok (s.finish c c.r)
      else
        let n := rdRow c f.a
        let p := rdRow c f.b
        need (decide (0 ≤ n ∧ n ≤ 8) && decide (1 ≤ p ∧ p ≤ 387420489)) Trap.illmod
        let key := levelKey c f.ty n.toNat
        match c.r.levels.find? (fun v => v.pos == c.e.addr && v.key.take 3 == key.take 3) with
        | some v =>
          if (s.levelBar v.key).done_ = v.seq then .ok (s.hold c 8)
          else .ok ((s.doAcquire c.core (levelScope f.ty)).finish c
            (wrRow c.gen0 c.w { c.r with levels := c.r.levels.filter (· != v) } c.act f.dst v.seq))
        | none =>
          if !s.releaseMet c.ref (levelScope f.ty) then .ok (s.hold c 8)
          else levelArrive s c f key p)

/-- BARL_INSTANCE_COMPLETE (R375): the open instance of a level barrier has its P arrivals. -/
def execBarlInstanceComplete (k : Nat) (s : State) : Host.Outcome State Fault Refusal :=
  match s.levelBars[k]? with
  | none => .next s
  | some b =>
    if b.cnt ≠ 0 ∧ b.cnt = b.p then .next (s.setLevelBar { b with p := 0, cnt := 0, done_ := wrapT 27 (b.done_ + 1) })
    else .next s

end Sys2Proof.Machine
end

