-- ==== Sys2Proof/Machine/Control.lean ====
section
/-!
DEFINITION. Classes −1 and −2 without EXIT: branches, calls, indirect transfers, YIELD, TRAP, BKPT and RTE
(10 R176 to R184). EXIT stands in Exit.lean.
-/
namespace Sys2Proof.Machine

/-- Every entry that holds one of the given threads takes a yield mark (07 R119). -/
def markThreads (ts : List Nat) (pct : List PcEntry) : List PcEntry :=
  pct.map (fun e => if e.threads.any (fun t => ts.contains t) then { e with mark := true } else e)

/-- The instruction has issued, its threads moved, and the entries that hold them marked if it is yield-marked. -/
def State.issuedMarked (s : State) (c : Ctx) (r : Row) (moves : List PcEntry) (marked : Bool) : State :=
  (s.issued c r moves).modRow c.ref (fun r => if marked then Row.choose { r with pct := markThreads c.act r.pct } else r)

/-- ILLOP at a transfer's target: TRAPPC is the target and TRAPINFO the address of the transfer (10 R177). -/
def Trap.target (c : Ctx) (a : CodeAddr) : Trap := ⟨.illop, some (wval c.ia.toWord), some a⟩

/-- The threads of the group a condition leaves behind. -/
def Ctx.rest (c : Ctx) (ts : List Nat) : List Nat := c.act.filter (fun t => !ts.contains t)

/-- The link of a call: the address of the word after it (10 R178). -/
def Ctx.link (c : Ctx) : Word := c.next.addr.toWord

/-- The field of the register CALL writes: v0, or p0 in generation 0. -/
def linkField (c : Ctx) : Int := if c.gen0 then -121 else 0

/-- The target of a format E transfer (06 R93). -/
def Ctx.branchTo (c : Ctx) (off : Int) : CodeAddr := c.ia.plus off

/-- Write the link to a register of each thread that takes the transfer. -/
def linkThreads (c : Ctx) (d : Int) (ts : List Nat) : Row :=
  ts.foldl (fun r p => wrReg c.gen0 c.w r d p (wval c.link)) c.r

/-- BR and CALL (10 R177, R178, 07 R119). -/
def branch (s : State) (f : FE) (call : Bool) : Host.Outcome State Fault Refusal :=
  withRow s (fun c => do
    let us := if call then [dst (linkField c)] else []
    gate c true us (predOk f.pred) {}
    let ts := c.acting f.pred
    if usesBusy c us then .ok (s.hold c 11)
    else
      match (if call ∨ f.off < 0 then s.atPortableSafePoint c else none) with
      | some t => .ok t
      | none =>
        need (f.unif != 1 || ts.isEmpty || ts.length == c.act.length) (Trap.unif c f.pred)
        need (ts.isEmpty || s.canEnter c.fld (c.branchTo f.off)) (Trap.target c (c.branchTo f.off))
        let r := if call then linkThreads c (linkField c) ts else c.r
        .ok (s.issuedMarked c r [c.goto ts (c.branchTo f.off), c.nextOf (c.rest ts)] (f.unif == -1)))

/-- BR (R177). -/
def execBr (f : FE) (s : State) : Host.Outcome State Fault Refusal := branch s f false
/-- CALL (R178). -/
def execCall (f : FE) (s : State) : Host.Outcome State Fault Refusal := branch s f true

/-! ### Indirect transfers (10 R179, R180) -/

/-- Where an address in a freed generation leads: the point of the current generation that stands for the same portable
return point; none when the return map does not hold it. -/
def State.remap (s : State) (f : Nat) (a : CodeAddr) : Option CodeAddr :=
  match s.slot? f a.slot with
  | none => none
  | some sl =>
    match (sl.gens.find? (fun g => g.gen == a.gen)).bind (fun g => g.tr.rets.find? (fun p => p.1 == a.idx)) with
    | none => none
    | some p =>
      match sl.gens.getLast? with
      | none => none
      | some cur =>
        if cur.gen = 0 then some ⟨0, a.slot, p.2⟩
        else (cur.tr.rets.find? (fun q => q.2 == p.2)).map (fun q => ⟨cur.gen, a.slot, q.1⟩)

/-- The target after any remap: none is ILLOP. -/
def State.resolve (s : State) (f : Nat) (a : CodeAddr) : Option CodeAddr :=
  if a.gen != 0 && (s.gener? f a.slot a.gen).isNone then s.remap f a else some a

/-- The checks of R180 over the threads that transfer, in ascending position. -/
def indirectCheck (s : State) (c : Ctx) (tg : Nat → CodeAddr) (ts : List Nat) : Except Trap Unit := do
  match ts.find? (fun t => (tg t).slot != c.e.addr.slot) with
  | some t => .error (Trap.prot (wval (tg t).toWord))
  | none => .ok ()
  need (ts.all (fun t => (s.resolve c.fld (tg t)).isSome)) Trap.illop
  match ts.find? (fun t => !s.canEnter c.fld ((s.resolve c.fld (tg t)).getD (tg t))) with
  | some t => .error (Trap.target c ((s.resolve c.fld (tg t)).getD (tg t)))
  | none => .ok ()

/-- JMPR, CALLR and RET: `d` is the register a call links, if any. -/
def indirect (s : State) (f : FA) (d : Option Int) : Host.Outcome State Fault Refusal :=
  withRow s (fun c => do
    let us := src f.a :: (match d with | some d => [dst d] | none => [])
    let row := match d with | some d => rowSide c d | none => false
    gate c true us (predOk f.pred && f.b == 0 && f.ty == 0 && (d.isSome || f.dst == 0) &&
      (!row || rowSrcs c [f.a])) {}
    if usesBusy c us then .ok (s.hold c 11)
    else
      match (if d.isSome then s.atPortableSafePoint c else none) with
      | some t => .ok t
      | none =>
        let ts ← if row then (rowActs c f.pred).map (fun a => if a then c.act else []) else .ok (c.acting f.pred)
        let tg (t : Nat) : CodeAddr := CodeAddr.ofWord (word (rd c f.a t))
        indirectCheck s c tg ts
        let r := match d with
          | none => c.r
          | some d =>
            if row then (if ts.isEmpty then c.r else wrReg false c.w c.r d 0 (wval c.link)) else linkThreads c d ts
        .ok (s.issued c r (ts.map (fun t => c.goto [t] ((s.resolve c.fld (tg t)).getD (tg t))) ++ [c.nextOf (c.rest ts)])))

/-- JMPR (R179). -/
def execJmpr (f : FA) (s : State) : Host.Outcome State Fault Refusal := indirect s f none
/-- CALLR (R179). -/
def execCallr (f : FA) (s : State) : Host.Outcome State Fault Refusal := indirect s f (some f.dst)
/-- RET (R179, R180). -/
def execRet (f : FA) (s : State) : Host.Outcome State Fault Refusal := indirect s f none

/-! ### YIELD, TRAP, BKPT, RTE -/

/-- YIELD (R182). -/
def execYield (f : FA) (s : State) : Host.Outcome State Fault Refusal :=
  withRow s (fun c => do
    gate c false [] (f.dst == 0 && f.a == 0 && f.b == 0 && f.pred == 0 && f.ty == 0) {}
    .ok (s.issuedMarked c c.r [c.next] true))

/-- Raise TRAPI: the resume address is the next word (R183). -/
def raiseTrapi (s : State) (c : Ctx) (info : Int) (bk : Bool) : State :=
  takeTrapAt s c .trapi (word info) c.e.addr bk (c.k + 1) (c.e.rem - (c.k + 1))

/-- TRAP (R183). -/
def execTrap (f : FB) (s : State) : Host.Outcome State Fault Refusal :=
  withRow s (fun c => do
    gate c true [] (f.dst == 0 && f.a == 0 && f.ty == 0) { imm := true, p := true }
    let acts ← rowActs c c.mod.pred
    .ok (if acts then raiseTrapi s c (c.immVal f.imm) false else s.finish c c.r))

/-- BKPT (R183). -/
def execBkpt (f : FA) (s : State) : Host.Outcome State Fault Refusal :=
  withRow s (fun c => do
    gate c false [] (f.dst == 0 && f.a == 0 && f.b == 0 && f.ty == 0 && predOk f.pred) {}
    let acts ← rowActs c f.pred
    .ok (if acts then raiseTrapi s c 0 true else s.finish c c.r))

/-- RTE (R184). -/
def execRte (f : FA) (s : State) : Host.Outcome State Fault Refusal :=
  withRow s (fun c => do
    gate c true [] (f.dst == 0 && f.a == 0 && f.b == 0 && f.pred == 0 && f.ty == 0) {}
    need c.r.handler.active Trap.illop
    need (c.r.handler.members.all (fun t => c.act.contains t)) (Trap.nonUniform c)
    let a := resumeAddr c.r.handler
    need (!c.r.handler.pcWritten || s.canEnter c.fld a) (Trap.target c a)
    .ok (leaveHandler s c))

end Sys2Proof.Machine
end

