-- ==== Sys2Proof/Machine/Integer.lean ====
section
/-!
DEFINITION. Class +1: integer and trit-logic instructions (08 R135 to R141, R148).
-/
namespace Sys2Proof.Machine

/-- The types .t27 and .t9 (08 Table 8.1). -/
def t27t9 (ty : Int) : Bool := ty == 0 || ty == 1

/-- A class +1 instruction of sources a and b: its accepted types and prefixes, and its result for the words of a and b
after negation. -/
def intAB (s : State) (f : FA) (types : Bool) (a : Accept) (g : Bool → Int → Int → Int × Fx) :
    Host.Outcome State Fault Refusal :=
  withRow s (fun c => alu s c ⟨f.dst, 1, [src f.a, src f.b], f.pred, predOk f.pred && types, a⟩
    (fun p =>
      let r := g (c.mod.sat == 1) (negIf c.mod.na (rd c f.a p)) (negIf c.mod.nb (rd c f.b p))
      ([r.1], r.2)))

/-- A class +1 instruction of source a alone; its b field must satisfy `bOk`. -/
def intA (s : State) (f : FA) (fields : Bool) (a : Accept) (g : Bool → Int → Int × Fx) :
    Host.Outcome State Fault Refusal :=
  withRow s (fun c => alu s c ⟨f.dst, 1, [src f.a], f.pred, predOk f.pred && fields, a⟩
    (fun p =>
      let r := g (c.mod.sat == 1) (negIf c.mod.na (rd c f.a p))
      ([r.1], r.2)))

/-- Accepted prefixes: N a b; N a b and S; N a; S (08 Table 8.1). -/
def accAB : Accept := { na := true, nb := true }
def accABS : Accept := { na := true, nb := true, sat := true }
def accA : Accept := { na := true }
def accS : Accept := { sat := true }

/-- The exact element results of 08 R136. -/
def elemAdd (x y : Int) : Int := x + y
def elemSub (x y : Int) : Int := x - y
def elemMul (x y : Int) : Int := x * y
/-- The high w trits of the product. -/
def elemMulh (w : Nat) (x y : Int) : Int := (x * y - wrapT w (x * y)) / 3 ^ w
def elemMin (x y : Int) : Int := if x ≤ y then x else y
def elemMax (x y : Int) : Int := if x ≤ y then y else x
def elemAbs (x : Int) : Int := if x < 0 then -x else x

/-- The integer nearest x ÷ y; of two equally near, the one of smaller magnitude (08 R137). -/
def divNear (x y : Int) : Int :=
  let q : Int := ((2 * x.natAbs + y.natAbs - 1) / (2 * y.natAbs) : Nat)
  if (x < 0) = (y < 0) then q else -q
/-- The integer part of x ÷ y, toward zero. -/
def divZero (x y : Int) : Int := Int.tdiv x y
/-- Quotient and flag (08 R137): a zero divisor gives 0 and raises DZ. -/
def quot (near : Bool) (x y : Int) : Int × Fx :=
  if y = 0 then (0, Fx.DZ) else (if near then divNear x y else divZero x y, Fx.clear)
def remdr (near : Bool) (x y : Int) : Int × Fx :=
  (x - (quot near x y).1 * y, (quot near x y).2)

/-- An element operation on two packed words, completed under R132. -/
def packed (w : Nat) (sat : Bool) (g : Int → Int → Int) (x y : Int) : Int × Fx :=
  perElem w (fun j => complete w sat (g (elem x w j) (elem y w j)))
/-- An element operation that completes itself. -/
def packedFx (w : Nat) (g : Int → Int → Int × Fx) (x y : Int) : Int × Fx :=
  perElem w (fun j => g (elem x w j) (elem y w j))

/-- A shift of an element by m trits (08 R138); positive m moves toward the significant end. -/
def shiftElem (w : Nat) (sat : Bool) (m : Int) (x : Int) : Int × Fx :=
  if 0 ≤ m then complete w sat (x * 3 ^ (Min.min m (w : Int)).toNat)
  else if -m < (w : Int) then (field x (-m).toNat (w - (-m).toNat), Fx.clear)
  else (0, Fx.clear)
/-- A shift of every element by one count. -/
def shiftWord (w : Nat) (sat : Bool) (m : Int) (x : Int) : Int × Fx :=
  perElem w (fun j => shiftElem w sat m (elem x w j))
/-- Rotation of an element: trit i becomes trit (i − n) mod w. -/
def rotElem (w : Nat) (n : Int) (x : Int) : Int :=
  let k := (n % (w : Int)).toNat
  field x 0 (w - k) * 3 ^ k + field x (w - k) k
def rotWord (w : Nat) (n : Int) (x : Int) : Int × Fx :=
  perElem w (fun j => (rotElem w n (elem x w j), Fx.clear))

/-- The 27 trits of a word. -/
def trits27 (x : Int) : List Int := (List.range 27).map (trit x)
/-- A word from a trit function. -/
def ofTrits (g : Nat → Int) : Int := (List.range 27).foldl (fun acc i => acc + g i * 3 ^ i) 0
/-- A per-trit operation on two words (08 R140). -/
def perTrit (g : Int → Int → Int) (x y : Int) : Int := ofTrits (fun i => g (trit x i) (trit y i))
/-- Addition modulo 3 on trits. -/
def tritSum (x y : Int) : Int := wrapT 1 (x + y)
def tritCons (x y : Int) : Int := if x = y then x else 0

/-- The count TCNT writes (08 R139). -/
def tritCount (v x : Int) : Int :=
  if v = 2 then (((trits27 x).takeWhile (· == 0)).length : Nat)
  else if v = -2 then (((trits27 x).reverse.takeWhile (· == 0)).length : Nat)
  else (((trits27 x).filter (· == v)).length : Nat)

/-- Replace element k of width 9 (08 R141). -/
def insElem9 (x : Int) (k : Nat) (v : Int) : Int := x - field x (9 * k) 9 * 3 ^ (9 * k) + v * 3 ^ (9 * k)

/-- The element index codes of PACK9 and UNP9 are 0, 1, 2. -/
def k012 (ty : Int) : Bool := decide (0 ≤ ty ∧ ty ≤ 2)

/-- MOV (R136). In generation 0 type 0t−− reads a special (06 R110). -/
def execMov (f : FA) (s : State) : Host.Outcome State Fault Refusal :=
  withRow s (fun c =>
    if c.gen0 && f.ty == -4 then do
      need (clauseOk c false) Trap.illop
      need (regsOk c f.dst 1 true && isSpecial f.a) Trap.illop
      lockCheck c ((dst f.dst).fields c)
      need (f.b == 0 && predOk f.pred && pfxOk {} c) Trap.illmod
      if usesBusy c [dst f.dst] then .ok (s.hold c 11)
      else .ok (s.finish c (perThread c f.dst f.pred (fun p => ([special c f.a p], Fx.clear))))
    else alu s c ⟨f.dst, 1, [src f.a], f.pred, predOk f.pred && f.ty == 0 && f.b == 0, {}⟩
      (fun p => ([rd c f.a p], Fx.clear)))

/-- ADD (R136). -/
def execAdd (f : FA) (s : State) : Host.Outcome State Fault Refusal :=
  intAB s f (t27t9 f.ty) accABS (fun sat => packed (widthOfA f.ty) sat elemAdd)
/-- SUB (R136). -/
def execSub (f : FA) (s : State) : Host.Outcome State Fault Refusal :=
  intAB s f (t27t9 f.ty) accABS (fun sat => packed (widthOfA f.ty) sat elemSub)
/-- MUL (R136). -/
def execMul (f : FA) (s : State) : Host.Outcome State Fault Refusal :=
  intAB s f (t27t9 f.ty) accABS (fun sat => packed (widthOfA f.ty) sat elemMul)
/-- MULH (R136). -/
def execMulh (f : FA) (s : State) : Host.Outcome State Fault Refusal :=
  intAB s f (t27t9 f.ty) accAB (fun _ => packed (widthOfA f.ty) false (elemMulh (widthOfA f.ty)))
/-- DIV (R137). -/
def execDiv (f : FA) (s : State) : Host.Outcome State Fault Refusal :=
  intAB s f (t27t9 f.ty) accAB (fun _ => packedFx (widthOfA f.ty) (quot true))
/-- MOD (R137). -/
def execMod (f : FA) (s : State) : Host.Outcome State Fault Refusal :=
  intAB s f (t27t9 f.ty) accAB (fun _ => packedFx (widthOfA f.ty) (remdr true))
/-- DIVT (R137). -/
def execDivt (f : FA) (s : State) : Host.Outcome State Fault Refusal :=
  intAB s f (t27t9 f.ty) accAB (fun _ => packedFx (widthOfA f.ty) (quot false))
/-- MODT (R137). -/
def execModt (f : FA) (s : State) : Host.Outcome State Fault Refusal :=
  intAB s f (t27t9 f.ty) accAB (fun _ => packedFx (widthOfA f.ty) (remdr false))
/-- MIN (R136). -/
def execMin (f : FA) (s : State) : Host.Outcome State Fault Refusal :=
  intAB s f (t27t9 f.ty) accAB (fun _ => packed (widthOfA f.ty) false elemMin)
/-- MAX (R136). -/
def execMax (f : FA) (s : State) : Host.Outcome State Fault Refusal :=
  intAB s f (t27t9 f.ty) accAB (fun _ => packed (widthOfA f.ty) false elemMax)
/-- ABS (R136). -/
def execAbs (f : FA) (s : State) : Host.Outcome State Fault Refusal :=
  intA s f (t27t9 f.ty && f.b == 0) accA (fun _ x => packed (widthOfA f.ty) false (fun x _ => elemAbs x) x 0)
/-- SGN (R136). -/
def execSgn (f : FA) (s : State) : Host.Outcome State Fault Refusal :=
  intA s f (t27t9 f.ty && f.b == 0) accA (fun _ x => packed (widthOfA f.ty) false (fun x _ => Sys2Proof.sgn x) x 0)
/-- SHL (R138). -/
def execShl (f : FA) (s : State) : Host.Outcome State Fault Refusal :=
  intAB s f (t27t9 f.ty) accS (fun sat x y => shiftWord (widthOfA f.ty) sat y x)
/-- SHR (R138). -/
def execShr (f : FA) (s : State) : Host.Outcome State Fault Refusal :=
  intAB s f (t27t9 f.ty) accS (fun sat x y => shiftWord (widthOfA f.ty) sat (-y) x)
/-- ROT (R138). -/
def execRot (f : FA) (s : State) : Host.Outcome State Fault Refusal :=
  intAB s f (t27t9 f.ty) {} (fun _ x y => rotWord (widthOfA f.ty) y x)
/-- TCNT (R139): b is the immediate v. -/
def execTcnt (f : FA) (s : State) : Host.Outcome State Fault Refusal :=
  intA s f (f.ty == 0 && decide (-2 ≤ f.b ∧ f.b ≤ 2)) {} (fun _ x => (tritCount f.b x, Fx.clear))
/-- TMIN (R140). -/
def execTmin (f : FA) (s : State) : Host.Outcome State Fault Refusal :=
  intAB s f (f.ty == 0) accAB (fun _ x y => (perTrit elemMin x y, Fx.clear))
/-- TMAX (R140). -/
def execTmax (f : FA) (s : State) : Host.Outcome State Fault Refusal :=
  intAB s f (f.ty == 0) accAB (fun _ x y => (perTrit elemMax x y, Fx.clear))
/-- TNOT (R140). -/
def execTnot (f : FA) (s : State) : Host.Outcome State Fault Refusal :=
  intA s f (f.ty == 0 && f.b == 0) accA (fun _ x => (-x, Fx.clear))
/-- TSUM (R140). -/
def execTsum (f : FA) (s : State) : Host.Outcome State Fault Refusal :=
  intAB s f (f.ty == 0) accAB (fun _ x y => (perTrit tritSum x y, Fx.clear))
/-- TMUL (R140). -/
def execTmul (f : FA) (s : State) : Host.Outcome State Fault Refusal :=
  intAB s f (f.ty == 0) accAB (fun _ x y => (perTrit (fun a b => a * b) x y, Fx.clear))
/-- TCONS (R140). -/
def execTcons (f : FA) (s : State) : Host.Outcome State Fault Refusal :=
  intAB s f (f.ty == 0) accAB (fun _ x y => (perTrit tritCons x y, Fx.clear))
/-- PACK9 (R141). -/
def execPack9 (f : FA) (s : State) : Host.Outcome State Fault Refusal :=
  intAB s f (k012 f.ty) accS (fun sat x y =>
    (insElem9 y f.ty.toNat (complete 9 sat x).1, (complete 9 sat x).2))
/-- UNP9 (R141). -/
def execUnp9 (f : FA) (s : State) : Host.Outcome State Fault Refusal :=
  intA s f (k012 f.ty && f.b == 0) {} (fun _ x => (elem x 9 f.ty.toNat, Fx.clear))

/-- A predicate register number (08 R131). -/
def qNum (n : Int) : Bool := decide (0 ≤ n ∧ n ≤ 8)

/-- An instruction that writes a predicate of every acting thread (08 R148, R150, R152, 09 R163). -/
def quAlu (s : State) (c : Ctx) (qd : Int) (srcs : List Use) (pred : Int) (fields : Bool) (a : Accept)
    (g : Nat → Int × Fx) : Except Trap State := do
  gate c false srcs (fields && predOk pred && qNum qd) a
  if usesBusy c srcs then .ok (s.hold c 11)
  else .ok (s.finish c ((c.acting pred).foldl
    (fun r p => (r.setQ qd.toNat p (Trit.ofSign (g p).1)).raise p (g p).2) c.r))

/-- CMP (R148). -/
def execCmp (f : FA) (s : State) : Host.Outcome State Fault Refusal :=
  withRow s (fun c => quAlu s c f.dst [src f.a, src f.b] f.pred (f.ty == 0) accAB
    (fun p => (Sys2Proof.sgn (negIf c.mod.na (rd c f.a p) - negIf c.mod.nb (rd c f.b p)), Fx.clear)))

end Sys2Proof.Machine
end

