-- ==== Sys2Proof/Machine/Round.lean ====
section
/-!
DEFINITION. The ternary floating-point formats: reading, rounding and writing them (02 R24 to R32).
-/
namespace Sys2Proof.Machine

/-- The formats F27, F9N and F9W. -/
inductive FKind where
  | f27 | f9n | f9w
deriving DecidableEq, Repr

/-- Significand trits. -/
def FKind.sig : FKind → Nat
  | .f27 => 21 | .f9n => 6 | .f9w => 5
/-- Exponent trits. -/
def FKind.exp : FKind → Nat
  | .f27 => 6 | .f9n => 3 | .f9w => 4
/-- Element width. -/
def FKind.width : FKind → Nat
  | .f27 => 27 | .f9n => 9 | .f9w => 9
/-- The greatest exponent code: of ∞ and NaN. -/
def FKind.top (k : FKind) : Int := maxT k.exp

/-- A float operand: NaN (signalling or not, its word), ∞ (negative or not), or the finite value m × 3^e. -/
inductive Fl where
  | nan (signalling : Bool) (raw : Int)
  | inf (neg : Bool)
  | fin (m e : Int)
deriving DecidableEq, Repr

/-- Read one element (02 R27, R30). -/
def readFl (k : FKind) (x : Int) : Fl :=
  let e := field x k.sig k.exp
  let sg := field x 0 k.sig
  if e = k.top then
    if sg = 3 ^ (k.sig - 1) then .inf false
    else if sg = -(3 ^ (k.sig - 1)) then .inf true
    else .nan (k == .f27 && sg != 0 && trit x 19 != 1) x
  else if k != .f27 && e == -k.top then .fin 0 0
  else .fin sg (e - (k.sig - 1 : Nat))

/-- A word of exponent and significand. -/
def mkFl (k : FKind) (e sg : Int) : Int := e * 3 ^ k.sig + sg
/-- ∞ (02 Tables 2.5, 2.7). -/
def infWord (k : FKind) (neg : Bool) : Int := mkFl k k.top (if neg then -(3 ^ (k.sig - 1)) else 3 ^ (k.sig - 1))
/-- The default NaN. -/
def nanWord (k : FKind) : Int := mkFl k k.top 0
/-- The canonical zero. -/
def zeroWord (k : FKind) : Int := mkFl k (-k.top) 0
/-- Quieting sets t19 to +, and leaves the default NaN (02 R32). -/
def quietNaN (x : Int) : Int := if field x 0 21 = 0 then x else x - trit x 19 * 3 ^ 19 + 3 ^ 19

/-- The number of trits up to the most significant nonzero one: the least n with 2|m| < 3^n. -/
def tlen (m : Int) : Nat :=
  let y := 2 * m.natAbs
  let up (n : Nat) : Nat := if y < 3 ^ n then n else n + 1
  if m = 0 then 0 else up (up (up (Nat.log2 y * 100000 / 158497)))

/-- Drop the low d trits (00 R7). -/
def dropT (m : Int) (d : Nat) : Int := (m - wrapT d m) / 3 ^ d
/-- Whether some of the low d trits is nonzero. -/
def lowT (m : Int) (d : Nat) : Bool := decide (wrapT d m ≠ 0)
/-- m × 3^e as an integer for e ≥ 0; otherwise its low trits dropped. -/
def scaleT (m e : Int) : Int := if 0 ≤ e then m * 3 ^ e.toNat else dropT m (-e).toNat

/-- Round the exact terminating value m × 3^e into a format (02 R24, R25, Table 2.8, R31). -/
def roundT (k : FKind) (m e : Int) : Int × Fx :=
  if m = 0 then (zeroWord k, Fx.clear)
  else
    let n := tlen m
    let ex := e + n - 1
    if ex ≥ k.top then (infWord k (decide (m < 0)), Fx.OFNX)
    else if k = .f27 then
      if ex < -k.top then
        let d := -384 - e
        (mkFl k (-k.top) (scaleT m (-d)), Fx.cond (decide (0 < d) && lowT m d.toNat) Fx.UFNX)
      else (mkFl k ex (scaleT m ((k.sig : Int) - n)),
        Fx.cond (decide (k.sig < n) && lowT m (n - k.sig)) Fx.NX)
    else if ex ≤ -k.top then (zeroWord k, Fx.UFNX)
    else (mkFl k ex (scaleT m ((k.sig : Int) - n)),
      Fx.cond (decide (k.sig < n) && lowT m (n - k.sig)) Fx.NX)

/-- The value of a real |v| seen through `g`, where g u is ⌊6|v| ÷ 3^u⌋ with whether it is exact: nearest integer to
|v| ÷ 3^u, ties to the smaller magnitude (02 R26). -/
def nearest6 (f : Int × Bool) : Int := if f.2 then (f.1 + 2) / 6 else (f.1 + 3) / 6

/-- The exponent E with 3^E ÷ 2 ≤ |v| < 3^(E+1) ÷ 2, from a first guess. -/
def findExp (g : Int → Int × Bool) : Nat → Int → Int
  | 0, e => e
  | n + 1, e =>
    let f := (g (e - 20)).1
    if f < 3 ^ 21 then findExp g n (e - 1)
    else if f ≥ 3 ^ 22 then findExp g n (e + 1) else e

/-- Round a nonzero real to F27 (02 R24, R26, Table 2.8). The value a sixth of a unit or less above the lower edge of
its binade is nearer to the greatest significand below. -/
def roundG (neg : Bool) (guess : Int) (g : Int → Int × Bool) : Int × Fx :=
  let e := findExp g 8 guess
  let f := g (e - 20)
  let low := decide (f.1 < 3 ^ 21 + 1) || (f.1 == 3 ^ 21 + 1 && f.2)
  let e' := if low then e - 1 else e
  let n : Int := if low then maxT 21 else nearest6 f
  let exact := !low && f.2 && f.1 % 6 == 0
  let sg (x : Int) : Int := if neg then -x else x
  if e' > 363 then (infWord .f27 neg, Fx.OFNX)
  else if e' < -364 then
    let h := g (-384)
    (mkFl .f27 (-364) (sg (nearest6 h)), Fx.cond (!(h.2 && h.1 % 6 == 0)) Fx.UFNX)
  else (mkFl .f27 e' (sg n), Fx.cond (!exact) Fx.NX)

/-- ⌊num × 3^k ÷ den⌋ and whether it is exact. -/
def floorScaled (num den : Nat) (k : Int) : Nat × Bool :=
  let a := if 0 ≤ k then num * 3 ^ k.toNat else num
  let b := if 0 ≤ k then den else den * 3 ^ (-k).toNat
  (a / b, a % b == 0)

/-- The view of num ÷ den × 3^e that roundG takes. -/
def viewRat (num den : Nat) (e : Int) (u : Int) : Int × Bool :=
  let r := floorScaled (6 * num) den (e - u)
  ((r.1 : Int), r.2)

/-- Round ±num ÷ den × 3^e, not zero, to F27. -/
def roundRat (neg : Bool) (num den : Nat) (e : Int) : Int × Fx :=
  roundG neg (e + tlen num - tlen den) (viewRat num den e)

/-- Integer square root by Newton's steps from above. -/
def isqrtFrom (n : Nat) : Nat → Nat → Nat
  | 0, x => x
  | fuel + 1, x => let y := (x + n / x) / 2; if y < x then isqrtFrom n fuel y else x
def isqrt (n : Nat) : Nat := if n = 0 then 0 else isqrtFrom n 64 (2 ^ (Nat.log2 n / 2 + 1))

/-- The view of √(num ÷ den × 3^e). -/
def viewSqrt (num den : Nat) (e : Int) (u : Int) : Int × Bool :=
  let r := floorScaled (36 * num) den (e - 2 * u)
  let q := isqrt r.1
  ((q : Int), r.2 && q * q == r.1)
/-- Round √(num ÷ den × 3^e), not zero, to F27. -/
def roundSqrt (num den : Nat) (e : Int) : Int × Fx :=
  roundG false ((e + tlen num - tlen den) / 2) (viewSqrt num den e)

/-! ### Exceptional operands (02 R32, Table 2.8) -/

/-- The NaN rows: the first NaN operand, quieted with IV when any operand is signalling; for an F9 format the default
F9 NaN. -/
def nanCase (k : FKind) (ops : List Fl) : Option (Int × Fx) :=
  let first := ops.findSome? (fun o => match o with | .nan _ r => some r | _ => none)
  let sig := ops.any (fun o => match o with | .nan b _ => b | _ => false)
  match first with
  | none => none
  | some r => some (if k = .f27 then (if sig then quietNaN r else r) else nanWord k, Fx.cond sig Fx.IV)

/-- An exact result: invalid, ∞, or a terminating value. -/
inductive Ex where
  | bad
  | inf (neg : Bool)
  | val (m e : Int)
deriving DecidableEq, Repr

/-- Write an exact result (09 R155). -/
def Ex.write (k : FKind) : Ex → Int × Fx
  | .bad => (nanWord k, Fx.IV)
  | .inf n => (infWord k n, Fx.clear)
  | .val m e => roundT k m e

def Fl.toEx : Fl → Ex
  | .nan _ _ => .bad
  | .inf n => .inf n
  | .fin m e => .val m e

/-- Exact sum; ∞ − ∞ is invalid. -/
def Ex.add : Ex → Ex → Ex
  | .bad, _ => .bad
  | _, .bad => .bad
  | .inf a, .inf b => if a = b then .inf a else .bad
  | .inf a, .val _ _ => .inf a
  | .val _ _, .inf b => .inf b
  | .val m e, .val n f =>
    if m = 0 then .val n f else if n = 0 then .val m e
    else if e ≤ f then .val (m + n * 3 ^ (f - e).toNat) e else .val (m * 3 ^ (e - f).toNat + n) f

/-- Exact product; 0 × ∞ is invalid. -/
def Ex.mul : Ex → Ex → Ex
  | .bad, _ => .bad
  | _, .bad => .bad
  | .inf a, .inf b => .inf (a != b)
  | .inf a, .val m _ => if m = 0 then .bad else .inf (a != decide (m < 0))
  | .val m _, .inf b => if m = 0 then .bad else .inf (decide (m < 0) != b)
  | .val m e, .val n f => .val (m * n) (e + f)

/-- Negation of an element (02 R29): significand trits inverted; a NaN unchanged. -/
def negFl (k : FKind) (x : Int) : Int :=
  match readFl k x with
  | .nan _ _ => x
  | _ => x - 2 * field x 0 k.sig

/-- Compare two values that are no NaN: −1, 0 or +1. -/
def cmpFl : Fl → Fl → Int
  | .inf a, .inf b => if a = b then 0 else if a then -1 else 1
  | .inf a, _ => if a then -1 else 1
  | _, .inf b => if b then 1 else -1
  | .fin m e, .fin n f =>
    if e ≤ f then Sys2Proof.sgn (m - n * 3 ^ (f - e).toNat) else Sys2Proof.sgn (m * 3 ^ (e - f).toNat - n)
  | _, _ => 0

/-- Integer value of m × 3^e by a mode of 02 Table 2.11 (0 near, −1 floor, +1 ceil, 3 zero), and whether inexact. -/
def roundInt (mode m e : Int) : Int × Bool :=
  if 0 ≤ e then (m * 3 ^ e.toNat, false)
  else
    let d := (-e).toNat
    let p : Int := 3 ^ d
    (if mode = 0 then dropT m d else if mode = -1 then m / p else if mode = 1 then -((-m) / p) else Int.tdiv m p,
      decide (m % p ≠ 0))
/-- A mode that Table 2.11 does not reserve. -/
def modeOk (b : Int) : Bool := b == 0 || b == -1 || b == 1 || b == 3

end Sys2Proof.Machine
end

