-- ==== Sys2Proof/Machine/Special.lean ====
section
/-!
DEFINITION. e^x, ln x, sin 2πx and cos 2πx, rounded to nearest (09 R161). A value is held in an interval of fixed-point
numbers at scale 3^P; when both ends of the interval give one view, the rounding is decided. P doubles until it does,
without bound (log 9).
-/
namespace Sys2Proof.Machine

/-- Half the width of an interval, in units of 3^−p: above the sum of the truncation errors of the series, of at most
p + 816 terms each below one unit, times the 800 multiples of ln 3 that range reduction takes. -/
def halfWidth (p : Int) : Int := 1024 * (p.natAbs + 1024 : Nat)

/-- Sum of t × z^(2i) ÷ (2i + 1) with alternating signs when `alt`: the series of atanh and atan at scale `one`. -/
def atSum (alt : Bool) (one zz : Int) : Nat → Int → Nat → Int → Int
  | 0, _, _, acc => acc
  | n + 1, t, i, acc =>
    let d := t / (2 * (i : Int) + 1)
    atSum alt one zz n (t * zz / one) (i + 1) (if alt && i % 2 == 1 then acc - d else acc + d)

/-- atanh z (alt = false) or atan z for z ÷ one. -/
def atSeries (alt : Bool) (one z : Int) (n : Nat) : Int := atSum alt one (z * z / one) n z 0 0

/-- ln 3 = 2 atanh(1/2) at scale 3^P. -/
def ln3At (p : Nat) : Int := let one : Int := 3 ^ p; 2 * atSeries false one (one / 2) (p + 8)
/-- π = 16 atan(1/5) − 4 atan(1/239) at scale 3^P. -/
def piAt (p : Nat) : Int :=
  let one : Int := 3 ^ p
  16 * atSeries true one (one / 5) (p + 8) - 4 * atSeries true one (one / 239) (p + 8)

/-- Taylor sum of e^r at scale `one`. -/
def expSum (one r : Int) : Nat → Int → Nat → Int → Int
  | 0, _, _, acc => acc
  | n + 1, t, i, acc => expSum one r n (t * r / (one * (i + 1 : Nat))) (i + 1) (acc + t)
/-- Taylor sum of sin r. -/
def sinSum (one rr : Int) : Nat → Int → Nat → Int → Int
  | 0, _, _, acc => acc
  | n + 1, t, i, acc =>
    sinSum one rr n (-(t * rr / (one * ((2 * i + 2) * (2 * i + 3) : Nat)))) (i + 1) (acc + t)

/-- m × 3^e at scale 3^P, floor. -/
def fixAt (p : Nat) (m e : Int) : Int :=
  if 0 ≤ e + p then m * 3 ^ (e + p).toNat else m / 3 ^ (-(e + p)).toNat

/-- An approximation v of a real, in units of 3^−p: the real lies within halfWidth of it. -/
structure Approx where
  v : Int
  p : Int
deriving DecidableEq, Repr

/-- The view of the positive real an approximation holds; none where the ends of its interval differ. -/
def viewApprox (a : Approx) (u : Int) : Option (Int × Bool) :=
  let at_ (x : Int) : Int :=
    if 0 ≤ -a.p - u then 6 * x * 3 ^ (-a.p - u).toNat else (6 * x) / 3 ^ (a.p + u).toNat
  let lo := at_ (a.v - halfWidth a.p)
  if lo = at_ (a.v + halfWidth a.p) then some (lo, false) else none

/-- Round the real an approximation holds; none where it does not decide. -/
def roundApprox (neg : Bool) (a : Approx) : Option (Int × Fx) :=
  let guess := (tlen a.v : Int) - 1 - a.p
  let g (u : Int) : Int × Bool := (viewApprox a u).getD (0, false)
  let e := findExp g 8 guess
  let need := if e - 1 < -364 then [-384] else []
  if ((e - 20) :: need).all (fun u => (viewApprox a u).isSome) then some (roundG neg guess g) else none

/-- e^x for x = m × 3^e: 3^k × e^r with r = x − k ln 3. -/
def expApprox (p : Nat) (m e : Int) : Approx :=
  let one : Int := 3 ^ p
  let l := ln3At p
  let x := fixAt p m e
  let k := (2 * x + l) / (2 * l)
  ⟨expSum one (x - k * l) (p + 8) one 0 0, (p : Int) - k⟩

/-- |ln x| for x = m × 3^e > 0, and whether ln x is negative: x = f × 3^k with f between 1/2 and 3/2. -/
def logApprox (p : Nat) (m e : Int) : Bool × Approx :=
  let one : Int := 3 ^ p
  let n := (tlen m : Int) - 1
  let f := fixAt p m (-n)
  let z := (f - one) * one / (f + one)
  let v := (e + n) * ln3At p + 2 * atSeries false one z (p + 8)
  (decide (v < 0), ⟨if v < 0 then -v else v, p⟩)

/-- sin 2πq for the rational q = num ÷ den in [0, 1/4]. -/
def sinApprox (p : Nat) (num den : Nat) : Approx :=
  let one : Int := 3 ^ p
  let r := 2 * piAt p * num / den
  ⟨sinSum one (r * r / one) (p + 8) r 0 0, p⟩

/-- Try a precision, then twice it, and so on. -/
def firstDecided (f : Nat → Option (Int × Fx)) : Nat → Nat → Option (Int × Fx)
  | 0, _ => none
  | n + 1, p => match f p with | some x => some x | none => firstDecided f n (2 * p)

/-- The rounding that the first deciding precision gives, however great it is. -/
def everDecided (f : Nat → Option (Int × Fx)) (p : Nat) : Option (Int × Fx) :=
  match f p with
  | some x => some x
  | none => everDecided f (2 * p)
partial_fixpoint

/-- The search without bound finds what a bounded one does. -/
theorem everDecided_of_firstDecided {f : Nat → Option (Int × Fx)} {n p : Nat} {y : Int × Fx}
    (h : firstDecided f n p = some y) : everDecided f p = some y := by
  induction n generalizing p with
  | zero => simp [firstDecided] at h
  | succ n ih =>
    rw [everDecided]
    unfold firstDecided at h
    split at h <;> simp_all

/-- The rounding (02 R24): seven precisions are tried by structural recursion, then every greater one. Were the exact value
itself a boundary of two roundings, no precision would decide; no operand has such a value, because every result here is
irrational (log 9). -/
def decided (op : Nat) (x : Int) (p : Nat) (f : Nat → Option (Int × Fx)) : Int × Fx :=
  match firstDecided f 7 p with
  | some r => r
  | none => (everDecided f p).getD (wrapT 27 (Config.freeRound op x), Fx.NX)

/-- Whichever precision decides gives the result: it is free for no operand that some precision decides. -/
theorem decided_of_firstDecided {op : Nat} {x : Int} {f : Nat → Option (Int × Fx)} {n p : Nat} {y : Int × Fx}
    (h : firstDecided f n p = some y) : decided op x p f = y := by
  unfold decided
  split
  · rename_i r hr
    have a := everDecided_of_firstDecided hr
    rw [everDecided_of_firstDecided h] at a
    exact (Option.some.inj a).symm
  · rw [everDecided_of_firstDecided h]; rfl

/-- The exponent of m × 3^e below zero, as a count. -/
def below (m e : Int) : Nat := (-(e + tlen m - 1)).toNat

/-- FEXP on a finite value (09 R161, Table 9.2). -/
def expVal (x m e : Int) : Int × Fx :=
  if m = 0 then (mkFl .f27 0 (3 ^ 20), Fx.clear)
  else if e + tlen m ≥ 8 then
    (if 0 < m then (infWord .f27 false, Fx.OFNX) else (zeroWord .f27, Fx.UFNX))
  else decided 1 x (64 + below m e) (fun p => roundApprox false (expApprox p m e))

/-- FLOG on a finite value above zero. -/
def logVal (x m e : Int) : Int × Fx :=
  if m = 3 ^ (tlen m - 1) ∧ e + tlen m - 1 = 0 then (zeroWord .f27, Fx.clear)
  else decided 2 x 96 (fun p => let r := logApprox p m e; roundApprox r.1 r.2)

/-- The fractional part of m × 3^e, nearest integer removed, over 3^d: numerator and d (09 R161). -/
def fracPart (m e : Int) : Int × Nat := if 0 ≤ e then (0, 0) else (wrapT (-e).toNat m, (-e).toNat)

/-- sin of 2π × n ÷ 3^d, where |n| < 3^d ÷ 2. -/
def sinVal (x n : Int) (d : Nat) : Int × Fx :=
  if n = 0 then (zeroWord .f27, Fx.clear)
  else
    let a := 4 * n.natAbs
    let b := 4 * 3 ^ d
    let q := if a ≤ 3 ^ d then a else 2 * 3 ^ d - a
    decided 3 x (64 + (d - tlen n)) (fun p => roundApprox (decide (n < 0)) (sinApprox p q b))

/-- cos of 2π × n ÷ 3^d. -/
def cosVal (x n : Int) (d : Nat) : Int × Fx :=
  if n = 0 then (mkFl .f27 0 (3 ^ 20), Fx.clear)
  else if 3 * n.natAbs = 3 ^ d then (mkFl .f27 (-1) (-(maxT 21)), Fx.NX)
  else
    let a := 4 * n.natAbs
    let b := 4 * 3 ^ d
    let q := if a ≤ 3 ^ d then 3 ^ d - a else a - 3 ^ d
    decided 4 x (64 + 2 * (d - tlen n)) (fun p => roundApprox (decide (3 ^ d < a)) (sinApprox p q b))

end Sys2Proof.Machine
end

