-- ==== Sys2Proof/Machine/Float.lean ====
section
/-!
DEFINITION. Classes +5 and +6: floating-point instructions (09 R158 to R167).
-/
namespace Sys2Proof.Machine

/-- The format a type code of format A names: .f27, .f9n or .f9w (06 Table 6.8b). -/
def fkindA (ty : Int) : FKind := if ty = 4 then .f9n else if ty = 2 then .f9w else .f27
def fAll (ty : Int) : Bool := ty == 3 || ty == 4 || ty == 2
/-- The format of FMA's type trit (06 R99). -/
def fkindC (ty : Int) : FKind := if ty = 1 then .f9n else if ty = -1 then .f9w else .f27

/-- Apply an element operation to the elements of a format. -/
def perFl (k : FKind) (g : Nat → Int × Fx) : Int × Fx := perElem k.width g
def flElem (k : FKind) (x : Int) (j : Nat) : Int := elem x k.width j

/-- A source element after MODH negation (09 R156). -/
def negEl (k : FKind) (n x : Int) : Int := if n = 1 then negFl k x else x

/-- A float instruction of sources a and b, by elements after negation. -/
def floatAB (s : State) (f : FA) (types : Bool) (g : FKind → Int → Int → Int × Fx) : Host.Outcome State Fault Refusal :=
  withRow s (fun c =>
    let k := fkindA f.ty
    alu s c ⟨f.dst, 1, [src f.a, src f.b], f.pred, predOk f.pred && types, accAB⟩
      (fun p =>
        let r := perFl k (fun j => g k (negEl k c.mod.na (flElem k (rd c f.a p) j)) (negEl k c.mod.nb (flElem k (rd c f.b p) j)))
        ([r.1], r.2)))

/-- A float instruction of source a alone. -/
def floatA (s : State) (f : FA) (fields : Bool) (g : FKind → Int → Int × Fx) : Host.Outcome State Fault Refusal :=
  withRow s (fun c =>
    let k := fkindA f.ty
    alu s c ⟨f.dst, 1, [src f.a], f.pred, predOk f.pred && fields, accA⟩
      (fun p =>
        let r := perFl k (fun j => g k (negEl k c.mod.na (flElem k (rd c f.a p) j)))
        ([r.1], r.2)))

/-- Run Table 2.8: its NaN rows, then the exact result. -/
def table28 (k : FKind) (ops : List Fl) (r : Int × Fx) : Int × Fx := (nanCase k ops).getD r

/-- x + y, x × y and x × y + z, rounded once (09 R159). -/
def flAdd (k : FKind) (x y : Int) : Int × Fx :=
  let a := readFl k x; let b := readFl k y
  table28 k [a, b] ((a.toEx.add b.toEx).write k)
def flMul (k : FKind) (x y : Int) : Int × Fx :=
  let a := readFl k x; let b := readFl k y
  table28 k [a, b] ((a.toEx.mul b.toEx).write k)
def flFma (k : FKind) (x y z : Int) : Int × Fx :=
  let a := readFl k x; let b := readFl k y; let c := readFl k z
  table28 k [a, b, c] (((a.toEx.mul b.toEx).add c.toEx).write k)

/-- FADD (R159). -/
def execFadd (f : FA) (s : State) : Host.Outcome State Fault Refusal := floatAB s f (fAll f.ty) flAdd
/-- FSUB (R159). -/
def execFsub (f : FA) (s : State) : Host.Outcome State Fault Refusal :=
  floatAB s f (fAll f.ty) (fun k x y => flAdd k x (negFl k y))
/-- FMUL (R159). -/
def execFmul (f : FA) (s : State) : Host.Outcome State Fault Refusal := floatAB s f (fAll f.ty) flMul
/-- FMA (R159). -/
def execFma (f : FC) (s : State) : Host.Outcome State Fault Refusal :=
  withRow s (fun c =>
    let k := fkindC f.ty
    alu s c ⟨f.dst, 1, [src f.a, src f.b, src f.c], c.mod.pred, true, { p := true, na := true, nb := true, nc := true }⟩
      (fun p =>
        let r := perFl k (fun j => flFma k (negEl k c.mod.na (flElem k (rd c f.a p) j))
          (negEl k c.mod.nb (flElem k (rd c f.b p) j)) (negEl k c.mod.nc (flElem k (rd c f.c p) j)))
        ([r.1], r.2)))

/-- The quotient of two F27 values (09 R160). -/
def flDiv (k : FKind) (x y : Int) : Int × Fx :=
  let a := readFl k x; let b := readFl k y
  table28 k [a, b] (match a, b with
    | .inf _, .inf _ => (nanWord k, Fx.IV)
    | .inf n, .fin m _ => (infWord k (n != decide (m < 0)), Fx.clear)
    | .fin _ _, .inf _ => (zeroWord k, Fx.clear)
    | .fin m e, .fin n e' =>
      if m = 0 ∧ n = 0 then (nanWord k, Fx.IV)
      else if n = 0 then (infWord k (decide (m < 0)), Fx.DZ)
      else if m = 0 then (zeroWord k, Fx.clear)
      else roundRat (decide (m < 0) != decide (n < 0)) m.natAbs n.natAbs (e - e')
    | _, _ => (nanWord k, Fx.clear))
/-- FDIV (R160). -/
def execFdiv (f : FA) (s : State) : Host.Outcome State Fault Refusal := floatAB s f (f.ty == 3) flDiv

/-- √x (09 R160). -/
def flSqrt (k : FKind) (x : Int) : Int × Fx :=
  let a := readFl k x
  table28 k [a] (match a with
    | .inf n => if n then (nanWord k, Fx.IV) else (infWord k false, Fx.clear)
    | .fin m e => if m < 0 then (nanWord k, Fx.IV) else if m = 0 then (zeroWord k, Fx.clear) else roundSqrt m.natAbs 1 e
    | .nan _ _ => (nanWord k, Fx.clear))
/-- FSQRT (R160). -/
def execFsqrt (f : FA) (s : State) : Host.Outcome State Fault Refusal := floatA s f (f.ty == 3 && f.b == 0) flSqrt
/-- 1 ÷ x (09 R160). -/
def flRcp (k : FKind) (x : Int) : Int × Fx :=
  let a := readFl k x
  table28 k [a] (match a with
    | .inf _ => (zeroWord k, Fx.clear)
    | .fin m e => if m = 0 then (infWord k false, Fx.DZ) else roundRat (decide (m < 0)) 1 m.natAbs (-e)
    | .nan _ _ => (nanWord k, Fx.clear))
/-- FRCP (R160). -/
def execFrcp (f : FA) (s : State) : Host.Outcome State Fault Refusal := floatA s f (f.ty == 3 && f.b == 0) flRcp
/-- 1 ÷ √x (09 R160). -/
def flRsq (k : FKind) (x : Int) : Int × Fx :=
  let a := readFl k x
  table28 k [a] (match a with
    | .inf n => if n then (nanWord k, Fx.IV) else (zeroWord k, Fx.clear)
    | .fin m e =>
      if m < 0 then (nanWord k, Fx.IV) else if m = 0 then (infWord k false, Fx.DZ) else roundSqrt 1 m.natAbs (-e)
    | .nan _ _ => (nanWord k, Fx.clear))
/-- FRSQ (R160). -/
def execFrsq (f : FA) (s : State) : Host.Outcome State Fault Refusal := floatA s f (f.ty == 3 && f.b == 0) flRsq

/-- The canonical encoding of a value that is no NaN. -/
def flCanon (k : FKind) (x : Fl) : Int := (x.toEx.write k).1
/-- The lesser or greater value (09 R162). -/
def flMin (k : FKind) (x y : Int) : Int × Fx :=
  let a := readFl k x; let b := readFl k y
  table28 k [a, b] (flCanon k (if cmpFl a b ≤ 0 then a else b), Fx.clear)
def flMax (k : FKind) (x y : Int) : Int × Fx :=
  let a := readFl k x; let b := readFl k y
  table28 k [a, b] (flCanon k (if cmpFl a b ≤ 0 then b else a), Fx.clear)
/-- FMIN (R162). -/
def execFmin (f : FA) (s : State) : Host.Outcome State Fault Refusal := floatAB s f (fAll f.ty) flMin
/-- FMAX (R162). -/
def execFmax (f : FA) (s : State) : Host.Outcome State Fault Refusal := floatAB s f (fAll f.ty) flMax
/-- |x|; a NaN of any format is returned unchanged (R162). -/
def flAbs (k : FKind) (x : Int) : Int × Fx :=
  match readFl k x with
  | .nan _ _ => (x, Fx.clear)
  | .inf _ => (infWord k false, Fx.clear)
  | .fin m e => ((roundT k (if m < 0 then -m else m) e).1, Fx.clear)
/-- FABS (R162). -/
def execFabs (f : FA) (s : State) : Host.Outcome State Fault Refusal := floatA s f (fAll f.ty && f.b == 0) flAbs

/-- FCMP's trit and flag (R163). -/
def flCompare (x y : Int) : Int × Fx :=
  match readFl .f27 x, readFl .f27 y with
  | .nan _ _, _ => (0, Fx.IV)
  | _, .nan _ _ => (0, Fx.IV)
  | a, b => (cmpFl a b, Fx.clear)
/-- FCMP (R163). -/
def execFcmp (f : FA) (s : State) : Host.Outcome State Fault Refusal :=
  withRow s (fun c => quAlu s c f.dst [src f.a, src f.b] f.pred (f.ty == 3) accAB
    (fun p => flCompare (negEl .f27 c.mod.na (rd c f.a p)) (negEl .f27 c.mod.nb (rd c f.b p))))

/-- The class code of an F27 word (09 Table 9.3). -/
def flClass (x : Int) : Int :=
  let e := field x 21 6
  let sg := field x 0 21
  match readFl .f27 x with
  | .nan b _ => if b then -4 else 4
  | .inf n => if n then -3 else 3
  | .fin _ _ =>
    if trit x 20 ≠ 0 then 2 * Sys2Proof.sgn sg
    else if e = -364 then Sys2Proof.sgn sg
    else if sg = 0 then 6 else 5 * Sys2Proof.sgn sg
/-- FCLS (R164). -/
def execFcls (f : FA) (s : State) : Host.Outcome State Fault Refusal :=
  floatA s f (f.ty == 3 && f.b == 0) (fun _ x => (flClass x, Fx.clear))

/-- x × 3^n (R165); counts beyond ±3000 leave every format's range alike. -/
def flScale (k : FKind) (x n : Int) : Int × Fx :=
  let a := readFl k x
  table28 k [a] (match a with
    | .fin m e => roundT k m (e + satT n (-3000) 3000)
    | b => b.toEx.write k)
/-- FSCL (R165): the whole word b is the count. -/
def execFscl (f : FA) (s : State) : Host.Outcome State Fault Refusal :=
  withRow s (fun c =>
    let k := fkindA f.ty
    alu s c ⟨f.dst, 1, [src f.a, src f.b], f.pred, predOk f.pred && fAll f.ty, accA⟩
      (fun p =>
        let r := perFl k (fun j => flScale k (negEl k c.mod.na (flElem k (rd c f.a p) j)) (rd c f.b p))
        ([r.1], r.2)))
/-- FEXN's exponent (R165). -/
def flExponent (x : Int) : Int × Fx :=
  match readFl .f27 x with
  | .fin m e => if m = 0 then (0, Fx.IV) else (e + tlen m - 1, Fx.clear)
  | _ => (0, Fx.IV)
/-- FEXN (R165). -/
def execFexn (f : FA) (s : State) : Host.Outcome State Fault Refusal :=
  floatA s f (f.ty == 3 && f.b == 0) (fun _ x => flExponent x)

/-- Rounding to an integral value by a mode (R166). -/
def flIntegral (k : FKind) (mode x : Int) : Int × Fx :=
  let a := readFl k x
  table28 k [a] (match a with
    | .fin m e => let r := roundInt mode m e; ((roundT k r.1 0).1, Fx.cond r.2 Fx.NX)
    | b => b.toEx.write k)
/-- FRND (R166): b is the mode. -/
def execFrnd (f : FA) (s : State) : Host.Outcome State Fault Refusal :=
  floatA s f (fAll f.ty && modeOk f.b) (fun k x => flIntegral k f.b x)

/-- e^x (R161, Table 9.2). -/
def flExp (x : Int) : Int × Fx :=
  let a := readFl .f27 x
  table28 .f27 [a] (match a with
    | .inf n => (if n then zeroWord .f27 else infWord .f27 false, Fx.clear)
    | .fin m e => expVal x m e
    | .nan _ _ => (nanWord .f27, Fx.clear))
/-- ln x. -/
def flLog (x : Int) : Int × Fx :=
  let a := readFl .f27 x
  table28 .f27 [a] (match a with
    | .inf n => if n then (nanWord .f27, Fx.IV) else (infWord .f27 false, Fx.clear)
    | .fin m e => if m < 0 then (nanWord .f27, Fx.IV) else if m = 0 then (infWord .f27 true, Fx.DZ) else logVal x m e
    | .nan _ _ => (nanWord .f27, Fx.clear))
/-- sin 2πx and cos 2πx. -/
def flTurn (cos : Bool) (x : Int) : Int × Fx :=
  let a := readFl .f27 x
  table28 .f27 [a] (match a with
    | .inf _ => (nanWord .f27, Fx.IV)
    | .fin m e => let q := fracPart m e; if cos then cosVal x q.1 q.2 else sinVal x q.1 q.2
    | .nan _ _ => (nanWord .f27, Fx.clear))
/-- FEXP (R161). -/
def execFexp (f : FA) (s : State) : Host.Outcome State Fault Refusal :=
  floatA s f (f.ty == 3 && f.b == 0) (fun _ => flExp)
/-- FLOG (R161). -/
def execFlog (f : FA) (s : State) : Host.Outcome State Fault Refusal :=
  floatA s f (f.ty == 3 && f.b == 0) (fun _ => flLog)
/-- FSINT (R161). -/
def execFsint (f : FA) (s : State) : Host.Outcome State Fault Refusal :=
  floatA s f (f.ty == 3 && f.b == 0) (fun _ => flTurn false)
/-- FCOST (R161). -/
def execFcost (f : FA) (s : State) : Host.Outcome State Fault Refusal :=
  floatA s f (f.ty == 3 && f.b == 0) (fun _ => flTurn true)

/-- The union of fx over threads: its TMAX trit by trit (R167). -/
def fxUnion (c : Ctx) : Fx := c.act.foldl (fun x p => x.union (c.r.fxOf p)) Fx.clear
/-- FLGR (R167): per thread with a vector destination; with a scalar one, over the active threads. -/
def execFlgr (f : FA) (s : State) : Host.Outcome State Fault Refusal :=
  withRow s (fun c => do
    gate c false [dst f.dst] (predOk f.pred && f.ty == 0 && f.a == 0 && f.b == 0) {}
    if usesBusy c [dst f.dst] || fxBusy c then .ok (s.hold c 11)
    else if rowSide c f.dst then
      let acts ← rowActs c f.pred
      .ok (s.finish c (if acts then wrReg false c.w c.r f.dst 0 (fxUnion c).toInt else c.r))
    else .ok (s.finish c (perThread c f.dst f.pred (fun p => ([(c.r.fxOf p).toInt], Fx.clear)))))
/-- FLGC (R167). -/
def execFlgc (f : FA) (s : State) : Host.Outcome State Fault Refusal :=
  withRow s (fun c => do
    gate c false [src f.a] (predOk f.pred && f.ty == 0 && f.dst == 0 && f.b == 0) {}
    if usesBusy c [src f.a] || fxBusy c then .ok (s.hold c 11)
    else .ok (s.finish c ((c.acting f.pred).foldl
      (fun r p => r.setFx p ((r.fxOf p).keep (fun i => trit (rd c f.a p) i != 1))) c.r)))

end Sys2Proof.Machine
end

