-- ==== Sys2Proof/Machine/CrossLane.lean ====
section
/-!
DEFINITION. Class +8: shuffles, reductions and scans across the threads of a row (09 R170 to R175).
-/
namespace Sys2Proof.Machine

/-- Segment length of a type code for a row of width w (09 Table 9.5). -/
def segment (ty : Int) (w : Nat) : Nat :=
  Min.min w (if ty = 1 then 27 else if ty = 3 then 9 else if ty = 4 then 3 else w)
def segOk (ty : Int) : Bool := ty == 0 || ty == 1 || ty == 3 || ty == 4

/-- What a shuffle delivers to thread t from source position u: a(u) when u lies in t's segment and thread u is active,
a(t) otherwise (09 R171). -/
def shuffled (c : Ctx) (f : FA) (sg : Nat) (t : Nat) (u : Int) : Int :=
  let sb := sg * (t / sg)
  if (sb : Int) ≤ u ∧ u < (sb + sg : Nat) ∧ u.toNat ∈ c.act then rd c f.a u.toNat else rd c f.a t

/-- A shuffle by a source position function. -/
def shuffle (s : State) (f : FA) (tyOk : Bool) (sg : Ctx → Nat) (u : Ctx → Nat → Int → Int) :
    Host.Outcome State Fault Refusal :=
  withRow s (fun c => do
    let us := [dst f.dst, src f.a, src f.b]
    gate c false us (predOk f.pred && tyOk && vecDst c f.dst) {}
    if usesBusy c us then .ok (s.hold c 11)
    else .ok (s.finish c (perThread c f.dst f.pred
      (fun t => ([shuffled c f (sg c) t (u c t (rd c f.b t))], Fx.clear)))))

/-- XLN.AT (R171). -/
def execXlnAt (f : FA) (s : State) : Host.Outcome State Fault Refusal :=
  shuffle s f (segOk f.ty) (fun c => segment f.ty c.w)
    (fun c t b =>
      let sg := segment f.ty c.w
      if 0 ≤ b ∧ b < sg then ((sg * (t / sg) : Nat) : Int) + b else -1)
/-- XLN.BK (R171). -/
def execXlnBk (f : FA) (s : State) : Host.Outcome State Fault Refusal :=
  shuffle s f (segOk f.ty) (fun c => segment f.ty c.w) (fun _ t b => (t : Int) - b)
/-- XLN.FW (R171). -/
def execXlnFw (f : FA) (s : State) : Host.Outcome State Fault Refusal :=
  shuffle s f (segOk f.ty) (fun c => segment f.ty c.w) (fun _ t b => (t : Int) + b)

/-- The number of base-3 digits of a position: 2, 3 or 4 (09 R171). -/
def levels (w : Nat) : Nat := if w = 9 then 2 else if w = 27 then 3 else 4
/-- The butterfly partner: each base-3 digit of t moved by a trit of b, modulo 3. -/
def triPartner (w t : Nat) (b : Int) : Int :=
  (List.range (levels w)).foldl (fun acc k => acc + (((t / 3 ^ k % 3 : Nat) : Int) + trit b k) % 3 * 3 ^ k) 0
/-- XLN.TRI (R171). -/
def execXlnTri (f : FA) (s : State) : Host.Outcome State Fault Refusal :=
  shuffle s f (f.ty == 0) (fun c => c.w) (fun c t b => triPartner c.w t b)

/-- Operators of 09 Table 9.6 by |val(b)|. -/
inductive LaneOp where
  | add | min | max | tmin | tmax
deriving DecidableEq, Repr

def laneOp (b : Int) : Option LaneOp :=
  match b.natAbs with
  | 1 => some .add | 2 => some .min | 3 => some .max | 4 => some .tmin | 5 => some .tmax | _ => none

/-- The types listed beside an operator: .t27 .t9 .f27, or .t27 alone for the per-trit ones. -/
def laneOpOk (b ty : Int) : Bool :=
  match laneOp b with
  | none => false
  | some .tmin => ty == 0
  | some .tmax => ty == 0
  | some _ => ty == 0 || ty == 1 || ty == 3

/-- A value being combined: exact element sums for integers, a word otherwise. -/
structure LaneAcc where
  els : List Int
  fx : Fx
deriving DecidableEq, Repr

/-- The elements of a source word for a type: one or three integers, or the F27 word. -/
def laneEls (ty x : Int) : List Int := if ty = 1 then [elem x 9 0, elem x 9 1, elem x 9 2] else [x]

/-- The identity of an operator (09 Table 9.6). -/
def laneId (o : LaneOp) (ty : Int) : List Int :=
  if ty = 3 then
    [match o with | .min => infWord .f27 false | .max => infWord .f27 true | _ => zeroWord .f27]
  else
    let m := if ty = 1 then maxT 9 else maxT 27
    let v := match o with | .add => 0 | .min => m | .max => -m | .tmin => maxT 27 | .tmax => -(maxT 27)
    if ty = 1 then [v, v, v] else [v]

/-- Combine two integer elements exactly. -/
def intOp (o : LaneOp) (x y : Int) : Int :=
  match o with
  | .add => x + y | .min => elemMin x y | .max => elemMax x y
  | .tmin => perTrit elemMin x y | .tmax => perTrit elemMax x y

/-- Combine two F27 words in one step. -/
def flOp (o : LaneOp) (x y : Int) : Int × Fx :=
  match o with
  | .min => flMin .f27 x y
  | .max => flMax .f27 x y
  | _ => flAdd .f27 x y

/-- The sum of three F27 words, rounded once (09 R173). -/
def flAdd3 (x y z : Int) : Int × Fx :=
  let a := readFl .f27 x; let b := readFl .f27 y; let c := readFl .f27 z
  table28 .f27 [a, b, c] (((a.toEx.add b.toEx).add c.toEx).write .f27)

/-- Combine three sibling nodes. -/
def node3 (o : LaneOp) (ty : Int) (x y z : LaneAcc) : LaneAcc :=
  if ty = 3 then
    let g (v : LaneAcc) : Int := v.els.headD 0
    let f := x.fx.union (y.fx.union z.fx)
    match o with
    | .add => let r := flAdd3 (g x) (g y) (g z); ⟨[r.1], f.union r.2⟩
    | _ =>
      let r := flOp o (g x) (g y)
      let q := flOp o r.1 (g z)
      ⟨[q.1], f.union (r.2.union q.2)⟩
  else ⟨List.zipWith (intOp o) (List.zipWith (intOp o) x.els y.els) z.els, Fx.clear⟩

/-- One level of the tree: nodes 3n, 3n + 1, 3n + 2 combine. -/
def treeLevel (o : LaneOp) (ty : Int) : List LaneAcc → List LaneAcc
  | x :: y :: z :: r => node3 o ty x y z :: treeLevel o ty r
  | r => r
/-- The tree over the row positions. -/
def treeTotal (o : LaneOp) (ty : Int) : Nat → List LaneAcc → List LaneAcc
  | 0, l => l
  | n + 1, l => treeTotal o ty n (treeLevel o ty l)

/-- Complete the elements under R132: wrap, or saturate with IO. Float words stand as they are. -/
def laneDone (ty : Int) (sat : Bool) (a : LaneAcc) : Int × Fx :=
  if ty = 3 then (a.els.headD 0, a.fx)
  else
    let w := if ty = 1 then 9 else 27
    let r := build w a.els.length (fun j => complete w sat (a.els.getD j 0))
    (r.1, a.fx.union r.2)

/-- The source word of a thread after negation. -/
def laneSrc (c : Ctx) (f : FA) (p : Nat) : Int :=
  let x := rd c f.a p
  if c.mod.na = 1 then (if f.ty = 3 then negFl .f27 x else -x) else x

/-- The total over the contributing threads (09 R173). -/
def laneTotal (c : Ctx) (f : FA) (o : LaneOp) (ts : List Nat) : Int × Fx :=
  let leaves := (List.range c.w).map (fun p =>
    (⟨if ts.contains p then laneEls f.ty (laneSrc c f p) else laneId o f.ty, Fx.clear⟩ : LaneAcc))
  laneDone f.ty (c.mod.sat == 1) ((treeTotal o f.ty (levels c.w) leaves).headD ⟨[], Fx.clear⟩)

/-- S is accepted for the integer .add forms only (09 Table 9.4). -/
def laneAcc (f : FA) : Accept := { na := true, sat := f.ty != 3 && f.b.natAbs == 1 }

/-- LRED (R172, R173). With a scalar destination the condition follows R98; with a vector one the acting threads
contribute and receive. -/
def execLred (f : FA) (s : State) : Host.Outcome State Fault Refusal :=
  withRow s (fun c => do
    let us := [dst f.dst, src f.a]
    gate c false us (predOk f.pred && decide (0 < f.b) && laneOpOk f.b f.ty) (laneAcc f)
    if usesBusy c us then .ok (s.hold c 11)
    else
      let o := (laneOp f.b).getD .add
      if rowSide c f.dst then
        let acts ← rowActs c f.pred
        let r := laneTotal c f o c.act
        .ok (s.finish c (if acts then (wrReg false c.w c.r f.dst 0 r.1).raiseAll c.act r.2 else c.r))
      else
        let ts := c.acting f.pred
        let r := laneTotal c f o ts
        .ok (s.finish c (perThread c f.dst f.pred (fun _ => ([r.1], r.2)))))

/-- One scan step (09 R174). -/
def scanStep (o : LaneOp) (ty : Int) (acc : LaneAcc) (x : Int) : LaneAcc :=
  if ty = 3 then
    let r := flOp o (acc.els.headD 0) x
    ⟨[r.1], acc.fx.union r.2⟩
  else ⟨List.zipWith (intOp o) acc.els (laneEls ty x), Fx.clear⟩

/-- The running values before and after each contributing thread. -/
def scanAll (c : Ctx) (f : FA) (o : LaneOp) : List Nat → LaneAcc → List (Nat × LaneAcc × LaneAcc)
  | [], _ => []
  | p :: r, acc =>
    let next := scanStep o f.ty acc (laneSrc c f p)
    (p, acc, next) :: scanAll c f o r next

/-- LSCAN (R172, R174): inclusive for positive codes, exclusive for negative ones. Flags are a union over the steps
(09 R175). -/
def execLscan (f : FA) (s : State) : Host.Outcome State Fault Refusal :=
  withRow s (fun c => do
    let us := [dst f.dst, src f.a]
    gate c false us (predOk f.pred && vecDst c f.dst && laneOpOk f.b f.ty) (laneAcc f)
    if usesBusy c us then .ok (s.hold c 11)
    else
      let o := (laneOp f.b).getD .add
      let ts := c.acting f.pred
      let steps := scanAll c f o ts ⟨laneId o f.ty, Fx.clear⟩
      let out := steps.map (fun x => (x.1, laneDone f.ty (c.mod.sat == 1) (if 0 < f.b then x.2.2 else x.2.1)))
      let fl := (steps.foldl (fun a x => a.union x.2.2.fx) Fx.clear).union
        (out.foldl (fun a x => a.union x.2.2) Fx.clear)
      .ok (s.finish c ((out.foldl (fun r x => wrReg c.gen0 c.w r f.dst x.1 x.2.1) c.r).raiseAll ts fl)))

end Sys2Proof.Machine
end

