-- ==== Sys2Proof/Machine/Async.lean ====
section
/-!
DEFINITION. Device steps of the memory path: loads complete, FIFOs drain, stores are applied (11 R214, 19 R342 to R350),
walks fill the TLBs (12 R218, R222), and parked rows issue their faulted lanes again (12 R226, R227, R229).
-/
namespace Sys2Proof.Machine

/-- The core of a row. -/
def State.coreOf (s : State) (r : RowRef) : Nat := ((s.block? r).map (·.core)).getD 0
def State.fldOf (s : State) (r : RowRef) : Nat := ((s.gang? r.gid).map (·.fld)).getD 0
def State.widthOf (s : State) (r : RowRef) : Nat := ((s.gang? r.gid).map (fun g => g.lrec.width)).getD 0

/-! ### LOAD_COMPLETE -/

/-- A FENCE of kind .ar by the row before a load still holds it (19 R349). -/
def arHolds (k : Core) (r : Row) (ref : RowRef) (o : MemOp) : Bool :=
  o.rel == 1 && (r.fifo.any (fun x => x.kind == .fence && x.acq == 1 && decide (x.stamp < o.stamp)) ||
    k.order.any (fun x => x.kind == .fence && x.acq == 1 && x.who == ref && decide (x.stamp < o.stamp)))

/-- An atomic on scratch that the row issued before a load, and that waits for its release, is performed first (19 R343). -/
def relHolds (r : Row) (o : MemOp) : Bool := r.rels.any (fun x => decide (x.stamp < o.stamp))

/-- The tryte a load takes at a location. -/
def State.loadTryte (s : State) (core : Nat) (r : Row) (o : MemOp) (l : Loc) : Tryte :=
  let line := lineOf l
  seenTryte r.fifo o.stamp (s.lineSeen core (o.cache == 3) (s.atHome line) line) l

/-- A load reads the line beyond the core's and the die's copies. -/
def State.pastCopies (s : State) (core : Nat) (o : MemOp) (line : Loc) : Bool :=
  s.atHome line || ((o.cache == 3 || ((s.core core).copyOf line).isNone) && !s.rdcServes (core / 80) line)
/-- It does so over a pair of dies whose last route was lost after it issued (14 R250). -/
def State.loadCut (s : State) (core : Nat) (o : MemOp) (line : Loc) : Bool :=
  s.cutOff (core / 80) line && s.pastCopies core o line
/-- The value of a word of a load; that of one that no route reaches any more is free (log 110). -/
def State.loadWord (s : State) (core : Nat) (r : Row) (o : MemOp) (l : Loc) : Int :=
  if s.loadCut core o (lineOf l) then wrapT (if o.width = -1 then 9 else 27) (wval (Config.freeWord (s.steps + l.a)))
  else if o.width = -1 then tval (s.loadTryte core r o l)
  else wval (wordFrom (s.loadTryte core r o l) (s.loadTryte core r o (locAt l 1)) (s.loadTryte core r o (locAt l 2)))

/-- A lane is refused where its request arrives: by the shell, as the host window does not grant a byte it touches (15 R256), or
by a channel that does not accept its field's tag any more (24 R420). -/
def State.laneRefused (s : State) (o : MemOp) (wr : Bool) (ln : Lane) : Bool :=
  ln.locs.any (fun l => !s.windowRun l (widthTrytes o.width) wr ||
    (s.foreign (s.fldOf o.who) l && (wr || s.pastCopies (s.coreOf o.who) o (lineOf l))))

/-- Write a load's lanes to registers; one that is refused gives zeros. -/
def writeLoad (w : Nat) (o : MemOp) (refused : Lane → Bool) (val : Loc → Int) (r : Row) : Row :=
  o.lanes.foldl (fun r ln =>
    let vs := ln.locs.map (if refused ln then fun _ => 0 else val)
    if o.perRow then
      (vs.foldl (fun (a : Row × Nat) v => (wrRow o.gen0 w a.1 o.group (succReg o.gen0 o.dst a.2) v, a.2 + 1)) (r, 0)).1
    else wrRegs o.gen0 w r o.dst ln.thread vs) r

/-- Log a device access that is refused where it arrives (15 R256, 24 R420). -/
def State.logWindow (s : State) (r : RowRef) (va : Word) : State := s.logRow 16 r 0 va 0

/-- The lanes of an access that are refused. -/
def State.refusedLanes (s : State) (o : MemOp) (wr : Bool) : List Lane := o.lanes.filter (s.laneRefused o wr)

/-- The caches and L2 after a load of some lines. -/
def State.loadFills (s : State) (core : Nat) (o : MemOp) : State :=
  (o.lines.filter (fun l => !s.loadCut core o l && !s.foreign (s.fldOf o.who) l)).foldl (fun s l => s.loadLine core l o.cache) s

/-- LOAD_COMPLETE (R214): the row's oldest load returns its values. -/
def execLoadComplete (r : RowRef) (s : State) : Host.Outcome State Fault Refusal :=
  match s.row? r with
  | none => .next s
  | some row =>
    match row.loads with
    | [] => .next s
    | o :: rest =>
      let core := s.coreOf r
      if s.loadWaits core row o || arHolds (s.core core) row r o || relHolds row o then .next s
      else
        match s.snoopFirst false o.lines with
        | some t => .next (t.await (.event (.loadComplete r)) 0 o.lines)
        | none =>
          let x := writeLoad (s.widthOf r) o (s.laneRefused o false) (s.loadWord core row o) { row with loads := rest }
          let t := s.modRow r (fun _ => (x.paid o.dstFields).flagDown o.flag)
          let t := (s.refusedLanes o false).foldl (fun t ln => t.logWindow r ln.va) t
          let t := (o.lines.filter (fun l => s.badLine l || s.loadCut core o l)).foldl (fun t l => t.logRow 12 r 0 0 (if l.kind = .hbm then ((l.a / 27 : Nat) : Int) else 0)) t
          let t := t.loadFills core o
          .next (if o.acq = 0 then t else t.doAcquire core o.acq)

/-! ### STORE_FIFO_DRAIN -/

/-- A store reaches the L1 in the core's order: it updates the copy of its line, or drops it under .nol1 (13 R232). -/
def State.l1Store (s : State) (core : Nat) (o : MemOp) : State :=
  if o.cache = 3 then s.dropL1 core o.lines
  else s.modCore core (fun k => { k with l1 := k.l1.map (fun c =>
    { c with data := c.data.zipIdx.map (fun q => (o.tryte? (locAt c.line q.2)).getD q.1) }) })

/-- The handle type under which a lane of a reduction accumulates (16 R286): its block holds commute on a handle of the
reduction's own kind whose footprint has the line. -/
def State.accumType (s : State) (o : MemOp) (ln : Lane) : Option Int :=
  let ty : Option Int := match o.kind with
    | .red .add => some (if o.t9 then 1 else 0)
    | .red .x81 => some (-2)
    | _ => none
  match ty with
  | none => none
  | some ty =>
    let line := lineOf (ln.locs.headD Loc.none_)
    let mine := (s.marks line).filter (fun h => h.kind == 3 && h.who.gid == o.who.gid && h.who.blk == o.who.blk)
    if o.rel = 0 && mine.any (fun h => dType h.desc == ty) then some ty else none

/-- Add a lane's operand into the block's partial line, made at zero when first needed. -/
def State.accumulate (s : State) (o : MemOp) (ty : Int) (ln : Lane) : State :=
  let l := ln.locs.headD Loc.none_
  let line := lineOf l
  let j := (l.a - line.a) / 3
  let add : List Word := (List.range 9).map (fun i => if j ≤ i then ln.data.getD (i - j) 0 else 0)
  s.modBlock o.who (fun b =>
    let old := ((b.partials.find? (fun p => p.line == line)).map (·.words)).getD (List.replicate 9 0)
    { b with partials := b.partials.filter (fun p => p.line != line) ++ [⟨line, ty, addPartial ty old add⟩] })

/-- STORE_FIFO_DRAIN (R343): the head of a row's FIFO leaves it. -/
def execStoreFifoDrain (r : RowRef) (s : State) : Host.Outcome State Fault Refusal :=
  match s.row? r with
  | none => .next s
  | some row =>
    match row.fifo with
    | [] => .next s
    | o :: rest =>
      let core := s.coreOf r
      let k := s.core core
      let popped := s.modRow r (fun x => { x with fifo := rest })
      let send (t : State) (o : MemOp) : State := t.modCore core (fun k => { k with order := k.order ++ [o] })
      if row.loads.any (fun l => decide (l.stamp < o.stamp)) || row.scrOpen o.stamp then .next s
      else if k.order.any (fun x => x.kind == .fence && x.who == r) then .next s
      else
        match o.kind with
        | .load => .next popped
        | .fence => .next (if o.rel ≤ 1 then popped else send popped o)
        | .mark => .next (if o.rel ≤ 1 then popped else send popped o)
        | .store => .next (send (popped.l1Store core o) o)
        | _ =>
          let acc := o.lanes.filter (fun ln => (s.accumType o ln).isSome)
          let plain := o.lanes.filter (fun ln => (s.accumType o ln).isNone)
          let lines := acc.flatMap (fun ln => ln.locs.map lineOf)
          let held (l : Loc) : Bool := ((s.block? r).map (fun b => b.partials.any (fun p => p.line == l))).getD false
          let fresh := lines.foldl (fun (a : List Loc) l => if held l || a.contains l then a else a ++ [l]) []
          if k.order.any (fun x => x.who == r && x.lines.any (fun l => lines.contains l)) then .next s
          else if s.l1Room core < fresh.length then .next (s.flushRoom core)
          else
            let t := (acc.foldl (fun t ln => t.accumulate o ((s.accumType o ln).getD 0) ln) popped).trimL1 core
            if plain.isEmpty then .next (t.modRow r (fun x => x.flagDown o.flag))
            else
              let o := { o with lanes := plain }
              .next (send ((t.dropL1 core o.lines).dropRdc (core / 80) o.lines) o)

/-! ### STORE_APPLY -/

/-- An entry of the L1 order may be applied: no earlier entry touches one of its lines, and a release waits for what
Table 19.2 gives its scope. -/
def State.mayApply (s : State) (core k : Nat) (o : MemOp) : Bool :=
  !(((s.core core).order.take k).any (fun x => x.lines.any (fun l => o.lines.contains l))) &&
    (o.rel < 2 || (k == 0 && s.releaseRest o.who o.rel o.stamp))

/-- The entry leaves the order. -/
def State.applied (s : State) (core k : Nat) : State := s.modCore core (fun c => { c with order := c.order.eraseIdx k })

/-- The C trit of the leaf a lane was translated through; a private line is written with C = 0 (log 32). -/
def State.laneC (s : State) (fld : Nat) (o : MemOp) (line : Loc) : Bool :=
  if o.priv then false
  else
    match o.lanes.find? (fun ln => ln.locs.any (fun l => lineOf l == line)) with
    | none => false
    | some ln => match (s.walk fld (wval ln.va)).1 with
      | .leaf e _ => entC e == 1
      | _ => false

/-- The trytes an operation writes of a line. -/
def MemOp.lineTrytes (o : MemOp) (line : Loc) : List (Nat × Tryte) :=
  (List.range 27).filterMap (fun k => (o.tryte? (locAt line k)).map (fun v => (k, v)))

/-- The write's completion: at once, or when its last push has been applied (16 R284). -/
def State.completeWrite (s : State) (o : MemOp) : State :=
  if s.pushes.any (fun p => p.src == some (o.who, o.flag, o.stamp)) then s else s.modRow o.who (fun r => r.flagDown o.flag)

/-- Apply one line of a store at its home, and bring the core's and the die's copies of its words up to it. A line that became
failing after the store issued takes only a whole line, and one that lost its last route none; the event is logged (log 110). -/
def State.storeLine (s : State) (core : Nat) (o : MemOp) (line : Loc) : State :=
  if s.cutOff (core / 80) line || s.badWhole line || ((o.lineTrytes line).length < 27 && s.badLine line) then
    s.logRow 12 o.who 0 0 (if line.kind = .hbm then ((line.a / 27 : Nat) : Int) else 0)
  else
    let c := s.laneC (s.fldOf o.who) o line
    let s := s.homeWrite line (o.lineTrytes line) c (some (o.who, o.flag, o.stamp))
    (s.copiesUpdate core line (o.lineTrytes line)).l2Request line (core / 4) (if o.cache = 3 then 0 else o.cache)

/-- STORE_APPLY (R214): entry k of a core's order is applied at its lines' homes. A lane that is refused
where it arrives is dropped and logged (15 R256, 24 R420). -/
def execStoreApply (core k : Nat) (s : State) : Host.Outcome State Fault Refusal :=
  match (s.core core).order[k]? with
  | none => .next s
  | some o =>
    if !s.mayApply core k o then .next s
    else
      match o.kind with
      | .fence => .next ((s.applied core k).flight o.rel)
      | .mark => .next (s.applied core k)
      | .store =>
        match s.snoopFirst true o.lines with
        | some t => .next (t.await (.event (.storeApply core k)) o.stamp o.lines)
        | none =>
          let bad := s.refusedLanes o true
          let o' := { o with lanes := o.lanes.filter (fun ln => !bad.contains ln) }
          let t := bad.foldl (fun t ln => t.logWindow o.who ln.va) (s.applied core k)
          .next (((o'.lines.foldl (fun t l => t.storeLine core o' l) t).completeWrite o).flight o.rel)
      | _ => .next s

/-! ### PAGE_WALK -/

/-- PAGE_WALK (R218, R222): the walk of an address by one of the die's walkers, which waits for its table lines; a walk that
ends in a fault, a leaf that no access could go through among them, caches nothing. -/
def execPageWalk (core fld : Nat) (va : Word) (s : State) : Host.Outcome State Fault Refusal :=
  match s.walkAt core fld (wval va) (s.walkRoot fld) with
  | .wait ls t => .next (t.await (.event (.pageWalk core fld va)) 0 ls)
  | .done (.leaf e level) ps =>
    if entR e = 1 ∨ entW e = 1 then .next (s.fillTlb core fld (wval va) e level ps) else .next s
  | _ => .next s

/-! ### Issuing faulted lanes again -/

/-- What the kept access needs of a leaf. -/
def MemOp.need (o : MemOp) : Need :=
  match o.kind with
  | .load => Need.load
  | .store => Need.store
  | _ => Need.both

/-- The count and the owed registers of a faulted instruction end when it traps (12 R226). -/
def Row.endFault (r : Row) (o : MemOp) : Row :=
  let r := { r with fault := none }.flagDown o.flag
  match o.kind with
  | .load => r
  | _ => r.paid o.dstFields

/-- The parked row issues its kept lanes again: they are its acting threads, whatever their predicate now reads. -/
def reissue (s : State) (c : Ctx) (f : FaultRec) : State :=
  let o := f.op
  let c := { c with r := { c.r with fault := none } }
  let ended := { c with r := c.r.endFault o }
  let eas := o.lanes.map (fun ln => (ln.thread, wval ln.va))
  if o.lanes.isEmpty then s.modRow c.ref (fun _ => c.r)
  else
    match check3 s ended o.need o.width (o.kind == .store && o.width == 3) eas with
    | .wait ls t => (t.modRow c.ref (fun r => { r with fault := some f })).await (.event (.rowUnparkReissue c.ref)) 0 ls
    | .trapped t => t
    | .lanes xs t =>
      match o.kind with
      | .load =>
        let again := c.r.flagDown o.flag
        issueLoad t { c with r := again } o xs
      | _ =>
        let again := (c.r.flagDown o.flag).paid o.dstFields
        issueWrite t c again o xs

/-- The scalar results of an access that has issued again join the vector-to-scalar queue (07 R122). -/
def State.queueResults (s : State) (r : RowRef) (fs : List Int) : State :=
  s.modRow r (fun x => if x.fault.isSome then x else { x with vs := x.vsLive ++ fs.map VsEntry.value })

/-- The group that parked a row, alone, at its instruction. -/
def State.faultCtx (s : State) (r : RowRef) (f : FaultRec) : Option Ctx :=
  (s.ctxAt r f.pos).map (fun c => { c with k := f.k, e := { c.e with threads := f.op.group } })
/-- A row parked on nothing any more issues again: the group that parked it, alone. -/
def State.reissueRow (s : State) (r : RowRef) : State :=
  match s.row? r with
  | none => s
  | some row =>
    match row.fault with
    | none => s
    | some f =>
      if !f.units.isEmpty || f.overflow then s
      else
        match s.faultCtx r f with
        | none => s
        | some c =>
          if c.g.status = .resident then
            (reissue s { c with r := { c.r with ahead := none } } f).queueResults r (if c.gen0 then [] else f.op.dstFields.filter isSca)
          else s

/-- ROW_UNPARK_REISSUE (R226): every entry the row was parked under has been replayed. -/
def execRowUnparkReissue (r : RowRef) (s : State) : Host.Outcome State Fault Refusal := .next (s.reissueRow r)

/-- One on the overflow entry issues again: a row, or the command of slot n − 1. -/
def State.offOverflow (s : State) (q : RowRef × Nat) : State :=
  if q.2 = 0 then
    (s.modRow q.1 (fun r => { r with fault := r.fault.map (fun f => { f with overflow := false }) })).reissueRow q.1
  else
    s.modRow q.1 (fun r => { r with slots := modAt r.slots (q.2 - 1) (fun x =>
      { x with entries := x.entries.map (fun e => match e with
        | .cmd c => .cmd { c with spill := false }
        | .join i => .join i) }) })

/-- OVERFLOW_REISSUE (R229): an entry having been freed, though another fault may have taken it since, everything on a die's overflow entry issues again in the order in which it
parked; what faults again and finds no entry parks there anew, in that order. -/
def execOverflowReissue (die : Nat) (s : State) : Host.Outcome State Fault Refusal :=
  if (s.die die).freed then
    .next ((s.die die).overflow.foldl (fun t q => t.offOverflow q) (s.modDie die (fun d => { d with overflow := [], freed := false })))
  else .next s

end Sys2Proof.Machine
end

