-- ==== Sys2Proof/Machine/FieldMem.lean ====
section
/-!
DEFINITION. Words of a field's global space as the sower, LAUNCH's queue home and the firmware reach them: by the tables,
with no row (04 R64 to R72), and the package's link numbers and state words (15 R264, 01 Table 1.6, 05 Tables 5.2, 5.3).
-/
namespace Sys2Proof.Machine

/-- The line of a field that holds the word at an address, when its leaf grants the access, the host window each byte of it,
the line is not failing, and some route reaches it and its tables from the hub (14 R250). -/
def State.fieldLine (s : State) (f : Nat) (va : Int) (n : Need) : Option Loc :=
  match s.xlatTables f va { n with len := 3 } with
  | .ok l _ _ => if s.badLine l || s.hubCut l || (s.walkLines f va).any s.hubCut then none else some (lineOf l)
  | _ => none
/-- What the lines of some words of a field need before they are read or written: the tables' lines and their own (12 R218, 15
R258). The action that needs them goes on when they are ready. -/
def State.fieldAwait (s : State) (a : Act) (f : Nat) (reads writes : List Int) : Option State :=
  let tables := (reads ++ writes).flatMap (s.walkLines f)
  let rs := tables ++ reads.filterMap (fun va => s.fieldLine f va Need.load)
  let ws := writes.filterMap (fun va => s.fieldLine f va Need.store)
  match s.snoopFirst false rs, s.snoopFirst true ws with
  | some t, _ => some (t.await a 0 (rs ++ ws))
  | none, some t => some (t.await a 0 (rs ++ ws))
  | none, none => none
/-- The same for tables alone. -/
def State.tablesAwait (s : State) (a : Act) (f : Nat) (vas : List Int) : Option State :=
  let ls := vas.flatMap (s.walkLines f)
  (s.snoopFirst false ls).map (fun t => t.await a 0 ls)
/-- The number of the first of some addresses' lines that is failing, for a log record; 0 when none is (23 Table 23.3). -/
def State.badLineNo (s : State) (f : Nat) (vas : List Int) (n : Need) : Int :=
  (vas.filterMap (fun va => match s.xlatTables f (lineVa va) n with
    | .ok l _ _ => if s.badLine l then some ((l.a / 27 : Nat) : Int) else none
    | _ => none)).headD 0
/-- The leaf of an address grants the access, whatever the line's state. -/
def State.fieldMapped (s : State) (f : Nat) (va : Int) (n : Need) : Bool :=
  match s.xlatTables f va n with
  | .ok _ _ _ => true
  | _ => false
/-- The C trit of an address's leaf. -/
def State.fieldC (s : State) (f : Nat) (va : Int) : Bool :=
  match (s.walk f va).1 with
  | .leaf e _ => entC e == 1
  | _ => false
/-- A word at an address; none when it cannot be read. -/
def State.fieldWord (s : State) (f : Nat) (va : Int) : Option Word :=
  (s.fieldLine f va Need.load).map (fun l => s.wordAt (locAt l (va % 27).toNat))
/-- Successive words; none when one cannot be read. -/
def State.fieldWords (s : State) (f : Nat) (va : Int) (n : Nat) : Option (List Word) :=
  (List.range n).mapM (fun k => s.fieldWord f (wrapT 27 (va + 3 * (k : Int))))
/-- A word can be written: a leaf with W = + and a line that is not failing (04 R64). -/
def State.canWrite (s : State) (f : Nat) (va : Int) : Bool := (s.fieldLine f va Need.store).isSome
/-- Write a word at an address that can be written. -/
def State.fieldPut (s : State) (f : Nat) (va : Int) (w : Word) : State :=
  match s.fieldLine f va Need.store with
  | none => s
  | some l => s.homeWrite l (wordTrytes (va % 27).toNat w) (s.fieldC f va) none
/-- Write successive words. -/
def State.fieldPuts (s : State) (f : Nat) (va : Int) (ws : List Word) : State :=
  ws.zipIdx.foldl (fun s q => s.fieldPut f (wrapT 27 (va + 3 * (q.2 : Int))) q.1) s

/-! ### Queues (04 R65, R66) -/

def State.queue (s : State) (f q : Nat) : Queue := (s.fieldSt f).queues.getD q ⟨0, 0, 0, 0, 0, 0, -1⟩
def State.modQueue (s : State) (f q : Nat) (g : Queue → Queue) : State :=
  s.modField f (fun x => { x with queues := modAt x.queues q g })
/-- The address of a queue's slot for record number n. -/
def slotVa (q : Queue) (n : Int) : Int := wrapT 27 (wval q.base + 27 * (1 + 2 * (n % (q.cap : Int))))

/-! ### SEEDSTAT, BSCAP, QAVL -/

/-- LNKST of a die (01 Table 1.6). -/
def State.lnkst (s : State) (d : Nat) : Int :=
  let ls := (dieLinks d).map s.linkState
  if ls.any (· == -1) then -1 else if ls.all (· == 1) then 1 else 0

/-- SEEDSTAT (01 Table 1.6). -/
def State.seedstat (s : State) : Int :=
  let hb := (List.range 12).foldl (fun a d => a + (s.die d).hbm * 3 ^ d) 0
  let lk := (List.range 12).foldl (fun a d => a + s.lnkst d * 3 ^ (12 + d)) 0
  let mode : Int := if s.fw.mode = -1 then -1 else if (List.range 12).all (fun d => (s.die d).service == 2) then 1 else 0
  hb + lk + mode * 3 ^ 24
/-- The die offers its cores: it is in service, and no thermal halt has struck (01 R14, R19). A halted die counts as not in
service (DESIGN CHOICE, log 125: Tables 5.2 and 5.3 do not name the halt). -/
def State.offers (s : State) (d : Nat) : Bool := !s.halted && (s.die d).service != 0
/-- The core may be used: not fused off, its die in service (05 Table 5.2). -/
def State.coreUse (s : State) (c : Nat) : Bool := s.offers (c / 80) && !(s.core c).fused
/-- BSCAP of a core (05 Table 5.2). "Unusable" in WORDS is read as USE = −: a core whose quad is free or in a headland state
still reads its words (DESIGN CHOICE, log 125: R90 asks for the quad's trit as well). -/
def State.bscap (s : State) (c : Nat) : Int :=
  let k := s.core c
  if s.coreUse c then (k.words : Int) + k.sdie.toInt * 3 ^ 12 + 3 ^ 13
  else k.sdie.toInt * 3 ^ 12 - 3 ^ 13
/-- The quad may hold gangs of its field (05 R90): owned, in no headland state, on a die in service. It is fused off when all
four of its cores are (DESIGN CHOICE, log 125: no rule says when a quad is). -/
def State.quadUsable (s : State) (q : Nat) : Bool :=
  let o := s.quads.getD q ⟨-1, 0⟩
  decide (0 ≤ o.owner) && o.phase == 0 && s.offers (q / 20) &&
    !((List.range 4).all (fun c => (s.core (4 * q + c)).fused))
/-- QAVL of a die (05 Table 5.3); a free quad reads 0, and until the boot ROM is done SVC reads its reset value (log 33). -/
def State.qavl (s : State) (d : Nat) : Int :=
  let one (q : Nat) : Int :=
    let o := s.quads.getD (20 * d + q) ⟨-1, 0⟩
    if s.quadUsable (20 * d + q) then 1
    else if !s.offers d then 0
    else if o.owner = -2 ∨ o.phase ≠ 0 then -1 else 0
  let svc : Int := if s.halted then -1 else if (s.die d).service = 2 then 1 else if (s.die d).service = 1 ∨ s.fw.mode = 0 then 0 else -1
  (List.range 20).foldl (fun a q => a + one q * 3 ^ q) 0 + svc * 3 ^ 20

end Sys2Proof.Machine
end

