-- ==== Sys2Proof/Machine/System.lean ====
section
/-!
DEFINITION. Class −3: watches and sleep, clocks, control and status registers, LAUNCH and EVWAIT (10 R185 to R194,
04 R72), with the device steps that end them.
-/
namespace Sys2Proof.Machine

/-! ### WATCH and SLEEP -/

/-- A sleeping group goes on with a status. -/
def Row.wake (age : CodeAddr → Nat) (w : Nat) (r : Row) (z : SleepOp) (v : Int) : Row :=
  ((wrRow z.gen0 w r z.group z.dst v).paid [z.dst]).goOn age z.pos z.k z.group
/-- Some of a row's sleeping groups go on with a status, all at once (DESIGN CHOICE, log 121): a row without a head group then
chooses one, the first of its table (07 R117). -/
def Row.wakeWhere (age : CodeAddr → Nat) (w : Nat) (r : Row) (p : SleepOp → Bool) (v : Int) : Row :=
  ((r.sleeps.filter p).foldl (fun (x : Row) z => x.wake age w z v) { r with sleeps := r.sleeps.filter (fun z => !p z) }).rechoose

/-- Every group asleep when the trigger fired wakes with +1 (10 R186). -/
def Row.wakeFired (age : CodeAddr → Nat) (w : Nat) (r : Row) : Row :=
  if r.watch.trig then r.wakeWhere age w (fun _ => true) 1 else r

/-- The addresses of a per-row access checked as loads of `len` trytes from each, with PROT and the fault path but no data: the
locations, or the state of the wait, the trap or the park (12 R221, R226). -/
def checkAddrs (s : State) (c : Ctx) (len : Nat) (vas : List Int) : Except State (List Loc × State) :=
  let y := s.xlats c.core c.fld { Need.load with len := len } vas
  let xs : LaneX := ⟨c.act.headD 0, vas.headD 0, vas.zip y.1⟩
  let prot (p : Xlat → Bool) : Option State := (xs.xs.find? (fun q => p q.2)).map (fun q => protTrap y.2 c { xs with ea := q.1 })
  match xs.xs.findSome? (fun q => q.2.waits?), prot (fun x => x.isProt && x != .prot 14), xs.cut with
  | some ls, _, _ => .error (walkWait y.2 c ls)
  | none, some t, _ => .error t
  | none, none, some q => .error (dataTrap y.2 c q.1 q.2)
  | none, none, none =>
    if xs.faulted then .error (y.2.parkFault c c.act (faultsOf [xs]) (bareOp c s.steps))
    else match prot Xlat.isProt with
      | some t => .error t
      | none => .ok (xs.xs.filterMap (fun q => q.2.loc?), y.2)

/-- WATCH (R185): the line is read from its home from then on, so that no write is missed. -/
def execWatch (f : FA) (s : State) : Host.Outcome State Fault Refusal :=
  withRow s (fun c => do
    gate c false [src f.a] (predOk f.pred && f.ty == 0 && f.dst == 0 && f.b == 0 && rowSrcs c [f.a]) {}
    if usesBusy c [src f.a] then .ok (s.hold c 11)
    else
      need (uniform c [f.a]) (Trap.nonUniform c)
      let acts ← rowActs c f.pred
      let a := rdRow c f.a
      if !acts then .ok (s.finish c c.r)
      else if a = 0 then .ok (s.finish c { c.r.wakeFired (s.age c.fld) c.w with watch := Watch.off })
      else
        need (a % 27 == 0) (Trap.align a)
        match checkAddrs s c 27 [a] with
        | .error t => .ok t
        | .ok (ls, t) =>
          let l := ls.headD Loc.none_
          if t.cutOff c.die l then .ok (dataTrap t c a l)
          else
          let t := if (t.hostEntry l).st = 2 then t.snoop true l else t
          .ok (((t.dropL1 c.core [l]).dropRdc c.die [l]).finish c
            { c.r.wakeFired (s.age c.fld) c.w with watch := ⟨true, false, word a, l⟩ }))

/-- SLEEP (R186). -/
def execSleep (f : FA) (s : State) : Host.Outcome State Fault Refusal :=
  withRow s (fun c => do
    let us := [dst f.dst, src f.a]
    gate c false us (predOk f.pred && f.ty == 0 && f.b == 0 && scaDst c f.dst && rowSrcs c [f.a]) {}
    if usesBusy c us then .ok (s.hold c 11)
    else
      need (uniform c [f.a]) (Trap.nonUniform c)
      let acts ← rowActs c f.pred
      let t := rdRow c f.a
      let put (r : Row) (v : Int) : State := s.finish c (wrRow c.gen0 c.w r c.act f.dst v)
      if !acts then .ok (s.finish c c.r)
      else if !c.r.watch.armed || decide (t < 0) then .ok (put c.r (-1))
      else if c.r.watch.trig then
        let r := c.r.wakeFired (s.age c.fld) c.w
        .ok (put { r with watch := { r.watch with trig := false } } 1)
      else if 243 ≤ s.parkedOn c.core then .ok (s.parkFull c)
      else
        let z : SleepOp := ⟨c.act, c.e.addr, c.k, if t = 0 then none else some (s.now + t.toNat), f.dst, c.gen0⟩
        .ok (s.parkGroup c ({ c.r with sleeps := c.r.sleeps ++ [z] }.owe [f.dst])))

/-- Wake some of a row's sleeping groups. -/
def State.wakeGroups (s : State) (r : RowRef) (p : SleepOp → Bool) (v : Int) : State :=
  match s.gang? r.gid with
  | none => s
  | some g => s.modRow r (fun x => x.wakeWhere (s.age g.fld) g.lrec.width p v)

/-- SLEEP_WAKE (R186): the watch has triggered: every sleeping group of the row wakes, and the trigger is cleared. -/
def execSleepWake (r : RowRef) (s : State) : Host.Outcome State Fault Refusal :=
  match s.row? r with
  | none => .next s
  | some x =>
    if x.watch.trig && !x.sleeps.isEmpty then
      .next ((s.wakeGroups r (fun _ => true) 1).modRow r (fun x => { x with watch := { x.watch with trig := false } }))
    else .next s

/-- SLEEP_TIMEOUT (R186): a timeout has run out and the watch has not triggered. -/
def execSleepTimeout (r : RowRef) (s : State) : Host.Outcome State Fault Refusal :=
  match s.row? r with
  | none => .next s
  | some x =>
    let due (z : SleepOp) : Bool := match z.until_ with | some t => decide (t ≤ s.now) | none => false
    if !x.watch.trig && x.sleeps.any due then .next (s.wakeGroups r due 0) else .next s

/-! ### Clocks (R187) -/

/-- A die's copy of the always-on counter: the copies never decrease, and any two of the compute dies' differ by less than
12 ns (19 R357; log 104). The management core reads the counter itself. -/
def State.timeOf (s : State) (die : Nat) : Nat := s.now + (if die < 12 then Config.skew die % 12 else 0)
/-- The low and high words of a die's copy. -/
def State.timeWords (s : State) (die : Nat) : Int × Int :=
  (wrapT 27 (s.timeOf die), ((s.timeOf die : Int) - wrapT 27 (s.timeOf die)) / 3 ^ 27)

/-- Write successive registers of a per-row result. -/
def wrRowN (c : Ctx) (r : Row) (d : Int) (vs : List Int) : Row :=
  (vs.foldl (fun (a : Row × Nat) v => (wrRow c.gen0 c.w a.1 c.act (succReg c.gen0 d a.2) v, a.2 + 1)) (r, 0)).1

/-- TIME and CYC: no sources. -/
def clock (s : State) (f : FA) (n : Nat) (vs : Ctx → List Int) : Host.Outcome State Fault Refusal :=
  withRow s (fun c => do
    gate c false [⟨f.dst, true, n⟩] (predOk f.pred && f.ty == 0 && f.a == 0 && f.b == 0 && scaDst c f.dst) {}
    if usesBusy c [⟨f.dst, true, n⟩] then .ok (s.hold c 11)
    else
      let acts ← rowActs c f.pred
      .ok (s.finish c (if acts then wrRowN c c.r f.dst (vs c) else c.r)))

/-- TIME (R187). -/
def execTime (f : FA) (s : State) : Host.Outcome State Fault Refusal :=
  clock s f 2 (fun c => [(s.timeWords c.die).1, (s.timeWords c.die).2])
/-- CYC (R187). -/
def execCyc (f : FA) (s : State) : Host.Outcome State Fault Refusal :=
  clock s f 1 (fun c => [wrapT 27 (s.cycOf c.core)])

/-! ### Control and status registers (R190 to R194) -/

/-- Kinds of CSR (10 Table 10.2): a thread's, or not. -/
def csrListed (n : Int) : Bool := decide (1 ≤ n ∧ n ≤ 7) || decide (9 ≤ n ∧ n ≤ 11)
def csrThread (n : Int) : Bool := n == 1
/-- A CSR some field of which can be written. -/
def csrWritable (c : Ctx) (n : Int) : Bool := n == 1 || n == 7 || (n == 2 && c.r.handler.active)

/-- The value of a CSR; FX is the thread's. -/
def csrVal (s : State) (c : Ctx) (n : Int) (p : Nat) : Int :=
  let h := c.r.handler
  let b (x : Bool) : Int := if x then 1 else 0
  if n = 1 then (c.r.fxOf p).toInt
  else if n = 2 then (if h.active then wval h.pc else 0)
  else if n = 3 then h.cause + 81 * b h.bk
  else if n = 4 then wval h.info
  else if n = 5 then (h.rem : Int) + 27 * h.fa + 729 * h.fb
  else if n = 6 then b c.r.watch.armed + 3 * b c.r.watch.trig
  else if n = 7 then wval c.r.escpol
  else if n = 9 then s.seedstat
  else if n = 10 then s.bscap c.core
  else if n = 11 then s.qavl c.die
  else 0

/-- Write a row's CSR. -/
def csrSetRow (r : Row) (n v : Int) : Row :=
  if n = 7 then { r with escpol := word v }
  else if n = 2 then { r with handler := { r.handler with pc := word v, pcWritten := true, rem := 0 } }
  else r
/-- Write FX: a field written 0 is cleared (RWC, 00 R9). -/
def csrSetFx (r : Row) (p : Nat) (v : Int) : Row := r.setFx p ((r.fxOf p).keep (fun i => trit v i != 0))

/-- CSRR, CSRW and CSRX: whether d is written and whether the CSR is. -/
def csr (s : State) (f : FB) (rdD wrC : Bool) : Host.Outcome State Fault Refusal :=
  withRow s (fun c => do
    let n := f.imm
    let us := (if rdD then [dst f.dst] else []) ++ (if wrC then [src f.a] else [])
    need (clauseOk c false) Trap.illop
    need (us.all (fun u => regsOk c u.f u.n u.isDst)) Trap.illop
    lockCheck c (if rdD then [f.dst] else [])
    need (f.ty == 0 && pfxOk { p := true } c && (rdD || f.dst == 0) && (wrC || f.a == 0)) Trap.illmod
    need (csrListed n) Trap.illop
    need (!rdD || (if csrThread n then vecDst c f.dst else scaDst c f.dst)) Trap.illmod
    need (!wrC || csrThread n || rowSrcs c [f.a]) Trap.illmod
    need (!wrC || csrWritable c n) Trap.illmod
    if usesBusy c us || (rdD && csrThread n && fxBusy c) then .ok (s.hold c 11)
    else if csrThread n then
      let ts := c.acting c.mod.pred
      need (!wrC || ts.all (fun p => field (rd c f.a p) 6 21 == 0)) Trap.illmod
      .ok (s.finish c (ts.foldl (fun r p =>
        let r := if rdD then wrReg c.gen0 c.w r f.dst p (csrVal s c n p) else r
        if wrC then csrSetFx r p (rd c f.a p) else r) c.r))
    else
      need (!wrC || uniform c [f.a]) (Trap.nonUniform c)
      let acts ← rowActs c c.mod.pred
      if !acts then .ok (s.finish c c.r)
      else
        let r := if rdD then wrRow c.gen0 c.w c.r c.act f.dst (csrVal s c n 0) else c.r
        .ok (s.finish c (if wrC then csrSetRow r n (rdRow c f.a) else r)))

/-- CSRR (R190). -/
def execCsrr (f : FB) (s : State) : Host.Outcome State Fault Refusal := csr s f true false
/-- CSRW (R190). -/
def execCsrw (f : FB) (s : State) : Host.Outcome State Fault Refusal := csr s f false true
/-- CSRX (R190). -/
def execCsrx (f : FB) (s : State) : Host.Outcome State Fault Refusal := csr s f true true

/-! ### LAUNCH (R189, 04 R72) -/

/-- LAUNCH (R189): its record's lines are checked, and the request leaves for the queue's home. -/
def execLaunch (f : FF) (s : State) : Host.Outcome State Fault Refusal :=
  withRow s (fun c => do
    let us := [dst f.x, src f.y, src f.z]
    gate c false us (f.slot == 0 && f.ctl == 0 && scaDst c f.x && rowSrcs c [f.y, f.z]) { p := true }
    if usesBusy c us then .ok (s.hold c 11)
    else if flagWait c c.mod.pred c.e.fb then .ok (s.hold c 2 c.e.fb)
    else
      need (uniform c [f.y, f.z]) (Trap.nonUniform c)
      let acts ← rowActs c c.mod.pred
      let z := rdRow c f.z
      if !acts then .ok (s.finish c c.r)
      else
        need (z % 27 == 0) (Trap.align z)
        match checkAddrs s c 27 [z, wrapT 27 (z + 27)] with
        | .error t => .ok t
        | .ok (_, t) =>
          let q : LaunchReq := ⟨rdRow c f.y, word z, f.x, c.e.fb, c.gen0, c.act, s.steps⟩
          .ok (t.finish c (({ s.marked c c.r 4 with launches := c.r.launches ++ [q] }.owe [f.x]).flagUp c.e.fb)))

/-- What the queue's home does with a record: the status, and the state with the record published (04 R72). With a header line
that cannot be read, or a TAIL word that cannot be written, the status is −1 (DESIGN CHOICE, log 77: R72 names neither). -/
def State.launchAt (s : State) (fld : Nat) (r : RowRef) (q : Int) (rec_ : Int) : Int × State :=
  if q < 0 ∨ q > 8 then (-1, s)
  else
    let x := s.queue fld q.toNat
    let base := wval x.base
    match s.fieldWord fld base, s.fieldWord fld (wrapT 27 (base + 3)) with
    | some tail, some head =>
      if x.st ≠ 1 ∨ x.mode ≠ 1 then (-1, s)
      else if wrapT 27 (wval tail - wval head) ≥ (x.cap : Int) then (0, s)
      else
        match s.fieldWords fld rec_ 18 with
        | none => (-1, s.logRow 12 r 0 (word rec_) (s.badLineNo fld [rec_, wrapT 27 (rec_ + 27)] Need.load))
        | some ws =>
          let va := slotVa x (wval tail)
          if s.canWrite fld va && s.canWrite fld (wrapT 27 (va + 27)) && s.canWrite fld base then
            (1, (s.fieldPuts fld va (ws.set 8 0)).fieldPut fld base (word (wval tail + 1)))
          else (-1, s.logRow 16 r 0 (word va) (s.badLineNo fld [va, wrapT 27 (va + 27), base] Need.store))
    | _, _ => (-1, s)

/-- The lines of the header, the record and the slot, ready for a LAUNCH (15 R258). -/
def State.launchAwait (s : State) (fld : Nat) (r : RowRef) (q : LaunchReq) : Option State :=
  if q.q < 0 ∨ q.q > 8 then none
  else
    let x := s.queue fld q.q.toNat
    let base := wval x.base
    let a : Act := .event (.launchAtQueueHome r)
    let rec_ := wval q.rec_
    match s.fieldAwait a fld [base, rec_, wrapT 27 (rec_ + 27)] [], s.fieldWord fld base with
    | some t, _ => some t
    | none, some tail =>
      let va := slotVa x (wval tail)
      s.fieldAwait a fld [] [base, va, wrapT 27 (va + 27)]
    | none, none => none
/-- LAUNCH_AT_QUEUE_HOME (R72): after its release waits, the row's oldest LAUNCH acts and its status is written. -/
def execLaunchAtQueueHome (r : RowRef) (s : State) : Host.Outcome State Fault Refusal :=
  match s.gang? r.gid, s.row? r with
  | some g, some row =>
    match row.launches with
    | [] => .next s
    | q :: rest =>
      if !s.releaseMetAt r q.stamp then .next s
      else match s.launchAwait g.fld r q with
      | some t => .next t
      | none =>
        let y := (s.flight 4).launchAt g.fld r q.q (wval q.rec_)
        .next (y.2.modRow r (fun x =>
          ((wrRow q.gen0 g.lrec.width { x with launches := rest } q.group q.dst y.1).paid [q.dst]).flagDown q.flag))
  | _, _ => .next s

/-! ### EVWAIT (R188) -/

/-- EVWAIT holds the row on a line, which does not stay granted to the host (15 R259). -/
def State.waitLine (s : State) (c : Ctx) (line : Loc) : State :=
  (if (s.hostEntry line).st = 2 then s.snoop true line else s).modRow c.ref (fun r =>
    { r with wait := some { kind := 9, flag := 0, slot := 0, line := some line }, head := some c.e.addr })
/-- EVWAIT (R188): it holds the row until the word, read at its home under the row's own stores, reaches the target. -/
def execEvwait (f : FA) (s : State) : Host.Outcome State Fault Refusal :=
  withRow s (fun c => do
    let us := [dst f.dst, src f.a, src f.b]
    gate c false us (predOk f.pred && f.ty == 0 && scaDst c f.dst && rowSrcs c [f.a, f.b]) { scope := true }
    if usesBusy c us then .ok (s.hold c 11)
    else
      need (uniform c [f.a, f.b]) (Trap.nonUniform c)
      let acts ← rowActs c f.pred
      let a := rdRow c f.a
      if !acts then .ok (s.finish c c.r)
      else
        need (a % 3 == 0) (Trap.align a)
        match checkAddrs s c 3 [a] with
        | .error t => .ok t
        | .ok (ls, t) =>
          let l := ls.headD Loc.none_
          let line := lineOf l
          let op : MemOp := { bareOp c s.steps with lanes := [⟨0, word a, [l], []⟩] }
          if t.badLine l || t.cutOff c.die l then .ok (dataTrap t c (lineVa a) l)
          else if !c.r.loads.isEmpty || t.loadWaits c.core c.r op || relHolds c.r op || t.arOpen c.ref (s.steps + 1) then
            .ok (t.hold c 9)
          else
            match t.snoopFirst false [line] with
            | some u => .ok ((u.await (.issue c.ref) 0 [line]).waitLine c line)
            | none =>
              let d := t.overOrder c.core line (t.lineAt line)
              let v := if t.windowRun l 3 false then
                  wval (wordFrom (seenTryte c.r.fifo s.steps d l) (seenTryte c.r.fifo s.steps d (locAt l 1))
                    (seenTryte c.r.fifo s.steps d (locAt l 2)))
                else 0
              if v < rdRow c f.b then .ok (t.waitLine c line)
              else
                let u := ((t.l2Request line (c.core / 4) 0).refreshCopies c.core line).doAcquire c.core (if c.mod.scope = 0 then 6 else c.mod.scope)
                .ok (u.finish c (wrRow c.gen0 c.w c.r c.act f.dst v)))

/-- EVWAIT_REREAD (R188): a row that EVWAIT holds reads its word again. -/
def execEvwaitReread (r : RowRef) (s : State) : Host.Outcome State Fault Refusal :=
  match s.ctxOf r with
  | none => .next s
  | some c =>
    if (c.r.wait.map (·.kind)) != some 9 then .next s
    else
      match (s.codeWord c.fld c.ia).map decode with
      | some (.ok (.evwait f)) => execEvwait f { s with cur := some r }
      | _ => .next s

end Sys2Proof.Machine
end

