-- ==== Sys2Proof/Machine/TileInstr.lean ====
section
/-!
DEFINITION. Class −5: tile instructions (16 R272 to R290), the package directory that performs them in order of arrival
(R279), recalls, grants, pushes and flushes.
-/
namespace Sys2Proof.Machine

/-! ### Issue -/

/-- A request of the issuing row to the package directory: the result registers are owed and flag B is counted. -/
def sendTile (s : State) (c : Ctx) (kind : TileKind) (handle : Int) (d : Int) (n : Nat) : State :=
  let q : TileReq := ⟨c.ref, kind, word handle, d, c.e.fb, c.fld, 0, c.gen0, c.act, []⟩
  let r := (c.r.owe ((List.range n).map (succReg c.gen0 d))).flagUp c.e.fb
  { s.finish c r with tileIn := s.tileIn ++ [q] }

/-- The checks and waits every tile instruction shares (R272): `hasX` and `hasZ` say which fields it uses. -/
def tileRow (s : State) (f : FF) (hasX hasZ : Bool) (ctlOk : Bool) (go : Ctx → Except Trap State) :
    Host.Outcome State Fault Refusal :=
  withRow s (fun c => do
    let us := (if hasX then [dst f.x] else []) ++ [src f.y] ++ (if hasZ then [src f.z] else [])
    gate c false us (f.slot == 0 && ctlOk && (if hasX then scaDst c f.x else f.x == 0) && (hasZ || f.z == 0) &&
      rowSrcs c ([f.y] ++ (if hasZ then [f.z] else []))) { p := true }
    if usesBusy c us then .ok (s.hold c 11)
    else if flagWait c c.mod.pred c.e.fb then .ok (s.hold c 2 c.e.fb)
    else
      need (uniform c ([f.y] ++ (if hasZ then [f.z] else []))) (Trap.nonUniform c)
      let acts ← rowActs c c.mod.pred
      if !acts then .ok (s.finish c c.r) else go c)

/-- The nine words of a descriptor's line, under the row's own earlier stores. -/
def descRead (s : State) (c : Ctx) (l : Loc) : List Word :=
  let line := lineOf l
  let d := s.lineSeen c.core false (s.atHome line) line
  lineWords ((List.range 27).map (fun k => seenTryte c.r.fifo s.steps d (locAt line k)))

/-- TNEW (R273): a per-row load of the descriptor's line, at its place among the row's loads (19 R343, R349), then a
request. -/
def execTnew (f : FF) (s : State) : Host.Outcome State Fault Refusal :=
  tileRow s f true false (f.ctl == 0) (fun c => do
    let a := rdRow c f.y
    need (a % 27 == 0) (Trap.align a)
    match check3 s c Need.load 3 false [(c.act.headD 0, a)] with
    | .wait ls t => .ok (walkWait t c ls)
    | .trapped t => .ok t
    | .lanes xs t =>
      if xs.any (fun x => x.faulted) then .ok (t.parkFault c c.act (faultsOf xs) (bareOp c s.steps))
      else
        let lanes := xs.map (fun x => laneOf 3 x [])
        let op : MemOp := { bareOp c s.steps with width := 3, lanes := lanes }
        let l := (lanes.flatMap (·.locs)).headD Loc.none_
        if !c.r.loads.isEmpty || t.loadWaits c.core c.r op || relHolds c.r op then .ok (t.hold c 11)
        else if t.arOpen c.ref (s.steps + 1) then .ok (t.hold c 15)
        else
          match t.snoopFirst false op.lines with
          | some u => .ok (walkWait u c op.lines)
          | none => .ok (sendTile (op.lines.foldl (fun t l => t.loadLine c.core l 0) t) c (.tnew (descRead t c l)) 0 f.x 1))

/-- The split spec's dimension and piece count, and whether its other trits are 0 (R274). -/
def splitDim (z : Int) : Int := field z 0 2
def splitN (z : Int) : Int := field z 2 4
def splitRest (z : Int) : Bool := field z 6 21 == 0
/-- Registers a TSPLIT writes. -/
def splitRegs (z : Int) : Nat := if 2 ≤ splitN z ∧ splitN z ≤ 9 then (splitN z).toNat else 1

/-- TSPLIT (R274). -/
def execTsplit (f : FF) (s : State) : Host.Outcome State Fault Refusal :=
  tileRow s f true true (f.ctl == 0) (fun c => do
    let z := rdRow c f.z
    let n := splitRegs z
    need (regsOk c f.x n true) Trap.illop
    lockCheck c ((Use.mk f.x true n).fields c)
    if usesBusy c [⟨f.x, true, n⟩] then .ok (s.hold c 11)
    else .ok (sendTile s c (.tsplit (word z)) (rdRow c f.y) f.x n))

/-- A stale handle traps PROT with the handle before any effect (R272). -/
def staleCheck (s : State) (c : Ctx) (h : Int) : Except Trap Unit :=
  need (s.tileOf c.fld (word h)).isSome (Trap.prot h)

/-- TFREE (R275). -/
def execTfree (f : FF) (s : State) : Host.Outcome State Fault Refusal :=
  tileRow s f false false (f.ctl == 0) (fun c => do
    let h := rdRow c f.y
    staleCheck s c h
    .ok (sendTile s c .tfree h 0 0))

/-- TACQ (R278). -/
def execTacq (f : FF) (s : State) : Host.Outcome State Fault Refusal :=
  tileRow s f true false (decide (1 ≤ f.ctl ∧ f.ctl ≤ 3)) (fun c =>
    .ok (sendTile s c (.tacq f.ctl) (rdRow c f.y) f.x 1))

/-- TREL (R281). -/
def execTrel (f : FF) (s : State) : Host.Outcome State Fault Refusal :=
  tileRow s f false false (f.ctl == 0) (fun c => do
    let h := rdRow c f.y
    staleCheck s c h
    .ok (sendTile s c .trel h 0 0))

/-- TQRY (R290). -/
def execTqry (f : FF) (s : State) : Host.Outcome State Fault Refusal :=
  tileRow s f true false (f.ctl == 0) (fun c => .ok (sendTile s c .tqry (rdRow c f.y) f.x 1))

/-- REDC (R288). -/
def execRedc (f : FF) (s : State) : Host.Outcome State Fault Refusal :=
  tileRow s f false false (f.ctl == 0) (fun c => do
    let h := rdRow c f.y
    staleCheck s c h
    .ok (sendTile s c .redc h 0 0))

/-! ### Indices (R271) -/

def State.tileIdx? (s : State) (f : Nat) (i : Int) : Option TileIdx := (s.fieldSt f).tiles.find? (fun t => t.idx == i)
/-- The lowest free indices of a field, at most n. -/
def State.freeTiles (s : State) (f n : Nat) : List Int :=
  (((List.range 6561).map (fun i => (i : Int) - 3280)).filter
    (fun i => ((s.tileIdx? f i).map (·.state)).getD 0 == 0)).take n
/-- Make an index live with a descriptor, under its next generation. -/
def State.allocTile (s : State) (f : Nat) (i : Int) (d : List Word) : Word × State :=
  let gen := nextGen364 (((s.tileIdx? f i).map (·.gen)).getD (-1))
  (mkHandle f i gen,
    s.modField f (fun x => { x with tiles := x.tiles.filter (fun t => t.idx != i) ++ [⟨i, gen, 1, d⟩] }))
/-- A live index becomes fallow. -/
def State.fallowTile (s : State) (f : Nat) (h : Word) : State :=
  s.modField f (fun x => { x with tiles := x.tiles.map (fun t =>
    if t.idx = hIdx h ∧ t.state = 1 then { t with state := 2 } else t) })
/-- Fallow indices that no tile instruction in flight names become free. -/
def State.sweepTiles (s : State) (f : Nat) : State :=
  let named (i : Int) : Bool := (s.tileIn ++ s.tileQ).any (fun q => q.fld == f && hIdx q.handle == i && hGen q.handle != 0)
  s.modField f (fun x => { x with tiles := x.tiles.map (fun t =>
    if t.state = 2 ∧ !named t.idx then { t with state := 0 } else t) })

/-! ### Answers -/

/-- The request leaves the directory's input: its results are written, and its count ends unless a grant is awaited. -/
def State.answerTile (s : State) (q : TileReq) (vs : List Int) (done : Bool) : State :=
  let w := s.widthOf q.who
  let fs := (List.range vs.length).map (succReg q.gen0 q.dst)
  let s := s.modRow q.who (fun r =>
    let r := ((fs.zip vs).foldl (fun r x => wrRow q.gen0 w r q.group x.1 x.2) r).paid fs
    if done then r.flagDown q.flag else r)
  { s with tileIn := s.tileIn.drop 1 }.sweepTiles q.fld

/-! ### Directories (R277, R282) -/

/-- A holder or a queued request, as an entry of the directories: field, core (none when absent), handle, descriptor. -/
structure DirUse where
  fld : Nat
  core : Option Nat
  handle : Word
  desc : List Word
deriving DecidableEq, Repr

/-- Whether a request waits for its grant. -/
def TileReq.waiting (q : TileReq) : Bool := match q.kind with | .tacq _ => q.stage == 1 | _ => false
def TileReq.acqKind (q : TileReq) : Int := match q.kind with | .tacq k => k | _ => 0
def TileReq.sameBlock (q : TileReq) (r : RowRef) : Bool := q.who.gid == r.gid && q.who.blk == r.blk
/-- The descriptor of a live handle. -/
def State.descOf (s : State) (f : Nat) (h : Word) : List Word := ((s.tileOf f h).map (·.desc)).getD []

/-- Every use of the directories. -/
def State.dirUses (s : State) : List DirUse :=
  s.holders.map (fun h => ⟨h.fld, if h.absent then none else some h.core, h.handle, h.desc⟩) ++
    (s.tileQ.filter (·.waiting)).map (fun q =>
      ⟨q.fld, if ((s.gang? q.who.gid).map (·.absent)).getD true then none else some (s.coreOf q.who), q.handle, s.descOf q.fld q.handle⟩)
/-- The handles entered at a directory, without repeats. -/
def dirHandles (us : List DirUse) (here : Option Nat → Bool) : List Word :=
  us.foldl (fun l u => if here u.core && !l.contains u.handle then l ++ [u.handle] else l) []
/-- At a quad, at a die, at the package. -/
def atQuad (core : Nat) (c : Option Nat) : Bool := match c with | some k => k / 4 == core / 4 | none => false
def atDie (core : Nat) (c : Option Nat) : Bool := match c with | some k => k / 80 == core / 80 | none => false
def atPkg (_ : Option Nat) : Bool := true
/-- Capacities of Table 16.5. -/
def quadDir : Nat := 81
def dieDir : Nat := 2187
def pkgDir : Nat := 729
/-- An entry for a handle can be reserved. -/
def dirRoom (us : List DirUse) (here : Option Nat → Bool) (cap : Nat) (h : Word) : Bool :=
  let hs := dirHandles us here
  hs.contains h || decide (hs.length < cap)
/-- The tenured handles of a device line, each through its own field's tables. -/
def State.lineHandles (s : State) (us : List DirUse) (line : Loc) : List Word :=
  us.foldl (fun l u => if !l.contains u.handle && (s.footprint u.fld u.desc).contains line then l ++ [u.handle] else l) []

/-- The leaf of a footprint line is eligible (R278; log 30). -/
def State.eligible (s : State) (f : Nat) (kind : Int) (va : Int) : Bool :=
  match (s.walk f va).1 with
  | .leaf e _ => entMK e == 0 && entT e == 1 && (if kind = 1 then entR e == 1 else entW e == 1)
  | _ => false

/-! ### Recalls (R280) -/

/-- A recall or release of a holder is under way. -/
def State.recalling (s : State) (w : RowRef) (h : Word) : Bool :=
  s.recalls.any (fun m => m.who.gid == w.gid && m.who.blk == w.blk && m.handle == h)
/-- Start the recall of a holder; that of an absent holder finishes at once (R291). -/
def State.startRecall (s : State) (lost : Bool) (h : Holder) : State :=
  if h.absent then s.modBlock h.who (fun b => b.setTenure h.handle 0 lost)
  else if s.recalling h.who h.handle then s
  else { s with recalls := s.recalls ++ [⟨h.who, h.handle, lost, s.steps⟩] }

/-- A write to some lines that a block's row issued before a step is not complete. -/
def State.blockWrites (s : State) (w : RowRef) (stamp : Nat) (ls : List Loc) : Bool :=
  match s.block? w with
  | none => false
  | some b =>
    let hits (o : MemOp) : Bool := o.isWrite && decide (o.stamp < stamp) && o.lines.any (fun l => ls.contains l)
    b.rows.any (fun r => r.fifo.any hits) ||
      (s.core b.core).order.any (fun o => o.who.gid == w.gid && o.who.blk == w.blk && hits o) ||
      s.pushes.any (fun p => match p.src with
        | some q => q.1.gid == w.gid && q.1.blk == w.blk && decide (q.2.2 < stamp) && ls.contains p.line
        | none => false)

/-- The lines of a block's partials among some lines. -/
def State.partialLines (s : State) (w : RowRef) (ls : List Loc) : List Loc :=
  ((((s.block? w).map (·.partials)).getD []).map (·.line)).filter (fun l => ls.contains l)

/-- The recall has finished: the tenure is gone. -/
def State.endRecall (s : State) (m : RecallMsg) : State :=
  { s.modBlock m.who (fun b => b.setTenure m.handle 0 m.lost) with recalls := dropFirst (· == m) s.recalls }

/-- A commute holder's flush waits for those of holders of lower index that were recalled with it (R287). -/
def State.flushTurn (s : State) (m : RecallMsg) : Bool :=
  !(s.recalls.any (fun x => x.stamp == m.stamp && decide (s.coreOf x.who < s.coreOf m.who) &&
    (((s.block? x.who).bind (fun b => b.tenure? x.handle)).map (·.kind)) == some 3))

/-- RECALL (R280): the holder's action on its kind; the tenure is gone once it is done. -/
def execRecall (k : Nat) (s : State) : Host.Outcome State Fault Refusal :=
  match s.recalls[k]? with
  | none => .next s
  | some m =>
    match s.gang? m.who.gid, s.block? m.who with
    | some g, some b =>
      let ls := s.tileFoot g.fld m.handle
      match ((b.tenure? m.handle).map (·.kind)).getD 0 with
      | 1 => .next ((s.dropCopies b.core ls).endRecall m)
      | 2 => if s.blockWrites m.who m.stamp ls then .next s else .next ((s.dropCopies b.core ls).endRecall m)
      | 3 =>
        if !s.flushTurn m then .next s
        else
        match s.snoopFirst true (s.partialLines m.who ls) with
        | some t => .next (t.await (.event (.recall k)) m.stamp (s.partialLines m.who ls))
        | none => .next ((s.flushBlock m.who ls).endRecall m)
      | _ => .next { s with recalls := dropFirst (· == m) s.recalls }
    | _, _ => .next { s with recalls := dropFirst (· == m) s.recalls }

/-! ### Requests at the package directory (R279) -/

/-- TNEW's answer (R273). -/
def State.tileNew (s : State) (q : TileReq) (d : List Word) : State :=
  if !descOk d then s.answerTile q [-1] true
  else
    match s.freeTiles q.fld 1 with
    | i :: _ => let y := s.allocTile q.fld i d; y.2.answerTile q [wval y.1] true
    | [] => s.answerTile q [-2] true

/-- A queued request on the handle or on one that overlaps it. -/
def State.queuedAhead (s : State) (f : Nat) (h : Word) (d : List Word) (ahead : List TileReq) : Bool :=
  ahead.any (fun q => q.waiting && q.fld == f && (q.handle == h || tilesOverlap d (s.descOf f q.handle)))

/-- Piece i of n along a dimension (R274). -/
def splitPiece (d : List Word) (k n i : Nat) : List Word :=
  let e := dExt d k
  let start := (i : Int) * (e / n) + Min.min (i : Int) (e % n)
  let ext := e / n + (if (i : Int) < e % n then 1 else 0)
  (d.set 0 (word (dW d 0 + start * dStr d k))).set (2 + k) (word ext)

/-- The children fit the directories and the lines of the parent's holders. -/
def State.splitFits (s : State) (f : Nat) (h : Word) (d : List Word) (kids : List (List Word)) : Bool :=
  let us := s.dirUses
  let mine := us.filter (fun u => u.handle == h)
  let n := kids.length
  let fits (here : Option Nat → Bool) (cap : Nat) : Bool :=
    !(mine.any (fun u => here u.core)) || decide ((dirHandles us here).length - 1 + n ≤ cap)
  mine.isEmpty ||
    (mine.all (fun u => match u.core with
      | some c => fits (atQuad c) quadDir && fits (atDie c) dieDir
      | none => true) && fits atPkg pkgDir &&
      (s.footprint f d).all (fun l =>
        decide (((s.lineHandles us l).filter (· != h)).length +
          (kids.filter (fun k => (s.footprint f k).contains l)).length ≤ 9)))

/-- Every holder of the parent holds a child with the parent's kind. -/
def State.inherit (s : State) (parent child : Word) : State :=
  (s.holdersOf parent).foldl (fun s h => s.modBlock h.who (fun b => b.setTenure child h.kind false)) s
/-- The parent's tenures are gone with it. -/
def State.dropTenures (s : State) (h : Word) : State :=
  { s with gangs := s.gangs.map (fun g => { g with blocks := g.blocks.map (fun b =>
      { b with tenures := b.tenures.filter (fun t => t.handle != h) }) }) }

/-- Allocate the children, piece 0 first. -/
def State.makeKids (s : State) (f : Nat) (h : Word) : List (Int × List Word) → List Word × State
  | [] => ([], s)
  | (i, d) :: r =>
    let y := s.allocTile f i d
    let z := (y.2.inherit h y.1).makeKids f h r
    (y.1 :: z.1, z.2)

/-- TSPLIT at the directory (R274): none while an earlier request on the parent or an overlapping handle waits. -/
def State.tileSplit (s : State) (q : TileReq) (spec : Int) : State :=
  let n := splitN spec
  let all (v : Int) : State := s.answerTile q (List.replicate (splitRegs spec) v) true
  match s.tileOf q.fld q.handle with
  | none => all (-1)
  | some t =>
    if s.queuedAhead q.fld q.handle t.desc s.tileQ then s
    else
      let k := splitDim spec
      if k < 0 ∨ k ≥ (dRank t.desc : Int) ∨ n < 2 ∨ n > 9 ∨ n > dExt t.desc k.toNat ∨ !splitRest spec then all (-2)
      else
        let free := s.freeTiles q.fld n.toNat
        if free.length < n.toNat then all (-3)
        else
          let kids := (List.range n.toNat).map (splitPiece t.desc k.toNat n.toNat)
          if !s.splitFits q.fld q.handle t.desc kids then all (-4)
          else
            let y := s.makeKids q.fld q.handle (free.zip kids)
            ((y.2.dropTenures q.handle).fallowTile q.fld q.handle).answerTile q (y.1.map wval) true

/-- Cancel queued requests on a handle: their counts end. -/
def State.cancelQueued (s : State) (p : TileReq → Bool) : State :=
  let out := s.tileQ.filter (fun q => q.waiting && p q)
  let s := { s with tileQ := s.tileQ.filter (fun q => !(q.waiting && p q)) }
  out.foldl (fun s q => s.modRow q.who (fun r => r.flagDown q.flag)) s

/-- TFREE at the directory (R275): requests cancelled, holders recalled, and then the index is fallow. -/
def State.tileFree (s : State) (q : TileReq) : State :=
  if (s.tileOf q.fld q.handle).isNone then s.answerTile q [] true
  else
    let s := s.cancelQueued (fun x => x.handle == q.handle)
    let s := (s.holdersOf q.handle).foldl (fun s h => s.startRecall true h) s
    if (s.holdersOf q.handle).isEmpty then (s.fallowTile q.fld q.handle).answerTile q [] true else s

/-- The block's own holding of a handle. -/
def State.ownHolder (s : State) (q : TileReq) : Option Holder :=
  (s.holdersOf q.handle).find? (fun h => q.sameBlock h.who)

/-- TREL at the directory (R281). -/
def State.tileRel (s : State) (q : TileReq) : State :=
  let s := s.cancelQueued (fun x => x.handle == q.handle && x.sameBlock q.who)
  match s.ownHolder q with
  | none => s.answerTile q [] true
  | some h => s.startRecall false h

/-- The holders that conflict with a request of a block for a kind on a handle (Table 16.4). -/
def State.conflicting (s : State) (q : TileReq) (d : List Word) : List Holder :=
  s.holders.filter (fun h =>
    h.fld == q.fld && !(q.sameBlock h.who && h.handle == q.handle) &&
      conflicts h.kind (dType h.desc) q.acqKind (dType d) && (h.handle == q.handle || tilesOverlap d h.desc))

/-- Lines of a handle of which the host holds a copy (R278). -/
def State.hostHeld (s : State) (f : Nat) (d : List Word) : List Loc := (s.footprint f d).filter (s.needsSnoop true)

/-- A grant: the block holds the handle, and LOST is clear. Copies of the footprint that no acquire will drop from now on are
dropped as it begins (16 R283, 19 R347, R352; log 105). -/
def State.grant (s : State) (q : TileReq) (d : List Word) : State :=
  (s.dropCopies (s.coreOf q.who) (s.footprint q.fld d)).modBlock q.who (fun b => b.setTenure q.handle q.acqKind false)

/-- The grant's status is written; the count ends at once, or when no host copy is left. -/
def State.grantNow (s : State) (q : TileReq) (d : List Word) : State :=
  let held := s.hostHeld q.fld d
  if held.isEmpty then (s.grant q d).answerTile q [1] true
  else
    let t := held.foldl (fun s l => s.snoop true l) (s.grant q d)
    { t with tileQ := t.tileQ ++ [{ q with stage := 2, desc := d }] }.answerTile q [1] false

/-- The first refusal of R278 that applies. -/
def State.acqRefusal (s : State) (q : TileReq) (d : List Word) : Option Int :=
  let us := s.dirUses
  let core := s.coreOf q.who
  let k := q.acqKind
  if k = 3 ∧ !(dType d == 0 || dType d == 1 || dType d == -2) then some (-2)
  else if (tileLines d).any (fun l => !s.eligible q.fld k l) then some (-3)
  else if !dirRoom us (atQuad core) quadDir q.handle then some (-4)
  else if !dirRoom us (atDie core) dieDir q.handle then some (-5)
  else if !dirRoom us atPkg pkgDir q.handle then some (-6)
  else if (s.footprint q.fld d).any (fun l => decide (9 ≤ ((s.lineHandles us l).filter (· != q.handle)).length)) then some (-7)
  else if s.tileQ.any (fun x => x.waiting && x.handle == q.handle && x.sameBlock q.who) then some (-8)
  else none

/-- TACQ at the directory (R278). -/
def State.tileAcq (s : State) (q : TileReq) : State :=
  match s.tileOf q.fld q.handle with
  | none => s.answerTile q [-1] true
  | some t =>
    match s.acqRefusal q t.desc with
    | some r => s.answerTile q [r] true
    | none =>
      match s.ownHolder q with
      | some h =>
        if s.recalling h.who h.handle then s
        else if h.kind = q.acqKind ∨ (h.kind ≠ 3 ∧ q.acqKind ≠ 3) then s.grantNow q t.desc
        else s.startRecall false h
      | none =>
        let cs := s.conflicting q t.desc
        if cs.isEmpty && !s.queuedAhead q.fld q.handle t.desc s.tileQ then s.grantNow q t.desc
        else
          let u := cs.foldl (fun s h => s.startRecall true h) s
          { u with tileQ := u.tileQ ++ [{ q with stage := 1 }] }.answerTile q [0] false

/-- PKIND of Table 16.6. -/
def pkgKind (hs : List Holder) : Int :=
  if hs.any (fun h => h.kind == 2) then 2 else if hs.any (fun h => h.kind == 1) then 1 else if hs.isEmpty then 0 else 3

/-- The state word of Table 16.6. -/
def State.tileWord (s : State) (q : TileReq) : Int :=
  match s.tileOf q.fld q.handle with
  | none =>
    match s.tileIdx? q.fld (hIdx q.handle) with
    | some t => if t.state = 2 ∧ q.handle = mkHandle q.fld t.idx t.gen then 0 else -1
    | none => -1
  | some _ =>
    let ten := (s.block? q.who).bind (fun b => b.tenure? q.handle)
    let queued := s.tileQ.any (fun x => x.waiting && x.handle == q.handle && x.sameBlock q.who)
    let kind : Int := if queued then -1 else (ten.map (·.kind)).getD 0
    let lost : Int := if (ten.map (·.lost)).getD false then 1 else 0
    let hs := s.holdersOf q.handle
    1 + kind * 3 + lost * 27 + (hs.length : Int) * 81 + pkgKind hs * 3 ^ 12

/-- REDC (R288): the block's partials on the handle go home. -/
def State.tileRedc (s : State) (q : TileReq) : State :=
  let kind := (((s.block? q.who).bind (fun b => b.tenure? q.handle)).map (·.kind)).getD 0
  if kind ≠ 3 then s.answerTile q [] true
  else
    let ls := s.tileFoot q.fld q.handle
    match s.snoopFirst true (s.partialLines q.who ls) with
    | some t => t.await (.event .tileRequestAnswer) 0 (s.partialLines q.who ls)
    | none => (s.flushBlock q.who ls).answerTile q [] true

/-- TILE_REQUEST_ANSWER (R279): the directory performs its oldest request; one that must wait stays first. -/
def execTileRequestAnswer (s : State) : Host.Outcome State Fault Refusal :=
  match s.tileIn with
  | [] => .next s
  | q :: _ =>
    match q.kind with
    | .tnew d => .next (s.tileNew q d)
    | .tsplit z => .next (s.tileSplit q (wval z))
    | .tfree => .next (s.tileFree q)
    | .tacq _ => .next (s.tileAcq q)
    | .trel => .next (s.tileRel q)
    | .tqry => .next (s.answerTile q [s.tileWord q] true)
    | .redc => .next (s.tileRedc q)

/-- A queued or granted request leaves the queue, complete. -/
def State.doneQueued (s : State) (k : Nat) (q : TileReq) : State :=
  { s.modRow q.who (fun r => r.flagDown q.flag) with tileQ := s.tileQ.eraseIdx k }.sweepTiles q.fld

/-- TACQ_GRANT (R278, R279): a queued request with nothing ahead of it and no conflicting holder is granted; a grant
completes once the host holds no copy of the footprint. -/
def execTacqGrant (k : Nat) (s : State) : Host.Outcome State Fault Refusal :=
  match s.tileQ[k]? with
  | none => .next s
  | some q =>
    let d := s.descOf q.fld q.handle
    if (s.block? q.who).isNone then .next { s with tileQ := s.tileQ.eraseIdx k }
    else if q.stage = 2 then
      match s.snoopFirst true (s.hostHeld q.fld q.desc) with
      | some t => .next (t.await (.event (.tacqGrant k)) 0 (s.hostHeld q.fld q.desc))
      | none => .next (s.doneQueued k q)
    else if s.queuedAhead q.fld q.handle d (s.tileQ.take k) then .next s
    else
      let cs := s.conflicting q d
      if !cs.isEmpty then .next (cs.foldl (fun s h => s.startRecall true h) s)
      else
        match s.snoopFirst true (s.hostHeld q.fld d) with
        | some t => .next (t.await (.event (.tacqGrant k)) 0 (s.hostHeld q.fld d))
        | none => .next ((s.grant q d).doneQueued k q)

/-! ### Pushes and flushes -/

/-- A holder's copies take the line as its home holds it. -/
def State.pushCopies (s : State) (core : Nat) (line : Loc) : State :=
  let d := s.lineAt line
  let mine := s.overOrder core line d
  let s := s.modCore core (fun k => { k with l1 := k.l1.map (fun c => if c.line = line then { c with data := mine } else c) })
  s.modDie (core / 80) (fun x => { x with rdc := x.rdc.map (fun c => if c.line = line then { c with data := d } else c) })

/-- PUSH (R283): pushes of one line to one holder are applied in their order; a write that waits for its last push
completes (R284). -/
def execPush (k : Nat) (s : State) : Host.Outcome State Fault Refusal :=
  match s.pushes[k]? with
  | none => .next s
  | some p =>
    if (s.pushes.take k).any (fun x => x.line == p.line && x.who == p.who) then .next s
    else
      let t := match s.block? p.who with | some b => s.pushCopies b.core p.line | none => s
      let t := { t with pushes := t.pushes.eraseIdx k }
      match p.src with
      | some q =>
        if t.pushes.any (fun x => x.src == p.src) then .next t
        else .next (t.modRow q.1 (fun r => r.flagDown q.2.1))
      | none => .next t

/-- FLUSH (R287): a block's partial line goes home. -/
def execFlush (r : RowRef) (line : Loc) (s : State) : Host.Outcome State Fault Refusal :=
  let w := { r with row := 0 }
  match s.snoopFirst true (s.partialLines w [line]) with
  | some t => .next (t.await (.event (.flush r line)) 0 (s.partialLines w [line]))
  | none => .next (s.flushOne w line)

end Sys2Proof.Machine
end

