-- ==== Sys2Proof/Machine/EngineUnit.lean ====
section
/-!
DEFINITION. What an engine command does to one unit of memory (18 R326 to R337): reads and writes of the global space and
of scratch, the fault path, failures, and the element arithmetic of CHAIN and COLL.
-/
namespace Sys2Proof.Machine

/-! ### Outcomes -/

/-- The outcome of a unit: done; waiting for what some lines need first; on the fault path; or failed, with the cause, the address reported,
and the further log record of the event (its kind, 0 for none, and the line). -/
inductive UnitRes (α : Type) where
  | ok (x : α) (s : State)
  | wait (ls : List Loc) (s : State)
  | fault (va : Int) (k : FaultKind) (level : Nat) (s : State)
  | fail (cause : Cause) (info : Int) (kind : Int) (line : Nat) (s : State)

/-- Go on after a unit. -/
def UnitRes.next {α β : Type} (r : UnitRes α) (f : α → State → UnitRes β) : UnitRes β :=
  match r with
  | .ok x s => f x s
  | .wait ls s => .wait ls s
  | .fault va k level s => .fault va k level s
  | .fail c i k l s => .fail c i k l s

/-- Where a command belongs: its row, gang, core and field. -/
structure Env where
  ref : RowRef
  g : Gang
  core : Nat
  fld : Nat
deriving DecidableEq, Repr

def State.env? (s : State) (r : RowRef) : Option Env :=
  match s.gang? r.gid, s.block? r with
  | some g, some b => some ⟨r, g, b.core, g.fld⟩
  | _, _ => none

/-! ### Global units -/

/-- Translate a unit. -/
def State.unitLoc (s : State) (e : Env) (va : Int) (n : Need) : UnitRes Loc :=
  let x := s.xlat e.core e.fld va n
  match x.1 with
  | .wait ls => .wait ls x.2
  | .cut l => .fail .data va 12 (l.a / 27) x.2
  | .prot w => .fail .prot va w 0 x.2
  | .fault k level => .fault va k level x.2
  | .ok l _ _ => .ok l x.2

/-- Read n trytes that lie in one line, by the plain path. -/
def State.unitLoad (s : State) (e : Env) (va : Int) (n : Nat) : UnitRes (List Tryte) :=
  (s.unitLoc e va { Need.load with len := n }).next (fun l s =>
    if s.badLine l || s.cutOff (e.core / 80) l then .fail .data va 12 (l.a / 27) s
    else match s.snoopFirst false [lineOf l] with
      | some t => .wait [lineOf l] t
      | none => .ok ((List.range n).map (fun k => s.tryteAt (locAt l k))) (s.l2Request (lineOf l) (e.core / 4) 0))

/-- The location a unit of n trytes in one line may be written at now. -/
def State.unitTarget (s : State) (e : Env) (va : Int) (n : Nat) : UnitRes Loc :=
  (s.unitLoc e va { Need.store with len := n }).next (fun l s =>
    if s.cutOff (e.core / 80) l || (if n = 27 then s.badWhole l else s.badLine l) then .fail .data va 12 (l.a / 27) s
    else match s.snoopFirst true [lineOf l] with
      | some t => .wait [lineOf l] t
      | none => .ok l s)

/-- Apply trytes at their home as a store of the row (R285), which its core and die see as one of theirs (18 R324, 19 R341). -/
def State.unitApply (s : State) (e : Env) (va : Int) (l : Loc) (ts : List Tryte) : State :=
  let line := lineOf l
  let ws := ts.zipIdx.map (fun q => (l.a - line.a + q.2, q.1))
  (s.homeWrite line ws (s.fieldC e.fld va) none).copiesUpdate e.core line ws

/-- Write trytes that lie in one line. -/
def State.unitStore (s : State) (e : Env) (va : Int) (ts : List Tryte) : UnitRes Unit :=
  (s.unitTarget e va ts.length).next (fun l s => .ok () (s.unitApply e va l ts))

/-! ### Scratch units -/

/-- Trytes of scratch from an address; a word that no code repairs fails the command (R337). -/
def State.scrTrytes (s : State) (e : Env) (a : Int) (n : Nat) : UnitRes (List Tryte) :=
  match blockWord e.g e.ref.blk a, blockWord e.g e.ref.blk (a + n - 1) with
  | some (k, w, sub), some (k', _, _) =>
    if k = k' then
      if (List.range n).any (fun i => (s.blk e.ref k).bad.contains (w + (sub + i) / 3)) then .fail .data a 0 0 s
      else .ok ((List.range n).map (fun i => tryteOfWord (s.scrGet e.ref k (w + (sub + i) / 3)).1 ((sub + i) % 3))) s
    else .fail .prot a 0 0 s
  | _, _ => .fail .prot a 0 0 s

/-- One tryte of a scratch word; the word is full once its last covered tryte is written (R325). -/
def State.putScrTryte (s : State) (ref : RowRef) (k w sub : Nat) (v : Tryte) (full : Bool) : State :=
  let o := s.scrGet ref k w
  s.scrSet ref k w (word (mergeTryte (wval o.1) sub (tval v)), if full then .pos else o.2)

/-- Write trytes to scratch; `last` says that nothing of the word is written after them. -/
def State.scrStore (s : State) (e : Env) (a : Int) (ts : List Tryte) (last : Bool) : UnitRes Unit :=
  match blockWord e.g e.ref.blk a, blockWord e.g e.ref.blk (a + ts.length - 1) with
  | some (k, w, sub), some (k', _, _) =>
    if k = k' then
      .ok () (ts.zipIdx.foldl (fun s q =>
        let i := sub + q.2
        s.putScrTryte e.ref k (w + i / 3) (i % 3) q.1 (i % 3 == 2 || (last && q.2 + 1 == ts.length))) s)
    else .fail .prot a 0 0 s
  | _, _ => .fail .prot a 0 0 s

/-- The words an area of scratch covers: block and word. -/
def areaWords (g : Gang) (own : Nat) (a : Int) (n : Nat) : List (Nat × Nat) :=
  match blockWord g own a with
  | some (k, w, sub) => (List.range ((sub + n + 2) / 3)).map (fun i => (k, w + i))
  | none => []

/-! ### Either space -/

def State.readUnit (s : State) (e : Env) (scr : Bool) (a : Int) (n : Nat) : UnitRes (List Tryte) :=
  if scr then s.scrTrytes e a n else s.unitLoad e (wrapT 27 a) n
def State.writeUnit (s : State) (e : Env) (scr : Bool) (a : Int) (ts : List Tryte) (last : Bool) : UnitRes Unit :=
  if scr then s.scrStore e a ts last else s.unitStore e (wrapT 27 a) ts

/-- The value of some trytes, lowest first. -/
def trytesVal (ts : List Tryte) : Int := ts.zipIdx.foldl (fun a q => a + tval q.1 * 3 ^ (9 * q.2)) 0
/-- The n lowest trytes of a value. -/
def valTrytes (n : Nat) (v : Int) : List Tryte := (List.range n).map (fun k => tryte (field v (9 * k) 9))

/-! ### CHAIN (R328, R329) -/

/-- Trytes of an element of a type of Table 6.8b; 0 for a type CHAIN refuses. -/
def chainSize (ty : Int) : Nat := if ty = 0 ∨ ty = 3 then 3 else if ty = 1 ∨ ty = 4 ∨ ty = 2 then 1 else 0
def chainFloat (ty : Int) : Bool := ty == 3 || ty == 4 || ty == 2
/-- Fields of a record. -/
def recW (d : List Word) (k : Nat) : Int := wval (d.getD k 0)
def recType (d : List Word) : Int := field (recW d 3) 0 2
def recSat (d : List Word) : Bool := trit (recW d 3) 5 == 1
def opCode (w : Int) : Int := field w 0 3
def opSrc (w : Int) : Int := field w 3 2
def opCI (w : Int) : Int := field w 5 3

/-- An operation word is well formed (Table 18.8): SRC 0 goes with ABS alone. -/
def opOk (w : Int) : Bool :=
  let o := opCode w
  let r := opSrc w
  decide (-2 ≤ o ∧ o ≤ 6) && o != 0 && field w 8 19 == 0 &&
    (if r = 0 then o == -1 && opCI w == 0
     else if r = 1 then o != -1 && o != -2 && opCI w == 0
     else r == 2 && o != -1 && decide (0 ≤ opCI w ∧ opCI w ≤ 4))
/-- The operations before the first zero word; none when a later word is not zero or one is malformed. -/
def chainOps : List Word → Option (List Int)
  | [] => some []
  | w :: r =>
    if w = 0 then (if r.all (· == 0) then some [] else none)
    else if opOk (wval w) then (chainOps r).map (fun l => wval w :: l) else none
/-- The record is well formed (Table 18.7). -/
def recordOk (d : List Word) : Bool :=
  let ty := recType d
  let z := chainSize ty
  let plus (i : Nat) : Bool := trit (recW d 3) i == 0 || trit (recW d 3) i == 1
  z != 0 && plus 2 && plus 3 && plus 4 && plus 5 && field (recW d 3) 6 21 == 0 && !(chainFloat ty && recSat d) &&
    (chainOps ((d.drop 4).take 8)).isSome &&
    (z == 3 || (List.range 5).all (fun i => field (recW d (12 + i)) 9 18 == 0)) &&
    (z == 1 || (recW d 0 % 3 == 0 && recW d 2 % 3 == 0 &&
      (!((chainOps ((d.drop 4).take 8)).getD []).any (fun w => opSrc w == 1) || recW d 1 % 3 == 0)))

/-- v × 3^n as an integer: where it is none, a free value (log 36). -/
def chainScl (v n : Int) : Int :=
  if 0 ≤ n then v * 3 ^ (satT n 0 100).toNat
  else if v % 3 ^ (satT (-n) 0 100).toNat = 0 then v / 3 ^ (satT (-n) 0 100).toNat
  else Config.chainScale v n

/-- One operation on integers, exact. -/
def chainInt (o v x : Int) : Int :=
  if o = 1 then v + x else if o = 2 then v - x else if o = 3 then x - v else if o = 4 then v * x
  else if o = 5 then elemMin v x else if o = 6 then elemMax v x else if o = -1 then (v.natAbs : Int) else chainScl v x
/-- One operation on floats, rounded once. -/
def chainFl (k : FKind) (o v x : Int) : Int × Fx :=
  if o = 1 then flAdd k v x else if o = 2 then flAdd k v (negFl k x) else if o = 3 then flAdd k x (negFl k v)
  else if o = 4 then flMul k v x else if o = 5 then flMin k v x else if o = 6 then flMax k v x
  else if o = -1 then flAbs k v else flScale k v x

/-- An element through the record's operations; `b` is element e of B. -/
def chainElem (d : List Word) (v b : Int) : Int × Fx :=
  let ty := recType d
  ((chainOps ((d.drop 4).take 8)).getD []).foldl (fun (a : Int × Fx) w =>
    let x := if opSrc w = 1 then b else recW d (12 + (opCI w).toNat)
    let r := if chainFloat ty then chainFl (fkindA ty) (opCode w) a.1 x
      else complete (if ty = 1 then 9 else 27) (recSat d) (chainInt (opCode w) a.1 x)
    (r.1, a.2.union r.2)) (v, Fx.clear)

/-! ### COLL (R330, R331) -/

/-- Trytes of an element of a collective's type; 0 for a type it refuses. -/
def collSize (ty : Int) : Nat := if ty = 0 ∨ ty = 3 then 3 else if ty = 1 then 1 else if ty = -2 then 9 else 0
def collType (d : List Word) : Int := field (recW d 2) 0 2
def collOp (d : List Word) : Int := field (recW d 2) 2 3
/-- The descriptor is well formed for a kind: 1 .red, 2 .bcast, 3 .gath (Table 18.9). -/
def collOk (kind : Int) (d : List Word) : Bool :=
  let p := recW d 0
  decide (1 ≤ p ∧ p ≤ 729) && decide (1 ≤ recW d 1 ∧ recW d 1 ≤ 531441) && collSize (collType d) != 0 &&
    field (recW d 2) 5 22 == 0 &&
    (if kind = 1 then (if collType d = -2 then collOp d == 1 else decide (1 ≤ collOp d ∧ collOp d ≤ 3)) else collOp d == 0) &&
    (if kind = 2 then decide (0 ≤ recW d 3 ∧ recW d 3 < p) else recW d 3 == 0) &&
    recW d 4 == 0 && recW d 7 == 0 && recW d 8 == 0

/-- The least L with 3^L ≥ n. -/
def treeLevels (n : Nat) : Nat := ((List.range 8).find? (fun l => decide (n ≤ 3 ^ l))).getD 8
def collLaneOp (o : Int) : LaneOp := if o = 2 then .min else if o = 3 then .max else .add
/-- The tree total of one element over the participants, with the wrap of its type at the root. -/
def collTotal (d : List Word) (xs : List Int) : Int × Fx :=
  let ty := collType d
  let o := collLaneOp (collOp d)
  let l := treeLevels xs.length
  let fill := (laneId o ty).headD 0
  let leaves := (List.range (3 ^ l)).map (fun i => (⟨[xs.getD i fill], Fx.clear⟩ : LaneAcc))
  let t := (treeTotal o ty l leaves).headD ⟨[0], Fx.clear⟩
  let v := t.els.headD 0
  (if ty = 3 then v else wrapT (if ty = 1 then 9 else if ty = -2 then 81 else 27) v, t.fx)

/-- The pieces of a range of n trytes at an address, line by line: address and length. -/
def pieces (a : Int) (n : Nat) : List (Int × Nat) :=
  let off := (a % 27).toNat
  (List.range ((off + n + 26) / 27)).map (fun k =>
    let lo := Max.max off (27 * k)
    let hi := Min.min (off + n) (27 * k + 27)
    (wrapT 27 (a - off + lo), hi - lo))

/-- Read a range of the global space. -/
def State.readPieces (e : Env) : List (Int × Nat) → List Tryte → State → UnitRes (List Tryte)
  | [], acc, s => .ok acc s
  | p :: r, acc, s => (s.unitLoad e p.1 p.2).next (fun ts s => State.readPieces e r (acc ++ ts) s)
/-- Check that every piece of a range can be written. -/
def State.checkPieces (e : Env) : List (Int × Nat) → State → UnitRes Unit
  | [], s => .ok () s
  | p :: r, s => (s.unitTarget e p.1 p.2).next (fun _ s => State.checkPieces e r s)
/-- Write a range. -/
def State.writePieces (e : Env) : List (Int × Nat) → List Tryte → State → UnitRes Unit
  | [], _, s => .ok () s
  | p :: r, ts, s => (s.unitStore e p.1 (ts.take p.2)).next (fun _ s => State.writePieces e r (ts.drop p.2) s)

end Sys2Proof.Machine
end

