-- ==== Sys2Proof/Machine/Engines.lean ====
section
/-!
DEFINITION. Class −7: engine commands, joins and batches (18 R320 to R335), their start, progress, failure and completion
(R323 to R338), collective instances (R330 to R332) and peer deliveries (R327).
-/
namespace Sys2Proof.Machine

/-! ### Slots -/

def slotOf (f : FF) : Nat := (f.slot + 4).toNat
/-- Entries of a slot (R320). -/
def slotCap : Nat := 81
def Row.slot (r : Row) (k : Nat) : EngSlot := r.slots.getD k ⟨[], none⟩
def Row.modSlot (r : Row) (k : Nat) (f : EngSlot → EngSlot) : Row := { r with slots := modAt r.slots k f }

/-- A slot mask names slots 0 to 8 and holds no other trit (R321). -/
def maskOk (m : Int) : Bool := field m 9 18 == 0 && (List.range 9).all (fun i => trit m i != -1)
def maskSlots (m : Int) : List Nat := (List.range 9).filter (fun i => trit m i == 1)

/-- Accept a command at the tail of its slot and into its open batch, which 27 commands close (R323, R334). -/
def Row.accept (r : Row) (k : Nat) (c : Cmd) : Row :=
  match (r.slot k).openBatch with
  | none => { r with batches := r.batches + 1 }.modSlot k (fun x =>
      ⟨x.entries ++ [SlotEntry.cmd { c with batch := r.batches }], some (r.batches, 1)⟩)
  | some (n, m) => r.modSlot k (fun x =>
      ⟨x.entries ++ [SlotEntry.cmd { c with batch := n }], if m + 1 = 27 then none else some (n, m + 1)⟩)
/-- Close the open batches of some slots. -/
def Row.closeBatches (r : Row) (ks : List Nat) : Row :=
  ks.foldl (fun r k => r.modSlot k (fun x => { x with openBatch := none })) r
/-- Outstanding closed batches of a slot: those with a command that has not completed. -/
def EngSlot.outstanding (x : EngSlot) : Nat :=
  let ns := x.entries.filterMap (fun e => match e with | .cmd c => some c.batch | .join _ => none)
  let ns := ns.foldl (fun (l : List Nat) n => if l.contains n then l else l ++ [n]) []
  (ns.filter (fun n => (x.openBatch.map (·.1)) != some n)).length

/-! ### Acceptance (R322, R323, R325) -/

/-- Set words pending. -/
def State.setPending (s : State) (ref : RowRef) (ws : List (Nat × Nat)) : State :=
  ws.foldl (fun s q => s.scrSet ref q.1 q.2 ((s.scrGet ref q.1 q.2).1, .zero)) s

def unitSize (line : Bool) : Int := if line then 27 else 3
/-- A value outside its range: ILLMOD with the value (R322, check 1). -/
def rangeCheck (ok : Bool) (x : Int) : Except Trap Unit := need ok ⟨.illmod, some x, none⟩
/-- Alignment of an address whose offset decides it (R322, check 2). -/
def unitAlign (m : Int) (scr : Bool) (a : Int) : Except Trap Unit :=
  need ((if scr then scrAlign a else a) % m == 0) (Trap.align a)
/-- A scratch range lies in one block's scratch (R322, check 3). -/
def rangeIn (c : Ctx) (a n : Int) : Except Trap Unit :=
  need (match blockWord c.g c.ref.blk a with
    | some (_, w, sub) => decide (3 * (w : Int) + sub + n ≤ 3 * (c.g.lrec.scr : Int))
    | none => false) (Trap.prot a)
/-- A range in the issuing block's own scratch. -/
def rangeOwn (c : Ctx) (a n : Int) : Except Trap Unit :=
  need (trit a 26 == 0 && decide (0 ≤ a ∧ a + n ≤ 3 * (c.g.lrec.scr : Int))) (Trap.prot a)

/-- The nine words and more of an area of the row's own scratch, as it stands. -/
def State.ownWords (s : State) (ref : RowRef) (a : Int) (n : Nat) : List Word :=
  (List.range n).map (fun i => (s.scrGet ref ref.blk ((a / 3).toNat + i)).1)

/-- The words a command will write that are known when it is accepted (R325). -/
def knownWords (s : State) (c : Ctx) (kind : CmdKind) (f : FF) (x z : Int) : List (Nat × Nat) :=
  let size := unitSize (trit f.ctl 0 == 1)
  match kind with
  | .cpy => if trit f.ctl 2 = 1 then areaWords c.g c.ref.blk x (z * size).toNat else []
  | .gath => if trit f.ctl 2 = 1 then areaWords c.g c.ref.blk x (z * size).toNat else []
  | .chain =>
    let d := s.ownWords c.ref x 18
    if recordOk d && trit (recW d 3) 4 == 1 then
      areaWords c.g c.ref.blk (recW d 2) (z.toNat * chainSize (recType d))
    else []
  | _ => []

/-- The checks of R322 for each command. -/
def cmdChecks (c : Ctx) (kind : CmdKind) (f : FF) (x y z : Int) : Except Trap Unit := do
  let size := unitSize (trit f.ctl 0 == 1)
  let ssp := trit f.ctl 1 == 1
  let dsp := trit f.ctl 2 == 1
  match kind with
  | .cpy =>
    rangeCheck (decide (1 ≤ z ∧ z ≤ 531441)) z
    unitAlign size dsp x
    unitAlign size ssp y
    if dsp then rangeIn c x (z * size)
    if ssp then rangeIn c y (z * size)
  | .gath =>
    rangeCheck (decide (1 ≤ z ∧ z ≤ 6561)) z
    unitAlign size dsp x
    unitAlign 3 true y
    if dsp then rangeIn c x (z * size)
    rangeOwn c y (3 * z)
  | .scat =>
    rangeCheck (decide (1 ≤ z ∧ z ≤ 6561)) z
    unitAlign 3 true x
    unitAlign size ssp y
    rangeOwn c x (3 * z)
    if ssp then rangeIn c y (z * size)
  | .peer =>
    rangeCheck (decide (1 ≤ z ∧ z ≤ 729)) z
    unitAlign size false x
    unitAlign size ssp y
    if ssp then rangeIn c y (z * size)
  | .chain =>
    rangeCheck (decide (1 ≤ z ∧ z ≤ 531441)) z
    unitAlign 27 true x
    rangeOwn c x 54
  | .coll =>
    rangeCheck (decide (0 ≤ y ∧ y ≤ 728)) y
    unitAlign 27 false x

/-- The fields of format F a command uses: y and z. -/
def cmdUses (kind : CmdKind) : Bool × Bool :=
  match kind with
  | .chain => (false, true)
  | .coll => (true, false)
  | _ => (true, true)
/-- The slots a kind may stand in (Table 18.1). -/
def slotOk (kind : CmdKind) (k : Nat) : Bool :=
  match kind with
  | .chain => k == 5 || k == 6
  | .coll => k == 7
  | .peer => k == 8
  | _ => decide (k ≤ 4)
/-- ctl values (Tables 18.3, 18.6). -/
def cmdCtlOk (kind : CmdKind) (ctl : Int) : Bool :=
  let plus (i : Nat) : Bool := trit ctl i == 0 || trit ctl i == 1
  match kind with
  | .chain => ctl == 0
  | .coll => decide (1 ≤ field ctl 0 2 ∧ field ctl 0 2 ≤ 3) && decide (1 ≤ field ctl 2 2 ∧ field ctl 2 2 ≤ 4)
  | .peer => plus 0 && plus 1 && trit ctl 2 == 0 && trit ctl 3 == 0
  | _ => plus 0 && plus 1 && plus 2 && trit ctl 3 == 0

/-- A command as accepted. -/
def mkCmd (s : State) (c : Ctx) (kind : CmdKind) (f : FF) (x y z : Int) (pend : List (Nat × Nat)) : Cmd :=
  { kind := kind, x := word x, y := word y, z := word z, line := trit f.ctl 0 == 1, ssp := trit f.ctl 1 == 1
    dsp := trit f.ctl 2 == 1, ctl := f.ctl, flag := c.e.fb, batch := 0, started := false, done_ := 0, data := []
    sent := [], pend := pend, held := none, spill := false, faultVa := 0, stamp := s.steps }

/-- An engine command (R321 to R325). -/
def engine (s : State) (f : FF) (kind : CmdKind) : Host.Outcome State Fault Refusal :=
  withRow s (fun c => do
    let u := cmdUses kind
    let fs := [f.x] ++ (if u.1 then [f.y] else []) ++ (if u.2 then [f.z] else [])
    gate c false (fs.map src) ((u.1 || f.y == 0) && (u.2 || f.z == 0) && slotOk kind (slotOf f) && cmdCtlOk kind f.ctl &&
      rowSrcs c fs) { p := true }
    if usesBusy c (fs.map src) then .ok (s.hold c 11)
    else if flagWait c c.mod.pred c.e.fb then .ok (s.hold c 2 c.e.fb)
    else
      need (uniform c fs) (Trap.nonUniform c)
      let acts ← rowActs c c.mod.pred
      if !acts then .ok (s.finish c c.r)
      else
        let x := rdRow c f.x
        let y := if u.1 then rdRow c f.y else 0
        let z := if u.2 then rdRow c f.z else 0
        cmdChecks c kind f x y z
        if slotCap ≤ (c.r.slot (slotOf f)).entries.length then .ok (s.hold c 5 0 f.slot)
        else
          let ws := knownWords s c kind f x z
          let r := (c.r.accept (slotOf f) (mkCmd s c kind f x y z ws)).flagUp c.e.fb
          .ok ((s.setPending c.ref ws).finish c r))

/-- CPY (R326). -/
def execCpy (f : FF) (s : State) : Host.Outcome State Fault Refusal := engine s f .cpy
/-- GATH (R326). -/
def execGath (f : FF) (s : State) : Host.Outcome State Fault Refusal := engine s f .gath
/-- SCAT (R326). -/
def execScat (f : FF) (s : State) : Host.Outcome State Fault Refusal := engine s f .scat
/-- PEER (R327). -/
def execPeer (f : FF) (s : State) : Host.Outcome State Fault Refusal := engine s f .peer
/-- CHAIN (R328). -/
def execChain (f : FF) (s : State) : Host.Outcome State Fault Refusal := engine s f .chain
/-- COLL (R330). -/
def execColl (f : FF) (s : State) : Host.Outcome State Fault Refusal := engine s f .coll

/-! ### Joins and batches (R333 to R335) -/

/-- QFENCE (R333). -/
def execQfence (f : FF) (s : State) : Host.Outcome State Fault Refusal :=
  withRow s (fun c => do
    gate c false [src f.y] (f.slot == 0 && f.ctl == 0 && f.x == 0 && f.z == 0 && rowSrcs c [f.y]) { p := true }
    if usesBusy c [src f.y] then .ok (s.hold c 11)
    else
      need (uniform c [f.y]) (Trap.nonUniform c)
      let acts ← rowActs c c.mod.pred
      let m := rdRow c f.y
      if !acts then .ok (s.finish c c.r)
      else
        rangeCheck (maskOk m) m
        match (maskSlots m).find? (fun k => decide (slotCap ≤ (c.r.slot k).entries.length)) with
        | some k => .ok (s.hold c 5 0 ((k : Int) - 4))
        | none =>
          let r := { c.r with joins := c.r.joins + 1 }
          .ok (s.finish c ((maskSlots m).foldl (fun r k =>
            r.modSlot k (fun x => { x with entries := x.entries ++ [.join c.r.joins] })) r)))

/-- BCLOSE (R334). -/
def execBclose (f : FF) (s : State) : Host.Outcome State Fault Refusal :=
  withRow s (fun c => do
    gate c false [src f.y] (f.slot == 0 && f.ctl == 0 && f.x == 0 && f.z == 0 && rowSrcs c [f.y]) { p := true }
    if usesBusy c [src f.y] then .ok (s.hold c 11)
    else
      need (uniform c [f.y]) (Trap.nonUniform c)
      let acts ← rowActs c c.mod.pred
      let m := rdRow c f.y
      if !acts then .ok (s.finish c c.r)
      else
        rangeCheck (maskOk m) m
        .ok (s.finish c (c.r.closeBatches (maskSlots m))))

/-- BWAIT (R335, R338). -/
def execBwait (f : FF) (s : State) : Host.Outcome State Fault Refusal :=
  withRow s (fun c => do
    let us := [dst f.x, src f.y, src f.z]
    gate c false us (f.slot == 0 && f.ctl == 0 && scaDst c f.x && rowSrcs c [f.y, f.z]) { p := true }
    if usesBusy c us then .ok (s.hold c 11)
    else
      need (uniform c [f.y, f.z]) (Trap.nonUniform c)
      let acts ← rowActs c c.mod.pred
      let m := rdRow c f.y
      let n := rdRow c f.z
      if !acts then .ok (s.finish c c.r)
      else
        rangeCheck (maskOk m) m
        rangeCheck (decide (0 ≤ n ∧ n ≤ 81)) n
        let r := c.r.closeBatches (maskSlots m)
        let c := { c with r := r }
        let count (k : Nat) : Nat := (r.slot k).outstanding
        match (maskSlots m).find? (fun k => decide (n < (count k : Int))) with
        | some k => .ok ((s.modRow c.ref (fun _ => r)).hold c 5 0 ((k : Int) - 4))
        | none =>
          match reportDue s c (fun x => (maskSlots m).contains x.slot) (fun _ => false) with
          | some t => .ok t
          | none => .ok (s.finish c (wrRow c.gen0 c.w r c.act f.x ((maskSlots m).foldl (fun a k => a + (count k : Int)) 0))))

/-! ### Progress of a command -/

/-- The first entry of a slot, when it is a command. -/
def Row.headCmd (r : Row) (k : Nat) : Option Cmd :=
  match (r.slot k).entries with
  | .cmd c :: _ => some c
  | _ => none
/-- Change the first entry of a slot. -/
def State.putCmd (s : State) (ref : RowRef) (k : Nat) (c : Cmd) : State :=
  s.modRow ref (fun r => r.modSlot k (fun x => { x with entries := .cmd c :: x.entries.drop 1 }))
/-- The first entry leaves its slot, complete. -/
def State.endCmd (s : State) (ref : RowRef) (k : Nat) (c : Cmd) : State :=
  s.modRow ref (fun r => (r.modSlot k (fun x => { x with entries := x.entries.drop 1 })).flagDown c.flag)

/-- Words the command set pending, did not write, and that are still pending become empty (R325). -/
def State.unpend (s : State) (ref : RowRef) (ws : List (Nat × Nat)) : State :=
  ws.foldl (fun s q =>
    let o := s.scrGet ref q.1 q.2
    if o.2 = .zero then s.scrSet ref q.1 q.2 (o.1, .neg) else s) s

/-- A command fails (R325, R337, R338): it is logged, kept unreported, and leaves its slot; the units a PEER has handed to the link
still reach the peer (R327). -/
def State.failCmd (s : State) (ref : RowRef) (k : Nat) (c : Cmd) (cause : Cause) (info : Int) (kind : Int) (line : Nat) :
    State :=
  let s := if kind = 0 then s else s.logRow kind ref 0 (word info) line
  let s := (s.logRow 18 ref 0 (word info) line).unpend ref c.pend
  let out : List PeerOut := if c.sent.isEmpty then [] else [⟨c.sent, c.stamp⟩]
  let s := s.modRow ref (fun r => { r with fails := r.fails ++ [⟨k, c.flag, cause, word info⟩], peers := r.peers ++ out })
  s.endCmd ref k c

/-- A command's unit met the fault path (R336): it joins its die's wait table, or the overflow entry. -/
def State.holdCmd (s : State) (e : Env) (k : Nat) (c : Cmd) (va : Int) (kind : FaultKind) (level : Nat) : State :=
  let die := e.core / 80
  match s.faultEntry die e.fld va kind level with
  | some (i, t) => t.putCmd e.ref k { c with held := some (die, i), faultVa := word va }
  | none =>
    let t := s.putCmd e.ref k { c with spill := true, faultVa := word va }
    if (s.die die).overflow.contains (e.ref, k + 1) then t
    else t.modDie die (fun d => { d with overflow := d.overflow ++ [(e.ref, k + 1)] })

/-- A command's progress over its units: complete, or why it stopped. -/
inductive CmdEnd where
  | done
  | wait (ls : List Loc)
  | fault (va : Int) (k : FaultKind) (level : Nat)
  | fail (cause : Cause) (info : Int) (kind : Int) (line : Nat)

/-- The scratch words a written area fills are no longer the command's to empty. -/
def Cmd.wrote (c : Cmd) (ws : List (Nat × Nat)) : Cmd := { c with pend := c.pend.filter (fun q => !ws.contains q) }

/-- An element address of a list (R326): its alignment; a scratch one's bounds are checked as the unit is reached. -/
def elemCheck (s : State) (scr : Bool) (size a : Int) : UnitRes Unit :=
  if (if scr then scrAlign a else a) % size = 0 then .ok () s else .fail .align a 0 0 s

/-- Copy a unit from one place to another. -/
def State.copyUnit (s : State) (e : Env) (c : Cmd) (size : Nat) (sp : Bool) (a : Int) (dp : Bool) (b : Int) : UnitRes Cmd :=
  (s.readUnit e sp a size).next (fun ts s =>
    (s.writeUnit e dp b ts true).next (fun _ s =>
      .ok (if dp then c.wrote (areaWords e.g e.ref.blk b size) else c) s))

/-- A PEER unit: read, and handed to the link for a leaf of MK = + (R327). -/
def State.peerUnit (s : State) (e : Env) (c : Cmd) (size : Nat) (u : Nat) : UnitRes Cmd :=
  let b := wrapT 27 (wval c.x + size * u)
  (s.readUnit e c.ssp (wval c.y + size * u) size).next (fun ts s =>
    (s.unitLoc e b Need.peer).next (fun l s =>
      if l.kind = .peer then .ok { c with sent := c.sent ++ [⟨word b, l, ts⟩] } s else .fail .prot b 0 0 s))

/-- A CHAIN element (R329): the flags of its elements gather in word 18 of the command's data. -/
def State.chainUnit (s : State) (e : Env) (c : Cmd) (u : Nat) : UnitRes Cmd :=
  let d := c.data
  let z := chainSize (recType d)
  let sp (i : Nat) : Bool := trit (recW d 3) i == 1
  let usesB := ((chainOps ((d.drop 4).take 8)).getD []).any (fun w => opSrc w == 1)
  (s.readUnit e (sp 2) (recW d 0 + z * u) z).next (fun ta s =>
    (if usesB then s.readUnit e (sp 3) (recW d 1 + z * u) z else .ok [] s).next (fun tb s =>
      let r := chainElem d (trytesVal ta) (trytesVal tb)
      let a := recW d 2 + z * u
      (s.writeUnit e (sp 4) a (valTrytes z r.1) (u + 1 == (wval c.z).toNat)).next (fun _ s =>
        let fx := word (Fx.union ⟨trit (recW d 18) 0 == 1, trit (recW d 18) 1 == 1, trit (recW d 18) 2 == 1,
          trit (recW d 18) 3 == 1, trit (recW d 18) 4 == 1, trit (recW d 18) 5 == 1⟩ r.2).toInt
        let last := u + 1 == (wval c.z).toNat || ((blockWord e.g e.ref.blk a).map (fun q => (q.2.2 + z) % 3 == 0)).getD false
        let c := { c with data := d.take 18 ++ [fx] }
        .ok (if sp 4 && last then c.wrote (areaWords e.g e.ref.blk a z) else c) s)))

/-- Unit u of a command. -/
def State.cmdUnit (s : State) (e : Env) (c : Cmd) (u : Nat) : UnitRes Cmd :=
  let size := (unitSize c.line).toNat
  match c.kind with
  | .cpy => s.copyUnit e c size c.ssp (wval c.y + size * u) c.dsp (wval c.x + size * u)
  | .gath =>
    let a := wval (c.data.getD u 0)
    (elemCheck s c.ssp size a).next (fun _ s => s.copyUnit e c size c.ssp a c.dsp (wval c.x + size * u))
  | .scat =>
    let a := wval (c.data.getD u 0)
    (elemCheck s c.dsp size a).next (fun _ s => s.copyUnit e c size c.ssp (wval c.y + size * u) c.dsp a)
  | .peer => s.peerUnit e c size u
  | .chain => s.chainUnit e c u
  | .coll => .wait [] s

/-- Perform units in ascending order until one stops. -/
def runUnits (e : Env) : Nat → State → Cmd → State × Cmd × CmdEnd
  | 0, s, c => (s, c, .done)
  | n + 1, s, c =>
    match s.cmdUnit e c c.done_ with
    | .ok c' t => runUnits e n t { c' with done_ := c.done_ + 1 }
    | .wait ls t => (t, c, .wait ls)
    | .fault va k level t => (t, c, .fault va k level)
    | .fail cause info kind line t => (t, c, .fail cause info kind line)

/-- The effects of completion beyond the units: CHAIN's FLAGS, PEER's count (R327, R328). -/
def State.finishCmd (s : State) (e : Env) (k : Nat) (c : Cmd) : State :=
  match c.kind with
  | .chain =>
    let w := ((wval c.x) / 3).toNat + 17
    (s.scrSet e.ref e.ref.blk w (c.data.getD 18 0, .pos)).endCmd e.ref k c
  | .peer => (s.modRow e.ref (fun r => { r with peers := r.peers ++ [⟨c.sent, c.stamp⟩] })).endCmd e.ref k c
  | _ => s.endCmd e.ref k c

/-- A command of the copy engines: every one but COLL. -/
def Cmd.copies (c : Cmd) : Bool := c.kind != .coll
/-- The die's copy engines have an older started command to serve first: one accepted earlier that no fault holds (R323;
log 107). -/
def State.olderCopy (s : State) (e : Env) (c : Cmd) : Bool :=
  c.copies && s.allRows.any (fun q => q.2.2.1.core / 80 == e.core / 80 && !q.2.1.absent && (List.range 9).any (fun k =>
    match q.2.2.2.headCmd k with
    | some d => d.copies && d.started && d.held.isNone && !d.spill && decide (d.stamp < c.stamp)
    | none => false))

/-- COMMAND_COMPLETE (R324, R326 to R329): a started command's remaining units. -/
def execCommandComplete (r : RowRef) (slot : Nat) (s : State) : Host.Outcome State Fault Refusal :=
  match s.env? r, s.row? r with
  | some e, some row =>
    match row.headCmd slot with
    | none => .next s
    | some c =>
      if !c.started || c.held.isSome || c.spill || c.kind == .coll || e.g.absent || s.olderCopy e c then .next s
      else
        let y := runUnits e ((wval c.z).toNat - c.done_) s c
        .next (match y.2.2 with
          | .done => y.1.finishCmd e slot y.2.1
          | .wait ls => (y.1.putCmd r slot y.2.1).await (.event (.commandComplete r slot)) 0 ls
          | .fault va k level => y.1.holdCmd e slot y.2.1 va k level
          | .fail cause info kind line => y.1.failCmd r slot y.2.1 cause info kind line)
  | _, _ => .next s

/-! ### Start (R323) -/

/-- Every store, atomic and reduction that the row issued before a command has completed, a scratch release that waits
among them, every FENCE before it has ended, and every acquire before it is complete (R323, 19 R349, R353). -/
def State.earlierDone (s : State) (e : Env) (r : Row) (stamp : Nat) : Bool :=
  !(r.fifo.any (fun o => o.kind != .mark && decide (o.stamp < stamp))) && !r.scrOpen stamp &&
    !(r.parks.any (fun o => o.kind == .we && decide (o.since < stamp))) &&
    !(r.loads.any (fun o => o.acq != 0 && decide (o.stamp < stamp))) &&
    !((s.core e.core).order.any (fun o => o.kind != .mark && o.who == e.ref && decide (o.stamp < stamp))) &&
    !(s.pushes.any (fun p => match p.src with | some q => q.1 == e.ref && decide (q.2.2 < stamp) | none => false))

/-- The area of the row's own scratch that a command reads at its start: its list or record, with its words. -/
def Cmd.startArea (c : Cmd) : Int × Nat :=
  match c.kind with
  | .gath => (wval c.y, (wval c.z).toNat)
  | .scat => (wval c.x, (wval c.z).toNat)
  | .chain => (wval c.x, 18)
  | _ => (0, 0)
/-- The address reported for a word of that area that no code repairs (R337): a list word's own (log 34), or its record's. -/
def State.startBad (s : State) (e : Env) (c : Cmd) : Option Int :=
  let a := c.startArea
  ((List.range a.2).find? (fun i => (s.blk e.ref e.ref.blk).bad.contains ((a.1 / 3).toNat + i))).map
    (fun i => if c.kind = .chain then a.1 else a.1 + 3 * (i : Int))
/-- The state that the start of a command leaves, other than for COLL: its list or record is read, and a SCAT's targets
become pending. -/
def State.startCmd (s : State) (e : Env) (k : Nat) (c : Cmd) : State :=
  let n := (wval c.z).toNat
  match s.startBad e c with
  | some a => s.failCmd e.ref k c .data a 0 0
  | none =>
  match c.kind with
  | .gath => s.putCmd e.ref k { c with started := true, data := s.ownWords e.ref (wval c.y) n }
  | .scat =>
    let l := s.ownWords e.ref (wval c.x) n
    let size := (unitSize c.line).toNat
    let good := l.filter (fun w => scrAlign (wval w) % (size : Int) == 0)
    let ws := if c.dsp then good.flatMap (fun w => areaWords e.g e.ref.blk (wval w) size) else []
    (s.setPending e.ref ws).putCmd e.ref k { c with started := true, data := l, pend := ws }
  | .chain =>
    let d := s.ownWords e.ref (wval c.x) 18
    if recordOk d then s.putCmd e.ref k { c with started := true, data := d ++ [0] }
    else s.failCmd e.ref k c .illmod (wval c.x) 0 0
  | _ => s.putCmd e.ref k { c with started := true }

/-! ### Collective instances (R330 to R332) -/

/-- The scope of a COLL (Table 18.6), as the scopes of 19. -/
def collScope (ctl : Int) : Int := field ctl 2 2 + 1
def collKind (ctl : Int) : Int := field ctl 0 2

/-- The physical line of an instance's descriptor as the tables now place it: a page that moves takes the instance with it
(12 R231). -/
def State.instLine (s : State) (x : CollInst) : Loc :=
  match s.xlatTables x.fld (wval x.va) Need.load with
  | .ok l _ _ => lineOf l
  | _ => x.line

/-- An arrival at a descriptor (R331), with the source and destination it names for the participant. -/
def State.collArrive (s : State) (e : Env) (k : Nat) (c : Cmd) (line : Loc) (d : List Word) (src dst : Int) : State :=
  let va := wval c.x
  let i := wval c.y
  let a : CollArrival := ⟨e.ref, i.toNat, src, dst⟩
  let go (s : State) : State := s.putCmd e.ref k { c with started := true }
  match s.colls.find? (fun x => s.instLine x == line) with
  | none =>
    go { s with colls := s.colls ++ [⟨line, c.x, e.fld, collKind c.ctl, collScope c.ctl, e.core, d, [a]⟩] }
  | some x =>
    if x.arrived.any (fun q => q.idx == i.toNat) then s
    else if x.kind ≠ collKind c.ctl ∨ x.scope ≠ collScope c.ctl ∨ x.scope < narrowScope x.home e.core ∨ i ≥ recW x.desc 0 then
      s.failCmd e.ref k c .prot va 0 0
    else go { s with colls := s.colls.map (fun y =>
      if s.instLine y = line then { y with arrived := y.arrived ++ [a] } else y) }

/-- The alignment that the elements of a collective need (00 R4): a word's for words and X81 cells. -/
def collAlign (d : List Word) : Int := if collSize (collType d) = 1 then 1 else 3

/-- A COLL reads its descriptor and its participant's entry, which are checked, and arrives (R330). -/
def State.startColl (s : State) (e : Env) (k : Nat) (c : Cmd) : State :=
  let va := wval c.x
  let stop {α : Type} (r : UnitRes α) (f : α → State → State) : State :=
    match r with
    | .wait ls t => t.await (.event (.commandStart e.ref k)) 0 ls
    | .fault a kind level t => t.holdCmd e k c a kind level
    | .fail cause info kind line t => t.failCmd e.ref k c cause info kind line
    | .ok x t => f x t
  stop (s.unitLoad e va 27) (fun ts t =>
    let d := lineWords ts
    let i := wval c.y
    if !collOk (collKind c.ctl) d then t.failCmd e.ref k c .illmod va 0 0
    else if i ≥ recW d 0 then t.failCmd e.ref k c .prot va 0 0
    else
      stop (State.readPieces e (pieces (va + 27 + 6 * i) 6) [] t) (fun xs t =>
        let src := trytesVal (xs.take 3)
        let dst := trytesVal (xs.drop 3)
        match [src, dst].find? (fun a => a % collAlign d != 0) with
        | some a => t.failCmd e.ref k c .align a 0 0
        | none => stop (t.unitLoc e va { Need.load with len := 27 }) (fun l t => t.collArrive e k c (lineOf l) d src dst)))

/-- COMMAND_START (R323). -/
def execCommandStart (r : RowRef) (slot : Nat) (s : State) : Host.Outcome State Fault Refusal :=
  match s.env? r, s.row? r with
  | some e, some row =>
    match row.headCmd slot with
    | none => .next s
    | some c =>
      if c.started || c.held.isSome || c.spill || !(e.g.status == .resident || e.g.status == .retiring) ||
        !s.earlierDone e row c.stamp then .next s
      else .next (if c.kind = .coll then s.startColl e slot c else s.startCmd e slot c)
  | _, _ => .next s

/-- JOIN_COMPLETE (R333): a join is first in every slot that holds it. -/
def execJoinComplete (r : RowRef) (slot : Nat) (s : State) : Host.Outcome State Fault Refusal :=
  match s.row? r with
  | none => .next s
  | some row =>
    match (row.slot slot).entries with
    | .join i :: _ =>
      let has (x : EngSlot) : Bool := x.entries.contains (.join i)
      let first (x : EngSlot) : Bool := x.entries.head? == some (.join i)
      if row.slots.all (fun x => !has x || first x) then
        .next (s.modRow r (fun x => { x with slots := x.slots.map (fun y =>
          if first y then { y with entries := y.entries.drop 1 } else y) }))
      else .next s
    | _ => .next s

/-- Fail every participant of an instance, and end it (log 34). -/
def State.failInstance (s : State) (x : CollInst) (cause : Cause) (info kind : Int) (line : Nat) : State :=
  let s := x.arrived.foldl (fun s q =>
    match (s.row? q.who).bind (fun r => r.headCmd 7) with
    | some c => s.failCmd q.who 7 c cause info kind line
    | none => s) s
  { s with colls := dropFirst (· == x) s.colls }

/-- The participant whose unit stopped the instance: on the fault path it joins its die's wait table. -/
def State.holdInstance (s : State) (e : Env) (va : Int) (k : FaultKind) (level : Nat) : State :=
  match (s.row? e.ref).bind (fun r => r.headCmd 7) with
  | some c => s.holdCmd e 7 c va k level
  | none => s

/-- A step over the participants in index order, threading an accumulator; the environment of one that stops is kept. -/
inductive CollRes (α : Type) where
  | ok (x : α) (s : State)
  | stop (s : State)

/-- Turn a participant's outcome into the instance's. -/
def collStep {α : Type} (x : CollInst) (e : Env) (r : UnitRes α) : CollRes α :=
  match r with
  | .ok a s => .ok a s
  | .wait ls s => .stop (s.await (.event (.collInstanceComplete 0)) x.line.a ls)
  | .fault va k level s => .stop (s.holdInstance e va k level)
  | .fail cause info kind line s => .stop (s.failInstance x cause info kind line)

/-- The participants by ascending index: each with its environment and the source and destination it arrived with. -/
def State.members (s : State) (x : CollInst) (p : Nat) : List (Env × Int × Int) :=
  (List.range p).filterMap (fun i =>
    (x.arrived.find? (fun q => q.idx == i)).bind (fun q => (s.env? q.who).map (fun e => (e, q.src, q.dst))))

/-- Read every source. -/
def collReads (x : CollInst) (n : Nat) : List (Env × Int × Int) → State → CollRes (List (List Tryte))
  | [], s => .ok [] s
  | (e, a, _) :: r, s =>
    match collStep x e (State.readPieces e (pieces a n) [] s) with
    | .stop t => .stop t
    | .ok ts t =>
      match collReads x n r t with
      | .stop u => .stop u
      | .ok l u => .ok (ts :: l) u
/-- Check every destination. -/
def collChecks (x : CollInst) (n : Nat) : List (Env × Int × Int) → State → CollRes Unit
  | [], s => .ok () s
  | (e, _, b) :: r, s =>
    match collStep x e (State.checkPieces e (pieces b n) s) with
    | .stop t => .stop t
    | .ok _ t => collChecks x n r t
/-- Write every destination. -/
def collWrites (x : CollInst) (out : List Tryte) : List (Env × Int × Int) → State → CollRes Unit
  | [], s => .ok () s
  | (e, _, b) :: r, s =>
    match collStep x e (State.writePieces e (pieces b out.length) out s) with
    | .stop t => .stop t
    | .ok _ t => collWrites x out r t

/-- What every destination receives, with the flags raised (R331). -/
def collOut (kind : Int) (d : List Word) (srcs : List (List Tryte)) : List Tryte × Fx :=
  let z := collSize (collType d)
  let n := (recW d 1).toNat
  if kind = 2 then (srcs.getD (recW d 3).toNat [], Fx.clear)
  else if kind = 3 then (srcs.flatten, Fx.clear)
  else (List.range n).foldl (fun (a : List Tryte × Fx) e =>
    let r := collTotal d (srcs.map (fun ts => trytesVal ((ts.drop (z * e)).take z)))
    (a.1 ++ valTrytes z r.1, a.2.union r.2)) ([], Fx.clear)

/-- STAT and DONE are written in the descriptor's present line, the participants' commands complete, and their later loads see every destination (R330,
R332). -/
def State.endInstance (s : State) (x : CollInst) (first : Env) (line : Loc) (fx : Fx) : State :=
  let s := s.flushLine line
  let done := wval (s.wordAt (locAt line 18))
  let s := (s.flight x.scope).unitApply first (wval x.va + 15) (locAt line 15) (valTrytes 3 fx.toInt)
  let s := s.unitApply first (wval x.va + 18) (locAt line 18) (valTrytes 3 (wrapT 27 (done + 1)))
  let s := x.arrived.foldl (fun s q =>
    match s.env? q.who, (s.row? q.who).bind (fun r => r.headCmd 7) with
    | some e, some c => (s.endCmd q.who 7 c).doAcquire e.core x.scope
    | _, _ => s) s
  { s with colls := dropFirst (· == x) s.colls }

/-- The instance's work, once every participant has arrived: sources are read, destinations checked, then written. -/
def State.runInstance (s : State) (x : CollInst) (first : Env) : State :=
  let d := x.desc
  let z := collSize (collType d)
  let n := (recW d 1).toNat
  let total := if x.kind = 3 then (recW d 0).toNat * n * z else n * z
  let as := s.members x (recW d 0).toNat
  match collReads x (n * z) as s with
  | .stop u => u
  | .ok srcs u =>
    match collChecks x total as u with
    | .stop v => v
    | .ok _ v =>
      match collStep x first (v.unitTarget first (wrapT 27 (wval x.va + 15)) 6) with
      | .stop w => w
      | .ok l w =>
        let out := collOut x.kind d srcs
        match collWrites x out.1 as w with
        | .stop y => y
        | .ok _ y => y.endInstance x first (lineOf l) out.2

/-- A participant's command is held on the fault path. -/
def State.instanceHeld (s : State) (x : CollInst) : Bool :=
  x.arrived.any (fun q => match (s.row? q.who).bind (fun r => r.headCmd 7) with
    | some c => c.held.isSome || c.spill
    | none => false)

/-- COLL_INSTANCE_COMPLETE (R331): the last participant has arrived. -/
def execCollInstanceComplete (k : Nat) (s : State) : Host.Outcome State Fault Refusal :=
  match s.colls[k]? with
  | none => .next s
  | some x =>
    match (x.arrived.head?).bind (fun q => s.env? q.who) with
    | none => .next { s with colls := dropFirst (· == x) s.colls }
    | some first =>
      if s.instanceHeld x || (x.arrived.length : Int) < recW x.desc 0 then .next s
      else .next (s.runInstance x first)

/-! ### FENCE.T (16 R289) -/

/-- The virtual lines a range covers. -/
def linesOver (a : Int) (n : Nat) : List Int := (pieces a n).map (fun p => lineVa p.1)
/-- A word of a field as memory holds it now; 0 where no leaf maps it. -/
def State.peekWord (s : State) (fld : Nat) (va : Int) : Int :=
  match s.xlatTables fld (wrapT 27 va) Need.load with
  | .ok l _ _ => wval (s.wordAt l)
  | _ => 0
/-- The virtual lines a COLL writes: its own destination, as the descriptor and its entry stand, and the descriptor's STAT and
DONE (18 R330, R331). -/
def State.collLines (s : State) (fld : Nat) (c : Cmd) : List Int :=
  let va := wval c.x
  let d := (List.range 9).map (fun i => word (s.peekWord fld (va + 3 * (i : Int))))
  let n := (if collKind c.ctl = 3 then (recW d 0).toNat else 1) * (recW d 1).toNat * collSize (collType d)
  lineVa va :: linesOver (s.peekWord fld (va + 30 + 6 * wval c.y)) n
/-- The virtual lines an engine command of a row writes: its global destinations (18 R326, R328, R331). -/
def State.cmdLines (s : State) (fld : Nat) (ref : RowRef) (c : Cmd) : List Int :=
  let size := (unitSize c.line).toNat
  let n := (wval c.z).toNat
  match c.kind with
  | .cpy => if c.dsp then [] else linesOver (wval c.x) (n * size)
  | .gath => if c.dsp then [] else linesOver (wval c.x) (n * size)
  | .scat =>
    if c.dsp then []
    else (if c.started then c.data else s.ownWords ref (wval c.x) n).flatMap (fun w => linesOver (wval w) size)
  | .chain =>
    let d := if c.started then c.data else s.ownWords ref (wval c.x) 18
    if trit (recW d 3) 4 == 1 then [] else linesOver (recW d 2) (n * chainSize (recType d))
  | .coll =>
    if c.started then
      s.colls.flatMap (fun x => x.arrived.flatMap (fun q =>
        if q.who == ref then
          lineVa (wval x.va) ::
            linesOver q.dst ((if x.kind = 3 then (recW x.desc 0).toNat else 1) * (recW x.desc 1).toNat * collSize (collType x.desc))
        else []))
    else s.collLines fld c
  | .peer => []

/-- A write of a row to one of some lines, which are the virtual lines `vas` of its field, is not complete: in its FIFO, in its
core's order, or pushed and not yet applied, or to be made by an engine command that has not completed (18 R324). -/
def State.writesOpen (s : State) (core fld : Nat) (r : Row) (ref : RowRef) (ls : List Loc) (vas : List Int) : Bool :=
  let hits (o : MemOp) : Bool := o.isWrite && o.lines.any (fun l => ls.contains l)
  r.fifo.any hits || (s.core core).order.any (fun o => o.who == ref && hits o) ||
    s.pushes.any (fun p => ls.contains p.line) || r.slots.any (fun x => x.entries.any (fun e => match e with
      | .cmd m => (s.cmdLines fld ref m).any (fun a => vas.contains a || ((s.lineLoc fld a).map ls.contains).getD false)
      | .join _ => false))

/-- FENCE.T (R289). -/
def execFenceT (f : FF) (s : State) : Host.Outcome State Fault Refusal :=
  tileRow s f false false (f.ctl == 0) (fun c => do
    let h := rdRow c f.y
    staleCheck s c h
    let ls := s.tileFoot c.fld (word h)
    if s.writesOpen c.core c.fld c.r c.ref ls (s.tileVas c.fld (word h)) then .ok (s.hold c 14)
    else
      let kind : Int := ((c.b.tenure? (word h)).map (·.kind)).getD 0
      let t := if kind = 1 ∨ kind = 2 then s else s.dropCopies c.core ls
      .ok (t.finish c c.r))

/-! ### Peer deliveries (R327) -/

/-- A row's oldest undelivered PEER without its oldest unit: with none left it is undelivered no more. -/
def Row.deliver (r : Row) : Row :=
  match r.peers with
  | [] => r
  | p :: rest => { r with peers := if p.units.length ≤ 1 then rest else { p with units := p.units.drop 1 } :: rest }

/-- PEER_DELIVERED (R327): the oldest unit of a row's oldest undelivered PEER is applied at its peer's home, or fails there:
then it is absent, the failure is logged, and the grid retires with an error (26 R444). -/
def execPeerDelivered (r : RowRef) (ok : Bool) (s : State) : Host.Outcome State Fault Refusal :=
  match s.row? r with
  | none => .next s
  | some row =>
    match row.peers with
    | [] => .next s
    | p :: _ =>
      let t := s.modRow r Row.deliver
      match p.units with
      | [] => .next t
      | u :: _ =>
        if ok then
          let ws := u.data.zipIdx.map (fun q => (u.loc.a - (lineOf u.loc).a + q.2, q.1))
          .next ((t.homeWrite (lineOf u.loc) ws false none).copiesUpdate (s.coreOf r) (lineOf u.loc) ws)
        else
          let grid := ((s.gang? r.gid).map (·.grid)).getD 0
          .next ((t.modGrid grid (fun g => { g with reason := if g.reason = 0 then 14 else g.reason })).logRow 14 r 0 0
            ((u.loc.a / 27 : Nat) : Int))

end Sys2Proof.Machine
end

