-- ==== Sys2Proof/Machine/Convert.lean ====
section
/-!
DEFINITION. Class +7: conversions (02 R35 to R41, 06 R108, 09 R168, R169).
-/
namespace Sys2Proof.Machine

/-- The kinds of 06 Table 6.10. -/
inductive CvtKind where
  | t27 | fl (k : FKind) | x81 | bin (expBits fracBits : Nat)
deriving DecidableEq, Repr

/-- The source kind of a CVT function. -/
def cvtSrc (fn : Int) : Option CvtKind :=
  if fn = 1 then some .t27 else if fn = 2 then some (.fl .f27) else if fn = 3 then some (.fl .f9n)
  else if fn = 4 then some (.fl .f9w) else if fn = 5 then some .x81 else if fn = 6 then some (.bin 8 23)
  else if fn = 7 then some (.bin 11 52) else if fn = 8 then some (.bin 5 10) else if fn = 9 then some (.bin 8 7)
  else none
/-- The destination kind of a CVT type. -/
def cvtDst (ty : Int) : CvtKind :=
  if ty = 0 then .t27 else if ty = 3 then .fl .f27 else if ty = 4 then .fl .f9n else if ty = 2 then .fl .f9w
  else if ty = -2 then .x81 else if ty = 1 then .bin 8 23 else if ty = -1 then .bin 11 52
  else if ty = -3 then .bin 5 10 else .bin 8 7

/-- Legal pairs (06 R108). -/
def cvtLegal (a b : CvtKind) : Bool :=
  match a, b with
  | .t27, .fl _ => true
  | .fl _, .t27 => true
  | .fl x, .fl y => x != y
  | .fl .f27, .bin _ _ => true
  | .bin _ _, .fl .f27 => true
  | .fl .f27, .x81 => true
  | .x81, .fl .f27 => true
  | _, _ => false

/-- Words a kind occupies (09 R168). -/
def CvtKind.words : CvtKind → Nat
  | .x81 => 3
  | .bin 11 52 => 2
  | _ => 1

/-- A conversion to T27 (02 R36). -/
def toT27 (k : FKind) (mode x : Int) : Int × Fx :=
  match readFl k x with
  | .nan _ _ => (0, Fx.IV)
  | .inf n => (if n then -(maxT 27) else maxT 27, Fx.IV)
  | .fin m e =>
    let r := roundInt mode m (min e 60)
    if satT r.1 (-(maxT 27)) (maxT 27) = r.1 then (r.1, Fx.cond r.2 Fx.NX)
    else (satT r.1 (-(maxT 27)) (maxT 27), Fx.IV)

/-- A conversion between float formats (02 Table 2.10). -/
def flToFl (a b : FKind) (x : Int) : Int × Fx :=
  match readFl a x with
  | .nan sg _ => (nanWord b, Fx.cond sg Fx.IV)
  | .inf n => (infWord b n, Fx.clear)
  | .fin m e => roundT b m e

/-- A binary pattern to F27 (02 R37, R38). -/
def fromBin (eb fb : Nat) (n : Int) : Int × Fx :=
  if n < 0 ∨ n ≥ 2 ^ (eb + fb + 1) then (nanWord .f27, Fx.IV)
  else
    let v := n.toNat
    let neg := v / 2 ^ (eb + fb) == 1
    let ex := v / 2 ^ fb % 2 ^ eb
    let fr := v % 2 ^ fb
    if ex = 2 ^ eb - 1 then
      (if fr = 0 then (infWord .f27 neg, Fx.clear) else (nanWord .f27, Fx.cond (decide (fr < 2 ^ (fb - 1))) Fx.IV))
    else if ex = 0 ∧ fr = 0 then (zeroWord .f27, Fx.clear)
    else
      let m := if ex = 0 then fr else fr + 2 ^ fb
      let q : Int := (if ex = 0 then 1 else (ex : Int)) - (2 ^ (eb - 1) - 1 : Nat) - fb
      roundRat neg (if 0 ≤ q then m * 2 ^ q.toNat else m) (if 0 ≤ q then 1 else 2 ^ (-q).toNat) 0

/-- num ÷ den rounded to the nearest integer, a tie to the even one (02 R26), and whether inexact. -/
def nearEven (num den : Nat) : Nat × Bool :=
  let q := num / den
  let r := num % den
  (if 2 * r < den then q else if 2 * r > den then q + 1 else if q % 2 = 0 then q else q + 1, r != 0)

/-- num ÷ den × 2^−q as a fraction. -/
def overPow2 (num den : Nat) (q : Int) : Nat × Nat :=
  if 0 ≤ q then (num, den * 2 ^ q.toNat) else (num * 2 ^ (-q).toNat, den)

/-- The greatest q with 2^q ≤ num ÷ den, from the lengths. -/
def floorLog2 (num den : Nat) : Int :=
  let g : Int := (Nat.log2 num : Int) - Nat.log2 den
  let f := overPow2 num den g
  if f.2 ≤ f.1 then g else g - 1

/-- F27 to a binary pattern (02 R39). -/
def toBin (eb fb : Nat) (x : Int) : Int × Fx :=
  let sign (n : Bool) : Int := if n then 2 ^ (eb + fb) else 0
  let infP : Int := ((2 ^ eb - 1) * 2 ^ fb : Nat)
  match readFl .f27 x with
  | .nan sg _ => (infP + (2 ^ (fb - 1) : Nat), Fx.cond sg Fx.IV)
  | .inf n => (sign n + infP, Fx.clear)
  | .fin m e =>
    if m = 0 then (0, Fx.clear)
    else
      let neg := decide (m < 0)
      let num := if 0 ≤ e then m.natAbs * 3 ^ e.toNat else m.natAbs
      let den := if 0 ≤ e then 1 else 3 ^ (-e).toNat
      let bias : Int := (2 ^ (eb - 1) - 1 : Nat)
      let emin := 1 - bias
      let q0 := floorLog2 num den
      let q := if q0 < emin then emin else q0
      let f := overPow2 num den (q - fb)
      let r := nearEven f.1 f.2
      -- a significand of 2^(fb+1) carries into the exponent of itself
      let pat : Int := if q0 < emin then (r.1 : Int) else (q + bias - 1) * (2 ^ fb : Nat) + r.1
      if pat ≥ infP then (sign neg + infP, Fx.OFNX)
      else (sign neg + pat, Fx.cond r.2 (if q0 < emin then Fx.UFNX else Fx.NX))

/-- F27 to X81 with scale k (02 R41). -/
def toX81 (k x : Int) : Int × Fx :=
  match readFl .f27 x with
  | .fin m e =>
    let d := satT (e - k) (-200) 200
    let n := scaleT m d
    (wrapT 81 n, (Fx.cond (decide (d < 0) && lowT m (-d).toNat) Fx.NX).union
      (Fx.cond (decide ((n.natAbs : Int) > maxT 81)) { Fx.clear with of := true }))
  | _ => (0, Fx.IV)

/-- Word j of a multi-word integer (00 R5). -/
def wordOf (n : Int) (j : Nat) : Int := field n (27 * j) 27

/-- The conversion of one source value (several words joined) to the words of the destination (09 R169). -/
def cvtOne (a b : CvtKind) (mode k x : Int) : List Int × Fx :=
  match a, b with
  | .t27, .fl y => let r := roundT y x 0; ([r.1], r.2)
  | .fl y, .t27 => let r := toT27 y mode (if y = .f27 then x else elem x 9 0); ([r.1], r.2)
  | .fl .f27, .fl y => let r := flToFl .f27 y x; ([r.1], r.2)
  | .fl y, .fl .f27 => let r := flToFl y .f27 (elem x 9 0); ([r.1], r.2)
  | .fl y, .fl z => let r := perElem 9 (fun j => flToFl y z (elem x 9 j)); ([r.1], r.2)
  | .bin e f, .fl .f27 => let r := fromBin e f x; ([r.1], r.2)
  | .fl .f27, .bin e f =>
    let r := toBin e f x
    (if e = 11 then [wordOf r.1 0, wordOf r.1 1] else [r.1], r.2)
  | .fl .f27, .x81 => let r := toX81 k x; ([wordOf r.1 0, wordOf r.1 1, wordOf r.1 2], r.2)
  | .x81, .fl .f27 => let r := roundT .f27 x (satT k (-3000) 3000); ([r.1], r.2)
  | _, _ => ([0], Fx.clear)

/-- MODH negation of CVT's source (09 R168). -/
def cvtNeg (a : CvtKind) (x : Int) : Int :=
  match a with
  | .fl .f27 => negFl .f27 x
  | .fl y => (perElem 9 (fun j => (negFl y (elem x 9 j), Fx.clear))).1
  | _ => x

/-- The field b of CVT holds its use: a mode, a register for .x81, else 0 (06 R108). -/
def cvtB (a b : CvtKind) (f : FA) : Bool :=
  if a = .x81 ∨ b = .x81 then true else if b = .t27 then modeOk f.b else f.b == 0

/-- A register group names no special (09 R168). -/
def groupOk (c : Ctx) (f : Int) (n : Nat) : Bool := n ≤ 1 || c.gen0 || isVec f || isSca f

/-- The value of a group of successive registers, least significant first (00 R5). -/
def rdGroup (c : Ctx) (f : Int) (n p : Nat) : Int :=
  (List.range n).foldl (fun acc j => acc + rd c (succReg c.gen0 f j) p * 3 ^ (27 * j)) 0

/-- CVT (R168, R169). -/
def execCvt (fn : Int) (f : FA) (s : State) : Host.Outcome State Fault Refusal :=
  withRow s (fun c =>
    let a := (cvtSrc fn).getD .t27
    let b := cvtDst f.ty
    let us := src f.a
    let x81 := decide (a = .x81 ∨ b = .x81)
    let legal := (cvtSrc fn).isSome && cvtLegal a b
    let na := match a with | .fl _ => true | _ => false
    alu s c ⟨f.dst, if legal then b.words else 1,
        { us with n := if legal then a.words else 1 } :: (if legal && x81 then [src f.b] else []), f.pred,
        predOk f.pred && legal && cvtB a b f && groupOk c f.a a.words && groupOk c f.dst b.words, { na := na }⟩
      (fun p =>
        let x := rdGroup c f.a a.words p
        cvtOne a b f.b (rd c f.b p) (if c.mod.na = 1 then cvtNeg a x else x)))

end Sys2Proof.Machine
end

