-- ==== Sys2Proof/Machine/Matrix.lean ====
section
/-!
DEFINITION. Class −6: matrix passes, runs and their arbiter (17 R294 to R308), quantisation (R309 to R314) and
escalation (R315 to R318).
-/
namespace Sys2Proof.Machine

/-! ### Operand words -/

def opDA (w : Word) : Int := field (wval w) 0 8
def opAA (w : Word) : Int := field (wval w) 8 8
def opPB (w : Word) : Int := field (wval w) 22 3
def mxReuse (ctl : Int) : Bool := trit ctl 2 == 1
def mxHalf (ctl : Int) : Bool := trit ctl 3 == 1
def scaleA (w : Word) : Int := field (wval w) 0 13
def scaleB (w : Word) : Int := field (wval w) 13 13
/-- Forms: 0 .t9t9, 1 .t9t1, −1 .t9t2, 3 .f9n, 2 .f9w, 4 .f27. -/
def formOk (f : Int) : Bool := decide (-1 ≤ f ∧ f ≤ 4)
def formInt (f : Int) : Bool := decide (-1 ≤ f ∧ f ≤ 1)
/-- A ctl that Table 17.3 does not reserve; `scaled` for MMAS. -/
def mmaCtlOk (scaled : Bool) (ctl : Int) : Bool :=
  formOk (mxForm ctl) && (!scaled || formInt (mxForm ctl)) && (trit ctl 2 == 0 || trit ctl 2 == 1) &&
    (trit ctl 3 == 0 || trit ctl 3 == 1)
/-- K that a form allows (Table 17.4). -/
def kOk (form k : Int) : Bool :=
  if form = 4 then k == 27
  else decide (27 ≤ k ∧ k ≤ (if form = 1 ∨ form = -1 then 243 else 81)) && k % 27 == 0
/-- Columns of a pass. -/
def mxCols (ctl : Int) : Nat := if mxHalf ctl then 27 else 54
/-- Trytes of one core's panel (Table 17.5). -/
def panelTrytes (form k : Int) : Int :=
  if form = 1 then 3 * k else if form = -1 then 6 * k else if form = 4 then 81 * k else 27 * k
/-- The D group's register fields. -/
def dFields (gen0 : Bool) (ctl : Int) (opw : Word) : List Int := (List.range (mxCols ctl)).map (groupField gen0 (opDA opw))

/-- A group of n registers lies in the row's registers (17 Table 17.6; in generation 0 up to p242). -/
def groupFits (c : Ctx) (first : Int) (n : Nat) : Bool :=
  decide (first + n ≤ (if c.gen0 then 243 else (c.g.lrec.vreg : Int)))
/-- The value of register n of a group for a thread. -/
def groupVal (gen0 : Bool) (w : Nat) (r : Row) (first : Int) (n p : Nat) : Word :=
  if gen0 then r.preg w (first.toNat + n) p else r.vreg w (first.toNat + n) p
/-- The values of a group, thread by thread. -/
def groupVals (gen0 : Bool) (r : Row) (first : Int) (n : Nat) : List Word :=
  (List.range 27).flatMap (fun i => (List.range n).map (fun k => groupVal gen0 27 r first k i))
/-- Write register n of a group for a thread. -/
def putGroup (gen0 : Bool) (r : Row) (first : Int) (n p : Nat) (v : Int) : Row :=
  if gen0 then r.setP 27 (first.toNat + n) p (word v) else r.setV 27 (first.toNat + n) p (word v)

/-! ### Scratch as panels -/

/-- The tryte at a scratch address of a block. -/
def Block.tryteAt (b : Block) (a : Int) : Int := elem (wval (b.word (a / 3).toNat).1) 9 (a % 3).toNat
/-- The word at a scratch address of a block. -/
def Block.wordAt (b : Block) (a : Int) : Int := wval (b.word (a / 3).toNat).1
/-- Element j of a pair of words of two-trit values (02 R23). -/
def t2Elem (lo hi : Int) (j : Nat) : Int := field (lo + hi * 3 ^ 27) (2 * j) 2
/-- Element (k, j) of one core's panel, as stored (17 Table 17.5). -/
def panelElem (b : Block) (form a : Int) (k j : Nat) : Int :=
  if form = 1 then trit (b.wordAt (a + 3 * k)) j
  else if form = -1 then t2Elem (b.wordAt (a + 6 * k)) (b.wordAt (a + 6 * k + 3)) j
  else if form = 4 then b.wordAt (a + 81 * k + 3 * j)
  else b.tryteAt (a + 27 * k + j)
/-- An area of n trytes lies inside a block's scratch (17 Table 17.6). -/
def areaOk (c : Ctx) (a n : Int) : Bool := decide (0 ≤ a ∧ a + n ≤ 3 * (c.g.lrec.scr : Int))

/-! ### MXST (17 Table 17.8) -/

/-- Set trits of MXST to +. -/
def mxSet (w : Word) (on : List Bool) : Word :=
  word ((on.zipIdx.foldl (fun a q => if q.1 && trit (wval w) q.2 != 1 then a + 3 ^ q.2 else a) (wval w)))
/-- The conditions of fx in MXST's places. -/
def mxFx (x : Fx) : List Bool := [x.iv, x.of, x.uf, x.nx]
def Row.mxRaise (r : Row) (on : List Bool) : Row := { r with mxst := mxSet r.mxst on }

/-! ### Posting (R302, R304, R307) -/

/-- The row's open run. -/
def Row.openRun (r : Row) : Option Run := r.runs.find? (·.open_)

/-- The entries of a quad's reservation table, by row: those of a halting gang that are not granted are withdrawn, and a saved
gang has none (R304, R319). -/
def State.tablePasses (s : State) (q : Nat) : List ((RowRef × Gang × Block × Row) × Pass) :=
  (s.allRows.filter (fun x => x.2.2.1.core / 4 == q && !x.2.1.absent)).flatMap
    (fun x => (x.2.2.2.passes.filter (fun p => p.granted || x.2.1.status != .halting)).map (fun p => (x, p)))
/-- Passes in a quad's reservation table. -/
def State.quadPasses (s : State) (q : Nat) : Nat := (s.tablePasses q).length

/-- ILLMOD with the failing word (R302). -/
def Trap.illmodAt (x : Int) : Trap := ⟨.illmod, some x, none⟩
/-- ILLOP with the failing word (R302). -/
def Trap.illopAt (x : Int) : Trap := ⟨.illop, some x, none⟩

/-- The checks of Table 17.6, in its order. -/
def mmaChecks (c : Ctx) (scaled : Bool) (ctl opw panel scale : Int) : Except Trap Unit := do
  let w := word opw
  let form := mxForm ctl
  let k := opK w
  let half := mxHalf ctl
  let run := c.r.openRun
  need (c.w == 27) Trap.illmod
  need (decide (0 ≤ opDA w) && (run.isSome || decide (0 ≤ opAA w)) && kOk form k &&
    (if half then opPB w == 0 else decide (0 ≤ opPB w ∧ opPB w < (c.g.lrec.blks : Int))) && field opw 25 2 == 0)
    (Trap.illmodAt opw)
  need (!scaled || trit scale 26 == 0) (Trap.illmodAt scale)
  need (groupFits c (opDA w) (mxCols ctl) && (run.isSome || groupFits c (opAA w) (aRegs form k))) (Trap.illopAt opw)
  let ds := dFields c.gen0 ctl w
  let own := match run with
    | some r => aFields r.gen0 r.form r.k r.aa
    | none => aFields c.gen0 form k (opAA w)
  need (ds.all (fun f => !own.contains f) && (match run with | some r => r.form == form && r.k == k | none => true))
    (Trap.illmodAt opw)
  lockCheck c ds
  need (half || (c.g.block? (opPB w).toNat).isSome) (Trap.prot opw)
  let sa := scaleA (word scale)
  let sb := scaleB (word scale)
  need (panel % 27 == 0) (Trap.align panel)
  need (!scaled || sa % 27 == 0) (Trap.align sa)
  need (!scaled || sb % 27 == 0) (Trap.align sb)
  need (areaOk c panel (panelTrytes form k)) (Trap.prot panel)
  need (!scaled || areaOk c sa k) (Trap.prot sa)
  need (!scaled || areaOk c sb k) (Trap.prot sb)

/-- The run a pass joins, and the row's runs with it (R307): a pass opens one, continues the open one or closes it. -/
def joinRun (c : Ctx) (stamp cyc : Nat) (ctl : Int) (opw : Word) : Option Run × Bool × List Run :=
  match c.r.openRun with
  | some r =>
    if mxReuse ctl then (some r, false, c.r.runs)
    else (some r, true, c.r.runs.map (fun x => if x.id = r.id then { x with open_ := false } else x))
  | none =>
    if mxReuse ctl then
      let r : Run := ⟨stamp, mxForm ctl, opK opw, opAA opw, c.gen0, true, none, [], cyc⟩
      (some r, false, c.r.runs ++ [r])
    else (none, false, c.r.runs)

/-- MMA and MMAS. -/
def postPass (s : State) (f : FF) (scaled : Bool) : Host.Outcome State Fault Refusal :=
  withRow s (fun c => do
    let fs := [f.x, f.y] ++ (if scaled then [f.z] else [])
    gate c false (fs.map src) (f.slot == 0 && (scaled || f.z == 0) && mmaCtlOk scaled f.ctl && rowSrcs c fs) { p := true }
    if usesBusy c (fs.map src) then .ok (s.hold c 11)
    else if flagWait c c.mod.pred c.e.fb then .ok (s.hold c 2 c.e.fb)
    else
      need (uniform c fs) (Trap.nonUniform c)
      let acts ← rowActs c c.mod.pred
      if !acts then .ok (s.finish c c.r)
      else
        let opw := rdRow c f.x
        let panel := rdRow c f.y
        let scale := if scaled then rdRow c f.z else 0
        mmaChecks c scaled f.ctl opw panel scale
        let ds := dFields c.gen0 f.ctl (word opw)
        let as := if c.r.openRun.isSome then [] else aFields c.gen0 (mxForm f.ctl) (opK (word opw)) (opAA (word opw))
        if ds.any (fun x => c.r.busy.contains x || c.r.unread.contains x) || as.any (fun x => c.r.busy.contains x) then
          .ok (s.hold c 11)
        else if 27 ≤ s.quadPasses (c.core / 4) then .ok (s.hold c 6)
        else
          let cyc := (s.die c.die).cyc
          let j := joinRun c s.steps cyc f.ctl (word opw)
          let p : Pass := ⟨scaled, f.ctl, word opw, word panel, word scale, c.e.fb,
            (j.1.map (·.aa)).getD (opAA (word opw)), (s.steps, 0), cyc, false, [], j.1.map (·.id), j.2.1, c.gen0⟩
          .ok (s.finish c (({ c.r with passes := c.r.passes ++ [p], runs := j.2.2 }.owe ds).flagUp c.e.fb)))

/-- MMA (R299, R300). -/
def execMma (f : FF) (s : State) : Host.Outcome State Fault Refusal := postPass s f false
/-- MMAS (R301). -/
def execMmas (f : FF) (s : State) : Host.Outcome State Fault Refusal := postPass s f true

/-- MXREL (R308). -/
def execMxrel (f : FF) (s : State) : Host.Outcome State Fault Refusal :=
  withRow s (fun c => do
    gate c false [] (f.x == 0 && f.y == 0 && f.z == 0 && f.slot == 0 && f.ctl == 0) { p := true }
    let acts ← rowActs c c.mod.pred
    .ok (s.finish c (if acts then { c.r with runs := c.r.runs.filter (fun x => !x.open_) } else c.r)))

/-! ### Arbitration (R305, R307) -/

/-- The other core of a core's pair. -/
def follower (core : Nat) : Nat := if core % 2 = 0 then core + 1 else core - 1
/-- The arrays a pass needs. -/
def State.arrays (s : State) (core : Nat) (p : Pass) : List Nat :=
  core :: (if mxHalf p.ctl || !s.coreUse (follower core) then [] else [follower core])

/-- An entry of a quad: its row, core, priority, the row itself, the pass. -/
structure MxEntry where
  ref : RowRef
  core : Nat
  prio : Int
  row : Row
  pass : Pass
deriving DecidableEq, Repr

/-- The entries of a quad, as its arbiter sees them. -/
def State.mxEntries (s : State) (q : Nat) : List MxEntry :=
  (s.tablePasses q).map (fun y => ⟨y.1.1, y.1.2.2.1.core, y.1.2.1.lrec.prio, y.1.2.2.2, y.2⟩)
/-- The arrays on which passes run. -/
def State.runningArrays (s : State) (es : List MxEntry) : List Nat :=
  (es.filter (fun e => e.pass.granted)).flatMap (fun e => s.arrays e.core e.pass)
/-- An array is free for an entry: it runs no pass and no other row's run holds it. -/
def State.arrayFree (s : State) (es : List MxEntry) (e : MxEntry) (a : Nat) : Bool :=
  !(s.runningArrays es).contains a &&
    !(s.allRows.any (fun x => x.1 != e.ref && x.2.2.2.runs.any (fun r => r.holds.contains a)))
/-- The panels and scale tiles a pass reads, in its own block and its partner's. -/
def Pass.areas (own : Nat) (p : Pass) : List (Nat × Int × Int) :=
  let k := opK p.opw
  let panel := (wval p.panel, panelTrytes (mxForm p.ctl) k)
  let sb := (scaleB p.scale, k)
  [(own, panel)] ++ (if p.scaled then [(own, (scaleA p.scale, k)), (own, sb)] else []) ++
    (if mxHalf p.ctl then [] else ((opPB p.opw).toNat, panel) :: (if p.scaled then [((opPB p.opw).toNat, sb)] else []))
/-- Panels and scales are staged: every earlier QUANT of the row has written, and its scratch stores to them have been applied
(R303). -/
def MxEntry.staged (e : MxEntry) : Bool :=
  !(e.row.quants.any (fun q => decide (q.stamp < e.pass.order.1))) && !e.row.scrPending e.pass.order.1 (e.pass.areas e.ref.blk)
/-- The arrays the entry's own run holds. -/
def MxEntry.held (e : MxEntry) : List Nat :=
  match e.pass.run with
  | none => []
  | some i => ((e.row.runs.find? (fun r => r.id == i)).map (·.holds)).getD []

/-- An earlier posting. -/
def postedBefore (a b : Nat × Nat) : Bool := decide (a.1 < b.1 ∨ (a.1 = b.1 ∧ a.2 < b.2))
/-- e comes before d in the arbiter's order. -/
def mxBefore (cyc : Nat) (e d : MxEntry) : Bool :=
  let old (x : MxEntry) : Bool := decide (x.pass.posted + 729 ≤ cyc)
  if old e && old d then postedBefore e.pass.order d.pass.order
  else if old e != old d then old e
  else if e.prio ≠ d.prio then decide (d.prio < e.prio) else postedBefore e.pass.order d.pass.order
/-- Insert into the arbiter's order. -/
def insMx (cyc : Nat) (e : MxEntry) : List MxEntry → List MxEntry
  | [] => [e]
  | d :: r => if mxBefore cyc e d then e :: d :: r else d :: insMx cyc e r

/-- Grant a pass: it reads its A group, or its run's latch; its run holds the arrays of the
first until it closes or the hold lapses (R303, R307). -/
def State.grantPass (s : State) (e : MxEntry) : State :=
  let p := e.pass
  let group (r : Row) : List Word := groupVals p.gen0 r p.aa (aRegs (mxForm p.ctl) (opK p.opw))
  let arrays := s.arrays e.core p
  let t := s.modRow e.ref (fun r =>
    let run := p.run.bind (fun i => r.runs.find? (fun x => x.id == i))
    let a := (run.bind (·.latch)).getD (group r)
    { r with
      passes := r.passes.map (fun x => if x.order = p.order then { x with granted := true, aVals := a } else x)
      runs := match run with
        | none => r.runs
        | some u =>
          if p.closes then r.runs.filter (fun x => x.id != u.id)
          else r.runs.map (fun x => if x.id = u.id then { x with latch := some a, holds := if x.holds.isEmpty then arrays else x.holds } else x) })
  -- a pass of another row displaces the latch of its core
  { t with gangs := t.gangs.map (fun g => { g with blocks := g.blocks.map (fun b =>
      if b.core = e.core then { b with rows := b.rows.map (fun r =>
        if (⟨g.gid, b.blk, r.row⟩ : RowRef) = e.ref then r
        else { r with runs := r.runs.map (fun x => { x with latch := none }) }) } else b) }) }

/-- The procedure of R305 over the ordered entries; a pass of a holding run is granted without arbitration. -/
def State.arbitrate (s : State) (es : List MxEntry) : List Nat → List MxEntry → State
  | _, [] => s
  | reserved, e :: r =>
    let need := s.arrays e.core e.pass
    let ok := need.all (s.arrayFree es e) && e.staged
    if !e.held.isEmpty then
      if ok then s.grantPass e else s.arbitrate es (reserved ++ need) r
    else if ok && need.all (fun a => !reserved.contains a) then s.grantPass e
    else s.arbitrate es (reserved ++ need) r

/-- MATRIX_ARBITRATE (R305): the arbiter of a quad grants the first entry that its procedure grants. -/
def execMatrixArbitrate (quad : Nat) (s : State) : Host.Outcome State Fault Refusal :=
  let es := s.mxEntries quad
  let wait := es.filter (fun e => !e.pass.granted)
  let cyc := (s.die (quad / 20)).cyc
  .next (s.arbitrate es [] (wait.foldr (insMx cyc) []))

/-! ### Passes (R298 to R301) -/

/-- A(i, k) as stored: from the values read at the grant. -/
def aElem (p : Pass) (i k : Nat) : Int :=
  let form := mxForm p.ctl
  let n := aRegs form (opK p.opw)
  if form = 4 then wval (p.aVals.getD (i * n + k) 0) else elem (wval (p.aVals.getD (i * n + k / 3) 0)) 9 (k % 3)

/-- B(k, j): the leader's panel for columns 0 to 26, the partner block's for the rest. -/
def bElem (own partner : Block) (p : Pass) (k j : Nat) : Int :=
  if j < 27 then panelElem own (mxForm p.ctl) (wval p.panel) k j
  else panelElem partner (mxForm p.ctl) (wval p.panel) k (j - 27)

/-- What a pass gives one element of D, with the conditions it raises (MXST's order: IV, OF, UF, NX, WR). -/
structure Cell where
  v : Int
  fx : Fx
  wr : Bool
deriving DecidableEq, Repr

/-- The sum of products over k, in integers. -/
def intDot (a b : Nat → Int) (lo n : Nat) : Int := (List.range n).foldl (fun acc k => acc + a (lo + k) * b (lo + k)) 0

/-- An element of an integer pass (R299). -/
def intCell (d : Int) (a b : Nat → Int) (k : Nat) : Cell :=
  let e := d + intDot a b 0 k
  ⟨wrapT 27 e, Fx.clear, decide (wrapT 27 e ≠ e)⟩

/-- Some operand is a NaN: the default NaN, with IV when one is signalling. -/
def nanCell (ops : List Fl) : Option Cell :=
  let sig := ops.any (fun o => match o with | .nan b _ => b | _ => false)
  if ops.any (fun o => match o with | .nan _ _ => true | _ => false) then some ⟨nanWord .f27, Fx.cond sig Fx.IV, false⟩
  else none
/-- D plus exact terms, rounded once in F27 (R300). -/
def sumCell (d : Fl) (ts : List Ex) : Cell :=
  let r := (ts.foldl Ex.add d.toEx).write .f27
  ⟨r.1, r.2, false⟩

/-- The format of a float form. -/
def formFl (f : Int) : FKind := if f = 3 then .f9n else if f = 2 then .f9w else .f27
/-- An element of a float pass (R300). -/
def floatCell (kd : FKind) (d : Int) (a b : Nat → Int) (k : Nat) : Cell :=
  let dv := readFl .f27 d
  let as := (List.range k).map (fun i => readFl kd (a i))
  let bs := (List.range k).map (fun i => readFl kd (b i))
  match nanCell (dv :: as ++ bs) with
  | some c => c
  | none => sumCell dv ((as.zip bs).map (fun q => q.1.toEx.mul q.2.toEx))

/-- An element of a block-scaled pass (R301). -/
def scaledCell (d : Int) (a b : Nat → Int) (sa sb : Nat → Int) (g : Nat) : Cell :=
  let dv := readFl .f27 d
  let as := (List.range g).map (fun i => readFl .f9w (sa i))
  let bs := (List.range g).map (fun i => readFl .f9w (sb i))
  match nanCell (dv :: as ++ bs) with
  | some c => c
  | none => sumCell dv ((as.zip bs).zipIdx.map (fun q =>
      (q.1.1.toEx.mul q.1.2.toEx).mul (.val (intDot a b (27 * q.2) 27) 0)))

/-- Element (i, j) of D after a pass. -/
def passCell (own partner : Block) (r : Row) (p : Pass) (i j : Nat) : Cell :=
  let form := mxForm p.ctl
  let k := (opK p.opw).toNat
  let d := wval (groupVal p.gen0 27 r (opDA p.opw) j i)
  let a := aElem p i
  let b (x : Nat) : Int := bElem own partner p x j
  if p.scaled then
    scaledCell d a b (fun g => own.tryteAt (scaleA p.scale + 27 * g + i))
      (fun g => if j < 27 then own.tryteAt (scaleB p.scale + 27 * g + j)
        else partner.tryteAt (scaleB p.scale + 27 * g + (j - 27 : Nat))) (k / 27)
  else if formInt form then intCell d a b k
  else floatCell (formFl form) d a b k

/-- Write D, and raise MXST. -/
def writePass (own partner : Block) (r : Row) (p : Pass) : Row :=
  (List.range 27).foldl (fun x i => (List.range (mxCols p.ctl)).foldl (fun x j =>
    let c := passCell own partner r p i j
    (putGroup p.gen0 x (opDA p.opw) j i c.v).mxRaise (mxFx c.fx ++ [c.wr])) x) r

/-- PASS_COMPLETE (R303, R306): the row's first granted pass writes D. -/
def execPassComplete (r : RowRef) (s : State) : Host.Outcome State Fault Refusal :=
  match s.block? r, s.row? r with
  | some b, some row =>
    match row.passes.find? (·.granted) with
    | none => .next s
    | some p =>
      let x := writePass b (s.blk r (opPB p.opw).toNat) row p
      let cyc := (s.die (b.core / 80)).cyc
      let x := { x with
        passes := x.passes.filter (fun q => q.order != p.order)
        runs := x.runs.map (fun (u : Run) => if p.run = some u.id then { u with last := cyc } else u) }
      .next (s.modRow r (fun _ => (x.paid (dFields p.gen0 p.ctl p.opw)).flagDown p.flag))
  | _, _ => .next s

/-- RUN_HOLD_LAPSE (R307): no pass of the run posted for 729 cycles after its last completed. -/
def execRunHoldLapse (r : RowRef) (s : State) : Host.Outcome State Fault Refusal :=
  match s.block? r, s.row? r with
  | some b, some row =>
    let cyc := (s.die (b.core / 80)).cyc
    let lapsed (u : Run) : Bool :=
      !u.holds.isEmpty && !(row.passes.any (fun p => p.run == some u.id)) && decide (u.last + 729 ≤ cyc)
    .next (s.modRow r (fun x => { x with runs := x.runs.map (fun u => if lapsed u then { u with holds := [] } else u) }))
  | _, _ => .next s

/-! ### QUANT and DEQ (R311 to R314) -/

def qReg (w : Word) : Int := field (wval w) 0 8
def qOl (w : Word) : Int := field (wval w) 8 13
def qS (w : Word) : Int := field (wval w) 0 9
def qTheta (w : Word) : Int := field (wval w) 9 9
/-- The wide format: 0 .f27, +1 .f9n, −1 .f9w (Table 17.9). -/
def wideFl (ctl : Int) : FKind := let x := field ctl 0 2; if x = 1 then .f9n else if x = -1 then .f9w else .f27
def qT2 (ctl : Int) : Bool := trit ctl 2 == 1
def qList (ctl : Int) : Bool := trit ctl 3 == 1
def quantCtlOk (ctl : Int) : Bool :=
  decide (-1 ≤ field ctl 0 2 ∧ field ctl 0 2 ≤ 1) && (trit ctl 2 == 0 || trit ctl 2 == 1) &&
    (trit ctl 3 == 0 || trit ctl 3 == 1)
/-- Registers of the wide group. -/
def wideRegs (ctl : Int) : Nat := if wideFl ctl = .f27 then 27 else 9
/-- The largest magnitude of a narrow value. -/
def qMax (ctl : Int) : Int := if qT2 ctl then 4 else 1
/-- Trytes of the narrow area. -/
def narrowTrytes (ctl : Int) : Int := if qT2 ctl then 162 else 81
/-- A positive finite nonzero scale. -/
def scaleOk (x : Int) : Bool := match readFl .f9w x with | .fin m _ => decide (0 < m) | _ => false
/-- A threshold that is no NaN and not below 0. -/
def thetaOk (x : Int) : Bool :=
  match readFl .f9w x with
  | .fin m _ => decide (0 ≤ m)
  | .inf n => !n
  | .nan _ _ => false

/-- The checks of R311, in its order. -/
def quantChecks (c : Ctx) (ctl opw addr par : Int) : Except Trap Unit := do
  let w := word opw
  let p := word par
  need (c.w == 27 && decide (0 ≤ qReg w) && field opw 21 6 == 0 && field par 18 9 == 0 && scaleOk (qS p) &&
    (if qList ctl then thetaOk (qTheta p) else qTheta p == 0 && qOl w == 0)) Trap.illmod
  need (groupFits c (qReg w) (wideRegs ctl)) Trap.illop
  need (addr % 27 == 0) (Trap.align addr)
  need (!qList ctl || qOl w % 27 == 0) (Trap.align (qOl w))
  need (areaOk c addr (narrowTrytes ctl)) (Trap.prot addr)
  need (!qList ctl || areaOk c (qOl w) 243) (Trap.prot (qOl w))

/-- QUANT and DEQ up to their start. -/
def quantRow (s : State) (f : FF) (go : Ctx → Int → Int → Int → List Int → Except Trap State) :
    Host.Outcome State Fault Refusal :=
  withRow s (fun c => do
    let fs := [f.x, f.y, f.z]
    gate c false (fs.map src) (f.slot == 0 && quantCtlOk f.ctl && rowSrcs c fs) { p := true }
    if usesBusy c (fs.map src) then .ok (s.hold c 11)
    else if flagWait c c.mod.pred c.e.fb then .ok (s.hold c 2 c.e.fb)
    else
      need (uniform c fs) (Trap.nonUniform c)
      let acts ← rowActs c c.mod.pred
      let opw := rdRow c f.x
      if !acts then .ok (s.finish c c.r)
      else
        quantChecks c f.ctl opw (rdRow c f.y) (rdRow c f.z)
        go c opw (rdRow c f.y) (rdRow c f.z) ((List.range (wideRegs f.ctl)).map (groupField c.gen0 (qReg (word opw)))))

/-- QUANT (R312): the wide group is read at issue. -/
def execQuant (f : FF) (s : State) : Host.Outcome State Fault Refusal :=
  quantRow s f (fun c opw addr par fs =>
    if fs.any (fun x => c.r.busy.contains x) then .ok (s.hold c 11)
    else
      let q : QuantOp := ⟨f.ctl, word opw, word addr, word par, c.e.fb, s.steps,
        groupVals c.gen0 c.r (qReg (word opw)) (wideRegs f.ctl), c.gen0⟩
      .ok (s.finish c ({ c.r with quants := c.r.quants ++ [q] }.flagUp c.e.fb)))

/-- DEQ (R314): the wide group is owed. -/
def execDeq (f : FF) (s : State) : Host.Outcome State Fault Refusal :=
  quantRow s f (fun c opw addr par fs => do
    lockCheck c fs
    if fs.any (fun x => c.r.busy.contains x || c.r.unread.contains x) then .ok (s.hold c 11)
    else
      let q : QuantOp := ⟨f.ctl, word opw, word addr, word par, c.e.fb, s.steps, [], c.gen0⟩
      .ok (s.finish c (({ c.r with deqs := c.r.deqs ++ [q] }.owe fs).flagUp c.e.fb)))

/-- Element k of thread i's wide group, as read at issue. -/
def wideElem (q : QuantOp) (i k : Nat) : Int :=
  if wideFl q.ctl = .f27 then wval (q.wide.getD (27 * i + k) 0) else elem (wval (q.wide.getD (9 * i + k / 3) 0)) 9 (k % 3)

/-- The integer nearest num ÷ den for den > 0, of two equally near the one of smaller magnitude (02 R26). -/
def nearestInt (num den : Int) : Int :=
  let a : Int := num.natAbs
  let q := (2 * a + den - 1) / (2 * den)
  if num < 0 then -q else q

/-- nearest(x ÷ s) for finite x = m × 3^e and s = n × 3^f. -/
def nearestQuot (m e n f : Int) : Int :=
  if e ≥ f then nearestInt (m * 3 ^ (e - f).toNat) n else nearestInt m (n * 3 ^ (f - e).toNat)
/-- The narrow value of x and whether it saturated: ±∞ gives a value unbounded. -/
def narrow (mx : Int) (x s : Fl) : Int × Bool :=
  match x, s with
  | .inf n, _ => (if n then -mx else mx, true)
  | .fin m e, .fin n f => let r := nearestQuot m e n f; (satT r (-mx) mx, decide (satT r (-mx) mx ≠ r))
  | _, _ => (0, false)
/-- |x| > θ. -/
def above (x th : Fl) : Bool :=
  match x with
  | .nan _ _ => true
  | .inf _ => cmpFl (.inf false) th == 1
  | .fin m e => cmpFl (.fin (m.natAbs : Int) e) th == 1

/-- What QUANT gathers over one thread's elements. -/
structure QAcc where
  q : List Int
  entries : List Int
  sat : Nat
  zero : Nat
  ovf : Nat
  fx : Fx
deriving DecidableEq, Repr

/-- One element of QUANT's procedure (R312). -/
def quantStep (q : QuantOp) (i : Nat) (a : QAcc) (k : Nat) : QAcc :=
  let kd := wideFl q.ctl
  let raw := wideElem q i k
  let x := readFl kd raw
  let nan := match x with | .nan _ _ => true | _ => false
  let y := narrow (qMax q.ctl) x (readFl .f9w (qS q.par))
  let nonzero := match x with | .fin m _ => decide (m ≠ 0) | _ => true
  if qList q.ctl && above x (readFl .f9w (qTheta q.par)) then
    if a.entries.length < 3 then
      let v : Int × Fx := if nan then (nanWord .f9w, Fx.clear) else flToFl kd .f9w raw
      { a with q := a.q ++ [0], entries := a.entries ++ [wrapT 9 v.1 + (k : Int) * 3 ^ 9 + 3 ^ 13], fx := a.fx.union v.2 }
    else { a with q := a.q ++ [if nan then 0 else y.1], ovf := a.ovf + 1 }
  else if nan then { a with q := a.q ++ [0], zero := a.zero + 1, fx := a.fx.union Fx.IV }
  else if y.2 then { a with q := a.q ++ [y.1], sat := a.sat + 1 }
  else { a with q := a.q ++ [y.1], zero := if y.1 = 0 ∧ nonzero then a.zero + 1 else a.zero }
/-- One thread of QUANT. -/
def quantThread (q : QuantOp) (i : Nat) : QAcc := (List.range 27).foldl (quantStep q i) ⟨[], [], 0, 0, 0, Fx.clear⟩

/-- Write a word at a scratch address; the state trit stays. -/
def Block.putWord (b : Block) (a : Int) (v : Int) : Block := b.setWord (a / 3).toNat (Sys2Proof.word v, (b.word (a / 3).toNat).2)
/-- The narrow words of a thread (R313). -/
def narrowWords (ctl : Int) (q : List Int) : List Int :=
  if qT2 ctl then
    let p := (q.zipIdx.foldl (fun a x => a + x.1 * 3 ^ (2 * x.2)) 0)
    [field p 0 27, field p 27 27]
  else [q.zipIdx.foldl (fun a x => a + x.1 * 3 ^ x.2) 0]
/-- Write the narrow area, then the outlier area. -/
def quantWrite (b : Block) (q : QuantOp) (ts : List QAcc) : Block :=
  let b := ts.zipIdx.foldl (fun b t =>
    let ws := narrowWords q.ctl t.1.q
    ws.zipIdx.foldl (fun b w => b.putWord (wval q.addr + 3 * (ws.length * t.2 + w.2 : Nat)) w.1) b) b
  if qList q.ctl then
    ts.zipIdx.foldl (fun b t => (List.range 3).foldl (fun b (n : Nat) =>
      b.putWord (qOl q.opw + 9 * t.2 + 3 * n) (t.1.entries.getD n 0)) b) b
  else b

/-- A counter after an addition (R310). -/
def countUp (w : Word) (n : Nat) : Word := word (satT (wval w + n) 0 (maxT 27))

/-- An event enters a queue behind every other but those of its own cycle whose %row is higher: the blocks of a core have one
holder index (R276, R316). -/
def insEvent (e : EscEvent) : List EscEvent → List EscEvent
  | [] => [e]
  | x :: r => if x.cyc = e.cyc ∧ e.row < x.row ∧ r.all (fun y => y.cyc == e.cyc) then e :: x :: r else x :: insEvent e r
/-- An event that found its core's queue full is lost, with EL, and its loss is unreported (R316, R317). -/
def State.loseEvent (s : State) (e : EscEvent) : State :=
  s.modRow e.who (fun x =>
    { x.mxRaise [false, false, false, false, false, true] with
      escDue := if e.fresh then dropFirst (· == e.flag) x.escDue else x.escDue, escLost := x.escLost ++ [e.flag] })
/-- A core's queue of 27 takes the first of some events; the others are lost. -/
def State.setEvents (s : State) (core : Nat) (q : List EscEvent) : State :=
  (q.drop 27).foldl (fun s x => s.loseEvent x) (s.modCore core (fun k => { k with escq := q.take 27 }))
/-- An event that a row raises: it is unreported. -/
def State.raiseEvent (s : State) (core : Nat) (e : EscEvent) : State :=
  (s.modRow e.who (fun x => { x with escDue := x.escDue ++ [e.flag] })).setEvents core (insEvent e (s.core core).escq)

/-- The events of one QUANT (R316): SAT, ZERO, OVF. -/
def State.escalations (s : State) (r : RowRef) (core : Nat) (pol : Word) (q : QuantOp) (counts : List Nat) : State :=
  counts.zipIdx.foldl (fun s n =>
    let t := field (wval pol) (9 * n.2) 9
    if 0 < t ∧ t ≤ (n.1 : Int) then
      s.raiseEvent core ⟨r, word (field (wval q.addr) 0 13 + ((n.2 : Int) + 1) * 3 ^ 13 + 3 ^ 15), true, q.flag, s.cycOf core, r.row⟩
    else s) s

/-- QUANT_COMPLETE (R312, R316). -/
def execQuantComplete (r : RowRef) (s : State) : Host.Outcome State Fault Refusal :=
  match s.block? r, s.row? r with
  | some b, some row =>
    match row.quants with
    | [] => .next s
    | q :: rest =>
      let ts := (List.range 27).map (quantThread q)
      let sum (g : QAcc → Nat) : Nat := ts.foldl (fun n t => n + g t) 0
      let fx := ts.foldl (fun x t => x.union t.fx) Fx.clear
      let t := s.modBlock r (fun b => quantWrite b q ts)
      let t := t.modRow r (fun x =>
        ({ x with quants := rest, sat := countUp x.sat (sum (·.sat)), zero := countUp x.zero (sum (·.zero)),
                  ovf := countUp x.ovf (sum (·.ovf)) }.mxRaise (mxFx fx)).flagDown q.flag)
      .next (t.escalations r b.core row.escpol q [sum (·.sat), sum (·.zero), sum (·.ovf)])
  | _, _ => .next s

/-- The value of a DEQ element, with the flags of its destination format: listed entries over s × q (R314). -/
def deqElem (b : Block) (q : QuantOp) (i k : Nat) : Int × Fx :=
  let kd := wideFl q.ctl
  let a := wval q.addr
  let n : Int := if qT2 q.ctl then t2Elem (b.wordAt (a + 6 * i)) (b.wordAt (a + 6 * i + 3)) k else trit (b.wordAt (a + 3 * i)) k
  let es := if qList q.ctl then (List.range 3).map (fun j => b.wordAt (qOl q.opw + 9 * i + 3 * j)) else []
  let mine := es.filter (fun e => trit e 13 == 1 && field e 14 13 == 0 && field e 9 4 == (k : Int))
  match mine.getLast? with
  | some e => if kd = .f9w then
      (match readFl .f9w (field e 0 9) with
        | .nan _ _ => (nanWord .f9w, Fx.clear)
        | .inf n => (infWord .f9w n, Fx.clear)
        | .fin m x => roundT .f9w m x)
    else flToFl .f9w kd (field e 0 9)
  | none => match readFl .f9w (qS q.par) with
    | .fin m x => roundT kd (m * n) x
    | _ => (nanWord kd, Fx.clear)
/-- A used entry that DEQ ignores raises IV. -/
def deqBad (b : Block) (q : QuantOp) (i : Nat) : Bool :=
  qList q.ctl && (List.range 3).any (fun j =>
    let e := b.wordAt (qOl q.opw + 9 * i + 3 * j)
    trit e 13 == 1 && !(field e 14 13 == 0 && decide (0 ≤ field e 9 4 ∧ field e 9 4 ≤ 26)))
/-- Register n of a thread's wide group. -/
def deqWord (b : Block) (q : QuantOp) (i n : Nat) : Int × Fx :=
  if wideFl q.ctl = .f27 then deqElem b q i n else build 9 3 (fun j => deqElem b q i (3 * n + j))

/-- The areas DEQ reads. -/
def QuantOp.areas (own : Nat) (q : QuantOp) : List (Nat × Int × Int) :=
  (own, (wval q.addr, narrowTrytes q.ctl)) :: (if qList q.ctl then [(own, (qOl q.opw, 243))] else [])
/-- DEQ_COMPLETE (R314): after the row's earlier QUANTs have written, and its scratch stores to the areas. -/
def execDeqComplete (r : RowRef) (s : State) : Host.Outcome State Fault Refusal :=
  match s.block? r, s.row? r with
  | some b, some row =>
    match row.deqs with
    | [] => .next s
    | q :: rest =>
      if row.quants.any (fun x => decide (x.stamp < q.stamp)) || row.scrPending q.stamp (q.areas r.blk) then .next s
      else
        let n := wideRegs q.ctl
        let x := (List.range 27).foldl (fun x i =>
          (List.range n).foldl (fun x k =>
            let v := deqWord b q i k
            (putGroup q.gen0 x (qReg q.opw) k i v.1).mxRaise (mxFx v.2)) (x.mxRaise [deqBad b q i])) { row with deqs := rest }
        let fs := (List.range n).map (groupField q.gen0 (qReg q.opw))
        .next (s.modRow r (fun _ => (x.paid fs).flagDown q.flag))
  | _, _ => .next s

/-! ### QCNT (R318) -/

/-- A ctl that Table 17.13 allows. -/
def qcntOk (ctl : Int) : Bool :=
  let i := field ctl 0 2
  decide (-1 ≤ i ∧ i ≤ 3) && trit ctl 3 == 0 && (trit ctl 2 == 0 || (trit ctl 2 == 1 && i != 2))

/-- The item a QCNT names, and the row with it cleared. -/
def qcntItem (r : Row) (i : Int) : Word × Row :=
  if i = 0 then (r.mxst, { r with mxst := 0 })
  else if i = 1 then (r.sat, { r with sat := 0 })
  else if i = -1 then (r.zero, { r with zero := 0 })
  else (r.ovf, { r with ovf := 0 })

/-- QCNT (R318). -/
def execQcnt (f : FF) (s : State) : Host.Outcome State Fault Refusal :=
  withRow s (fun c => do
    gate c false [dst f.x] (f.slot == 0 && f.y == 0 && f.z == 0 && qcntOk f.ctl && scaDst c f.x) { p := true }
    if usesBusy c [dst f.x] then .ok (s.hold c 11)
    else
      let acts ← rowActs c c.mod.pred
      if !acts then .ok (s.finish c c.r)
      else if !(c.r.passes.isEmpty && c.r.quants.isEmpty && c.r.deqs.isEmpty) then .ok (s.hold c 13)
      else if field f.ctl 0 2 = 2 then
        let ev := (((s.core c.core).escq.find? (fun e => e.who == c.ref)).map (fun e => wval e.ev)).getD 0
        let t := s.modCore c.core (fun k => { k with escq := dropFirst (fun e => e.who == c.ref) k.escq })
        .ok (t.finish c (wrRow c.gen0 c.w c.r c.act f.x ev))
      else
        let y := qcntItem c.r (field f.ctl 0 2)
        .ok (s.finish c (wrRow c.gen0 c.w (if trit f.ctl 2 = 1 then y.2 else c.r) c.act f.x (wval y.1))))

end Sys2Proof.Machine
end

