-- ==== Sys2Proof/Machine/Exit.lean ====
section
/-!
DEFINITION. EXIT (10 R181, 26 R441), what an interrupted or ended gang still completes (23 R406), the retirement of
blocks, gangs and grids (26 R442 to R445), and the release of code that no PC refers to (23 R414, R415).
-/
namespace Sys2Proof.Machine

/-! ### What a row has outstanding -/

/-- The row has a tile instruction that its directory has not completed. -/
def State.tilesOpen (s : State) (ref : RowRef) : Bool :=
  s.tileIn.any (fun q => q.who == ref) || s.tileQ.any (fun q => q.who == ref)
/-- A push that a write of the row waits for. -/
def State.pushesOpen (s : State) (ref : RowRef) : Bool :=
  s.pushes.any (fun p => match p.src with | some q => q.1 == ref | none => false)
/-- An access of the row stands in its core's order. -/
def State.orderOpen (s : State) (core : Nat) (ref : RowRef) : Bool := (s.core core).order.any (fun o => o.who == ref)

/-- Every operation the row has accepted has completed, and every flag reads 0 (26 R441). -/
def State.rowIdle (s : State) (core : Nat) (ref : RowRef) (r : Row) : Bool :=
  r.flags.all (· == 0) && r.busy.isEmpty && r.loads.isEmpty && r.fifo.isEmpty && !s.orderOpen core ref &&
    !s.tilesOpen ref && !s.pushesOpen ref && r.passes.isEmpty && r.quants.isEmpty && r.deqs.isEmpty &&
    r.slots.all (fun x => x.entries.isEmpty) && r.arrivals.isEmpty && r.launches.isEmpty &&
    r.tlbis.isEmpty && !r.scrOpen (s.steps + 1)

/-- The instance a COLL command has joined has all its participants. -/
def State.instanceFull (s : State) (ref : RowRef) : Bool :=
  match s.colls.find? (fun x => x.arrived.any (fun q => q.who == ref)) with
  | none => false
  | some x => decide (recW x.desc 0 ≤ (x.arrived.length : Int))
/-- A slot's command that a halt still waits for: started, not held by a fault, and a COLL only in a full instance. -/
def State.cmdRuns (s : State) (ref : RowRef) (x : EngSlot) : Bool :=
  match x.entries with
  | .cmd c :: _ => c.started && c.held.isNone && !c.spill && (c.kind != .coll || s.instanceFull ref)
  | _ => false
/-- Everything that 23 Table 23.2 says completes at a halt has completed for the row. -/
def State.rowDrained (s : State) (core : Nat) (ref : RowRef) (r : Row) : Bool :=
  r.loads.isEmpty && r.fifo.isEmpty && !s.orderOpen core ref && !s.pushesOpen ref &&
    !s.tileIn.any (fun q => q.who == ref) && !s.tileQ.any (fun q => q.who == ref && q.stage == 2) &&
    r.passes.all (fun p => !p.granted) && r.quants.isEmpty && r.deqs.isEmpty && r.arrivals.isEmpty &&
    r.launches.isEmpty && r.tlbis.isEmpty && r.rels.isEmpty && !r.parks.any (fun o => o.group.isEmpty && !o.stuck) &&
    r.slots.all (fun x => !s.cmdRuns ref x)
/-- Every row of a gang has drained, and no recall of its blocks is under way. -/
def State.gangDrained (s : State) (g : Gang) : Bool :=
  g.blocks.all (fun b => b.rows.all (fun r => s.rowDrained b.core ⟨g.gid, b.blk, r.row⟩ r)) &&
    !s.recalls.any (fun m => m.who.gid == g.gid)

/-- A gang's arrivals at instances that are not full are withdrawn (18 R339). -/
def State.withdrawColls (s : State) (gid : Word) : State :=
  let keep (x : CollInst) : Bool := decide (recW x.desc 0 ≤ (x.arrived.length : Int))
  let cs := s.colls.map (fun x => if keep x then x else { x with arrived := x.arrived.filter (fun q => q.who.gid != gid) })
  { s with colls := cs.filter (fun x => !x.arrived.isEmpty) }

/-! ### Code no longer referred to (23 R414, R415) -/

/-- The code addresses a row holds: PC table, prefixes, handler, kept instructions. -/
def Row.codeRefs (r : Row) : List CodeAddr :=
  r.pct.map (·.addr) ++ (r.pfx.map (·.start)).toList ++ r.parks.map (·.pos) ++ r.sleeps.map (·.pos) ++
    (r.fault.map (·.pos)).toList ++ (if r.handler.active then [CodeAddr.ofWord r.handler.pc, resumeAddr r.handler] else [])
/-- The generations of slots a gang refers to. -/
def Gang.codeRefs (g : Gang) : List (Int × Int) :=
  g.blocks.flatMap (fun b => b.rows.flatMap (fun r => r.codeRefs.map (fun a => (a.slot, a.gen))))

/-- A slot after code that nothing refers to is freed: of a slot that is not fallow the newest generation stays. -/
def sweepSlot (gids : List Word) (refs : List (Int × Int)) (sl : Slot) : Slot :=
  let newest := sl.current
  let gens := sl.gens.map (fun g =>
    if g.held ∧ g.gen ≠ newest ∧ g.gen ≠ 0 ∧ !refs.contains (sl.slot, g.gen) then { g with held := false, users := gids } else g)
  { sl with gens := gens.filter (fun g => g.held || g.users.any (fun u => gids.contains u)) }
/-- Free the code and maps of a field that no gang refers to; a fallow slot without gangs becomes empty. -/
def State.sweepCode (s : State) (f : Nat) : State :=
  let gs := s.gangs.filter (fun g => g.fld == f)
  let gids := gs.map (·.gid)
  let refs := gs.flatMap (·.codeRefs)
  s.modField f (fun x => { x with slots := (x.slots.map (sweepSlot gids refs)).filter (fun sl =>
    sl.state != 3 || gs.any (fun g => g.lrec.slot == sl.slot)) })

/-! ### Rows and blocks (26 R441, R442) -/

/-- The block's tenures are released, and then it retires: its barriers are discarded and its bank-store lines freed. -/
def State.retireBlock (s : State) (g : Gang) (b : Block) : State :=
  if b.retired || !b.rows.all (·.ended) then s
  else
    let hs := blockHolders s g b
    if hs.isEmpty && !s.recalls.any (fun m => m.who.gid == g.gid && m.who.blk == b.blk) then
      s.modBlock ⟨g.gid, b.blk, 0⟩ (fun b => { b with retired := true, bars := [], tenures := [] })
    else hs.foldl (fun s h => s.startRecall false h) s

/-- Retire the block of a row that has just ended, if all its rows have. -/
def State.retireOf (s : State) (r : RowRef) : State :=
  match s.gang? r.gid, s.block? r with
  | some g, some b => s.retireBlock g b
  | _, _ => s

/-- The row ends: its queued escalation events are discarded (17 R319). -/
def State.endRow (s : State) (c : Ctx) : State :=
  let s := s.issued c { c.r with ended := true, watch := Watch.off, runs := [] } []
  (s.modCore c.core (fun k => { k with escq := k.escq.filter (fun e => e.who != c.ref) })).retireOf c.ref

/-- EXIT (10 R181, 26 R441). -/
def execExit (f : FA) (s : State) : Host.Outcome State Fault Refusal :=
  withRow s (fun c => do
    gate c true [] (predOk f.pred && f.dst == 0 && f.a == 0 && f.b == 0 && f.ty == 0) {}
    let ts := c.acting f.pred
    need (!c.r.handler.active || ts.isEmpty) Trap.illop
    let rest := c.rest ts
    if !(rest.isEmpty && (c.r.pct.filter (fun e => e.addr != c.e.addr)).isEmpty) then
      .ok (s.issued c c.r [c.nextOf rest])
    else if !s.rowIdle c.core c.ref c.r then .ok (s.hold c 12)
    else
      match reportDue s c (fun _ => true) (fun _ => true) with
      | some t => .ok t
      | none => .ok (s.endRow c))

/-! ### Gangs (26 R442) -/

/-- Answer the CTXS that waits on a gang. -/
def State.answerSave (s : State) (g : Gang) (v : Int) : State :=
  match g.saveTo with
  | none => s
  | some q =>
    let w := s.widthOf q.who
    (s.modRow q.who (fun x => ((wrRow q.gen0 w x q.group q.dst v).paid [q.dst]).flagDown q.flag)).modGang g.gid
      (fun (g : Gang) => { g with saveTo := none })

/-- The rows of a gang that a fatal event ended are ended where they stand: what they had not started is dropped. -/
def State.cutGang (s : State) (g : Gang) : State :=
  let s := s.withdrawColls g.gid
  let s := s.cancelQueued (fun q => q.who.gid == g.gid)
  let s := { s with dies := s.dies.map (fun (d : DieSt) => { d with overflow := d.overflow.filter (fun q => q.1.gid != g.gid) })
                    cores := s.cores.map (fun (k : Core) => { k with escq := k.escq.filter (fun e => e.who.gid != g.gid) }) }
  s.modGang g.gid (fun (g : Gang) => { g with blocks := g.blocks.map (fun (b : Block) => { b with rows := b.rows.map Row.cut }) })

/-- The gang retires: the sower reports it (23 R403), its private range is freed, its grid counts it, and its references to
code end. -/
def State.removeGang (s : State) (g : Gang) : State :=
  let s := (s.answerSave g 0).report 4 g.gid
  let s := { s with gangs := s.gangs.filter (fun x => x.gid != g.gid) }
  let s := s.modGrid g.grid (fun x => { x with finished := x.finished + 1 })
  (s.modField g.fld (fun f => { f with pool := f.pool.filter (fun a => a.gid != g.gid) })).sweepCode g.fld

/-- GANG_RETIRE (R442): blocks retire first; then, with every PEER delivered and every instance complete, the gang. -/
def execGangRetire (gid : Word) (s : State) : Host.Outcome State Fault Refusal :=
  match s.gang? gid with
  | none => .next s
  | some g =>
    if g.absent then .next s
    else if g.status == .retiring && g.blocks.any (fun b => b.rows.any (fun r => !r.ended)) then
      .next (if s.gangDrained g then s.cutGang g else s)
    else if g.blocks.any (fun b => !b.retired) then .next (g.blocks.foldl (fun s b => s.retireBlock g b) s)
    else if g.blocks.any (fun b => b.rows.any (fun r => !r.peers.isEmpty)) ||
      s.colls.any (fun x => x.arrived.any (fun q => q.1.gid == gid)) then .next s
    else .next (s.removeGang g)

/-! ### Grids (26 R443) -/

/-- A word that the sower is about to write: its line is ready, and out of the host's hands (15 R258). -/
def State.hostClear (s : State) (grid f : Nat) (va : Int) : Option State := s.fieldAwait (.event (.gridRetire grid)) f [] [va]

/-- Write a record's STAT: a word that cannot be written is skipped and logged (04 R64). -/
def State.statPut (s : State) (f : Nat) (recAddr : Int) (state reason : Int) : State :=
  let va := wrapT 27 (recAddr + 24)
  if s.canWrite f va then s.fieldPut f va (word (state + 27 * reason))
  else s.log 16 0 0 0 (word va) (s.badLineNo f [va] Need.store)

/-- Add 1 to an event word, the partials of its line forced home first (16 R285): none when it cannot be read and written. -/
def State.eventAdd (s : State) (f : Nat) (va : Int) : Option State :=
  match s.fieldLine f va Need.store with
  | none => none
  | some l => ((s.flushLine l).fieldWord f va).map (fun v => (s.flushLine l).fieldPut f va (word (wval v + 1)))

/-- Every gang of a grid has retired or been dropped, or a fatal event has ended it and its gangs are gone. -/
def State.gridOver (s : State) (g : Grid) : Bool :=
  (g.ended || decide (g.lrec.gangs ≤ g.finished)) && !s.gangs.any (fun x => x.grid == g.id)

/-- DONE of a grid that is over: one atomic add, skipped when DONE is 0; one that faults is reason 15. -/
def State.gridDoneStep (s : State) (g : Grid) : State :=
  let va := g.lrec.w 7
  let mark (s : State) (reason : Nat) : State :=
    s.modGrid g.id (fun x => { x with gridDone := true, reason := if x.reason = 0 then reason else x.reason })
  if va = 0 then mark s 0
  else
    match s.hostClear g.id g.fld va with
    | some t => t
    | none =>
      match s.eventAdd g.fld va with
      | some t => mark t 0
      | none => mark s 15

/-- STAT of a grid that is over, and its log record; a gang that came in a portable image has no record here. -/
def State.gridStatStep (s : State) (g : Grid) : State :=
  let here := wval g.recAddr % 27 == 0
  match (if here then s.hostClear g.id g.fld (wrapT 27 (wval g.recAddr + 24)) else none) with
  | some t => t
  | none =>
    let t := if here then s.statPut g.fld (wval g.recAddr) (if g.reason = 0 then 3 else -2) g.reason else s
    let t := if g.reason = 0 then t else t.log 17 0 0 0 (word g.reason) 0
    { t with grids := t.grids.filter (fun x => x.id != g.id) }

/-- GRID_RETIRE (R443). -/
def execGridRetire (grid : Nat) (s : State) : Host.Outcome State Fault Refusal :=
  match s.grids.find? (fun g => g.id == grid) with
  | none => .next s
  | some g =>
    if !s.gridOver g then .next s
    else .next (if g.gridDone then s.gridStatStep g else s.gridDoneStep g)

end Sys2Proof.Machine
end

