-- ==== Sys2Proof/Machine/CodeObj.lean ====
section
/-!
DEFINITION. Code objects: their checks and digests (03 R47 to R51), slots, loads and unloads (03 R52, R53), and the
generations that the translator installs (03 R55).
-/
namespace Sys2Proof.Machine

/-! ### 256-bit values in words and bytes (03 R49) -/

/-- The integer that successive words hold. -/
def wordsVal (ws : List Word) : Int := ws.zipIdx.foldl (fun a q => a + wval q.1 * 3 ^ (27 * q.2)) 0
/-- Seven words that hold an integer. -/
def valWords (v : Int) : List Word := (List.range 7).map (fun i => word (field v (27 * i) 27))
/-- The integer of bytes, most significant first, and back. -/
def intOfBytes (bs : List Nat) : Nat := bs.foldl (fun a b => 256 * a + b) 0
def bytesOfInt (n v : Nat) : List Nat := (List.range n).map (fun i => v / 256 ^ (n - 1 - i) % 256)
/-- A 256-bit value in seven words: none outside 0 to 2^256 − 1. -/
def value256 (ws : List Word) : Option (List Nat) :=
  let v := wordsVal ws
  if 0 ≤ v ∧ v < 2 ^ 256 then some (bytesOfInt 32 v.toNat) else none

/-! ### Objects (03 R47 to R49) -/

/-- The 27 trytes of nine words. -/
def wordsTrytes (ws : List Word) : List Tryte := ws.flatMap (fun w => [tryteOfWord w 0, tryteOfWord w 1, tryteOfWord w 2])
/-- Bytes 0 to 48 of each of the first n lines of some words. -/
def packedLines : Nat → List Word → List Nat
  | 0, _ => []
  | n + 1, ws => packData (wordsTrytes (ws.take 9)) ++ packedLines n (ws.drop 9)
/-- The digest of an object: its header up to its last body line. -/
def objDigest (ws : List Word) : List Nat := Config.sm3 (packedLines (ws.length / 9 - 2) ws)

/-- Word k of an object's header. -/
def objW (ws : List Word) (k : Nat) : Int := wval (ws.getD k 0)
/-- MAGIC of an object (Table 3.1). -/
def objMagic : Int := 2859599056870
/-- The function table. -/
def objFuncs (ws : List Word) : List Int :=
  ((ws.drop (9 * (objW ws 5).toNat)).take (objW ws 4).toNat).map wval

/-- The signature holds under the field's enrolled key (R49, R50); trailer words 14 to 17 that are not 0 fail it (DESIGN
CHOICE, log 115: Table 3.4 names no check of them). -/
def objSigned (f : FieldSt) (ws : List Word) : Bool :=
  let t := ws.drop (ws.length - 18)
  match f.keys.find? (fun k => (k.1 : Int) == objW ws 7), value256 (t.take 7), value256 ((t.drop 7).take 7) with
  | some k, some r, some z =>
    match value256 (k.2.take 7), value256 (k.2.drop 7) with
    | some x, some y => ((t.drop 14).take 4).all (· == 0) && Config.sm2Verify (x ++ y) (objDigest ws) r z
    | _, _ => false
  | _, _, _ => false

/-- The structure of an object: every offset inside it. -/
def objFormed (ws : List Word) : Bool :=
  let n := (ws.length : Int)
  decide (1 ≤ objW ws 4 ∧ objW ws 4 ≤ 6561) && decide (1 ≤ objW ws 5) && decide (9 * objW ws 5 + objW ws 4 ≤ n) &&
    (objFuncs ws).all (fun o => decide (0 ≤ o ∧ o < n)) && objW ws 8 == 0

/-- The status of a copied object (Table 3.4, from −1 on). A PVER below 1, which Table 3.1 excludes and for which Table 3.4
names no status, is refused with −2 even inside Vc − 4 to Vc (DESIGN CHOICE, log 115). -/
def objStatus (f : FieldSt) (vc : Int) (ws : List Word) : Int :=
  if objW ws 0 ≠ objMagic then -1
  else if objW ws 1 < vc - 4 ∨ vc < objW ws 1 ∨ objW ws 1 < 1 then -2
  else if objW ws 2 < wval f.minver then -3
  else if !objSigned f ws then -4
  else if !objFormed ws then -5
  else 2

/-- The current portable version (R51). -/
def State.portableVersion (s : State) : Int := s.fw.vc

/-! ### Generation 0 (03 R54, R57) -/

/-- A word of portable code that is a safe point: a backward branch or a call site (R57). A branch to itself is not taken
as a backward one (DESIGN CHOICE, log 102: the spec does not say). -/
def isPortableSafe (w : Word) : Bool :=
  match decode w with
  | .ok (.br f) => decide (f.off < 0)
  | .ok (.call _) => true
  | .ok (.callr _) => true
  | _ => false
/-- The safe points of portable code, numbered in code order (log 22): every register is its own location. -/
def portableSafe (ws : List Word) : List SafePoint :=
  let first := (9 * objW ws 5 + objW ws 4 + objW ws 6).toNat
  let idx := ((List.range (ws.length - 18)).drop first).filter (fun i => isPortableSafe (ws.getD i 0))
  idx.zipIdx.map (fun q => ⟨(q.2 : Int), (q.1 : Int), (q.1 : Int), []⟩)
/-- Generation 0 of an object: the portable code itself, whose word index is the word's offset from the header. -/
def portableGen (ws : List Word) : Gener := ⟨0, 0, true, ⟨ws, objFuncs ws, portableSafe ws, []⟩, []⟩

/-! ### Functions and slots (03 R52, 04 R73) -/

/-- The registers of a function: −1 the physical function, v the VF. -/
def State.fnRegs (s : State) (fn : Int) : FnRegs := s.host.fns.getD (fn + 1).toNat ⟨0, 0, false, 0, none⟩
def State.modFn (s : State) (fn : Int) (f : FnRegs → FnRegs) : State :=
  { s with host := { s.host with fns := modAt s.host.fns (fn + 1).toNat f } }
/-- The field a function acts on: none for a VF that is not enabled. -/
def State.fnField (s : State) (fn : Int) : Option Nat :=
  if fn = -1 then some s.host.pffield
  else if fn < 0 ∨ 128 ≤ fn ∨ !(s.host.vfon.getD fn.toNat false) then none
  else
    let f := s.host.vffield.getD fn.toNat (-1)
    if 0 ≤ f ∧ f < 12 then some f.toNat else none
/-- The state of a slot (R52): 0 empty, 1 loading, 2 loaded, 3 fallow. -/
def State.slotState (s : State) (f : Nat) (n : Int) : Nat := ((s.slot? f n).map (·.state)).getD 0
def State.setSlot (s : State) (f : Nat) (x : Slot) : State :=
  s.modField f (fun y => { y with slots := y.slots.filter (fun z => z.slot != x.slot) ++ [x] })
def State.clearSlot (s : State) (f : Nat) (n : Int) : State :=
  s.modField f (fun y => { y with slots := y.slots.filter (fun z => z.slot != n) })

/-- A request begins, unless one of the function is in progress: then OVR is set (R53). -/
def State.clRequest (s : State) (fn : Int) (go : Nat → Host.Outcome State Fault Refusal) : Host.Outcome State Fault Refusal :=
  match s.fnField fn with
  | none => .next s
  | some f =>
    if (s.fnRegs fn).loading.isSome then .next (s.modFn fn (fun x => { x with ovr := true }))
    else go f
/-- The status of a request. -/
def State.clStatus (s : State) (fn slot st : Int) : State := s.modFn fn (fun x => { x with st := st, slot := slot })

/-- CLCMD_LOAD (R53): the slot becomes loading. -/
def execClcmdLoad (fn slot : Int) (s : State) : Host.Outcome State Fault Refusal :=
  s.clRequest fn (fun f =>
    if s.slotState f slot ≠ 0 then .next (s.clStatus fn slot (-6))
    else
      let t := (s.setSlot f ⟨slot, 1, [], []⟩).clStatus fn slot 1
      .next (t.modFn fn (fun x => { x with loading := some (f, slot, x.clbase) })))

/-- CLCMD_UNLOAD (R53, 23 R414). -/
def execClcmdUnload (fn slot : Int) (s : State) : Host.Outcome State Fault Refusal :=
  s.clRequest fn (fun f =>
    match s.slot? f slot with
    | some sl =>
      if sl.state ≠ 2 then .next (s.clStatus fn slot (-7))
      else if s.gangs.any (fun g => g.fld == f && g.lrec.slot == slot) then
        .next ((s.setSlot f { sl with state := 3 }).clStatus fn slot 4)
      else .next ((s.clearSlot f slot).clStatus fn slot 3)
    | none => .next (s.clStatus fn slot (-7)))

/-- A line that the code-object loader may read: its leaf has X = +, it is not failing, a route reaches it from the hub, and
every byte of a host line passes the window. -/
def State.loaderLoc (s : State) (f : Nat) (va : Int) : Option Loc :=
  match s.xlatTables f va { Need.code with len := 27 } with
  | .ok l _ _ => if s.badLine l || s.hubCut l || (s.walkLines f va).any s.hubCut then none else some (lineOf l)
  | _ => none
/-- Its words. -/
def State.loaderLine (s : State) (f : Nat) (va : Int) : Option (List Word) :=
  (s.loaderLoc f va).map (fun l => lineWords (s.lineAt l))
/-- Successive lines; none when one is unreadable. -/
def State.loaderLines (s : State) (f : Nat) : Nat → Int → Option (List Word)
  | 0, _ => some []
  | n + 1, va =>
    match s.loaderLine f (wrapT 27 va) with
    | none => none
    | some ws => (s.loaderLines f n (va + 27)).map (fun r => ws ++ r)
/-- The copy of an object: none when a line is unreadable or NLINES is outside Table 3.1. -/
def State.copyObject (s : State) (f : Nat) (base : Int) : Option (List Word) :=
  if base % 27 ≠ 0 then none
  else
    match s.loaderLine f base with
    | none => none
    | some h => if objW h 3 < 3 ∨ 3 ^ 15 < objW h 3 then none else s.loaderLines f (objW h 3).toNat base

/-- The lines that the loader reads, and those of the tables on the way. -/
def State.loaderNeeds (s : State) (f : Nat) (base : Int) : List Loc :=
  let one (va : Int) : List Loc := s.walkLines f va ++ (s.loaderLoc f va).toList
  let n := ((s.loaderLine f base).map (fun h => if objW h 3 < 3 ∨ 3 ^ 15 < objW h 3 then 0 else (objW h 3).toNat)).getD 0
  one base ++ (List.range n).flatMap (fun k => one (wrapT 27 (base + 27 * (k : Int))))

/-- CODE_OBJECT_LOAD_COMPLETE (R53): the object is read as it stands at this step, whole (DESIGN CHOICE, log 112: the spec
does not say when the copy starts), and checked; a load that fails leaves the slot empty. -/
def execCodeObjectLoadComplete (fn : Int) (s : State) : Host.Outcome State Fault Refusal :=
  match (s.fnRegs fn).loading with
  | none => .next s
  | some (f, slot, base) =>
    match s.snoopFirst false (s.loaderNeeds f (wval base)) with
    | some t => .next (t.await (.event (.codeObjectLoadComplete fn)) 0 (s.loaderNeeds f (wval base)))
    | none =>
    let s := s.modFn fn (fun x => { x with loading := none })
    match s.copyObject f (wval base) with
    | none => .next ((s.clearSlot f slot).clStatus fn slot (-8))
    | some ws =>
      let st := objStatus (s.fieldSt f) s.portableVersion ws
      if st = 2 then .next ((s.setSlot f ⟨slot, 2, ws, [portableGen ws]⟩).clStatus fn slot 2)
      else .next ((s.clearSlot f slot).clStatus fn slot st)

/-! ### Generations (03 R55) -/

/-- The next value of the cycle +1 .. +13, −13 .. −1. -/
def nextGen13 (g : Int) : Int := if g = 13 then -13 else if g = -1 then 1 else g + 1
/-- The first value after g, within n tries, that no code and no return map still holds. -/
def freeGen (held : List Int) : Nat → Int → Option Int
  | 0, _ => none
  | n + 1, g => if held.contains (nextGen13 g) then freeGen held n (nextGen13 g) else some (nextGen13 g)

/-- Code that the translator may emit (03 R57, 06 R106): every SAFE word is listed in the maps under the portable safe point
it carries, every listed safe point is a SAFE word, and a group enters it at a header. That it computes what the portable
code does (03 R58) is the translator's promise, not checked here (log 100). -/
def translationOk (tr : Translation) : Bool :=
  tr.words.zipIdx.all (fun q => field (wval q.1) 21 6 != 4 ||
    tr.safe.any (fun p => p.stands == (q.2 : Int) && p.portable == field (wval q.1) 0 21)) &&
  tr.safe.all (fun p => decide (0 ≤ p.stands) && decide (0 ≤ p.idx) &&
    ((tr.words[p.stands.toNat]?).map (fun w => field (wval w) 21 6 == 4)).getD false &&
    ((tr.words[p.idx.toNat]?).map isHeader).getD false)

/-- TRANSLATION_INSTALL (R55, 07 R116): the new generation becomes the slot's current one, under an issue count that is never
repeated; with every value held the translator waits. -/
def execTranslationInstall (fld : Nat) (slot : Int) (tr : Translation) (s : State) : Host.Outcome State Fault Refusal :=
  match s.slot? fld slot with
  | none => .next s
  | some sl =>
    if sl.state ≠ 2 ∨ !translationOk tr then .next s
    else
      match freeGen (sl.gens.map (·.gen)) 26 sl.current with
      | none => .next s
      | some g =>
        let n := (s.fieldSt fld).issueCount + 1
        .next (((s.modField fld (fun (x : FieldSt) => { x with issueCount := n })).setSlot fld
          { sl with gens := sl.gens ++ [⟨g, n, true, tr, []⟩] }).sweepCode fld)

end Sys2Proof.Machine
end

