-- ==== Sys2Proof/Machine/Privileged.lean ====
section
/-!
DEFINITION. Class −11: REPLAY and TLBI (23 R407 to R409, 12 R228), with the checks every privileged instruction shares
(06 R109), and the STALL watchdog (07 R128).
-/
namespace Sys2Proof.Machine

/-- The number of the management core, behind the 960 compute cores. -/
def mgmtCore : Nat := 960

/-- The issue of a privileged instruction (R407): per-row, scalar operands, privilege, then `go`. The spec states no
TRAPINFO for PROT on a compute core (log 38). -/
def privileged (s : State) (f : FA) (hasD hasB : Bool) (go : Ctx → Except Trap State) : Host.Outcome State Fault Refusal :=
  withRow s (fun c => do
    let srcs := [f.a] ++ (if hasB then [f.b] else [])
    let us := (if hasD then [dst f.dst] else []) ++ srcs.map src
    gate c false us (predOk f.pred && (if hasD then scaDst c f.dst else f.dst == 0) && (hasB || f.b == 0) &&
      rowSrcs c srcs && c.r.pfx.isNone) {}
    need (c.core == mgmtCore) ⟨.prot, some (wval (Config.freeWord s.steps)), none⟩
    if usesBusy c us then .ok (s.hold c 11)
    else if flagWait c f.pred c.e.fb then .ok (s.hold c 2 c.e.fb)
    else
      need (uniform c srcs) (Trap.nonUniform c)
      let acts ← rowActs c f.pred
      if !acts then .ok (s.finish c c.r) else go c)

/-- The instruction completes at once with a status. -/
def State.privDone (s : State) (c : Ctx) (d v : Int) : State :=
  s.modRow c.ref (fun r => wrRow c.gen0 c.w r c.act d v)

/-! ### REPLAY (R408, 12 R225 to R229) -/

/-- Change every row of the device. -/
def State.modRows (s : State) (f : Row → Row) : State :=
  { s with gangs := s.gangs.map (fun (g : Gang) =>
      { g with blocks := g.blocks.map (fun (b : Block) => { b with rows := b.rows.map f }) }) }
/-- A command held under an entry goes on. -/
def unholdCmd (die : Nat) (idx : Int) (e : SlotEntry) : SlotEntry :=
  match e with
  | .cmd c => .cmd (if c.held = some (die, idx) then { c with held := none } else c)
  | .join i => .join i
/-- A row waits under an entry no more. -/
def Row.replayed (die : Nat) (idx : Int) (r : Row) : Row :=
  { r with
    fault := r.fault.map (fun (f : FaultRec) => { f with units := f.units.filter (· != (die, idx)) })
    slots := r.slots.map (fun (x : EngSlot) => { x with entries := x.entries.map (unholdCmd die idx) }) }
/-- The generation an entry gets when it is freed: −13 .. +13 in turn. -/
def nextEntryGen (g : Int) : Int := if g = 13 then -13 else g + 1
/-- Free an entry of a die's wait table. -/
def State.freeEntry (s : State) (die : Nat) (idx : Int) : State :=
  s.modDie die (fun d => { d with freed := d.freed || !d.overflow.isEmpty, waits := d.waits.map (fun (w : WaitEntry) =>
    if w.idx = idx ∧ w.live then { w with live := false, gen := nextEntryGen w.gen } else w) })
/-- Replay an entry: every row and command under it is marked, and the entry is freed (12 R228). -/
def State.replayEntry (s : State) (die : Nat) (idx : Int) : State := (s.modRows (Row.replayed die idx)).freeEntry die idx

/-- The live entry a token names (12 R225). -/
def State.tokenEntry (s : State) (die : Nat) (tok : Int) : Option WaitEntry :=
  (s.die die).waits.find? (fun w => w.live && w.idx == field tok 0 6 && w.gen == field tok 6 3)
/-- The die and token of REPLAY's operands (R407). -/
def tokenOk (a b : Int) : Bool := decide (0 ≤ a ∧ a ≤ 11) && field b 9 18 == 0

/-- REPLAY.tok (R408). -/
def execReplayTok (f : FA) (s : State) : Host.Outcome State Fault Refusal :=
  privileged s f true true (fun c => do
    let a := rdRow c f.a
    let b := rdRow c f.b
    need (tokenOk a b) Trap.illmod
    .ok (match s.tokenEntry a.toNat b with
      | some w => ((s.finish c c.r).replayEntry a.toNat w.idx).privDone c f.dst 1
      | none => (s.finish c c.r).privDone c f.dst 0))

/-- The live entries of a field that contain an address, on every die. -/
def State.pageEntries (s : State) (fld : Nat) (va : Int) : List (Nat × Int) :=
  s.dies.zipIdx.flatMap (fun q => (q.1.waits.filter (fun w => w.live && w.fld == fld && w.unit == unitOf w.level va)).map
    (fun w => (q.2, w.idx)))

/-- REPLAY.page (R408). -/
def execReplayPage (f : FA) (s : State) : Host.Outcome State Fault Refusal :=
  privileged s f true true (fun c => do
    let a := rdRow c f.a
    need (decide (0 ≤ a ∧ a ≤ 11)) Trap.illmod
    let es := s.pageEntries a.toNat (rdRow c f.b)
    .ok ((es.foldl (fun s e => s.replayEntry e.1 e.2) (s.finish c c.r)).privDone c f.dst (es.length : Int)))

/-- Insert a row reference by %blk, then %row. -/
def insRef (x : RowRef) : List RowRef → List RowRef
  | [] => [x]
  | y :: r => if x.blk < y.blk ∨ (x.blk = y.blk ∧ x.row < y.row) then x :: y :: r else y :: insRef x r
/-- The rows parked under an entry, in ascending %blk and %row. -/
def State.parkedUnder (s : State) (die : Nat) (idx : Int) : List RowRef :=
  ((s.allRows.filter (fun q => (q.2.2.2.fault.map (fun f => f.units.contains (die, idx))).getD false)).map (·.1)).foldl
    (fun l x => insRef x l) []
/-- The commands an entry holds. -/
def State.heldUnder (s : State) (die : Nat) (idx : Int) : List (RowRef × Nat × Cmd) :=
  s.allRows.flatMap (fun q => (List.range 9).filterMap (fun k =>
    match q.2.2.2.headCmd k with
    | some c => if c.held = some (die, idx) then some (q.1, k, c) else none
    | none => none))

/-- A parked row traps PAGE at its instruction (12 R226). -/
def State.failRow (s : State) (ref : RowRef) : State :=
  match (s.row? ref).bind (·.fault) with
  | none => s
  | some f =>
    match s.faultCtx ref f with
    | none => s
    | some c => takeTrap s { c with r := c.r.endFault f.op } ⟨.page, some (wval f.info), none⟩
/-- A held command fails with PAGE (18 R336): a collective's with its whole instance (log 34). -/
def State.failHeld (s : State) (q : RowRef × Nat × Cmd) : State :=
  match s.colls.find? (fun x => q.2.1 == 7 && x.arrived.any (fun a => a.1 == q.1)) with
  | some x => s.failInstance x .page (wval q.2.2.faultVa) 0 0
  | none => s.failCmd q.1 q.2.1 q.2.2 .page (wval q.2.2.faultVa) 0 0
/-- Fail an entry: its rows trap in order, its commands fail, and it is freed (12 R228). -/
def State.failEntry (s : State) (die : Nat) (idx : Int) : State :=
  let s := (s.parkedUnder die idx).foldl (fun s r => s.failRow r) s
  let s := (s.heldUnder die idx).foldl (fun s q => s.failHeld q) s
  s.replayEntry die idx

/-- REPLAY.fail (R408). -/
def execReplayFail (f : FA) (s : State) : Host.Outcome State Fault Refusal :=
  privileged s f true true (fun c => do
    let a := rdRow c f.a
    let b := rdRow c f.b
    need (tokenOk a b) Trap.illmod
    .ok (match s.tokenEntry a.toNat b with
      | some w => ((s.finish c c.r).failEntry a.toNat w.idx).privDone c f.dst 1
      | none => (s.finish c c.r).privDone c f.dst 0))

/-! ### TLBI (R409, 12 R223) -/

/-- TLBI issues: a release at .pkg, then the removals and the wait for the accesses they concern follow (log 39). -/
def tlbi (s : State) (f : FA) (hasB : Bool) (va : Ctx → Option Word) : Host.Outcome State Fault Refusal :=
  privileged s f false hasB (fun c => do
    let a := rdRow c f.a
    need (decide (0 ≤ a ∧ a ≤ 11)) Trap.illmod
    let o : TlbiOp := ⟨a.toNat, va c, c.e.fb, s.steps, none⟩
    .ok (s.finish c ({ s.marked c c.r 4 with tlbis := c.r.tlbis ++ [o] }.flagUp c.e.fb)))

/-- TLBI.fld (R409). -/
def execTlbiFld (f : FA) (s : State) : Host.Outcome State Fault Refusal := tlbi s f false (fun _ => none)
/-- TLBI.va (R409). -/
def execTlbiVa (f : FA) (s : State) : Host.Outcome State Fault Refusal := tlbi s f true (fun c => some (word (rdRow c f.b)))

/-! ### STALL (07 R128, R129) -/

/-- The group that would issue next: when every group is parked, the first of the table (07 R117). -/
def stallHead (r : Row) : Option PcEntry :=
  (chooseHead r).orElse (fun _ => r.pct.find? (fun e => entryOpen r { e with park := false }))
/-- KIND, FLAG and SLOT of a wait (07 Table 7.3). -/
def Wait.info (w : Wait) : Int := w.kind + 81 * w.flag + 6561 * w.slot
/-- A synchronising instruction parks the group of an entry. -/
def SyncOp.parks (e : PcEntry) (o : SyncOp) : Bool :=
  if o.stuck then e.threads.any o.owners.contains else o.pos == e.addr && !o.group.isEmpty
/-- TRAPINFO of STALL: 7 for a head parked on a scratch word, 10 for one in a SLEEP without timeout, else the row's wait. -/
def stallInfo (r : Row) (e : PcEntry) : Int :=
  if !e.park then (r.wait.map Wait.info).getD 0
  else if r.parks.any (SyncOp.parks e) then 7
  else if r.sleeps.any (fun z => z.pos == e.addr) then 10
  else 0
/-- The instruction that parks an entry is given up: its owed registers and its count end. -/
def Row.giveUp (r : Row) (e : PcEntry) : Row :=
  let r := (r.parks.filter (SyncOp.parks e)).foldl (fun r o => (r.paid o.owed).flagDown o.flag) r
  let r := (r.sleeps.filter (fun z => z.pos == e.addr)).foldl (fun r z => r.paid [z.dst]) r
  { r with parks := r.parks.filter (fun o => !o.parks e), sleeps := r.sleeps.filter (fun z => z.pos != e.addr) }

/-- STALL_WATCHDOG_EXPIRY (07 R128): a row whose count has run out and that still holds a group traps. -/
def execStallWatchdogExpiry (r : RowRef) (s : State) : Host.Outcome State Fault Refusal :=
  match s.row? r, s.ctxBy r stallHead with
  | some x, some c =>
    if x.stall < 3 ^ 21 ∨ c.blocked then .next s
    else .next (takeTrap s { c with r := x.giveUp c.e } ⟨.stall, some (stallInfo x c.e), none⟩)
  | _, _ => .next s

end Sys2Proof.Machine
end

