-- ==== Sys2Proof/Machine/Saves.lean ====
section
/-!
DEFINITION. Saving gangs: CTXS, the halt, save areas and their images (23 R405, R406, R410, R411, R416, R417).
-/
namespace Sys2Proof.Machine

/-! ### Save areas (R410) -/

/-- Up to n lines from line i of a die on, in ascending order, that lie in owned channels. -/
def runFrom (own : Nat → Bool) : Nat → Nat → Nat → List Nat
  | 0, _, _ => []
  | _ + 1, 0, _ => []
  | fuel + 1, n + 1, i =>
    if dieLines ≤ i then []
    else if own (i / 729 % 32) then i :: runFrom own fuel n (i + 1)
    else runFrom own fuel (n + 1) (729 * (i / 729 + 1))
/-- Lines of the address range of a die: device line m lies on die m / 3^23. -/
def rangeLines : Nat := 94143178827
/-- The first n lines of a field's run from device line m, as device line numbers. -/
def State.runLines (s : State) (f m n : Nat) : List Nat :=
  let d := m / rangeLines
  if 12 ≤ d then []
  else (runFrom (fun c => (s.chans.getD (32 * d + c) ⟨-1, 0⟩).owner == (f : Int)) (n + 32 * (n / 729 + 2)) n
    (m % rangeLines)).map (fun i => d * rangeLines + i)
/-- The run from a line, when the line itself lies in it: empty otherwise. -/
def State.areaLines (s : State) (f : Nat) (m : Int) (n : Nat) : List Nat :=
  if m < 0 then []
  else
    let l := s.runLines f m.toNat n
    if l.head? = some m.toNat then l else []

/-! ### The private pool (05 R86) -/

/-- Owned lines of a die below line i. -/
def ownedBelow (own : Nat → Bool) (i : Nat) : Nat :=
  let p := i / 729
  let all := ((List.range 32).filter own).length
  let part := ((List.range (p % 32)).filter own).length
  729 * (p / 32 * all + part) + (if own (p % 32) then i % 729 else 0)
/-- Lines of a field's pool that allocations take. -/
def State.poolTaken (s : State) (f : Nat) : List Nat := (s.fieldSt f).pool.flatMap (·.lines)
/-- The lowest free range of n lines of a field's pool, as device line numbers. -/
def State.poolRange (s : State) (f n : Nat) (taken : List Nat) : Option (List Nat) :=
  let base := wval (s.fieldSt f).ppbase
  let size := wval (s.fieldSt f).ppsize
  if n = 0 then some []
  else if base < 0 ∨ size ≤ 0 ∨ 12 * (rangeLines : Int) ≤ base then none
  else
    let d := base.toNat / rangeLines
    let i0 := base.toNat % rangeLines
    let own (c : Nat) : Bool := (s.chans.getD (32 * d + c) ⟨-1, 0⟩).owner == (f : Int)
    let starts := i0 :: ((taken.filter (fun m => m / rangeLines == d)).map (fun m => m % rangeLines + 1)).filter (fun i => decide (i0 ≤ i))
    let fits (i : Nat) : Option (List Nat) :=
      let l := runFrom own (n + 32 * (n / 729 + 2)) n i
      let last := (l.getLast?).getD i
      if l.length = n ∧ ((ownedBelow own last - ownedBelow own i0 : Nat) : Int) < size ∧
          l.all (fun x => !taken.contains (d * rangeLines + x)) then some (l.map (fun x => d * rangeLines + x)) else none
    (starts.filterMap fits).foldl (fun (a : Option (List Nat)) l =>
      match a with
      | none => some l
      | some m => if l.headD 0 < m.headD 0 then some l else some m) none

/-! ### Sizes (R410, R417) -/

/-- Lines that hold n words. -/
def linesOf (n : Nat) : Nat := (n + 8) / 9
/-- The bound of R410. -/
def nativeBound (l : LaunchRec) : Nat :=
  4 + l.blks * (27 + l.rows * 729 + linesOf (l.rows * l.block + l.scr + (l.scr + 26) / 27))
/-- Lines of a row section with n PC entries (R417). -/
def rowSection (w n : Nat) : Nat := linesOf (9 + 4 * n) + 27 * w + linesOf w
/-- The size of R417 with the most PC entries a row can hold (log 40). -/
def portableBound (l : LaunchRec) : Nat :=
  4 + l.blks * (3 + linesOf l.scr + linesOf ((l.scr + 26) / 27) + linesOf (l.rows * l.width * l.priv) +
    l.rows * rowSection l.width l.width) + linesOf l.clen
/-- The bound of a kind of image: 0 native, 1 portable. -/
def imageBound (kind : Int) (l : LaunchRec) : Nat := if kind = 1 then portableBound l else nativeBound l

/-- The words of a device line. -/
def State.devLine (s : State) (m : Nat) : List Word := lineWords (s.lineAt ⟨.hbm, 27 * m⟩)
/-- Write nine words at a device line. -/
def State.putDevLine (s : State) (m : Nat) (ws : List Word) : State :=
  s.homeWrite ⟨.hbm, 27 * m⟩ (ws.zipIdx.flatMap (fun q => wordTrytes (3 * q.2) q.1)) false none
/-- Write successive words, nine to a line, along a run. -/
def State.putRun (s : State) : List Nat → List Word → State
  | [], _ => s
  | m :: r, ws =>
    let here := ws.take 9
    (s.putDevLine m (here ++ List.replicate (9 - here.length) 0)).putRun r (ws.drop 9)

/-! ### Headers (R410) -/

/-- MAGIC of a save area. -/
def saveMagic : Int := -2859599056870
/-- The generation of the oldest saved PC. -/
def oldestGen (s : State) (g : Gang) : Int :=
  let refs := g.codeRefs
  match s.slot? g.fld g.lrec.slot with
  | none => g.lrec.gen
  | some sl => ((sl.gens.find? (fun x => refs.contains (sl.slot, x.gen))).map (·.gen)).getD g.lrec.gen
/-- CODE with another GEN. -/
def codeWithGen (l : LaunchRec) (gen : Int) : Word := word (l.w 0 - l.gen * 3 ^ 24 + gen * 3 ^ 24)
/-- The four header lines. -/
def saveHeader (s : State) (g : Gang) (kind : Int) (lines : Nat) : List Word :=
  let obj := ((s.slot? g.fld g.lrec.slot).map (·.words)).getD []
  let rec_ := (List.range 18).map (fun k => g.lrec.words.getD k 0)
  [word saveMagic, Config.revId, Config.serial, g.gid, word kind, word lines, word g.lrec.slot,
    word (s.timeWords 12).1, word (s.timeWords 12).2] ++
  valWords (intOfBytes (objDigest obj)) ++ [word (objW obj 1), 0] ++ rec_.set 0 (codeWithGen g.lrec (oldestGen s g))

/-! ### Portable images (R417) -/

/-- Words up to the next line boundary. -/
def padLine (ws : List Word) : List Word := ws ++ List.replicate (9 * linesOf ws.length - ws.length) 0
/-- A safe point a group stands at, in its own generation. -/
def State.safeAt (s : State) (f : Nat) (a : CodeAddr) : Option SafePoint :=
  (s.gener? f a.slot a.gen).bind (fun g => g.tr.safe.find? (fun p => p.stands == a.idx))
/-- The portable code address of a safe point. -/
def State.portableAddr (s : State) (f : Nat) (a : CodeAddr) : CodeAddr :=
  if a.gen = 0 then a
  else
    match (s.safeAt f a).bind (fun p => (s.gener? f a.slot 0).bind (fun g => g.tr.safe.find? (fun q => q.portable == p.portable))) with
    | some q => ⟨0, a.slot, q.idx⟩
    | none => ⟨0, a.slot, 0⟩
/-- The portable register of a thread whose group stands at a safe point. -/
def State.portableReg (s : State) (c : Ctx) (p t : Nat) : Word :=
  if c.e.addr.gen = 0 then c.r.preg c.w p t
  else
    match (s.safeAt c.fld c.e.addr).bind (fun q => q.places.find? (fun x => x.1 == p)) with
    | some x => placeVal c p x.2 t
    | none => 0
/-- Word k of a set of threads: trit p mod 27 of word p / 27. -/
def threadWord (ts : List Nat) (k : Nat) : Word :=
  word ((ts.filter (fun p => p / 27 == k)).foldl (fun a p => a + 3 ^ (p % 27)) 0)
/-- The section of a row. -/
def rowImage (s : State) (g : Gang) (b : Block) (r : Row) : List Word :=
  let w := g.lrec.width
  let ctx (e : PcEntry) : Ctx := ⟨⟨g.gid, b.blk, r.row⟩, g, b, r, e, 0⟩
  let head := [word r.pct.length, r.mxst, r.sat, r.zero, r.ovf, r.escpol, if r.watch.armed then r.watch.va else 0,
    word (if r.watch.trig then 1 else 0), 0]
  let entries := r.pct.flatMap (fun e =>
    (s.portableAddr g.fld e.addr).toWord :: (List.range 3).map (threadWord e.threads))
  let reg (p t : Nat) : Word :=
    match r.pct.find? (fun e => e.threads.contains t) with
    | some e => s.portableReg (ctx e) p t
    | none => 0
  padLine (head ++ entries) ++ (List.range 243).flatMap (fun p => (List.range w).map (reg p)) ++
    padLine ((List.range w).map (fun t => word (stateWord r t)))
/-- Words of a block's private range. -/
def privWords (s : State) (b : Block) (n : Nat) : List Word :=
  (List.range n).map (fun k => s.wordAt ⟨.hbm, b.privLines.getD (k / 9) 0 + 3 * (k % 9)⟩)
/-- The words of state trits of a block's scratch. -/
def stateTrits (b : Block) (scr : Nat) : List Word :=
  (List.range ((scr + 26) / 27)).map (fun k => word ((List.range 27).foldl (fun a i =>
    if 27 * k + i < scr then a + (b.word (27 * k + i)).2.toInt * 3 ^ i else a) 0))
/-- The section of a block. -/
def blockImage (s : State) (g : Gang) (b : Block) : List Word :=
  let l := g.lrec
  (List.range 9).flatMap (fun n => [word (b.bar n).exp, word (b.bar n).cnt, (b.bar n).ph]) ++
    padLine ((List.range l.scr).map (fun n => (b.word n).1)) ++ padLine (stateTrits b l.scr) ++
    padLine (privWords s b (l.rows * l.width * l.priv)) ++ b.rows.flatMap (rowImage s g b)
/-- What follows the header of a portable image. -/
def portableImage (s : State) (g : Gang) : List Word := g.blocks.flatMap (blockImage s g) ++ padLine g.consts
/-- What follows the header of a native image: its extent within the bound, and its words, are free (log 7). -/
def nativeImage (s : State) (g : Gang) : List Word :=
  (List.range (9 * (Config.imageLines s.steps % (nativeBound g.lrec - 3)))).map (Config.imageWord s.steps)

/-! ### CTXS (R411) -/

/-- The gang has retired in part: every row has ended. -/
def Gang.rowsOver (g : Gang) : Bool := g.blocks.all (fun b => b.rows.all (·.ended))
/-- Some row has a group. -/
def State.gangCyc (s : State) (g : Gang) : Nat := (s.die (((g.blocks.head?).map (·.core)).getD 0 / 80)).cyc

/-- CTXS and CTXS.port: the checks, then the request, which waits for a gang being placed until its rows are ready (R411). -/
def ctxs (s : State) (f : FA) (port : Bool) : Host.Outcome State Fault Refusal :=
  privileged s f true true (fun c =>
    let m := rdRow c f.b
    let done (v : Int) : Except Trap State := .ok ((s.finish c c.r).privDone c f.dst v)
    match s.gang? (word (rdRow c f.a)) with
    | none => done 0
    | some g =>
      let n := imageBound (if port then 1 else 0) g.lrec
      if (g.status ≠ .resident ∧ g.status ≠ .waking) ∨ g.saveTo.isSome ∨ g.rowsOver then done 0
      else if port ∧ g.lrec.gangs ≠ 1 then done (-3)
      else if (s.areaLines g.fld m n).length < n then done (-1)
      else
        let q : SaveTo := ⟨c.ref, f.dst, c.e.fb, c.gen0, c.act⟩
        let t := s.finish c ((c.r.owe [f.dst]).flagUp c.e.fb)
        .ok (t.modGang g.gid (fun (x : Gang) =>
          { x with saveTo := some q, saveLine := m.toNat, portHalt := port, deadline := s.gangCyc g + 3 ^ 21 })))

/-- CTXS (R411). -/
def execCtxs (f : FA) (s : State) : Host.Outcome State Fault Refusal := ctxs s f false
/-- CTXS.port (R411). -/
def execCtxsPort (f : FA) (s : State) : Host.Outcome State Fault Refusal := ctxs s f true

/-! ### The halt (R405, R416) -/

/-- A row meets R416: every group held, no flag counted, no handler, nothing parked or faulted, no open run, slots empty. -/
def Row.portReady (r : Row) : Bool :=
  r.ended || (r.pct.all (·.park) && r.sleeps.isEmpty && r.parks.isEmpty && r.fault.isNone && !r.handler.active &&
    r.runs.all (fun x => !x.open_) && r.flags.all (· == 0) && r.busy.isEmpty && r.slots.all (fun x => x.entries.isEmpty))
def Gang.portReady (g : Gang) : Bool := g.blocks.all (fun b => b.rows.all Row.portReady)

/-! ### Quad leave (24 R427) -/

/-- The gang has a block on a quad that is in leave. -/
def State.onLeaving (s : State) (g : Gang) : Bool :=
  g.blocks.any (fun b => !b.retired && (s.quads.getD (b.core / 4) ⟨-1, 0⟩).phase == 1)
/-- The block number under which the pool lists a save area of the management core. -/
def areaBlk : Nat := 8
/-- The save area that the management core finds for a gang it moves: the lowest free range of the pool. -/
def State.leaveArea (s : State) (g : Gang) : Option (List Nat) :=
  s.poolRange g.fld (nativeBound g.lrec) (s.poolTaken g.fld)
/-- A gang halts. The save to come is a release at .pkg by each of its rows (23 R406, 19 R356), with its mark in the FIFO. -/
def State.haltGang (s : State) (g : Gang) (f : Gang → Gang) : State :=
  let mark (ref : RowRef) (r : Row) : Row :=
    if r.ended then r
    else { r with fifo := r.fifo ++ [⟨.mark, 0, [], 0, 0, false, 4, 0, 0, false, false, false, false, ref, [], s.steps⟩] }
  s.modGang g.gid (fun x => f { x with blocks := x.blocks.map (fun (b : Block) =>
    { b with rows := b.rows.map (fun r => mark ⟨g.gid, b.blk, r.row⟩ r) }) })
/-- The management core saves the gang into an area. -/
def State.leaveSave (s : State) (g : Gang) (area : List Nat) : State :=
  (s.modField g.fld (fun f => { f with pool := f.pool ++ [⟨g.gid, areaBlk, area⟩] })).haltGang g (fun x =>
    { x with status := .halting, mgmt := true, saveLine := area.headD 0 })
/-- The area goes back to the pool. -/
def State.freeArea (s : State) (g : Gang) : State :=
  s.modField g.fld (fun f => { f with pool := f.pool.filter (fun a => !(a.gid == g.gid && a.blk == areaBlk)) })
/-- The dies on which a field owns a usable quad, as a die mask. -/
def State.usableDies (s : State) (f : Nat) : Word :=
  word ((List.range 12).foldl (fun (a : Int) d =>
    if (List.range 20).any (fun q => s.quadUsable (20 * d + q) && (s.quads.getD (20 * d + q) ⟨-1, 0⟩).owner == (f : Int))
    then a + 3 ^ d else a) 0)

/-- PREEMPT_HALT (R405): the request reaches the gang's cores; a portable halt succeeds first (R416). A gang on a
quad in leave is halted for the management core, once the pool has an area for it (24 R427). A prefix issued
alone is given up: the prefixed instruction is one boundary. -/
def execPreemptHalt (gid : Word) (s : State) : Host.Outcome State Fault Refusal :=
  match s.gang? gid with
  | none => .next s
  | some g =>
    if g.status ≠ .resident ∨ (g.portHalt ∧ !g.portReady) then .next s
    else if g.saveTo.isNone then
      if s.onLeaving g && !g.rowsOver then .next (((s.leaveArea g).map (s.leaveSave g)).getD s) else .next s
    else .next (s.haltGang g (fun x => { x with status := .halting }))

/-- The held groups of a row are released. -/
def Row.released (r : Row) : Row :=
  { r with held := false, pct := r.pct.map (fun (e : PcEntry) => { e with park := e.park && e.threads.all (r.parkedAt e.addr).contains }) }
/-- Change every row of a gang. -/
def Gang.modRows (g : Gang) (f : Row → Row) : Gang :=
  { g with blocks := g.blocks.map (fun (b : Block) => { b with rows := b.rows.map f }) }

/-- PORTABLE_HALT_TIMEOUT (R416): not reached in 3^21 cycles, the gang runs on and CTXS writes −2. -/
def execPortableHaltTimeout (gid : Word) (s : State) : Host.Outcome State Fault Refusal :=
  match s.gang? gid with
  | none => .next s
  | some g =>
    if !g.portHalt || g.status != .resident || g.saveTo.isNone || g.portReady || decide (s.gangCyc g < g.deadline) then .next s
    else .next ((s.answerSave g (-2)).modGang gid (fun x => { x.modRows Row.released with portHalt := false }))

/-! ### The save (R406, Table 23.2) -/

/-- A sleeping group's instruction is issued again on restore. -/
def Row.unsleep (r : Row) (z : SleepOp) : Row :=
  { r.paid [z.dst] with pct := r.pct.map (fun (e : PcEntry) => if e.addr = z.pos then { e with park := e.threads.all (fun t => (r.parkedAt z.pos).contains t) } else e) }
/-- A command as saved: no wait-table entry holds it, and a withdrawn COLL arrives again. -/
def savedEntry (inst : Bool) (e : SlotEntry) : SlotEntry :=
  match e with
  | .cmd c => .cmd { c with held := none, spill := false, started := c.started && (c.kind != .coll || inst) }
  | .join i => .join i
/-- A row as saved; `inst` says that an instance still counts its arrival. -/
def Row.saved (r : Row) (inst : Bool) : Row :=
  let r := r.sleeps.foldl Row.unsleep { r with sleeps := [] }
  Row.choose { r with
    pfx := none, wait := none, stall := 0, waitS := 0, waitV := 0, ahead := none, vs := []
    fault := r.fault.map (fun (f : FaultRec) => { f with units := [], overflow := false })
    runs := r.runs.map (fun (x : Run) => { x with holds := [], latch := none })
    slots := r.slots.map (fun (x : EngSlot) => { x with entries := x.entries.map (savedEntry inst) }) }

/-- Copies that the gang's cores keep are dropped (16 R291, 13 R232). -/
def State.dropForSave (s : State) (g : Gang) : State :=
  g.blocks.foldl (fun s b =>
    let s := (blockHolders s g b).foldl (fun s h => s.dropCopies b.core (s.footprint h.fld h.desc)) s
    s.modCore b.core (fun (k : Core) => { k with l1 := [] })) s
/-- The gang's queued escalation events leave its cores (17 R319). -/
def State.takeEvents (s : State) (g : Gang) : State :=
  let mine (e : EscEvent) : Bool := e.who.gid == g.gid
  let es := s.cores.flatMap (fun k => k.escq.filter mine)
  { s with cores := s.cores.map (fun (k : Core) => { k with escq := k.escq.filter (fun e => !mine e) }) }.modGang g.gid
    (fun (x : Gang) => { x with events := es })
/-- The gang as saved. -/
def State.storeGang (s : State) (gid : Word) : State :=
  let inst (ref : RowRef) : Bool := s.colls.any (fun x => x.arrived.any (fun q => q.who == ref))
  let s := { s with dies := s.dies.map (fun (d : DieSt) => { d with overflow := d.overflow.filter (fun q => q.1.gid != gid) }) }
  s.modGang gid (fun (g : Gang) => { g with
    status := .saved, saveOrder := s.steps
    blocks := g.blocks.map (fun (b : Block) =>
      { b with rows := b.rows.map (fun r => r.saved (inst ⟨gid, b.blk, r.row⟩)) }) })

/-- A native image with a header stands for the gang as it is saved (log 7). -/
def State.keepImage (s : State) (port : Bool) (h : List Word) : State :=
  match s.gang? (h.getD 3 0) with
  | some g => if port then s else { s with images := s.images ++ [⟨g.gid, h.getD 7 0, h.getD 8 0, { g with saveTo := none }⟩] }
  | none => s
/-- The image is written and the gang's cores are free. -/
def State.saveGang (s : State) (g : Gang) : State :=
  let body := if g.portHalt then portableImage s g else nativeImage s g
  let n := 4 + linesOf body.length
  let area := s.areaLines g.fld (g.saveLine : Int) n
  let h := saveHeader s g (if g.portHalt then 1 else 0) n
  let s := s.putRun area (h ++ body)
  let s := ((s.withdrawColls g.gid).dropForSave g).takeEvents g
  let s := (((s.flight 4).storeGang g.gid).keepImage g.portHalt h).answerSave g 1
  let s := s.report 3 g.gid
  if g.mgmt then s.modGang g.gid (fun (x : Gang) => { x with status := .restoring, dieMask := s.usableDies g.fld }) else s

/-- The lines a save writes, where the host may hold some or a die sleeps. -/
def State.saveSnoop (s : State) (g : Gang) : List Loc :=
  if s.hostLines.isEmpty && s.dies.all (fun d => d.fallow != 3) then [] else (s.areaLines g.fld (g.saveLine : Int) (imageBound (if g.portHalt then 1 else 0) g.lrec)).map (fun m => ⟨.hbm, 27 * m⟩)

/-- CONTEXT_SAVE_COMPLETE (R406, R411): with everything drained, partials are flushed, tenures recalled for a portable
image, the image is written and the status with it. -/
def execContextSaveComplete (gid : Word) (s : State) : Host.Outcome State Fault Refusal :=
  match s.gang? gid with
  | none => .next s
  | some g =>
    if g.status ≠ .halting then .next s
    else if g.rowsOver then
      let s := if g.mgmt then s.freeArea g else s
      .next ((s.answerSave g 0).modGang gid (fun (x : Gang) => { x with status := .resident, mgmt := false }))
    else if !s.gangDrained g then .next s
    else
      let hs := g.blocks.flatMap (blockHolders s g)
      if g.portHalt && !hs.isEmpty then .next (hs.foldl (fun s h => s.startRecall true h) s)
      else
        let parts := g.blocks.flatMap (fun b => b.partials.map (·.line))
        match s.snoopFirst true (parts ++ s.saveSnoop g) with
        | some t => .next (t.await (.event (.contextSaveComplete gid)) 0 (parts ++ s.saveSnoop g))
        | none =>
          let t := g.blocks.foldl (fun s b => s.flushBlock ⟨gid, b.blk, 0⟩ parts) s
          .next (((t.gang? gid).map (fun x => t.saveGang x)).getD t)

end Sys2Proof.Machine
end

