-- ==== Sys2Proof/Machine/Restores.lean ====
section
/-!
DEFINITION. CTXR: the checks of an image, the gang a portable image holds, and the drop of a saved gang (23 R412, R417,
R418).
-/
namespace Sys2Proof.Machine

/-! ### An image's header -/

/-- The words of an image from its first line on, along its run. -/
def State.imageWords (s : State) (f : Nat) (m : Int) (lines : Nat) : List Word :=
  (s.areaLines f m lines).flatMap s.devLine
/-- The field that a header's GID names; none when it names none. -/
def gidField (gid : Int) : Option Nat :=
  let f := field gid 24 3
  if 0 ≤ f ∧ f < 12 then some f.toNat else none
/-- The header at a line: its 36 words, with the field; none when no area can begin there. -/
def State.header (s : State) (m : Int) : Option (Nat × List Word) :=
  match (if 0 ≤ m then gidField (wval ((s.devLine m.toNat).getD 3 0)) else none) with
  | none => none
  | some f =>
    let ws := s.imageWords f m 4
    if ws.length = 36 then some (f, ws) else none
/-- Fields of a header (R410). -/
def hdrW (h : List Word) (k : Nat) : Int := wval (h.getD k 0)
def hdrGid (h : List Word) : Word := h.getD 3 0
def hdrKind (h : List Word) : Int := hdrW h 4
def hdrLines (h : List Word) : Nat := (hdrW h 5).toNat
def hdrSlot (h : List Word) : Int := hdrW h 6
def hdrRec (h : List Word) : LaunchRec := ⟨h.drop 18⟩

/-- The object of a portable image is the one its slot holds. -/
def State.sameObject (s : State) (f : Nat) (h : List Word) : Bool :=
  match s.slot? f (hdrSlot h) with
  | none => false
  | some sl =>
    sl.state == 2 && (h.drop 9).take 7 == valWords (intOfBytes (objDigest sl.words)) && hdrW h 16 == objW sl.words 1

/-- The checks of R412 on a header. -/
def State.ctxrChecks (s : State) (drop : Bool) (f : Nat) (h : List Word) : Int :=
  let kind := hdrKind h
  if hdrW h 0 ≠ saveMagic ∨ (kind ≠ 0 ∧ kind ≠ 1) ∨ (imageBound kind (hdrRec h) : Int) < hdrW h 5 then -1
  else if drop ∧ kind = 1 then -5
  else if kind = 0 ∧ (h.getD 1 0 ≠ Config.revId ∨ h.getD 2 0 ≠ Config.serial) then -2
  else if kind = 1 ∧ !s.sameObject f h then -3
  else if s.gangs.any (fun g => g.gid == hdrGid h && g.status != .saved) then -4
  else 1

/-! ### The gang of a portable image (R417, R418) -/

/-- The record of a restored portable gang: its slot is the one the header names. -/
def portableRec (h : List Word) : LaunchRec :=
  let l := hdrRec h
  ⟨l.words.set 0 (word (l.w 0 - l.slot * 3 ^ 19 + hdrSlot h * 3 ^ 19))⟩
/-- A PC entry of a row section. -/
def parsePc (slot : Int) (w : Nat) (ws : List Word) : PcEntry :=
  let a := CodeAddr.ofWord (ws.getD 0 0)
  ⟨⟨0, slot, a.idx⟩, (List.range w).filter (fun p => trit (wval (ws.getD (1 + p / 27) 0)) (p % 27) == 1), false, false, 0, 0, 0⟩
/-- A row from its section, and the words behind it. -/
def parseRow (l : LaunchRec) (n : Nat) (ws : List Word) : Row × List Word :=
  let w := l.width
  let k := Min.min (wval (ws.getD 0 0)).toNat w
  let head := 9 * linesOf (9 + 4 * k)
  let es := (List.range k).map (fun e => parsePc l.slot w ((ws.drop (9 + 4 * e)).take 4))
  let body := ws.drop head
  let va := ws.getD 6 0
  let r := newRow l n ⟨0, l.slot, 0⟩
  let r := { r with
    pct := es.foldl (fun t e => insEntry (fun _ => 0) e t) []
    ended := k == 0
    mxst := ws.getD 1 0, sat := ws.getD 2 0, zero := ws.getD 3 0, ovf := ws.getD 4 0, escpol := ws.getD 5 0
    watch := ⟨va != 0, true, va, Loc.none_⟩
    pregs := body.take (243 * w) }
  let st := body.drop (243 * w)
  ((List.range w).foldl (fun r t => r.setStateWord t (wval (st.getD t 0))) r, st.drop (9 * linesOf w))
/-- Rows n .. n + k − 1. -/
def parseRows (l : LaunchRec) : Nat → Nat → List Word → List Row × List Word
  | 0, _, ws => ([], ws)
  | k + 1, n, ws =>
    let x := parseRow l n ws
    let y := parseRows l k (n + 1) x.2
    (x.1 :: y.1, y.2)
/-- A block's scratch from its words and state trits. -/
def parseScratch (b : Block) (scr : Nat) (ws st : List Word) : Block :=
  (List.range scr).foldl (fun b n => b.setWord n (ws.getD n 0, Trit.ofSign (trit (wval (st.getD (n / 27) 0)) (n % 27)))) b
/-- A block from its section, and the words behind it; its private words are copied when it is placed. -/
def parseBlock (l : LaunchRec) (blk : Nat) (ws : List Word) : Block × List Word :=
  let bar (n : Nat) : Barrier := ⟨(wval (ws.getD (3 * n) 0)).toNat, (wval (ws.getD (3 * n + 1) 0)).toNat, ws.getD (3 * n + 2) 0⟩
  let s0 := ws.drop 27
  let t0 := s0.drop (9 * linesOf l.scr)
  let p0 := t0.drop (9 * linesOf ((l.scr + 26) / 27))
  let rs := parseRows l l.rows 0 (p0.drop (9 * linesOf (l.rows * l.width * l.priv)))
  let b : Block := { newBlock l blk 0 ⟨0, l.slot, 0⟩ [] with rows := rs.1, bars := (List.range 9).map bar }
  (parseScratch b l.scr s0 t0, rs.2)
/-- Blocks k .. k + n − 1. -/
def parseBlocks (l : LaunchRec) : Nat → Nat → List Word → List Block × List Word
  | 0, _, ws => ([], ws)
  | n + 1, k, ws =>
    let x := parseBlock l k ws
    let y := parseBlocks l n (k + 1) x.2
    (x.1 :: y.1, y.2)
/-- The private words of each block of an image, from the words behind its header. -/
def parsePrivs (l : LaunchRec) : Nat → List Word → List (List Word)
  | 0, _ => []
  | n + 1, ws =>
    let p := ws.drop (27 + 9 * linesOf l.scr + 9 * linesOf ((l.scr + 26) / 27))
    p.take (l.rows * l.width * l.priv) :: parsePrivs l n (parseBlock l 0 ws).2
/-- The gang of a portable image, in a grid. -/
def parseGang (s : State) (f : Nat) (m : Int) (h : List Word) (grid : Nat) (mask : Word) : Gang :=
  let l := portableRec h
  let bs := parseBlocks l l.blks 0 ((s.imageWords f m (hdrLines h)).drop 36)
  { gid := hdrGid h, grid := grid, index := 0, fld := f, lrec := l, consts := bs.2.take l.clen, blocks := bs.1
    partner := none, status := .restoring, saveLine := m.toNat, dieMask := mask, saveOrder := s.steps, saveTo := none
    events := [], portHalt := true, deadline := 0, mgmt := false }
/-- The tenures a block held, with LOST set, stay with the restored block, and its rows' PEER units, which the links deliver
while the gang is saved (18 R339). -/
def keepLost (old : Gang) (g : Gang) : Gang :=
  { g with
    grid := old.grid, saveOrder := old.saveOrder
    blocks := g.blocks.map (fun (b : Block) => { b with
      tenures := ((old.block? b.blk).map (·.tenures)).getD []
      rows := b.rows.map (fun (r : Row) => { r with
        peers := (((old.block? b.blk).bind (fun x => x.rows.find? (fun q => q.row == r.row))).map (·.peers)).getD [] }) }) }
/-- A grid of one gang that came from another device: it has no record in a queue here (log 41). -/
def foreignGrid (s : State) (f : Nat) (l : LaunchRec) : Grid :=
  { id := s.grids.foldl (fun n x => Max.max n (x.id + 1)) 1, fld := f, q := 0, prio := 0, lrec := l, recAddr := word (-1)
    consts := [], deps := [], placed := 1, finished := 0, reason := 0, ended := false, armed := false, gridDone := false }
/-- A portable restore: the gang is built from the image and becomes a candidate; its old private range is free. -/
def State.restorePortable (s : State) (f : Nat) (m : Int) (h : List Word) (mask : Word) : State :=
  match s.gang? (hdrGid h) with
  | some old =>
    let s := s.modField f (fun x => { x with pool := x.pool.filter (fun a => a.gid != old.gid) })
    (s.modGang old.gid (fun _ => keepLost old (parseGang s f m h old.grid mask))).sweepCode f
  | none =>
    let x := foreignGrid s f (portableRec h)
    { s with grids := s.grids ++ [x], gangs := s.gangs ++ [parseGang s f m h x.id mask] }

/-! ### CTXR (R412) -/

/-- The gang that a native image holds when no gang bears its GID any more: the one that the device saved with this header; with
no such save, whose words have no layout, one that starts afresh (DESIGN CHOICE, log 7). -/
def State.imageGang (s : State) (f : Nat) (h : List Word) : Gang :=
  match s.images.find? (fun x => x.gid == hdrGid h && x.lo == h.getD 7 0 && x.hi == h.getD 8 0) with
  | some x => x.gang
  | none =>
    let l := hdrRec h
    { gid := hdrGid h, grid := 0, index := 0, fld := f, lrec := l, consts := [], partner := none, status := .saved, saveLine := 0
      dieMask := 0, saveOrder := s.steps, saveTo := none, events := [], portHalt := false, deadline := 0, mgmt := false
      blocks := (List.range l.blks).map (fun n => newBlock l n 0 (CodeAddr.ofWord 0) []) }
/-- A restore that R412 accepts: the gang becomes a candidate. A native image's gang is the one saved; one that no gang bears the
GID of comes back in a grid of its own (log 7). -/
def State.restore (s : State) (f : Nat) (m : Int) (h : List Word) (mask : Word) : State :=
  let go (g : Gang) : Gang := { g with status := .restoring, saveLine := m.toNat, dieMask := mask }
  if hdrKind h = 1 then s.restorePortable f m h mask
  else
    match s.gang? (hdrGid h) with
    | some _ => s.modGang (hdrGid h) go
    | none =>
      let g := s.imageGang f h
      let x := foreignGrid s f g.lrec
      { s with grids := s.grids ++ [x], gangs := s.gangs ++ [{ go g with grid := x.id, saveOrder := s.steps }] }
/-- The drop of a saved native gang: its grid ends; the kind of its log record is not stated (log 42). An image whose gang is gone
holds no tenure, range or reference any more: its grid, if there is one, ends. -/
def State.dropSaved (s : State) (f : Nat) (h : List Word) : State :=
  let g := (s.gang? (hdrGid h)).getD (s.imageGang f h)
  let s := s.log (wval (Config.freeWord s.steps)) g.gid 0 0 0 0
  (s.cancelQueued (fun q => q.who.gid == g.gid)).endGrid g.grid 13

/-- CTXR and CTXR.drop. -/
def ctxr (s : State) (f : FA) (drop : Bool) : Host.Outcome State Fault Refusal :=
  privileged s f true (!drop) (fun c =>
    let m := rdRow c f.a
    let t := s.finish c c.r
    match s.header m with
    | none => .ok (t.privDone c f.dst (-1))
    | some (fld, h) =>
      let v := s.ctxrChecks drop fld h
      if v ≠ 1 then .ok (t.privDone c f.dst v)
      else
        .ok ((if drop then t.dropSaved fld h else t.restore fld m h (word (rdRow c f.b))).privDone c f.dst 1))

/-- CTXR (R412). -/
def execCtxr (f : FA) (s : State) : Host.Outcome State Fault Refusal := ctxr s f false
/-- CTXR.drop (R412). -/
def execCtxrDrop (f : FA) (s : State) : Host.Outcome State Fault Refusal := ctxr s f true

end Sys2Proof.Machine
end

