-- ==== Sys2Proof/Machine/Placing.lean ====
section
/-!
DEFINITION. Where a gang may stand and what its placement does: candidate sets, the bank-store test, the private pool, new
gangs and restored gangs (05 R76 to R89, 23 R413, R418).
-/
namespace Sys2Proof.Machine

/-! ### The bank-store test (R82, R84) -/

/-- The blocks resident on a core, with their gangs. -/
def State.coreBlocks (s : State) (core : Nat) : List (Gang × Block) :=
  (s.gangs.filter (fun g => !g.absent)).flatMap (fun g =>
    (g.blocks.filter (fun b => b.core == core && !b.retired)).map (fun b => (g, b)))
def State.coreRows (s : State) (core : Nat) : Nat := (s.coreBlocks core).foldl (fun n q => n + q.1.lrec.rows) 0
def State.coreThreads (s : State) (core : Nat) : Nat :=
  (s.coreBlocks core).foldl (fun n q => n + q.1.lrec.rows * q.1.lrec.width) 0
/-- A core of a field that may hold gangs (R90). -/
def State.usable (s : State) (f core : Nat) : Bool :=
  s.coreUse core && s.quadUsable (core / 4) && (s.quads.getD (core / 4) ⟨-1, 0⟩).owner == (f : Int)
/-- A core passes for a block of a record (R84). -/
def State.passes (s : State) (f : Nat) (l : LaunchRec) (core : Nat) : Bool :=
  s.usable f core && decide (s.coreRows core + l.rows ≤ 81) && decide (s.coreThreads core + l.rows * l.width ≤ 2187) &&
    decide (s.usedWords core + l.demand + 2187 ≤ (s.core core).words)
/-- It would pass if the core were empty. -/
def State.passesEmpty (s : State) (f : Nat) (l : LaunchRec) (core : Nat) : Bool :=
  s.usable f core && decide (l.rows ≤ 81) && decide (l.rows * l.width ≤ 2187) &&
    decide (l.demand + 2187 ≤ (s.core core).words)
/-- The shortfall of a core for a block (R89). -/
def State.shortfall (s : State) (l : LaunchRec) (core : Nat) : Nat :=
  s.usedWords core + l.demand + 2187 - (s.core core).words

/-! ### Candidate sets (R78 to R80) -/

/-- Cores for the blocks of a gang, block 0 first, and the partner die. -/
structure CoreSet where
  cores : List Nat
  partner : Option Nat
deriving DecidableEq, Repr

/-- Quads of one die that differ by one in exactly one grid coordinate. -/
def quadAdjacent (a b : Nat) : Bool :=
  let dx := (a % 5 : Int) - (b % 5 : Int)
  let dy := (a / 5 : Int) - (b / 5 : Int)
  decide (dx.natAbs + dy.natAbs = 1)
/-- The quads on higher dies that are adjacent to quad q of die d, as 20 × die + quad. For quad 19, which has two, the one on
die d + 1 comes first (DESIGN CHOICE, log 123: R80 gives no order). -/
def quadAcross (d q : Nat) : List Nat :=
  (if d % 4 < 3 ∧ q % 5 = 4 then [20 * (d + 1) + (q - 4)] else []) ++
    (if d < 8 ∧ q / 5 = 3 then [20 * (d + 4) + q % 5] else [])
/-- A gang may straddle two dies (R79, 01 R18). -/
def State.mayStraddle (s : State) (d e : Nat) : Bool :=
  (s.die d).service != 0 && (s.die e).service != 0 && (pairLinks d e).any (fun l => s.linkState l == 1)
/-- The cores of a quad that a test accepts. -/
def quadCores (p : Nat → Bool) (q : Nat) : List Nat := ((List.range 4).map (fun c => 4 * q + c)).filter p
/-- The set of one quad. -/
def singleSet (p : Nat → Bool) (blks q : Nat) : Option CoreSet :=
  let cs := quadCores p q
  if blks ≤ 4 ∧ blks ≤ cs.length then some ⟨cs.take blks, none⟩ else none
/-- The set of two quads. -/
def doubleSet (p : Nat → Bool) (blks q1 q2 : Nat) : Option CoreSet :=
  let c1 := quadCores p q1
  let c2 := quadCores p q2
  let k := Min.min (Min.min c1.length 4) (blks - 1)
  if 1 ≤ k ∧ blks - k ≤ c2.length then
    some ⟨c1.take k ++ c2.take (blks - k), if q1 / 20 = q2 / 20 then none else some (q2 / 20)⟩
  else none
/-- The sets whose first quad is quad q of die d, in order; `ok` says which dies may be used. -/
def State.setsFrom (s : State) (ok p : Nat → Bool) (l : LaunchRec) (d q : Nat) : List CoreSet :=
  let here := 20 * d + q
  let same := if l.span = 1 then
      ((List.range 20).filter (fun r => decide (q < r) && quadAdjacent q r)).map (fun r => 20 * d + r) else []
  let far := if l.span = 1 ∧ l.strad = 1 then
      (quadAcross d q).filter (fun r => ok (r / 20) && s.mayStraddle d (r / 20)) else []
  (singleSet p l.blks here).toList ++ (same ++ far).filterMap (doubleSet p l.blks here)
/-- Dies in order of fallow state, then number. -/
def State.dieOrder (s : State) : List Nat :=
  (List.range 4).flatMap (fun n => (List.range 12).filter (fun d => (s.die d).fallow == n))
/-- Every candidate set in search order. -/
def State.coreSets (s : State) (ok p : Nat → Bool) (l : LaunchRec) : List CoreSet :=
  (s.dieOrder.filter ok).flatMap (fun d => (List.range 20).flatMap (s.setsFrom ok p l d))

/-! ### The private pool (R86) -/

/-- Lines one block's private words take. -/
def LaunchRec.privLines (l : LaunchRec) : Nat := linesOf (l.priv * l.rows * l.width)
/-- A range for each block of a gang; none when one does not fit. -/
def State.poolRanges (s : State) (f n : Nat) : Nat → List Nat → Option (List (List Nat))
  | 0, _ => some []
  | k + 1, taken =>
    match s.poolRange f n taken with
    | none => none
    | some l => (s.poolRanges f n k (taken ++ l)).map (fun r => l :: r)
/-- The ranges a gang of a record gets now. -/
def State.gangRanges (s : State) (f : Nat) (l : LaunchRec) : Option (List (List Nat)) :=
  s.poolRanges f l.privLines l.blks (s.poolTaken f)
/-- The private words fit the empty pool (check 10 of 04 Table 4.8). -/
def State.poolFitsEmpty (s : State) (f : Nat) (l : LaunchRec) : Bool := (s.poolRanges f l.privLines l.blks []).isSome
/-- One gang's demand fits some permitted set of the field as it stands, empty (check 10). -/
def State.fitsField (s : State) (f : Nat) (l : LaunchRec) : Bool :=
  !(s.coreSets (fun _ => true) (s.passesEmpty f l) l).isEmpty && s.poolFitsEmpty f l

/-! ### Taking a set (R84 to R87) -/

/-- The dies of a set that are fallow. -/
def State.fallowOf (s : State) (cores : List Nat) : List Nat := (cores.map (· / 80)).filter (fun d => (s.die d).fallow != 0)
/-- The fallow dies of a set are woken (04 R75). -/
def State.wakeSet (s : State) (cores : List Nat) : State :=
  (s.fallowOf cores).foldl (fun s d => s.modDie d (fun (y : DieSt) => { y with waking := true })) s
/-- A gang on a set some die of which is fallow is ready once the exits complete (05 R88; log 111). -/
def State.placedAs (s : State) (cores : List Nat) : GangState := if (s.fallowOf cores).isEmpty then .resident else .waking
/-- The lines of an allocation of the private pool. -/
def rangeLocs (ranges : List (List Nat)) : List Loc := ranges.flatMap (fun r => r.map (fun m => ⟨.hbm, 27 * m⟩))
/-- No core and no die keeps a copy of some lines. -/
def State.purge (s : State) (ls : List Loc) : State :=
  let keep (c : Copy) : Bool := !ls.contains c.line
  { s with
    cores := s.cores.map (fun (k : Core) => if k.l1.all keep then k else { k with l1 := k.l1.filter keep })
    dies := s.dies.map (fun (d : DieSt) => if d.rdc.all keep then d else { d with rdc := d.rdc.filter keep }) }
/-- The sower clears the private ranges of a new gang (11 R212): no value of an earlier block is left, at the home or in a copy
(R85). -/
def State.clearRanges (s : State) (ranges : List (List Nat)) : State :=
  ((rangeLocs ranges).foldl (fun s l => s.homeWrite l ((List.range 27).map (fun k => (k, 0))) false none) s).purge (rangeLocs ranges)
/-- L1 lines that blocks have taken are invalidated (R84). -/
def State.shrinkL1 (s : State) (cores : List Nat) : State :=
  cores.foldl (fun s c => s.trimL1 c) s
/-- Lines of a core's L1 with a block of a record more on it. -/
def State.l1After (s : State) (l : LaunchRec) (core : Nat) : Nat := ((s.core core).words - s.usedWords core - l.demand) / 9
/-- The L1 lines that a block of a record takes on a core. -/
def State.takenLines (s : State) (l : LaunchRec) (core : Nat) : List Loc :=
  let k := s.core core
  let kept := trimCopies (s.l1After l core - (s.corePartials core).length) k.l1.length k.l1
  (k.l1.filter (fun c => !kept.contains c)).map (·.line)
/-- A store of a row on a core, in its FIFO or in the core's order, has still to write one of some lines. -/
def State.storesTo (s : State) (core : Nat) (ls : List Loc) : Bool :=
  let hits (o : MemOp) : Bool := o.lines.any ls.contains
  !ls.isEmpty && ((s.core core).order.any hits ||
    (s.coreBlocks core).any (fun q => q.2.rows.any (fun r => r.fifo.any hits)))
/-- What must happen before blocks take L1 lines on a set's cores: partials for which the L1 has no line left are flushed (16
R286), and stores that target the lines complete their write-through (R84); none when all is done. -/
def State.clearWay (s : State) (l : LaunchRec) (cores : List Nat) : Option State :=
  match cores.find? (fun k => decide (s.l1After l k < (s.corePartials k).length)) with
  | some k => some (s.flushRoom k)
  | none => if cores.any (fun k => s.storesTo k (s.takenLines l k)) then some s else none

/-- The serial number of the field's next gang: the first from the counter on that no gang of the field bears (23 R403). -/
def State.freeSerial (s : State) (f : Nat) : Nat → Nat → Nat
  | 0, n => n
  | k + 1, n =>
    let n := if n = 0 ∨ (maxT 24 : Int) < (n : Int) then 1 else n
    if s.gangs.any (fun g => g.gid == word ((f : Int) * 3 ^ 24 + n)) then s.freeSerial f k (n + 1) else n
def State.nextSerial (s : State) (f : Nat) : Nat := s.freeSerial f (s.gangs.length + 1) (s.fieldSt f).serial

/-- The generation a record's gang starts at (03 R56). -/
def State.startGen (s : State) (f : Nat) (l : LaunchRec) : Int :=
  if l.gen ≠ 0 ∧ (s.gener? f l.slot l.gen).isSome then l.gen else ((s.slot? f l.slot).map (·.current)).getD 0
/-- The entry point in that generation. -/
def State.entryPoint (s : State) (f : Nat) (l : LaunchRec) : CodeAddr :=
  let gen := s.startGen f l
  ⟨gen, l.slot, (((s.gener? f l.slot gen).map (fun g => g.tr.funcs)).getD []).getD l.entry.toNat 0⟩

/-- Allocations of a gang's blocks. -/
def poolAllocs (gid : Word) (ranges : List (List Nat)) : List PoolAlloc :=
  ranges.zipIdx.map (fun q => ⟨gid, q.2, q.1⟩)
/-- Place the next gang of a grid on a set (R85, R87). -/
def State.placeGang (s : State) (x : Grid) (c : CoreSet) (ranges : List (List Nat)) : State :=
  let l := x.lrec
  let n := s.nextSerial x.fld
  let gid := word ((x.fld : Int) * 3 ^ 24 + n)
  let entry := s.entryPoint x.fld l
  let blocks := c.cores.zipIdx.map (fun q => newBlock l q.2 q.1 entry ((ranges.getD q.2 []).map (27 * ·)))
  let g : Gang := { gid := gid, grid := x.id, index := x.placed, fld := x.fld, lrec := l, consts := x.consts, blocks := blocks
                    partner := c.partner, status := s.placedAs c.cores, saveLine := 0, dieMask := 0, saveOrder := 0, saveTo := none
                    events := [], portHalt := false, deadline := 0, mgmt := false }
  let s := s.modField x.fld (fun f => { f with serial := n + 1, pool := f.pool ++ poolAllocs gid ranges })
  let s := (s.modGrid x.id (fun y => { y with placed := y.placed + 1 })).clearRanges ranges
  (({ s with gangs := s.gangs ++ [g] }.shrinkL1 c.cores).wakeSet c.cores).report 1 gid

/-! ### Restoring a gang (23 R413, R418, 16 R291, 17 R319) -/

/-- A row as restored: its watch is armed again, at the line's present place, and triggered; its matrix entries are posted
again in their order, behind every entry that stands (17 R319). -/
def State.restoreRow (s : State) (f cyc : Nat) (old : List (Nat × Nat)) (r : Row) : Row :=
  let line := (s.fieldLine f (wval r.watch.va) Need.load).getD r.watch.line
  { r with
    watch := if r.watch.armed then { r.watch with trig := true, line := line } else r.watch
    passes := r.passes.map (fun (p : Pass) => { p with posted := cyc, order := (s.steps, (old.filter (fun o => postedBefore o p.order)).length) }) }
/-- A tenure's quad and die entries are made anew, in turn; one that cannot be made drops the tenure as by a recall. -/
def State.remakeEntry (s : State) (core : Nat) (who : RowRef) (t : Tenure) : State :=
  let us := s.dirUses
  let room := dirRoom us (atQuad core) quadDir t.handle && dirRoom us (atDie core) dieDir t.handle
  s.modBlock who (fun b => if t.kind = 0 ∨ room then { b with tenures := b.tenures ++ [t] } else b.setTenure t.handle 0 true)
/-- A saved escalation event enters at the tail of its new core's queue, or is lost (17 R316, R319). -/
def State.enterEvent (s : State) (e : EscEvent) : State :=
  s.setEvents (s.coreOf e.who) ((s.core (s.coreOf e.who)).escq ++ [{ e with row := 0 }])
/-- Copy a portable image's private words to their new range. -/
def State.fillPrivate (s : State) (lines : List Nat) (ws : List Word) : State :=
  if lines.isEmpty then s else s.putRun lines ws
/-- The private ranges of a portable gang, filled from its image. -/
def State.newPrivate (s : State) (g : Gang) (ranges : List (List Nat)) : State :=
  let h := ((s.header (g.saveLine : Int)).map (·.2)).getD []
  let body := (s.imageWords g.fld (g.saveLine : Int) (hdrLines h)).drop 36
  let s := (ranges.zip (parsePrivs g.lrec g.lrec.blks body)).foldl (fun s q => s.fillPrivate q.1 q.2) s
  (s.modField g.fld (fun f => { f with pool := f.pool ++ poolAllocs g.gid ranges })).purge (rangeLocs ranges)

/-- Place a saved gang on a set: it stands there as it was saved, and each row performs an acquire at .pkg (19 R356), before its
tenures are made anew and exempt their footprints from acquires. -/
def State.restoreGang (s : State) (g : Gang) (c : CoreSet) (ranges : List (List Nat)) : State :=
  let s := if g.portHalt then s.newPrivate g ranges else s
  let s := if g.mgmt then s.freeArea g else s
  let old := g.blocks.flatMap (fun b => b.rows.flatMap (fun r => r.passes.map (·.order)))
  let put (b : Block) (n : Nat) : Block :=
    let core := c.cores.getD n 0
    { b with
      core := core, tenures := []
      privLines := if g.portHalt then (ranges.getD n []).map (27 * ·) else b.privLines
      rows := b.rows.map (s.restoreRow g.fld (s.cycOf core) old) }
  let g' : Gang := { g with
    status := s.placedAs c.cores, partner := c.partner, portHalt := false, events := [], mgmt := false
    blocks := g.blocks.zipIdx.map (fun q => put q.1 q.2) }
  let s := { s with gangs := s.gangs.filter (fun (x : Gang) => x.gid != g.gid) ++ [g'] }.shrinkL1 c.cores
  let wide (b : Block) : Bool := b.rows.any (fun r => r.levels.any (fun v => v.key.getD 1 0 == 4))
  let s := g'.blocks.foldl (fun s b => s.doAcquire b.core (if wide b then 5 else 4)) s
  let s := g.blocks.zipIdx.foldl (fun s q =>
    q.1.tenures.foldl (fun s t => s.remakeEntry (c.cores.getD q.2 0) ⟨g.gid, q.1.blk, 0⟩ t) s) s
  ((g.events.foldl (fun s e => s.enterEvent e) s).wakeSet c.cores).report 2 g.gid

end Sys2Proof.Machine
end

