-- ==== Sys2Proof/Machine/Sower.lean ====
section
/-!
DEFINITION. The sower: queues, records, dependences, the choice and placement of gangs, reservations, and fallow states
(04 R64 to R75, 05 R87 to R89).
-/
namespace Sys2Proof.Machine

/-! ### Words the sower writes -/

/-- DONE of a refused record is incremented, when it is nonzero (R67); one that is misaligned, or cannot be read and written, is
skipped without a log record (DESIGN CHOICE, log 117: 26 R443 covers retired grids only). -/
def State.bumpDone (s : State) (f : Nat) (va : Int) : State :=
  if va = 0 ∨ va % 3 ≠ 0 then s else (s.eventAdd f va).getD s
/-- STAT −1 with a reason, and DONE. -/
def State.refuseRecord (s : State) (f : Nat) (recAddr : Int) (l : LaunchRec) (reason : Int) : State :=
  (s.statPut f recAddr (-1) reason).bumpDone f (l.w 7)
/-- A taken record is refused: it leaves the sower (R64). -/
def State.refuseGrid (s : State) (x : Grid) (reason : Int) : State :=
  let s := s.refuseRecord x.fld (wval x.recAddr) x.lrec reason
  { s with grids := s.grids.filter (fun y => y.id != x.id) }
/-- The addresses a refusal writes. -/
def refusalAddrs (recAddr : Int) (l : LaunchRec) : List Int :=
  [wrapT 27 (recAddr + 24)] ++ (if l.w 7 = 0 then [] else [l.w 7])

/-! ### Arming (R66) -/

/-- Every gang of a record is placed, or none will be: a grid that ended before its last gang was placed, like a record that
was refused, holds back no later record of its queue (DESIGN CHOICE, log 117: R70 does not say). -/
def Grid.full (x : Grid) : Bool := x.ended || decide (x.lrec.gangs ≤ x.placed)
/-- The taken records of an armed queue that now fit no cores. -/
def State.unfit (s : State) (f q : Nat) : List Grid :=
  if (s.queue f q).st ≠ 1 then []
  else s.grids.filter (fun x => x.fld == f && x.q == q && x.armed && x.placed == 0 && !s.fitsField f x.lrec)
/-- The addresses that the end of an arming writes. -/
def State.disarmAddrs (s : State) (f q : Nat) : List Int := (s.unfit f q).flatMap (fun x => refusalAddrs (wval x.recAddr) x.lrec)
/-- An arming ends: its records proceed, but one that now fits no cores is refused with reason 10 (R64, R67); a reservation of
one of them ends (05 R89). -/
def State.endArming (s : State) (f q : Nat) : State :=
  if (s.queue f q).st ≠ 1 then s
  else
    let s := (s.unfit f q).foldl (fun s x => s.refuseGrid x 10) s
    let headOut := match (s.fieldSt f).head with
      | some h => !h.saved && !s.grids.any (fun x => word x.id == h.id && x.fld == f && !(x.q == q && x.armed))
      | none => false
    let s := { s with grids := s.grids.map (fun (x : Grid) => if x.fld = f ∧ x.q = q then { x with armed := false } else x) }
    if headOut then s.modField f (fun x => { x with head := none }) else s
/-- A queue is disarmed (R66). -/
def State.disarm (s : State) (f q : Nat) : State := (s.endArming f q).modQueue f q (fun x => { x with base := 0, st := 0 })
/-- A fault disarms a queue (Table 4.7). -/
def faultQueue (s : State) (f q : Nat) (cause : Int) : State :=
  ((s.endArming f q).modField f (fun x => { x with fcause := cause, fq := (q : Int) })).modQueue f q (fun x => { x with st := -1 })
/-- The header's words 2 to 8 are in range (Table 4.6). -/
def headerOk (ws : List Word) : Bool :=
  let w (k : Nat) : Int := wval (ws.getD k 0)
  decide (1 ≤ w 2 ∧ w 2 ≤ 729) && decide (-1 ≤ w 3 ∧ w 3 ≤ 1) && (w 4 == 0 || w 4 == 1) &&
    (List.range 4).all (fun k => w (5 + k) == 0)
/-- Arm a queue at an address. -/
def State.armQueue (s : State) (fn : Int) (f q : Nat) (base : Word) : State :=
  let s := (s.disarm f q).modQueue f q (fun x => { x with base := base, by_ := fn })
  if wval base % 27 ≠ 0 then faultQueue s f q 3
  else
    match s.fieldWords f (wval base) 9 with
    | none => faultQueue s f q 2
    | some ws =>
      if headerOk ws then
        s.modQueue f q (fun x => { x with
          st := 1, cap := (wval (ws.getD 2 0)).toNat, prio := wval (ws.getD 3 0), mode := wval (ws.getD 4 0), head := ws.getD 1 0 })
      else faultQueue s f q 1

/-- LQBASE_ARM (R66): a write of an address to LQBASEq. -/
def execLqbaseArm (fn : Int) (q : Nat) (base : Word) (s : State) : Host.Outcome State Fault Refusal :=
  match s.fnField fn with
  | none => .next s
  | some f =>
    if 9 ≤ q then .next s
    else
      match s.fieldAwait (.event (.lqbaseArm fn q base)) f (if base = 0 then [] else [wval base]) (s.disarmAddrs f q) with
      | some t => .next t
      | none => .next (if base = 0 then s.disarm f q else s.armQueue fn f q base)
/-- LQBASE_DISARM (R66): a write of 0 to LQBASEq. -/
def execLqbaseDisarm (fn : Int) (q : Nat) (s : State) : Host.Outcome State Fault Refusal :=
  match s.fnField fn with
  | none => .next s
  | some f =>
    if 9 ≤ q then .next s
    else match s.fieldAwait (.event (.lqbaseDisarm fn q)) f [] (s.disarmAddrs f q) with
      | some t => .next t
      | none => .next (s.disarm f q)

/-! ### Checks of a record (Table 4.8) -/

/-- ENTRY and HNDL name functions of the slot. -/
def State.functionsOk (s : State) (f : Nat) (l : LaunchRec) : Bool :=
  let n := objW (((s.slot? f l.slot).map (·.words)).getD []) 4
  decide (0 ≤ l.entry ∧ l.entry < n) && decide (-1 ≤ l.hndl ∧ l.hndl < n)
/-- SHAPE lies in Table 4.3. -/
def shapeOk (l : LaunchRec) : Bool :=
  let rows := field (l.w 1) 1 5
  let blks := field (l.w 1) 6 3
  decide (1 ≤ rows ∧ rows ≤ 81) && decide (rows * (l.width : Int) ≤ 2187) && decide (1 ≤ blks ∧ blks ≤ 8) &&
    (decide (blks ≤ 4) || l.span == 1) && (l.span == 0 || l.span == 1) && (l.strad == 0 || (l.strad == 1 && l.span == 1)) &&
    (l.order == 0 || l.order == 1) && field (l.w 1) 13 14 == 0
/-- RES lies in Table 4.4. -/
def resOk (l : LaunchRec) : Bool :=
  decide (1 ≤ field (l.w 2) 0 7 ∧ field (l.w 2) 0 7 ≤ 122) && decide (0 ≤ field (l.w 2) 7 5 ∧ field (l.w 2) 7 5 ≤ 81) &&
    decide (0 ≤ field (l.w 2) 12 9 ∧ field (l.w 2) 12 9 ≤ 6561) && field (l.w 2) 21 6 == 0
/-- The words of the constant region; none when one is unreadable. -/
def State.constWords (s : State) (f : Nat) (l : LaunchRec) : Option (List Word) :=
  if l.clen = 0 then some [] else s.fieldWords f (l.w 5) l.clen
/-- CONST and CLEN. -/
def State.constOk (s : State) (f : Nat) (l : LaunchRec) : Bool :=
  decide (0 ≤ l.w 6 ∧ l.w 6 ≤ 6561) && (l.w 6 == 0 || (l.w 5 % 27 == 0 && (s.constWords f l).isSome))
/-- DONE and the dependences: word-aligned, and mapped. -/
def State.eventsOk (s : State) (f : Nat) (l : LaunchRec) : Bool :=
  (l.w 7 == 0 || (l.w 7 % 3 == 0 && s.fieldMapped f (l.w 7) Need.store)) &&
    [9, 11, 13].all (fun k => l.w k == 0 || (l.w k % 3 == 0 && s.fieldMapped f (l.w k) Need.load))
/-- The first failing reason of Table 4.8; 0 when the record passes. -/
def State.refusal (s : State) (f : Nat) (l : LaunchRec) : Int :=
  if s.slotState f l.slot ≠ 2 then 1
  else if !s.functionsOk f l then 2
  else if !shapeOk l then 3
  else if !resOk l then 4
  else if l.w 3 < 0 ∨ 118098 < l.w 3 ∨ l.w 3 % 9 ≠ 0 then 5
  else if l.w 4 < 1 ∨ 387420489 < l.w 4 then 6
  else if !s.constOk f l then 7
  else if !s.eventsOk f l then 8
  else if [15, 16, 17].any (fun k => l.w k != 0) then 9
  else if !s.fitsField f l then 10
  else 0

/-! ### Taking a record (R67) -/

/-- A taken record. -/
def State.newGrid (s : State) (f q : Nat) (l : LaunchRec) (recAddr : Int) : Grid :=
  { id := s.grids.foldl (fun n x => Max.max n (x.id + 1)) 1, fld := f, q := q, prio := (s.queue f q).prio, lrec := l
    recAddr := word recAddr, consts := [], deps := [9, 11, 13].map (fun k => l.w k == 0), placed := 0, finished := 0
    reason := 0, ended := false, armed := true, gridDone := false }
/-- HEAD advances; a HEAD word that cannot be written keeps its value, without a log record, and the sower goes on with its own
count (DESIGN CHOICE, log 117: R67 speaks of STAT only). -/
def State.advanceHead (s : State) (f q : Nat) : State :=
  let x := s.queue f q
  let h := word (wval x.head + 1)
  (s.fieldPut f (wrapT 27 (wval x.base + 3)) h).modQueue f q (fun y => { y with head := h })
/-- Records of a queue that are taken and not fully placed. -/
def State.pendingRecords (s : State) (f q : Nat) : Nat := (s.grids.filter (fun x => x.fld == f && x.q == q && !x.full)).length

/-- The addresses of the constant region's lines. -/
def LaunchRec.constVas (l : LaunchRec) : List Int :=
  if l.clen = 0 ∨ l.w 6 < 0 ∨ 6561 < l.w 6 then [] else (List.range ((l.clen + 8) / 9)).map (fun k => wrapT 27 (l.w 5 + 27 * k))
/-- The addresses of the dependences: check 8 walks the tables to them. -/
def LaunchRec.depVas (l : LaunchRec) : List Int := ([9, 11, 13].map l.w).filter (· != 0)
/-- Take the next record of a queue: its STAT, then HEAD; a refused record's DONE. -/
def State.takeRecord (s : State) (f q : Nat) : State :=
  let x := s.queue f q
  let va := slotVa x (wval x.head)
  let again : Act := .event (.sowerTakeRecords f q)
  match s.fieldAwait again f [va, wrapT 27 (va + 27)] [], s.fieldWords f va 18 with
  | some t, _ => t
  | none, none => (s.fieldAwait again f [] (s.disarmAddrs f q)).getD (faultQueue s f q 5)
  | none, some ws =>
    let l : LaunchRec := ⟨ws⟩
    match s.fieldAwait again f l.constVas (wrapT 27 (wval x.base + 3) :: refusalAddrs va l), s.tablesAwait again f l.depVas with
    | some t, _ => t
    | none, some t => t
    | none, none =>
      let r := s.refusal f l
      if r = 0 then ({ s with grids := s.grids ++ [s.newGrid f q l va] }.statPut f va 1 0).advanceHead f q
      else ((s.statPut f va (-1) r).advanceHead f q).bumpDone f (l.w 7)

/-- SOWER_TAKE_RECORDS (R67): an armed queue that shows records gives one; an occupancy out of range faults it. -/
def execSowerTakeRecords (fld q : Nat) (s : State) : Host.Outcome State Fault Refusal :=
  let x := s.queue fld q
  if x.st ≠ 1 then .next s
  else
    match s.fieldAwait (.event (.sowerTakeRecords fld q)) fld [wval x.base] [], s.fieldLine fld (wval x.base) Need.load with
    | some t, _ => .next t
    | none, none => .next s
    | none, some line =>
        let occ := wrapT 27 (wval (s.wordAt line) - wval x.head)
        if occ < 0 ∨ (x.cap : Int) < occ then
          .next ((s.fieldAwait (.event (.sowerTakeRecords fld q)) fld [] (s.disarmAddrs fld q)).getD (faultQueue s fld q 4))
        else if occ = 0 ∨ 27 ≤ s.pendingRecords fld q then .next s
        else .next (s.takeRecord fld q)

/-! ### Dependences (R69) -/

/-- DEPENDENCE_MET (R69): event word d of a taken record is read: it meets its target, or it is unreadable and the record
is refused. -/
def execDependenceMet (fld k d : Nat) (s : State) : Host.Outcome State Fault Refusal :=
  match s.grids.find? (fun x => x.id == k && x.fld == fld) with
  | none => .next s
  | some x =>
    if x.deps.getD d true || x.placed != 0 then .next s
    else
      let va := x.lrec.w (9 + 2 * d)
      let again : Act := .event (.dependenceMet fld k d)
      match s.fieldAwait again fld [va] [], s.fieldLine fld va Need.load with
      | some t, _ => .next t
      | none, none => .next ((s.fieldAwait again fld [] (refusalAddrs (wval x.recAddr) x.lrec)).getD (s.refuseGrid x 8))
      | none, some line =>
          if x.lrec.w (10 + 2 * d) ≤ wval (s.wordAt (locAt line (va % 27).toNat)) then
            .next (s.modGrid k (fun y => { y with deps := y.deps.set d true }))
          else .next s

/-! ### Candidates (R70, R71, R89) -/

/-- A candidate: a saved gang that awaits restore, or a taken record. -/
inductive Cand where
  | saved (g : Gang)
  | launch (x : Grid)
deriving DecidableEq, Repr

/-- An in-order record waits for the earlier in-order records of its queue (R70). -/
def State.eligibleGrid (s : State) (x : Grid) : Bool :=
  x.lrec.order == 1 ||
    s.grids.all (fun y => !(y.fld == x.fld && y.q == x.q && decide (y.id < x.id) && y.lrec.order == 0) || y.full)
/-- Insert a gang by the order of its save. -/
def insSaved (g : Gang) : List Gang → List Gang
  | [] => [g]
  | x :: r => if g.saveOrder < x.saveOrder then g :: x :: r else x :: insSaved g r
/-- The candidates of a field in order. -/
def State.candidates (s : State) (f : Nat) : List Cand :=
  let saved := (s.gangs.filter (fun g => g.fld == f && g.status == .restoring)).foldl (fun l g => insSaved g l) []
  let rr (p : Int) : Nat := (s.fieldSt f).rr.getD (p + 1).toNat 0
  saved.map Cand.saved ++ [1, 0, -1].flatMap (fun p => (List.range 9).flatMap (fun n =>
    (s.grids.filter (fun x => x.fld == f && x.q == (rr p + n) % 9 && x.prio == p && x.deps.all id && s.eligibleGrid x && !x.full)).map
      Cand.launch))

/-- Rank under R89: a saved gang stands above every queue priority. -/
def Cand.rank : Cand → Int
  | .saved _ => 2
  | .launch x => x.prio
def Cand.isHead (c : Cand) (h : HeadRes) : Bool :=
  match c with
  | .saved g => h.saved && h.id == g.gid
  | .launch x => !h.saved && h.id == word x.id
def HeadRes.rank (h : HeadRes) : Int := if h.saved then 2 else h.prio
def Cand.lrec : Cand → LaunchRec
  | .saved g => g.lrec
  | .launch x => x.lrec
def Cand.fld : Cand → Nat
  | .saved g => g.fld
  | .launch x => x.fld
/-- Dies a candidate may use: a restore's mask (23 R412). -/
def Cand.dieOk : Cand → Nat → Bool
  | .saved g, d => !((List.range 12).any (fun e => trit (wval g.dieMask) e == 1)) || trit (wval g.dieMask) d == 1
  | .launch _, _ => true

/-- The head's reservation bars its target: 81 µs have passed since its gang became head (R89). -/
def HeadRes.bars (h : HeadRes) (now : Nat) : Bool := h.barred || decide (h.since + 81000 ≤ now)
/-- A core that the head's reservation bars to a candidate. -/
def State.barredTo (s : State) (c : Cand) (core : Nat) : Bool :=
  match (s.fieldSt c.fld).head with
  | none => false
  | some h => h.bars s.now && !c.isHead h && decide (c.rank ≤ h.rank) && h.target.contains core

/-! ### The target (R89) -/

/-- The set of least total shortfall, the earlier of equals. -/
def State.chooseTarget (s : State) (c : Cand) : List Nat :=
  let cost (x : CoreSet) : Nat := x.cores.foldl (fun n k => n + s.shortfall c.lrec k) 0
  ((s.coreSets c.dieOk (s.usable c.fld) c.lrec).foldl (fun (a : Option CoreSet) x =>
    match a with
    | none => some x
    | some y => if cost x < cost y then some x else some y) none |>.map (·.cores)).getD []
/-- The head's target is chosen again when a core of it is usable no more; its wait goes on (R89). -/
def State.keepTarget (s : State) (f : Nat) (cs : List Cand) : State :=
  match (s.fieldSt f).head with
  | none => s
  | some h =>
    if h.target.all (s.usable f) && !h.target.isEmpty then s
    else match cs.find? (fun c => c.isHead h) with
      | none => s
      | some c => s.modField f (fun x => { x with head := some { h with target := s.chooseTarget c } })
/-- The field's head gang is the given candidate: its wait goes on if it was the head, its target is kept while usable. -/
def State.setHead (s : State) (f : Nat) (c : Option Cand) : State :=
  match c with
  | none => s.modField f (fun x => { x with head := none })
  | some c =>
    let fresh : HeadRes :=
      match c with
      | .saved g => ⟨true, g.gid, 0, s.chooseTarget (.saved g), s.now, false⟩
      | .launch x => ⟨false, word x.id, x.prio, s.chooseTarget (.launch x), s.now, false⟩
    match (s.fieldSt f).head with
    | none => s.modField f (fun x => { x with head := some fresh })
    | some h =>
      if !c.isHead h then s.modField f (fun x => { x with head := some fresh })
      else if h.target.all (s.usable f) && !h.target.isEmpty then s
      else s.modField f (fun x => { x with head := some { h with target := fresh.target } })

/-- HEAD_RESERVATION_BAR (R89): 81 µs after a gang became head. -/
def execHeadReservationBar (fld : Nat) (s : State) : Host.Outcome State Fault Refusal :=
  match (s.fieldSt fld).head with
  | none => .next s
  | some h =>
    if h.barred || decide (s.now < h.since + 81000) then .next s
    else .next (s.modField fld (fun x => { x with head := some { h with barred := true } }))

/-! ### A try (R87, R63) -/

/-- What a try gives: placed; progress that is no placement (a snoop, a refusal); or no fit. -/
inductive Try where
  | placed (s : State)
  | other (s : State)
  | no

/-- The first gang of a record: the constant region is read, and STAT becomes +2. -/
def State.placeFirst (s : State) (x : Grid) (c : CoreSet) (ranges : List (List Nat)) : Try :=
  match s.fieldAwait (.event (.sowerSchedule x.fld)) x.fld x.lrec.constVas (refusalAddrs (wval x.recAddr) x.lrec) with
  | some t => .other t
  | none =>
    match s.constWords x.fld x.lrec with
    | none => .other (s.refuseGrid x 7)
    | some ws =>
      let s := s.modGrid x.id (fun y => { y with consts := ws })
      .placed ((s.placeGang { x with consts := ws } c ranges).statPut x.fld (wval x.recAddr) 2 0)
/-- place_next_gang (R87): a set is chosen and taken, whether or not its dies must first wake (log 111), once the L1 lines it takes
are clear (R84). -/
def State.tryPlace (s : State) (c : Cand) : Try :=
  let f := c.fld
  let l := c.lrec
  let test (core : Nat) : Bool := s.passes f l core
  let sets := (s.coreSets c.dieOk test l).filter (fun x => x.cores.all (fun k => !s.barredTo c k))
  let ranges := match c with
    | .saved g => if g.portHalt then s.gangRanges f l else some []
    | .launch _ => s.gangRanges f l
  match sets, ranges with
  | x :: _, some rs =>
    match s.snoopFirst true (rangeLocs rs), s.clearWay l x.cores with
    | some t, _ => .other (t.await (.event (.sowerSchedule f)) 0 (rangeLocs rs))
    | none, some t => .other t
    | none, none =>
      match c with
      | .saved g => .placed (s.restoreGang g x rs)
      | .launch y => if y.placed = 0 then s.placeFirst y x rs else .placed (s.placeGang y x rs)
  | _, _ => .no
/-- After a placement: the round robin goes on behind its queue, and a head that is placed is none. -/
def State.afterPlace (s : State) (c : Cand) : State :=
  s.modField c.fld (fun x => { x with
    rr := match c with | .launch y => x.rr.set (y.prio + 1).toNat ((y.q + 1) % 9) | .saved _ => x.rr
    head := match x.head with | some h => if c.isHead h then none else some h | none => none })

/-- Try candidates in order until one is placed; the first that fits nowhere becomes the head at once, before those after it
are tried; with none, the field has no head. `found`: the head is found. -/
def tryAll (f : Nat) : List Cand → Bool → State → State
  | [], found, s => if found then s else s.setHead f none
  | c :: r, found, s =>
    match s.tryPlace c with
    | .placed t => t.afterPlace c
    | .other t => t
    | .no => tryAll f r true (if found then s else s.setHead f (some c))

/-- SOWER_SCHEDULE (R71): the next gang of the field is placed. -/
def execSowerSchedule (fld : Nat) (s : State) : Host.Outcome State Fault Refusal :=
  .next (tryAll fld (s.candidates fld) false (s.keepTarget fld (s.candidates fld)))

/-! ### Fallow states (R74, R75) -/

/-- A die holds a resident row, and with it perhaps an engine command. -/
def State.dieBusy (s : State) (d : Nat) : Bool :=
  s.gangs.any (fun g => !g.absent && g.blocks.any (fun b => b.core / 80 == d && !b.retired))
/-- The fields that own something on a die. -/
def State.dieOwners (s : State) (d : Nat) : List Nat :=
  (List.range 12).filter (fun f =>
    let own (o : Owner) : Bool := o.owner == (f : Int)
    ((s.quads.drop (20 * d)).take 20).any own || ((s.groups.drop (16 * d)).take 16).any own ||
      ((s.chans.drop (32 * d)).take 32).any own)
/-- A die's tolerance in µs; none without an owner. -/
def State.tolerance (s : State) (d : Nat) : Option Int :=
  ((s.dieOwners d).map (fun f => wval (s.fieldSt f).fltol)).foldl (fun (a : Option Int) x =>
    match a with
    | none => some x
    | some y => some (Min.min x y)) none
/-- The deepest state whose exit latency a tolerance allows (Table 4.10). -/
def deepest (t : Int) : Nat := if 1500 ≤ t then 3 else if 40 ≤ t then 2 else if 2 ≤ t then 1 else 0

/-- FALLOW_ENTRY (R75): a die idle for 81 µs. A die on which no field owns a quad, slice group or channel has no least FLTOL
and stays in F0 (DESIGN CHOICE, log 123: R75 names no tolerance for it). -/
def execFallowEntry (die : Nat) (s : State) : Host.Outcome State Fault Refusal :=
  let d := s.die die
  let n := ((s.tolerance die).map deepest).getD 0
  if 12 ≤ die ∨ d.fallow ≠ 0 ∨ d.waking ∨ d.service = 0 ∨ s.dieBusy die ∨ s.now < d.idleSince + 81000 ∨ n = 0 then .next s
  else .next (s.modDie die (fun x => { x with fallow := n }))

end Sys2Proof.Machine
end

