-- ==== Sys2Proof/Machine/HostMem.lean ====
section
/-!
DEFINITION. Host accesses of device memory in the line view: which resource serves them, host-state entries, and what is
read and written (02 R45, 13 R240, 15 R254, R258 to R260, 24 R420).
-/
namespace Sys2Proof.Machine

/-! ### Who serves a line (24 R420) -/

/-- The line number names a line of some die's stack (15 R254). -/
def lineExists (n : Nat) : Bool := decide (n < 12 * dieLines)
/-- A scrub holds host accesses of the line. -/
def State.inScrub (s : State) (l : Loc) : Bool := s.lineOwner l == -2
/-- The line's channel is free: nothing is written, zeros are read. -/
def State.inFree (s : State) (l : Loc) : Bool := s.lineOwner l == -1

/-! ### Host-state entries (15 R258, R259) -/

/-- Entries each die holds. -/
def hostEntries : Nat := 59049
/-- A row's watch, a row's EVWAIT or an armed queue's header line stands on the line (10 R185, R188, 04 R67). -/
def State.watched (s : State) (l : Loc) : Bool :=
  s.allRows.any (fun q => (q.2.2.2.watch.armed && q.2.2.2.watch.line == l) || q.2.2.2.wait.bind (·.line) == some l) ||
    s.fields.zipIdx.any (fun q => q.1.queues.any (fun x => x.st == 1 && s.fieldLine q.2 (wval x.base) Need.load == some l))
/-- A new entry for the line finds none free: the oldest entry of its die, to be recalled first. -/
def State.fullEntries (s : State) (l : Loc) : Option Loc :=
  let here := s.hostLines.filter (fun (e : HostLine) => e.line / dieLines == hbmDie l.a && (e.st != 0 || e.snoop != 0))
  if here.any (fun e => e.line == lineNo l) ∨ here.length < hostEntries then none
  else (here.head?).map (fun e => lineAddr e.line)
/-- Yields after which the home answers with MetaValue I (15 R260). -/
def maxYields : Nat := 9
/-- The entry after a read that asks for a state: after nine yields it is I while a snoop is outstanding. -/
def grantEntry (e : HostLine) (want : Nat) : HostLine :=
  if e.snoop ≠ 0 ∧ maxYields ≤ e.yields then { e with st := 0, again := false }
  else if want = 0 then e
  else { e with st := want, again := e.snoop != 0 }
/-- The state of a granted line: a watched line granted for ownership is called back at once (15 R259). In PCI Express
mode the host holds no device line. -/
def State.grantHost (s : State) (l : Loc) (want : Nat) : State :=
  if s.host.linkMode ≠ 1 then s
  else
    let s := s.setHostEntry (grantEntry (s.hostEntry l) want)
    if want = 2 && s.watched l then s.snoop true l else s

/-! ### Reads and writes (02 R45) -/

/-- The 64 bytes the host reads of a line. -/
def hostBytes (d : List Tryte) : List Nat := packData d ++ [255, 255, 255, 255, 4] ++ List.replicate 10 0
/-- What the host read is answered. -/
def State.answerRead (s : State) (l : Loc) (bs : List Nat) (poison : Bool) : State :=
  { s with host := { s.host with
      reads := s.host.reads ++ [bs]
      poison := if poison then s.host.poison ++ [lineNo l] else s.host.poison } }
/-- The check that a block supplies for a line and that disagrees with it, each trit of a byte that does not decode taken as 0;
none where it supplies none, or one that agrees. -/
def suppliedCheck (bs : List Nat) : List Nat :=
  let c := unpackBytes 49 (bs.drop 49) 18
  if noCheck bs || c == lineCheck (unpackBytes 0 bs 243) then [] else packCheck c
/-- The host's write of a whole line at its home (16 R285): a check that disagrees is stored as written; it, or bytes that do
not decode, make the line failing. -/
def State.hostStore (s : State) (l : Loc) (bs : List Nat) : State :=
  let t := s.homeWrite l ((unpackLine bs).zipIdx.map (fun q => (q.2, q.1))) false none
  if blockOk bs then t else { t.failLine l with checks := amSet [] t.checks (lineNo l) (suppliedCheck bs) }

/-- No route from the hub reaches the line: the access is logged (14 R250). -/
def State.logCut (s : State) (l : Loc) : State := s.log 12 0 (hbmDie l.a) 0 0 ((l.a / 27 : Nat) : Int)
/-- A line that is not served, or that no route reaches, reads with poison; a write of it changes nothing (log 44). A line not
in L2 is read from HBM first. -/
def State.doRead (s : State) (l : Loc) (want : Nat) : State :=
  if s.inFree l then s.answerRead l (hostBytes (List.replicate 27 0)) false
  else if s.hubCut l then (s.logCut l).answerRead l (hostBytes (List.replicate 27 0)) true
  else
    let t := if s.needsFill l then s.fillLine l else s.wakeHome l
    (t.answerRead l (hostBytes (t.lineAt l)) (t.badLine l)).grantHost l want
def State.doWrite (s : State) (l : Loc) (bs : List Nat) (inv : Bool) : State :=
  if s.inFree l || s.badWhole l then s
  else if s.hubCut l then s.logCut l
  else
    let t := (s.wakeHome l).hostStore l bs
    if inv && s.host.linkMode == 1 then
      let e := t.hostEntry l
      t.setHostEntry { e with st := 0, again := false }
    else t

/-- The line an access concerns. -/
def HostAcc.line : HostAcc → Nat
  | .read n _ => n
  | .write n _ _ => n
/-- An access must wait: its line is in scrub, or kept for device accesses (log 122), its die in F3 (04 R75), an earlier access
of the line waits, or its new entry awaits a recall. -/
def State.hostWaits (s : State) (a : HostAcc) : Bool :=
  let l := lineAddr a.line
  s.inScrub l || s.captured l || s.homeAsleep l || s.hostQueue.any (fun b => b.line == a.line) ||
    match a with
    | .read _ want => decide (want ≠ 0) && s.host.linkMode == 1 && !s.inFree l && (s.fullEntries l).isSome
    | .write _ _ _ => false
/-- Perform an access. -/
def State.hostDo (s : State) (a : HostAcc) : State :=
  match a with
  | .read n want => s.doRead (lineAddr n) want
  | .write n bs inv => s.doWrite (lineAddr n) bs inv
/-- What the home does for an access that it holds: its die is woken, and a full table's oldest entry is recalled. -/
def State.hostPrep (s : State) (a : HostAcc) : State :=
  let s := s.wakeHome (lineAddr a.line)
  match a, s.fullEntries (lineAddr a.line) with
  | .read _ _, some old => s.snoop true old
  | _, _ => s
/-- An access reaches the home: it is performed, or held. -/
def State.hostAccess (s : State) (a : HostAcc) : State :=
  if !s.hostWaits a then s.hostDo a
  else
    let s := s.hostPrep a
    { s with hostQueue := s.hostQueue ++ [a] }
/-- BIConflicts whose line no held access concerns are answered (15 R260). -/
def State.ackConflicts (s : State) : State :=
  let held (n : Nat) : Bool := s.hostQueue.any (fun b => b.line == n)
  { s with host := { s.host with
      acks := s.host.acks ++ s.host.conflicts.filter (fun n => !held n)
      conflicts := s.host.conflicts.filter held } }
/-- Held accesses are tried again, oldest first. -/
def State.serveHeld (s : State) : State :=
  (s.hostQueue.foldl (fun (t : State) a => t.hostAccess a) { s with hostQueue := [] }).ackConflicts

/-- FALLOW_EXIT (04 R75): the die that was woken is active again: what waited for its memory is served, and gangs all of whose
dies are active are ready. -/
def execFallowExit (die : Nat) (s : State) : Host.Outcome State Fault Refusal :=
  if (s.die die).waking then
    let t := s.modDie die (fun x => { x with fallow := 0, waking := false, idleSince := s.now })
    let up (g : Gang) : Gang :=
      if g.status = GangState.waking ∧ (t.fallowOf (g.blocks.map (fun (b : Block) => b.core))).isEmpty
      then { g with status := GangState.resident, deadline := if g.saveTo.isSome then t.gangCyc g + 3 ^ 21 else g.deadline } else g
    let woken : State := { t with gangs := t.gangs.map up }
    .next { woken.serveHeld with sleepers := [], agenda := woken.sleepers.map woken.resumed ++ woken.serveHeld.agenda }
  else .next s

/-- HOST_LINE_READ (15 R254, R258): want is the state the host asks for: 0 I, 1 S, 2 A. -/
def execHostLineRead (line want : Nat) (s : State) : Host.Outcome State Fault Refusal :=
  if !lineExists line || decide (2 < want) then .next s else .next (s.hostAccess (.read line want))
/-- HOST_LINE_WRITE (02 R45, 15 R258): a write of 64 bytes, with MetaValue I or not. -/
def execHostLineWrite (line : Nat) (bytes : List Nat) (inv : Bool) (s : State) : Host.Outcome State Fault Refusal :=
  if !lineExists line || bytes.length != 64 || bytes.any (fun b => decide (255 < b)) then .next s
  else .next (s.hostAccess (.write line bytes inv))

/-! ### Snoops (15 R257, R260) -/

/-- The entry after the response to its snoop: BIRspI sets I, unless a host read was granted in between; then, if a copy
that the waiting access cannot stand is left, the snoop is issued again: a yield. -/
def answeredEntry (e : HostLine) : HostLine :=
  let st := if e.again then e.st else 0
  if (e.snoop = 1 ∧ st ≠ 0) ∨ (e.snoop = 2 ∧ st = 2) then { e with st := st, again := false, yields := e.yields + 1 }
  else { e with st := st, snoop := 0, yields := 0, again := false }
/-- BACK_INVALIDATE_SNOOP_RESPONSE (15 R258, R260): the waiting device accesses are served, in arrival order, before anything
else reaches the home; or the snoop is issued again. -/
def execBackInvalidateSnoopResponse (line : Nat) (s : State) : Host.Outcome State Fault Refusal :=
  let e := s.hostEntry (lineAddr line)
  if !lineExists line || e.snoop = 0 then .next s
  else
    let e' := answeredEntry e
    let t := s.setHostEntry e'
    .next (if e'.snoop ≠ 0 then t.serveHeld else if e.waiting.isEmpty then t.serveHeld else t.serveWaiting (lineAddr line))
/-- HOST_BICONFLICT (15 R260): one BIConflictAck, once the line's earlier host requests have completed. -/
def execHostBiconflict (line : Nat) (s : State) : Host.Outcome State Fault Refusal :=
  if !lineExists line then .next s
  else .next { s with host := { s.host with conflicts := s.host.conflicts ++ [line] } }.ackConflicts
/-- HOST_SNOOP (15 R257): the RDC copies of the host's 64-byte block `line` are dropped. -/
def execHostSnoop (line : Nat) (s : State) : Host.Outcome State Fault Refusal :=
  .next ((List.range 12).foldl (fun s d => s.dropRdc d [⟨.hostLine, 27 * line⟩]) s)

end Sys2Proof.Machine
end

