-- ==== Sys2Proof/Machine/Cache.lean ====
section
/-!
DEFINITION. Write-back with compression and line migration (13 R233, R235 to R237).
-/
namespace Sys2Proof.Machine

/-- The line may be replaced: no line of its set, or of its slice, goes first (13 R233). -/
def State.mayReplace (s : State) (x : L2Line) : Bool :=
  let here := s.sliceLines (x.line / dieLines) x.slice
  s.l2Victim here == some x || s.l2Victim (here.filter (fun y => l2Set y.line == l2Set x.line)) == some x
/-- L2_WRITE_BACK (13 R235, R242): a line is replaced. -/
def execL2WriteBack (line : Nat) (s : State) : Host.Outcome State Fault Refusal :=
  match s.l2.find? (fun x => x.line == line) with
  | none => .next s
  | some x => if s.mayReplace x then .next (s.evict x) else .next s

/-! ### Migration (13 R236) -/

/-- The slice of a field nearest a quad of its die, the lowest of equals. -/
def nearestSlice (quad : Nat) : List Nat → Option Nat
  | [] => none
  | x :: r =>
    match nearestSlice quad r with
    | none => some x
    | some y => if Config.sliceHops (quad % 20) x ≤ Config.sliceHops (quad % 20) y then some x else some y
/-- Entries of one forwarding table. -/
def forwardCap : Nat := 729
/-- Forwarding entries that stand at a slice of a die. -/
def State.forwardsAt (s : State) (die slice : Nat) : Nat :=
  (s.forwards.filter (fun q => q.1 / dieLines == die && q.2 == slice)).length
/-- The line moves to a slice: its hash slice forwards to it, unless it is that slice. -/
def State.moveLine (s : State) (line target : Nat) : State :=
  let l := lineAddr line
  let s := s.makeRoom (hbmDie l.a) target line
  let s := { s.modL2 l (fun x => { x with slice := target, run := 0 }) with forwards := s.forwards.filter (fun q => q.1 != line) }
  (if s.hashSlice l = target then s else { s with forwards := s.forwards ++ [(line, s.hashSlice l)] }).trigger l
/-- Where the line migrates now: nine requests of one quad of its die, a nearer slice, no tenure, no pin, and room in the
target's forwarding table. -/
def State.migrateTo (s : State) (x : L2Line) : Option Nat :=
  let l := lineAddr x.line
  let die := hbmDie l.a
  match nearestSlice x.quad (s.slicesOf (s.lineOwner l) die) with
  | none => none
  | some t =>
    if x.run < 9 ∨ x.quad / 20 ≠ die ∨ t = x.slice ∨ !(s.marks l).isEmpty ∨ s.pinned x.line ∨ forwardCap ≤ s.forwardsAt die t
    then none else some t

/-- LINE_MIGRATE (13 R236). -/
def execLineMigrate (line : Nat) (s : State) : Host.Outcome State Fault Refusal :=
  match s.l2.find? (fun x => x.line == line) with
  | none => .next s
  | some x =>
    match s.migrateTo x with
    | none => .next s
    | some t => .next (s.moveLine line t)

end Sys2Proof.Machine
end

