-- ==== Sys2Proof/Machine/Fields.lean ====
section
/-!
DEFINITION. Fields and the headland protocol: requests and their checks, the headland states, the rehash, and a field's
reset (24 R419 to R428, 16 R271).
-/
namespace Sys2Proof.Machine

/-! ### Resources (24 R419) -/

/-- Kinds of FRCMD (Table 24.1). -/
def kindQuad : Int := 1
def kindGroup : Int := 2
def kindChan : Int := 3
/-- Resources of a kind on each die. -/
def perDie (kind : Int) : Nat := if kind = kindQuad then 20 else if kind = kindGroup then 16 else 32
/-- A selection names a resource. -/
def resOkAt (kind die index : Int) : Bool :=
  decide (1 ≤ kind ∧ kind ≤ 3 ∧ 0 ≤ die ∧ die < 12 ∧ 0 ≤ index ∧ index < (perDie kind : Int))
/-- The owner and phase of a resource. -/
def State.resource (s : State) (kind : Int) (die index : Nat) : Owner :=
  (if kind = kindQuad then s.quads else if kind = kindGroup then s.groups else s.chans).getD (perDie kind * die + index) ⟨-1, 0⟩
def State.setResource (s : State) (kind : Int) (die index : Nat) (o : Owner) : State :=
  let n := perDie kind * die + index
  if kind = kindQuad then { s with quads := s.quads.set n o }
  else if kind = kindGroup then { s with groups := s.groups.set n o }
  else { s with chans := s.chans.set n o }
/-- The resource of a request. -/
def State.reqRes (s : State) (q : FieldReq) : Owner := s.resource q.kind q.die q.index
def State.setReq (s : State) (q : FieldReq) (o : Owner) : State := s.setResource q.kind q.die q.index o

/-- A field owns a slice group, or a channel, on a die. -/
def State.groupsOn (s : State) (f die : Nat) : Nat :=
  ((List.range 16).filter (fun g => (s.resource kindGroup die g).owner == (f : Int))).length
def State.ownsChanOn (s : State) (f die : Nat) : Bool :=
  (List.range 32).any (fun c => (s.resource kindChan die c).owner == (f : Int))

/-! ### Frames (24 R422, R428) -/

/-- Whole pages of one die's stack. -/
def diePages : Nat := 1371742
/-- Pages below page p that lie in channel c. -/
def pagesBelow (c p : Nat) : Nat := (p + 31 - c) / 32
/-- A run of frames: die, first page and count. -/
structure FrameRun where
  die : Nat
  page : Nat
  count : Nat
deriving DecidableEq, Repr
/-- The frames a leaf or a pointer names. -/
def frameRun (e : Word) (count : Nat) : FrameRun :=
  ⟨(entFrame e).toNat / 3 ^ 17, (entFrame e).toNat % 3 ^ 17, count⟩
/-- An entry of a field's tables that is a pointer, or a leaf in device memory: the level it is read at, its address (none of
PTROOT), and the first virtual address it serves. -/
structure TabEntry where
  level : Nat
  at_ : Option Nat
  va : Int
  e : Word
deriving DecidableEq, Repr
def TabEntry.isLeaf (t : TabEntry) : Bool := entV t.e == 1
def TabEntry.run (t : TabEntry) : FrameRun := frameRun t.e (if t.isLeaf then 729 ^ (3 - t.level) else 1)
/-- The entries that hang under a pointer; a leaf whose FRAME is negative names no frame of a channel. -/
def State.entriesFrom (s : State) (f : Nat) : Nat → TabEntry → List TabEntry
  | 0, _ => []
  | n + 1, p => (List.range 729).flatMap (fun i =>
      let a := (entTable p.e + 3 * (i : Int)).toNat
      let t : TabEntry := ⟨p.level + 1, some a, p.va + (i : Int) * 3 ^ levelExp (p.level + 1), s.hbmWord a⟩
      if s.malformed f t.e t.level then []
      else if t.isLeaf then (if entMK t.e = 0 ∧ 0 ≤ entFrame t.e then [t] else [])
      else if entV t.e = -1 then t :: s.entriesFrom f n t else [])
/-- The entries of a field. -/
def State.entries (s : State) (f : Nat) : List TabEntry :=
  let root : TabEntry := ⟨0, none, -364 * 3 ^ 21, (s.fieldSt f).ptroot⟩
  if entV root.e != -1 || s.malformed f root.e 0 then [] else root :: s.entriesFrom f 3 root
/-- The leaves of a field in device memory. -/
def State.leafRuns (s : State) (f : Nat) : List FrameRun := ((s.entries f).filter TabEntry.isLeaf).map TabEntry.run
/-- A run lies within a longer one. -/
def FrameRun.within (a b : FrameRun) : Bool :=
  a.die == b.die && decide (a.count < b.count ∧ b.page ≤ a.page ∧ a.page < b.page + b.count)
/-- The distinct frames of a field: leaves and tables. -/
def State.usedRuns (s : State) (f : Nat) : List FrameRun :=
  let all := ((s.entries f).map TabEntry.run).foldl (fun (l : List FrameRun) x => if l.contains x then l else l ++ [x]) []
  all.filter (fun x => !all.any x.within)
/-- Frames of a run in a channel of a die. -/
def FrameRun.inChan (r : FrameRun) (die c : Nat) : Nat :=
  if r.die = die then pagesBelow c (r.page + r.count) - pagesBelow c r.page else 0
/-- Frames of a field in a channel. -/
def State.framesIn (s : State) (f die c : Nat) : Nat := ((s.usedRuns f).map (fun r => r.inChan die c)).sum
/-- Pages that hold lines of a field's pool. -/
def State.poolPages (s : State) (f : Nat) : Nat :=
  let base := (wval (s.fieldSt f).ppbase).toNat
  let size := (wval (s.fieldSt f).ppsize).toNat
  if size = 0 then 0 else 1 + (size - (729 - base % rangeLines % 729) + 728) / 729
/-- Free frames of a field's channels but one. -/
def State.freeFrames (s : State) (f die c : Nat) : Nat :=
  let others := (List.range 384).filter (fun k => (s.chans.getD k ⟨-1, 0⟩).owner == (f : Int) && k != 32 * die + c)
  (others.map (fun k => pagesBelow (k % 32) diePages - s.framesIn f (k / 32) (k % 32))).sum - s.poolPages f

/-- The first line of a channel of a die at or above line i. -/
def chanLineFrom (c i : Nat) : Nat := Max.max i (729 * (i / 729 + (c + 32 - i / 729 % 32) % 32))
/-- The channel has a line between the first and last line of the pool. -/
def State.poolSpans (s : State) (f die c : Nat) : Bool :=
  let base := wval (s.fieldSt f).ppbase
  let size := wval (s.fieldSt f).ppsize
  let i0 := base.toNat % rangeLines
  let own (k : Nat) : Bool := (s.resource kindChan die k).owner == (f : Int)
  decide (0 ≤ base ∧ 0 < size) && base.toNat / rangeLines == die && decide (chanLineFrom c i0 < dieLines) &&
    decide (((ownedBelow own (chanLineFrom c i0) - ownedBelow own i0 : Nat) : Int) < size)
/-- The channel has a line between the first and last line of some lines of a die. -/
def linesSpan (ls : List Nat) (die c : Nat) : Bool :=
  match ls.head?, ls.getLast? with
  | some a, some b => a / rangeLines == die && decide (chanLineFrom c (a % rangeLines) ≤ b % rangeLines)
  | _, _ => false
/-- The save area of a gang whose image is not yet restored or dropped. -/
def State.openArea (s : State) (g : Gang) : List Nat :=
  if g.absent || g.status == .halting || g.saveTo.isSome then
    s.areaLines g.fld (g.saveLine : Int) (imageBound (if g.portHalt then 1 else 0) g.lrec)
  else []
/-- Check −4 on a channel. -/
def State.chanHeld (s : State) (grow : Bool) (f die c : Nat) : Bool :=
  s.poolSpans f die c || s.gangs.any (fun g => g.fld == f && linesSpan (s.openArea g) die c) ||
    (!grow && decide (s.freeFrames f die c < s.framesIn f die c))

/-! ### Requests (24 R421, R422) -/

/-- The status of a request's checks (Table 24.3): 1 when it passes. -/
def State.frChecks (s : State) (grow : Bool) (kind die index fld : Int) : Int :=
  if !resOkAt kind die index ∨ fld < 0 ∨ 11 < fld then -1
  else
    let d := die.toNat
    let f := fld.toNat
    let o := s.resource kind d index.toNat
    if kind ≠ kindQuad ∧ (s.die d).service ≠ 2 then -5
    else if o.owner ≠ (if grow then -1 else fld) then -2
    else if (grow ∧ kind = kindChan ∧ s.groupsOn f d = 0) ∨
      (!grow ∧ kind = kindGroup ∧ s.groupsOn f d ≤ 1 ∧ s.ownsChanOn f d) then -3
    else if kind = kindChan ∧ s.chanHeld grow f d index.toNat then -4
    else 1

/-- FRSTAT.ST of the last request. -/
def State.frDone (s : State) (st : Int) : State := { s with host := { s.host with frst := st } }

/-! ### The rehash (24 R426) -/

/-- The slice a line's requests reach first: its forwarding entry's place, or its home. -/
def State.standsAt (s : State) (x : L2Line) : Nat := ((s.forwards.find? (fun q => q.1 == x.line)).map (·.2)).getD x.slice
/-- The lines of a field on a die to be moved, with their new hash slices: those that do not stand at it, or whose home
parts. -/
def State.rehashList (s : State) (f die : Nat) (leaving : List Nat) : List (Nat × Nat) :=
  (s.l2.filter (fun x => x.line / dieLines == die && s.lineOwner (lineAddr x.line) == (f : Int) &&
    (s.standsAt x != s.hashSlice (lineAddr x.line) || leaving.contains x.slice))).map (fun x => (x.line, s.hashSlice (lineAddr x.line)))
/-- The slices of a group. -/
def groupSlices (g : Nat) : List Nat := (List.range 16).map (fun i => 16 * g + i)
/-- The slices of the group that parts, of a request in progress. -/
def State.leavingSlices (s : State) : List Nat :=
  match s.freq with
  | some q => if q.kind = kindGroup ∧ !q.grow then groupSlices q.index else []
  | none => []

/-- REHASH_LINE_MOVE (24 R426, step 5): a line homed where it stands, or in a departing slice, moves to its new hash slice;
of a migrated line only the forwarding entry moves. Each is a migration under 10 R185. A line that stands at its new hash slice
by then does not move. -/
def execRehashLineMove (line : Nat) (s : State) : Host.Outcome State Fault Refusal :=
  match s.rehash.find? (fun q => q.1 == line) with
  | none => .next s
  | some q =>
    let t := { s with rehash := s.rehash.filter (fun x => x.1 != line) }
    match s.l2.find? (fun x => x.line == line) with
    | none => .next t
    | some x =>
      let leaves := s.leavingSlices.contains x.slice
      let rest (t : State) : List (Nat × Nat) := t.forwards.filter (fun y => y.1 != line)
      if s.standsAt x = q.2 && !leaves then .next t
      else if s.standsAt x = x.slice || leaves then
        let t := t.makeRoom (line / dieLines) q.2 line
        .next ({ t.modL2 (lineAddr line) (fun y => { y with slice := q.2, run := 0 }) with forwards := rest t }.trigger (lineAddr line))
      else
        .next ({ t with forwards := if x.slice = q.2 then rest t else rest t ++ [(line, q.2)] }.trigger (lineAddr line))

/-! ### Starting and ending a state (24 R424) -/

/-- A request passes its checks: its resource enters its first headland state. -/
def State.frStart (s : State) (q : FieldReq) : State :=
  let s := { s with freq := some q }.frDone 1
  if q.grow then s.setReq q ⟨-2, 2⟩
  else
    let s := s.setReq q ⟨(q.fld : Int), 1⟩
    if q.kind = kindGroup then { s with rehash := s.rehashList q.fld q.die (groupSlices q.index) } else s
/-- A write of FRCMD (R421). -/
def State.frcmd (s : State) (grow : Bool) (kind die index fld : Int) : State :=
  if s.freq.isSome then { s with host := { s.host with frovr := true } }
  else
    let st := s.frChecks grow kind die index fld
    if st = 1 then s.frStart ⟨grow, kind, die.toNat, index.toNat, fld.toNat⟩ else s.frDone st
/-- FRCMD_GROW (24 R421, R424). -/
def execFrcmdGrow (kind die index fld : Int) (s : State) : Host.Outcome State Fault Refusal :=
  .next (s.frcmd true kind die index fld)
/-- FRCMD_SHRINK (24 R421, R424). -/
def execFrcmdShrink (kind die index fld : Int) (s : State) : Host.Outcome State Fault Refusal :=
  .next (s.frcmd false kind die index fld)

/-- The request whose resource is of a kind and in a phase. -/
def State.inPhase (s : State) (kind phase : Int) : Option FieldReq :=
  s.freq.filter (fun q => q.kind == kind && (s.reqRes q).phase == phase)
/-- The resource enters scrub. -/
def State.toScrub (s : State) (q : FieldReq) : State := s.setReq q ⟨-2, 2⟩
/-- The request is done: the resource is owned, or free. -/
def State.frEnd (s : State) (q : FieldReq) : State :=
  ({ s with freq := none, rehash := [] }.setReq q ⟨if q.grow then (q.fld : Int) else -1, 0⟩).frDone 2

/-- QUAD_LEAVE_END (24 R427): no gang stands on the quad. -/
def execQuadLeaveEnd (s : State) : Host.Outcome State Fault Refusal :=
  match s.inPhase kindQuad 1 with
  | none => .next s
  | some q =>
    let quad := 20 * q.die + q.index
    if s.gangs.any (fun g => !g.absent && g.blocks.any (fun b => !b.retired && b.core / 4 == quad)) then .next s
    else .next (s.toScrub q)

/-- An access that was translated to a channel and has not completed. -/
def State.chanBusy (s : State) (k : Nat) : Bool :=
  let inK (l : Loc) : Bool := l.kind == .hbm && chanOf l.a == k
  let hits (o : MemOp) : Bool := o.lines.any inK
  s.cores.any (fun x => x.order.any hits) || s.allRows.any (fun q => q.2.2.2.loads.any hits || q.2.2.2.fifo.any hits) ||
    s.pushes.any (fun m => inK m.line) || s.gangs.any (fun g => g.blocks.any (fun b => b.partials.any (fun p => inK p.line)))

/-- A slice group holds a line, or a forwarding entry (24 R424). -/
def State.groupHolds (s : State) (die g : Nat) : Bool :=
  let mine (line slice : Nat) : Bool := line / dieLines == die && slice / 16 == g
  s.l2.any (fun x => mine x.line x.slice) || s.forwards.any (fun q => mine q.1 q.2)
/-- A slice group holds no tag line any more. -/
def State.dropTagLines (s : State) (die g : Nat) : State :=
  { s with tagCache := s.tagCache.filter (fun q => !(q.1 / 256 == die && q.1 % 256 / 16 == g)) }
/-- REHASH_COMPLETE (24 R424, R426): the walk has ended: join ends, or part's group, which holds no line and no forwarding entry
and drops its tag lines, goes to scrub. -/
def execRehashComplete (s : State) : Host.Outcome State Fault Refusal :=
  match s.freq with
  | none => .next s
  | some q =>
    if q.kind ≠ kindGroup ∨ !s.rehash.isEmpty then .next s
    else if (s.reqRes q).phase = 3 then .next (s.frEnd q)
    else if (s.reqRes q).phase = 1 ∧ !s.groupHolds q.die q.index then .next ((s.dropTagLines q.die q.index).toScrub q)
    else .next s

/-! ### Scrub (24 R425) -/

/-- A quad is cleared. -/
def State.scrubQuad (s : State) (quad : Nat) : State :=
  let s := (List.range 4).foldl (fun s c => s.modCore (4 * quad + c) (fun (k : Core) =>
    { k with l1 := [], order := [], escq := [], tlb := [] })) s
  { s with quadTlb := amSet [] s.quadTlb quad [] }
/-- A slice group is cleared. -/
def State.scrubGroup (s : State) (die g : Nat) : State :=
  let mine (line slice : Nat) : Bool := line / dieLines == die && slice / 16 == g
  { s.dropTagLines die g with
    l2 := s.l2.filter (fun x => !mine x.line x.slice)
    forwards := s.forwards.filter (fun q => !mine q.1 q.2)
    hostLines := s.hostLines.filter (fun (e : HostLine) => !mine e.line (s.homeSlice (lineAddr e.line))) }
/-- A channel is cleared: every line reads as 0 from now on, wherever a copy stood (log 45). -/
def State.scrubChan (s : State) (k : Nat) : State :=
  let inK (l : Loc) : Bool := l.kind == .hbm && chanOf l.a == k
  let lineIn (line : Nat) : Bool := inK (lineAddr line)
  { s with
    mem := s.mem.filter (fun q => chanOf q.1 != k)
    failing := s.failing.filter (fun a => chanOf a != k)
    tags := s.tags.filter (fun t => !lineIn (t.group / dieGroups * dieLines + 81 * (t.group % dieGroups)))
    tagCache := s.tagCache.filter (fun q => !lineIn (q.2.group / dieGroups * dieLines + 81 * (q.2.group % dieGroups)))
    tagHits := s.tagHits.filter (fun q => !lineIn (q.1 / dieGroups * dieLines + 81 * (q.1 % dieGroups)))
    sectors := s.sectors.filter (fun q => !lineIn q.1)
    checks := s.checks.filter (fun q => !lineIn q.1)
    l2 := s.l2.filter (fun x => !lineIn x.line)
    forwards := s.forwards.filter (fun q => !lineIn q.1)
    cores := s.cores.map (fun (x : Core) => { x with l1 := x.l1.filter (fun c => !inK c.line) })
    dies := s.dies.map (fun (x : DieSt) => { x with rdc := x.rdc.filter (fun c => !inK c.line) }) }
/-- What a scrub clears. -/
def State.scrub (s : State) (q : FieldReq) : State :=
  if q.kind = kindQuad then s.scrubQuad (20 * q.die + q.index)
  else if q.kind = kindGroup then s.scrubGroup q.die q.index
  else s.scrubChan (32 * q.die + q.index)
/-- A group that was scrubbed joins: the rehash begins. -/
def State.join (s : State) (q : FieldReq) : State :=
  let s := s.setReq q ⟨(q.fld : Int), 3⟩
  { s with rehash := s.rehashList q.fld q.die [] }
/-- The host accesses of a channel that its scrub holds. -/
def State.heldFor (s : State) (q : FieldReq) : List HostAcc :=
  s.hostQueue.filter (fun a => q.kind == kindChan && chanOf (lineAddr a.line).a == 32 * q.die + q.index)
/-- SCRUB_END (24 R424, R425): the resource passes to its field, to join, or to none. Host accesses that the scrub held are served
against it as the scrub leaves it, before it is free (R420); one that must wait for its die, or for an entry, has the scrub wait. -/
def execScrubEnd (s : State) : Host.Outcome State Fault Refusal :=
  match s.freq with
  | none => .next s
  | some q =>
    if (s.reqRes q).phase ≠ 2 then .next s
    else
      let t := s.scrub q
      if q.grow ∧ q.kind = kindGroup then .next (t.join q).serveHeld
      else if q.grow ∨ q.kind ≠ kindChan then .next (t.frEnd q).serveHeld
      else
        let u := (t.setReq q ⟨(q.fld : Int), 0⟩).serveHeld
        .next (if (u.heldFor q).isEmpty then u.frEnd q else (s.heldFor q).foldl State.hostPrep s)

/-! ### A field's reset (16 R271) -/

/-- A holder's tenure ends at once, as by a recall. -/
def State.loseTenure (s : State) (h : Holder) : State :=
  let ls := s.tileFoot h.fld h.handle
  let s := (s.flushBlock h.who ls).dropCopies h.core ls
  s.modBlock h.who (fun b => b.setTenure h.handle 0 true)
/-- Every handle of a field ends: requests on it are cancelled, its holders lose it, and its index is fallow. -/
def State.resetTiles (s : State) (f : Nat) : State :=
  let mine (h : Word) : Bool := hFld h == (f : Int)
  let s := s.cancelQueued (fun q => mine q.handle)
  let s := (s.holders.filter (fun h => mine h.handle)).foldl (fun s h => s.loseTenure h) s
  let s := { s with recalls := s.recalls.filter (fun m => !mine m.handle) }
  (s.modField f (fun x => { x with tiles := x.tiles.map (fun (t : TileIdx) => if t.state = 1 then { t with state := 2 } else t) })).sweepTiles f
/-- FIELD_RESET (16 R271): ends every handle of the field. -/
def execFieldReset (fld : Nat) (s : State) : Host.Outcome State Fault Refusal :=
  if fld < 12 then .next (s.resetTiles fld) else .next s

end Sys2Proof.Machine
end

