-- ==== Sys2Proof/Machine/Links.lean ====
section
/-!
DEFINITION. Links: flits and their check, the go-back-N protocol, retraining and failure (14 R247 to R251), which the Coluri
ports run too (15 R265). Link numbers 0 to 71 are those of 15 R264; 72 + k is Coluri port k, whose own end is 0.
-/
namespace Sys2Proof.Machine

/-! ### CRC-32C and flits (14 R247) -/

/-- One bit of the reflected division. -/
def crcBit (c : Nat) : Nat := if c % 2 = 1 then Nat.xor (c / 2) 0x82F63B78 else c / 2
def crcByte (c b : Nat) : Nat := crcBit (crcBit (crcBit (crcBit (crcBit (crcBit (crcBit (crcBit (Nat.xor c b))))))))
/-- CRC-32C of bytes: initial value and final XOR 0xFFFFFFFF. -/
def crc32c (bs : List Nat) : Nat := Nat.xor (bs.foldl crcByte 0xFFFFFFFF) 0xFFFFFFFF
/-- The number that bytes hold, least significant byte first, and back. -/
def leNat (bs : List Nat) : Nat := bs.foldr (fun b a => b + 256 * a) 0
def leBytes (n v : Nat) : List Nat := (List.range n).map (fun i => v / 256 ^ i % 256)

/-- Bits lo .. lo + n − 1 of a flit's header. -/
def hdrBits (bs : List Nat) (lo n : Nat) : Nat := leNat (bs.take 6) / 2 ^ lo % 2 ^ n
def flitSeq (bs : List Nat) : Nat := hdrBits bs 0 12
def flitAck (bs : List Nat) : Nat := hdrBits bs 12 12
def flitKind (bs : List Nat) : Nat := hdrBits bs 24 3
def flitCls (bs : List Nat) : Nat := hdrBits bs 27 1
/-- A flit passes its check (R248). -/
def flitOk (bs : List Nat) : Bool :=
  bs.length == 64 && bs.all (fun b => decide (b < 256)) && crc32c (bs.take 60) == leNat ((bs.drop 60).take 4) &&
    decide (flitKind bs < 5) && (flitCls bs == 0 || flitKind bs == 3)
/-- The class of a flit: 0 request, 1 response. -/
def flitClass (bs : List Nat) : Nat := if flitKind bs = 2 then 1 else if flitKind bs = 3 then flitCls bs else 0
/-- The payload of a flit, null and NAK included, is a line whose bytes decode and whose check agrees (02 R43, 13 R239). -/
def payloadOk (bs : List Nat) : Bool :=
  let p := (bs.drop 6).take 54
  blockOk p && !noCheck p && metaOk (p.getD 53 0)
/-- A flit of these fields and this payload line (Tables 14.1, 14.2). -/
def flitOf (seq ack kind cls tag : Nat) (credits : Nat × Nat) (line : List Tryte) : List Nat :=
  let h := seq % 4096 + ack * 2 ^ 12 + kind * 2 ^ 24 + cls * 2 ^ 27 + tag % 65536 * 2 ^ 28 + credits.1 * 2 ^ 44 + credits.2 * 2 ^ 46
  let body := leBytes 6 h ++ (packLine line).take 54
  body ++ leBytes 4 (crc32c body)
/-- A flit with an all-zero payload line: null (0) or NAK (4). SEQ and TAG mean nothing in it and are free. -/
def bareFlit (kind ack free : Nat) (credits : Nat × Nat) : List Nat :=
  flitOf free ack kind 0 (free / 4096) credits (List.replicate 27 0)

/-! ### Ends -/

/-- An end of a link. -/
def State.linkEnd (s : State) (link e : Nat) : LinkEnd :=
  if link < 72 then (if e = 0 then (s.links.getD link (LinkEnd.reset, LinkEnd.reset)).1
    else (s.links.getD link (LinkEnd.reset, LinkEnd.reset)).2)
  else s.coluri.getD (link - 72) LinkEnd.reset
def State.modEnd (s : State) (link e : Nat) (f : LinkEnd → LinkEnd) : State :=
  if link < 72 then
    { s with links := modAt s.links link (fun p => if e = 0 then (f p.1, p.2) else (p.1, f p.2)) }
  else { s with coluri := modAt s.coluri (link - 72) f }
/-- The end exists: both ends of a die-to-die link, end 0 of a port. -/
def endExists (link e : Nat) : Bool := (decide (link < 72) && decide (e < 2)) || (decide (link < 90) && e == 0)
/-- Log a link event (kind +13). -/
def State.logLink (s : State) (link : Nat) : State :=
  s.log 13 0 (if link < 72 then (link : Int) else 81 + ((link - 72 : Nat) : Int)) 0 0 0
/-- Count up to a bound. -/
def satUp (cap n : Nat) : Nat := if n < cap then n + 1 else n
def maxCount : Nat := 9841
def maxRetr : Nat := 13

/-- The last SEQ received in order. -/
def LinkEnd.ackOut (x : LinkEnd) : Nat := (x.expected + 4095) % 4096
/-- Credits returned with the next flit, at most three of each class. -/
def LinkEnd.creditsOut (x : LinkEnd) : Nat × Nat := (Min.min 3 x.owed.1, Min.min 3 x.owed.2)
/-- Send a null or a NAK. -/
def LinkEnd.sendBare (x : LinkEnd) (kind free : Nat) : LinkEnd :=
  let c := x.creditsOut
  { x with sent := x.sent ++ [bareFlit kind x.ackOut free c], owed := (x.owed.1 - c.1, x.owed.2 - c.2) }
/-- Send a NAK, unless one is outstanding. -/
def LinkEnd.nak (x : LinkEnd) (free : Nat) : LinkEnd :=
  if x.nakOut then x else { x.sendBare 4 free with nakOut := true }
/-- ACK = a frees the flits up to a. -/
def LinkEnd.freeTo (x : LinkEnd) (a : Nat) : LinkEnd :=
  { x with acked := a, buffer := x.buffer.filter (fun q => decide (2048 ≤ (a + 4096 - q.1) % 4096)) }
/-- Resend what is buffered, in SEQ order. -/
def LinkEnd.resend (x : LinkEnd) : LinkEnd :=
  if x.buffer.isEmpty then x else { x with sent := x.sent ++ x.buffer.map (·.2), rply := satUp maxCount x.rply }
/-- Resend at an end; a replay is logged. -/
def State.resendFrom (s : State) (link e a : Nat) : State :=
  let x := (s.linkEnd link e).freeTo a
  let t := s.modEnd link e (fun _ => x.resend)
  if x.buffer.isEmpty then t else t.logLink link

/-- The class of a flit that waits: 0 request, 1 response. -/
def FlitReq.class_ (q : FlitReq) : Nat := if q.kind = 2 then 1 else if q.kind = 3 then q.cls else 0
/-- The end may send a flit of a class: its replay buffer has room, and it holds a credit (R248, R249). -/
def LinkEnd.maySend (x : LinkEnd) (q : FlitReq) : Bool :=
  decide (x.buffer.length < 729) && decide (0 < (if q.class_ = 0 then x.credits.1 else x.credits.2))
/-- The first waiting flit that may go; a response never waits for a request's credit. -/
def LinkEnd.nextFlit (x : LinkEnd) : Option FlitReq := x.queue.find? x.maySend
/-- Send a flit: it takes the next SEQ and a credit, and stays in the replay buffer until it is acknowledged. -/
def LinkEnd.sendFlit (x : LinkEnd) (q : FlitReq) : LinkEnd :=
  let c := x.creditsOut
  let bs := flitOf x.nextSeq x.ackOut q.kind q.cls q.tag c q.line
  { x with
    sent := x.sent ++ [bs], buffer := x.buffer ++ [(x.nextSeq, bs)], nextSeq := (x.nextSeq + 1) % 4096
    owed := (x.owed.1 - c.1, x.owed.2 - c.2), queue := dropFirst (· == q) x.queue
    credits := if q.class_ = 0 then (x.credits.1 - 1, x.credits.2) else (x.credits.1, x.credits.2 - 1) }

/-- The credits a flit returns (at most the 243 buffers of a class). -/
def LinkEnd.credit (x : LinkEnd) (bs : List Nat) : LinkEnd :=
  { x with credits := (Min.min 243 (x.credits.1 + hdrBits bs 44 2), Min.min 243 (x.credits.2 + hdrBits bs 46 2)) }
/-- A flit that passes: its ACK counts; one with a SEQ is delivered, a duplicate, or out of sequence (R249). Its credits count
once: those of a flit that is discarded came with the one that was delivered, or come again in the replay. -/
def LinkEnd.accept (x : LinkEnd) (bs : List Nat) (free : Nat) : LinkEnd :=
  let x := x.freeTo (flitAck bs)
  if flitKind bs = 0 ∨ flitKind bs = 4 then x.credit bs
  else if flitSeq bs = x.expected then
    { x.credit bs with
      delivered := x.delivered ++ [bs], expected := (x.expected + 1) % 4096, nakOut := false, badRun := 0
      owed := if flitClass bs = 0 then (x.owed.1 + 1, x.owed.2) else (x.owed.1, x.owed.2 + 1) }
  else if (x.expected + 4096 - flitSeq bs) % 4096 ≤ 2048 then x
  else x.nak free
/-- A flit that fails: a NAK outstanding for the expected flit is answered by that flit's failure, and the failures of one
SEQ in succession are counted (DEDUCED, log 46). -/
def LinkEnd.reject (x : LinkEnd) (seq : Nat) : LinkEnd :=
  let x := { x with crce := satUp maxCount x.crce }
  if seq = x.expected then
    { x with nakOut := false, badSeq := seq, badRun := if x.badSeq = seq then x.badRun + 1 else 1 }
  else x

/-- Both ends of a link begin to retrain (R250). -/
def State.retrain (s : State) (link : Nat) : State :=
  let f (x : LinkEnd) : LinkEnd := { x with state := 0, retr := satUp maxRetr x.retr, nakOut := false, badRun := 0 }
  let t := s.modEnd link 0 f
  (if link < 72 then t.modEnd link 1 f else t).logLink link
/-- Successive failures of one SEQ that make the link retrain. -/
def maxBad : Nat := 3

/-- A flit passes whose payload's line check disagrees: logged as a line that no code repairs (13 R239; log 114). -/
def State.logPayload (s : State) (bs : List Nat) : State := if payloadOk bs then s else s.log 12 0 0 0 0 0

/-- FLIT_RECEIVE (R248, R249): the flit reaches end e of a link that is up. -/
def execFlitReceive (link e : Nat) (bytes : List Nat) (s : State) : Host.Outcome State Fault Refusal :=
  let x := s.linkEnd link e
  let free := (Config.freeWord s.steps).val
  if !endExists link e || x.state != 1 then .next s
  else if flitOk bytes then
    let t := (s.logPayload bytes).modEnd link e (fun y => y.accept bytes free)
    .next (if flitKind bytes = 4 then t.resendFrom link e (flitAck bytes) else t)
  else
    let y := x.reject (flitSeq bytes)
    let t := (s.modEnd link e (fun _ => y)).logLink link
    if maxBad ≤ y.badRun then .next (t.retrain link) else .next (t.modEnd link e (fun z => z.nak free))

/-- NAK_RECEIVE (R249): the sender at end e resends from the flit after `ack`. -/
def execNakReceive (link e ack : Nat) (s : State) : Host.Outcome State Fault Refusal :=
  if !endExists link e || (s.linkEnd link e).state != 1 || decide (4096 ≤ ack) then .next s
  else .next (s.resendFrom link e ack)

/-- NULL_FLIT_SEND (R249): an end with a flit that may go sends it; an idle end sends a null flit. -/
def execNullFlitSend (link e : Nat) (s : State) : Host.Outcome State Fault Refusal :=
  if !endExists link e || (s.linkEnd link e).state != 1 then .next s
  else .next (s.modEnd link e (fun x =>
    match x.nextFlit with
    | some q => x.sendFlit q
    | none => x.sendBare 0 (Config.freeWord s.steps).val))
/-- A flit for line n sets out from a die, or goes on from one on its way, towards another die: it waits at the end of the
link that R245 names. What transaction an access puts into its flits, and when, the agenda says (log 114). -/
def State.flitFrom (s : State) (die dst : Nat) (n : Int) (q : FlitReq) : State :=
  if die = dst ∨ 12 < die ∨ 12 < dst ∨ q.kind = 0 ∨ 3 < q.kind ∨ 1 < q.cls ∨ (q.cls = 1 ∧ q.kind ≠ 3) ∨ q.line.length ≠ 27 then s
  else
    match s.hopLink die dst n with
    | none => s
    | some k => s.modEnd k (if (linkDies k).1 = die then 0 else 1) (fun x => { x with queue := x.queue ++ [q] })
/-- The direction of the next hop in the pod from one identity to another: +x, −x, +y, −y, +z, −z as 0 to 5, the first
dimension that differs, the shorter way round the torus (15 R265; log 114). -/
def podHop (own dst : Int) : Option Nat :=
  let way (lo : Nat) : Int := wrapT 2 (field dst lo 2 - field own lo 2)
  if way 4 ≠ 0 then some (if 0 < way 4 then 0 else 1)
  else if way 2 ≠ 0 then some (if 0 < way 2 then 2 else 3)
  else if way 0 ≠ 0 then some (if 0 < way 0 then 4 else 5)
  else none
/-- The port of a direction that carries line n: its ports are 3 × direction and the two after it, and the line takes
n mod 3, or the next after it that has not failed (log 114). -/
def State.podPort (s : State) (way : Nat) (n : Int) : Option Nat :=
  ((List.range 3).map (fun (i : Nat) => 3 * way + ((n + (i : Int)) % 3).toNat)).find? (fun p => (s.linkEnd (72 + p) 0).state != -1)
/-- A flit for line n sets out for another device, or goes on from this one: it waits at the Coluri port of its next hop
(15 R265). -/
def State.flitToPod (s : State) (dst n : Int) (q : FlitReq) : State :=
  if trit (wval s.host.podctl) 6 ≠ 1 ∨ q.kind = 0 ∨ 3 < q.kind ∨ 1 < q.cls ∨ (q.cls = 1 ∧ q.kind ≠ 3) ∨ q.line.length ≠ 27 then s
  else
    match (podHop (field (wval s.host.podctl) 0 6) dst).bind (fun w => s.podPort w n) with
    | none => s
    | some p => s.modEnd (72 + p) 0 (fun x => { x with queue := x.queue ++ [q] })

/-! ### The end of retraining (R250) -/

/-- After training both senders resend from the other end's expected SEQ. -/
def State.exchange (s : State) (link : Nat) : State :=
  if link < 72 then
    let a := (s.linkEnd link 0).ackOut
    let b := (s.linkEnd link 1).ackOut
    (s.resendFrom link 0 b).resendFrom link 1 a
  else s
/-- The link that takes over a failed link's lines (R245). -/
def State.standIn (s : State) (link : Nat) : Option Nat :=
  s.linkFor (linkDies link).1 (linkDies link).2 ((link % 4 : Nat) : Int)
/-- The flits of a failed link go over the link that R245 names and reach the other end once and in order, and those that
wait go on there. -/
def State.carryOver (s : State) (link e : Nat) : State :=
  let x := (s.linkEnd link e).freeTo (s.linkEnd link (1 - e)).ackOut
  let fs := x.buffer.map (·.2)
  let t := (s.modEnd link e (fun _ => { x with buffer := [], queue := [] })).modEnd link (1 - e) (fun y =>
    { y with delivered := y.delivered ++ fs, expected := (y.expected + fs.length) % 4096 })
  match s.standIn link with
  | none => t
  | some k => t.modEnd k e (fun y => { y with sent := y.sent ++ fs, queue := y.queue ++ x.queue })
/-- Gangs that straddle two dies whose links have all failed end with reason 12 (26 Table 26.1). -/
def State.endStraddle (s : State) (d e : Nat) : State :=
  let on (g : Gang) (x : Nat) : Bool := g.blocks.any (fun b => b.core / 80 == x && !b.retired)
  (s.gangs.filter (fun g => !g.absent && on g d && on g e)).foldl (fun t g => t.endGrid g.grid 12) s
/-- A link fails: its unacknowledged flits go over another link of the pair; with none left, straddling gangs end. -/
def State.failLink (s : State) (link : Nat) : State :=
  let f (x : LinkEnd) : LinkEnd := { x with state := -1 }
  let s := ((s.modEnd link 0 f).modEnd link 1 f).logLink link
  if 68 ≤ link then s
  else
    let p := linkDies link
    if (pairLinks p.1 p.2).all (fun k => s.linkState k == -1) then s.endStraddle p.1 p.2
    else (s.carryOver link 0).carryOver link 1

/-- A link trains at a width: + 64 lanes, − 32. -/
def State.upLink (s : State) (link : Nat) (wid : Int) : State :=
  let f (x : LinkEnd) : LinkEnd := { x with state := 1, wid := wid }
  (s.modEnd link 0 f).modEnd link 1 f
/-- RETRAIN_COMPLETE (R250), of a link that has been up: `wide` and `narrow` say which trainings succeed; a link that has run at 32 lanes tries no
other. -/
def execRetrainComplete (link : Nat) (wide narrow : Bool) (s : State) : Host.Outcome State Fault Refusal :=
  let x := s.linkEnd link 0
  if !endExists link 0 || x.state != 0 || x.wid == 0 then .next s
  else if wide && x.wid != -1 then .next ((s.upLink link 1).exchange link)
  else if narrow then .next ((s.upLink link (-1)).exchange link)
  else .next (s.failLink link)

/-- LINKST (Table 14.3); WID reads 0 while the link is not up. -/
def LinkEnd.status (x : LinkEnd) : Int :=
  x.state + 3 * (if x.state = 1 then x.wid else 0) + 9 * (x.crce : Int) + 3 ^ 11 * (x.rply : Int) + 3 ^ 20 * (x.retr : Int)

end Sys2Proof.Machine
end

