-- ==== Sys2Proof/Machine/Bringup.lean ====
section
/-!
DEFINITION. Reset and firmware (01 R16), bring-up and seedling service (01 R18, R19), hardware trips (01 R14) and the SPDM
responses (15 R262).
-/
namespace Sys2Proof.Machine

/-! ### Firmware (01 R16) -/

/-- The three checks of an image. -/
def imageOk (fused : Nat) (image : List Nat) : Bool :=
  Config.imageSigned image && decide (fused ≤ Config.imageVersion image)
/-- An image runs: it may raise the current portable version, and never lowers it (03 R51). -/
def Firmware.run (f : Firmware) (image : List Nat) : Firmware :=
  { f with mode := 1, image := image, recctl := 0, vc := Max.max f.vc (Config.portableVersion (Config.imageVersion image)) }
/-- The boot ROM checks the image of the flash slot: it runs, or the device enters recovery; a part of an image fails. -/
def Firmware.boot (f : Firmware) : Firmware :=
  if !f.torn && imageOk f.fused f.flash then { f.run f.flash with buffer := [] }
  else { f with mode := -1, image := [], buffer := [], recctl := 0 }
/-- What a device reset leaves: the package's fuses and flash, the host's and the peers' memories, the mode chosen for the
host link (R253), and the model's own fields. -/
def State.afterReset (s : State) : State :=
  let r := State.reset
  { r with
    agenda := s.agenda, steps := s.steps, hostMem := s.hostMem, peerMem := s.peerMem
    fw := { r.fw with flash := s.fw.flash, fused := s.fw.fused, vc := s.fw.vc, torn := s.fw.torn }
    cores := s.cores.map (fun (k : Core) => { Core.reset with sdie := k.sdie, fused := k.fused })
    host := { r.host with hlmode := s.host.hlmode, linkMode := s.host.hlmode } }
/-- DEVICE_RESET (01 R16): every part of the device is reset, then the boot ROM checks the firmware image. -/
def execDeviceReset (s : State) : Host.Outcome State Fault Refusal :=
  .next { s.afterReset with fw := s.afterReset.fw.boot }
/-- RECCTL_SUBMIT (01 R16, 15 Table 15.4): in recovery, RECCTL reads +1 while the buffered image is checked; then the image
runs, or it is discarded and recovery continues. -/
def execRecctlSubmit (s : State) : Host.Outcome State Fault Refusal :=
  if s.fw.mode ≠ -1 then .next s
  else if s.fw.recctl ≠ 1 then .next { s with fw := { s.fw with recctl := 1 } }
  else if imageOk s.fw.fused s.fw.buffer then .next { s with fw := s.fw.run s.fw.buffer }
  else .next { s with fw := { s.fw with buffer := [], recctl := -1 } }
/-- SECURITY_VERSION_ADVANCE (01 R16): only while a verified image runs, and only upwards, to the version the host names
(DESIGN CHOICE, log 12: the spec does not say to which). -/
def execSecurityVersionAdvance (v : Nat) (s : State) : Host.Outcome State Fault Refusal :=
  if s.fw.mode = 1 ∧ s.fw.fused < v then .next { s with fw := { s.fw with fused := v } } else .next s
/-- FIRMWARE_SLOT_REWRITE (01 R16): only while a verified image runs. The rewrite begins, and from then on a reset would find
a part of an image in the slot; performed again, it is done. -/
def execFirmwareSlotRewrite (image : List Nat) (s : State) : Host.Outcome State Fault Refusal :=
  if s.fw.mode ≠ 1 then .next s
  else if s.fw.rewriting = some image then
    .next { s with fw := { s.fw with flash := image, rewriting := none, torn := false } }
  else .next { s with fw := { s.fw with rewriting := some image, torn := true } }

/-! ### Seedling service (01 R18, R19) -/

/-- SEEDLING_ENTRY (01 R18): the die's bank stores and L2 are scrubbed. -/
def execSeedlingEntry (die : Nat) (s : State) : Host.Outcome State Fault Refusal :=
  if 12 ≤ die ∨ (s.die die).service ≠ 0 ∨ s.halted then .next s
  else .next (s.modDie die (fun (d : DieSt) => { d with service := 1 }))
/-- LINK_TRAINED (01 Table 1.5, Table 1.6): a link, or a Coluri port as link 72 + k, trains at 64 or 32 lanes, or fails. -/
def execLinkTrained (link lanes : Nat) (s : State) : Host.Outcome State Fault Refusal :=
  let x := s.linkEnd link 0
  if !endExists link 0 || x.state != 0 || x.wid != 0 then .next s
  else if lanes = 64 then .next (s.upLink link 1)
  else if lanes = 32 then .next (s.upLink link (-1))
  else .next (s.failLink link)
/-- HBM_STACK_TRAINED (01 R19, Table 1.6). -/
def execHbmStackTrained (die : Nat) (ok : Bool) (s : State) : Host.Outcome State Fault Refusal :=
  if 12 ≤ die ∨ (s.die die).hbm ≠ 0 then .next s
  else .next (s.modDie die (fun (d : DieSt) => { d with hbm := if ok then 1 else -1 }))
/-- Every link of a die to the hub die or to a die in service is up. -/
def State.linksTrained (s : State) (die : Nat) : Bool :=
  (dieLinks die).all (fun l =>
    let p := linkDies l
    let e := if p.1 = die then p.2 else p.1
    s.linkState l == 1 || (e != 12 && (s.die e).service == 0))
/-- A die's pinned lines are written back (13 R242); they stay in L2, clean and unpinned. -/
def State.unpin (s : State) (die : Nat) : State :=
  let mine (x : L2Line) : Bool := x.line / dieLines == die
  let s := (s.l2.filter mine).foldl (fun s x => s.storeTag x) s
  { s with l2 := s.l2.map (fun (x : L2Line) => if mine x then { x with dirty := false } else x) }
/-- LEAVE_SEEDLING (01 R19): the stack and the links have trained. -/
def execLeaveSeedling (die : Nat) (s : State) : Host.Outcome State Fault Refusal :=
  let d := s.die die
  if 12 ≤ die ∨ d.service ≠ 1 ∨ d.hbm ≠ 1 ∨ !s.linksTrained die then .next s
  else .next ((s.unpin die).modDie die (fun (x : DieSt) => { x with service := 2 }))

/-! ### Trips (01 R14) -/

/-- Log a trip (kind +15); its place is a die's, or the package's. -/
def State.logTrip (s : State) (place : Int) : State := s.log 15 0 place 0 0 0
/-- JUNCTION_TRIP: a die runs at 350 MHz. -/
def execJunctionTrip (die : Nat) (s : State) : Host.Outcome State Fault Refusal :=
  if 12 ≤ die ∨ (s.die die).hot then .next s
  else .next ((s.modDie die (fun (d : DieSt) => { d with hot := true })).logTrip (die : Int))
/-- POWER_TRIP: every compute die runs at 350 MHz. -/
def execPowerTrip (s : State) : Host.Outcome State Fault Refusal :=
  if s.power then .next s else .next ({ s with power := true }.logTrip 0)
/-- TRIP_RELEASE: of a die's trip, or of the power trip. -/
def execTripRelease (die : Option Nat) (s : State) : Host.Outcome State Fault Refusal :=
  match die with
  | none => .next { s with power := false }
  | some d => .next (s.modDie d (fun (x : DieSt) => { x with hot := false }))
/-- A die's core clock in MHz (01 R14, R18, R19): 0 when the compute dies are halted. -/
def State.clock (s : State) (die : Nat) : Nat :=
  let d := s.die die
  if s.halted then 0 else if s.power || d.hot || d.service != 2 then 350 else 700
/-- THERMAL_HALT: the compute dies are halted, every resident grid ends (26 Table 26.1, reason 11), and the host is
signalled. -/
def execThermalHalt (s : State) : Host.Outcome State Fault Refusal :=
  if s.halted then .next s
  else
    let here (x : Grid) : Bool := s.gangs.any (fun g => g.grid == x.id && !g.absent)
    let t := ({ s with halted := true, host := { s.host with signals := s.host.signals + 1 } }.logTrip 0)
    .next ((s.grids.filter here).foldl (fun t x => t.endGrid x.id 11) t)

/-! ### SPDM (15 R262) -/

/-- A response: the version byte of SPDM 1.3, the response's code, and what R262 says it carries (PRESUMED, log 47). -/
def State.spdmAnswer (s : State) (code : Nat) (body : List Nat) : State :=
  { s with host := { s.host with spdm := s.host.spdm ++ [0x13 :: code :: body] } }
/-- ERROR. -/
def spdmError : Nat := 0x7F
/-- The alias key's certificate chain for the running image (01 R17); with none running, that of the empty image (DESIGN
CHOICE, log 6: the spec does not say). -/
def State.chain (s : State) : List Nat := Config.certChain (Config.sm3 s.fw.image)
/-- The measurement of an index (R262); of the empty image while none runs (DESIGN CHOICE, log 6). -/
def State.measurement (s : State) (i : Nat) : Option (List Nat) :=
  if i = 1 then some (Config.sm3 Config.romBytes)
  else if i = 2 then some (Config.sm3 s.fw.image)
  else if i = 3 then some (Config.sm3 Config.translatorBytes)
  else none

/-- GET_VERSION: 1.3. -/
def execGetVersion (s : State) : Host.Outcome State Fault Refusal := .next (s.spdmAnswer 0x04 [0x13])
/-- GET_CAPABILITIES: certificates, challenges and measurements with signature; no key exchange. -/
def execGetCapabilities (s : State) : Host.Outcome State Fault Refusal := .next (s.spdmAnswer 0x61 [0x02, 0x04, 0x10])
/-- NEGOTIATE_ALGORITHMS: SM2 for signatures and SM3 for digests are all that is offered. -/
def execNegotiateAlgorithms (s : State) : Host.Outcome State Fault Refusal := .next (s.spdmAnswer 0x63 [0x1B, 0x12])
/-- GET_DIGESTS: the digest of slot 0's chain. -/
def execGetDigests (s : State) : Host.Outcome State Fault Refusal := .next (s.spdmAnswer 0x01 (Config.sm3 s.chain))
/-- GET_CERTIFICATE: slot 0's chain. -/
def execGetCertificate (slot : Nat) (s : State) : Host.Outcome State Fault Refusal :=
  .next (if slot = 0 then s.spdmAnswer 0x02 s.chain else s.spdmAnswer spdmError [])
/-- CHALLENGE: signed with the alias key. -/
def execChallenge (nonce : List Nat) (s : State) : Host.Outcome State Fault Refusal :=
  .next (s.spdmAnswer 0x03 (nonce ++ Config.sm2Sign (Config.sm3 s.fw.image) (Config.sm3 (s.chain ++ nonce))))
/-- GET_MEASUREMENTS: indices 1, 2 and 3. -/
def execGetMeasurements (index : Nat) (s : State) : Host.Outcome State Fault Refusal :=
  match s.measurement index with
  | some d => .next (s.spdmAnswer 0x60 (index :: d))
  | none => .next (s.spdmAnswer spdmError [])

end Sys2Proof.Machine
end

