-- ==== Sys2Proof/Machine/HostIf.lean ====
section
/-!
DEFINITION. The host's registers (15 R253, R261 to R264), functions and their resets (04 R73, 15 R261), and the key table
(03 R50).
-/
namespace Sys2Proof.Machine

/-! ### Keys (15 R261) -/

/-- A key's entry of a field's table is written; nothing else of the field changes. -/
def State.setKey (s : State) (f key : Nat) (ws : Option (List Word)) : State :=
  s.modField f (fun x => { x with keys := x.keys.filter (fun k => k.1 != key) ++ (ws.map (fun w => (key, w))).toList })
/-- A device line that a field's key may be read from: in its channels, served, not failing, and with a route from the hub. -/
def State.keyLine (s : State) (f : Nat) (m : Int) : Bool :=
  let l : Loc := ⟨.hbm, 27 * m.toNat⟩
  decide (0 ≤ m) && hbmExists l.a && s.lineOwner l == (f : Int) && !s.badLine l && !s.hubCut l
/-- The lines at KEYADR. -/
def State.keyLines (s : State) (f : Nat) : List Loc :=
  let m := wval s.host.keyadr
  if s.keyLine f m && s.keyLine f (m + 1) then [⟨.hbm, 27 * m.toNat⟩, ⟨.hbm, 27 * (m.toNat + 1)⟩] else []
/-- The fourteen words at KEYADR; none when a line is outside the field's channels or unreadable, or a coordinate is out of
range. -/
def State.keyAt (s : State) (f : Nat) : Option (List Word) :=
  let m := wval s.host.keyadr
  if s.keyLine f m && s.keyLine f (m + 1) then
    let ws := (s.devLine m.toNat ++ s.devLine (m.toNat + 1)).take 14
    if (value256 (ws.take 7)).isSome && (value256 (ws.drop 7)).isSome then some ws else none
  else none
/-- KEYCMD's fields are in range. -/
def keySel (fld key : Int) : Bool := decide (0 ≤ fld ∧ fld ≤ 11 ∧ 0 ≤ key ∧ key ≤ 26)
/-- KEYCMD holds what was written. -/
def State.keycmdIs (s : State) (fld key op : Int) : State :=
  { s with host := { s.host with keycmd := word (fld + 81 * key + 3 ^ 8 * op) } }
/-- KEYCMD_ERASE (15 R261). -/
def execKeycmdErase (fld key : Int) (s : State) : Host.Outcome State Fault Refusal :=
  if keySel fld key then .next ((s.setKey fld.toNat key.toNat none).keycmdIs fld key 3) else .next s
/-- KEYCMD_INSTALL (15 R261): refused with a log record of kind +16. -/
def execKeycmdInstall (fld key : Int) (s : State) : Host.Outcome State Fault Refusal :=
  if !keySel fld key then .next s
  else
    let t := s.keycmdIs fld key 1
    match s.snoopFirst false (s.keyLines fld.toNat) with
    | some u => .next ((u.keycmdIs fld key 1).await (.event (.keycmdInstall fld key)) 0 (s.keyLines fld.toNat))
    | none =>
    match s.keyAt fld.toNat with
    | some ws => .next (t.setKey fld.toNat key.toNat (some ws))
    | none => .next (t.log 16 0 0 0 s.host.keyadr (wval s.host.keyadr))

/-! ### Functions (04 R73, 15 R261) -/

/-- SRIOV_VF_ENABLE (04 R73): a VF that is not bound cannot be enabled. -/
def execSriovVfEnable (vf : Nat) (on : Bool) (s : State) : Host.Outcome State Fault Refusal :=
  if on && s.host.vffield.getD vf (-1) == -1 then .next s
  else .next { s with host := { s.host with vfon := s.host.vfon.set vf on } }
/-- Disarm the queues of a field that a function armed. -/
def State.disarmBy (s : State) (f : Nat) (fn : Int) : State :=
  (List.range 9).foldl (fun s q => if (s.queue f q).by_ = fn ∧ (s.queue f q).st = 1 then s.disarm f q else s) s
/-- What the lines that the disarming of a function's queues writes need first (15 R258). -/
def State.resetAwait (s : State) (vf : Nat) : Option State :=
  (List.range 12).findSome? (fun f => s.fieldAwait (.event (.functionLevelReset vf)) f []
    ((List.range 9).flatMap (fun q => if (s.queue f q).by_ = (vf : Int) then s.disarmAddrs f q else [])))
/-- FUNCTION_LEVEL_RESET (15 R261): the register state is gone, a request ends with status 0, its queues are disarmed. -/
def execFunctionLevelReset (vf : Nat) (s : State) : Host.Outcome State Fault Refusal :=
  if 128 ≤ vf then .next s
  else match s.resetAwait vf with
  | some t => .next t
  | none =>
    let s := match (s.fnRegs (vf : Int)).loading with
      | some (f, slot, _) => s.clearSlot f slot
      | none => s
    let s := s.modFn (vf : Int) (fun _ => ⟨0, 0, false, 0, none⟩)
    .next ((List.range 12).foldl (fun s f => s.disarmBy f (vf : Int)) s)
/-- HOST_LINK_RETRAIN (15 R253): at x8 and half rate. -/
def execHostLinkRetrain (s : State) : Host.Outcome State Fault Refusal :=
  .next { s with host := { s.host with linkHalf := true } }

/-! ### The function block (Table 15.3) -/

/-- A write that a definition of one outcome performs. -/
def nextOf (s : State) (o : Host.Outcome State Fault Refusal) : State :=
  match o with
  | .next t => t
  | _ => s
/-- A write of CLCMD (03 R53, Table 3.2). -/
def State.writeClcmd (s : State) (fn v : Int) : State :=
  let op := field v 0 2
  let slot := field v 2 5
  if op = 0 then s
  else if op = 1 then nextOf s (execClcmdLoad fn slot s)
  else if op = 3 then nextOf s (execClcmdUnload fn slot s)
  else nextOf s (s.clRequest fn (fun _ => .next (s.clStatus fn slot (-5))))
/-- A write of the function block. -/
def State.writeFn (s : State) (fn : Int) (off : Nat) (v : Int) : State :=
  if off < 0x48 then nextOf s (execLqbaseArm fn (off / 8) (word v) s)
  else if off = 0x50 then s.modFn fn (fun x => { x with clbase := word v })
  else if off = 0x58 then s.writeClcmd fn v
  else if off = 0x60 then (if trit v 3 = 0 then s.modFn fn (fun x => { x with ovr := false }) else s)
  else s

/-! ### The device block (Table 15.4) -/

def State.modHost (s : State) (f : HostRegs → HostRegs) : State := { s with host := f s.host }
/-- A write that a range admits. -/
def State.hostIf (s : State) (ok : Bool) (f : HostRegs → HostRegs) : State := if ok then s.modHost f else s
/-- A field holds a resident or saved gang. -/
def State.hasGang (s : State) (f : Nat) : Bool := s.gangs.any (fun g => g.fld == f)
/-- PPBASEf and PPSIZEf (15 R261). -/
def State.writePool (s : State) (f : Nat) (base : Bool) (v : Int) : State :=
  if s.hasGang f then s
  else if base then
    (if 0 ≤ v ∧ hbmExists (27 * v.toNat) ∧ s.lineOwner ⟨.hbm, 27 * v.toNat⟩ = (f : Int) then
      s.modField f (fun x => { x with ppbase := word v }) else s)
  else if 0 ≤ v then s.modField f (fun x => { x with ppsize := word v }) else s
/-- A word of the window table (15 R256, R263): 0 base, 1 limit, 2 control. -/
def Window.write (w : Window) (k : Nat) (v : Int) : Window :=
  if k = 2 then
    (if (List.range 3).all (fun i => trit v i != -1) then { w with ctl := word (field v 0 3) } else w)
  else if v < 0 ∨ 2 ^ 40 ≤ v then w
  else if k = 0 then { w with base := word v } else { w with lim := word v }
/-- A word of the export table (15 R267): 0 control, 1 base. -/
def Export.write (x : Export) (k : Nat) (v : Int) : Export :=
  if k = 0 then
    (if trit v 0 ≠ -1 ∧ 0 ≤ field v 1 4 ∧ field v 1 4 ≤ 11 then { x with ctl := word (field v 0 5) } else x)
  else if v % 3 ^ 21 = 0 then { x with base := word v } else x
/-- A write of LINKST: each counter is cleared by a 0 (00 R9). -/
def LinkEnd.write (x : LinkEnd) (v : Int) : LinkEnd :=
  { x with
    crce := if field v 2 9 = 0 then 0 else x.crce
    rply := if field v 11 9 = 0 then 0 else x.rply
    retr := if field v 20 3 = 0 then 0 else x.retr }
/-- A write of KEYCMD (15 R261): other operations are ignored. -/
def State.writeKeycmd (s : State) (v : Int) : State :=
  let f := field v 0 4
  let k := field v 4 4
  let op := field v 8 2
  if op = 1 then nextOf s (execKeycmdInstall f k s)
  else if op = 3 then nextOf s (execKeycmdErase f k s)
  else s
/-- A write of FRCMD (24 Table 24.1). -/
def State.writeFrcmd (s : State) (v : Int) : State :=
  let op := field v 0 2
  if op = 0 then s
  else if op = 1 ∨ op = 3 then s.frcmd (op == 1) (field v 2 2) (field v 4 4) (field v 8 5) (field v 13 4)
  else if s.freq.isSome then s.modHost (fun h => { h with frovr := true })
  else s.frDone (-1)
/-- The single registers of the device block. -/
def State.writeDev (s : State) (off : Nat) (v : Int) : State :=
  if off = 0x100 then s.hostIf (decide (0 ≤ field v 0 4 ∧ field v 0 4 ≤ 11)) (fun h => { h with pffield := (field v 0 4).toNat })
  else if off = 0x110 then (if v = 1 then nextOf s (execRecctlSubmit s) else s)
  else if off = 0x118 then s.hostIf (trit v 0 != -1) (fun h => { h with hlmode := word (trit v 0) })
  else if off = 0x120 then s.hostIf (decide (1 ≤ v ∧ v ≤ 242)) (fun h => { h with ratecap := word v })
  else if off = 0x128 then s.hostIf (trit v 6 != -1) (fun h => { h with podctl := word (field v 0 7) })
  else if off = 0x130 then s.writeKeycmd v
  else if off = 0x138 then s.modHost (fun h => { h with keyadr := word v })
  else if off = 0x140 then s.writeFrcmd v
  else if off = 0x148 then s.hostIf (trit v 3 == 0) (fun h => { h with frovr := false })
  else if off = 0x150 then s.modHost (fun h => { h with frqsel := word (field v 2 11 * 9) })
  else if off = 0x168 then s.modHost (fun h => { h with elogtail := word v })
  else if off = 0x170 then s.hostIf (v == 0) (fun h => { h with eloglost := 0 })
  else s
/-- The arrays of the device block. -/
def State.writeArr (s : State) (off : Nat) (v : Int) : State :=
  let at_ (base : Nat) : Nat := (off - base) / 8
  if 0x200 ≤ off ∧ off < 0x260 then
    (if 0 ≤ v ∧ v ≤ 3 ^ 18 then s.modField (at_ 0x200) (fun x => { x with fltol := word v }) else s)
  else if 0x280 ≤ off ∧ off < 0x2E0 then s.modField (at_ 0x280) (fun x => { x with minver := word v })
  else if 0x300 ≤ off ∧ off < 0x360 then s.writePool (at_ 0x300) true v
  else if 0x380 ≤ off ∧ off < 0x3E0 then s.writePool (at_ 0x380) false v
  else if 0x400 ≤ off ∧ off < 0x800 then
    s.hostIf (decide (-1 ≤ field v 0 4 ∧ field v 0 4 ≤ 11) && !s.host.vfon.getD (at_ 0x400) false)
      (fun h => { h with vffield := h.vffield.set (at_ 0x400) (field v 0 4) })
  else if 0x800 ≤ off ∧ off < 0xA88 then
    s.modHost (fun h => { h with windows := modAt h.windows (at_ 0x800 / 3) (fun w => w.write (at_ 0x800 % 3) v) })
  else if 0xB00 ≤ off ∧ off < 0xB90 then
    s.modHost (fun h => { h with exports := modAt h.exports (at_ 0xB00 / 2) (fun x => x.write (at_ 0xB00 % 2) v) })
  else if 0xC00 ≤ off ∧ off < 0xC60 then
    s.hostIf (v == 0) (fun h => { h with cecnt := h.cecnt.set (at_ 0xC00) 0 })
  else if 0x1000 ≤ off ∧ off < 0x1480 then s.modEnd (at_ 0x1000 / 2) (at_ 0x1000 % 2) (fun x => x.write v)
  else if 0x1800 ≤ off ∧ off < 0x1890 then s.modEnd (72 + at_ 0x1800) 0 (fun x => x.write v)
  else s

/-! ### The recovery buffer (01 R16, 15 R264) -/

/-- Where the model's offsets of BAR 4 begin, behind the 128 KiB of BAR 0 (log 48), and the buffer's size. -/
def bar4 : Nat := 0x20000
def bufferBytes : Nat := 50331648
/-- Write bytes into the buffer, which holds what was written from byte 0 on. -/
def putBytes (buf : List Nat) (at_ : Nat) (bs : List Nat) : List Nat :=
  buf.take at_ ++ List.replicate (at_ - buf.length) 0 ++ bs ++ buf.drop (at_ + bs.length)
/-- A write of some bytes of the buffer: only in recovery, and not while the image is checked (DESIGN CHOICE, log 12). -/
def State.writeBuffer (s : State) (off size : Nat) (v : Int) : State :=
  if s.fw.mode ≠ -1 ∨ s.fw.recctl = 1 ∨ bufferBytes < off + size then s
  else { s with fw := { s.fw with buffer := putBytes s.fw.buffer off (leBytes size (v % 2 ^ (8 * size)).toNat) } }
/-- A read of some bytes of the buffer; it is exposed in recovery only. -/
def State.readBuffer (s : State) (off size : Nat) : Nat :=
  if s.fw.mode ≠ -1 then 0 else leNat ((List.range size).map (fun i => s.fw.buffer.getD (off + i) 0))

/-- HOST_REGISTER_WRITE (15 R263, R264): an aligned 8-byte write; `fn` is −1 for the physical function and v for VF v, and
`value` the signed 64-bit value, which wrap27 reduces. -/
def execHostRegisterWrite (fn : Int) (offset : Nat) (value : Int) (s : State) : Host.Outcome State Fault Refusal :=
  let v := wrapT 27 value
  if offset % 8 ≠ 0 ∨ fn < -1 ∨ 127 < fn ∨ (s.fnField fn).isNone then .next s
  else if offset < 0x100 then .next (s.writeFn fn offset v)
  else if fn ≠ -1 then .next s
  else if bar4 ≤ offset then .next (s.writeBuffer (offset - bar4) 8 value)
  else if offset < 0x200 then .next (s.writeDev offset v)
  else .next (s.writeArr offset v)

/-! ### What a read returns (15 R263) -/

/-- LQSTAT (04 Table 4.7). -/
def State.lqstat (s : State) (f : Nat) : Int :=
  (List.range 9).foldl (fun a q => a + (s.queue f q).st * 3 ^ q) 0 + (s.fieldSt f).fcause * 3 ^ 9 + (s.fieldSt f).fq * 3 ^ 12
/-- CLSTAT (03 Table 3.3). -/
def FnRegs.clstat (x : FnRegs) : Int := x.st + (if x.ovr then 27 else 0) + 81 * x.slot
/-- FRSTAT (24 Table 24.2). -/
def State.frstat (s : State) : Int :=
  s.host.frst + (if s.host.frovr then 27 else 0) + 81 * ((s.freq.map (fun q => (s.reqRes q).phase)).getD 0)
/-- FROWN (24 Table 24.4). -/
def State.frown (s : State) : Int :=
  let v := wval s.host.frqsel
  if resOkAt (field v 2 2) (field v 4 4) (field v 8 5) then
    let o := s.resource (field v 2 2) (field v 4 4).toNat (field v 8 5).toNat
    o.owner + 81 * o.phase
  else -3
/-- A register of a function block. -/
def State.readFn (s : State) (fn : Int) (f off : Nat) : Int :=
  if off < 0x48 then wval (s.queue f (off / 8)).base
  else if off = 0x48 then s.lqstat f
  else if off = 0x50 then wval (s.fnRegs fn).clbase
  else if off = 0x60 then (s.fnRegs fn).clstat
  else if off = 0x68 then wval (s.fieldSt f).fltol
  else 0
/-- The single registers of the device block. -/
def State.readDev (s : State) (off : Nat) : Int :=
  if off = 0x100 then (s.host.pffield : Int)
  else if off = 0x108 then s.seedstat
  else if off = 0x110 then s.fw.recctl
  else if off = 0x118 then wval s.host.hlmode
  else if off = 0x120 then wval s.host.ratecap
  else if off = 0x128 then wval s.host.podctl
  else if off = 0x130 then wval s.host.keycmd
  else if off = 0x138 then wval s.host.keyadr
  else if off = 0x148 then s.frstat
  else if off = 0x150 then wval s.host.frqsel
  else if off = 0x158 then s.frown
  else if off = 0x160 then (s.host.eloghead : Int)
  else if off = 0x168 then wval s.host.elogtail
  else if off = 0x170 then (s.host.eloglost : Int)
  else 0
/-- The arrays of the device block. -/
def State.readArr (s : State) (off : Nat) : Int :=
  let at_ (base : Nat) : Nat := (off - base) / 8
  let fld (base : Nat) : FieldSt := s.fieldSt (at_ base)
  if 0x200 ≤ off ∧ off < 0x260 then wval (fld 0x200).fltol
  else if 0x280 ≤ off ∧ off < 0x2E0 then wval (fld 0x280).minver
  else if 0x300 ≤ off ∧ off < 0x360 then wval (fld 0x300).ppbase
  else if 0x380 ≤ off ∧ off < 0x3E0 then wval (fld 0x380).ppsize
  else if 0x400 ≤ off ∧ off < 0x800 then s.host.vffield.getD (at_ 0x400) 0
  else if 0x800 ≤ off ∧ off < 0xA88 then
    let w := s.host.windows.getD (at_ 0x800 / 3) ⟨0, 0, 0⟩
    wval (if at_ 0x800 % 3 = 0 then w.base else if at_ 0x800 % 3 = 1 then w.lim else w.ctl)
  else if 0xB00 ≤ off ∧ off < 0xB90 then
    let x := s.host.exports.getD (at_ 0xB00 / 2) ⟨0, 0⟩
    wval (if at_ 0xB00 % 2 = 0 then x.ctl else x.base)
  else if 0xC00 ≤ off ∧ off < 0xC60 then ((s.host.cecnt.getD (at_ 0xC00) 0 : Nat) : Int)
  else if 0xC80 ≤ off ∧ off < 0xCE0 then s.qavl (at_ 0xC80)
  else if 0x1000 ≤ off ∧ off < 0x1480 then (s.linkEnd (at_ 0x1000 / 2) (at_ 0x1000 % 2)).status
  else if 0x1800 ≤ off ∧ off < 0x1890 then (s.linkEnd (72 + at_ 0x1800) 0).status
  else if 0x4000 ≤ off ∧ off < 0x5E00 then s.bscap (at_ 0x4000)
  else if 0x10000 ≤ off ∧ off < 0x1CD08 then wval ((s.host.log.getD (at_ 0x10000 / 9) []).getD (at_ 0x10000 % 9) 0)
  else 0
/-- The value a host's 8-byte read of a register returns; 0 where no register stands. -/
def State.hostRegister (s : State) (fn : Int) (off : Nat) : Int :=
  match s.fnField fn with
  | none => 0
  | some f =>
    if off % 8 ≠ 0 then 0
    else if off < 0x100 then s.readFn fn f off
    else if fn ≠ -1 then 0
    else if off < 0x200 then s.readDev off
    else s.readArr off
/-- What a host's read of some bytes returns (R263, R264): a register's 64-bit value, its low or its high half, or bytes of the
recovery buffer; 0 for any other. -/
def State.hostRead (s : State) (fn : Int) (off size : Nat) : Nat :=
  if bar4 ≤ off then (if fn = -1 ∧ size ≤ 8 then s.readBuffer (off - bar4) size else 0)
  else
    let v := (s.hostRegister fn (off / 8 * 8) % 2 ^ 64).toNat
    if size = 8 ∧ off % 8 = 0 then v
    else if size = 4 ∧ off % 8 = 0 then v % 2 ^ 32
    else if size = 4 ∧ off % 8 = 4 then v / 2 ^ 32
    else 0
/-- A host's write of some bytes: of a register, 8 bytes at once or nothing (R263); of the recovery buffer, any (R264). -/
def State.hostWrite (s : State) (fn : Int) (off size : Nat) (v : Int) : State :=
  if bar4 ≤ off then (if fn = -1 ∧ size ≤ 8 then s.writeBuffer (off - bar4) size v else s)
  else if size = 8 then nextOf s (execHostRegisterWrite fn off v s)
  else s

end Sys2Proof.Machine
end

