-- ==== Sys2Proof/Machine/Tlbi.lean ====
section
/-!
DEFINITION. TLBI after its issue (23 R409): its release, the removals, the wait for accesses under the old mappings, and
what a page that is to move needs before its copy (12 R231, 16 R292).
-/
namespace Sys2Proof.Machine

/-- Remove entries from every TLB and walker cache. -/
def State.dropEntries (s : State) (p : TlbEntry → Bool) : State :=
  let keep (l : List TlbEntry) : List TlbEntry := l.filter (fun t => !p t)
  let keyed (l : List (Nat × List TlbEntry)) : List (Nat × List TlbEntry) :=
    l.foldl (fun m q => amSet [] m q.1 (keep q.2)) []
  { s with cores := s.cores.map (fun (k : Core) => { k with tlb := keep k.tlb })
           quadTlb := keyed s.quadTlb, walker := keyed s.walker }

/-- The entries a TLBI removes: all of its field, or every leaf that maps its address and every pointer on its walk. -/
def TlbiOp.gone (o : TlbiOp) (t : TlbEntry) : Bool :=
  t.fld == o.fld && (match o.va with | none => true | some va => t.unit == unitOf t.level (wval va))
/-- The addresses whose accesses may use a mapping that the removals concern: the field's, or those of the address's huge page
(log 39). -/
def TlbiOp.range (o : TlbiOp) (va : Int) : Bool :=
  match o.va with
  | none => true
  | some x => unitOf 1 va == unitOf 1 (wval x)

/-- An access that was translated and has not completed, under a mapping of one of its words. -/
def MemOp.under (o : MemOp) (p : Int → Bool) : Bool :=
  o.kind != .fence && o.kind != .mark && !o.priv &&
    o.lanes.any (fun ln => !ln.locs.isEmpty && (xlatAddrs o.width (wval ln.va)).any p)
/-- The units a row's PEER commands have handed to the link and that are not applied (18 R327). -/
def Row.peerUnits (r : Row) : List PeerUnit :=
  r.peers.flatMap (·.units) ++ (r.slots.flatMap (fun x => x.entries)).flatMap (fun e => match e with
    | .cmd c => c.sent
    | .join _ => [])
/-- Some access of a field to an address of a range that was translated before a step has not completed: a write completes with
its last push (16 R284). -/
def State.usingOld (s : State) (fld : Nat) (p : Int → Bool) (before : Nat) : Bool :=
  let old (o : MemOp) : Bool := decide (o.stamp ≤ before) && o.under p
  s.gangs.any (fun g => g.fld == fld && (s.pushes.any (fun m => match m.src with
      | some q => q.1.gid == g.gid && decide (q.2.2 ≤ before)
      | none => false) ||
    g.blocks.any (fun b =>
      (s.core b.core).order.any (fun o => o.who.gid == g.gid && old o) ||
        b.rows.any (fun r => r.loads.any old || r.fifo.any old || r.peerUnits.any (fun u => p (wval u.va))))))

/-- The mapping of an address is one whose page is to move: its leaf reads and writes by the fault path only (12 R231). -/
def State.lowered (s : State) (f : Nat) (va : Int) : Bool :=
  match (s.walk f va).1 with
  | .leaf e _ => entR e == -1 && entW e == -1
  | _ => false
/-- The lines of a field's tenures in a range whose page is to move (16 R292). -/
def State.movingLines (s : State) (f : Nat) (p : Int → Bool) : List Loc :=
  ((s.holders.filter (fun h => h.fld == f)).flatMap (fun h => (tileLines h.desc).filter (fun va => p va && s.lowered f va))).filterMap
    (s.lineLoc f)
/-- Before the copy of a page, partials on its lines are flushed and every holder's copies are dropped (16 R292), and the watches
on it are triggered: their lines are about to have other homes (10 R185). -/
def State.settleMoving (s : State) (f : Nat) (p : Int → Bool) (ls : List Loc) : State :=
  let hs := s.holders.filter (fun h => h.fld == f && !h.absent)
  let t := hs.foldl (fun s h => s.dropCopies h.core (ls.filter (fun l => (s.footprint f h.desc).contains l))) (ls.foldl State.flushLine s)
  let hit (g : Gang) (r : Row) : Bool := g.fld == f && r.watch.armed && p (wval r.watch.va) && s.lowered f (wval r.watch.va)
  { t with gangs := t.gangs.map (fun g => { g with blocks := g.blocks.map (fun b => { b with rows := b.rows.map (fun r =>
      if hit g r then { r with watch := { r.watch with trig := true } } else r) }) }) }

/-- The oldest TLBI of a row goes on (R409): with its release met its removals are made, and with no access left under an old
mapping, and the lines of moving pages settled, it completes. -/
def State.tlbiStep (s : State) (r : RowRef) : State :=
  match (s.row? r).bind (fun x => x.tlbis.head?) with
  | none => s
  | some o =>
    if !s.releaseMetAt r o.stamp then s
    else
      match o.done_ with
      | none => ((s.flight 4).dropEntries o.gone).modRow r (fun x =>
          { x with tlbis := modFirst (· == o) (fun o => { o with done_ := some s.steps }) x.tlbis })
      | some n =>
        if s.usingOld o.fld o.range n then s
        else
          let ls := s.movingLines o.fld o.range
          let held := ls.filter (fun l => !(s.partialsOf l).isEmpty)
          match s.snoopFirst true held with
          | some t => t.await (.event (.waitFullRetry r)) 0 held
          | none => (s.settleMoving o.fld o.range ls).modRow r (fun x => { x with tlbis := x.tlbis.drop 1 }.flagDown o.flag)

end Sys2Proof.Machine
end

