-- ==== Sys2Proof/Machine/Atomics.lean ====
section
/-!
DEFINITION. Classes −8 and −9: atomics and reductions (20 R358 to R365), and their application at a line's home.
-/
namespace Sys2Proof.Machine

/-! ### The new value (20 Table 20.2, R364) -/

/-- The new word from the old one and the operands, with the flags the operation raises. -/
def atomNew (o : AtomOp) (t9 sat : Bool) (old : Int) (ys : List Int) : Int × Fx :=
  let y := ys.getD 0 0
  let w : Nat := if t9 then 9 else 27
  match o with
  | .add => packed w sat elemAdd old y
  | .min => packedFx w (fun a b => (elemMin a b, Fx.clear)) old y
  | .max => packedFx w (fun a b => (elemMax a b, Fx.clear)) old y
  | .tmin => (perTrit elemMin old y, Fx.clear)
  | .tmax => (perTrit elemMax old y, Fx.clear)
  | .xchg => (y, Fx.clear)
  | .cas => (if old = y then ys.getD 1 0 else old, Fx.clear)
  | .fadd => let r := flAdd .f27 old y; (r.1, r.2)
  | .x81 => (old, Fx.clear)

/-- The new words of an access: one word, or the three words of an X81 cell. -/
def atomWords (o : AtomOp) (t9 sat : Bool) (old : List Word) (ys : List Word) : List Word × Fx :=
  match o with
  | .x81 =>
    let cell (l : List Word) : Int := (List.range 3).foldl (fun a i => a + wval (l.getD i 0) * 3 ^ (27 * i)) 0
    let n := wrapT 81 (cell old + cell ys)
    ((List.range 3).map (fun j => word (wordOf n j)), Fx.clear)
  | _ =>
    let r := atomNew o t9 sat (wval (old.getD 0 0)) (ys.map wval)
    ([word r.1], r.2)

/-! ### Fields -/

/-- An atomic or reduction as its row of Table 20.2 gives it. -/
structure AtomForm where
  op : AtomOp
  returns : Bool
  acc : Accept
deriving DecidableEq, Repr

/-- Prefixes of Table 20.2: P, ORD and SCOPE always. -/
def atomAcc (returns neg sat : Bool) : Accept :=
  { p := true, scope := true, ord := if returns then [1, -1, 3] else [-1], nb := neg, sat := sat }

/-- Element kinds are an immediate in c (20 Table 20.1). -/
def AtomOp.kinds : AtomOp → Bool
  | .add => true
  | .min => true
  | .max => true
  | _ => false
/-- c names a register. -/
def AtomOp.usesC : AtomOp → Bool
  | .cas => true
  | .x81 => true
  | _ => false

def AtomForm.uses (a : AtomForm) (f : FC) : List Use :=
  (if a.returns then [dst f.dst] else []) ++ [src f.a, src f.b] ++ (if a.op.usesC then [src f.c] else [])
def AtomForm.srcs (a : AtomForm) (f : FC) : List Int := [f.a, f.b] ++ (if a.op.usesC then [f.c] else [])
/-- dst, c and the space trit hold values their use allows. -/
def AtomForm.fields (a : AtomForm) (f : FC) : Bool :=
  (f.ty == 0 || f.ty == 1) && (a.returns || f.dst == 0) &&
    (a.op.usesC || (if a.op.kinds then f.c == 0 || f.c == 1 else f.c == 0))
/-- Per-row (20 R361); never in generation 0. -/
def AtomForm.row (a : AtomForm) (c : Ctx) (f : FC) : Bool :=
  if a.returns then rowSide c f.dst else !c.gen0 && (a.srcs f).all isRowKind

/-- The operand words of a thread, and the flags an X81 conversion raises at issue (20 R362). -/
def AtomForm.operands (a : AtomForm) (c : Ctx) (f : FC) (p : Nat) : List Word × Fx :=
  let b := rd c f.b p
  match a.op with
  | .cas => ([word b, word (rd c f.c p)], Fx.clear)
  | .x81 =>
    let x := toX81 (rd c f.c p) (if c.mod.nb = 1 then negFl .f27 b else b)
    ((List.range 3).map (fun j => word (wordOf x.1 j)), x.2)
  | .fadd => ([word (if c.mod.nb = 1 then negFl .f27 b else b)], Fx.clear)
  | _ => ([word (negIf c.mod.nb b)], Fx.clear)

/-! ### In scratch (20 R358) -/

/-- Apply a thread's operation at the port: the old words, the state, the flags. -/
def scrAtom (s : State) (ref : RowRef) (o : ScrRel) (ln : SyncLane) : List Word × State × Fx :=
  let old := ln.words.map (fun w => (s.scrGet ref ln.blk w).1)
  let new := atomWords o.op o.t9 o.sat old ln.data
  (old, (ln.words.zip new.1).foldl (fun s q => s.scrSet ref ln.blk q.1 (q.2, (s.scrGet ref ln.blk q.1).2)) s, new.2)

/-- Perform a scratch atomic or reduction, its threads in ascending position (R364): the state, and the row with the old
words and their flags. -/
def ScrRel.perform (o : ScrRel) (w : Nat) (s : State) (ref : RowRef) (r : Row) : State × Row :=
  o.lanes.foldl (fun (acc : State × Row) ln =>
    let z := scrAtom acc.1 ref o ln
    let v := wval (z.1.headD 0)
    (z.2.1,
      if !o.returns then acc.2
      else if o.perRow then (wrReg false w acc.2 o.dst 0 v).raiseAll o.group z.2.2
      else (wrReg o.gen0 w acc.2 o.dst ln.thread v).raise ln.thread z.2.2)) (s, r)

/-- The cache actions of an acquire, at the scope of one. -/
def ScrRel.acquired (o : ScrRel) (core : Nat) (s : State) : State :=
  let s := s.flight o.scope
  if o.acq = 0 then s else s.doAcquire core o.acq

/-- The registers an ATOM that waits still owes. -/
def ScrRel.owed (o : ScrRel) : List Int :=
  (if o.returns then [o.dst, fxField] else []) ++ (if 1 ≤ o.acq then [acqField] else [])

/-- The scratch form: performed at the port in ascending position; register-window addresses trap PROT. One that is a
release waits for it while its row goes on (19 R345). -/
def atomScratch (s : State) (c : Ctx) (a : AtomForm) (f : FC) (row : Bool) (ts : List Nat) : Except Trap State := do
  let w : Int := if a.op = .x81 then 2 else 0
  let eas := ts.map (fun t => (t, rd c f.a t))
  match eas.find? (fun q => scrAlign q.2 % widthAlign w != 0) with
  | some q => .error (Trap.align q.2)
  | none => .ok ()
  let blkOf (x : ScrWord) : Option (Nat × Nat) := match x with | .blk k n _ => some (k, n) | .window _ _ => none
  let wordsOf (ea : Int) : Option (List (Nat × Nat)) := (scrWords c w ea).bind (fun l => l.mapM blkOf)
  boundCheck (fun ea => (wordsOf ea).isSome) eas
  let scope := if c.mod.ord = 0 then 0 else c.mod.scope
  let rel := c.mod.ord == -1 || c.mod.ord == 3
  let o : ScrRel :=
    { op := a.op, returns := a.returns, t9 := f.c == 1 && a.op.kinds, sat := c.mod.sat == 1
      lanes := eas.map (fun q =>
        let ws := (wordsOf q.2).getD []
        ⟨q.1, (ws.headD (0, 0)).1, ws.map (·.2), 0, (a.operands c f q.1).1⟩)
      dst := f.dst, flag := c.e.fb, perRow := row, gen0 := c.gen0, group := c.act, scope := if rel then scope else 0
      acq := if c.mod.ord = 1 ∨ c.mod.ord = 3 then scope else 0, stamp := s.steps }
  let r := if a.op = .x81 then
      ts.foldl (fun r p => r.raiseAll (if row then c.act else [p]) (a.operands c f p).2) c.r
    else c.r
  match (if rel then heldBy (c.r.scrOpen (s.steps + 1)) (some 4) else s.scrStoreHold c), s.spoiltLane c w eas with
  | some k, _ => .ok (s.hold c k)
  | none, some ea => .ok (scrDataTrap s c ea)
  | none, none =>
    if rel && !s.releaseMet c.ref scope then
      .ok (s.finish c (({ s.marked c r scope with rels := r.rels ++ [o] }.owe o.owed).flagUp o.flag))
    else
      let y := o.perform c.w s c.ref r
      .ok ((o.acquired c.core y.1).finish c y.2)

/-- The waiting scratch releases of a row are performed in turn, each once its waits are met. -/
def performRels (ref : RowRef) (w core : Nat) : List ScrRel → State → State
  | [], s => s
  | o :: rest, s =>
    match s.row? ref with
    | none => s
    | some r =>
      if !s.releaseMetAt ref o.stamp then s
      else
        let y := o.perform w s ref { r with rels := r.rels.filter (fun p => p.stamp != o.stamp) }
        performRels ref w core rest (o.acquired core (y.1.modRow ref (fun _ => (y.2.paid o.owed).flagDown o.flag)))

/-- WAIT_FULL_RETRY (R209): what the scratch words of a row's blocks hold up goes on: synchronising instructions that are
parked or await their release (11 R209, R210), and atomics that await theirs (R363); so does a TLBI of the row (23 R409). -/
def execWaitFullRetry (r : RowRef) (s : State) : Host.Outcome State Fault Refusal :=
  match s.gang? r.gid, s.block? r, s.row? r with
  | some g, some b, some row =>
    .next (if g.absent then s
      else (performRels r g.lrec.width b.core row.rels (retryParks r g.lrec.width b.core
        (if g.status = .resident then row.parks else row.parks.filter (·.group.isEmpty)) s)).tlbiStep r)
  | _, _, _ => .next s

/-! ### In global memory -/

/-- The global form: it enters the row's FIFO (19 R342); a faulted lane parks it whole (12 R227). -/
def atomGlobal (s : State) (c : Ctx) (a : AtomForm) (f : FC) (row : Bool) (ts : List Nat) : Except Trap State := do
  let w : Int := if a.op = .x81 then 2 else 0
  let eas := ts.map (fun t => (t, rd c f.a t))
  alignCheck (widthAlign w) eas
  let scope := if c.mod.ord = 0 then 0 else c.mod.scope
  let op : MemOp := { bareOp c s.steps with
    kind := if a.returns then .atom a.op else .red a.op, width := w
    lanes := eas.map (fun q => laneBare q.1 q.2 (a.operands c f q.1).1)
    dst := f.dst, flag := c.e.fb, perRow := row
    rel := if c.mod.ord = -1 ∨ c.mod.ord = 3 then scope else 0
    acq := if c.mod.ord = 1 ∨ c.mod.ord = 3 then scope else 0
    sat := c.mod.sat == 1, t9 := f.c == 1 && a.op.kinds }
  match check3 s c Need.both w false eas with
  | .wait ls t => .ok (walkWait t c ls)
  | .trapped t => .ok t
  | .lanes xs t =>
    let r := if a.op = .x81 then
        ts.foldl (fun r p => r.raiseAll (if row then c.act else [p]) (a.operands c f p).2) c.r
      else c.r
    .ok (issueWrite t c r op xs)

/-- ATOM and RED (R360, R361): per-row or per-thread, counted on flag B. -/
def atomic (s : State) (f : FC) (a : AtomForm) : Host.Outcome State Fault Refusal :=
  withRow s (fun c => do
    let row := a.row c f
    gate c false (a.uses f) (a.fields f && (!row || rowSrcs c (a.srcs f)) && ((c.mod.ord != 0) == (c.mod.scope != 0)))
      a.acc
    if usesBusy c (a.uses f) then .ok (s.hold c 11)
    else if flagWait c c.mod.pred c.e.fb then .ok (s.hold c 2 c.e.fb)
    else if f.ty = 0 ∧ fifoWait c c.mod.pred then .ok (s.hold c 4)
    else
      let ts ← accessThreads c row c.mod.pred
      if ts.isEmpty then .ok (s.finish c c.r)
      else if f.ty = 1 then atomScratch s c a f row ts
      else atomGlobal s c a f row ts)

/-- ATOM.ADD (R360). -/
def execAtomAdd (f : FC) (s : State) : Host.Outcome State Fault Refusal := atomic s f ⟨.add, true, atomAcc true true true⟩
/-- ATOM.MIN (R360). -/
def execAtomMin (f : FC) (s : State) : Host.Outcome State Fault Refusal := atomic s f ⟨.min, true, atomAcc true false false⟩
/-- ATOM.MAX (R360). -/
def execAtomMax (f : FC) (s : State) : Host.Outcome State Fault Refusal := atomic s f ⟨.max, true, atomAcc true false false⟩
/-- ATOM.TMIN (R360). -/
def execAtomTmin (f : FC) (s : State) : Host.Outcome State Fault Refusal := atomic s f ⟨.tmin, true, atomAcc true false false⟩
/-- ATOM.TMAX (R360). -/
def execAtomTmax (f : FC) (s : State) : Host.Outcome State Fault Refusal := atomic s f ⟨.tmax, true, atomAcc true false false⟩
/-- ATOM.XCHG (R360). -/
def execAtomXchg (f : FC) (s : State) : Host.Outcome State Fault Refusal := atomic s f ⟨.xchg, true, atomAcc true false false⟩
/-- ATOM.CAS (R360, R364). -/
def execAtomCas (f : FC) (s : State) : Host.Outcome State Fault Refusal := atomic s f ⟨.cas, true, atomAcc true false false⟩
/-- ATOM.FADD (R360). -/
def execAtomFadd (f : FC) (s : State) : Host.Outcome State Fault Refusal := atomic s f ⟨.fadd, true, atomAcc true true false⟩
/-- RED.ADD (R360). -/
def execRedAdd (f : FC) (s : State) : Host.Outcome State Fault Refusal := atomic s f ⟨.add, false, atomAcc false true false⟩
/-- RED.MIN (R360). -/
def execRedMin (f : FC) (s : State) : Host.Outcome State Fault Refusal := atomic s f ⟨.min, false, atomAcc false false false⟩
/-- RED.MAX (R360). -/
def execRedMax (f : FC) (s : State) : Host.Outcome State Fault Refusal := atomic s f ⟨.max, false, atomAcc false false false⟩
/-- RED.TMIN (R360). -/
def execRedTmin (f : FC) (s : State) : Host.Outcome State Fault Refusal := atomic s f ⟨.tmin, false, atomAcc false false false⟩
/-- RED.TMAX (R360). -/
def execRedTmax (f : FC) (s : State) : Host.Outcome State Fault Refusal := atomic s f ⟨.tmax, false, atomAcc false false false⟩
/-- RED.X81 (R360, R364). -/
def execRedX81 (f : FC) (s : State) : Host.Outcome State Fault Refusal := atomic s f ⟨.x81, false, atomAcc false true false⟩
/-- RED.FADD (R360). -/
def execRedFadd (f : FC) (s : State) : Host.Outcome State Fault Refusal := atomic s f ⟨.fadd, false, atomAcc false true false⟩

/-! ### ATOMIC_APPLY -/

/-- One lane at its home, unless its line became failing, or lost its last route, after the issue (log 110), or its channel does
not accept its field's tag any more (24 R420): the new words are written and, for an ATOM, the old word and the flags reach the thread. -/
def State.applyLane (s : State) (o : MemOp) (a : AtomOp) (returns : Bool) (ln : Lane) : State :=
  let line := lineOf (ln.locs.headD Loc.none_)
  if s.foreign (s.fldOf o.who) line then s.logWindow o.who ln.va
  else if s.badLine line || s.cutOff (s.coreOf o.who / 80) line then s.logRow 12 o.who 0 ln.va ((line.a / 27 : Nat) : Int)
  else
  let s := s.flushLine line
  let old := ln.locs.map s.wordAt
  let new := atomWords a o.t9 o.sat old ln.data
  let ws := (ln.locs.zip new.1).flatMap (fun q => wordTrytes (q.1.a - line.a) q.2)
  let s := s.homeWrite line ws (s.laneC (s.fldOf o.who) o line) (some (o.who, o.flag, o.stamp))
  if !returns then s
  else
    let w := s.widthOf o.who
    let v := wval (old.headD 0)
    s.modRow o.who (fun r =>
      if o.perRow then (wrRow o.gen0 w r o.group o.dst v).raiseAll o.group new.2
      else (wrReg o.gen0 w r o.dst ln.thread v).raise ln.thread new.2)

/-- ATOMIC_APPLY (R358, R359, R364): entry k of a core's order is performed at its home, lanes in ascending position;
the issuing core's and die's copies of its lines are dropped. -/
def execAtomicApply (core k : Nat) (s : State) : Host.Outcome State Fault Refusal :=
  match (s.core core).order[k]? with
  | none => .next s
  | some o =>
    let go (a : AtomOp) (returns : Bool) : State :=
      match s.snoopFirst true o.lines with
      | some t => t.await (.event (.atomicApply core k)) o.stamp o.lines
      | none =>
        let t := o.lanes.foldl (fun t ln => t.applyLane o a returns ln) (s.applied core k)
        let t := o.lines.foldl (fun t l => t.l2Request l (core / 4) 0) ((t.dropL1 core o.lines).dropRdc (core / 80) o.lines)
        let t := if returns then t.modRow o.who (fun r =>
            r.paid o.dstFields) else t
        let t := (t.completeWrite o).flight o.rel
        if o.acq = 0 then t else t.doAcquire core o.acq
    if !s.mayApply core k o then .next s
    else
      match o.kind with
      | .atom a => .next (go a true)
      | .red a => .next (go a false)
      | _ => .next s

end Sys2Proof.Machine
end

