-- ==== Sys2Proof/Machine/Outside.lean ====
section
/-!
DEFINITION. What comes from outside the compute dies and has no row of the opcode table, as the agenda brings it (log 116):
register reads and writes of any size (15 R263, R264), the firmware's writes of the window table (01 R15), flits
(14 R245, R247), and peers' accesses through the export windows (15 R267).
-/
namespace Sys2Proof.Machine

/-- A firmware write of the window table: discarded, and logged with kind +16 (01 R15). -/
def State.firmwareWindow (s : State) (v : Word) : State := s.log 16 0 0 0 v 0

/-! ### Peers' accesses (15 R267) -/

def Export.enabled (x : Export) : Bool := trit (wval x.ctl) 0 == 1
/-- The field in which an export window's accesses are translated. -/
def Export.fld (x : Export) : Nat := (field (wval x.ctl) 1 4).toNat
/-- The export window an access names. -/
def State.exportOf (s : State) (a : PeerAccess) : Export := s.host.exports.getD a.window ⟨0, 0⟩
/-- The virtual address of an access: base + offset. -/
def State.peerVa (s : State) (a : PeerAccess) : Int := wrapT 27 (wval (s.exportOf a).base + (a.off : Int))
/-- The rights an access needs. -/
def PeerAccess.need (a : PeerAccess) : Need :=
  match a.kind with
  | .load => Need.load
  | .store => Need.store
  | _ => Need.both
/-- The trytes an access covers. -/
def PeerAccess.size (a : PeerAccess) : Nat :=
  match a.kind with
  | .load => a.len
  | .store => a.data.length
  | .atom .x81 => 9
  | .red .x81 => 9
  | _ => 3
/-- The access fails here: logged, and so answered. -/
def State.peerRefuse (s : State) (a : PeerAccess) : State :=
  let t := s.log 14 0 0 0 (word (s.peerVa a)) 0
  { t with host := { t.host with answers := t.host.answers ++ [(false, [])] } }
/-- The place of an access; none when its window is disabled or the access faults. No alignment at base + offset is asked for, and
an access whose trytes cross the end of a line there faults (DESIGN CHOICE, log 116: 15 R267 gives no alignment there, 00 R4 an
aligned unit a line of its own). -/
def State.peerLoc (s : State) (a : PeerAccess) : Option Loc :=
  if !(s.exportOf a).enabled ∨ 3 ^ 21 ≤ a.off then none
  else
    match s.xlatTables (s.exportOf a).fld (s.peerVa a) { a.need with len := a.size } with
    | .ok l _ _ =>
      let bad := if a.need = Need.store ∧ a.size = 27 then s.badWhole l else s.badLine l
      if l.a % 27 + a.size > 27 ∨ bad ∨ s.hubCut l ∨ (s.walkLines (s.exportOf a).fld (s.peerVa a)).any s.hubCut then none
      else some l
    | _ => none
/-- Perform an access at its home. -/
def State.peerDo (s : State) (a : PeerAccess) (l : Loc) : State :=
  let line := lineOf l
  let c := s.fieldC (s.exportOf a).fld (s.peerVa a)
  let old := (List.range a.size).map (fun i => s.tryteAt (locAt l i))
  let put (ts : List Tryte) : State := s.homeWrite line (ts.zipIdx.map (fun q => (l.a - line.a + q.2, q.1))) c none
  let combine (o : AtomOp) : List Tryte :=
    let ws := (List.range (a.size / 3)).map (fun j => wordFrom (old.getD (3 * j) 0) (old.getD (3 * j + 1) 0) (old.getD (3 * j + 2) 0))
    (atomWords o a.t9 a.sat ws a.ops).1.flatMap (fun w => (List.range 3).map (tryteOfWord w))
  let answered (t : State) (ts : List Tryte) : State :=
    { t with host := { t.host with answers := t.host.answers ++ [(true, ts)] } }
  match a.kind with
  | .load => answered s old
  | .store => answered (put a.data) []
  | .atom o => answered (put (combine o)) old
  | .red o => answered (put (combine o)) []
  | .fence => s
  | .mark => s
/-- A peer's access: a load, store, atomic or reduction of the window's field at base + offset. -/
def State.peerAccess (s : State) (a : PeerAccess) : State :=
  match s.peerLoc a with
  | none => s.peerRefuse a
  | some l =>
    let ls := s.walkLines (s.exportOf a).fld (s.peerVa a)
    match s.snoopFirst false ls, s.snoopFirst a.need.w [lineOf l] with
    | some t, _ => t.await (.outside (.peer a)) 0 (lineOf l :: ls)
    | none, some t => t.await (.outside (.peer a)) 0 (lineOf l :: ls)
    | none, none => (if a.need.w then s.flushLine (lineOf l) else s).peerDo a l

/-- What comes from outside takes effect. -/
def State.fromOutside (s : State) : Outside → State
  | .hostRead fn off size => { s with host := { s.host with values := s.host.values ++ [s.hostRead fn off size] } }
  | .hostWrite fn off size v => s.hostWrite fn off size v
  | .firmwareWindow _ _ v => s.firmwareWindow v
  | .flit die dst n q => s.flitFrom die dst n q
  | .portFlit dst n q => s.flitToPod dst n q
  | .peer a => s.peerAccess a

end Sys2Proof.Machine
end

