-- ==== Sys2Proof/Machine/Immediate.lean ====
section
/-!
DEFINITION. Classes +2 and +3: immediate and three-source forms (08 R142 to R147).
-/
namespace Sys2Proof.Machine

/-- A class +2 instruction: its result for the word of a after negation and the immediate. `useA` says whether a is
read; otherwise the field must be 0. The predicate is MODH's. -/
def immForm (s : State) (f : FB) (useA : Bool) (fields : Int → Bool) (a : Accept)
    (g : Bool → Int → Int → Int × Fx) : Host.Outcome State Fault Refusal :=
  withRow s (fun c =>
    let y := c.immVal f.imm
    alu s c ⟨f.dst, 1, if useA then [src f.a] else [], c.mod.pred, fields y && (useA || f.a == 0), a⟩
      (fun p =>
        let r := g (c.mod.sat == 1) (negIf c.mod.na (rd c f.a p)) y
        ([r.1], r.2)))

/-- IMM goes with .t27 only (08 Table 8.3). -/
def accImm (ty : Int) : Accept := { p := true, imm := ty == 0 }

/-- MOVI (R143). -/
def execMovi (f : FB) (s : State) : Host.Outcome State Fault Refusal :=
  immForm s f false (fun _ => t27t9 f.ty) (accImm f.ty)
    (fun _ _ y => perElem (widthOfA f.ty) (fun _ => complete (widthOfA f.ty) false y))
/-- ADDI (R143). -/
def execAddi (f : FB) (s : State) : Host.Outcome State Fault Refusal :=
  immForm s f true (fun _ => t27t9 f.ty) { accImm f.ty with na := true, sat := true }
    (fun sat x y => packed (widthOfA f.ty) sat (fun x _ => x + y) x 0)
/-- MULI (R143). -/
def execMuli (f : FB) (s : State) : Host.Outcome State Fault Refusal :=
  immForm s f true (fun _ => t27t9 f.ty) { accImm f.ty with na := true, sat := true }
    (fun sat x y => packed (widthOfA f.ty) sat (fun x _ => x * y) x 0)
/-- A shift count of SHLI and SHRI: 0..26, or 0..8 for .t9 (R143). -/
def shiftCountOk (ty y : Int) : Bool := decide (0 ≤ y ∧ y < (widthOfA ty : Int))
/-- SHLI (R143). -/
def execShli (f : FB) (s : State) : Host.Outcome State Fault Refusal :=
  immForm s f true (fun y => t27t9 f.ty && shiftCountOk f.ty y) { p := true, sat := true }
    (fun sat x y => shiftWord (widthOfA f.ty) sat y x)
/-- SHRI (R143). -/
def execShri (f : FB) (s : State) : Host.Outcome State Fault Refusal :=
  immForm s f true (fun y => t27t9 f.ty && shiftCountOk f.ty y) { p := true }
    (fun _ x y => shiftWord (widthOfA f.ty) false (-y) x)
/-- CMPI (R143, R148). -/
def execCmpi (f : FB) (s : State) : Host.Outcome State Fault Refusal :=
  withRow s (fun c => quAlu s c f.dst [src f.a] c.mod.pred (f.ty == 0) { p := true, imm := true, na := true }
    (fun p => (Sys2Proof.sgn (negIf c.mod.na (rd c f.a p) - c.immVal f.imm), Fx.clear)))

/-- TEXT and TINS divide the immediate into len (t10..t6) and pos (t5..t2) (08 Table 8.3a). -/
def textPos (imm : Int) : Int := field imm 0 4
def textLen (imm : Int) : Int := field imm 4 5
def textOk (imm : Int) : Bool :=
  decide (0 ≤ textPos imm ∧ textPos imm ≤ 26 ∧ 1 ≤ textLen imm ∧ textLen imm ≤ 27 ∧ textPos imm + textLen imm ≤ 27)

/-- TEXT (R144). -/
def execText (f : FB) (s : State) : Host.Outcome State Fault Refusal :=
  immForm s f true (fun y => f.ty == 0 && textOk y) { p := true }
    (fun _ x y => (field x (textPos y).toNat (textLen y).toNat, Fx.clear))

/-- Replace trits pos .. pos + len − 1 of d by the low trits of x. -/
def tinsWord (d x : Int) (pos len : Nat) : Int :=
  d - field d pos len * 3 ^ pos + field x 0 len * 3 ^ pos

/-- TINS (R144): d is a source too. -/
def execTins (f : FB) (s : State) : Host.Outcome State Fault Refusal :=
  withRow s (fun c =>
    let y := c.immVal f.imm
    alu s c ⟨f.dst, 1, [src f.a], c.mod.pred, f.ty == 0 && textOk y, { p := true }⟩
      (fun p => ([tinsWord (rd c f.dst p) (rd c f.a p) (textPos y).toNat (textLen y).toNat], Fx.clear)))

/-- A class +3 instruction of three register sources. -/
def three (s : State) (f : FC) (fields : Bool) (a : Accept) (g : Bool → Int → Int → Int → Int × Fx) :
    Host.Outcome State Fault Refusal :=
  withRow s (fun c => alu s c ⟨f.dst, 1, [src f.a, src f.b, src f.c], c.mod.pred, fields, a⟩
    (fun p =>
      let r := g (c.mod.sat == 1) (negIf c.mod.na (rd c f.a p)) (negIf c.mod.nb (rd c f.b p))
        (negIf c.mod.nc (rd c f.c p))
      ([r.1], r.2)))

/-- P; N a b c (08 Table 8.4). -/
def accABC : Accept := { p := true, na := true, nb := true, nc := true }

/-- MAD (R145). -/
def execMad (f : FC) (s : State) : Host.Outcome State Fault Refusal :=
  three s f (t27t9 f.ty) { accABC with sat := true } (fun sat x y z =>
    let w := widthOfC f.ty
    perElem w (fun j => complete w sat (elem x w j * elem y w j + elem z w j)))
/-- CLAMP (R145). -/
def execClamp (f : FC) (s : State) : Host.Outcome State Fault Refusal :=
  three s f (t27t9 f.ty) accABC (fun _ x y z =>
    let w := widthOfC f.ty
    perElem w (fun j => (elemMin (elemMax (elem x w j) (elem y w j)) (elem z w j), Fx.clear)))
/-- The trit TSEL picks (R146). -/
def tselTrit (a b c : Int) : Int := if a < 0 then b else if a = 0 then 0 else c
/-- TSEL (R146). -/
def execTsel (f : FC) (s : State) : Host.Outcome State Fault Refusal :=
  three s f (f.ty == 0) accABC (fun _ x y z =>
    (ofTrits (fun i => tselTrit (trit x i) (trit y i) (trit z i)), Fx.clear))

/-- LEA and LEAD: c is the immediate k, 0..26 (R147). -/
def leaForm (s : State) (f : FC) (g : Int → Int → Nat → Int) : Host.Outcome State Fault Refusal :=
  withRow s (fun c => alu s c ⟨f.dst, 1, [src f.a, src f.b], c.mod.pred,
      f.ty == 0 && decide (0 ≤ f.c ∧ f.c ≤ 26), { p := true, na := true, nb := true }⟩
    (fun p => ([wrapT 27 (g (negIf c.mod.na (rd c f.a p)) (negIf c.mod.nb (rd c f.b p)) f.c.toNat)], Fx.clear)))
/-- LEA (R147). -/
def execLea (f : FC) (s : State) : Host.Outcome State Fault Refusal :=
  leaForm s f (fun a b k => a + b * 3 ^ k)
/-- LEAD (R147). -/
def execLead (f : FC) (s : State) : Host.Outcome State Fault Refusal :=
  leaForm s f (fun a b k => 3 ^ k * (a / 3 ^ k) + b * 3 ^ k)

end Sys2Proof.Machine
end

