-- ==== Sys2Proof/Machine/Pred.lean ====
section
/-!
DEFINITION. Class +4: predicates, selection and votes (08 R149 to R154).
-/
namespace Sys2Proof.Machine

/-- The value of predicate n of a thread. -/
def Ctx.qv (c : Ctx) (n : Int) (p : Nat) : Int := (c.r.q n.toNat p).toInt

/-- QMIN (R150). -/
def execQmin (f : FA) (s : State) : Host.Outcome State Fault Refusal :=
  withRow s (fun c => quAlu s c f.dst [] f.pred (f.ty == 0 && qNum f.a && qNum f.b) accAB
    (fun p => (elemMin (negIf c.mod.na (c.qv f.a p)) (negIf c.mod.nb (c.qv f.b p)), Fx.clear)))
/-- QMAX (R150). -/
def execQmax (f : FA) (s : State) : Host.Outcome State Fault Refusal :=
  withRow s (fun c => quAlu s c f.dst [] f.pred (f.ty == 0 && qNum f.a && qNum f.b) accAB
    (fun p => (elemMax (negIf c.mod.na (c.qv f.a p)) (negIf c.mod.nb (c.qv f.b p)), Fx.clear)))
/-- QNOT (R150). -/
def execQnot (f : FA) (s : State) : Host.Outcome State Fault Refusal :=
  withRow s (fun c => quAlu s c f.dst [] f.pred (f.ty == 0 && qNum f.a && f.b == 0) {}
    (fun p => (-(c.qv f.a p), Fx.clear)))
/-- QMOV (R150). -/
def execQmov (f : FA) (s : State) : Host.Outcome State Fault Refusal :=
  withRow s (fun c => quAlu s c f.dst [] f.pred (f.ty == 0 && qNum f.a && f.b == 0) {}
    (fun p => (c.qv f.a p, Fx.clear)))

/-- SEL (R151): the type field selects qn. -/
def execSel (f : FA) (s : State) : Host.Outcome State Fault Refusal :=
  withRow s (fun c => do
    let us := [dst f.dst, src f.a, src f.b]
    gate c false us (predOk f.pred && vecDst c f.dst) accAB
    if usesBusy c us then .ok (s.hold c 11)
    else .ok (s.finish c ((c.acting f.pred).foldl (fun r p =>
      let q := c.qv (f.ty + 4) p
      if q = 1 then wrReg c.gen0 c.w r f.dst p (negIf c.mod.na (rd c f.a p))
      else if q = -1 then wrReg c.gen0 c.w r f.dst p (negIf c.mod.nb (rd c f.b p))
      else r) c.r)))

/-- A per-row instruction that gathers one value for the row from its active threads (06 R96). -/
def gather (s : State) (c : Ctx) (d : Int) (srcs : List Use) (rows : List Int) (pred : Int) (fields : Bool)
    (v : Int) : Except Trap State := do
  gate c false (dst d :: srcs) (fields && predOk pred && scaDst c d && rowSrcs c rows) {}
  if usesBusy c (dst d :: srcs) then .ok (s.hold c 11)
  else
    need (uniform c rows) (Trap.nonUniform c)
    let acts ← rowActs c pred
    .ok (s.finish c (if acts then wrRow c.gen0 c.w c.r c.act d v else c.r))

/-- MOVQ, to a register (R152). -/
def execMovqToRegister (f : FA) (s : State) : Host.Outcome State Fault Refusal :=
  withRow s (fun c => do
    let us := [dst f.dst]
    gate c false us (predOk f.pred && vecDst c f.dst && f.ty == 0 && qNum f.a && f.b == 0) {}
    if usesBusy c us then .ok (s.hold c 11)
    else .ok (s.finish c (perThread c f.dst f.pred (fun p => ([c.qv f.a p], Fx.clear)))))
/-- MOVQ, to a predicate (R152). -/
def execMovqToPredicate (f : FA) (s : State) : Host.Outcome State Fault Refusal :=
  withRow s (fun c => quAlu s c f.dst [src f.a] f.pred (f.ty == 1 && f.b == 0) {}
    (fun p => (Sys2Proof.sgn (rd c f.a p), Fx.clear)))
/-- The ballot word (R152). -/
def ballot (c : Ctx) (qa beat : Int) : Int :=
  ofTrits (fun l =>
    let p := 27 * beat.toNat + l
    if c.act.contains p then c.qv qa p else 0)
/-- MOVQ, ballot form (R152). -/
def execMovqBallot (f : FA) (s : State) : Host.Outcome State Fault Refusal :=
  withRow s (fun c => gather s c f.dst [] [] f.pred (f.ty == -1 && qNum f.a && decide (0 ≤ f.b ∧ f.b ≤ 2))
    (ballot c f.a f.b))

/-- The trit a vote reads: predicate n, or for −1 to −6 a flag of fx (08 R131). -/
def voteTrit (c : Ctx) (a : Int) (p : Nat) : Int :=
  if 0 ≤ a then c.qv a p else if (c.r.fxOf p).bit (-a - 1).toNat then 1 else 0
/-- The active threads for which the vote's condition holds. -/
def voteHeld (c : Ctx) (f : FA) : List Nat := c.act.filter (fun p => condHolds f.ty (voteTrit c f.a p))
/-- Field checks of the votes. -/
def voteFields (f : FA) : Bool := condOk f.ty && decide (-6 ≤ f.a ∧ f.a ≤ 8) && f.b == 0
/-- A vote: on a flag of fx it waits for every ATOM of the row (20 R362). -/
def vote (s : State) (c : Ctx) (f : FA) (v : Int) : Except Trap State :=
  (gather s c f.dst [] [] f.pred (voteFields f) v).map (fun t => if f.a < 0 ∧ fxBusy c then s.hold c 11 else t)
/-- VOTE.ALL (R153). -/
def execVoteAll (f : FA) (s : State) : Host.Outcome State Fault Refusal :=
  withRow s (fun c => vote s c f
    (if (voteHeld c f).length = c.act.length then 1 else -1))
/-- VOTE.ANY (R153). -/
def execVoteAny (f : FA) (s : State) : Host.Outcome State Fault Refusal :=
  withRow s (fun c => vote s c f (if 0 < (voteHeld c f).length then 1 else -1))
/-- VOTE.CNT (R153). -/
def execVoteCnt (f : FA) (s : State) : Host.Outcome State Fault Refusal :=
  withRow s (fun c => vote s c f ((voteHeld c f).length : Nat))

/-- MOVS (R154). In generation 0 its p is uniform, and a, which R96 and R154 gather from the threads, may differ between them
(DESIGN CHOICE, log 106: 06 R110 says every source of a per-row instruction is uniform). -/
def execMovs (f : FA) (s : State) : Host.Outcome State Fault Refusal :=
  withRow s (fun c =>
    let p := rdRow c f.b
    gather s c f.dst [src f.a, src f.b] [f.b] f.pred (f.ty == 0)
      (if 0 ≤ p ∧ p.toNat ∈ c.act then rd c f.a p.toNat else 0))
/-- LANE (R154). -/
def execLane (f : FA) (s : State) : Host.Outcome State Fault Refusal :=
  withRow s (fun c => do
    let us := [dst f.dst, src f.a, src f.b]
    gate c false us (predOk f.pred && vecDst c f.dst && f.ty == 0 && rowSrcs c [f.a, f.b]) {}
    if usesBusy c us then .ok (s.hold c 11)
    else
      need (uniform c [f.a, f.b]) (Trap.nonUniform c)
      let acts ← rowActs c f.pred
      let p := rdRow c f.b
      .ok (s.finish c (if acts ∧ 0 ≤ p ∧ p.toNat ∈ c.act
        then wrReg c.gen0 c.w c.r f.dst p.toNat (rdRow c f.a) else c.r)))

end Sys2Proof.Machine
end

