-- ==== Sys2Proof/Machine/Vacate.lean ====
section
/-!
DEFINITION. A channel's vacate (24 R428): the firmware on the management core moves every page of the field whose frame lies in
the channel, data and tables, to frames of the field's other channels (12 R231). How it goes about this is the model's choice (log
58): one page, or one leaf of many pages, at each VACATE_END.
-/
namespace Sys2Proof.Machine

/-! ### Free frames -/

/-- The page holds a line of the field's pool (05 R86). -/
def State.poolPage (s : State) (f die p : Nat) : Bool :=
  let base := wval (s.fieldSt f).ppbase
  let size := wval (s.fieldSt f).ppsize
  let i0 := base.toNat % rangeLines
  let own (k : Nat) : Bool := (s.resource kindChan die k).owner == (f : Int)
  decide (0 ≤ base ∧ 0 < size) && base.toNat / rangeLines == die && decide (i0 < 729 * p + 729) &&
    decide (((ownedBelow own (Max.max i0 (729 * p)) - ownedBelow own i0 : Nat) : Int) < size)
/-- The first of n numbers from p on that passes. -/
def findPage (ok : Nat → Bool) : Nat → Nat → Option Nat
  | 0, _ => none
  | n + 1, p => if ok p then some p else findPage ok n (p + 1)
/-- The lowest free frame of a field's channels that are in no headland state: no leaf, no table, no line of the pool or of an
open save area lies in it. -/
def State.freeFrame (s : State) (f : Nat) : Option Nat :=
  let runs := s.usedRuns f
  let areas := (s.gangs.filter (fun g => g.fld == f)).flatMap s.openArea
  let ours (d c : Nat) : Bool := s.resource kindChan d c == ⟨(f : Int), 0⟩
  let ok (d p : Nat) : Bool := ours d (p % 32) && !s.poolPage f d p &&
    !runs.any (fun r => r.die == d && decide (r.page ≤ p ∧ p < r.page + r.count)) &&
    !areas.any (fun m => m / rangeLines == d && m % rangeLines / 729 == p)
  ((List.range 12).filter (fun d => (List.range 32).any (ours d))).findSome? (fun d =>
    (findPage (ok d) diePages 0).map (fun p => d * 3 ^ 17 + p))

/-! ### The firmware's writes of tables -/

/-- An entry with another FRAME. -/
def withFrame (e : Word) (n : Nat) : Word := word (wval e + ((n : Int) - entFrame e) * 3 ^ 6)
/-- A leaf whose rights are lowered: R and W are − (12 R231). -/
def loweredLeaf (e : Word) : Word := word (wval e - (entR e + 1) * 3 ^ 4 - (entW e + 1) * 3 ^ 3)
/-- The pointer to the first table of a frame (12 Table 12.1). -/
def pointerTo (n : Nat) : Word := word ((n : Int) * 3 ^ 6 - 3 ^ 5 - 4 * 3 ^ 3)
/-- The lines of a frame. -/
def frameLines (n : Nat) : List Loc := (List.range 729).map (fun i => ⟨.hbm, 19683 * n + 27 * i⟩)
/-- The entry names the frame: a leaf of one page, or a pointer. -/
def TabEntry.names (t : TabEntry) (n : Nat) : Bool := (!t.isLeaf || t.level == 3) && entFrame t.e == (n : Int)
/-- The lines in which entries lie. -/
def entryLines (ts : List TabEntry) : List Loc := ts.filterMap (fun t => t.at_.map (fun a => lineOf ⟨.hbm, a⟩))
/-- Write an entry: in a table, or PTROOT. -/
def State.putEntry (s : State) (f : Nat) (at_ : Option Nat) (e : Word) : State :=
  match at_ with
  | some a => s.homeWrite (lineOf ⟨.hbm, a⟩) (wordTrytes (a % 27) e) false none
  | none => s.modField f (fun x => { x with ptroot := e })
/-- The TLBs and the walkers hold nothing of a field (12 R223). -/
def State.dropField (s : State) (f : Nat) : State := s.dropEntries (fun t => t.fld == f)

/-! ### Moving a page (12 R231) -/

/-- Lower the rights of the leaves that name a frame. -/
def State.moveBegin (s : State) (f frame to_ : Nat) : State :=
  let ls := (s.entries f).filter (fun t => t.isLeaf && t.names frame)
  match s.snoopFirst true (entryLines ls) with
  | some t => t.await (.event .vacateEnd) 0 (entryLines ls)
  | none =>
    let t := (ls.foldl (fun t x => t.putEntry f x.at_ (loweredLeaf x.e)) s).dropField f
    { t with moving := some ⟨frame, to_, ls.map (fun x => (x.va, x.e)), s.steps⟩ }
/-- Copy a line with its check. -/
def State.copyLine (s : State) (c : Bool) (a b : Loc) : State :=
  let bad (l : Loc) : Bool := s.failing.contains l.a
  if s.lineAt a == s.lineAt b && !bad a && !bad b then s
  else
    let t := (s.homePut b ((s.lineAt a).zipIdx.map (fun q => (q.2, q.1))) c).clearFailing b
    if bad a then { t.failLine b with checks := amSet [] t.checks (lineNo b) (amGet [] s.checks (lineNo a)) } else t
/-- An entry that names the old frame as it becomes: a leaf gets its former rights. -/
def PageMove.entry (m : PageMove) (t : TabEntry) : Word :=
  withFrame (if t.isLeaf then ((m.olds.find? (fun q => q.1 == t.va)).map (·.2)).getD t.e else t.e) m.to_
/-- Where an entry is written: one that lies in the frame itself has moved with it. -/
def PageMove.place (m : PageMove) (t : TabEntry) : Option Nat :=
  t.at_.map (fun a => if a / 19683 = m.frame then 19683 * m.to_ + a % 19683 else a)
/-- The accesses to the old frame having completed, its lines are copied, the entries are written with the new FRAME, and what
faulted on its pages is replayed. -/
def State.moveEnd (s : State) (f : Nat) (m : PageMove) : State :=
  let page (va : Int) : Bool := m.olds.any (fun q => unitOf 3 q.1 == unitOf 3 va)
  let ts := (s.entries f).filter (fun t => t.names m.frame)
  let ls := frameLines m.frame ++ frameLines m.to_ ++ entryLines ts
  if s.usingOld f page m.since then s
  else
    match s.snoopFirst true ls with
    | some t => t.await (.event .vacateEnd) 0 ls
    | none =>
      let t := s.settleMoving f page (frameLines m.frame)
      let c := m.olds.any (fun q => entC q.2 == 1)
      let t := ((frameLines m.frame).zip (frameLines m.to_)).foldl (fun t q => t.copyLine c q.1 q.2) t
      let t := t.purge (frameLines m.frame ++ frameLines m.to_)
      let t := (ts.foldl (fun t x => t.putEntry f (m.place x) (m.entry x)) t).dropField f
      let t := (m.olds.flatMap (fun q => s.pageEntries f q.1)).foldl (fun t e => t.replayEntry e.1 e.2) t
      { t with moving := none }
/-- A leaf of many pages becomes a table, in a free frame, of 729 leaves of the next level with its rights: no mapping changes, and
the pages can move one by one. -/
def State.splitLeaf (s : State) (f n : Nat) (x : TabEntry) : State :=
  let table := (List.range 81).map (fun i => (⟨.hbm, 19683 * n + 27 * i⟩ : Loc))
  let leaf (i : Nat) : Word := withFrame x.e ((entFrame x.e).toNat + i * 729 ^ (2 - x.level))
  match s.snoopFirst true (table ++ entryLines [x]) with
  | some t => t.await (.event .vacateEnd) 0 (table ++ entryLines [x])
  | none =>
    let t := table.zipIdx.foldl (fun t q => t.homeWrite q.1 ((List.range 9).flatMap (fun j => wordTrytes (3 * j) (leaf (9 * q.2 + j)))) false none) s
    t.putEntry f x.at_ (pointerTo n)

/-- The leaf of many pages with a page in a channel, or else the first entry with one. -/
def State.nextIn (s : State) (f die c : Nat) : Option TabEntry :=
  let ts := (s.entries f).filter (fun t => t.run.inChan die c != 0)
  (ts.find? (fun t => t.isLeaf && decide (t.level < 3))).orElse (fun _ => ts.head?)
/-- VACATE_END (24 R428): the firmware's next step; with no leaf and no table of the field in the channel, and no access to it
left, the vacate ends. Without a free frame the firmware waits. -/
def execVacateEnd (s : State) : Host.Outcome State Fault Refusal :=
  match s.inPhase kindChan 1 with
  | none => .next s
  | some q =>
    match s.moving, s.nextIn q.fld q.die q.index with
    | some m, _ => .next (s.moveEnd q.fld m)
    | none, none => .next (if s.chanBusy (32 * q.die + q.index) then s else s.toScrub q)
    | none, some x =>
      match s.freeFrame q.fld with
      | none => .next s
      | some n => .next (if x.isLeaf && decide (x.level < 3) then s.splitLeaf q.fld n x else s.moveBegin q.fld (entFrame x.e).toNat n)

end Sys2Proof.Machine
end

