-- ==== Sys2Proof/Machine/Dispatch.lean ====
section
/-!
DEFINITION. The meaning of every constructor of Instr: one arm each.
-/
namespace Sys2Proof.Machine

/-- One instruction or device step, from the meaning its family's file gives it. -/
def exec (i : Instr) (s : State) : Host.Outcome State Fault Refusal :=
  match i with
  | .hdr f => Sys2Proof.Machine.execHdr f s
  | .imm f => Sys2Proof.Machine.execImm f s
  | .modh f => Sys2Proof.Machine.execModh f s
  | .nop f => Sys2Proof.Machine.execNop f s
  | .safe f => Sys2Proof.Machine.execSafe f s
  | .mov f => Sys2Proof.Machine.execMov f s
  | .add f => Sys2Proof.Machine.execAdd f s
  | .sub f => Sys2Proof.Machine.execSub f s
  | .mul f => Sys2Proof.Machine.execMul f s
  | .mulh f => Sys2Proof.Machine.execMulh f s
  | .div f => Sys2Proof.Machine.execDiv f s
  | .mod f => Sys2Proof.Machine.execMod f s
  | .divt f => Sys2Proof.Machine.execDivt f s
  | .modt f => Sys2Proof.Machine.execModt f s
  | .min f => Sys2Proof.Machine.execMin f s
  | .max f => Sys2Proof.Machine.execMax f s
  | .abs f => Sys2Proof.Machine.execAbs f s
  | .sgn f => Sys2Proof.Machine.execSgn f s
  | .shl f => Sys2Proof.Machine.execShl f s
  | .shr f => Sys2Proof.Machine.execShr f s
  | .rot f => Sys2Proof.Machine.execRot f s
  | .tcnt f => Sys2Proof.Machine.execTcnt f s
  | .tmin f => Sys2Proof.Machine.execTmin f s
  | .tmax f => Sys2Proof.Machine.execTmax f s
  | .tnot f => Sys2Proof.Machine.execTnot f s
  | .tsum f => Sys2Proof.Machine.execTsum f s
  | .tmul f => Sys2Proof.Machine.execTmul f s
  | .tcons f => Sys2Proof.Machine.execTcons f s
  | .pack9 f => Sys2Proof.Machine.execPack9 f s
  | .unp9 f => Sys2Proof.Machine.execUnp9 f s
  | .cmp f => Sys2Proof.Machine.execCmp f s
  | .movi f => Sys2Proof.Machine.execMovi f s
  | .addi f => Sys2Proof.Machine.execAddi f s
  | .muli f => Sys2Proof.Machine.execMuli f s
  | .shli f => Sys2Proof.Machine.execShli f s
  | .shri f => Sys2Proof.Machine.execShri f s
  | .cmpi f => Sys2Proof.Machine.execCmpi f s
  | .text f => Sys2Proof.Machine.execText f s
  | .tins f => Sys2Proof.Machine.execTins f s
  | .mad f => Sys2Proof.Machine.execMad f s
  | .clamp f => Sys2Proof.Machine.execClamp f s
  | .tsel f => Sys2Proof.Machine.execTsel f s
  | .lea f => Sys2Proof.Machine.execLea f s
  | .lead f => Sys2Proof.Machine.execLead f s
  | .qmin f => Sys2Proof.Machine.execQmin f s
  | .qmax f => Sys2Proof.Machine.execQmax f s
  | .qnot f => Sys2Proof.Machine.execQnot f s
  | .qmov f => Sys2Proof.Machine.execQmov f s
  | .sel f => Sys2Proof.Machine.execSel f s
  | .voteAll f => Sys2Proof.Machine.execVoteAll f s
  | .voteAny f => Sys2Proof.Machine.execVoteAny f s
  | .voteCnt f => Sys2Proof.Machine.execVoteCnt f s
  | .movqToRegister f => Sys2Proof.Machine.execMovqToRegister f s
  | .movqToPredicate f => Sys2Proof.Machine.execMovqToPredicate f s
  | .movqBallot f => Sys2Proof.Machine.execMovqBallot f s
  | .movs f => Sys2Proof.Machine.execMovs f s
  | .lane f => Sys2Proof.Machine.execLane f s
  | .fadd f => Sys2Proof.Machine.execFadd f s
  | .fsub f => Sys2Proof.Machine.execFsub f s
  | .fmul f => Sys2Proof.Machine.execFmul f s
  | .fdiv f => Sys2Proof.Machine.execFdiv f s
  | .fsqrt f => Sys2Proof.Machine.execFsqrt f s
  | .frcp f => Sys2Proof.Machine.execFrcp f s
  | .frsq f => Sys2Proof.Machine.execFrsq f s
  | .fmin f => Sys2Proof.Machine.execFmin f s
  | .fmax f => Sys2Proof.Machine.execFmax f s
  | .fabs f => Sys2Proof.Machine.execFabs f s
  | .fcmp f => Sys2Proof.Machine.execFcmp f s
  | .fcls f => Sys2Proof.Machine.execFcls f s
  | .fscl f => Sys2Proof.Machine.execFscl f s
  | .fexn f => Sys2Proof.Machine.execFexn f s
  | .frnd f => Sys2Proof.Machine.execFrnd f s
  | .fexp f => Sys2Proof.Machine.execFexp f s
  | .flog f => Sys2Proof.Machine.execFlog f s
  | .fsint f => Sys2Proof.Machine.execFsint f s
  | .fcost f => Sys2Proof.Machine.execFcost f s
  | .flgr f => Sys2Proof.Machine.execFlgr f s
  | .flgc f => Sys2Proof.Machine.execFlgc f s
  | .fma f => Sys2Proof.Machine.execFma f s
  | .cvt src f => Sys2Proof.Machine.execCvt src f s
  | .xlnAt f => Sys2Proof.Machine.execXlnAt f s
  | .xlnBk f => Sys2Proof.Machine.execXlnBk f s
  | .xlnFw f => Sys2Proof.Machine.execXlnFw f s
  | .xlnTri f => Sys2Proof.Machine.execXlnTri f s
  | .lred f => Sys2Proof.Machine.execLred f s
  | .lscan f => Sys2Proof.Machine.execLscan f s
  | .br f => Sys2Proof.Machine.execBr f s
  | .call f => Sys2Proof.Machine.execCall f s
  | .jmpr f => Sys2Proof.Machine.execJmpr f s
  | .callr f => Sys2Proof.Machine.execCallr f s
  | .ret f => Sys2Proof.Machine.execRet f s
  | .exit f => Sys2Proof.Machine.execExit f s
  | .yield f => Sys2Proof.Machine.execYield f s
  | .trap f => Sys2Proof.Machine.execTrap f s
  | .rte f => Sys2Proof.Machine.execRte f s
  | .bkpt f => Sys2Proof.Machine.execBkpt f s
  | .watch f => Sys2Proof.Machine.execWatch f s
  | .sleep f => Sys2Proof.Machine.execSleep f s
  | .time f => Sys2Proof.Machine.execTime f s
  | .cyc f => Sys2Proof.Machine.execCyc f s
  | .csrr f => Sys2Proof.Machine.execCsrr f s
  | .csrw f => Sys2Proof.Machine.execCsrw f s
  | .csrx f => Sys2Proof.Machine.execCsrx f s
  | .launch f => Sys2Proof.Machine.execLaunch f s
  | .launchAtQueueHome r => Sys2Proof.Machine.execLaunchAtQueueHome r s
  | .evwait f => Sys2Proof.Machine.execEvwait f s
  | .evwaitReread r => Sys2Proof.Machine.execEvwaitReread r s
  | .gld f => Sys2Proof.Machine.execGld f s
  | .gst f => Sys2Proof.Machine.execGst f s
  | .glds f => Sys2Proof.Machine.execGlds f s
  | .prf f => Sys2Proof.Machine.execPrf f s
  | .lds f => Sys2Proof.Machine.execLds f s
  | .sts f => Sys2Proof.Machine.execSts f s
  | .ldsWf f => Sys2Proof.Machine.execLdsWf f s
  | .ldsWfe f => Sys2Proof.Machine.execLdsWfe f s
  | .stsWe f => Sys2Proof.Machine.execStsWe f s
  | .stsSt f => Sys2Proof.Machine.execStsSt f s
  | .waitFullRetry r => Sys2Proof.Machine.execWaitFullRetry r s
  | .ldp f => Sys2Proof.Machine.execLdp f s
  | .stp f => Sys2Proof.Machine.execStp f s
  | .ldc f => Sys2Proof.Machine.execLdc f s
  | .tnew f => Sys2Proof.Machine.execTnew f s
  | .tsplit f => Sys2Proof.Machine.execTsplit f s
  | .tfree f => Sys2Proof.Machine.execTfree f s
  | .tacq f => Sys2Proof.Machine.execTacq f s
  | .tacqGrant k => Sys2Proof.Machine.execTacqGrant k s
  | .trel f => Sys2Proof.Machine.execTrel f s
  | .tqry f => Sys2Proof.Machine.execTqry f s
  | .fenceT f => Sys2Proof.Machine.execFenceT f s
  | .redc f => Sys2Proof.Machine.execRedc f s
  | .recall k => Sys2Proof.Machine.execRecall k s
  | .push k => Sys2Proof.Machine.execPush k s
  | .flush r line => Sys2Proof.Machine.execFlush r line s
  | .mma f => Sys2Proof.Machine.execMma f s
  | .mmas f => Sys2Proof.Machine.execMmas f s
  | .mxrel f => Sys2Proof.Machine.execMxrel f s
  | .quant f => Sys2Proof.Machine.execQuant f s
  | .deq f => Sys2Proof.Machine.execDeq f s
  | .qcnt f => Sys2Proof.Machine.execQcnt f s
  | .matrixArbitrate quad => Sys2Proof.Machine.execMatrixArbitrate quad s
  | .passComplete r => Sys2Proof.Machine.execPassComplete r s
  | .quantComplete r => Sys2Proof.Machine.execQuantComplete r s
  | .deqComplete r => Sys2Proof.Machine.execDeqComplete r s
  | .runHoldLapse r => Sys2Proof.Machine.execRunHoldLapse r s
  | .cpy f => Sys2Proof.Machine.execCpy f s
  | .gath f => Sys2Proof.Machine.execGath f s
  | .scat f => Sys2Proof.Machine.execScat f s
  | .peer f => Sys2Proof.Machine.execPeer f s
  | .chain f => Sys2Proof.Machine.execChain f s
  | .coll f => Sys2Proof.Machine.execColl f s
  | .qfence f => Sys2Proof.Machine.execQfence f s
  | .bclose f => Sys2Proof.Machine.execBclose f s
  | .bwait f => Sys2Proof.Machine.execBwait f s
  | .commandStart r slot => Sys2Proof.Machine.execCommandStart r slot s
  | .commandComplete r slot => Sys2Proof.Machine.execCommandComplete r slot s
  | .joinComplete r slot => Sys2Proof.Machine.execJoinComplete r slot s
  | .collInstanceComplete k => Sys2Proof.Machine.execCollInstanceComplete k s
  | .peerDelivered r ok => Sys2Proof.Machine.execPeerDelivered r ok s
  | .atomAdd f => Sys2Proof.Machine.execAtomAdd f s
  | .atomMin f => Sys2Proof.Machine.execAtomMin f s
  | .atomMax f => Sys2Proof.Machine.execAtomMax f s
  | .atomTmin f => Sys2Proof.Machine.execAtomTmin f s
  | .atomTmax f => Sys2Proof.Machine.execAtomTmax f s
  | .atomXchg f => Sys2Proof.Machine.execAtomXchg f s
  | .atomCas f => Sys2Proof.Machine.execAtomCas f s
  | .atomFadd f => Sys2Proof.Machine.execAtomFadd f s
  | .redAdd f => Sys2Proof.Machine.execRedAdd f s
  | .redMin f => Sys2Proof.Machine.execRedMin f s
  | .redMax f => Sys2Proof.Machine.execRedMax f s
  | .redTmin f => Sys2Proof.Machine.execRedTmin f s
  | .redTmax f => Sys2Proof.Machine.execRedTmax f s
  | .redX81 f => Sys2Proof.Machine.execRedX81 f s
  | .redFadd f => Sys2Proof.Machine.execRedFadd f s
  | .atomicApply core k => Sys2Proof.Machine.execAtomicApply core k s
  | .fence f => Sys2Proof.Machine.execFence f s
  | .bara f => Sys2Proof.Machine.execBara f s
  | .barw f => Sys2Proof.Machine.execBarw f s
  | .bars f => Sys2Proof.Machine.execBars f s
  | .barrierArrivalApply r => Sys2Proof.Machine.execBarrierArrivalApply r s
  | .barrierRelayForward gid blk bar => Sys2Proof.Machine.execBarrierRelayForward gid blk bar s
  | .barl f => Sys2Proof.Machine.execBarl f s
  | .barlInstanceComplete k => Sys2Proof.Machine.execBarlInstanceComplete k s
  | .replayTok f => Sys2Proof.Machine.execReplayTok f s
  | .replayPage f => Sys2Proof.Machine.execReplayPage f s
  | .replayFail f => Sys2Proof.Machine.execReplayFail f s
  | .tlbiFld f => Sys2Proof.Machine.execTlbiFld f s
  | .tlbiVa f => Sys2Proof.Machine.execTlbiVa f s
  | .ctxs f => Sys2Proof.Machine.execCtxs f s
  | .ctxsPort f => Sys2Proof.Machine.execCtxsPort f s
  | .ctxr f => Sys2Proof.Machine.execCtxr f s
  | .ctxrDrop f => Sys2Proof.Machine.execCtxrDrop f s
  | .preemptHalt gid => Sys2Proof.Machine.execPreemptHalt gid s
  | .contextSaveComplete gid => Sys2Proof.Machine.execContextSaveComplete gid s
  | .portableHaltTimeout gid => Sys2Proof.Machine.execPortableHaltTimeout gid s
  | .stallWatchdogExpiry r => Sys2Proof.Machine.execStallWatchdogExpiry r s
  | .sleepWake r => Sys2Proof.Machine.execSleepWake r s
  | .sleepTimeout r => Sys2Proof.Machine.execSleepTimeout r s
  | .loadComplete r => Sys2Proof.Machine.execLoadComplete r s
  | .storeFifoDrain r => Sys2Proof.Machine.execStoreFifoDrain r s
  | .storeApply core k => Sys2Proof.Machine.execStoreApply core k s
  | .pageWalk core fld va => Sys2Proof.Machine.execPageWalk core fld va s
  | .rowUnparkReissue r => Sys2Proof.Machine.execRowUnparkReissue r s
  | .overflowReissue die => Sys2Proof.Machine.execOverflowReissue die s
  | .l2WriteBack line => Sys2Proof.Machine.execL2WriteBack line s
  | .lineMigrate line => Sys2Proof.Machine.execLineMigrate line s
  | .backInvalidateSnoopResponse line => Sys2Proof.Machine.execBackInvalidateSnoopResponse line s
  | .hostLineRead line want => Sys2Proof.Machine.execHostLineRead line want s
  | .hostLineWrite line bytes inv => Sys2Proof.Machine.execHostLineWrite line bytes inv s
  | .hostBiconflict line => Sys2Proof.Machine.execHostBiconflict line s
  | .hostSnoop line => Sys2Proof.Machine.execHostSnoop line s
  | .flitReceive link e bytes => Sys2Proof.Machine.execFlitReceive link e bytes s
  | .nakReceive link e ack => Sys2Proof.Machine.execNakReceive link e ack s
  | .nullFlitSend link e => Sys2Proof.Machine.execNullFlitSend link e s
  | .retrainComplete link wide narrow => Sys2Proof.Machine.execRetrainComplete link wide narrow s
  | .seedlingEntry die => Sys2Proof.Machine.execSeedlingEntry die s
  | .linkTrained link lanes => Sys2Proof.Machine.execLinkTrained link lanes s
  | .hbmStackTrained die ok => Sys2Proof.Machine.execHbmStackTrained die ok s
  | .leaveSeedling die => Sys2Proof.Machine.execLeaveSeedling die s
  | .junctionTrip die => Sys2Proof.Machine.execJunctionTrip die s
  | .tripRelease die => Sys2Proof.Machine.execTripRelease die s
  | .clcmdLoad fn slot => Sys2Proof.Machine.execClcmdLoad fn slot s
  | .clcmdUnload fn slot => Sys2Proof.Machine.execClcmdUnload fn slot s
  | .codeObjectLoadComplete fn => Sys2Proof.Machine.execCodeObjectLoadComplete fn s
  | .lqbaseArm fn q base => Sys2Proof.Machine.execLqbaseArm fn q base s
  | .lqbaseDisarm fn q => Sys2Proof.Machine.execLqbaseDisarm fn q s
  | .sowerTakeRecords fld q => Sys2Proof.Machine.execSowerTakeRecords fld q s
  | .dependenceMet fld k d => Sys2Proof.Machine.execDependenceMet fld k d s
  | .sowerSchedule fld => Sys2Proof.Machine.execSowerSchedule fld s
  | .headReservationBar fld => Sys2Proof.Machine.execHeadReservationBar fld s
  | .fallowEntry die => Sys2Proof.Machine.execFallowEntry die s
  | .fallowExit die => Sys2Proof.Machine.execFallowExit die s
  | .gangRetire gid => Sys2Proof.Machine.execGangRetire gid s
  | .gridRetire grid => Sys2Proof.Machine.execGridRetire grid s
  | .frcmdGrow kind die index fld => Sys2Proof.Machine.execFrcmdGrow kind die index fld s
  | .frcmdShrink kind die index fld => Sys2Proof.Machine.execFrcmdShrink kind die index fld s
  | .rehashLineMove line => Sys2Proof.Machine.execRehashLineMove line s
  | .hostRegisterWrite fn offset value => Sys2Proof.Machine.execHostRegisterWrite fn offset value s
  | .unassignedOpcode w => Sys2Proof.Machine.execUnassignedOpcode w s
  | .getVersion => Sys2Proof.Machine.execGetVersion s
  | .getCapabilities => Sys2Proof.Machine.execGetCapabilities s
  | .negotiateAlgorithms => Sys2Proof.Machine.execNegotiateAlgorithms s
  | .getDigests => Sys2Proof.Machine.execGetDigests s
  | .deviceReset => Sys2Proof.Machine.execDeviceReset s
  | .recctlSubmit => Sys2Proof.Machine.execRecctlSubmit s
  | .powerTrip => Sys2Proof.Machine.execPowerTrip s
  | .thermalHalt => Sys2Proof.Machine.execThermalHalt s
  | .quadLeaveEnd => Sys2Proof.Machine.execQuadLeaveEnd s
  | .scrubEnd => Sys2Proof.Machine.execScrubEnd s
  | .rehashComplete => Sys2Proof.Machine.execRehashComplete s
  | .vacateEnd => Sys2Proof.Machine.execVacateEnd s
  | .tileRequestAnswer => Sys2Proof.Machine.execTileRequestAnswer s
  | .hostLinkRetrain => Sys2Proof.Machine.execHostLinkRetrain s
  | .sriovVfEnable vf on => Sys2Proof.Machine.execSriovVfEnable vf on s
  | .fieldReset fld => Sys2Proof.Machine.execFieldReset fld s
  | .securityVersionAdvance v => Sys2Proof.Machine.execSecurityVersionAdvance v s
  | .firmwareSlotRewrite image => Sys2Proof.Machine.execFirmwareSlotRewrite image s
  | .translationInstall fld slot tr => Sys2Proof.Machine.execTranslationInstall fld slot tr s
  | .challenge nonce => Sys2Proof.Machine.execChallenge nonce s
  | .getCertificate slot => Sys2Proof.Machine.execGetCertificate slot s
  | .getMeasurements index => Sys2Proof.Machine.execGetMeasurements index s
  | .functionLevelReset vf => Sys2Proof.Machine.execFunctionLevelReset vf s
  | .keycmdErase fld key => Sys2Proof.Machine.execKeycmdErase fld key s
  | .keycmdInstall fld key => Sys2Proof.Machine.execKeycmdInstall fld key s

end Sys2Proof.Machine
end

