-- ==== Sys2Proof/Machine/Sides.lean ====
section
/-!
DEFINITION. The issue of one row, and the two sides of a core (07 R121 to R123): a row's registers are those of program
order, and what its scalar side has done past that place stands in `Row.ahead` until program order reaches it.
-/
namespace Sys2Proof.Machine

/-! ### The issue of one row -/

/-- The row is the one that issues, and its last wait is forgotten. -/
def State.issuing (s : State) (r : RowRef) : State :=
  { s.modRow r (fun x => { x with wait := none }) with cur := some r }

/-- The word the head group of a row stands at, after its prefixes: none past the end of the code. -/
def State.fetch (s : State) (r : RowRef) : Option Word := (s.ctxOf r).bind (fun c => s.codeWord c.fld c.ia)

/-- The uses of a word whose opcode is assigned and whose type field names no instruction of it. A MOVQ whose type field is
reserved has no form that says whether its dst and a are register fields, so none is checked (DESIGN CHOICE, log 126). -/
def reservedUses : DecodeError → List Use
  | .reservedMovq _ => []
  | .reservedReplay f => [dst f.dst, src f.a, src f.b]
  | .reservedTlbi f => [src f.a]
  | .reservedCtxs f => [dst f.dst, src f.a, src f.b]
  | .reservedCtxr f => [dst f.dst, src f.a]
/-- Such a word traps ILLMOD, after the checks of the clause and of the register fields (06 R92). -/
def reservedWord (e : DecodeError) (s : State) : Host.Outcome State Fault Refusal :=
  withRow s (fun c => (gate c false (reservedUses e) false {}).map (fun _ => s))

/-- The issue of one row: its word is fetched, decoded and executed. A word past the end of the code is of no assigned
opcode (DEDUCED, log 31). -/
def issueRow (r : RowRef) (s : State) : Host.Outcome State Fault Refusal :=
  let s := s.issuing r
  match s.ctxOf r with
  | none => .next s
  | some _ =>
    match s.fetch r with
    | none => withRow s (fun _ => .error Trap.illop)
    | some w =>
      match decode w with
      | .ok i => exec i s
      | .error e => reservedWord e s

/-! ### Table 7.1 -/

/-- Class and function of a word (06 R91). -/
def wCls (w : Word) : Int := field (wval w) 24 3
def wFn (w : Word) : Int := field (wval w) 21 3
/-- The destination field of formats A, B and C. -/
def wDst (w : Word) : Int := field (wval w) 16 5

/-- The predicate field that governs a word: MODH's for formats B and C (06 R103). -/
def wPred (pfx : Option Prefix) (w : Word) : Int :=
  let cls := wCls w
  if cls = -1 then (fmtE (wval w)).pred
  else if cls = 2 ∨ cls = 3 ∨ cls = 6 then ((pfx.bind (·.modh)).map (fun m => (Mod.ofPay m).pred)).getD 0
  else (fmtA (wval w)).pred

/-- Instructions of classes +1 to +7 that write a predicate or gather per-thread state (06 R96): class +4, CMP, CMPI, FCMP,
FLGR and FLGC. -/
def perThreadState (cls fn : Int) : Bool :=
  cls == 4 || (cls == 1 && fn == -13) || (cls == 2 && fn == 6) || (cls == 5 && (fn == 11 || fn == -7 || fn == -8))

/-- The word is performed on the scalar side (07 Table 7.1). A predicate is per-thread state, so a predicated instruction is
not (DEDUCED, log 101). -/
def onScalarSide (gen0 : Bool) (pfx : Option Prefix) (w : Word) : Bool :=
  let cls := wCls w
  if cls = 0 then decide (0 ≤ wFn w ∧ wFn w ≤ 4)
  else if cls = -1 then decide (1 ≤ wFn w ∧ wFn w ≤ 2) && wPred pfx w == 0
  else decide (1 ≤ cls ∧ cls ≤ 7) && !gen0 && isSca (wDst w) && !perThreadState cls (wFn w) && wPred pfx w == 0

/-- A conditional or indirect transfer, whose outcome the scalar side awaits. -/
def isTransfer (w : Word) : Bool := wCls w == -1 || (wCls w == -2 && decide (1 ≤ wFn w ∧ wFn w ≤ 3))
/-- The word holds its row's issue until it has issued itself (07 R125: EXIT, EVWAIT, FENCE.T, QCNT, BWAIT, FENCE, BARW, BARL),
or leaves the straight run as TRAP, RTE and BKPT do: the scalar side does not go past it. -/
def holdsIssue (w : Word) : Bool :=
  let fn := wFn w
  match wCls w with
  | -2 => decide (4 ≤ fn) && fn != 5
  | -3 => fn == 9
  | -5 => fn == 7
  | -6 => fn == 6
  | -7 => fn == 9
  | -10 => fn == 1 || fn == 3 || fn == 5
  | _ => false

/-- The register fields a vector-side word reads and writes, with the number of registers written (06 R93, R107). -/
def wordRegs (w : Word) : List Int × List (Int × Nat) :=
  let x := wval w
  let cls := wCls w
  let fn := wFn w
  let a := fmtA x
  let f := fmtF x
  let d := fmtD x
  if cls = 2 ∨ (cls = -3 ∧ (fn = 5 ∨ fn = 6 ∨ fn = 7)) then ([a.a], [(a.dst, 1)])
  else if cls = 3 ∨ cls = 6 ∨ cls = -8 ∨ cls = -9 then
    ([a.a, a.b, (fmtC x).c], if cls = -9 then [] else [(a.dst, 1)])
  else if cls = -4 then
    if fn = 2 ∨ fn = 6 ∨ fn = 9 ∨ fn = 10 ∨ fn = 12 then
      ((List.range (widthRegs d.width)).map (fun k => succReg false d.data k) ++ [d.base], [])
    else ([d.base], [(d.data, widthRegs d.width)])
  else if (cls = -3 ∧ fn = 8) ∨ (cls = -5 ∧ (fn = 1 ∨ fn = 2 ∨ fn = 4 ∨ fn = 6)) ∨ (cls = -6 ∧ fn = 6) ∨ (cls = -7 ∧ fn = 9) then
    ([f.y, f.z], [(f.x, if cls = -5 ∧ fn = 2 then 9 else 1)])
  else if cls = -5 ∨ cls = -6 ∨ cls = -7 then ([f.x, f.y, f.z], [])
  else if cls = -1 ∨ cls = 0 then ([], [])
  else ([a.a, a.b], [(a.dst, if cls = -3 ∧ fn = 3 then 2 else 1)])

/-- The scalar registers a vector-side word reads and those it writes. -/
def scalarSrcs (w : Word) : List Int := (wordRegs w).1.filter isSca
def scalarDsts (w : Word) : List Int :=
  (wordRegs w).2.flatMap (fun q => if isSca q.1 then (List.range q.2).map (fun k => succReg false q.1 k) else [])
/-- The entries a word's issue puts on the vector-to-scalar queue. -/
def produced (w : Word) : List VsEntry :=
  (scalarDsts w).map VsEntry.value ++ (if isTransfer w then [.outcome] else [])
/-! ### Units that are not pipelined (08 Table 8.0, 09 Table 9.0) -/

/-- The unit a word needs, by side, and the cycles it keeps it: divider 0, 1; root and reciprocal unit 2, 3; special
function unit 4, 5. -/
def unitOfWord (scalar : Bool) (w : Word) : Option (Nat × Nat) :=
  let side := if scalar then 1 else 0
  let cls := wCls w
  let fn := wFn w
  if cls = 1 ∧ 6 ≤ fn ∧ fn ≤ 9 then some (side, 27)
  else if cls = 5 ∧ (fn = 4 ∨ fn = 5) then some (2 + side, 27)
  else if cls = 5 ∧ (fn = 6 ∨ fn = 7) then some (2 + side, 18)
  else if cls = 5 ∧ -6 ≤ fn ∧ fn ≤ -3 then some (4 + side, 54)
  else none
/-- A unit of a core is busy. -/
def State.unitBusy (s : State) (core unit : Nat) : Bool :=
  (s.core core).units.any (fun q => q.1 == unit && decide (s.cycOf core < q.2))
/-- A unit of a core is taken. -/
def State.useUnit (s : State) (core : Nat) (u : Nat × Nat) : State :=
  s.modCore core (fun k => { k with units := (u.1, s.cycOf core + u.2) :: k.units.filter (fun q => q.1 != u.1) })

/-! ### Program order reaches a word -/

/-- The word a context's group stands at is performed on the scalar side. -/
def Ctx.scalar (c : Ctx) (w : Word) : Bool := onScalarSide c.gen0 c.r.pfx w

/-- What holds a word on account of its side: a full vector-to-scalar queue (KIND +3), a busy unit (+11). -/
def State.sideHold (s : State) (c : Ctx) (w : Word) : Option Int :=
  let n := if c.gen0 then 0 else (produced w).length
  if decide (0 < n) && decide (9 < c.r.vsLive.length + n) && !c.scalar w then some 3
  else
    match unitOfWord (c.scalar w) w with
    | some u => if s.unitBusy c.core u.1 then some 11 else none
    | none => none

/-- The scalar side's work once the word at `c` has issued and its row is `r`: a word performed ahead is passed, a vector-side
instruction leaves the scalar-to-vector queue; work that does not lead on from there is discarded (07 R123). -/
def keepAhead (c : Ctx) (w : Word) (r : Row) : Option Ahead :=
  match r.ahead, r.pct with
  | some a, [e] =>
    let a? := if c.scalar w then (if a.ran = 0 then none else some { a with ran := a.ran - 1 })
      else match a.sv with
        | q :: rest => if q.pos = c.ia then some { a with sv := rest } else none
        | [] => none
    if e.park then none else a?.filter (fun a => !a.sv.isEmpty || a.ran != 0)
  | _, _ => none

/-- The group still stands where it stood: it has met a full park table (07 Table 7.2), or a transfer has brought it back. -/
def stands (c : Ctx) (r : Row) : Bool :=
  r.pct.any (fun e => e.addr == c.e.addr && c.act.all (fun t => (r.awake e).threads.contains t))
/-- The vector-to-scalar queue after the issue of a word: what a native instruction of the vector side gives the scalar side
joins it, but for the result of a group that parks, which it gives when it wakes. -/
def nextVs (c : Ctx) (w : Word) (r : Row) : List VsEntry :=
  if c.gen0 || c.scalar w || r.handler.active != c.r.handler.active || (stands c r && !isTransfer w) || !(r.parkedAt c.e.addr).isEmpty
  then r.vsLive else r.vsLive ++ produced w

/-- The row has left a generation of a slot: its code is freed once no live PC lies in it (23 R415). -/
def State.leftCode (s : State) (c : Ctx) (r : Row) : State :=
  if c.r.codeRefs.all (fun a => r.codeRefs.any (fun b => b.slot == a.slot && b.gen == a.gen)) then s else s.sweepCode c.fld
/-- After an issue, of a word at its first performance (`fresh`) or of one that the scalar side has performed ahead: a row that
did not wait has its side's count at 0, its unit is in use, its queues follow, and its scalar side's work is kept or
discarded, and code that it has left is freed. -/
def State.settled (s : State) (c : Ctx) (w : Word) (fresh : Bool) : State :=
  match s.row? c.ref with
  | none => s
  | some r =>
    if r.wait.isSome || r.fault.isSome then s
    else
      let t := s.modRow c.ref (fun r =>
        { r with
          ahead := keepAhead c w r, vs := nextVs c w r
          waitS := if c.scalar w then 0 else r.waitS, waitV := if c.scalar w then r.waitV else 0 })
      let t := if fresh && r.handler == c.r.handler then (match unitOfWord (c.scalar w) w with | some u => t.useUnit c.core u | none => t) else t
      t.leftCode c r

/-- The issue of one row's next word in program order, with what its side holds and what becomes of the scalar side's work. -/
def issueStep (rr : RowRef) (s : State) : Host.Outcome State Fault Refusal :=
  match s.ctxOf rr, s.fetch rr with
  | some c, some w =>
    if c.blocked then issueRow rr s
    else
      match s.sideHold c w with
      | some k => .next ((s.issuing rr).hold c k)
      | none =>
        match issueRow rr s with
        | .next t => .next (t.settled c w true)
        | x => x
  | _, _ => issueRow rr s

/-! ### The scalar side runs ahead (07 R122) -/

/-- The scalar side at the row's place in program order; none while it awaits the outcome of a transfer that stands behind a
result still to come. -/
def Ahead.start (r : Row) (e : PcEntry) : Option Ahead :=
  if r.vsLive.contains .outcome then none
  else some ⟨e, r.pfx, r.sregs, r.vsLive.filterMap (fun v => match v with | .value f => some f | .outcome => none), false, [], 0⟩

/-- The scalar side takes in the entries of the vector-to-scalar queue that have their values. -/
def Ahead.takeIn (r : Row) (a : Ahead) : Ahead :=
  (r.vs.take (r.vs.length - r.vsLive.length)).foldl (fun a v =>
    match v with
    | .value f => { a with sregs := a.sregs.set (-f - 1).toNat (r.sreg (-f - 1).toNat), owed := dropFirst (· == f) a.owed }
    | .outcome => a) a

/-- The row as the scalar side sees it: it stands at the scalar side's place, and nothing of the vector side holds it. -/
def Ahead.row (a : Ahead) (r : Row) : Row :=
  { r with
    pct := [a.here], head := some a.here.addr, pfx := a.pfx, sregs := a.sregs, flags := List.replicate 12 0, busy := []
    loads := [], fails := [], escDue := [], escLost := [], ahead := none, wait := none }

/-- A scalar-side word performed ahead: the scalar registers and the place after it. A word that would trap, wait or swap
its group is left for its place in program order (07 R123). -/
def State.scalarAhead (s : State) (c : Ctx) (a : Ahead) (i : Instr) : Option Ahead :=
  let u := { s.modRow c.ref (fun r => a.row r) with cur := some c.ref }
  match exec i u with
  | .next t =>
    match t.row? c.ref with
    | some r =>
      match r.pct with
      | [e] =>
        if r.wait.isNone && r.handler == c.r.handler && t.host == u.host && !e.park && e.addr.gen == a.here.addr.gen then
          some { a with here := e, pfx := r.pfx, sregs := r.sregs, ran := a.ran + 1 }
        else none
      | _ => none
    | none => none
  | _ => none

/-- A vector-side word joins the scalar-to-vector queue with the values of its scalar sources; none when a scalar register it
names is still to come. -/
def Ahead.pass (a : Ahead) (w : Word) : Option Ahead :=
  let k := Prefix.count a.pfx
  let ds := scalarDsts w
  if (scalarSrcs w ++ ds).any (fun f => a.owed.contains f) then none
  else some { a with
    sv := a.sv ++ [⟨a.here.addr.plus k, (scalarSrcs w).map (fun f => a.sregs.getD (-f - 1).toNat 0)⟩]
    owed := a.owed ++ ds, turn := isTransfer w || holdsIssue w
    here := { a.here with addr := a.here.addr.plus ((k : Int) + 1), rem := a.here.rem - (k + 1) }, pfx := none }

/-- What the scalar side comes to from its place: a word that it performs; a full scalar-to-vector queue; another stall. -/
inductive AheadEnd where
  | issues (a : Ahead) (w : Word)
  | full
  | stalls
deriving DecidableEq, Repr

/-- The header waits for a flag, which only program order can tell. -/
def headerWaits (w : Word) : Bool := isHeader w && !(hdrWaits (fmtH (wval w)).pay).isEmpty

/-- The scalar side goes on from its place, passing vector-side words on, until it performs a word or stalls. A header that
waits is left for its place in program order. -/
def State.aheadFrom (s : State) (c : Ctx) : Nat → Ahead → AheadEnd
  | 0, _ => .stalls
  | n + 1, a =>
    if a.turn then .stalls
    else
      match s.codeWord c.fld (a.here.addr.plus (Prefix.count a.pfx)) with
      | none => .stalls
      | some w =>
        if onScalarSide false a.pfx w then
          if headerWaits w || (wordRegs w).1.any (fun f => a.owed.contains f) || (isSca (wDst w) && a.owed.contains (wDst w)) ||
              ((unitOfWord true w).map (fun u => s.unitBusy c.core u.1)).getD false then .stalls
          else
            match decode w with
            | .ok i => match s.scalarAhead c a i with | some b => .issues b w | none => .stalls
            | .error _ => .stalls
        else if 9 ≤ a.sv.length then .full
        else match a.pass w with | some b => s.aheadFrom c n b | none => .stalls

/-- What the scalar side of a row comes to past its place in program order (07 R122): only in native code, while the PC table
holds one entry and no acquire holds the row's issue. -/
def State.aheadOf (s : State) (c : Ctx) : AheadEnd :=
  if c.blocked || c.gen0 || c.r.acquiring || c.r.pct.length != 1 then .stalls
  else
    match (c.r.ahead.filter (fun a => a.here.threads == c.e.threads)).orElse (fun _ => Ahead.start c.r c.e) with
    | some a => s.aheadFrom c 10 (a.takeIn c.r)
    | none => .stalls

/-- The scalar side of a row issues a word past the row's place in program order. -/
def State.aheadStep (s : State) (rr : RowRef) : Option State :=
  match s.ctxOf rr with
  | none => none
  | some c =>
    match s.aheadOf c with
    | .issues a w =>
      let t := s.modRow rr (fun r => { r with ahead := some a, vs := r.vsLive, waitS := 0, stall := 0 })
      some (match unitOfWord true w with | some u => t.useUnit c.core u | none => t)
    | _ => none

/-! ### What a row does on a side (07 R125) -/

/-- The words that the scalar side of a row has performed and program order has still to reach. -/
def State.ranOf (s : State) (rr : RowRef) : Nat := (((s.row? rr).bind (·.ahead)).map (·.ran)).getD 0

/-- Program order passes a word that the scalar side has performed ahead. -/
def retireStep (rr : RowRef) (s : State) : State :=
  match s.ctxOf rr, s.fetch rr with
  | some c, some w => match issueRow rr s with | .next t => t.settled c w false | _ => s
  | _, _ => s

/-- The vector side issues a row's next word of its own: program order first passes the words performed ahead, unless one of
them waits or traps there. -/
def vectorStep (rr : RowRef) : Nat → State → Host.Outcome State Fault Refusal
  | 0, s => issueStep rr s
  | n + 1, s =>
    if s.ranOf rr = 0 then issueStep rr s
    else
      match s.ctxOf rr, s.fetch rr with
      | some c, some w =>
        if c.scalar w then
          let t := retireStep rr s
          if t.ranOf rr < s.ranOf rr ∧ ((t.row? rr).map (fun r => r.handler == c.r.handler)).getD false then vectorStep rr n t else .next t
        else issueStep rr s
      | _, _ => issueStep rr s

/-- A row's next word in program order is one that its scalar side has still to perform. -/
def State.scalarNext (s : State) (rr : RowRef) : Bool :=
  match s.ctxOf rr, s.fetch rr with
  | some c, some w => c.scalar w && s.ranOf rr == 0
  | _, _ => false
/-- The next word of the vector side of a row is within its reach: program order stands at one, or the scalar side has passed
one on or stands before one. -/
def State.vectorNext (s : State) (rr : RowRef) : Bool :=
  match s.ctxOf rr, s.fetch rr with
  | some c, some w =>
    !c.scalar w || ((c.r.ahead.map (fun a => !a.sv.isEmpty ||
      ((s.codeWord c.fld (a.here.addr.plus (Prefix.count a.pfx))).map (fun v => !onScalarSide false a.pfx v)).getD false)).getD false)
  | _, _ => false

/-- What a row does when a side chooses it: the scalar side performs the word at the row's place, or one past it; the vector
side performs its next word. -/
def State.sideStep (s : State) (scalar : Bool) (rr : RowRef) : Host.Outcome State Fault Refusal :=
  if scalar then
    if s.scalarNext rr then issueStep rr s else match s.aheadStep rr with | some t => .next t | none => .next s
  else vectorStep rr (s.ranOf rr) s

/-- A row's attempt met nothing that holds it. -/
def goesOn (rr : RowRef) (x : Host.Outcome State Fault Refusal) : Bool :=
  match x with
  | .next t => ((t.row? rr).bind (·.wait)).isNone
  | _ => true
/-- The row is ready on a side: its next instruction for that side would issue now. -/
def State.readyOn (s : State) (scalar : Bool) (rr : RowRef) : Bool :=
  match s.ctxOf rr with
  | none => false
  | some c =>
    !c.blocked &&
      (if scalar then (if s.scalarNext rr then goesOn rr (issueStep rr s) else (s.aheadStep rr).isSome)
      else s.vectorNext rr && goesOn rr (s.sideStep false rr))
/-- The row would issue on one of its sides. -/
def State.ready (s : State) (rr : RowRef) : Bool := s.readyOn false rr || s.readyOn true rr

end Sys2Proof.Machine
end

