-- ==== Sys2Proof/Machine/Upsets.lean ====
section
/-!
DEFINITION. Errors that strike stored trits and bytes, as the agenda brings them (13 R239, R240; log 28): one trit is
corrected, counted and logged; two are detected, and are handled as the place of the copy says.
-/
namespace Sys2Proof.Machine

/-- An error in the L1 copy of a core: corrected, or the clean copy goes. -/
def State.upsetL1 (s : State) (core : Nat) (line : Loc) (trits : Nat) : State :=
  if ((s.core core).copyOf line).isNone || trits == 0 then s
  else if trits = 1 then s.corrected (core / 80) (logPlace core 0) 257 2 (physLine line)
  else s.dropL1 core [line]
/-- An error in the RDC copy of a die. -/
def State.upsetRdc (s : State) (die : Nat) (line : Loc) (trits : Nat) : State :=
  if ((s.die die).copyOf line).isNone || trits == 0 then s
  else if trits = 1 then s.corrected die die 256 2 (physLine line)
  else s.dropRdc die [line]
/-- An error in an L2 line: a clean one goes and is read again from HBM; a dirty one is the only copy: it is kept as it now
stands, and is failing. -/
def State.upsetL2 (s : State) (line : Nat) (trits : List (Nat × Int)) : State :=
  let l := lineAddr line
  let old := tritsOf (s.lineAt l)
  let new := trits.foldl (fun ts q => ts.set q.1 (wrapT 1 q.2)) old
  let n := ((old.zip new).filter (fun q => q.1 != q.2)).length
  match s.l2Find l with
  | none => s
  | some x =>
    if n = 0 then s
    else if n = 1 then s.corrected (hbmDie l.a) (hbmDie l.a) x.slice 2 (physLine l)
    else if x.dirty || s.pinned line then
      (s.putTrytes l ((List.range 27).map (fun k => (k, tryteOf (new.drop (9 * k)))))).failLine l
    else s.dropL2 line
/-- An error in a bank-store word of a block: corrected, or no code repairs it until it is written. -/
def State.upsetScratch (s : State) (who : RowRef) (at_ trits : Nat) : State :=
  match s.block? who with
  | none => s
  | some b =>
    if trits = 0 then s
    else if trits = 1 then s.corrected (b.core / 80) (logPlace b.core 0) 258 2 0
    else s.modBlock who (fun b => { b with bad := insNat at_ b.bad })
/-- Some bytes change by masks. -/
def flipBytes (bs : List Nat) (masks : List (Nat × Nat)) : List Nat :=
  masks.foldl (fun bs q => bs.set q.1 ((bs.getD q.1 0 ^^^ q.2) % 256)) bs
/-- Bytes of a sector of HBM change. -/
def State.upsetSector (s : State) (line : Nat) (bytes : List (Nat × Nat)) : State :=
  { s with sectors := amSet [] s.sectors line (flipBytes (s.stored line) bytes) }
/-- Bytes of the sector of a tag line of HBM change; what slices have cached stands. -/
def State.upsetTag (s : State) (group : Nat) (bytes : List (Nat × Nat)) : State :=
  let old := match amGet [] s.tagHits group with
    | [] => sectorOf (s.tagWritten group).trytes
    | bs => bs
  { s with tagHits := amSet [] s.tagHits group (flipBytes old bytes) }

/-- An error strikes. -/
def State.struck (s : State) : Upset → State
  | .sector line bytes => s.upsetSector line bytes
  | .tag group bytes => s.upsetTag group bytes
  | .l1 core line trits => s.upsetL1 core line trits
  | .rdc die line trits => s.upsetRdc die line trits
  | .l2 line trits => s.upsetL2 line trits
  | .scratch who at_ trits => s.upsetScratch who at_ trits

end Sys2Proof.Machine
end

