-- ==== Sys2Proof/Machine/Sched.lean ====
section
/-!
DEFINITION. What a step does around one meaning (log 2, 3): time passes; then the next action of the agenda is
performed, or a device step that is due, or the issue of a row that R125 of chapter 07 chooses.
-/
namespace Sys2Proof.Machine

/-! ### Time (log 3) -/

/-- The watchdog of a row does not count: halted, ended, parked on a fault, or in a SLEEP with a timeout (07 R128). -/
def stallStill (g : Gang) (r : Row) : Bool :=
  g.status != .resident || r.ended || r.fault.isSome || r.sleeps.any (fun z => z.until_.isSome) || r.pct.isEmpty

/-- The watchdog counts of a gang over some cycles of each core. -/
def tickGang (cycles : Nat → Nat) (g : Gang) : Gang :=
  { g with blocks := g.blocks.map (fun b =>
    { b with rows := b.rows.map (fun r =>
      if stallStill g r then r else { r with stall := r.stall + cycles (b.core / 80) }) }) }

/-- A step's worth of time: the always-on counter, each die's cycles while its clocks run (04 R74), how long it is idle, and
the watchdogs. -/
def State.tick (s : State) : State :=
  let cycles (d : Nat) : Nat := if d = 12 ∨ ((s.die d).fallow = 0 ∧ s.clock d ≠ 0) then Config.cycles s.steps d else 0
  { s with
    steps := s.steps + 1
    now := s.now + Config.nanos s.steps
    dies := s.dies.zipIdx.map (fun q => { q.1 with
      cyc := q.1.cyc + cycles q.2
      idleSince := if s.dieBusy q.2 then s.now + Config.nanos s.steps else q.1.idleSince })
    mgmtCyc := s.mgmtCyc + cycles 12
    gangs := s.gangs.map (tickGang cycles) }

/-! ### Choosing a row (07 R125) -/

/-- The rows of a core, earlier placement first, then lower %row. -/
def State.rowsOn (s : State) (core : Nat) : List (RowRef × Gang × Row) :=
  (s.allRows.filter (fun q => q.2.2.1.core == core)).map (fun q => (q.1, q.2.1, q.2.2.2))

/-- The best of a list under a measure, the first of equals. -/
def bestBy {α : Type} (m : α → Int) : List α → Option α
  | [] => none
  | x :: r =>
    match bestBy m r with
    | none => some x
    | some y => if m x ≥ m y then some x else some y

/-- wait(r) of a side. -/
def Row.waitOn (scalar : Bool) (r : Row) : Nat := if scalar then r.waitS else r.waitV
def Row.setWait (scalar : Bool) (n : Nat) (r : Row) : Row := if scalar then { r with waitS := n } else { r with waitV := n }

/-- The choice among ready rows: a boosted row of the greatest count, else the highest PRIO. -/
def pickRow (scalar : Bool) (ready : List (RowRef × Gang × Row)) : Option RowRef :=
  let boosted := ready.filter (fun q => decide (q.2.2.waitOn scalar ≥ 729))
  let best := if boosted.isEmpty then bestBy (fun q => q.2.1.lrec.prio) ready
    else bestBy (fun q => (q.2.2.waitOn scalar : Int)) boosted
  best.map (·.1)

/-- The counts of a side after a choice. -/
def State.countWaits (s : State) (scalar : Bool) (ready : List (RowRef × Gang × Row)) (pick : RowRef) : State :=
  ready.foldl (fun s q => s.modRow q.1 (fun r => r.setWait scalar (if q.1 = pick then 0 else r.waitOn scalar + 1))) s

/-- The choice of a side of a core, with its counts: none when no row is ready. -/
def State.chooseRow (s : State) (core : Nat) (scalar : Bool) : Option (RowRef × State) :=
  let ready := (s.rowsOn core).filter (fun q => s.readyOn scalar q.1)
  (pickRow scalar ready).map (fun r => (r, s.countWaits scalar ready r))

/-- The sides that may choose: 2 × core, and one more for the scalar side, of each core that holds a resident row, from
the one whose turn it is on. -/
def State.sidesInTurn (s : State) : List Nat :=
  let cs := (s.gangs.filter (fun g => g.status == .resident)).flatMap (fun g => g.blocks.map (·.core))
  let us := (cs.foldl (fun l c => insNat c l) []).flatMap (fun c => [2 * c, 2 * c + 1])
  us.filter (fun u => decide (s.turn ≤ u)) ++ us.filter (fun u => decide (u < s.turn))

/-- The first side with a ready row, and its choice. -/
def State.chooseFrom (s : State) : List Nat → Option (Nat × RowRef × State)
  | [] => none
  | u :: us =>
    match s.chooseRow (u / 2) (u % 2 == 1) with
    | none => s.chooseFrom us
    | some (r, t) => some (u, r, t)

/-- A turn to issue that names a row: the side its next word is of makes its choice among the rows of that core; alone on
its core, or with none ready, the row named goes. -/
def State.turnOf (s : State) (r : RowRef) : RowRef × State :=
  let core := ((s.block? r).map (·.core)).getD 0
  match s.rowsOn core with
  | [_] => (r, s)
  | _ => (s.chooseRow core (s.scalarNext r)).getD (r, s)

/-- The row that has the turn issues. -/
def takeTurn (r : RowRef) (s : State) : Host.Outcome State Fault Refusal :=
  (s.turnOf r).2.sideStep (s.scalarNext r) (s.turnOf r).1

/-! ### Device steps that are due (log 2) -/

/-- Device steps listed under a condition. -/
def dueIf (b : Bool) (l : List Instr) : List Instr := if b then l else []

/-- The device steps of one engine queue slot. -/
def slotEvents (r : RowRef) (x : Row) (k : Nat) : List Instr :=
  dueIf (!(x.slots.getD k ⟨[], none⟩).entries.isEmpty) [Instr.commandComplete r k, Instr.commandStart r k, Instr.joinComplete r k]

/-- The device steps one row may be waiting for. -/
def rowEvents (r : RowRef) (x : Row) : List Instr :=
  List.flatten [
    dueIf (!x.loads.isEmpty) [Instr.loadComplete r],
    dueIf (!x.fifo.isEmpty) [Instr.storeFifoDrain r],
    dueIf x.fault.isSome [Instr.rowUnparkReissue r],
    dueIf (!x.parks.isEmpty || !x.rels.isEmpty || !x.tlbis.isEmpty) [Instr.waitFullRetry r],
    dueIf (!x.sleeps.isEmpty) [Instr.sleepWake r, Instr.sleepTimeout r],
    dueIf (!x.passes.isEmpty) [Instr.passComplete r],
    dueIf (!x.quants.isEmpty) [Instr.quantComplete r],
    dueIf (!x.deqs.isEmpty) [Instr.deqComplete r],
    dueIf (!x.runs.isEmpty) [Instr.runHoldLapse r],
    dueIf (!x.arrivals.isEmpty) [Instr.barrierArrivalApply r],
    dueIf (!x.launches.isEmpty) [Instr.launchAtQueueHome r],
    (List.range 9).flatMap (slotEvents r x)]

/-- The device steps of the cores and of the tile directory. -/
def State.memEvents (s : State) : List Instr :=
  List.flatten [
    s.cores.zipIdx.flatMap (fun q => (List.range q.1.order.length).flatMap (fun k =>
      [Instr.storeApply q.2 k, Instr.atomicApply q.2 k])),
    dueIf (!s.tileIn.isEmpty) [Instr.tileRequestAnswer],
    (List.range s.tileQ.length).map Instr.tacqGrant,
    (List.range s.recalls.length).map Instr.recall,
    (List.range s.pushes.length).map Instr.push,
    s.overPartials.map (fun q => Instr.flush q.1 q.2),
    (s.l2.filter (fun x => decide (9 ≤ x.run))).map (fun x => Instr.lineMigrate x.line)]

/-- A quad has matrix passes. -/
def State.quadBusy (s : State) (q : Nat) : Bool :=
  s.gangs.any (fun g => g.blocks.any (fun b => b.core / 4 == q && b.rows.any (fun r => !r.passes.isEmpty)))

/-- The device steps of units that several rows share. -/
def State.sharedEvents (s : State) : List Instr :=
  List.flatten [
    (List.range 240).flatMap (fun q => dueIf (s.quadBusy q) [Instr.matrixArbitrate q]),
    (List.range s.colls.length).map Instr.collInstanceComplete,
    (List.range s.levelBars.length).map Instr.barlInstanceComplete,
    s.allRows.flatMap (fun q => q.2.2.2.arrivals.flatMap (fun a =>
      dueIf (a.stage == 2) [Instr.barrierRelayForward q.1.gid a.blk a.bar])),
    s.dies.zipIdx.flatMap (fun q => dueIf (!q.1.overflow.isEmpty) [Instr.overflowReissue q.2]),
    s.links.zipIdx.flatMap (fun q => dueIf q.1.1.nextFlit.isSome [Instr.nullFlitSend q.2 0] ++
      dueIf q.1.2.nextFlit.isSome [Instr.nullFlitSend q.2 1]),
    s.coluri.zipIdx.flatMap (fun q => dueIf q.1.nextFlit.isSome [Instr.nullFlitSend (72 + q.2) 0])]

/-- The device steps of gangs, grids, queues and fields. -/
def State.gangEvents (s : State) : List Instr :=
  List.flatten [
    s.gangs.flatMap (fun g => [Instr.preemptHalt g.gid, Instr.contextSaveComplete g.gid, Instr.portableHaltTimeout g.gid, Instr.gangRetire g.gid]),
    s.grids.map (fun g => Instr.gridRetire g.id),
    s.host.fns.zipIdx.flatMap (fun q => dueIf q.1.loading.isSome [Instr.codeObjectLoadComplete ((q.2 : Int) - 1)]),
    dueIf (s.fw.recctl == 1) [Instr.recctlSubmit],
    s.fw.rewriting.toList.map Instr.firmwareSlotRewrite,
    dueIf s.freq.isSome (List.flatten [[Instr.quadLeaveEnd, Instr.scrubEnd, Instr.vacateEnd],
      s.rehash.map (fun q => Instr.rehashLineMove q.1), [Instr.rehashComplete]]),
    (List.range 12).flatMap (fun f => (List.range 9).map (fun q => Instr.sowerTakeRecords f q)),
    s.grids.flatMap (fun g => (List.range g.deps.length).map (fun d => Instr.dependenceMet g.fld g.id d)),
    (List.range 12).flatMap (fun f => [Instr.headReservationBar f, Instr.sowerSchedule f]),
    (List.range 12).flatMap (fun d => [Instr.fallowEntry d, Instr.fallowExit d])]

/-- The device steps that may be due. Host actions, peers' answers, trips and training results are not among them: they
come only from the agenda. -/
def State.pending (s : State) : List Instr :=
  List.flatten [s.memEvents, s.allRows.flatMap (fun q => rowEvents q.1 q.2.2.2), s.sharedEvents, s.gangEvents]

/-- The first of some device steps that changes the state. -/
def firstDue (s : State) : List Instr → Option State
  | [] => none
  | i :: r =>
    match exec i s with
    | .next t => if t = s then firstDue s r else some t
    | _ => firstDue s r

/-! ### Waits and the watchdog (07 R128, R129) -/

/-- An attempt of a row: the word its program order stands at, or the next of its vector side. -/
def State.tryRow (s : State) (r : RowRef) : Host.Outcome State Fault Refusal := s.sideStep (s.scalarNext r) r
/-- The wait an attempt of the row meets. -/
def State.waitNow (s : State) (r : RowRef) : Option Wait :=
  match s.tryRow r with
  | .next t => (t.row? r).bind (·.wait)
  | _ => none
/-- Waits in the order of Table 7.3. -/
def firstWait : List Wait → Option Wait
  | [] => none
  | w :: r => match firstWait r with | some v => some (if w.kind ≤ v.kind then w else v) | none => some w
/-- The scalar side stalls on a full scalar-to-vector queue. -/
def State.queueWait (s : State) (r : RowRef) : Option Wait :=
  (s.ctxOf r).bind (fun c => if s.aheadOf c = .full then some { kind := 3, flag := 0, slot := 0 } else none)
/-- The waits that hold a row: the one its attempt meets, and those it would meet with room on the vector-to-scalar queue, were
no acquire outstanding, and were no register owed or still to be read and no unit busy; and that of its scalar side. -/
def State.waits (s : State) (r : RowRef) : List Wait :=
  let a := s.modRow r (fun x => { x with vs := [] })
  let b := a.modRow r (fun x =>
    { x with loads := x.loads.map (fun o => { o with acq := 0 }), busy := x.busy.filter (· != 1001) })
  let d := b.modRow r (fun x => { x with busy := [], passes := x.passes.map (fun (p : Pass) => { p with granted := true }) })
  let d := { d with cores := d.cores.map (fun (k : Core) => { k with units := [] }) }
  [s.waitNow r, a.waitNow r, b.waitNow r, d.waitNow r, s.queueWait r].filterMap id

/-- The watchdog of a row has run out, and neither of its sides would issue. -/
def State.expired (s : State) (r : RowRef) : Bool :=
  match s.gang? r.gid, s.row? r with
  | some g, some x => decide (x.stall ≥ 3 ^ 21) && !stallStill g x && !s.ready r
  | _, _ => false
/-- A watchdog that has run out (07 R128). -/
def State.stallDue (s : State) : Option RowRef :=
  (s.allRows.find? (fun q => decide (q.2.2.2.stall ≥ 3 ^ 21) && s.expired q.1)).map (·.1)
/-- The expiry of a watchdog: STALL reports the first wait of Table 7.3 that holds; a row whose wait is met issues instead. -/
def expiry (r : RowRef) (s : State) : Host.Outcome State Fault Refusal :=
  if s.expired r then
    exec (.stallWatchdogExpiry r) (s.modRow r (fun x => { x with wait := (firstWait (s.waits r)).orElse (fun _ => x.wait) }))
  else .next s

/-- What an attempt changes that others may see: caches of translations and of lines apart. -/
def sameButCaches (s t : State) : Bool :=
  t == { s with cur := t.cur, cores := t.cores, quadTlb := t.quadTlb, walker := t.walker, l2 := t.l2 }
/-- An attempt of a row that waits and whose attempt changes the state: its wait is recorded, a batch closed, a snoop sent
(07 R117, R129). -/
def State.attempt (s : State) : Option State :=
  s.allRows.findSome? (fun q =>
    if s.ready q.1 then none
    else
      match s.tryRow q.1 with
      | .next t => if sameButCaches s t then none else some t
      | _ => none)

/-! ### One action -/

/-- An agenda entry: a device step, or a turn to issue. An instruction is no device step: it comes from its row. -/
def act (a : Act) (s : State) : Host.Outcome State Fault Refusal :=
  match a with
  | .issue r => takeTurn r s
  | .upset u => .next (s.struck u)
  | .outside o => .next (s.fromOutside o)
  | .held => .next s.serveHeld
  | .event (.stallWatchdogExpiry r) => expiry r s
  | .event i => if (encode i).isSome then .next s else exec i s

/-- With nothing on the agenda: a device step that is due, an attempt that waits, or the row a side chooses. -/
def idleAct (s : State) : Host.Outcome State Fault Refusal :=
  match firstDue s s.pending with
  | some t => .next t
  | none =>
    match s.attempt with
    | some t => .next t
    | none =>
      match s.chooseFrom s.sidesInTurn with
      | none => .next s
      | some (u, r, t) => State.sideStep { t with turn := u + 1 } (u % 2 == 1) r

/-- One step's action after time has passed. A watchdog that had run out before it, on a row that still would not issue,
goes first. -/
def State.advance (s : State) : Host.Outcome State Fault Refusal :=
  match s.stallDue with
  | some r => expiry r s.tick
  | none =>
    match s.agenda with
    | a :: rest => act a { s.tick with agenda := rest }
    | [] => idleAct s.tick

end Sys2Proof.Machine
end

