-- ==== Sys2Proof/Machine/Step.lean ====
section
/-!
DEFINITION. The step of the device, and the placing of one word where the next step fetches it (log 1, 2).
-/
namespace Sys2Proof.Machine

/-- One step (log 2): time passes, and one device step or one issue is performed. -/
def step (s : State) : Host.Outcome State Fault Refusal := s.advance

/-- The state with the instruction of `nbits` bits `w` where the next step fetches and runs it: a one-row gang of the
model's stands at it and is the next to issue (log 1). -/
def State.withFetchWord (s : State) (nbits w : Nat) : State := s.probe (wordOfBits (w % 2 ^ nbits))

end Sys2Proof.Machine
end

