-- ==== Sys2Proof/Safety.lean ====
section
/-!
DEFINITION. What counts as a safe run: a step neither faults nor is refused, and the invariants of the state that claims
name; and the words claims are made of: when a row issues, when an instruction passes its checks, and what the shapes
of results are.
-/
namespace Sys2Proof.Machine

/-- A step goes on. -/
def State.goesOn (s : State) : Prop := ∃ t, step s = .next t

/-- The memories keep their canonical form. -/
def State.memWf (s : State) : Prop :=
  Memory.wf s.mem = true ∧ Memory.wf s.peerMem = true ∧ Memory.hostWf s.hostMem = true

/-- The scratch of every block keeps its canonical form. -/
def State.scratchWf (s : State) : Prop := ∀ g ∈ s.gangs, ∀ b ∈ g.blocks, amWf ((0, .neg) : Word × Trit) b.scratch = true

/-! ### A row that issues -/

/-- `c` is the issuing row: its gang runs, it has not ended, no page fault parks it (07 R125), and no acquire or ATOM
of .quad scope or wider holds its issue (19 R345, 20 R363); in generation 0 no register result is outstanding (06 R110). -/
abbrev Issuing (s : State) (c : Ctx) : Prop :=
  s.ctx? = some c ∧ c.blocked = false ∧ c.r.acquiring = false ∧ (c.gen0 && !c.r.busy.isEmpty) = false

/-- An instruction passes checks 2 and 3 of 06 R92: it stands rightly in its clause, every register it names may be
named, and none it writes is locked by a run (17 R307). -/
abbrev Named (c : Ctx) (transfer : Bool) (uses : List Use) : Prop :=
  clauseOk c transfer = true ∧ (∀ u ∈ uses, regsOk c u.f u.n u.isDst = true) ∧
    (∀ u ∈ uses, u.isDst = true → ∀ f ∈ u.fields c, f ∉ c.r.locked)

/-- It passes check 4 too: its other fields hold no reserved value, and it accepts its prefixes. -/
abbrev Legal (c : Ctx) (transfer : Bool) (uses : List Use) (fields : Bool) (acc : Accept) : Prop :=
  Named c transfer uses ∧ fields = true ∧ pfxOk acc c = true

/-- It does, and no register it names is owed by an earlier operation (06 R100, 17 R303). -/
abbrev Free (c : Ctx) (transfer : Bool) (uses : List Use) (fields : Bool) (acc : Accept) : Prop :=
  Legal c transfer uses fields acc ∧ usesBusy c uses = false

/-- The condition of a per-row form is not mixed over the active threads (06 R98). -/
abbrev OneWay (c : Ctx) (pred : Int) : Prop :=
  (c.acting pred).length = c.act.length ∨ c.acting pred = []

/-- A computing instruction of destination `d` with `n` words, whose side follows `d` (06 R96), may run. -/
abbrev AluFree (c : Ctx) (d : Int) (n : Nat) (srcs : List Use) (pred : Int) (fields : Bool) (acc : Accept) : Prop :=
  Free c false (⟨d, true, n⟩ :: srcs) (fields && sideOk c d (srcs.map (·.f))) acc ∧
    (rowSide c d = true → OneWay c pred)

/-- A per-row instruction of scalar destination `d` whose sources `rows` are of the row may run (06 R96, R98, R110). -/
abbrev RowFree (c : Ctx) (d : Int) (srcs : List Use) (rows : List Int) (pred : Int) (fields : Bool) : Prop :=
  Free c false (dst d :: srcs) (fields && predOk pred && scaDst c d && rowSrcs c rows) {} ∧
    uniform c rows = true ∧ OneWay c pred

/-! ### Results -/

/-- The state after the words `f` gives are written to `d` and its successors: by every acting thread from its own
sources, or once for the row when the condition holds (06 R96, R98), with the flags raised. -/
def State.computed (s : State) (c : Ctx) (d : Int) (pred : Int) (f : Nat → List Int × Fx) : State :=
  s.finish c
    (if rowSide c d then (if (c.acting pred).length = c.act.length then perRow c d f else c.r)
      else perThread c d pred f)

/-- The state after each acting thread writes predicate `qd` (08 R148, R150). -/
def State.predicated (s : State) (c : Ctx) (qd : Int) (pred : Int) (g : Nat → Trit) : State :=
  s.finish c ((c.acting pred).foldl (fun (r : Row) p => r.setQ qd.toNat p (g p)) c.r)

/-- The state after a value is written to a row's scalar register, if the condition holds (06 R98, R110). -/
def State.gathered (s : State) (c : Ctx) (d : Int) (pred : Int) (v : Int) : State :=
  s.finish c (if (c.acting pred).length = c.act.length then wrRow c.gen0 c.w c.r c.act d v else c.r)

/-- The word of source `f` that thread p reads, after any MODH negation (06 R103, 08 R132). -/
def Ctx.srcA (c : Ctx) (f : Int) (p : Nat) : Int := negIf c.mod.na (rd c f p)
def Ctx.srcB (c : Ctx) (f : Int) (p : Nat) : Int := negIf c.mod.nb (rd c f p)
def Ctx.srcC (c : Ctx) (f : Int) (p : Nat) : Int := negIf c.mod.nc (rd c f p)

/-- MODH asks for saturation. -/
def Ctx.sat (c : Ctx) : Bool := c.mod.sat == 1

/-- `x` is a word of elements of width w of which element j is `e j` (08 R130). -/
def IsWord (w : Nat) (x : Int) (e : Nat → Int) : Prop :=
  ∀ j < elems w, field x (w * j) w = e j

/-- A completed element (08 R132): under S the nearest value in range, otherwise the exact value's low w trits. -/
def Completed (w : Nat) (sat : Bool) (exact e : Int) : Prop :=
  if sat then (if exact < -maxT w then e = -maxT w else if maxT w < exact then e = maxT w else e = exact)
  else e = wrapT w exact

/-- Flags that only IO may be among: IO exactly when saturation changed an element. -/
def OnlyIO (w : Nat) (sat : Bool) (exact : Nat → Int) (x : Fx) : Prop :=
  x = Fx.cond (sat && (List.range (elems w)).any (fun j => decide (maxT w < |exact j|))) Fx.IO

/-! ### Floating point -/

/-- The union of the flags of some elements. -/
def Fx.unions (n : Nat) (x : Nat → Fx) : Fx := (List.range n).foldl (fun a j => a.union (x j)) Fx.clear

/-- The value of a finite operand (02 R27, R30). -/
def Fl.rat : Fl → Rat
  | .fin m e => m * (3 : Rat) ^ e
  | _ => 0
/-- The operand is a NaN, an infinity, a finite value. -/
def Fl.isNan : Fl → Bool
  | .nan _ _ => true
  | _ => false
def Fl.isFin : Fl → Bool
  | .fin _ _ => true
  | _ => false

/-- Element j of source `f` of thread p, after negation when `n` asks for it (09 R155, R156). -/
def Ctx.fl (c : Ctx) (k : FKind) (n f : Int) (p j : Nat) : Fl := readFl k (negEl k n (flElem k (rd c f p) j))

/-- Element i of CVT's float source `f` of thread p, after any MODH negation (09 R168). -/
def cvtFl (c : Ctx) (k : FKind) (f : Int) (p i : Nat) : Fl :=
  let e := elem (rd c f p) k.width i
  readFl k (if c.mod.na = 1 then negFl k e else e)

/-- The value of n successive registers from `f` on, the first least significant (00 R5). -/
def groupValue (c : Ctx) (f : Int) (n p : Nat) : Int :=
  ((List.range n).map (fun j => rd c (succReg c.gen0 f j) p * 3 ^ (27 * j))).sum

/-- The instruction completes with `z p j` as element j of thread p's result and the union of its flags. -/
def FloatResult (s : State) (c : Ctx) (i : Instr) (d pred : Int) (k : FKind) (z : Nat → Nat → Int × Fx) : Prop :=
  ∃ r : Nat → Int,
    exec i s = .next (s.computed c d pred (fun p => ([r p], Fx.unions (elems k.width) (fun j => (z p j).2)))) ∧
    ∀ p, IsWord k.width (r p) (fun j => (z p j).1)

/-- The NaN rows of Table 2.8 (02 R32): the first NaN operand, quieted with IV when any operand is signalling; in an F9 format the
default NaN. -/
def NanRow (k : FKind) (ops : List Fl) (z : Int × Fx) : Prop :=
  ∀ (pre post : List Fl) (b : Bool) (r : Int), ops = pre ++ .nan b r :: post → (∀ o ∈ pre, o.isNan = false) →
    ((∃ r', Fl.nan true r' ∈ ops) → z = (if k = .f27 then quietNaN r else nanWord k, Fx.IV)) ∧
    ((∀ r', Fl.nan true r' ∉ ops) → z = (if k = .f27 then r else nanWord k, Fx.clear))
/-- A product is infinite, with a sign. -/
def InfProduct (x y : Fl) (neg : Bool) : Prop :=
  (∃ a b, x = .inf a ∧ y = .inf b ∧ neg = (a != b)) ∨
  (∃ a, x = .inf a ∧ y.isFin = true ∧ y.rat ≠ 0 ∧ neg = (a != decide (y.rat < 0))) ∨
  ∃ b, y = .inf b ∧ x.isFin = true ∧ x.rat ≠ 0 ∧ neg = (b != decide (x.rat < 0))
/-- A product is 0 × ∞, in either order. -/
def BadProduct (x y : Fl) : Prop :=
  ∃ a, (x = .inf a ∧ y.isFin = true ∧ y.rat = 0) ∨ (y = .inf a ∧ x.isFin = true ∧ x.rat = 0)

/-- `z` is the exact value q rounded into a format, with its flags (02 R24, R25, R31, Table 2.8), for a q that
terminates: E is its exponent, 3^E < 2|q| < 3^(E + 1). -/
def Rounded (k : FKind) (q : Rat) (z : Int × Fx) : Prop :=
  (q = 0 → z = (zeroWord k, Fx.clear)) ∧
  ∀ e : Int, (3 : Rat) ^ e < 2 * |q| → 2 * |q| < (3 : Rat) ^ (e + 1) →
    (k.top ≤ e → z = (infWord k (decide (q < 0)), Fx.OFNX)) ∧
    (e < k.top → (-k.top < e ∨ (k = .f27 ∧ e = -k.top)) →
      ∃ m : Int, z.1 = mkFl k e m ∧ |m| ≤ maxT k.sig ∧
        2 * |m * (3 : Rat) ^ (e - (k.sig - 1 : Nat)) - q| < (3 : Rat) ^ (e - (k.sig - 1 : Nat)) ∧
        z.2 = Fx.cond (decide (m * (3 : Rat) ^ (e - (k.sig - 1 : Nat)) ≠ q)) Fx.NX) ∧
    (k = .f27 → e < -364 →
      ∃ m : Int, z.1 = mkFl k (-364) m ∧ 2 * |m * (3 : Rat) ^ (-384 : Int) - q| < (3 : Rat) ^ (-384 : Int) ∧
        z.2 = Fx.cond (decide (m * (3 : Rat) ^ (-384 : Int) ≠ q)) Fx.UFNX) ∧
    (k ≠ .f27 → e ≤ -k.top → z = (zeroWord k, Fx.UFNX))

/-- `v` is the value of a significand of n trits, its exponent unbounded, nearest to q; of two equally near the one of
smaller magnitude (02 R24, R26). -/
def NearestTo (n : Nat) (q : Real) (v : Rat) : Prop :=
  (∃ m e : Int, |m| ≤ maxT n ∧ v = m * (3 : Rat) ^ e) ∧
  ∀ m e : Int, |m| ≤ maxT n → ∀ w : Rat, w = m * (3 : Rat) ^ e →
    |(v : Real) - q| ≤ |(w : Real) - q| ∧ (|(v : Real) - q| = |(w : Real) - q| → |v| ≤ |w|)

/-- `z` is F27 of the real q ≠ 0, with its flags: the nearest value m × 3^(e − 20) of 21 trits by its exponent e, and
below the range the nearest multiple of 3^−384 (02 R24, R26, Table 2.8). -/
def RoundedTo (q : Real) (z : Int × Fx) : Prop :=
  ∃ m e : Int, 3 ^ 20 < 2 * |m| ∧ |m| ≤ maxT 21 ∧ NearestTo 21 q (m * (3 : Rat) ^ (e - 20)) ∧
    (364 ≤ e → z = (infWord .f27 (decide (m < 0)), Fx.OFNX)) ∧
    (-364 ≤ e → e < 364 → ∃ b : Bool, z = (mkFl .f27 e m, Fx.cond b Fx.NX) ∧
      (b = true ↔ ((m * (3 : Rat) ^ (e - 20) : Rat) : Real) ≠ q)) ∧
    (e < -364 → ∃ (n : Int) (b : Bool), z = (mkFl .f27 (-364) n, Fx.cond b Fx.UFNX) ∧
      (b = true ↔ ((n * (3 : Rat) ^ (-384 : Int) : Rat) : Real) ≠ q) ∧
      ∀ n' : Int, |((n * (3 : Rat) ^ (-384 : Int) : Rat) : Real) - q| ≤ |((n' * (3 : Rat) ^ (-384 : Int) : Rat) : Real) - q| ∧
        (|((n * (3 : Rat) ^ (-384 : Int) : Rat) : Real) - q| = |((n' * (3 : Rat) ^ (-384 : Int) : Rat) : Real) - q| →
          |n| ≤ |n'|))

/-- The magnitude that the bits below the sign of a binary interchange pattern stand for, with `eb` exponent and `fb`
fraction bits; the pattern of ∞ stands for the power of two that follows the greatest finite value (02 R37 to R39). -/
def binMag (eb fb n : Nat) : Rat :=
  let ex := n / 2 ^ fb
  ((if ex = 0 then n % 2 ^ fb else 2 ^ fb + n % 2 ^ fb : Nat) : Rat) *
    (2 : Rat) ^ ((if ex = 0 then 1 else (ex : Int)) - (2 ^ (eb - 1) - 1 : Nat) - fb)

/-- What converting the pattern n gives as F27 (02 R37, R38). -/
def FromBinary (eb fb : Nat) (n : Int) (z : Int × Fx) : Prop :=
  (n < 0 ∨ 2 ^ (eb + fb + 1) ≤ n → z = (nanWord .f27, Fx.IV)) ∧
  ∀ (neg : Bool) (u : Nat), u < 2 ^ (eb + fb) → n = (if neg then 2 ^ (eb + fb) else 0) + u →
    (u = 0 → z = (zeroWord .f27, Fx.clear)) ∧
    (0 < u → u < (2 ^ eb - 1) * 2 ^ fb → RoundedTo ((if neg then -binMag eb fb u else binMag eb fb u : Rat) : Real) z) ∧
    (u = (2 ^ eb - 1) * 2 ^ fb → z = (infWord .f27 neg, Fx.clear)) ∧
    ((2 ^ eb - 1) * 2 ^ fb < u → z = (nanWord .f27, Fx.cond (decide (u % 2 ^ fb < 2 ^ (fb - 1))) Fx.IV))

/-- What converting the F27 operand x gives as a pattern (02 R39): of a finite value the pattern nearest to it, a tie
going to the even one, with the flags of an overflow, an inexact subnormal or an inexact value. -/
def ToBinary (eb fb : Nat) (x : Fl) (n : Int) (fx : Fx) : Prop :=
  let top : Nat := (2 ^ eb - 1) * 2 ^ fb
  (∀ b r, x = .nan b r → n = top + 2 ^ (fb - 1) ∧ fx = Fx.cond b Fx.IV) ∧
  (∀ b, x = .inf b → n = (if b then 2 ^ (eb + fb) else 0) + top ∧ fx = Fx.clear) ∧
  (x.isFin = true → x.rat = 0 → n = 0 ∧ fx = Fx.clear) ∧
  (x.isFin = true → x.rat ≠ 0 → ∀ y : Rat, y = |x.rat| →
    ∃ u : Nat, u ≤ top ∧ n = (if x.rat < 0 then 2 ^ (eb + fb) else 0) + u ∧
      (∀ w ≤ top, |binMag eb fb u - y| ≤ |binMag eb fb w - y| ∧
        (w ≠ u → |binMag eb fb u - y| = |binMag eb fb w - y| → u % 2 = 0)) ∧
      fx = (if u = top then Fx.OFNX
        else Fx.cond (decide (binMag eb fb u ≠ y)) (if y < binMag eb fb (2 ^ fb) then Fx.UFNX else Fx.NX)))

end Sys2Proof.Machine
end

