-- ==== Sys2Proof/Certificates/Slice0/Obligations.lean ====
section
/-!
DEFINITION. The statements for the provers: what the rules of the spec say the machine does.
-/
open Sys2Proof Sys2Proof.Machine

/-! ### Integer, immediate and three-source instructions (08) -/

/-- R136, R132: element j of ADD, SUB and MUL is the exact sum, difference or product of the elements of the sources,
wrapped or saturated; IO is raised exactly where saturation changes an element.
R136: MOV copies the word; MULH gives the high trits of the product, MIN the lesser, MAX the greater, ABS the
magnitude and SGN the sign, element by element, and none of them raises a flag. -/
def Obligations.IntegerResults : Prop :=
  (∀ (s : State) (c : Ctx) (f : FA), Issuing s c →
    AluFree c f.dst 1 [src f.a, src f.b] f.pred (predOk f.pred && t27t9 f.ty) accABS →
    ∀ q ∈ ([(.add f, fun x y => x + y), (.sub f, fun x y => x - y), (.mul f, fun x y => x * y)] :
        List (Instr × (Int → Int → Int))),
    ∃ v : Nat → Int × Fx,
      exec q.1 s = .next (s.computed c f.dst f.pred (fun p => ([(v p).1], (v p).2))) ∧
      ∀ p,
        (∀ j < elems (widthOfA f.ty), Completed (widthOfA f.ty) c.sat
          (q.2 (elem (c.srcA f.a p) (widthOfA f.ty) j) (elem (c.srcB f.b p) (widthOfA f.ty) j))
          (elem (v p).1 (widthOfA f.ty) j)) ∧
        OnlyIO (widthOfA f.ty) c.sat
          (fun j => q.2 (elem (c.srcA f.a p) (widthOfA f.ty) j) (elem (c.srcB f.b p) (widthOfA f.ty) j)) (v p).2) ∧
  (∀ (s : State) (c : Ctx) (f : FA), Issuing s c →
    (AluFree c f.dst 1 [src f.a] f.pred (predOk f.pred && f.ty == 0 && f.b == 0) {} → ¬(c.gen0 = true ∧ f.ty = -4) →
      exec (.mov f) s = .next (s.computed c f.dst f.pred (fun p => ([rd c f.a p], Fx.clear)))) ∧
    (AluFree c f.dst 1 [src f.a, src f.b] f.pred (predOk f.pred && t27t9 f.ty) accAB →
      ∀ q ∈ ([(.mulh f, fun x y z => z * 3 ^ widthOfA f.ty + wrapT (widthOfA f.ty) (x * y) = x * y),
          (.min f, fun x y z => z ≤ x ∧ z ≤ y ∧ (z = x ∨ z = y)),
          (.max f, fun x y z => x ≤ z ∧ y ≤ z ∧ (z = x ∨ z = y))] : List (Instr × (Int → Int → Int → Prop))),
      ∃ v : Nat → Int,
        exec q.1 s = .next (s.computed c f.dst f.pred (fun p => ([v p], Fx.clear))) ∧
        ∀ p, ∀ j < elems (widthOfA f.ty),
          q.2 (elem (c.srcA f.a p) (widthOfA f.ty) j) (elem (c.srcB f.b p) (widthOfA f.ty) j)
            (elem (v p) (widthOfA f.ty) j)) ∧
    (AluFree c f.dst 1 [src f.a] f.pred (predOk f.pred && (t27t9 f.ty && f.b == 0)) accA →
      ∀ q ∈ ([(.abs f, fun x => |x|), (.sgn f, fun x => if x < 0 then -1 else if x = 0 then 0 else 1)] :
          List (Instr × (Int → Int))),
      ∃ v : Nat → Int,
        exec q.1 s = .next (s.computed c f.dst f.pred (fun p => ([v p], Fx.clear))) ∧
        ∀ p, ∀ j < elems (widthOfA f.ty),
          elem (v p) (widthOfA f.ty) j = q.2 (elem (c.srcA f.a p) (widthOfA f.ty) j)))

/-- R137: the quotient of DIV is nearest x ÷ y, a tie going to the smaller magnitude, that of DIVT is toward zero; MOD
and MODT give the remainders; a zero divisor gives quotient 0 and remainder x and raises DZ.
R138: SHL and SHR shift every element by the whole word b, up exactly (then wrapped or saturated) and down by
dropping low trits; ROT moves trit (i − n) mod w to trit i. -/
def Obligations.DivideShiftResults : Prop :=
  (∀ (s : State) (c : Ctx) (f : FA), Issuing s c →
    AluFree c f.dst 1 [src f.a, src f.b] f.pred (predOk f.pred && t27t9 f.ty) accAB →
    ∃ dn mn dt mt : Nat → Int, ∃ x : Nat → Fx,
      exec (.div f) s = .next (s.computed c f.dst f.pred (fun p => ([dn p], x p))) ∧
      exec (.mod f) s = .next (s.computed c f.dst f.pred (fun p => ([mn p], x p))) ∧
      exec (.divt f) s = .next (s.computed c f.dst f.pred (fun p => ([dt p], x p))) ∧
      exec (.modt f) s = .next (s.computed c f.dst f.pred (fun p => ([mt p], x p))) ∧
      ∀ p,
        x p = Fx.cond ((List.range (elems (widthOfA f.ty))).any
          (fun j => elem (c.srcB f.b p) (widthOfA f.ty) j == 0)) Fx.DZ ∧
        ∀ j < elems (widthOfA f.ty),
          let w := widthOfA f.ty
          let n := elem (c.srcA f.a p) w j
          let y := elem (c.srcB f.b p) w j
          if y = 0 then elem (dn p) w j = 0 ∧ elem (mn p) w j = n ∧ elem (dt p) w j = 0 ∧ elem (mt p) w j = n
          else
            n = elem (dn p) w j * y + elem (mn p) w j ∧ 2 * |elem (mn p) w j| ≤ |y| ∧
            (2 * |elem (mn p) w j| = |y| → |elem (dn p) w j * y| ≤ |n|) ∧
            n = elem (dt p) w j * y + elem (mt p) w j ∧ |elem (mt p) w j| < |y| ∧ 0 ≤ n * elem (mt p) w j) ∧
  (∀ (s : State) (c : Ctx) (f : FA), Issuing s c →
    (AluFree c f.dst 1 [src f.a, src f.b] f.pred (predOk f.pred && t27t9 f.ty) accS →
      ∀ q ∈ ([(.shl f, fun n => n), (.shr f, fun n => -n)] : List (Instr × (Int → Int))),
      ∃ v : Nat → Int × Fx,
        exec q.1 s = .next (s.computed c f.dst f.pred (fun p => ([(v p).1], (v p).2))) ∧
        ∀ p,
          let w := widthOfA f.ty
          let m := q.2 (c.srcB f.b p)
          if 0 ≤ m then
            (∀ j < elems w, Completed w c.sat (elem (c.srcA f.a p) w j * 3 ^ m.toNat) (elem (v p).1 w j)) ∧
            OnlyIO w c.sat (fun j => elem (c.srcA f.a p) w j * 3 ^ m.toNat) (v p).2
          else
            (v p).2 = Fx.clear ∧
            ∀ j < elems w, elem (v p).1 w j =
              if -m < (w : Int) then field (elem (c.srcA f.a p) w j) (-m).toNat (w - (-m).toNat) else 0) ∧
    (AluFree c f.dst 1 [src f.a, src f.b] f.pred (predOk f.pred && t27t9 f.ty) {} →
      ∃ v : Nat → Int,
        exec (.rot f) s = .next (s.computed c f.dst f.pred (fun p => ([v p], Fx.clear))) ∧
        ∀ p, ∀ j < elems (widthOfA f.ty), ∀ i < widthOfA f.ty,
          trit (elem (v p) (widthOfA f.ty) j) i =
            trit (elem (rd c f.a p) (widthOfA f.ty) j) (((i : Int) - rd c f.b p) % (widthOfA f.ty : Int)).toNat))

/-- R139, R140: TCNT counts trits equal to v, trailing or leading zeros; TMIN, TMAX, TSUM, TMUL, TCONS and TNOT work
trit by trit as Table 8.2 says.
R141: PACK9 replaces element k of b by the value of a, wrapped to 9 trits or saturated with IO; UNP9 gives element
k of a. -/
def Obligations.TritWordResults : Prop :=
  (∀ (s : State) (c : Ctx) (f : FA), Issuing s c →
    (AluFree c f.dst 1 [src f.a] f.pred (predOk f.pred && (f.ty == 0 && decide (-2 ≤ f.b ∧ f.b ≤ 2))) {} →
      ∃ v : Nat → Int,
        exec (.tcnt f) s = .next (s.computed c f.dst f.pred (fun p => ([v p], Fx.clear))) ∧
        ∀ p,
          if f.b = 2 then
            0 ≤ v p ∧ v p ≤ 27 ∧ (∀ i : Nat, (i : Int) < v p → trit (rd c f.a p) i = 0) ∧
            (v p < 27 → trit (rd c f.a p) (v p).toNat ≠ 0)
          else if f.b = -2 then
            0 ≤ v p ∧ v p ≤ 27 ∧ (∀ i : Nat, (i : Int) < v p → trit (rd c f.a p) (26 - i) = 0) ∧
            (v p < 27 → trit (rd c f.a p) (26 - (v p).toNat) ≠ 0)
          else v p = (((List.range 27).countP (fun i => trit (rd c f.a p) i == f.b) : Nat) : Int)) ∧
    (AluFree c f.dst 1 [src f.a, src f.b] f.pred (predOk f.pred && f.ty == 0) accAB →
      ∀ q ∈ ([(.tmin f, fun a b => Min.min a b), (.tmax f, fun a b => Max.max a b),
          (.tsum f, fun a b => if a = b then -a else a + b), (.tmul f, fun a b => a * b),
          (.tcons f, fun a b => if a = b then a else 0)] : List (Instr × (Int → Int → Int))),
      ∃ v : Nat → Int,
        exec q.1 s = .next (s.computed c f.dst f.pred (fun p => ([v p], Fx.clear))) ∧
        ∀ p, |v p| ≤ maxT 27 ∧ ∀ i < 27, trit (v p) i = q.2 (trit (c.srcA f.a p) i) (trit (c.srcB f.b p) i)) ∧
    (AluFree c f.dst 1 [src f.a] f.pred (predOk f.pred && (f.ty == 0 && f.b == 0)) accA →
      ∃ v : Nat → Int,
        exec (.tnot f) s = .next (s.computed c f.dst f.pred (fun p => ([v p], Fx.clear))) ∧
        ∀ p, ∀ i < 27, trit (v p) i = -trit (c.srcA f.a p) i)) ∧
  (∀ (s : State) (c : Ctx) (f : FA), Issuing s c →
    (AluFree c f.dst 1 [src f.a, src f.b] f.pred (predOk f.pred && k012 f.ty) accS →
      ∃ v : Nat → Int × Fx,
        exec (.pack9 f) s = .next (s.computed c f.dst f.pred (fun p => ([(v p).1], (v p).2))) ∧
        ∀ p,
          Completed 9 c.sat (rd c f.a p) (elem (v p).1 9 f.ty.toNat) ∧
          (∀ j < 3, j ≠ f.ty.toNat → elem (v p).1 9 j = elem (rd c f.b p) 9 j) ∧
          (v p).2 = Fx.cond (c.sat && decide (maxT 9 < |rd c f.a p|)) Fx.IO) ∧
    (AluFree c f.dst 1 [src f.a] f.pred (predOk f.pred && (k012 f.ty && f.b == 0)) {} →
      exec (.unp9 f) s =
        .next (s.computed c f.dst f.pred (fun p => ([field (rd c f.a p) (9 * f.ty.toNat) 9], Fx.clear)))))

/-- R148, R143: CMP and CMPI write the sign of the exact difference to the predicate.
R150: QMIN, QMAX, QNOT and QMOV work on the predicate trits of each acting thread as TMIN, TMAX, TNOT and MOV do on
trits.
R152: the three forms of MOVQ: a predicate to a register, the sign of a register to a predicate, and the ballot of
27 threads to a scalar register; a destination of the wrong kind or a beat outside 0..2 traps ILLMOD. -/
def Obligations.ComparePredicateResults : Prop :=
  (∀ (s : State) (c : Ctx), Issuing s c →
    (∀ f : FA, Free c false [src f.a, src f.b] (f.ty == 0 && predOk f.pred && qNum f.dst) accAB →
      exec (.cmp f) s =
        .next (s.predicated c f.dst f.pred (fun p => Trit.ofSign (c.srcA f.a p - c.srcB f.b p)))) ∧
    (∀ f : FB, Free c false [src f.a] (f.ty == 0 && predOk c.mod.pred && qNum f.dst)
        { p := true, imm := true, na := true } →
      exec (.cmpi f) s =
        .next (s.predicated c f.dst c.mod.pred (fun p => Trit.ofSign (c.srcA f.a p - c.immVal f.imm))))) ∧
  (∀ (s : State) (c : Ctx) (f : FA), Issuing s c →
    (Free c false [] (f.ty == 0 && qNum f.a && qNum f.b && predOk f.pred && qNum f.dst) accAB →
      exec (.qmin f) s = .next (s.predicated c f.dst f.pred (fun p =>
        Trit.ofSign (Min.min (negIf c.mod.na (c.qv f.a p)) (negIf c.mod.nb (c.qv f.b p))))) ∧
      exec (.qmax f) s = .next (s.predicated c f.dst f.pred (fun p =>
        Trit.ofSign (Max.max (negIf c.mod.na (c.qv f.a p)) (negIf c.mod.nb (c.qv f.b p)))))) ∧
    (Free c false [] (f.ty == 0 && qNum f.a && f.b == 0 && predOk f.pred && qNum f.dst) {} →
      exec (.qnot f) s = .next (s.predicated c f.dst f.pred (fun p => Trit.ofSign (-(c.r.q f.a.toNat p).toInt))) ∧
      exec (.qmov f) s = .next (s.predicated c f.dst f.pred (fun p => c.r.q f.a.toNat p)))) ∧
  (∀ (s : State) (c : Ctx) (f : FA), Issuing s c →
    (Free c false [dst f.dst] (predOk f.pred && vecDst c f.dst && f.ty == 0 && qNum f.a && f.b == 0) {} →
      exec (.movqToRegister f) s = .next (s.finish c ((c.acting f.pred).foldl
        (fun (r : Row) p => wrReg c.gen0 c.w r f.dst p (c.r.q f.a.toNat p).toInt) c.r))) ∧
    (Free c false [src f.a] (f.ty == 1 && f.b == 0 && predOk f.pred && qNum f.dst) {} →
      exec (.movqToPredicate f) s = .next (s.predicated c f.dst f.pred (fun p => Trit.ofSign (rd c f.a p)))) ∧
    (RowFree c f.dst [] [] f.pred (f.ty == -1 && qNum f.a && decide (0 ≤ f.b ∧ f.b ≤ 2)) →
      ∃ v : Int, exec (.movqBallot f) s = .next (s.gathered c f.dst f.pred v) ∧ |v| ≤ maxT 27 ∧
        ∀ l < 27, trit v l =
          if 27 * f.b.toNat + l ∈ c.act then (c.r.q f.a.toNat (27 * f.b.toNat + l)).toInt else 0) ∧
    (Named c false [dst f.dst] → c.gen0 = false →
      (isSca f.dst = true → exec (.movqToRegister f) s = .next (takeTrap s c Trap.illmod)) ∧
      (isVec f.dst = true → exec (.movqBallot f) s = .next (takeTrap s c Trap.illmod)) ∧
      (f.b < 0 ∨ 2 < f.b → exec (.movqBallot f) s = .next (takeTrap s c Trap.illmod))))

/-- R143, R102: MOVI, ADDI and MULI with the immediate in every element; SHLI and SHRI as SHL and SHR.
R144 with Table 8.3a: TEXT gives trits pos + len − 1 .. pos of a; TINS replaces those trits of d by the low trits of
a and keeps every other trit of d. -/
def Obligations.ImmediateFieldResults : Prop :=
  (∀ (s : State) (c : Ctx) (f : FB), Issuing s c →
    (AluFree c f.dst 1 [] c.mod.pred (t27t9 f.ty && f.a == 0) (accImm f.ty) →
      ∃ v : Int,
        exec (.movi f) s = .next (s.computed c f.dst c.mod.pred (fun _ => ([v], Fx.clear))) ∧
        ∀ j < elems (widthOfA f.ty), elem v (widthOfA f.ty) j = wrapT (widthOfA f.ty) (c.immVal f.imm)) ∧
    (AluFree c f.dst 1 [src f.a] c.mod.pred (t27t9 f.ty) { accImm f.ty with na := true, sat := true } →
      ∀ q ∈ ([(.addi f, fun x => x + c.immVal f.imm), (.muli f, fun x => x * c.immVal f.imm)] :
          List (Instr × (Int → Int))),
      ∃ v : Nat → Int × Fx,
        exec q.1 s = .next (s.computed c f.dst c.mod.pred (fun p => ([(v p).1], (v p).2))) ∧
        ∀ p,
          (∀ j < elems (widthOfA f.ty), Completed (widthOfA f.ty) c.sat
            (q.2 (elem (c.srcA f.a p) (widthOfA f.ty) j)) (elem (v p).1 (widthOfA f.ty) j)) ∧
          OnlyIO (widthOfA f.ty) c.sat (fun j => q.2 (elem (c.srcA f.a p) (widthOfA f.ty) j)) (v p).2) ∧
    (AluFree c f.dst 1 [src f.a] c.mod.pred (t27t9 f.ty && decide (0 ≤ f.imm ∧ f.imm < (widthOfA f.ty : Int)))
        { p := true, sat := true } →
      ∃ v : Nat → Int × Fx,
        exec (.shli f) s = .next (s.computed c f.dst c.mod.pred (fun p => ([(v p).1], (v p).2))) ∧
        ∀ p,
          (∀ j < elems (widthOfA f.ty), Completed (widthOfA f.ty) c.sat
            (elem (rd c f.a p) (widthOfA f.ty) j * 3 ^ f.imm.toNat) (elem (v p).1 (widthOfA f.ty) j)) ∧
          OnlyIO (widthOfA f.ty) c.sat (fun j => elem (rd c f.a p) (widthOfA f.ty) j * 3 ^ f.imm.toNat) (v p).2) ∧
    (AluFree c f.dst 1 [src f.a] c.mod.pred (t27t9 f.ty && decide (0 ≤ f.imm ∧ f.imm < (widthOfA f.ty : Int)))
        { p := true } →
      ∃ v : Nat → Int,
        exec (.shri f) s = .next (s.computed c f.dst c.mod.pred (fun p => ([v p], Fx.clear))) ∧
        ∀ p, ∀ j < elems (widthOfA f.ty), elem (v p) (widthOfA f.ty) j =
          field (elem (rd c f.a p) (widthOfA f.ty) j) f.imm.toNat (widthOfA f.ty - f.imm.toNat))) ∧
  (∀ (s : State) (c : Ctx) (f : FB), Issuing s c →
    AluFree c f.dst 1 [src f.a] c.mod.pred (f.ty == 0 && textOk f.imm) { p := true } →
    exec (.text f) s = .next (s.computed c f.dst c.mod.pred
      (fun p => ([field (rd c f.a p) (field f.imm 0 4).toNat (field f.imm 4 5).toNat], Fx.clear))) ∧
    ∃ v : Nat → Int,
      exec (.tins f) s = .next (s.computed c f.dst c.mod.pred (fun p => ([v p], Fx.clear))) ∧
      ∀ p, ∀ i < 27,
        let pos := (field f.imm 0 4).toNat
        let len := (field f.imm 4 5).toNat
        trit (v p) i = if pos ≤ i ∧ i < pos + len then trit (rd c f.a p) (i - pos) else trit (rd c f.dst p) i)

/-- R145 to R147: MAD, CLAMP, TSEL, LEA and LEAD. -/
def Obligations.ThreeSourceResults : Prop :=
  ∀ (s : State) (c : Ctx) (f : FC), Issuing s c →
    (AluFree c f.dst 1 [src f.a, src f.b, src f.c] c.mod.pred (t27t9 f.ty) { accABC with sat := true } →
      ∃ v : Nat → Int × Fx,
        exec (.mad f) s = .next (s.computed c f.dst c.mod.pred (fun p => ([(v p).1], (v p).2))) ∧
        ∀ p,
          let e := fun j => elem (c.srcA f.a p) (widthOfC f.ty) j * elem (c.srcB f.b p) (widthOfC f.ty) j +
            elem (c.srcC f.c p) (widthOfC f.ty) j
          (∀ j < elems (widthOfC f.ty), Completed (widthOfC f.ty) c.sat (e j) (elem (v p).1 (widthOfC f.ty) j)) ∧
          OnlyIO (widthOfC f.ty) c.sat e (v p).2) ∧
    (AluFree c f.dst 1 [src f.a, src f.b, src f.c] c.mod.pred (t27t9 f.ty) accABC →
      ∃ v : Nat → Int,
        exec (.clamp f) s = .next (s.computed c f.dst c.mod.pred (fun p => ([v p], Fx.clear))) ∧
        ∀ p, ∀ j < elems (widthOfC f.ty), elem (v p) (widthOfC f.ty) j =
          Min.min (Max.max (elem (c.srcA f.a p) (widthOfC f.ty) j) (elem (c.srcB f.b p) (widthOfC f.ty) j))
            (elem (c.srcC f.c p) (widthOfC f.ty) j)) ∧
    (AluFree c f.dst 1 [src f.a, src f.b, src f.c] c.mod.pred (f.ty == 0) accABC →
      ∃ v : Nat → Int,
        exec (.tsel f) s = .next (s.computed c f.dst c.mod.pred (fun p => ([v p], Fx.clear))) ∧
        ∀ p, |v p| ≤ maxT 27 ∧ ∀ i < 27, trit (v p) i =
          if trit (c.srcA f.a p) i = -1 then trit (c.srcB f.b p) i
          else if trit (c.srcA f.a p) i = 0 then 0 else trit (c.srcC f.c p) i) ∧
    (AluFree c f.dst 1 [src f.a, src f.b] c.mod.pred (f.ty == 0 && decide (0 ≤ f.c ∧ f.c ≤ 26))
        { p := true, na := true, nb := true } →
      exec (.lea f) s = .next (s.computed c f.dst c.mod.pred
        (fun p => ([wrapT 27 (c.srcA f.a p + c.srcB f.b p * 3 ^ f.c.toNat)], Fx.clear))) ∧
      exec (.lead f) s = .next (s.computed c f.dst c.mod.pred
        (fun p => ([wrapT 27 (3 ^ f.c.toNat * Int.floor ((c.srcA f.a p : Rat) / 3 ^ f.c.toNat) +
          c.srcB f.b p * 3 ^ f.c.toNat)], Fx.clear))))

/-! ### Predicates, selection and votes (08) -/

/-- R151: SEL writes a where qn is +, b where qn is −, and leaves d where qn is 0; a scalar d traps ILLMOD. -/
def Obligations.SelResults : Prop :=
  ∀ (s : State) (c : Ctx) (f : FA), Issuing s c →
    (Free c false [dst f.dst, src f.a, src f.b] (predOk f.pred && vecDst c f.dst) accAB →
      exec (.sel f) s = .next (s.finish c ((c.acting f.pred).foldl (fun (r : Row) p =>
        match c.r.q (f.ty + 4).toNat p with
        | .pos => wrReg c.gen0 c.w r f.dst p (c.srcA f.a p)
        | .neg => wrReg c.gen0 c.w r f.dst p (c.srcB f.b p)
        | .zero => r) c.r))) ∧
    (Named c false [dst f.dst, src f.a, src f.b] → c.gen0 = false → isSca f.dst = true →
      exec (.sel f) s = .next (takeTrap s c Trap.illmod))

/-- R153: the votes test a predicate, or a flag of fx, in every active thread against condition C: ALL gives +1 or −1
as it holds in every one, ANY as it holds in some, CNT counts; a vector destination traps ILLMOD.
R171: each acting thread of a shuffle gets a of the active thread at its source position in its segment, its own a
where there is none; a scalar d traps ILLMOD.
R172 to R174: LRED writes the total of the contributing threads' words, LSCAN each contributing thread the total of
those below it, with it or without it; integer totals are exact and completed under R132 at the write. A float LRED
combines along the fixed tree of R173.
What the spec leaves to the model here is as log 18 says. -/
def Obligations.VoteLaneResults : Prop :=
  (∀ (s : State) (c : Ctx) (f : FA), Issuing s c →
    (RowFree c f.dst [] [] f.pred (condOk f.ty && decide (-6 ≤ f.a ∧ f.a ≤ 8) && f.b == 0) →
      (f.a < 0 → fxBusy c = false) →
      let held := fun p => condHolds f.ty
        (if 0 ≤ f.a then (c.r.q f.a.toNat p).toInt else if (c.r.fxOf p).bit (-f.a - 1).toNat then 1 else 0)
      exec (.voteAll f) s = .next (s.gathered c f.dst f.pred (if ∀ p ∈ c.act, held p = true then 1 else -1)) ∧
      exec (.voteAny f) s = .next (s.gathered c f.dst f.pred (if ∃ p ∈ c.act, held p = true then 1 else -1)) ∧
      exec (.voteCnt f) s = .next (s.gathered c f.dst f.pred ((c.act.countP held : Nat) : Int))) ∧
    (Named c false [dst f.dst] → c.gen0 = false → isVec f.dst = true →
      ∀ i ∈ [Instr.voteAll f, .voteAny f, .voteCnt f], exec i s = .next (takeTrap s c Trap.illmod))) ∧
  (∀ (s : State) (c : Ctx) (f : FA), Issuing s c →
    let digit := fun (t k : Nat) (b : Int) => (((t / 3 ^ k % 3 : Nat) : Int) + trit b k) % 3
    (∀ q ∈ ([(.xlnAt f, segOk f.ty, segment f.ty c.w, fun t b =>
          if 0 ≤ b ∧ b < segment f.ty c.w then
            some (((segment f.ty c.w * (t / segment f.ty c.w) : Nat) : Int) + b) else none),
        (.xlnBk f, segOk f.ty, segment f.ty c.w, fun t b => some ((t : Int) - b)),
        (.xlnFw f, segOk f.ty, segment f.ty c.w, fun t b => some ((t : Int) + b)),
        (.xlnTri f, f.ty == 0, c.w, fun t b => some
          (digit t 0 b + 3 * digit t 1 b + (if c.w = 9 then 0 else 9 * digit t 2 b) +
            (if c.w = 81 then 27 * digit t 3 b else 0)))] :
        List (Instr × Bool × Nat × (Nat → Int → Option Int))),
      (Free c false [dst f.dst, src f.a, src f.b] (predOk f.pred && q.2.1 && vecDst c f.dst) {} →
        ∃ v : Nat → Int, exec q.1 s = .next (s.finish c ((c.acting f.pred).foldl
            (fun (r : Row) p => wrReg c.gen0 c.w r f.dst p (v p)) c.r)) ∧
          ∀ t, let first := q.2.2.1 * (t / q.2.2.1)
            v t = match q.2.2.2 t (rd c f.b t) with
              | some u =>
                if (first : Int) ≤ u ∧ u < first + q.2.2.1 ∧ u.toNat ∈ c.act then rd c f.a u.toNat else rd c f.a t
              | none => rd c f.a t) ∧
      (Named c false [dst f.dst, src f.a, src f.b] → c.gen0 = false → isSca f.dst = true →
        exec q.1 s = .next (takeTrap s c Trap.illmod)))) ∧
  (∀ (s : State) (c : Ctx) (f : FA), Issuing s c →
    let w := widthOfA f.ty
    let ops : List (Int × (Int → Int → Int) × Int) :=
      [(1, (fun x y => x + y), 0), (2, (fun x y => Min.min x y), maxT w), (3, (fun x y => Max.max x y), -(maxT w))]
    let bit : List (Int × (Int → Int → Int) × Int) :=
      [(4, perTrit (fun x y => Min.min x y), maxT 27), (5, perTrit (fun x y => Max.max x y), -(maxT 27))]
    let el := fun (j p : Nat) => (laneEls f.ty (laneSrc c f p)).getD j 0
    (∀ q ∈ (if f.ty = 0 then ops ++ bit else ops), t27t9 f.ty = true →
      (f.b = q.1 → Free c false [dst f.dst, src f.a] (predOk f.pred && decide (0 < f.b) && laneOpOk f.b f.ty) (laneAcc f) →
        (rowSide c f.dst = true → OneWay c f.pred) →
        ∃ v : Int × Fx, exec (.lred f) s = .next (s.computed c f.dst f.pred (fun _ => ([v.1], v.2))) ∧
          let ts := (List.range c.w).filter
            (fun p => (if rowSide c f.dst then c.act else c.acting f.pred).contains p)
          (∀ j < elems w, Completed w c.sat ((ts.map (el j)).foldl q.2.1 q.2.2) (elem v.1 w j)) ∧
          OnlyIO w c.sat (fun j => (ts.map (el j)).foldl q.2.1 q.2.2) v.2) ∧
      (|f.b| = q.1 → Free c false [dst f.dst, src f.a] (predOk f.pred && vecDst c f.dst && laneOpOk f.b f.ty) (laneAcc f) →
        let ts := c.acting f.pred
        ∃ (v : Nat → Int) (x : Fx),
          exec (.lscan f) s = .next (s.finish c (((List.range ts.length).foldl
            (fun (r : Row) n => wrReg c.gen0 c.w r f.dst (ts.getD n 0) (v n)) c.r).raiseAll ts x)) ∧
          ∀ n < ts.length, ∀ j < elems w,
            Completed w c.sat
              (((ts.take (if 0 < f.b then n + 1 else n)).map (el j)).foldl q.2.1 q.2.2) (elem (v n) w j))) ∧
    (f.ty = 3 → 1 ≤ f.b → f.b ≤ 3 → Free c false [dst f.dst, src f.a] (predOk f.pred) (laneAcc f) →
      (rowSide c f.dst = true → OneWay c f.pred) →
      ∃ v : Int × Fx, exec (.lred f) s = .next (s.computed c f.dst f.pred (fun _ => ([v.1], v.2))) ∧
        ∃ a : LaneAcc, v = (a.els.headD 0, a.fx) ∧
          treeTotal ((laneOp f.b).getD .add) 3 (if c.w = 9 then 2 else if c.w = 27 then 3 else 4)
            ((List.range c.w).map (fun p =>
              if (if rowSide c f.dst then c.act else c.acting f.pred).contains p then ⟨[laneSrc c f p], Fx.clear⟩
              else ⟨laneId ((laneOp f.b).getD .add) 3, Fx.clear⟩)) = [a]) ∧
    (f.ty = 3 → 1 ≤ |f.b| → |f.b| ≤ 3 → Free c false [dst f.dst, src f.a] (predOk f.pred && vecDst c f.dst) (laneAcc f) →
      let ts := c.acting f.pred
      let o := (laneOp f.b).getD .add
      ∃ (acc : Nat → Int) (x : Fx),
        exec (.lscan f) s = .next (s.finish c (((List.range ts.length).foldl
          (fun (r : Row) n => wrReg c.gen0 c.w r f.dst (ts.getD n 0) (if 0 < f.b then acc (n + 1) else acc n))
          c.r).raiseAll ts x)) ∧
        [acc 0] = laneId o 3 ∧
        ∀ n < ts.length, acc (n + 1) = (flOp o (acc n) (laneSrc c f (ts.getD n 0))).1))

/-- R154: MOVS copies a of the thread at position p to a scalar register, 0 where that thread is not active; LANE writes
the row's a to d of that thread alone, and nothing where it is not active; the wrong kind of destination traps
ILLMOD.
What the spec leaves to the model here is as log 106 says. -/
def Obligations.LaneMoveResults : Prop :=
  ∀ (s : State) (c : Ctx) (f : FA), Issuing s c →
    (RowFree c f.dst [src f.a, src f.b] [f.b] f.pred (f.ty == 0) →
      exec (.movs f) s = .next (s.gathered c f.dst f.pred
        (if 0 ≤ rdRow c f.b ∧ (rdRow c f.b).toNat ∈ c.act then rd c f.a (rdRow c f.b).toNat else 0))) ∧
    (Free c false [dst f.dst, src f.a, src f.b]
        (predOk f.pred && vecDst c f.dst && f.ty == 0 && rowSrcs c [f.a, f.b]) {} →
      uniform c [f.a, f.b] = true → OneWay c f.pred →
      exec (.lane f) s = .next (s.finish c
        (if (c.acting f.pred).length = c.act.length ∧ 0 ≤ rdRow c f.b ∧ (rdRow c f.b).toNat ∈ c.act then
          wrReg c.gen0 c.w c.r f.dst (rdRow c f.b).toNat (rdRow c f.a) else c.r))) ∧
    (Named c false [dst f.dst, src f.a, src f.b] → c.gen0 = false →
      (isVec f.dst = true → exec (.movs f) s = .next (takeTrap s c Trap.illmod)) ∧
      (isSca f.dst = true → exec (.lane f) s = .next (takeTrap s c Trap.illmod)))

/-! ### Hint words and traps (06, 23) -/

/-- R100 to R104, R106: a header traps ILLOP inside a clause, in generation 0 and with LEN 0, and ILLMOD with a reserved LEN, a −
in WAIT, or an A or B outside 0..12; otherwise it opens its clause with LEN, A and B once every flag it waits for reads 0, and
holds the row before that. IMM and MODH are kept for the next word; a second IMM, an IMM behind MODH, a second MODH, and a prefix
that ends its clause trap ILLMOD. SAFE traps ILLMOD with a negative index, behind a prefix too, and ILLOP in generation 0;
otherwise it goes on, or where the current generation maps its safe point waits for the registers of the swap and then moves the
group's values and enters that generation.
What the spec leaves to the model here is as log 22, 102, 119 say. -/
def Obligations.HintResults : Prop :=
  ∀ (s : State) (c : Ctx) (f : FH), Issuing s c →
    (c.gen0 = true ∨ c.e.rem ≠ 0 ∨ field f.pay 18 3 = 0 → exec (.hdr f) s = .next (takeTrap s c Trap.illop)) ∧
    (c.gen0 = false → c.e.rem = 0 →
      (field f.pay 18 3 ≠ 0 →
        (field f.pay 18 3 < 0 ∨ (∃ i ∈ List.range 12, trit f.pay (6 + i) = -1) ∨ field f.pay 3 3 < 0 ∨ 12 < field f.pay 3 3 ∨
          field f.pay 0 3 < 0 ∨ 12 < field f.pay 0 3) →
        exec (.hdr f) s = .next (takeTrap s c Trap.illmod)) ∧
      (0 < field f.pay 18 3 → (∀ i ∈ List.range 12, trit f.pay (6 + i) ≠ -1) →
        (0 ≤ field f.pay 3 3 ∧ field f.pay 3 3 ≤ 12 ∧ 0 ≤ field f.pay 0 3 ∧ field f.pay 0 3 ≤ 12) →
        ((∃ i ∈ List.range 12, trit f.pay (6 + i) = 1 ∧ c.r.flag (i + 1) ≠ 0) →
          ∃ i, exec (.hdr f) s = .next (s.hold c 1 i) ∧ c.r.flag i ≠ 0) ∧
        ((∀ i ∈ List.range 12, trit f.pay (6 + i) = 1 → c.r.flag (i + 1) = 0) →
          (c.r.handler.active = true ∨ (c.r.fails = [] ∧ c.r.escDue = [] ∧ c.r.escLost = [])) →
          exec (.hdr f) s = .next (s.issued c c.r
            [⟨c.e.addr.plus ((c.k : Int) + 1), c.act, false, false, (field f.pay 18 3).toNat,
              (field f.pay 3 3).toNat, (field f.pay 0 3).toNat⟩])))) ∧
    (clauseOk c false = true → (c.gen0 = true ∨ 1 < c.rem) →
      (c.r.pfx = none →
        exec (.imm f) s = .next (s.modRow c.ref
          (fun r => { r with pfx := some ⟨c.e.addr, some f.pay, none⟩, wait := none, stall := 0 }))) ∧
      ((∀ q, c.r.pfx = some q → q.modh = none) →
        exec (.modh f) s = .next (s.modRow c.ref
          (fun r => { r with pfx := some ⟨c.e.addr, r.pfx.bind (·.imm), some f.pay⟩, wait := none, stall := 0 })))) ∧
    (clauseOk c false = true → (c.r.pfx ≠ none ∨ (c.gen0 = false ∧ c.rem ≤ 1)) →
      exec (.imm f) s = .next (takeTrap s c Trap.illmod)) ∧
    (clauseOk c false = true → ((∃ q, c.r.pfx = some q ∧ q.modh ≠ none) ∨ (c.gen0 = false ∧ c.rem ≤ 1)) →
      exec (.modh f) s = .next (takeTrap s c Trap.illmod)) ∧
    (c.gen0 = true → exec (.safe f) s = .next (takeTrap s c Trap.illop)) ∧
    (clauseOk c false = true → c.gen0 = false →
      (f.pay < 0 ∨ c.r.pfx ≠ none → exec (.safe f) s = .next (takeTrap s c Trap.illmod)) ∧
      (0 ≤ f.pay → c.r.pfx = none → c.g.portHalt = false →
        (s.swapTarget c f.pay = none → exec (.safe f) s = .next (s.finish c c.r)) ∧
        (∀ gen new, s.swapTarget c f.pay = some (gen, new) →
          let old := s.ownMap c new
          (swapBusy c old new = true → exec (.safe f) s = .next (s.hold c 11)) ∧
          (swapBusy c old new = false →
            exec (.safe f) s = .next (s.issued c { movePlaces c old new with ahead := none }
              [⟨⟨gen, c.e.addr.slot, new.idx⟩, c.act, false, false, 0, 0, 0⟩])))))

/-- R105: NOP with 21 zero trits takes one issue slot and has no other effect; with a nonzero trit it traps ILLMOD. -/
def Obligations.NopResults : Prop :=
  ∀ (s : State) (c : Ctx) (f : FH), Issuing s c → Named c false [] →
    (f.pay = 0 → c.r.pfx = none → exec (.nop f) s = .next (s.finish c c.r)) ∧
    (f.pay ≠ 0 → exec (.nop f) s = .next (takeTrap s c Trap.illmod))

/-- R399, R401, R402, R91: a word of no assigned opcode traps ILLOP. Without a handler, or inside one, the trap ends the
grid: every gang of it stops, and one log record is written or counted lost. Otherwise TRAPPC, TRAPCAUSE, TRAPINFO and
TRAPCLS are written and the group continues at the first word of function HNDL of its generation and slot, the yield marks of
other groups staying (the model's choice, log 94), and what the scalar side had done ahead is discarded (07 R123); nothing else of the row
changes.
What the spec leaves to the model here is as log 94 says. -/
def Obligations.TrapEntry : Prop :=
  ∀ (s : State) (c : Ctx) (w : Word), Issuing s c →
    (0 ≤ c.g.lrec.hndl → c.r.handler.active = false →
      exec (.unassignedOpcode w) s = .next (s.trapped c
        { c.r with ahead := none, handler :=
            { active := true, members := c.act, pc := c.e.addr.toWord, pcWritten := false, cause := 1, bk := false
              info := (s.codeWord c.fld c.ia).getD 0, rem := c.e.rem, fa := c.e.fa, fb := c.e.fb, skip := 0 } } false
        [⟨s.funcAddr c c.g.lrec.hndl, c.act, false, false, 0, 0, 0⟩])) ∧
    (c.g.lrec.hndl < 0 ∨ c.r.handler.active = true →
      ∃ t, exec (.unassignedOpcode w) s = .next t ∧
        (∀ g ∈ t.gangs, g.grid = c.g.grid → g.status = .retiring) ∧
        t.host.eloghead + t.host.eloglost = s.host.eloghead + s.host.eloglost + 1 ∧
        ∀ l, t.tryteAt l = s.tryteAt l)

/-- R92: the checks of a computing instruction in their order: a broken clause traps ILLOP, then a register that may not
be named traps ILLOP, then a reserved or unaccepted field traps ILLMOD, each before the word has any effect.
What the spec leaves to the model here is as log 19, 67, 126 say. -/
def Obligations.CheckOrder : Prop :=
  ∀ (s : State) (c : Ctx) (f : FA), Issuing s c →
    ∀ q ∈ ([(.add f, t27t9 f.ty, accABS), (.sub f, t27t9 f.ty, accABS), (.mul f, t27t9 f.ty, accABS),
        (.mulh f, t27t9 f.ty, accAB), (.div f, t27t9 f.ty, accAB), (.min f, t27t9 f.ty, accAB),
        (.shl f, t27t9 f.ty, accS), (.rot f, t27t9 f.ty, {}), (.tmin f, f.ty == 0, accAB)] :
        List (Instr × Bool × Accept)),
      (clauseOk c false = false → exec q.1 s = .next (takeTrap s c Trap.illop)) ∧
      (clauseOk c false = true → (regOk c f.dst true && regOk c f.a false && regOk c f.b false) = false →
        exec q.1 s = .next (takeTrap s c Trap.illop)) ∧
      (Named c false [dst f.dst, src f.a, src f.b] →
        (predOk f.pred && q.2.1 && sideOk c f.dst [f.a, f.b] && pfxOk q.2.2 c) = false →
        exec q.1 s = .next (takeTrap s c Trap.illmod))

/-! ### What computing instructions leave alone (06, 11 R204) -/

/-- 06 R92, 07 R125: an instruction that issues, or that waits, changes nothing but its row: no memory, no other row, nothing of the device;
and of the row what its meaning gives, the PC table, the prefixes and the waiting state.
06 R96, 11 R204: what `computed`, `predicated` and `gathered` mean in the row: the words stand in the destination,
every other register, predicate and flag counter is as before, and the group stands at the next word.
08, 06 R92: whatever a computing instruction of a register destination does (it completes, waits for a register, or
traps), no memory, no core, die, field or unit outside its row changes, no other row of a gang that stands on its
cores changes, and of its own row only the PC table, prefixes, trap registers, the waiting state, what its scalar side had done ahead, sticky flags of
acting threads and the destination register change.
What the spec leaves to the model here is as log 21 says. -/
def Obligations.IssueComputeFrame : Prop :=
  (∀ (s : State) (c : Ctx) (x : Row) (moves : List PcEntry) (b : Bool) (kind : Int) (flag : Nat) (slot : Int), s.ctx? = some c →
    x.row = c.r.row →
    (∀ t ∈ [s.finish c x, s.issued c x moves, s.trapped c x b moves, s.hold c kind flag slot],
      { t with gangs := s.gangs } = s ∧ (∀ l, t.tryteAt l = s.tryteAt l) ∧ ∀ r, r ≠ c.ref → t.row? r = s.row? r) ∧
    (∀ t ∈ [s.issued c x moves, s.trapped c x b moves], ∃ y, t.row? c.ref = some y ∧
      { y with pct := x.pct, pfx := x.pfx, head := x.head, wait := x.wait, stall := x.stall } = x) ∧
    ∃ y, (s.hold c kind flag slot).row? c.ref = some y ∧ { y with head := c.r.head, wait := c.r.wait } = c.r) ∧
  (∀ (s : State) (c : Ctx) (d pred : Int), s.ctx? = some c →
    (∀ (v : Nat → Int) (x : Nat → Fx), c.gen0 = false → isVec d = true →
      ∃ r, (s.computed c d pred (fun p => ([v p], x p))).row? c.ref = some r ∧
        (∀ p ∈ c.acting pred, c.w * d.toNat + p < c.r.vregs.length → r.vreg c.w d.toNat p = word (v p)) ∧
        (∀ i, (∀ p ∈ c.acting pred, i ≠ c.w * d.toNat + p) → r.vregs[i]? = c.r.vregs[i]?) ∧
        (∀ p, p ∉ c.acting pred → r.fxOf p = c.r.fxOf p) ∧
        r.sregs = c.r.sregs ∧ r.pregs = c.r.pregs ∧ r.qs = c.r.qs ∧ r.flags = c.r.flags ∧ r.busy = c.r.busy ∧
        r.handler = c.r.handler) ∧
    (∀ v : Int, c.gen0 = false → isSca d = true →
      ∃ r, (s.gathered c d pred v).row? c.ref = some r ∧
        ((c.acting pred).length = c.act.length → (-d - 1).toNat < c.r.sregs.length →
          r.sreg (-d - 1).toNat = word v) ∧
        (∀ i, i ≠ (-d - 1).toNat → r.sregs[i]? = c.r.sregs[i]?) ∧
        r.vregs = c.r.vregs ∧ r.pregs = c.r.pregs ∧ r.qs = c.r.qs ∧ r.fx = c.r.fx ∧ r.flags = c.r.flags ∧
        r.handler = c.r.handler) ∧
    (∀ g : Nat → Trit,
      ∃ r, (s.predicated c d pred g).row? c.ref = some r ∧
        (∀ p ∈ c.acting pred, p < c.r.qs.length → d.toNat < (c.r.qs.getD p []).length → r.q d.toNat p = g p) ∧
        (∀ p n, p ∉ c.acting pred ∨ n ≠ d.toNat → r.q n p = c.r.q n p) ∧
        r.vregs = c.r.vregs ∧ r.sregs = c.r.sregs ∧ r.pregs = c.r.pregs ∧ r.fx = c.r.fx ∧ r.flags = c.r.flags ∧
        r.handler = c.r.handler ∧
        (c.act ≠ [] → ∃ e ∈ r.pct, e.addr = c.e.addr.plus ((c.k : Int) + 1) ∧ ∀ p ∈ c.act, p ∈ e.threads))) ∧
  (∀ (s t : State) (c : Ctx) (f : FA), s.ctx? = some c →
    ∀ i ∈ [Instr.add f, .sub f, .mul f, .mulh f, .div f, .mod f, .divt f, .modt f, .min f, .max f, .abs f, .sgn f,
        .shl f, .shr f, .rot f, .tcnt f, .tmin f, .tmax f, .tnot f, .tsum f, .tmul f, .tcons f, .pack9 f, .unp9 f,
        .mov f, .fadd f, .fsub f, .fmul f, .fdiv f, .fsqrt f, .frcp f, .frsq f, .fmin f, .fmax f, .fabs f],
      exec i s = .next t →
      (∀ l, t.tryteAt l = s.tryteAt l) ∧
      { t with gangs := s.gangs, grids := s.grids, host := s.host, tileQ := s.tileQ } = s ∧
      (∀ q ∈ s.tileQ, (∀ g ∈ s.gangs, g.gid = q.who.gid → g.absent = false) → q ∈ t.tileQ) ∧
      { t.host with log := s.host.log, eloghead := s.host.eloghead, eloglost := s.host.eloglost } = s.host ∧
      (∀ r g, s.gang? r.gid = some g → g.absent = false → r ≠ c.ref → t.row? r = s.row? r) ∧
      ∃ x, t.row? c.ref = some x ∧
        { x with pct := c.r.pct, pfx := c.r.pfx, head := c.r.head, wait := c.r.wait, stall := c.r.stall, ahead := c.r.ahead
                 handler := c.r.handler, fx := c.r.fx, vregs := c.r.vregs, sregs := c.r.sregs
                 pregs := c.r.pregs } = c.r ∧
        (∀ p, p ∉ c.act → x.fxOf p = c.r.fxOf p) ∧
        (∀ j, (c.gen0 = false ∧ isSca f.dst = true ∧ j = (-f.dst - 1).toNat) ∨ x.sregs[j]? = c.r.sregs[j]?) ∧
        (∀ j, (∃ p ∈ c.act, c.gen0 = false ∧ isVec f.dst = true ∧ j = c.w * f.dst.toNat + p) ∨ x.vregs[j]? = c.r.vregs[j]?) ∧
        (∀ j, (∃ p ∈ c.act, c.gen0 = true ∧ j = c.w * (f.dst + 121).toNat + p) ∨ x.pregs[j]? = c.r.pregs[j]?))

/-! ### Floating point (09) -/

/-- R159, R155, Table 2.8: FADD, FSUB, FMUL and FMA round the exact sum, difference, product or product-sum once; ∞ − ∞ in effect
and 0 × ∞ in either order are invalid; any other sum or product with an infinity is infinite; a NaN operand decides the result.
R160, R24, R26, Table 2.8: FDIV, FSQRT, FRCP and FRSQ on zeros, infinities, NaNs and values below 0, and on every other operand the value nearest to the
exact quotient or root, of two equally near the smaller. -/
def Obligations.FloatArithmeticResults : Prop :=
  (∀ (s : State) (c : Ctx), Issuing s c →
    (∀ f : FA, AluFree c f.dst 1 [src f.a, src f.b] f.pred (predOk f.pred && fAll f.ty) accAB →
      let k := fkindA f.ty
      (∀ q ∈ ([(.fadd f, (fun x y => x + y), false), (.fsub f, (fun x y => x - y), true)] : List (Instr × (Rat → Rat → Rat) × Bool)),
        ∃ z : Nat → Nat → Int × Fx, FloatResult s c q.1 f.dst f.pred k z ∧
          ∀ p, ∀ j < elems k.width,
            let x := c.fl k c.mod.na f.a p j
            let y := c.fl k c.mod.nb f.b p j
            (x.isFin = true → y.isFin = true → Rounded k (q.2.1 x.rat y.rat) (z p j)) ∧
            (∀ a, x = .inf a → y.isFin = true → z p j = (infWord k a, Fx.clear)) ∧
            (∀ b, x.isFin = true → y = .inf b → z p j = (infWord k (b != q.2.2), Fx.clear)) ∧
            (∀ a b, x = .inf a → y = .inf b →
              z p j = if a = (b != q.2.2) then (infWord k a, Fx.clear) else (nanWord k, Fx.IV)) ∧
            NanRow k [x, y] (z p j)) ∧
      ∃ z : Nat → Nat → Int × Fx, FloatResult s c (.fmul f) f.dst f.pred k z ∧
        ∀ p, ∀ j < elems k.width,
          let x := c.fl k c.mod.na f.a p j
          let y := c.fl k c.mod.nb f.b p j
          (x.isFin = true → y.isFin = true → Rounded k (x.rat * y.rat) (z p j)) ∧
          (∀ neg, InfProduct x y neg → z p j = (infWord k neg, Fx.clear)) ∧
          (BadProduct x y → z p j = (nanWord k, Fx.IV)) ∧ NanRow k [x, y] (z p j)) ∧
    (∀ f : FC, AluFree c f.dst 1 [src f.a, src f.b, src f.c] c.mod.pred true
        { p := true, na := true, nb := true, nc := true } →
      let k := fkindC f.ty
      ∃ z : Nat → Nat → Int × Fx, FloatResult s c (.fma f) f.dst c.mod.pred k z ∧
        ∀ p, ∀ j < elems k.width,
          let x := c.fl k c.mod.na f.a p j
          let y := c.fl k c.mod.nb f.b p j
          let w := c.fl k c.mod.nc f.c p j
          (x.isFin = true → y.isFin = true → w.isFin = true → Rounded k (x.rat * y.rat + w.rat) (z p j)) ∧
          (∀ a, x.isFin = true → y.isFin = true → w = .inf a → z p j = (infWord k a, Fx.clear)) ∧
          (∀ neg, InfProduct x y neg →
            (w.isFin = true → z p j = (infWord k neg, Fx.clear)) ∧
            (∀ b, w = .inf b → z p j = if b = neg then (infWord k neg, Fx.clear) else (nanWord k, Fx.IV))) ∧
          (BadProduct x y → w.isNan = false → z p j = (nanWord k, Fx.IV)) ∧
          NanRow k [x, y, w] (z p j))) ∧
  (∀ (s : State) (c : Ctx) (f : FA), Issuing s c →
    (AluFree c f.dst 1 [src f.a, src f.b] f.pred (predOk f.pred && f.ty == 3) accAB →
      ∃ z : Nat → Nat → Int × Fx, FloatResult s c (.fdiv f) f.dst f.pred .f27 z ∧
        ∀ p,
          let x := c.fl .f27 c.mod.na f.a p 0
          let y := c.fl .f27 c.mod.nb f.b p 0
          NanRow .f27 [x, y] (z p 0) ∧
          (x.isFin = true → x.rat = 0 → y.isFin = true → y.rat = 0 → z p 0 = (nanWord .f27, Fx.IV)) ∧
          (x.isFin = true → x.rat = 0 → y.isFin = true → y.rat ≠ 0 → z p 0 = (zeroWord .f27, Fx.clear)) ∧
          (x.isFin = true → x.rat ≠ 0 → y.isFin = true → y.rat = 0 →
            z p 0 = (infWord .f27 (decide (x.rat < 0)), Fx.DZ)) ∧
          (∀ a, x = .inf a → y.isFin = true → z p 0 = (infWord .f27 (a != decide (y.rat < 0)), Fx.clear)) ∧
          (∀ a, y = .inf a → x.isFin = true → z p 0 = (zeroWord .f27, Fx.clear)) ∧
          (∀ a b, x = .inf a → y = .inf b → z p 0 = (nanWord .f27, Fx.IV)) ∧
          (x.isFin = true → y.isFin = true → x.rat ≠ 0 → y.rat ≠ 0 → RoundedTo ((x.rat / y.rat : Rat) : Real) (z p 0))) ∧
    (AluFree c f.dst 1 [src f.a] f.pred (predOk f.pred && (f.ty == 3 && f.b == 0)) accA →
      ∃ zq zr zs : Nat → Nat → Int × Fx,
        FloatResult s c (.fsqrt f) f.dst f.pred .f27 zq ∧ FloatResult s c (.frcp f) f.dst f.pred .f27 zr ∧
        FloatResult s c (.frsq f) f.dst f.pred .f27 zs ∧
        ∀ p,
          let x := c.fl .f27 c.mod.na f.a p 0
          (x.isFin = true → x.rat = 0 →
            zq p 0 = (zeroWord .f27, Fx.clear) ∧ zr p 0 = (infWord .f27 false, Fx.DZ) ∧
            zs p 0 = (infWord .f27 false, Fx.DZ)) ∧
          (NanRow .f27 [x] (zq p 0) ∧ NanRow .f27 [x] (zr p 0) ∧ NanRow .f27 [x] (zs p 0)) ∧
          (x = .inf true →
            zq p 0 = (nanWord .f27, Fx.IV) ∧ zr p 0 = (zeroWord .f27, Fx.clear) ∧ zs p 0 = (nanWord .f27, Fx.IV)) ∧
          (x = .inf false →
            zq p 0 = (infWord .f27 false, Fx.clear) ∧ zr p 0 = (zeroWord .f27, Fx.clear) ∧
            zs p 0 = (zeroWord .f27, Fx.clear)) ∧
          (x.isFin = true → x.rat < 0 → zq p 0 = (nanWord .f27, Fx.IV) ∧ zs p 0 = (nanWord .f27, Fx.IV)) ∧
          (x.isFin = true → x.rat ≠ 0 → RoundedTo ((1 / x.rat : Rat) : Real) (zr p 0)) ∧
          (x.isFin = true → 0 < x.rat →
            RoundedTo (Real.sqrt x.rat) (zq p 0) ∧ RoundedTo (1 / Real.sqrt x.rat) (zs p 0))))

/-- R162 to R166: FMIN, FMAX, FABS, FSCL and FRND on operands that are no NaN; FCMP, FCLS and FEXN on every operand.
R161, R167: the special functions complete, with the results of Table 9.2 on its operands; FLGR reads fx, for a
scalar destination its union over the active threads; FLGC clears the flags a's trits name.
What the spec leaves to the model here is as log 9 says. -/
def Obligations.FloatTestResults : Prop :=
  (∀ (s : State) (c : Ctx) (f : FA), Issuing s c →
    (AluFree c f.dst 1 [src f.a, src f.b] f.pred (predOk f.pred && fAll f.ty) accAB →
      let k := fkindA f.ty
      ∃ zn zx : Nat → Nat → Int × Fx,
        FloatResult s c (.fmin f) f.dst f.pred k zn ∧ FloatResult s c (.fmax f) f.dst f.pred k zx ∧
        ∀ p, ∀ j < elems k.width,
          let x := c.fl k c.mod.na f.a p j
          let y := c.fl k c.mod.nb f.b p j
          x.isNan = false → y.isNan = false →
            (if cmpFl x y ≤ 0 then
              zn p j = ((x.toEx.write k).1, Fx.clear) ∧ zx p j = ((y.toEx.write k).1, Fx.clear)
            else zn p j = ((y.toEx.write k).1, Fx.clear) ∧ zx p j = ((x.toEx.write k).1, Fx.clear))) ∧
    (AluFree c f.dst 1 [src f.a] f.pred (predOk f.pred && (fAll f.ty && f.b == 0)) accA →
      let k := fkindA f.ty
      ∃ z : Nat → Nat → Int × Fx, FloatResult s c (.fabs f) f.dst f.pred k z ∧
        ∀ p, ∀ j < elems k.width,
          (z p j).2 = Fx.clear ∧
          (∀ m e, c.fl k c.mod.na f.a p j = .fin m e → (z p j).1 = (roundT k |m| e).1) ∧
          (∀ b r, k = .f27 → c.fl k c.mod.na f.a p j = .nan b r → (z p j).1 = r) ∧
          (∀ a, c.fl k c.mod.na f.a p j = .inf a → (z p j).1 = infWord k false)) ∧
    (Free c false [src f.a, src f.b] (f.ty == 3 && predOk f.pred && qNum f.dst) accAB →
      exec (.fcmp f) s = .next (s.finish c ((c.acting f.pred).foldl (fun (r : Row) p =>
        let x := readFl .f27 (negEl .f27 c.mod.na (rd c f.a p))
        let y := readFl .f27 (negEl .f27 c.mod.nb (rd c f.b p))
        if x.isNan = true ∨ y.isNan = true then (r.setQ f.dst.toNat p .zero).raise p Fx.IV
        else r.setQ f.dst.toNat p (Trit.ofSign (cmpFl x y))) c.r))) ∧
    (AluFree c f.dst 1 [src f.a] f.pred (predOk f.pred && (f.ty == 3 && f.b == 0)) accA →
      ∃ zc zn : Nat → Nat → Int × Fx,
        FloatResult s c (.fcls f) f.dst f.pred .f27 zc ∧ FloatResult s c (.fexn f) f.dst f.pred .f27 zn ∧
        ∀ p,
          let x := c.fl .f27 c.mod.na f.a p 0
          (∀ b r, x = .nan b r → zc p 0 = (if b then -4 else 4, Fx.clear) ∧ zn p 0 = (0, Fx.IV)) ∧
          (∀ a, x = .inf a → zc p 0 = (if a then -3 else 3, Fx.clear) ∧ zn p 0 = (0, Fx.IV)) ∧
          (∀ m e, x = .fin m e → m = 0 →
            ((zc p 0).1 = 0 ∨ (zc p 0).1 = 6) ∧ (e = -384 ↔ (zc p 0).1 = 0) ∧ zn p 0 = (0, Fx.IV)) ∧
          (∀ m e, x = .fin m e → m ≠ 0 →
            (zc p 0).1 = (if 3 ^ 20 < 2 * |m| then 2 else if e = -384 then 1 else 5) * (if m < 0 then -1 else 1) ∧
            (zn p 0).2 = Fx.clear ∧
            (3 : Rat) ^ (zn p 0).1 < 2 * |x.rat| ∧ 2 * |x.rat| < (3 : Rat) ^ ((zn p 0).1 + 1))) ∧
    (AluFree c f.dst 1 [src f.a, src f.b] f.pred (predOk f.pred && fAll f.ty) accA →
      let k := fkindA f.ty
      ∃ z : Nat → Nat → Int × Fx, FloatResult s c (.fscl f) f.dst f.pred k z ∧
        ∀ p, ∀ j < elems k.width,
          let x := c.fl k c.mod.na f.a p j
          (x.isFin = true → Rounded k (x.rat * (3 : Rat) ^ (rd c f.b p)) (z p j)) ∧
          (∀ a, x = .inf a → z p j = (infWord k a, Fx.clear))) ∧
    (AluFree c f.dst 1 [src f.a] f.pred (predOk f.pred && (fAll f.ty && modeOk f.b)) accA →
      let k := fkindA f.ty
      ∃ z : Nat → Nat → Int × Fx, FloatResult s c (.frnd f) f.dst f.pred k z ∧
        ∀ p, ∀ j < elems k.width,
          let x := c.fl k c.mod.na f.a p j
          (∀ a, x = .inf a → z p j = (infWord k a, Fx.clear)) ∧
          (x.isFin = true → ∃ n : Int, (readFl k (z p j).1).isFin = true ∧ (readFl k (z p j).1).rat = n ∧
            (z p j).2 = Fx.cond (decide ((n : Rat) ≠ x.rat)) Fx.NX ∧
            (f.b = 0 → 2 * |(n : Rat) - x.rat| < 1) ∧ (f.b = -1 → n = Int.floor x.rat) ∧
            (f.b = 1 → n = Int.ceil x.rat) ∧ (f.b = 3 → |(n : Rat)| ≤ |x.rat| ∧ |(n : Rat) - x.rat| < 1 ∧ 0 ≤ n * x.rat)))) ∧
  (∀ (s : State) (c : Ctx) (f : FA), Issuing s c →
    (AluFree c f.dst 1 [src f.a] f.pred (predOk f.pred && (f.ty == 3 && f.b == 0)) accA →
      ∃ ze zl zs zc : Nat → Nat → Int × Fx,
        FloatResult s c (.fexp f) f.dst f.pred .f27 ze ∧ FloatResult s c (.flog f) f.dst f.pred .f27 zl ∧
        FloatResult s c (.fsint f) f.dst f.pred .f27 zs ∧ FloatResult s c (.fcost f) f.dst f.pred .f27 zc ∧
        ∀ p,
          let x := c.fl .f27 c.mod.na f.a p 0
          let one := mkFl .f27 0 (3 ^ 20)
          (x = .inf true → ze p 0 = (zeroWord .f27, Fx.clear) ∧ zl p 0 = (nanWord .f27, Fx.IV)) ∧
          (x = .inf false → ze p 0 = (infWord .f27 false, Fx.clear) ∧ zl p 0 = (infWord .f27 false, Fx.clear)) ∧
          (∀ a, x = .inf a → zs p 0 = (nanWord .f27, Fx.IV) ∧ zc p 0 = (nanWord .f27, Fx.IV)) ∧
          (x.isFin = true → x.rat = 0 → ze p 0 = (one, Fx.clear) ∧ zl p 0 = (infWord .f27 true, Fx.DZ) ∧
            zs p 0 = (zeroWord .f27, Fx.clear) ∧ zc p 0 = (one, Fx.clear)) ∧
          (x.isFin = true → x.rat < 0 → zl p 0 = (nanWord .f27, Fx.IV)) ∧
          (x.isFin = true → x.rat = 1 → zl p 0 = (zeroWord .f27, Fx.clear)) ∧
          (x.isFin = true → (∃ n : Int, x.rat = n) → zs p 0 = (zeroWord .f27, Fx.clear) ∧ zc p 0 = (one, Fx.clear)) ∧
          (x.isFin = true → (∃ n : Int, x.rat = n + 1 / 3 ∨ x.rat = n - 1 / 3) →
            zc p 0 = (mkFl .f27 (-1) (-(maxT 21)), Fx.NX))) ∧
    (Free c false [dst f.dst] (predOk f.pred && f.ty == 0 && f.a == 0 && f.b == 0) {} → fxBusy c = false →
      (rowSide c f.dst = false →
        exec (.flgr f) s = .next (s.finish c ((c.acting f.pred).foldl
          (fun (r : Row) p => wrReg c.gen0 c.w r f.dst p (c.r.fxOf p).toInt) c.r))) ∧
      (rowSide c f.dst = true → OneWay c f.pred →
        ∃ u : Fx, exec (.flgr f) s = .next (s.gathered c f.dst f.pred u.toInt) ∧
          ∀ i < 6, u.bit i = c.act.any (fun p => (c.r.fxOf p).bit i))) ∧
    (Free c false [src f.a] (predOk f.pred && f.ty == 0 && f.dst == 0 && f.b == 0) {} → fxBusy c = false →
      ∃ r : Row, exec (.flgc f) s = .next (s.finish c r) ∧ { r with fx := c.r.fx } = c.r ∧
        (∀ p, p ∉ c.acting f.pred → r.fxOf p = c.r.fxOf p) ∧
        ∀ p ∈ c.acting f.pred, ∀ i < 6,
          (r.fxOf p).bit i = ((c.r.fxOf p).bit i && trit (rd c f.a p) i != 1)))

/-- R168, R169, R35 to R41: what CVT writes for each legal pair of kinds: a float of an integer rounded; an integer of a
float by the mode, saturated with IV out of range; a float format of another, the trytes of F9 on their own; F27 of a
binary pattern and a pattern of F27; F27 of an X81 cell and a cell's three words of F27. -/
def Obligations.ConvertResults : Prop :=
  ∀ (s : State) (c : Ctx) (f : FA) (fn : Int) (a : CvtKind), Issuing s c → cvtSrc fn = some a →
    cvtLegal a (cvtDst f.ty) = true →
    AluFree c f.dst (cvtDst f.ty).words
      ({ src f.a with n := a.words } :: (if a = .x81 ∨ cvtDst f.ty = .x81 then [src f.b] else []))
      f.pred (predOk f.pred && cvtB a (cvtDst f.ty) f && groupOk c f.a a.words && groupOk c f.dst (cvtDst f.ty).words)
      { na := match a with | .fl _ => true | _ => false } →
    ∃ v : Nat → List Int × Fx,
      exec (.cvt fn f) s = .next (s.computed c f.dst f.pred v) ∧
      ∀ p, (v p).1.length = (cvtDst f.ty).words ∧
        (∀ k, a = .t27 → cvtDst f.ty = .fl k → ∃ z, v p = ([z.1], z.2) ∧ Rounded k (rd c f.a p : Int) z) ∧
        (∀ k, a = .fl k → cvtDst f.ty = .t27 →
          let x := cvtFl c k f.a p 0
          (x.isNan = true → v p = ([0], Fx.IV)) ∧
          (∀ n, x = .inf n → v p = ([if n then -(maxT 27) else maxT 27], Fx.IV)) ∧
          (x.isFin = true → ∃ n : Int,
            (|n| ≤ maxT 27 → v p = ([n], Fx.cond (decide ((n : Rat) ≠ x.rat)) Fx.NX)) ∧
            (maxT 27 < |n| → v p = ([if n < 0 then -(maxT 27) else maxT 27], Fx.IV)) ∧
            (f.b = 0 → 2 * |(n : Rat) - x.rat| < 1) ∧ (f.b = -1 → n = Int.floor x.rat) ∧
            (f.b = 1 → n = Int.ceil x.rat) ∧
            (f.b = 3 → |(n : Rat)| ≤ |x.rat| ∧ |(n : Rat) - x.rat| < 1 ∧ 0 ≤ n * x.rat))) ∧
        (∀ j k, a = .fl j → cvtDst f.ty = .fl k →
          ∃ (w : Int) (z : Nat → Int × Fx), let n := if j = .f27 ∨ k = .f27 then 1 else 3
            v p = ([w], Fx.unions n (fun i => (z i).2)) ∧ (n = 1 → w = (z 0).1) ∧
            (n = 3 → IsWord 9 w (fun i => (z i).1)) ∧
            ∀ i < n, let x := cvtFl c j f.a p i
              (∀ b r, x = .nan b r → z i = (nanWord k, Fx.cond b Fx.IV)) ∧
              (∀ b, x = .inf b → z i = (infWord k b, Fx.clear)) ∧ (x.isFin = true → Rounded k x.rat (z i))) ∧
        (∀ e r, a = .bin e r → cvtDst f.ty = .fl .f27 →
          ∃ z, v p = ([z.1], z.2) ∧ FromBinary e r (groupValue c f.a a.words p) z) ∧
        (∀ e r, a = .fl .f27 → cvtDst f.ty = .bin e r →
          ∃ n fx, ToBinary e r (cvtFl c .f27 f.a p 0) n fx ∧ (v p).2 = fx ∧
            ((v p).1.getD 0 0) + ((v p).1.getD 1 0) * 3 ^ 27 = n) ∧
        (a = .fl .f27 → cvtDst f.ty = .x81 →
          let x := cvtFl c .f27 f.a p 0
          ∃ u w y : Int, (v p).1 = [u, w, y] ∧
            (x.isFin = false → u = 0 ∧ w = 0 ∧ y = 0 ∧ (v p).2 = Fx.IV) ∧
            (x.isFin = true → ∃ n : Int, 2 * |(n : Rat) - x.rat / (3 : Rat) ^ (rd c f.b p)| < 1 ∧
              u + w * 3 ^ 27 + y * 3 ^ 54 = wrapT 81 n ∧
              (v p).2 = (Fx.cond (decide ((n : Rat) ≠ x.rat / (3 : Rat) ^ (rd c f.b p))) Fx.NX).union
                (Fx.cond (decide (maxT 81 < |n|)) { Fx.clear with of := true }))) ∧
        (a = .x81 → cvtDst f.ty = .fl .f27 →
          ∃ z, v p = ([z.1], z.2) ∧ Rounded .f27 (groupValue c f.a 3 p * (3 : Rat) ^ (rd c f.b p)) z)

/-- R155, R159 to R162, R164 to R166, R168: every floating-point instruction that writes words, and CVT, runs (FCMP, FLGR and FLGC
write none, or flags: FloatTestResults): in a row that issues, with its registers, type, prefixes and
threads legal, exec answers the state in which every acting thread has written one word (CVT: the words of its
destination kind) to the destination. -/
def Obligations.FloatCompletion : Prop :=
  ∀ (s : State) (c : Ctx), Issuing s c →
    let writes := fun (i : Instr) (d pred : Int) (n : Nat) =>
      ∃ v : Nat → List Int × Fx, exec i s = .next (s.computed c d pred v) ∧ ∀ p, (v p).1.length = n
    (∀ f : FA, AluFree c f.dst 1 [src f.a, src f.b] f.pred (predOk f.pred && fAll f.ty) accAB →
      writes (.fadd f) f.dst f.pred 1 ∧ writes (.fsub f) f.dst f.pred 1 ∧ writes (.fmul f) f.dst f.pred 1 ∧
      writes (.fmin f) f.dst f.pred 1 ∧ writes (.fmax f) f.dst f.pred 1) ∧
    (∀ f : FC, AluFree c f.dst 1 [src f.a, src f.b, src f.c] c.mod.pred true { p := true, na := true, nb := true, nc := true } →
      writes (.fma f) f.dst c.mod.pred 1) ∧
    (∀ f : FA, AluFree c f.dst 1 [src f.a, src f.b] f.pred (predOk f.pred && f.ty == 3) accAB →
      writes (.fdiv f) f.dst f.pred 1) ∧
    (∀ f : FA, AluFree c f.dst 1 [src f.a] f.pred (predOk f.pred && (f.ty == 3 && f.b == 0)) accA →
      writes (.fsqrt f) f.dst f.pred 1 ∧ writes (.frcp f) f.dst f.pred 1 ∧ writes (.frsq f) f.dst f.pred 1 ∧
      writes (.fexp f) f.dst f.pred 1 ∧ writes (.flog f) f.dst f.pred 1 ∧ writes (.fsint f) f.dst f.pred 1 ∧
      writes (.fcost f) f.dst f.pred 1 ∧ writes (.fcls f) f.dst f.pred 1 ∧ writes (.fexn f) f.dst f.pred 1) ∧
    (∀ f : FA, AluFree c f.dst 1 [src f.a] f.pred (predOk f.pred && (fAll f.ty && f.b == 0)) accA →
      writes (.fabs f) f.dst f.pred 1) ∧
    (∀ f : FA, AluFree c f.dst 1 [src f.a, src f.b] f.pred (predOk f.pred && fAll f.ty) accA →
      writes (.fscl f) f.dst f.pred 1) ∧
    (∀ f : FA, AluFree c f.dst 1 [src f.a] f.pred (predOk f.pred && (fAll f.ty && modeOk f.b)) accA →
      writes (.frnd f) f.dst f.pred 1) ∧
    ∀ (f : FA) (fn : Int) (a : CvtKind), cvtSrc fn = some a → cvtLegal a (cvtDst f.ty) = true →
      AluFree c f.dst (cvtDst f.ty).words
        ({ src f.a with n := a.words } :: (if a = .x81 ∨ cvtDst f.ty = .x81 then [src f.b] else []))
        f.pred (predOk f.pred && cvtB a (cvtDst f.ty) f && groupOk c f.a a.words && groupOk c f.dst (cvtDst f.ty).words)
        { na := match a with | .fl _ => true | _ => false } →
      writes (.cvt fn f) f.dst f.pred (cvtDst f.ty).words

/-! ### Control transfers, traps raised by programs, clocks and registers of the system (10) -/

/-- R177, R178: the threads whose condition holds go to the target, the others to the next word; CALL gives each that goes
a link in v0 (p0 in generation 0). A uniform-asserted branch on a mixed condition traps UNIF with the count; a target
that is no header traps ILLOP with TRAPPC at the target and TRAPINFO the branch's address.
R179, R180: JMPR and RET send each thread whose condition holds to the address its register a holds, CALLR as well
with a link to d; an address in another slot traps PROT with that address.
R180: a target in a generation whose code is freed leads to the point of the current generation that stands for the
same portable return point; where no map holds it, the trap is ILLOP.
What the spec leaves to the model here is as log 18, 23 say. -/
def Obligations.BranchCallResults : Prop :=
  (∀ (s : State) (c : Ctx) (f : FE), Issuing s c →
    let ts := c.acting f.pred
    let target := c.ia.plus f.off
    let others := c.act.filter (fun t => !ts.contains t)
    let moves : List PcEntry := [⟨target, ts, false, false, 0, 0, 0⟩,
      ⟨c.e.addr.plus ((c.k : Int) + 1), others, false, false, c.e.rem - (c.k + 1), c.e.fa, c.e.fb⟩]
    (Free c true [] (predOk f.pred) {} → (0 ≤ f.off ∨ c.gen0 = false) →
      ((f.unif = 1 → ts = [] ∨ ts.length = c.act.length) → (ts = [] ∨ s.canEnter c.fld target = true) →
        exec (.br f) s = .next (s.issuedMarked c c.r moves (f.unif == -1))) ∧
      (f.unif = 1 → ts ≠ [] → ts.length ≠ c.act.length →
        exec (.br f) s = .next (takeTrap s c ⟨.unif, some (ts.length : Int), none⟩)) ∧
      ((f.unif = 1 → ts.length = c.act.length) → ts ≠ [] → s.canEnter c.fld target = false →
        exec (.br f) s = .next (takeTrap s c ⟨.illop, some (wval c.ia.toWord), some target⟩))) ∧
    (c.gen0 = false → Free c true [dst 0] (predOk f.pred) {} → (f.unif = 1 → ts = [] ∨ ts.length = c.act.length) →
      (ts = [] ∨ s.canEnter c.fld target = true) →
      exec (.call f) s = .next (s.issuedMarked c
        (ts.foldl (fun (r : Row) p => r.setV c.w 0 p (c.e.addr.plus ((c.k : Int) + 1)).toWord) c.r)
        moves (f.unif == -1))) ∧
    (c.gen0 = true → Free c true [dst (-121)] (predOk f.pred) {} → s.atPortableSafePoint c = none →
      (f.unif = 1 → ts = [] ∨ ts.length = c.act.length) → (ts = [] ∨ s.canEnter c.fld target = true) →
      exec (.call f) s = .next (s.issuedMarked c
        (ts.foldl (fun (r : Row) p => r.setP c.w 0 p (c.e.addr.plus ((c.k : Int) + 1)).toWord) c.r)
        moves (f.unif == -1)))) ∧
  (∀ (s : State) (c : Ctx) (f : FA), Issuing s c →
    let at_ := fun (t : Nat) => CodeAddr.ofWord (word (rd c f.a t))
    let held := fun (ts : List Nat) => ∀ t ∈ ts, (at_ t).slot = c.e.addr.slot ∧
      ((at_ t).gen = 0 ∨ (s.gener? c.fld (at_ t).slot (at_ t).gen).isSome = true) ∧ s.canEnter c.fld (at_ t) = true
    let moves := fun (ts : List Nat) =>
      ts.map (fun t => (⟨at_ t, [t], false, false, 0, 0, 0⟩ : PcEntry)) ++
        [⟨c.e.addr.plus ((c.k : Int) + 1), c.act.filter (fun t => !ts.contains t), false, false,
          c.e.rem - (c.k + 1), c.e.fa, c.e.fb⟩]
    let link := wval (c.e.addr.plus ((c.k : Int) + 1)).toWord
    (f.dst = 0 → Free c true [src f.a] (predOk f.pred && f.b == 0 && f.ty == 0) {} → ∀ i ∈ [Instr.jmpr f, .ret f],
      (held (c.acting f.pred) → exec i s = .next (s.issued c c.r (moves (c.acting f.pred)))) ∧
      (∀ t ∈ c.acting f.pred, (at_ t).slot ≠ c.e.addr.slot → (∀ u ∈ c.acting f.pred, u < t → (at_ u).slot = c.e.addr.slot) →
        c.act.Pairwise (· < ·) → exec i s = .next (takeTrap s c ⟨.prot, some (wval (at_ t).toWord), none⟩))) ∧
    (Free c true [src f.a, dst f.dst] (predOk f.pred && f.b == 0 && f.ty == 0) {} → s.atPortableSafePoint c = none →
      (rowSide c f.dst = false → held (c.acting f.pred) →
        exec (.callr f) s = .next (s.issued c
          ((c.acting f.pred).foldl (fun (r : Row) p => wrReg c.gen0 c.w r f.dst p link) c.r) (moves (c.acting f.pred)))) ∧
      (rowSide c f.dst = true → rowSrcs c [f.a] = true → (c.acting f.pred).length = c.act.length → c.act ≠ [] →
        held c.act →
        exec (.callr f) s = .next (s.issued c (wrReg false c.w c.r f.dst 0 link) (moves c.act))))) ∧
  (∀ (s : State) (c : Ctx) (f : FA) (t : Nat), Issuing s c → c.act = [t] → f.pred = 0 → f.dst = 0 →
    Free c true [src f.a] (f.b == 0 && f.ty == 0) {} →
    let a := CodeAddr.ofWord (word (rd c f.a t))
    a.slot = c.e.addr.slot → a.gen ≠ 0 → s.gener? c.fld a.slot a.gen = none →
    (∀ b, s.remap c.fld a = some b → s.canEnter c.fld b = true →
      ∃ moves, exec (.ret f) s = .next (s.issued c c.r (⟨b, [t], false, false, 0, 0, 0⟩ :: moves)) ∧
        ∀ m ∈ moves, m.threads = []) ∧
    (s.remap c.fld a = none → exec (.ret f) s = .next (takeTrap s c Trap.illop)))

/-- R182, 07 R117: YIELD marks the entry that holds its group after the issue, then the next head group is chosen; it has no
other effect.
R181, R183, R184: EXIT removes the threads whose condition holds; the last of a row ends it once nothing of it is
outstanding. TRAP and BKPT take the cause TRAPI with the next word as resume address; RTE returns there in the clause
state saved (in generation 0 there is none, 06 R110), to TRAPPC if that was written, and outside a handler traps ILLOP; a level barrier of another place is waited
for no more (20 R375).
What the spec leaves to the model here is as log 18 says. -/
def Obligations.YieldExitTrapResults : Prop :=
  (∀ (s : State) (c : Ctx) (f : FA), Issuing s c →
    Free c false [] (f.dst == 0 && f.a == 0 && f.b == 0 && f.pred == 0 && f.ty == 0) {} →
    exec (.yield f) s = .next ((s.finish c c.r).modRow c.ref (fun r => Row.choose
      { r with pct := r.pct.map (fun e =>
          if e.threads.any (fun t => c.act.contains t) then { e with mark := true } else e) }))) ∧
  (∀ (s : State) (c : Ctx), Issuing s c →
    (∀ f : FA, Free c true [] (predOk f.pred && f.dst == 0 && f.a == 0 && f.b == 0 && f.ty == 0) {} →
      c.r.handler.active = false →
      let rest := c.act.filter (fun t => !(c.acting f.pred).contains t)
      let alone := c.r.pct.filter (fun e => e.addr != c.e.addr) = []
      (rest ≠ [] ∨ ¬alone → exec (.exit f) s = .next (s.issued c c.r
        [⟨c.e.addr.plus ((c.k : Int) + 1), rest, false, false, c.e.rem - (c.k + 1), c.e.fa, c.e.fb⟩])) ∧
      (rest = [] → alone → s.rowIdle c.core c.ref c.r = true → c.r.fails = [] → c.r.escDue = [] → c.r.escLost = [] →
        exec (.exit f) s = .next
          (((s.issued c { c.r with ended := true, watch := Watch.off, runs := [] } []).modCore c.core
            (fun k => { k with escq := k.escq.filter (fun e => e.who != c.ref) })).retireOf c.ref)) ∧
      (rest = [] → alone → s.rowIdle c.core c.ref c.r = false → exec (.exit f) s = .next (s.hold c 12))) ∧
    (∀ f : FB, Free c true [] (f.dst == 0 && f.a == 0 && f.ty == 0) { imm := true, p := true } →
      (c.acting c.mod.pred).length = c.act.length →
      (0 ≤ c.g.lrec.hndl → c.r.handler.active = false →
        exec (.trap f) s = .next (s.issued c
          { c.r with ahead := none, handler :=
              { active := true, members := c.act, pc := c.e.addr.toWord, pcWritten := false, cause := 10, bk := false
                info := word (c.immVal f.imm), rem := c.e.rem - (c.k + 1), fa := c.e.fa, fb := c.e.fb, skip := c.k + 1 } }
          [⟨s.funcAddr c c.g.lrec.hndl, c.act, false, false, 0, 0, 0⟩]))) ∧
    (∀ f : FA, Free c false [] (f.dst == 0 && f.a == 0 && f.b == 0 && f.ty == 0 && predOk f.pred) {} →
      ((c.acting f.pred).length = c.act.length → 0 ≤ c.g.lrec.hndl → c.r.handler.active = false →
        exec (.bkpt f) s = .next (s.issued c
          { c.r with ahead := none, handler :=
              { active := true, members := c.act, pc := c.e.addr.toWord, pcWritten := false, cause := 10, bk := true
                info := 0, rem := c.e.rem - (c.k + 1), fa := c.e.fa, fb := c.e.fb, skip := c.k + 1 } }
          [⟨s.funcAddr c c.g.lrec.hndl, c.act, false, false, 0, 0, 0⟩])) ∧
      (¬OneWay c f.pred →
        exec (.bkpt f) s = .next (takeTrap s c ⟨.unif, some ((c.acting f.pred).length : Int), none⟩))) ∧
    (∀ f : FA, Free c true [] (f.dst == 0 && f.a == 0 && f.b == 0 && f.pred == 0 && f.ty == 0) {} →
      let h := c.r.handler
      let a := if h.pcWritten then CodeAddr.ofWord h.pc else (CodeAddr.ofWord h.pc).plus h.skip
      (h.active = true → (∀ t ∈ h.members, t ∈ c.act) → (h.pcWritten = false ∨ s.canEnter c.fld a = true) →
        exec (.rte f) s = .next (s.issued c
          { c.r with handler := Handler.off, ahead := none, levels := c.r.levels.filter (fun v => v.pos == a) }
          [if a.gen = 0 then ⟨a, c.act, false, false, 0, 0, 0⟩ else ⟨a, c.act, false, false, h.rem, h.fa, h.fb⟩])) ∧
      (h.active = false → exec (.rte f) s = .next (takeTrap s c Trap.illop)) ∧
      (h.active = true → (∃ t ∈ h.members, t ∉ c.act) →
        exec (.rte f) s = .next (takeTrap s c ⟨.unif, some (c.act.length : Int), none⟩))))

/-- R185 to R187: WATCH arms or disarms the row's watch, wakes the groups whose trigger has fired, traps DATA where no route reaches
the line (14 R250), and leaves no copy of the
line in the core's L1 and its die's RDC, so that it is read from its home; SLEEP goes on at once with −1 or +1, or parks its
group until the trigger or its timeout, which the device steps SLEEP_WAKE and SLEEP_TIMEOUT deliver; TIME gives the two words
of the die's copy of the nanosecond counter, which is less than 12 ns off (19 R357; log 104), and CYC the cycle count of the
die.
R186: when the watch has triggered, SLEEP_WAKE lets every sleeping group of the row go on with status +1 and clears
the trigger; SLEEP_TIMEOUT lets those whose time has come go on with status 0.
What the spec leaves to the model here is as log 3, 104, 121 say. -/
def Obligations.SleepResults : Prop :=
  (∀ (s : State) (c : Ctx) (f : FA), Issuing s c → OneWay c f.pred → uniform c [f.a] = true →
    let on := (c.acting f.pred).length = c.act.length
    (Free c false [src f.a] (predOk f.pred && f.ty == 0 && f.dst == 0 && f.b == 0 && rowSrcs c [f.a]) {} →
      (on → rdRow c f.a = 0 → exec (.watch f) s =
        .next (s.finish c { c.r.wakeFired (s.age c.fld) c.w with watch := Watch.off })) ∧
      (on → rdRow c f.a % 27 ≠ 0 →
        exec (.watch f) s = .next (takeTrap s c ⟨.align, some (rdRow c f.a), none⟩)) ∧
      (∀ l t, on → rdRow c f.a ≠ 0 → rdRow c f.a % 27 = 0 → checkAddrs s c 27 [rdRow c f.a] = .ok ([l], t) →
        let u := if (t.hostEntry l).st = 2 then t.snoop true l else t
        (t.cutOff c.die l = false →
          exec (.watch f) s = .next (((u.dropL1 c.core [l]).dropRdc c.die [l]).finish c
            { c.r.wakeFired (s.age c.fld) c.w with watch := ⟨true, false, word (rdRow c f.a), l⟩ })) ∧
        (t.cutOff c.die l = true → exec (.watch f) s = .next (dataTrap t c (rdRow c f.a) l)))) ∧
    (Free c false [dst f.dst, src f.a] (predOk f.pred && f.ty == 0 && f.b == 0 && scaDst c f.dst && rowSrcs c [f.a]) {} →
      on →
      (c.r.watch.armed = false ∨ rdRow c f.a < 0 →
        exec (.sleep f) s = .next (s.finish c (wrRow c.gen0 c.w c.r c.act f.dst (-1)))) ∧
      (c.r.watch.armed = true → 0 ≤ rdRow c f.a → c.r.watch.trig = true →
        exec (.sleep f) s = .next (s.finish c
          (wrRow c.gen0 c.w { c.r.wakeFired (s.age c.fld) c.w with watch := { c.r.watch with trig := false } }
            c.act f.dst 1))) ∧
      (c.r.watch.armed = true → 0 ≤ rdRow c f.a → c.r.watch.trig = false → s.parkedOn c.core < 243 →
        exec (.sleep f) s = .next (s.issued c
          { c.r with
            sleeps := c.r.sleeps ++ [⟨c.act, c.e.addr, c.k,
              if rdRow c f.a = 0 then none else some (s.now + (rdRow c f.a).toNat), f.dst, c.gen0⟩]
            busy := c.r.busy ++ [f.dst] }
          [{ c.e with park := true, mark := false }]))) ∧
    (f.a = 0 → Free c false [⟨f.dst, true, 2⟩] (predOk f.pred && f.ty == 0 && f.a == 0 && f.b == 0 && scaDst c f.dst) {} →
      on → ∃ lo hi : Int, (s.timeOf c.die : Int) = lo + hi * 3 ^ 27 ∧ |lo| ≤ maxT 27 ∧
        s.now ≤ s.timeOf c.die ∧ s.timeOf c.die < s.now + 12 ∧
        exec (.time f) s = .next (s.finish c (wrRow c.gen0 c.w (wrRow c.gen0 c.w c.r c.act f.dst lo) c.act
          (succReg c.gen0 f.dst 1) hi))) ∧
    (f.a = 0 → Free c false [dst f.dst] (predOk f.pred && f.ty == 0 && f.a == 0 && f.b == 0 && scaDst c f.dst) {} →
      exec (.cyc f) s = .next (s.gathered c f.dst f.pred (wrapT 27 (s.cycOf c.core))))) ∧
  (∀ (s : State) (r : RowRef) (x : Row), s.row? r = some x →
    (x.watch.trig = true → x.sleeps ≠ [] →
      ∃ t y, exec (.sleepWake r) s = .next t ∧ t.row? r = some y ∧ y.sleeps = [] ∧ y.watch.trig = false ∧
        y.watch.armed = x.watch.armed ∧
        ∀ z ∈ x.sleeps, x.sleeps = [z] → z.gen0 = false → isSca z.dst = true → (-z.dst - 1).toNat < x.sregs.length →
          y.sreg (-z.dst - 1).toNat = 1) ∧
    (∀ z t0, x.watch.trig = false → x.sleeps = [z] → z.until_ = some t0 → t0 ≤ s.now →
      ∃ t y, exec (.sleepTimeout r) s = .next t ∧ t.row? r = some y ∧ y.sleeps = [] ∧ y.watch = x.watch ∧
        (z.gen0 = false → isSca z.dst = true → (-z.dst - 1).toNat < x.sregs.length →
          y.sreg (-z.dst - 1).toNat = 0)))

/-- R190 with Table 10.2: CSRR gives the value of the register, CSRW writes TRAPPC in a handler, ESCPOL, and clears the
flags of FX written 0, CSRX does both with the old value read first; a type other than 0 traps ILLMOD, then a number not
listed ILLOP (06 R92), then a register that cannot be written ILLMOD.
What the spec leaves to the model here is as log 18, 33, 125 say. -/
def Obligations.CsrResults : Prop :=
  ∀ (s : State) (c : Ctx) (f : FB), Issuing s c →
    let h := c.r.handler
    let b := fun (x : Bool) => if x then (1 : Int) else 0
    let value := fun (n : Int) =>
      if n = 2 then (if h.active then wval h.pc else 0) else if n = 3 then h.cause + 81 * b h.bk
      else if n = 4 then wval h.info else if n = 5 then (h.rem : Int) + 27 * h.fa + 729 * h.fb
      else if n = 6 then b c.r.watch.armed + 3 * b c.r.watch.trig else if n = 7 then wval c.r.escpol
      else if n = 9 then s.seedstat else if n = 10 then s.bscap c.core else s.qavl c.die
    (f.imm ∈ ([2, 3, 4, 5, 6, 7, 9, 10, 11] : List Int) → OneWay c c.mod.pred →
      Free c false [dst f.dst] (f.ty == 0 && f.a == 0 && scaDst c f.dst) { p := true } →
      exec (.csrr f) s = .next (s.gathered c f.dst c.mod.pred (value f.imm))) ∧
    (f.imm = 1 → fxBusy c = false → Free c false [dst f.dst] (f.ty == 0 && f.a == 0 && vecDst c f.dst) { p := true } →
      exec (.csrr f) s = .next (s.finish c ((c.acting c.mod.pred).foldl
        (fun (r : Row) p => wrReg c.gen0 c.w r f.dst p (c.r.fxOf p).toInt) c.r))) ∧
    ((f.imm = 7 ∨ (f.imm = 2 ∧ h.active = true)) → (c.acting c.mod.pred).length = c.act.length →
      uniform c [f.a] = true →
      let put := fun (r : Row) => if f.imm = 7 then { r with escpol := word (rdRow c f.a) }
        else { r with handler := { r.handler with pc := word (rdRow c f.a), pcWritten := true, rem := 0 } }
      (Free c false [src f.a] (f.ty == 0 && f.dst == 0 && rowSrcs c [f.a]) { p := true } →
        exec (.csrw f) s = .next (s.finish c (put c.r))) ∧
      (Free c false [dst f.dst, src f.a] (f.ty == 0 && scaDst c f.dst && rowSrcs c [f.a]) { p := true } →
        exec (.csrx f) s = .next (s.finish c (put (wrRow c.gen0 c.w c.r c.act f.dst (value f.imm)))))) ∧
    (f.imm = 1 → (∀ p ∈ c.acting c.mod.pred, field (rd c f.a p) 6 21 = 0) →
      Free c false [src f.a] (f.ty == 0 && f.dst == 0) { p := true } →
      ∃ r : Row, exec (.csrw f) s = .next (s.finish c r) ∧ { r with fx := c.r.fx } = c.r ∧
        (∀ p, p ∉ c.acting c.mod.pred → r.fxOf p = c.r.fxOf p) ∧
        ∀ p ∈ c.acting c.mod.pred, ∀ i < 6,
          (r.fxOf p).bit i = ((c.r.fxOf p).bit i && trit (rd c f.a p) i != 0)) ∧
    (csrListed f.imm = false →
      (Legal c false [dst f.dst] (f.ty == 0 && f.a == 0) { p := true } → exec (.csrr f) s = .next (takeTrap s c Trap.illop)) ∧
      (Legal c false [src f.a] (f.ty == 0 && f.dst == 0) { p := true } → exec (.csrw f) s = .next (takeTrap s c Trap.illop)) ∧
      (Legal c false [dst f.dst, src f.a] (f.ty == 0) { p := true } →
        exec (.csrx f) s = .next (takeTrap s c Trap.illop))) ∧
    (Named c false [dst f.dst] → f.ty ≠ 0 → exec (.csrr f) s = .next (takeTrap s c Trap.illmod)) ∧
    (f.imm ∈ ([3, 4, 5, 6, 9, 10, 11] : List Int) → Named c false [src f.a] →
      exec (.csrw f) s = .next (takeTrap s c Trap.illmod))

/-- R189, R72, R188: LAUNCH counts on flag B, takes its release's place behind the row's stores (19 R345) and leaves for the queue's home, where its status becomes −1, 0 or +1 and,
for +1, the record with STAT 0 stands in the slot of TAIL and TAIL is one more; EVWAIT writes its word once that is at
least the target, and holds the row before, its line not staying granted to the host (15 R259).
R72, R188: the queue's home answers a LAUNCH once its release waits are met and its lines are ready, as a release of
.pkg scope (19 R357; log 104); a row that EVWAIT holds reads its word again.
What the spec leaves to the model here is as log 77, 104 say. -/
def Obligations.LaunchResults : Prop :=
  (∀ (s : State) (c : Ctx), Issuing s c →
    (∀ (f : FF) (ls : List Loc) (t : State),
      Free c false [dst f.x, src f.y, src f.z] (f.slot == 0 && f.ctl == 0 && scaDst c f.x && rowSrcs c [f.y, f.z])
        { p := true } →
      flagFull c.r c.e.fb = false → uniform c [f.y, f.z] = true → (c.acting c.mod.pred).length = c.act.length →
      (rdRow c f.z % 27 = 0 → checkAddrs s c 27 [rdRow c f.z, wrapT 27 (rdRow c f.z + 27)] = .ok (ls, t) →
        exec (.launch f) s = .next (t.finish c
          ((({ c.r with fifo := c.r.fifo ++ [markEntry s c 4], launches := c.r.launches ++
              [(⟨rdRow c f.y, word (rdRow c f.z), f.x, c.e.fb, c.gen0, c.act, s.steps⟩ : LaunchReq)] } : Row).owe [f.x]).flagUp c.e.fb))) ∧
      (rdRow c f.z % 27 ≠ 0 → exec (.launch f) s = .next (takeTrap s c ⟨.align, some (rdRow c f.z), none⟩))) ∧
    (∀ (f : FA) (l : Loc) (t : State),
      Free c false [dst f.dst, src f.a, src f.b] (predOk f.pred && f.ty == 0 && scaDst c f.dst && rowSrcs c [f.a, f.b])
        { scope := true } →
      uniform c [f.a, f.b] = true → (c.acting f.pred).length = c.act.length →
      (rdRow c f.a % 3 ≠ 0 → exec (.evwait f) s = .next (takeTrap s c ⟨.align, some (rdRow c f.a), none⟩)) ∧
      (rdRow c f.a % 3 = 0 → checkAddrs s c 3 [rdRow c f.a] = .ok ([l], t) → t.badLine l = false →
        t.cutOff c.die l = false →
        (c.r.loads ≠ [] → exec (.evwait f) s = .next (t.hold c 9)) ∧
        (c.r.loads = [] → c.r.fifo = [] → c.r.rels = [] → (t.core c.core).order = [] →
          t.windowRun l 3 false = true → t.snoopFirst false [lineOf l] = none → l.a % 27 ≤ 24 →
          (wval (t.wordAt l) < rdRow c f.b → exec (.evwait f) s = .next (t.waitLine c (lineOf l))) ∧
          (rdRow c f.b ≤ wval (t.wordAt l) →
            exec (.evwait f) s = .next
              ((((t.l2Request (lineOf l) (c.core / 4) 0).refreshCopies c.core (lineOf l)).doAcquire c.core
                (if c.mod.scope = 0 then 6 else c.mod.scope)).finish c
                (wrRow c.gen0 c.w c.r c.act f.dst (wval (t.wordAt l))))))))) ∧
  ((∀ (s : State) (r : RowRef) (g : Gang) (x : Row) (q : LaunchReq) (rest : List LaunchReq),
    s.gang? r.gid = some g → s.row? r = some x → x.launches = q :: rest → s.releaseMetAt r q.stamp = true →
    let y := s.queue g.fld q.q.toNat
    let answer := fun (u : State) (v : Int) => Host.Outcome.next (u.modRow r (fun x =>
      ((wrRow q.gen0 g.lrec.width { x with launches := rest } q.group q.dst v).paid [q.dst]).flagDown q.flag))
    let u := s.flight 4
    (q.q < 0 ∨ 8 < q.q → exec (.launchAtQueueHome r) s = answer u (-1)) ∧
    (∀ tail head, 0 ≤ q.q → q.q ≤ 8 → s.launchAwait g.fld r q = none → s.fieldWord g.fld (wval y.base) = some tail →
      s.fieldWord g.fld (wrapT 27 (wval y.base + 3)) = some head →
      (y.st ≠ 1 ∨ y.mode ≠ 1 → exec (.launchAtQueueHome r) s = answer u (-1)) ∧
      (y.st = 1 → y.mode = 1 → (y.cap : Int) ≤ wrapT 27 (wval tail - wval head) →
        exec (.launchAtQueueHome r) s = answer u 0) ∧
      (∀ ws, y.st = 1 → y.mode = 1 → wrapT 27 (wval tail - wval head) < (y.cap : Int) →
        s.fieldWords g.fld (wval q.rec_) 18 = some ws →
        let va := wrapT 27 (wval y.base + 27 * (1 + 2 * (wval tail % (y.cap : Int))))
        s.canWrite g.fld va = true → s.canWrite g.fld (wrapT 27 (va + 27)) = true →
        s.canWrite g.fld (wval y.base) = true →
        exec (.launchAtQueueHome r) s =
          answer ((u.fieldPuts g.fld va (ws.set 8 0)).fieldPut g.fld (wval y.base) (word (wval tail + 1))) 1))) ∧
  (∀ (s : State) (r : RowRef) (c : Ctx) (f : FA) (w : Word), s.ctxOf r = some c → c.r.wait.map (·.kind) = some 9 →
    s.codeWord c.fld c.ia = some w → decode w = .ok (.evwait f) →
    exec (.evwaitReread r) s = exec (.evwait f) { s with cur := some r } ∧
    ∃ t, exec (.evwaitReread r) s = .next t))

/-! ### Memory (11, 12, 19) -/

/-- R198 to R201, R196: a global load takes the effective address base + offset × width of each acting thread, traps ALIGN
at the lowest that is not aligned, and otherwise is outstanding: it counts on flag A and its registers are owed. A row
whose loads translate goes on at once.
R198 to R201: a global store traps ALIGN at the lowest acting thread that is not aligned; otherwise it stands in the
row's FIFO with each thread's address and data and counts on flag B.
What the spec leaves to the model here is as log 32 says. -/
def Obligations.GlobalIssueResults : Prop :=
  (∀ (s : State) (c : Ctx) (f : FD) (row : Bool) (ts : List Nat), Issuing s c →
    Free c false [⟨f.data, true, widthRegs f.width⟩, src f.base]
      (predOk f.pred && decide (-1 ≤ f.width ∧ f.width ≤ 3) && ordScopeOk c &&
        (if row then scaDst c f.data && rowSrcs c [f.base] else vecDst c f.data))
      { cache := true, scope := true, ord := [1] } →
    flagFull c.r c.e.fa = false → (row = true → uniform c [f.base] = true) → accessThreads c row f.pred = .ok ts →
    let i := if row then Instr.glds f else .gld f
    let ea := fun (t : Nat) => wrapT 27 (rd c f.base t +
      f.off * (if f.width = -1 then 1 else if f.width = 2 then 9 else if f.width = 3 then 27 else 3))
    let unit : Int := if f.width = -1 then 1 else if f.width = 2 then 9 else if f.width = 3 then 27 else 3
    (ts = [] → exec i s = .next (s.finish c c.r)) ∧
    (∀ t ∈ ts, ea t % unit ≠ 0 → (∀ u ∈ ts, u < t → ea u % unit = 0) → ts.Pairwise (· < ·) →
      exec i s = .next (takeTrap s c ⟨.align, some (ea t), none⟩)) ∧
    (∀ xs u, ts ≠ [] → (∀ t ∈ ts, ea t % unit = 0) →
      check3 s c Need.load f.width false (ts.map (fun t => (t, ea t))) = .lanes xs u → (∀ x ∈ xs, x.faulted = false) →
      let op : MemOp :=
        { kind := .load, width := f.width, lanes := xs.map (fun x => laneOf f.width x []), dst := f.data, flag := c.e.fa
          perRow := row, rel := if s.arOpen c.ref (s.steps + 1) then 1 else 0, acq := if c.mod.ord = 0 then 0 else c.mod.scope
          cache := c.mod.cache, sat := false, t9 := false, gen0 := c.gen0, priv := false, who := c.ref, group := c.act
          stamp := s.steps }
      exec i s = .next (u.finish c ((({ c.r with loads := c.r.loads ++ [op] }).owe
        ((List.range (widthRegs f.width)).map (fun k => succReg c.gen0 f.data k))).flagUp c.e.fa)))) ∧
  (∀ (s : State) (c : Ctx) (f : FD) (ts : List Nat), Issuing s c →
    Free c false [⟨f.data, false, widthRegs f.width⟩, src f.base]
      (predOk f.pred && decide (-1 ≤ f.width ∧ f.width ≤ 3) && ordScopeOk c && dataOk c f)
      { cache := true, scope := true, ord := [-1] } →
    flagFull c.r c.e.fb = false → c.r.fifoFull = false →
    accessThreads c (!c.gen0 && isRowKind f.data && isRowKind f.base) f.pred = .ok ts →
    let unit : Int := if f.width = -1 then 1 else if f.width = 2 then 9 else if f.width = 3 then 27 else 3
    let ea := fun (t : Nat) => wrapT 27 (rd c f.base t + f.off * unit)
    (ts = [] → exec (.gst f) s = .next (s.finish c c.r)) ∧
    (∀ t ∈ ts, ea t % unit ≠ 0 → (∀ u ∈ ts, u < t → ea u % unit = 0) → ts.Pairwise (· < ·) →
      exec (.gst f) s = .next (takeTrap s c ⟨.align, some (ea t), none⟩)) ∧
    (∀ xs u, ts ≠ [] → (∀ t ∈ ts, ea t % unit = 0) →
      check3 s c Need.store f.width (f.width == 3) (ts.map (fun t => (t, ea t))) = .lanes xs u →
      (∀ x ∈ xs, x.faulted = false) →
      ∃ op : MemOp, exec (.gst f) s = .next (u.finish c (({ c.r with fifo := c.r.fifo ++ [op] }).flagUp c.e.fb)) ∧
        op.kind = .store ∧ op.width = f.width ∧ op.who = c.ref ∧ op.flag = c.e.fb ∧
        op.rel = (if c.mod.ord = 0 then 0 else c.mod.scope) ∧ op.lanes.length = xs.length ∧
        ∀ x ∈ xs, ∃ ln ∈ op.lanes, ln.thread = x.thread ∧ ln.va = word x.ea ∧ ln.locs = x.locs f.width ∧
          (x.thread ∈ ts → ts.Nodup → ln.data =
            (List.range (widthRegs f.width)).map (fun k => word (rd c (succReg c.gen0 f.data k) x.thread)))))

/-- R202: PRF completes and changes no register; unless it makes room in L2 or the L1 of lines that have to be written home
first, or reads a line from HBM, it changes no memory.
R212, R213, R199: LDP and STP reach word ea ÷ 3 of the thread's own stack and trap PROT at the lowest acting thread
outside it; LDC reads the gang's copy of the constants in the same way, at once, and leaves its lines in the core's L1 (13
R232).
What the spec leaves to the model here is as log 24 says. -/
def Obligations.PrefetchPrivateResults : Prop :=
  (∀ (s : State) (c : Ctx) (f : FD), Issuing s c →
    Free c false [src f.base] (predOk f.pred && f.width == 3 && f.data == 0) { cache := true } →
    ∃ t : State, exec (.prf f) s = .next (t.finish c c.r) ∧
      (∀ r x, s.row? r = some x → ∃ y, t.row? r = some y ∧ { y with watch := x.watch } = x) ∧
      (s.tags = [] → s.tagHits = [] → (∀ x ∈ s.l2, x.dirty = false) → s.corePartials c.core = [] →
        t.gangs = s.gangs ∧ ∀ l, t.tryteAt l = s.tryteAt l)) ∧
  (∀ (s : State) (c : Ctx) (f : FD), Issuing s c →
    let n := widthRegs f.width
    let unit : Int := if f.width = -1 then 1 else if f.width = 2 then 9 else if f.width = 3 then 27 else 3
    let ea := fun (t : Nat) => wrapT 27 (rd c f.base t + f.off * unit)
    let span : Int := if f.width = -1 then 1 else 3 * (n : Int)
    let ts := c.acting f.pred
    let loc := fun (t : Nat) (j : Nat) =>
      let o := 3 * c.g.lrec.priv * (c.ref.row * c.w + t) + (ea t + 3 * (j : Int)).toNat
      (⟨.hbm, c.b.privLines.getD (o / 27) 0 + o % 27⟩ : Loc)
    (Free c false [⟨f.data, true, n⟩, src f.base] (predOk f.pred && widthOk f.width && vecDst c f.data) { cache := true } →
      flagFull c.r c.e.fa = false → (∀ t ∈ ts, ea t % unit = 0) → ts ≠ [] →
      ((∀ t ∈ ts, 0 ≤ ea t ∧ ea t + span ≤ 3 * (c.g.lrec.priv : Int)) →
        (∀ t ∈ ts, ∀ j < n, s.badLine (loc t j) = false ∧ s.cutOff c.die (loc t j) = false) →
        ∃ op : MemOp, exec (.ldp f) s = .next (s.finish c ((({ c.r with loads := c.r.loads ++ [op] }).owe
            ((List.range n).map (fun k => succReg c.gen0 f.data k))).flagUp c.e.fa)) ∧
          op.kind = .load ∧ op.width = f.width ∧ op.dst = f.data ∧ op.flag = c.e.fa ∧
          op.lanes.map (fun ln => (ln.thread, ln.locs)) = ts.map (fun t => (t, (List.range n).map (loc t)))) ∧
      (∀ t ∈ ts, ¬(0 ≤ ea t ∧ ea t + span ≤ 3 * (c.g.lrec.priv : Int)) →
        (∀ u ∈ ts, u < t → 0 ≤ ea u ∧ ea u + span ≤ 3 * (c.g.lrec.priv : Int)) → ts.Pairwise (· < ·) →
        exec (.ldp f) s = .next (takeTrap s c ⟨.prot, some (ea t), none⟩))) ∧
    (Free c false [⟨f.data, false, n⟩, src f.base] (predOk f.pred && widthOk f.width && dataOk c f) { cache := true } →
      flagFull c.r c.e.fb = false → c.r.fifoFull = false → (∀ t ∈ ts, ea t % unit = 0) → ts ≠ [] →
      ((∀ t ∈ ts, 0 ≤ ea t ∧ ea t + span ≤ 3 * (c.g.lrec.priv : Int)) →
        (∀ t ∈ ts, ∀ j < n, (f.width = 3 ∨ s.badLine (loc t j) = false) ∧ s.badWhole (loc t j) = false ∧
          s.cutOff c.die (loc t j) = false) →
        ∃ op : MemOp, exec (.stp f) s = .next (s.finish c (({ c.r with fifo := c.r.fifo ++ [op] }).flagUp c.e.fb)) ∧
          op.kind = .store ∧ op.width = f.width ∧ op.flag = c.e.fb ∧
          op.lanes.map (fun ln => (ln.thread, ln.locs, ln.data)) = ts.map (fun t => (t, (List.range n).map (loc t),
            (List.range n).map (fun k => word (rd c (succReg c.gen0 f.data k) t))))) ∧
      (∀ t ∈ ts, ¬(0 ≤ ea t ∧ ea t + span ≤ 3 * (c.g.lrec.priv : Int)) →
        (∀ u ∈ ts, u < t → 0 ≤ ea u ∧ ea u + span ≤ 3 * (c.g.lrec.priv : Int)) → ts.Pairwise (· < ·) →
        exec (.stp f) s = .next (takeTrap s c ⟨.prot, some (ea t), none⟩))) ∧
    (∀ us, Free c false [⟨f.data, true, n⟩, src f.base] (predOk f.pred && widthOk f.width && sideOk c f.data [f.base]) {} →
      flagFull c.r c.e.fa = false → accessThreads c (rowSide c f.data) f.pred = .ok us → (∀ t ∈ us, ea t % unit = 0) →
      (∀ t ∈ us, ¬(0 ≤ ea t ∧ ea t + span ≤ 3 * (c.g.lrec.clen : Int)) →
        (∀ u ∈ us, u < t → 0 ≤ ea u ∧ ea u + span ≤ 3 * (c.g.lrec.clen : Int)) → us.Pairwise (· < ·) →
        exec (.ldc f) s = .next (takeTrap s c ⟨.prot, some (ea t), none⟩)) ∧
      ((∀ t ∈ us, 0 ≤ ea t ∧ ea t + span ≤ 3 * (c.g.lrec.clen : Int)) →
      ∃ u : State, (s.corePartials c.core = [] → { u with cores := s.cores } = s) ∧
      exec (.ldc f) s = .next (u.finish c (us.foldl (fun (r : Row) t =>
        wrRegs (if rowSide c f.data then false else c.gen0) c.w r f.data (if rowSide c f.data then 0 else t)
          ((List.range n).map (fun j =>
            let x := wval (c.g.consts.getD ((ea t).toNat / 3 + j) 0)
            if f.width = -1 then field x (9 * ((ea t).toNat % 3)) 9 else x))) c.r)))))

/-- R203 to R206: what a scratch address names. Its own block's word below 3^26 ÷ 2; a block of the gang by the trits of the gang
window, D = + in a gang with a partner die alone, D = − never, K below BLKS, the offset below 3 × SCR; a word of the row's
register block, or a tryte of it, below 0; and nothing beyond their bounds.
R203 to R207: LDS gives its registers the words its addresses name, STS puts its data there and leaves every state
trit; both act at once, after the row's earlier accesses that they may not overtake (19 R343; log 103); a load of a word that no code
repairs, and a store of a tryte into one, trap DATA (13 R240; log 124). A word of the block a row stands in reads back what one thread stored, and every other word of
scratch and all memory is as before.
R208 to R210: a synchronising instruction of one thread on one word. LDS.WF gives a full word, LDS.WFE gives it and
leaves it empty, STS.WE fills an empty one, or, where its release has still to wait, leaves that to be done while its threads
go on (19 R345), STS.ST sets its state alone; one that finds its word in the other state parks its group.
R209: when the word a parked LDS.WF waits on is full, and no earlier waiter stands before it, WAIT_FULL_RETRY gives
the thread its word and lets its group go on.
What the spec leaves to the model here is as log 24, 25, 27, 37, 103, 124 say. -/
def Obligations.ScratchSpaceResults : Prop :=
  (∀ (c : Ctx) (a : Int), |a| ≤ maxT 27 →
    (0 ≤ a → a ≤ maxT 26 → a < 3 * (c.g.lrec.scr : Int) →
      scrWord c a = some (.blk c.ref.blk (a / 3).toNat (a % 3).toNat)) ∧
    (0 ≤ a → a ≤ maxT 26 → 3 * (c.g.lrec.scr : Int) ≤ a → scrWord c a = none) ∧
    (∀ d k o : Int, |d| ≤ 1 → |k| ≤ 13 → |o| ≤ maxT 22 → a = 3 ^ 26 + d * 3 ^ 25 + k * 3 ^ 22 + o →
      (d = -1 ∨ (d = 1 ∧ c.g.partner = none) ∨ k < 0 ∨ (c.g.lrec.blks : Int) ≤ k ∨ o < 0 ∨ 3 * (c.g.lrec.scr : Int) ≤ o →
        scrWord c a = none) ∧
      (d ≠ -1 → (d = 1 → c.g.partner ≠ none) → 0 ≤ k → k < (c.g.lrec.blks : Int) → 0 ≤ o → o < 3 * (c.g.lrec.scr : Int) →
        scrWord c a = some (.blk k.toNat (o / 3).toNat (o % 3).toNat))) ∧
    (∀ i sub : Nat, c.gen0 = false → i < c.g.lrec.block → sub < 3 →
      a = 3 * (i : Int) - 3 * (c.g.lrec.block : Int) + (sub : Int) → scrWord c a = some (.window i sub)) ∧
    (a < 0 → (c.gen0 = true ∨ a < -3 * (c.g.lrec.block : Int)) → scrWord c a = none)) ∧
  (∀ (s : State) (c : Ctx) (f : FD) (ts : List Nat) (ls : List (Nat × List ScrWord)), Issuing s c →
    let n := widthRegs f.width
    (Free c false [⟨f.data, true, n⟩, src f.base] (predOk f.pred && widthOk f.width && sideOk c f.data [f.base]) {} →
      flagFull c.r c.e.fa = false → accessThreads c (rowSide c f.data) f.pred = .ok ts → scrLanes c f ts = .ok ls →
      scrBusy c (ls.flatMap (·.2)) = false →
      (∀ k, anyBlk (ls.flatMap (·.2)) = true → s.scrLoadHold c = some k → exec (.lds f) s = .next (s.hold c k)) ∧
      (∀ x, (anyBlk (ls.flatMap (·.2)) = true → s.scrLoadHold c = none) → s.spoiltLane c f.width (eaList c f ts) = some x →
        exec (.lds f) s = .next (scrDataTrap s c x)) ∧
      ((anyBlk (ls.flatMap (·.2)) = true → s.scrLoadHold c = none) → s.spoiltLane c f.width (eaList c f ts) = none →
        exec (.lds f) s = .next (s.finish c (ls.foldl (fun (r : Row) q =>
        wrRegs (if rowSide c f.data then false else c.gen0) c.w r f.data (if rowSide c f.data then 0 else q.1)
          (q.2.map (fun x => match x with
            | .window i sub =>
              if f.width = -1 then field (c.r.window c.g.lrec i) (9 * sub) 9 else c.r.window c.g.lrec i
            | .blk k w sub =>
              let v := wval (s.scrGet c.ref k w).1
              if f.width = -1 then field v (9 * sub) 9 else v))) c.r)))) ∧
    (Free c false [⟨f.data, false, n⟩, src f.base] (predOk f.pred && widthOk f.width && dataOk c f) {} →
      flagFull c.r c.e.fb = false →
      accessThreads c (!c.gen0 && isRowKind f.data && isRowKind f.base) f.pred = .ok ts → scrLanes c f ts = .ok ls →
      (∀ x ∈ ls.flatMap (fun q => q.2.flatMap (scrOwed c)), x ∉ c.r.locked) →
      scrBusy c (ls.flatMap (·.2)) = false → scrUnread c (ls.flatMap (·.2)) = false →
      let y := ls.foldl (fun a q => putScratch c f.width a q.2
        ((List.range n).map (fun k => word (rd c (succReg c.gen0 f.data k) q.1)))) (s, c.r)
      (∀ k, anyBlk (ls.flatMap (·.2)) = true → s.scrStoreHold c = some k → exec (.sts f) s = .next (s.hold c k)) ∧
      ((anyBlk (ls.flatMap (·.2)) = true → s.scrStoreHold c = none) →
        (∀ x, f.width = -1 → s.spoiltLane c f.width (eaList c f ts) = some x → exec (.sts f) s = .next (scrDataTrap s c x)) ∧
        (f.width ≠ -1 ∨ s.spoiltLane c f.width (eaList c f ts) = none → exec (.sts f) s = .next (y.1.finish c y.2))) ∧ (∀ l, y.1.tryteAt l = s.tryteAt l) ∧
      (∀ t w, ls = [(t, [.blk c.ref.blk w 0])] → f.width = 0 → c.b.retired = false →
        amWf ((0, .neg) : Word × Trit) c.b.scratch = true →
        y.1.scrGet c.ref c.ref.blk w = (word (rd c f.data t), (s.scrGet c.ref c.ref.blk w).2) ∧ y.2 = c.r ∧
        ∀ k v, k ≠ c.ref.blk ∨ v ≠ w → y.1.scrGet c.ref k v = s.scrGet c.ref k v))) ∧
  (∀ (s : State) (c : Ctx) (f : FD) (t k w : Nat), Issuing s c → f.width = 0 →
    let o := s.scrGet c.ref k w
    let ln := fun (d : List Word) => [(⟨t, k, [w], 0, d⟩ : SyncLane)]
    (∀ q ∈ ([(.ldsWf f, false), (.ldsWfe f, true)] : List (Instr × Bool)),
      Free c false [⟨f.data, true, 1⟩, src f.base] (predOk f.pred && widthOk f.width && sideOk c f.data [f.base]) {} →
      flagFull c.r c.e.fa = false → s.scrLoadHold c = none → accessThreads c (rowSide c f.data) f.pred = .ok [t] →
      syncLanes c f [t] (fun _ => []) = .ok (ln []) → s.laneTurn c.ref s.steps ⟨t, k, [w], 0, []⟩ = true →
      w ∉ (s.blk c.ref k).bad →
      (o.2 = .pos → rowSide c f.data = false →
        exec q.1 s = .next (((if q.2 then s.scrMark c.ref k w .neg else s).doAcquire c.core
          (narrowScope c.core (s.blk c.ref k).core)).finish c
            (wrReg c.gen0 c.w c.r f.data t (wval o.1)))) ∧
      (o.2 ≠ .pos → s.parkedOn c.core < 243 →
        ∃ (u : State) (r : Row) (p : SyncOp), exec q.1 s = .next (u.issued c r [{ c.e with park := true, mark := false }]) ∧ r.parks = c.r.parks ++ [p] ∧
          p.todo = ln [] ∧ r.vregs = c.r.vregs ∧ r.sregs = c.r.sregs ∧ r.pregs = c.r.pregs ∧
          (∀ k' w', u.scrGet c.ref k' w' = s.scrGet c.ref k' w'))) ∧
    (Free c false [⟨f.data, false, 1⟩, src f.base] (predOk f.pred && widthOk f.width && dataOk c f) {} →
      flagFull c.r c.e.fb = false →
      accessThreads c (!c.gen0 && isRowKind f.data && isRowKind f.base) f.pred = .ok [t] →
      syncLanes c f [t] (storeWords c f.data 1) = .ok (ln [word (rd c f.data t)]) →
      s.laneTurn c.ref s.steps ⟨t, k, [w], 0, [word (rd c f.data t)]⟩ = true →
      c.r.scrOpen (s.steps + 1) = false →
      let scope := narrowScope c.core (s.blk c.ref k).core
      (s.releaseMet c.ref (Max.max 1 scope) = true → o.2 = .neg →
        exec (.stsWe f) s = .next (((s.scrSet c.ref k w (word (rd c f.data t), .pos)).flight scope).finish c c.r)) ∧
      (s.releaseMet c.ref (Max.max 1 scope) = false → o.2 = .neg →
        ∃ p : SyncOp, exec (.stsWe f) s = .next (s.finish c
            { ({ c.r with fifo := c.r.fifo ++ [markEntry s c (Max.max 1 scope)] } : Row).flagUp c.e.fb with parks := c.r.parks ++ [p] }) ∧
          p.kind = .we ∧ p.group = [] ∧ p.todo = ln [word (rd c f.data t)]) ∧
      (o.2 ≠ .neg → s.parkedOn c.core < 243 →
        ∃ (r : Row) (p : SyncOp), exec (.stsWe f) s = .next (s.issued c r [{ c.e with park := true, mark := false }]) ∧
          r.parks = c.r.parks ++ [p] ∧ p.group = c.act ∧ p.todo = ln [word (rd c f.data t)])) ∧
    (Free c false [src f.data, src f.base] (predOk f.pred && widthOk f.width) {} → flagFull c.r c.e.fb = false → s.scrStoreHold c = none →
      accessThreads c (!c.gen0 && isRowKind f.data && isRowKind f.base) f.pred = .ok [t] →
      syncLanes c f [t] (fun t => [word (rd c f.data t)]) = .ok (ln [word (rd c f.data t)]) →
      exec (.stsSt f) s = .next ((s.scrMark c.ref k w (Trit.ofSign (rd c f.data t))).finish c c.r))) ∧
  (∀ (s : State) (r : RowRef) (g : Gang) (b : Block) (x : Row) (o : SyncOp) (ln : SyncLane) (w : Nat),
    s.gang? r.gid = some g → s.block? r = some b → s.row? r = some x → g.status = .resident → x.parks = [o] → x.rels = [] → x.tlbis = [] →
    o.kind = .wf → o.width = 0 → o.todo = [ln] → ln.words = [w] → o.perRow = false →
    s.laneTurn r o.since ln = true → (s.scrGet r ln.blk w).2 = .pos →
    ∃ (t : State) (y : Row), exec (.waitFullRetry r) s = .next t ∧ t.row? r = some y ∧ y.parks = [] ∧
      y.flags = (x.flagDown o.flag).flags ∧
      { y with pct := x.pct, head := x.head, parks := x.parks, busy := x.busy, flags := x.flags } =
        wrReg o.gen0 g.lrec.width x o.dst ln.thread (wval (s.scrGet r ln.blk w).1) ∧
      ∀ l, t.tryteAt l = s.tryteAt l)

/-- R214, R342: the oldest load of a row completes: its registers hold the words its lanes name, they are owed no more,
its flag counts down, and, unless the line's place in the L1 is taken from a partial line (16 R286), no memory changes. With no younger store in the way, no cached copy and a route to it, the word is
the one its home holds.
R342, R343: the head of a row's store FIFO joins its core's order, with every earlier entry before it, once every
earlier load and scratch release of the row has completed and no fence of the row stands in that order; a fence of scope .core, or
the mark of a release of that scope, only leaves the FIFO. No memory changes.
R214, R343, 13 R234: a store applied to device lines of its field that are served and that a route reaches leaves in every tryte it covers the value of the
highest lane that covers it and every other tryte of memory as it was; the entry leaves the order. A store of several lines
finds them in L2, and one of a failing line is of the whole line (13 R240). Where nobody holds tenure, its flag counts down at
once.
What the spec leaves to the model here is as log 8, 32, 72, 110 say. -/
def Obligations.MemoryOrderResults : Prop :=
  (∀ (s : State) (r : RowRef) (x : Row) (o : MemOp) (rest : List MemOp), s.row? r = some x → x.loads = o :: rest →
    s.loadWaits (s.coreOf r) x o = false → arHolds (s.core (s.coreOf r)) x r o = false →
    relHolds x o = false → s.snoopFirst false o.lines = none →
    ∃ (t : State) (y : Row), exec (.loadComplete r) s = .next t ∧ t.row? r = some y ∧
      { y with watch := x.watch } = (((writeLoad (s.widthOf r) o (s.laneRefused o false) (s.loadWord (s.coreOf r) x o)
        { x with loads := rest }).paid o.dstFields).flagDown o.flag) ∧
      (s.corePartials (s.coreOf r) = [] → y.watch = x.watch ∧ ∀ l, t.tryteAt l = s.tryteAt l) ∧
      ∀ l, x.fifo = [] → (s.core (s.coreOf r)).order = [] → (s.core (s.coreOf r)).l1 = [] →
        (s.die (s.coreOf r / 80)).rdc = [] → l.a % 27 ≤ 24 → o.width ≠ -1 → s.cutOff (s.coreOf r / 80) (lineOf l) = false →
        s.loadWord (s.coreOf r) x o l = wval (s.wordAt l)) ∧
  (∀ (s : State) (r : RowRef) (x : Row) (o : MemOp) (rest : List MemOp), s.row? r = some x → x.fifo = o :: rest →
    (∀ l ∈ x.loads, o.stamp ≤ l.stamp) → x.scrOpen o.stamp = false →
    (∀ y ∈ (s.core (s.coreOf r)).order, y.kind = .fence → y.who ≠ r) → s.coreOf r < s.cores.length →
    (o.kind = .store ∨ o.kind = .fence ∨ o.kind = .mark →
      ∃ t : State, exec (.storeFifoDrain r) s = .next t ∧
        t.row? r = some { x with fifo := rest } ∧ (∀ l, t.tryteAt l = s.tryteAt l) ∧
        (t.core (s.coreOf r)).order =
          (if o.kind ≠ .store ∧ o.rel ≤ 1 then (s.core (s.coreOf r)).order
            else (s.core (s.coreOf r)).order ++ [o])) ∧
    (∀ op, o.kind = .atom op ∨ o.kind = .red op → (∀ ln ∈ o.lanes, s.accumType o ln = none) → o.lanes ≠ [] →
      ∃ t : State, exec (.storeFifoDrain r) s = .next t ∧ t.row? r = some { x with fifo := rest } ∧
        (∀ l, t.tryteAt l = s.tryteAt l) ∧
        (t.core (s.coreOf r)).order = (s.core (s.coreOf r)).order ++ [o])) ∧
  (∀ (s : State) (core k : Nat) (o : MemOp), (s.core core).order[k]? = some o → o.kind = .store →
    s.mayApply core k o = true → s.snoopFirst true o.lines = none → Memory.wf s.mem = true →
    (∀ ln ∈ o.lanes, ∀ l ∈ ln.locs, l.kind = .hbm ∧ l.a % 27 ≤ 24 ∧ s.hbmServed l.a = true ∧
      s.lineOwner l = (s.fldOf o.who : Int)) → (∀ line ∈ o.lines, s.cutOff (core / 80) line = false) → (∀ line ∈ o.lines, s.partialsOf line = []) →
    (∀ line ∈ o.lines, s.hbmServed line.a = true) →
    (∀ line ∈ o.lines, s.failing.contains line.a = true → (o.lineTrytes line).length = 27) →
    (o.lines.length ≤ 1 ∨ ∀ line ∈ o.lines, (s.l2Find line).isSome = true) →
    ∃ t : State, exec (.storeApply core k) s = .next t ∧
      (∀ l, t.tryteAt l = (o.tryte? l).getD (s.tryteAt l)) ∧
      (t.core core).order = (s.core core).order.eraseIdx k ∧
      (s.pushes = [] → s.holders = [] →
        (t.row? o.who).map (·.flags) = (s.row? o.who).map (fun x => (x.flagDown o.flag).flags)))

/-- R199, R221, R218, R222: with its table lines ready and reached, PAGE_WALK caches the leaf it reaches, unless neither R nor W of
it is +, and nothing when the walk ends in a fault; no memory and no row changes. With a table line cut off nothing happens; with
one not ready, it is made so and the walk goes on behind it.
R226, R227, R229: a parked row whose entries have all been replayed issues its kept load or store again with its
faulted lanes alone: a load whose lanes all translate is outstanding, a store stands in the FIFO; an instruction kept
whole only ends its park. The group that parked it goes on alone, behind the prefixes that were issued for it (06 R104), and a
load's scalar results join the vector-to-scalar queue (07 R122).
R229: a wait-table entry having been freed, everything on a die's overflow entry issues again in the order in which it parked;
an engine command is no longer held there. With none freed since, nothing changes.
What the spec leaves to the model here is as log 8, 16, 29, 76, 118 say. -/
def Obligations.TranslationResults : Prop :=
  (∀ (s : State) (core fld : Nat) (va : Word),
    let ls := s.walkLines fld (wval va)
    ((∃ l ∈ ls, s.cutOff (core / 80) l = true) → exec (.pageWalk core fld va) s = .next s) ∧
    ((∀ l ∈ ls, s.cutOff (core / 80) l = false) →
      (∀ t, s.snoopFirst false ls = some t →
        exec (.pageWalk core fld va) s = .next (t.await (.event (.pageWalk core fld va)) 0 ls)) ∧
      (s.snoopFirst false ls = none →
        (∀ e level ps, s.walk fld (wval va) = (.leaf e level, ps) → entR e = 1 ∨ entW e = 1 →
          exec (.pageWalk core fld va) s = .next (s.fillTlb core fld (wval va) e level ps)) ∧
        ((∀ e level, (s.walk fld (wval va)).1 = .leaf e level → entR e ≠ 1 ∧ entW e ≠ 1) →
          exec (.pageWalk core fld va) s = .next s) ∧
        ∃ t : State, exec (.pageWalk core fld va) s = .next t ∧ t.gangs = s.gangs ∧ t.mem = s.mem ∧
          t.hostMem = s.hostMem ∧ t.peerMem = s.peerMem))) ∧
  (∀ (s : State) (r : RowRef) (x : Row) (f : FaultRec) (c : Ctx), s.row? r = some x → x.fault = some f →
    f.units = [] → f.overflow = false → s.ctxAt r f.pos = some c → c.g.status = .resident →
    let c' := { c with k := f.k, e := { c.e with threads := f.op.group } }
    let base := { x with fault := none, ahead := none }
    let again := base.flagDown f.op.flag
    let queued := fun (t : State) => t.queueResults r (if c.gen0 then [] else f.op.dstFields.filter isSca)
    (f.op.lanes = [] → exec (.rowUnparkReissue r) s = .next (queued (s.modRow r (fun _ => base)))) ∧
    (∀ xs u, f.op.lanes ≠ [] → f.op.kind = .load → (∀ y ∈ xs, y.faulted = false) →
      check3 s { c' with r := again } Need.load f.op.width false
        (f.op.lanes.map (fun ln => (ln.thread, wval ln.va))) = .lanes xs u →
      let op := { f.op with lanes := xs.map (fun y => laneOf f.op.width y []) }
      exec (.rowUnparkReissue r) s = .next (queued (u.finish c'
        ((({ again with loads := again.loads ++ [op] }).owe op.dstFields).flagUp f.op.flag)))) ∧
    (∀ xs u, f.op.lanes ≠ [] → f.op.kind = .store → (∀ y ∈ xs, y.faulted = false) →
      check3 s { c' with r := again.paid [] } Need.store f.op.width
        (f.op.width == 3) (f.op.lanes.map (fun ln => (ln.thread, wval ln.va))) = .lanes xs u →
      ∃ op : MemOp, op.kind = .store ∧ op.lanes.map (fun ln => (ln.thread, ln.locs)) =
          xs.map (fun y => (y.thread, y.locs f.op.width)) ∧
        exec (.rowUnparkReissue r) s = .next (queued (u.finish c'
          (({ again with fifo := x.fifo ++ [op] }).flagUp f.op.flag))))) ∧
  (∀ (s : State) (die : Nat),
    let begun := s.modDie die (fun (d : DieSt) => { d with overflow := [], freed := false })
    ((s.die die).freed = false → exec (.overflowReissue die) s = .next s) ∧
    ((s.die die).freed = true →
      exec (.overflowReissue die) s = .next ((s.die die).overflow.foldl (fun t q => t.offOverflow q) begun) ∧
      ∀ (r : RowRef) (n : Nat), (s.die die).overflow = [(r, n)] → n ≠ 0 →
        exec (.overflowReissue die) s = .next (begun.modRow r (fun (x : Row) =>
            { x with slots := modAt x.slots (n - 1) (fun (z : EngSlot) =>
              { z with entries := z.entries.map (fun e => match e with
                | .cmd c => .cmd { c with spill := false }
                | .join i => .join i) }) }))))

/-! ### Atomics and reductions (20) -/

/-- R358, R360, R361, R362: ATOM and RED on global memory. With no acting thread nothing happens; an address that is not
aligned to the word, or to the nine trytes of an X81 cell, traps ALIGN; otherwise the operation stands in the row's FIFO with every acting
thread's operands, counts on flag B, and an ATOM owes its register. Each accepts the prefixes Table 20.2 gives it.
What the spec leaves to the model here is as log 27 says. -/
def Obligations.AtomicIssueResults : Prop :=
  ∀ (s : State) (c : Ctx) (f : FC) (ts : List Nat), Issuing s c →
    ∀ q ∈ ([(.atomAdd f, .add, true, true, true), (.atomMin f, .min, true, false, false),
        (.atomMax f, .max, true, false, false), (.atomTmin f, .tmin, true, false, false),
        (.atomTmax f, .tmax, true, false, false), (.atomXchg f, .xchg, true, false, false),
        (.atomCas f, .cas, true, false, false), (.atomFadd f, .fadd, true, true, false),
        (.redAdd f, .add, false, true, false), (.redMin f, .min, false, false, false),
        (.redMax f, .max, false, false, false), (.redTmin f, .tmin, false, false, false),
        (.redTmax f, .tmax, false, false, false), (.redX81 f, .x81, false, true, false),
        (.redFadd f, .fadd, false, true, false)] : List (Instr × AtomOp × Bool × Bool × Bool)),
    let a : AtomForm := ⟨q.2.1, q.2.2.1, { p := true, scope := true, ord := if q.2.2.1 then [1, -1, 3] else [-1]
                                           nb := q.2.2.2.1, sat := q.2.2.2.2 }⟩
    let ops := fun (t : Nat) =>
      let b := rd c f.b t
      let y := if c.mod.nb = 1 then (if a.op = .x81 ∨ a.op = .fadd then negFl .f27 b else -b) else b
      if a.op = .cas then [word b, word (rd c f.c t)]
      else if a.op = .x81 then (List.range 3).map (fun j => word (field (toX81 (rd c f.c t) y).1 (27 * j) 27))
      else [word y]
    let unit : Int := if a.op = .x81 then 9 else 3
    Free c false (a.uses f) (a.fields f && (!a.row c f || rowSrcs c (a.srcs f)) &&
      ((c.mod.ord != 0) == (c.mod.scope != 0))) a.acc →
    flagFull c.r c.e.fb = false → c.r.fifoFull = false → accessThreads c (a.row c f) c.mod.pred = .ok ts →
    (ts = [] → exec q.1 s = .next (s.finish c c.r)) ∧
    (f.ty = 0 → ∀ t ∈ ts, rd c f.a t % unit ≠ 0 → (∀ u ∈ ts, u < t → rd c f.a u % unit = 0) → ts.Pairwise (· < ·) →
      exec q.1 s = .next (takeTrap s c ⟨.align, some (rd c f.a t), none⟩)) ∧
    (∀ xs u, f.ty = 0 → ts ≠ [] → (∀ t ∈ ts, rd c f.a t % unit = 0) →
      check3 s c Need.both (if a.op = .x81 then 2 else 0) false (ts.map (fun t => (t, rd c f.a t))) = .lanes xs u →
      (∀ x ∈ xs, x.faulted = false) →
      ∃ (op : MemOp) (r : Row),
        exec q.1 s = .next (u.finish c { r with fifo := c.r.fifo ++ [op] }) ∧
        op.kind = (if a.returns then .atom a.op else .red a.op) ∧ op.dst = f.dst ∧ op.flag = c.e.fb ∧ op.who = c.ref ∧
        op.rel = (if c.mod.ord = -1 ∨ c.mod.ord = 3 then c.mod.scope else 0) ∧
        op.acq = (if c.mod.ord = 1 ∨ c.mod.ord = 3 then c.mod.scope else 0) ∧
        op.t9 = (a.op.kinds && f.c == 1) ∧ op.sat = (c.mod.sat == 1) ∧ op.lanes.length = xs.length ∧
        (∀ x ∈ xs, x.thread ∈ ts →
          ∃ ln ∈ op.lanes, ln.thread = x.thread ∧ ln.locs = x.locs op.width ∧ ln.data = ops x.thread) ∧
        r.flags = (c.r.flagUp c.e.fb).flags ∧ r.vregs = c.r.vregs ∧ r.sregs = c.r.sregs ∧ r.pregs = c.r.pregs ∧
        (a.returns = true → f.dst ∈ r.busy) ∧ (a.op ≠ .x81 → r.fx = c.r.fx))

/-- R358, R360: in scratch an ATOM or RED of a word acts at once at its port: the word takes its new value, the state trit stays,
and an ATOM's register takes the word as it was, with the flags of the operation. A release whose waits are not met is
performed later, while its row goes on (19 R345); an acquire acts after it. The register window traps PROT, and a word that no
code repairs DATA (log 124).
R359, R364, Table 20.2: the new value of a word and the flags of the operation; of an X81 cell, its exact sum
wrapped to 81 trits.
R358, R359, R364: ATOMIC_APPLY performs an entry of a core's order at its home, lane after lane: each lane's words
become the new words, every other tryte stays, an ATOM's thread takes the old first word, and the entry leaves the order.
What the spec leaves to the model here is as log 24, 27, 110, 124 say. -/
def Obligations.AtomicResults : Prop :=
  (∀ (s : State) (c : Ctx) (f : FC) (t k w : Nat), Issuing s c →
    ∀ q ∈ ([(.atomAdd f, .add, true), (.atomMin f, .min, true), (.atomMax f, .max, true), (.atomTmin f, .tmin, true),
        (.atomTmax f, .tmax, true), (.atomXchg f, .xchg, true), (.atomCas f, .cas, true), (.atomFadd f, .fadd, true),
        (.redAdd f, .add, false), (.redMin f, .min, false), (.redMax f, .max, false), (.redTmin f, .tmin, false),
        (.redTmax f, .tmax, false), (.redFadd f, .fadd, false)] : List (Instr × AtomOp × Bool)),
    let neg := q.2.1 = .add ∨ q.2.1 = .fadd
    let a : AtomForm := ⟨q.2.1, q.2.2, atomAcc q.2.2 (decide neg) (q.2.1 == .add && q.2.2)⟩
    let o := s.scrGet c.ref k w
    let n := atomNew a.op (f.c == 1 && a.op.kinds) (c.mod.sat == 1) (wval o.1) ((a.operands c f t).1.map wval)
    let scope : Int := if c.mod.ord = 0 then 0 else c.mod.scope
    let rel := c.mod.ord = -1 ∨ c.mod.ord = 3
    f.ty = 1 →
    Free c false (a.uses f) (a.fields f && (!a.row c f || rowSrcs c (a.srcs f)) &&
      ((c.mod.ord != 0) == (c.mod.scope != 0))) a.acc →
    flagFull c.r c.e.fb = false → accessThreads c (a.row c f) c.mod.pred = .ok [t] → scrAlign (rd c f.a t) % 3 = 0 →
    (scrWord c (rd c f.a t) = some (.blk k w 0) →
      (rel → c.r.scrOpen (s.steps + 1) = false ∧ s.releaseMet c.ref scope = true) → (¬rel → s.scrStoreHold c = none) →
      let u := (s.scrSet c.ref k w (word n.1, o.2)).flight (if rel then scope else 0)
      (w ∈ (s.blk c.ref k).bad → exec q.1 s = .next (scrDataTrap s c (rd c f.a t))) ∧
      (w ∉ (s.blk c.ref k).bad → exec q.1 s = .next ((if c.mod.ord = 1 ∨ c.mod.ord = 3 then u.doAcquire c.core scope else u).finish c
        (if a.returns then
          (if a.row c f then wrReg false c.w c.r f.dst 0 (wval o.1)
            else wrReg c.gen0 c.w c.r f.dst t (wval o.1)).raiseAll (if a.row c f then c.act else [t]) n.2
        else c.r)))) ∧
    (scrWord c (rd c f.a t) = some (.blk k w 0) → rel → c.r.scrOpen (s.steps + 1) = false →
      w ∉ (s.blk c.ref k).bad → s.releaseMet c.ref scope = false →
      ∃ p : ScrRel, exec q.1 s = .next (s.finish c
          (({ c.r with fifo := c.r.fifo ++ [markEntry s c scope], rels := c.r.rels ++ [p] }.owe p.owed).flagUp c.e.fb)) ∧
        p.op = a.op ∧ p.returns = a.returns ∧ p.dst = f.dst ∧ p.flag = c.e.fb ∧ p.scope = scope ∧ p.stamp = s.steps ∧
        p.lanes = [⟨t, k, [w], 0, (a.operands c f t).1⟩]) ∧
    (∀ i sub, scrWord c (rd c f.a t) = some (.window i sub) →
      exec q.1 s = .next (takeTrap s c ⟨.prot, some (rd c f.a t), none⟩)) ∧
    (scrWord c (rd c f.a t) = none → exec q.1 s = .next (takeTrap s c ⟨.prot, some (rd c f.a t), none⟩))) ∧
  ((∀ (t9 sat : Bool) (old y z : Int), |old| ≤ maxT 27 → |y| ≤ maxT 27 →
    let w : Nat := if t9 then 9 else 27
    let r := fun op => atomNew op t9 sat old [y, z]
    ((∀ j < elems w, Completed w sat (elem old w j + elem y w j) (elem (r .add).1 w j)) ∧
      OnlyIO w sat (fun j => elem old w j + elem y w j) (r .add).2) ∧
    (∀ j < elems w, elem (r .min).1 w j = Min.min (elem old w j) (elem y w j)) ∧ (r .min).2 = Fx.clear ∧
    (∀ j < elems w, elem (r .max).1 w j = Max.max (elem old w j) (elem y w j)) ∧ (r .max).2 = Fx.clear ∧
    (∀ i < 27, trit (r .tmin).1 i = Min.min (trit old i) (trit y i)) ∧ (r .tmin).2 = Fx.clear ∧
    (∀ i < 27, trit (r .tmax).1 i = Max.max (trit old i) (trit y i)) ∧ (r .tmax).2 = Fx.clear ∧
    r .xchg = (y, Fx.clear) ∧ r .cas = (if old = y then z else old, Fx.clear) ∧
    (∀ m e n d, readFl .f27 old = .fin m e → readFl .f27 y = .fin n d →
      Rounded .f27 ((Fl.fin m e).rat + (Fl.fin n d).rat) (r .fadd))) ∧
  (∀ (t9 sat : Bool) (a b c x y z : Word),
    let cell := fun (l : List Word) => wval (l.getD 0 0) + wval (l.getD 1 0) * 3 ^ 27 + wval (l.getD 2 0) * 3 ^ 54
    let r := atomWords .x81 t9 sat [a, b, c] [x, y, z]
    cell r.1 = wrapT 81 (cell [a, b, c] + cell [x, y, z]) ∧ r.1.length = 3 ∧ r.2 = Fx.clear)) ∧
  ((∀ (s : State) (core k : Nat) (o : MemOp) (a : AtomOp) (ret : Bool), (s.core core).order[k]? = some o →
    o.kind = (if ret then .atom a else .red a) → s.mayApply core k o = true → s.snoopFirst true o.lines = none →
    ∃ t : State, exec (.atomicApply core k) s = .next t ∧
      (∀ l, t.tryteAt l = (o.lanes.foldl (fun u ln => u.applyLane o a ret ln) (s.applied core k)).tryteAt l) ∧
      (o.acq = 0 → core < s.cores.length → (t.core core).order = (s.core core).order.eraseIdx k)) ∧
  (∀ (s : State) (o : MemOp) (a : AtomOp) (ret : Bool) (ln : Lane) (l : Loc) (x : Row),
    l.kind = .hbm → l.a % 27 ≤ (if a = .x81 then 18 else 24) → Memory.wf s.mem = true → s.partialsOf (lineOf l) = [] →
    s.badLine (lineOf l) = false → s.cutOff (s.coreOf o.who / 80) (lineOf l) = false →
    s.lineOwner (lineOf l) = (s.fldOf o.who : Int) →
    ln.locs = (if a = .x81 then [l, locAt l 3, locAt l 6] else [l]) → s.row? o.who = some x →
    let old := ln.locs.map s.wordAt
    let n := atomWords a o.t9 o.sat old ln.data
    let t := s.applyLane o a ret ln
    (∀ j < ln.locs.length, t.wordAt (locAt l (3 * j)) = n.1.getD j 0) ∧
    (∀ m : Loc, (m.kind ≠ .hbm ∨ m.a < l.a ∨ l.a + 3 * ln.locs.length ≤ m.a) → t.tryteAt m = s.tryteAt m) ∧
    ∃ y : Row, t.row? o.who = some y ∧
      let e := if ret then
          (if o.perRow then (wrRow o.gen0 (s.widthOf o.who) x o.group o.dst (wval (old.headD 0))).raiseAll o.group n.2
            else (wrReg o.gen0 (s.widthOf o.who) x o.dst ln.thread (wval (old.headD 0))).raise ln.thread n.2)
        else x
      y = { e with watch := y.watch }))

/-! ### Fences and barriers (19, 20) -/

/-- R366, R349: FENCE .rel stands in the row's FIFO and holds nothing back itself; FENCE .acq performs the cache actions
of its scope; FENCE .ar does both, and both wait until the row's earlier loads have completed. A fence whose condition is
false on every thread has no effect. -/
def Obligations.FenceResults : Prop :=
  ∀ (s : State) (c : Ctx) (f : FA) (acts : Bool), Issuing s c →
    Legal c false [] (predOk f.pred && f.dst == 0 && f.a == 0 && decide (1 ≤ f.b ∧ f.b ≤ 6) &&
      (f.ty == 1 || f.ty == -1 || f.ty == 3) && c.r.pfx.isNone) {} →
    rowActs c f.pred = .ok acts →
    (acts = false → exec (.fence f) s = .next (s.finish c c.r)) ∧
    (acts = true → f.ty = 1 → c.r.loads = [] → exec (.fence f) s = .next ((s.doAcquire c.core f.b).finish c c.r)) ∧
    (acts = true → f.ty ≠ 1 → (f.ty = -1 ∨ c.r.loads = []) →
      ∃ op : MemOp, op.kind = .fence ∧ op.rel = f.b ∧ op.lanes = [] ∧ op.who = c.ref ∧ op.stamp = s.steps ∧
        exec (.fence f) s = .next ((if f.ty = 3 then s.doAcquire c.core f.b else s).finish c
          { c.r with fifo := c.r.fifo ++ [op] }))

/-- R367 to R370, R372: BARS sets EXP and completes the phase when CNT has reached it; BARA sends an arrival and owes its token; BARW gives PH
when it differs from the token and performs the acquire of the gang's scope, and holds its row while it is equal. A barrier number outside
0..8, a count outside 1..19683 and a block outside the gang trap.
R367, R369, R370, R372: an arrival is applied once its release waits are met: PH as it stood is the row's token, CNT
goes up, and at EXP the phase completes: CNT is 0 and PH one higher. One for the partner die is counted at the relay, which applies all it
has counted for a barrier when it forwards.
R374, R375: BARL joins the open instance of its level barrier, or traps PROT for another P, and waits; when P arrivals have
joined, the instance completes, and BARL then gives its number among those completed and performs the acquire of its level. A
number or a P out of range traps ILLMOD.
What the spec leaves to the model here is as log 75 says. -/
def Obligations.BarrierRowResults : Prop :=
  (∀ (s : State) (c : Ctx) (f : FA), Issuing s c → rowActs c f.pred = .ok true →
    let n := rdRow c f.a
    let v := rdRow c f.b
    let go := uniform c [f.a, f.b] = true ∧ 0 ≤ n ∧ n ≤ 8
    (Free c false [src f.a, src f.b] (predOk f.pred && f.ty == 0 && f.dst == 0 && rowSrcs c [f.a, f.b]) {} →
      (go → 1 ≤ v → v ≤ 19683 →
        let x := c.b.bar n.toNat
        let y : Barrier := if (x.cnt : Int) < v then ⟨v.toNat, x.cnt, x.ph⟩ else ⟨v.toNat, 0, word (wval x.ph + 1)⟩
        exec (.bars f) s = .next ((s.modBlock c.ref (fun b => { b with bars := b.bars.set n.toNat y })).finish c c.r)) ∧
      (go → ¬(1 ≤ v ∧ v ≤ 19683) → exec (.bars f) s = .next (takeTrap s c ⟨.illmod, some v, none⟩)) ∧
      (uniform c [f.a, f.b] = true → ¬(0 ≤ n ∧ n ≤ 8) →
        exec (.bars f) s = .next (takeTrap s c ⟨.illmod, some n, none⟩))) ∧
    (Free c false [dst f.dst, src f.a, src f.b]
        (predOk f.pred && f.ty == 0 && scaDst c f.dst && rowSrcs c [f.a, f.b]) {} →
      (go → 0 ≤ v → v < c.g.lrec.blks →
        ∃ a : Arrival, exec (.bara f) s = .next (s.finish c (({ c.r with
            fifo := c.r.fifo ++ [markEntry s c (narrowScope c.core (s.blk c.ref v.toNat).core)]
            arrivals := c.r.arrivals ++ [a] } : Row).owe [f.dst])) ∧
          a.blk = v.toNat ∧ a.bar = n.toNat ∧ a.dst = f.dst ∧ a.group = c.act ∧ a.stamp = s.steps ∧
          a.stage = (if (s.blk c.ref v.toNat).core / 80 = c.die then 0 else 1)) ∧
      (go → ¬(0 ≤ v ∧ v < c.g.lrec.blks) → exec (.bara f) s = .next (takeTrap s c ⟨.prot, some v, none⟩)) ∧
      (go → wval (c.b.bar n.toNat).ph ≠ v →
        exec (.barw f) s = .next ((s.doAcquire c.core c.g.scope).finish c
          (wrRow c.gen0 c.w c.r c.act f.dst (wval (c.b.bar n.toNat).ph)))) ∧
      (go → wval (c.b.bar n.toNat).ph = v → exec (.barw f) s = .next (s.hold c 8)) ∧
      (uniform c [f.a, f.b] = true → ¬(0 ≤ n ∧ n ≤ 8) →
        exec (.bara f) s = .next (takeTrap s c ⟨.illmod, some n, none⟩) ∧
        exec (.barw f) s = .next (takeTrap s c ⟨.illmod, some n, none⟩)))) ∧
  ((∀ (s : State) (r : RowRef) (g : Gang) (x : Row) (a : Arrival) (rest : List Arrival) (b : Block),
    s.gang? r.gid = some g → s.row? r = some x → x.arrivals = a :: rest → a.stage < 2 →
    s.releaseMetAt r a.stamp = true →
    (a.stage = 0 → s.block? { r with blk := a.blk } = some b → b.retired = false → a.bar < b.bars.length →
      ∃ (t : State) (y : Row) (d : Block), exec (.barrierArrivalApply r) s = .next t ∧
        t.row? r = some y ∧ y = (wrRow a.gen0 g.lrec.width { x with arrivals := rest } a.group a.dst
          (wval (b.bar a.bar).ph)).paid [a.dst] ∧
        t.block? { r with blk := a.blk } = some d ∧ d.scratch = b.scratch ∧
        d.bar a.bar = (if (b.bar a.bar).cnt + 1 < (b.bar a.bar).exp then { b.bar a.bar with cnt := (b.bar a.bar).cnt + 1 }
          else { b.bar a.bar with cnt := 0, ph := word (wval (b.bar a.bar).ph + 1) }) ∧
        ∀ n, n ≠ a.bar → d.bar n = b.bar n) ∧
    (a.stage ≠ 0 → exec (.barrierArrivalApply r) s =
      .next ((s.flight (s.arriveScope r a)).modRow r (fun z => { z with arrivals := modFirst (· == a) (fun a => { a with stage := 2 }) z.arrivals })))) ∧
  ∀ (s : State) (g : Gang) (blk bar : Nat), s.gang? g.gid = some g →
    let held := g.blocks.flatMap (fun b => b.rows.flatMap (fun r =>
      (r.arrivals.filter (fun a => a.stage == 2 && a.blk == blk && a.bar == bar)).map
        (fun a => ((⟨g.gid, b.blk, r.row⟩ : RowRef), a))))
    exec (.barrierRelayForward g.gid blk bar) s = .next (held.foldl (fun t q => t.arrive q.1 g.lrec.width q.2) s)) ∧
  ((∀ (s : State) (c : Ctx) (f : FA), Issuing s c →
    Free c false [dst f.dst, src f.a, src f.b]
      (predOk f.pred && (f.ty == 2 || f.ty == 3 || f.ty == 4) && scaDst c f.dst && rowSrcs c [f.a, f.b]) {} →
    uniform c [f.a, f.b] = true → rowActs c f.pred = .ok true →
    let scope : Int := f.ty + 1
    let p := rdRow c f.b
    let key : List Int := [(c.fld : Int), f.ty, rdRow c f.a] ++ (if f.ty = 2 then [(c.die : Int)] else [])
    let b := s.levelBar key
    let mine := c.r.levels.find? (fun v => v.pos == c.e.addr && v.key.take 3 == key.take 3)
    let ok := 0 ≤ rdRow c f.a ∧ rdRow c f.a ≤ 8 ∧ 1 ≤ p ∧ p ≤ 387420489
    (¬ok → exec (.barl f) s = .next (takeTrap s c Trap.illmod)) ∧
    (∀ v, ok → mine = some v → (s.levelBar v.key).done_ ≠ v.seq →
      exec (.barl f) s = .next ((s.doAcquire c.core scope).finish c
        (wrRow c.gen0 c.w { c.r with levels := c.r.levels.filter (· != v) } c.act f.dst v.seq))) ∧
    (∀ v, ok → mine = some v → (s.levelBar v.key).done_ = v.seq → exec (.barl f) s = .next (s.hold c 8)) ∧
    (ok → mine = none → s.releaseMet c.ref scope = false → exec (.barl f) s = .next (s.hold c 8)) ∧
    (ok → mine = none → s.releaseMet c.ref scope = true →
      (b.cnt = 0 ∨ (b.cnt ≠ b.p ∧ b.p = p) →
        ∃ (t : State) (y : Row), exec (.barl f) s = .next t ∧ t.row? c.ref = some y ∧
          t.levelBar key = { b with p := p, cnt := b.cnt + 1, key := key } ∧ t.mem = s.mem ∧
          y.levels = c.r.levels ++ [⟨c.e.addr, f.dst, key, b.done_, c.gen0⟩] ∧ y.pct = c.r.pct) ∧
      (b.cnt ≠ 0 → b.cnt ≠ b.p → b.p ≠ p → exec (.barl f) s = .next (takeTrap s c ⟨.prot, some p, none⟩)))) ∧
  ∀ (s : State) (k : Nat) (b : LevelBar), s.levelBars[k]? = some b →
    exec (.barlInstanceComplete k) s = .next (if b.cnt ≠ 0 ∧ b.cnt = b.p
      then s.setLevelBar { b with p := 0, cnt := 0, done_ := wrapT 27 (b.done_ + 1) } else s))

/-! ### Tiles (16) -/

/-- R272 to R275, R278, R281, R288 to R290: a tile instruction of a row sends its request to the package directory: its result registers are owed and it counts on
flag B. TFREE, TREL, REDC and FENCE.T trap PROT on a stale handle first; TNEW reads its descriptor's line; FENCE.T is done as it issues,
and drops the copies of the footprint unless the block holds read or update.
What the spec leaves to the model here is as log 67 says. -/
def Obligations.TileIssueResults : Prop :=
  ∀ (s : State) (c : Ctx) (f : FF), Issuing s c → rowActs c c.mod.pred = .ok true → flagFull c.r c.e.fb = false →
    let req := fun (k : TileKind) (h : Int) (d : Int) =>
      (⟨c.ref, k, word h, d, c.e.fb, c.fld, 0, c.gen0, c.act, []⟩ : TileReq)
    let sent := fun (t : State) (k : TileKind) (h d : Int) (n : Nat) =>
      ({ t.finish c ((c.r.owe ((List.range n).map (succReg c.gen0 d))).flagUp c.e.fb) with
          tileIn := t.tileIn ++ [req k h d] } : State)
    let h := rdRow c f.y
    (Free c false [dst f.x, src f.y] (f.slot == 0 && scaDst c f.x && f.z == 0 && rowSrcs c [f.y]) { p := true } →
      uniform c [f.y] = true →
      (1 ≤ f.ctl → f.ctl ≤ 3 → exec (.tacq f) s = .next (sent s (.tacq f.ctl) h f.x 1)) ∧
      (f.ctl = 0 → exec (.tqry f) s = .next (sent s .tqry h f.x 1)) ∧
      (f.ctl = 0 → h % 27 ≠ 0 → exec (.tnew f) s = .next (takeTrap s c ⟨.align, some h, none⟩)) ∧
      (∀ x u, f.ctl = 0 → h % 27 = 0 → check3 s c Need.load 3 false [(c.act.headD 0, h)] = .lanes [x] u →
        x.faulted = false → c.r.loads = [] → c.r.rels = [] → c.r.fifo = [] → (u.core c.core).order = [] → (u.core c.core).l1 = [] → (u.die c.die).rdc = [] →
        let ls := ({ bareOp c s.steps with width := 3, lanes := [laneOf 3 x []] } : MemOp).lines
        u.snoopFirst false ls = none →
        exec (.tnew f) s = .next (sent (ls.foldl (fun t l => t.loadLine c.core l 0) u) (.tnew (lineWords (u.lineAt (lineOf ((x.locs 3).headD Loc.none_))))) 0 f.x 1))) ∧
    (Free c false [dst f.x, src f.y, src f.z] (f.slot == 0 && f.ctl == 0 && scaDst c f.x && rowSrcs c [f.y, f.z]) { p := true } →
      uniform c [f.y, f.z] = true →
      let z := rdRow c f.z
      let n : Nat := if 2 ≤ field z 2 4 ∧ field z 2 4 ≤ 9 then (field z 2 4).toNat else 1
      (regsOk c f.x n true = false → exec (.tsplit f) s = .next (takeTrap s c Trap.illop)) ∧
      (regsOk c f.x n true = true → (∀ r ∈ (Use.mk f.x true n).fields c, r ∉ c.r.locked) →
        usesBusy c [⟨f.x, true, n⟩] = false → exec (.tsplit f) s = .next (sent s (.tsplit (word z)) h f.x n))) ∧
    (Free c false [src f.y] (f.slot == 0 && f.ctl == 0 && f.x == 0 && f.z == 0 && rowSrcs c [f.y]) { p := true } →
      uniform c [f.y] = true →
      (∀ q ∈ ([(.tfree f, .tfree), (.trel f, .trel), (.redc f, .redc)] : List (Instr × TileKind)),
        (s.tileOf c.fld (word h)).isSome = true → exec q.1 s = .next (sent s q.2 h 0 0)) ∧
      (∀ i ∈ ([.tfree f, .trel f, .redc f, .fenceT f] : List Instr), s.tileOf c.fld (word h) = none →
        exec i s = .next (takeTrap s c ⟨.prot, some h, none⟩)) ∧
      ((s.tileOf c.fld (word h)).isSome = true →
        let ls := s.tileFoot c.fld (word h)
        (s.writesOpen c.core c.fld c.r c.ref ls (s.tileVas c.fld (word h)) = true → exec (.fenceT f) s = .next (s.hold c 14)) ∧
        (s.writesOpen c.core c.fld c.r c.ref ls (s.tileVas c.fld (word h)) = false →
          exec (.fenceT f) s = .next ((if ∃ t, c.b.tenure? (word h) = some t ∧ (t.kind = 1 ∨ t.kind = 2) then s
            else s.dropCopies c.core ls).finish c c.r))))

/-- R271, R273 to R275, R278 to R281, R288, R290: TILE_REQUEST_ANSWER performs the oldest request at the package
directory and writes its result: TNEW −1 for a bad descriptor, −2 without a free index, or the handle of the lowest free
index, now live with the descriptor; TSPLIT −1 for a stale parent, −2 for a bad dimension
or count, −3 without free indices, −4 where the children do not fit, or the handles of the children, now live with their
pieces, the parent fallow; TACQ −1 stale,
−2 for commute on a type it has not, −3 for a footprint line that is not eligible, +1 granted, the holder's copies of the footprint
dropped (log 105), 0 queued, with the recall of every conflicting holder started. TREL of a tenure the block holds starts its release,
without LOST, and cancels the block's queued request; TFREE of a handle with holders cancels every queued request and starts the recall
of every holder; each stays first until that has finished. TREL without a tenure, TFREE of a stale handle and REDC without
commute tenure have no effect; TQRY gives the state word.
R278 to R280, R283, R284, R287: a queued TACQ is granted once nothing ahead of it waits, no conflicting holder is left
and the host holds no copy of its lines; a recall drops a read holder's copies, waits for an update holder's writes, flushes a
commute holder's partials in its turn, and ends the tenure with LOST as asked; a push refreshes the copies of its line; a flush adds the
partial into the line at its home and drops it.
What the spec leaves to the model here is as log 30, 91, 105 say. -/
def Obligations.TileDirectoryResults : Prop :=
  (∀ (s : State) (q : TileReq) (rest : List TileReq), s.tileIn = q :: rest →
    let done := fun (t : State) (vs : List Int) => (.next (t.answerTile q vs true) : Host.Outcome State Fault Refusal)
    (∀ d, q.kind = .tnew d →
      (descOk d = false → exec .tileRequestAnswer s = done s [-1]) ∧
      (descOk d = true → s.freeTiles q.fld 1 = [] → exec .tileRequestAnswer s = done s [-2]) ∧
      (∀ i r, descOk d = true → s.freeTiles q.fld 1 = i :: r → q.fld < s.fields.length →
        ∃ (t : State) (h : Word) (x : TileIdx), exec .tileRequestAnswer s = .next (t.answerTile q [wval h] true) ∧
          t.tileIdx? q.fld i = some x ∧ x.state = 1 ∧ x.desc = d ∧
          x.gen = nextGen364 (((s.tileIdx? q.fld i).map (·.gen)).getD (-1)) ∧ h = mkHandle q.fld i x.gen ∧
          (∀ j, j ≠ i → t.tileIdx? q.fld j = s.tileIdx? q.fld j) ∧ t.mem = s.mem ∧ t.gangs = s.gangs)) ∧
    (∀ z, q.kind = .tsplit z →
      let all := fun (v : Int) => done s (List.replicate (splitRegs (wval z)) v)
      (s.tileOf q.fld q.handle = none → exec .tileRequestAnswer s = all (-1)) ∧
      (∀ x, s.tileOf q.fld q.handle = some x → s.queuedAhead q.fld q.handle x.desc s.tileQ = false →
        (field (wval z) 0 2 < 0 ∨ (dRank x.desc : Int) ≤ field (wval z) 0 2 ∨ field (wval z) 2 4 < 2 ∨
          9 < field (wval z) 2 4 ∨ field (wval z) 6 21 ≠ 0 ∨ dExt x.desc (field (wval z) 0 2).toNat < field (wval z) 2 4) →
        exec .tileRequestAnswer s = all (-2)) ∧
      ∀ (x : TileIdx) (k n : Nat), s.tileOf q.fld q.handle = some x → s.queuedAhead q.fld q.handle x.desc s.tileQ = false →
        field (wval z) 0 2 = k → field (wval z) 2 4 = n → field (wval z) 6 21 = 0 → k < dRank x.desc → 2 ≤ n → n ≤ 9 →
        (n : Int) ≤ dExt x.desc k →
        let free := s.freeTiles q.fld n
        let start := fun (i : Nat) => (i : Int) * (dExt x.desc k / n) + min (i : Int) (dExt x.desc k % n)
        let ext := fun (i : Nat) => dExt x.desc k / n + (if (i : Int) < dExt x.desc k % n then 1 else 0)
        let kid := fun (i : Nat) =>
          (x.desc.set 0 (word (dW x.desc 0 + start i * dStr x.desc k))).set (2 + k) (word (ext i))
        (free.length < n → exec .tileRequestAnswer s = all (-3)) ∧
        (free.length = n → s.splitFits q.fld q.handle x.desc ((List.range n).map kid) = false →
          exec .tileRequestAnswer s = all (-4)) ∧
        (free.length = n → s.splitFits q.fld q.handle x.desc ((List.range n).map kid) = true → q.fld < s.fields.length →
          x.idx ∉ free →
          ∃ (t : State) (hs : List Word), exec .tileRequestAnswer s = .next (t.answerTile q (hs.map wval) true) ∧
            hs.length = n ∧
            (∀ i < n, ∃ y : TileIdx, t.tileIdx? q.fld (free.getD i 0) = some y ∧ y.state = 1 ∧ y.desc = kid i ∧
              hs.getD i 0 = mkHandle q.fld (free.getD i 0) y.gen) ∧
            t.tileOf q.fld q.handle = none ∧ (∃ y ∈ (t.fieldSt q.fld).tiles, y.idx = x.idx ∧ y.gen = x.gen ∧ y.state = 2) ∧
            (∀ b ∈ t.gangs.flatMap (·.blocks), b.tenure? q.handle = none) ∧ t.mem = s.mem)) ∧
    (∀ k, q.kind = .tacq k →
      (s.tileOf q.fld q.handle = none → exec .tileRequestAnswer s = done s [-1]) ∧
      (∀ x, s.tileOf q.fld q.handle = some x →
        (k = 3 → dType x.desc ≠ 0 → dType x.desc ≠ 1 → dType x.desc ≠ -2 → exec .tileRequestAnswer s = done s [-2]) ∧
        (k ≠ 3 ∨ dType x.desc = 0 ∨ dType x.desc = 1 ∨ dType x.desc = -2 →
          (∃ l ∈ tileLines x.desc, s.eligible q.fld k l = false) → exec .tileRequestAnswer s = done s [-3]) ∧
        (s.acqRefusal q x.desc = none → s.ownHolder q = none → s.conflicting q x.desc ≠ [] →
          ∃ t : State, exec .tileRequestAnswer s = .next (t.answerTile q [0] false) ∧
            t.tileQ = s.tileQ ++ [{ q with stage := 1 }] ∧ t.mem = s.mem ∧
            ∀ h ∈ s.conflicting q x.desc, h.absent = false → t.recalling h.who h.handle = true) ∧
        (s.acqRefusal q x.desc = none → s.ownHolder q = none → s.conflicting q x.desc = [] →
          s.queuedAhead q.fld q.handle x.desc s.tileQ = false → s.hostHeld q.fld x.desc = [] →
          exec .tileRequestAnswer s = done ((s.dropCopies (s.coreOf q.who) (s.footprint q.fld x.desc)).modBlock q.who
            (fun b => b.setTenure q.handle k false)) [1]) ∧
        (s.acqRefusal q x.desc = none → s.ownHolder q = none →
          s.queuedAhead q.fld q.handle x.desc s.tileQ = true → s.conflicting q x.desc = [] →
          exec .tileRequestAnswer s =
            .next (({ s with tileQ := s.tileQ ++ [{ q with stage := 1 }] } : State).answerTile q [0] false)))) ∧
    (q.kind = .trel → s.ownHolder q = none → (∀ x ∈ s.tileQ, (x.waiting && x.handle == q.handle && x.sameBlock q.who) = false) →
      exec .tileRequestAnswer s = done s []) ∧
    (∀ h, q.kind = .trel → s.ownHolder q = some h →
      ∃ t : State, exec .tileRequestAnswer s = .next t ∧ t.tileIn = s.tileIn ∧ t.mem = s.mem ∧
        (∀ x ∈ t.tileQ, (x.waiting && x.handle == q.handle && x.sameBlock q.who) = false) ∧
        (∀ x ∈ s.tileQ, (x.waiting && x.handle == q.handle && x.sameBlock q.who) = false → x ∈ t.tileQ) ∧
        (h.absent = false → s.recalling h.who h.handle = false →
          t.recalls = s.recalls ++ [⟨h.who, h.handle, false, s.steps⟩])) ∧
    (q.kind = .tfree → (s.tileOf q.fld q.handle).isSome = true → s.holdersOf q.handle ≠ [] →
      ∃ t : State, exec .tileRequestAnswer s = .next t ∧ t.tileIn = s.tileIn ∧ t.mem = s.mem ∧ t.fields = s.fields ∧
        (∀ x ∈ t.tileQ, (x.waiting && x.handle == q.handle) = false) ∧
        (∀ x ∈ s.tileQ, (x.waiting && x.handle == q.handle) = false → x ∈ t.tileQ) ∧
        ∀ h ∈ s.holdersOf q.handle, h.absent = false → s.recalling h.who h.handle = false →
          ⟨h.who, h.handle, true, s.steps⟩ ∈ t.recalls) ∧
    (q.kind = .tfree → s.tileOf q.fld q.handle = none → exec .tileRequestAnswer s = done s []) ∧
    (q.kind = .tfree → (s.tileOf q.fld q.handle).isSome = true → s.holdersOf q.handle = [] →
      (∀ x ∈ s.tileQ, (x.waiting && x.handle == q.handle) = false) →
      exec .tileRequestAnswer s = done (s.fallowTile q.fld q.handle) []) ∧
    (q.kind = .redc → (∀ t, (s.block? q.who).bind (fun b => b.tenure? q.handle) = some t → t.kind ≠ 3) →
      exec .tileRequestAnswer s = done s []) ∧
    (q.kind = .tqry → exec .tileRequestAnswer s = done s [s.tileWord q]) ∧
    ∀ (v : Int) (fin : Bool) (x : Row), s.row? q.who = some x →
      ∃ y : Row, (s.answerTile q [v] fin).row? q.who = some y ∧ (s.answerTile q [v] fin).tileIn = rest ∧
        y.flags = (if fin then (x.flagDown q.flag).flags else x.flags) ∧
        { y with flags := x.flags, busy := x.busy } =
          { wrRow q.gen0 (s.widthOf q.who) x q.group (succReg q.gen0 q.dst 0) v with busy := x.busy } ∧
        y.busy = (x.paid [succReg q.gen0 q.dst 0]).busy) ∧
  ((∀ (s : State) (k : Nat) (q : TileReq), s.tileQ[k]? = some q → (s.block? q.who).isSome = true →
    let d := s.descOf q.fld q.handle
    (q.stage = 1 → s.queuedAhead q.fld q.handle d (s.tileQ.take k) = false → s.conflicting q d = [] →
      s.hostHeld q.fld d = [] →
      exec (.tacqGrant k) s = .next (((s.dropCopies (s.coreOf q.who) (s.footprint q.fld d)).modBlock q.who
        (fun b => b.setTenure q.handle q.acqKind false)).doneQueued k q)) ∧
    (q.stage = 1 → s.queuedAhead q.fld q.handle d (s.tileQ.take k) = true → exec (.tacqGrant k) s = .next s) ∧
    (q.stage = 2 → s.hostHeld q.fld q.desc = [] → exec (.tacqGrant k) s = .next (s.doneQueued k q))) ∧
  (∀ (s : State) (k : Nat) (m : RecallMsg) (g : Gang) (b : Block) (t : Tenure), s.recalls[k]? = some m →
    s.gang? m.who.gid = some g → s.block? m.who = some b → b.tenure? m.handle = some t →
    let ls := s.tileFoot g.fld m.handle
    let fin := fun (u : State) =>
      ({ u.modBlock m.who (fun b => b.setTenure m.handle 0 m.lost) with recalls := dropFirst (· == m) u.recalls } : State)
    (t.kind = 1 → exec (.recall k) s = .next (fin (s.dropCopies b.core ls))) ∧
    (t.kind = 2 → s.blockWrites m.who m.stamp ls = true → exec (.recall k) s = .next s) ∧
    (t.kind = 2 → s.blockWrites m.who m.stamp ls = false → exec (.recall k) s = .next (fin (s.dropCopies b.core ls))) ∧
    (t.kind = 3 → s.flushTurn m = true → s.snoopFirst true (s.partialLines m.who ls) = none →
      exec (.recall k) s = .next (fin (s.flushBlock m.who ls)))) ∧
  (∀ (s : State) (k : Nat) (p : PushMsg), s.pushes[k]? = some p →
    (∀ x ∈ s.pushes.take k, x.line = p.line → x.who ≠ p.who) →
    ∃ t : State, exec (.push k) s = .next t ∧ t.pushes = s.pushes.eraseIdx k ∧ t.mem = s.mem ∧
      ∀ b, s.block? p.who = some b → b.core < s.cores.length → (s.core b.core).order = [] →
        (∀ x ∈ (t.core b.core).l1, x.line = p.line → x.data = s.lineAt p.line) ∧
        (∀ x ∈ (t.die (b.core / 80)).rdc, x.line = p.line → x.data = s.lineAt p.line)) ∧
  ∀ (s : State) (r : RowRef) (line : Loc) (b : Block) (p : Partial),
    s.block? { r with row := 0 } = some b → b.partials.find? (fun x => x.line == line) = some p → line.kind = .hbm →
    line.a % 27 = 0 → Memory.wf s.mem = true → p.words.length = 9 → s.badLine line = false →
    (∀ g, s.gang? r.gid = some g → s.lineOwner line = (g.fld : Int)) → s.cutOff (b.core / 80) line = false →
    s.snoopFirst true (s.partialLines { r with row := 0 } [line]) = none →
    ∃ t : State, exec (.flush r line) s = .next t ∧
      (∀ j < 9, p.ty = 0 → t.wordAt (locAt line (3 * j)) =
        word (wval (s.wordAt (locAt line (3 * j))) + wval (p.words.getD j 0))) ∧
      (∀ l : Loc, lineOf l ≠ line → t.tryteAt l = s.tryteAt l) ∧
      ∀ d, t.block? { r with row := 0 } = some d → ∀ x ∈ d.partials, x.line ≠ line)

/-! ### Matrix unit (17) -/

/-- R299 to R304, R307, R308, Table 17.6: MMA and MMAS post a pass with their operand words into the quad's reservation table,
owe the D group and count on flag B; .r opens a run or continues the open one, and a member without .r closes it. A row of another width, a panel
or scale that is not aligned, and one outside scratch trap. With the table full the row waits. MXREL drops the open run.
R309 to R314, R318: QUANT reads the wide group as it issues, DEQ owes it, and both count on flag B; QCNT waits for the row's
passes, QUANTs and DEQs, and then returns MXST or a counter, clearing it when asked, or removes the row's oldest event.
What the spec leaves to the model here is as log 69, 70 say. -/
def Obligations.MatrixQuantIssue : Prop :=
  (∀ (s : State) (c : Ctx) (f : FF), Issuing s c → rowActs c c.mod.pred = .ok true →
    (∀ q ∈ ([(.mma f, false), (.mmas f, true)] : List (Instr × Bool)),
      let fs := [f.x, f.y] ++ (if q.2 then [f.z] else [])
      Free c false (fs.map src) (f.slot == 0 && (q.2 || f.z == 0) && mmaCtlOk q.2 f.ctl && rowSrcs c fs) { p := true } →
      flagFull c.r c.e.fb = false → uniform c fs = true →
      let opw := rdRow c f.x
      let panel := rdRow c f.y
      let scale := if q.2 then rdRow c f.z else 0
      let w := word opw
      let k := opK w
      let ds := (List.range (mxCols f.ctl)).map (groupField c.gen0 (opDA w))
      let run := c.r.openRun
      let own := match run with
        | some u => aFields u.gen0 u.form u.k u.aa
        | none => aFields c.gen0 (mxForm f.ctl) k (opAA w)
      let sized := c.w = 27 ∧ 0 ≤ opDA w ∧ (run = none → 0 ≤ opAA w) ∧ kOk (mxForm f.ctl) k = true ∧
        (mxHalf f.ctl = true → opPB w = 0) ∧ (mxHalf f.ctl = false → 0 ≤ opPB w ∧ opPB w < c.g.lrec.blks) ∧
        field opw 25 2 = 0 ∧ (q.2 = true → trit scale 26 = 0) ∧ groupFits c (opDA w) (mxCols f.ctl) = true ∧
        (run = none → groupFits c (opAA w) (aRegs (mxForm f.ctl) k) = true) ∧ (∀ d ∈ ds, d ∉ own ∧ d ∉ c.r.locked) ∧
        (∀ u, run = some u → u.form = mxForm f.ctl ∧ u.k = k) ∧
        (mxHalf f.ctl = false → (c.g.block? (opPB w).toNat).isSome = true)
      let inside := fun (a n : Int) => 0 ≤ a ∧ a + n ≤ 3 * (c.g.lrec.scr : Int)
      let sa := scaleA (word scale)
      let sb := scaleB (word scale)
      let aligned := panel % 27 = 0 ∧ (q.2 = true → sa % 27 = 0 ∧ sb % 27 = 0)
      let fits := inside panel (panelTrytes (mxForm f.ctl) k) ∧ (q.2 = true → inside sa k ∧ inside sb k)
      let stops := fun (k : Cause) (a : Int) => exec q.1 s = .next (takeTrap s c ⟨k, some a, none⟩)
      (c.w ≠ 27 → exec q.1 s = .next (takeTrap s c Trap.illmod)) ∧
      (sized → panel % 27 ≠ 0 → stops .align panel) ∧
      (sized → q.2 = true → panel % 27 = 0 → sa % 27 ≠ 0 → stops .align sa) ∧
      (sized → q.2 = true → panel % 27 = 0 → sa % 27 = 0 → sb % 27 ≠ 0 → stops .align sb) ∧
      (sized → aligned → ¬inside panel (panelTrytes (mxForm f.ctl) k) → stops .prot panel) ∧
      (sized → aligned → q.2 = true → inside panel (panelTrytes (mxForm f.ctl) k) → ¬inside sa k → stops .prot sa) ∧
      (sized → aligned → q.2 = true → inside panel (panelTrytes (mxForm f.ctl) k) → inside sa k → ¬inside sb k →
        stops .prot sb) ∧
      (sized → aligned → fits → (∀ d ∈ ds, d ∉ c.r.busy ∧ d ∉ c.r.unread) → (run = none → ∀ a ∈ own, a ∉ c.r.busy) →
        (27 ≤ s.quadPasses (c.core / 4) → exec q.1 s = .next (s.hold c 6)) ∧
        (s.quadPasses (c.core / 4) < 27 →
          ∃ (p : Pass) (runs : List Run),
            exec q.1 s = .next (s.finish c (({ c.r with passes := c.r.passes ++ [p], runs := runs }.owe ds).flagUp c.e.fb)) ∧
            p.scaled = q.2 ∧ p.ctl = f.ctl ∧ p.opw = w ∧ p.panel = word panel ∧ p.scale = word scale ∧ p.flag = c.e.fb ∧
            p.granted = false ∧ p.order = (s.steps, 0) ∧ p.posted = (s.die c.die).cyc ∧
            (∀ u, run = some u → p.run = some u.id ∧ p.aa = u.aa ∧ p.closes = !mxReuse f.ctl ∧
              (mxReuse f.ctl = true → runs = c.r.runs) ∧
              (mxReuse f.ctl = false → ∀ v ∈ runs, v.id = u.id → v.open_ = false)) ∧
            (run = none → p.aa = opAA w ∧ p.closes = false ∧
              (mxReuse f.ctl = false → p.run = none ∧ runs = c.r.runs) ∧
              (mxReuse f.ctl = true → ∃ v : Run, p.run = some v.id ∧ v.open_ = true ∧ v.aa = opAA w ∧ v.k = k ∧
                v.form = mxForm f.ctl ∧ v.holds = [] ∧ runs = c.r.runs ++ [v]))))) ∧
    (Legal c false [] (f.x == 0 && f.y == 0 && f.z == 0 && f.slot == 0 && f.ctl == 0) { p := true } →
      exec (.mxrel f) s = .next (s.finish c { c.r with runs := c.r.runs.filter (fun u => !u.open_) }))) ∧
  (∀ (s : State) (c : Ctx) (f : FF), Issuing s c → rowActs c c.mod.pred = .ok true →
    (Free c false [src f.x, src f.y, src f.z] (f.slot == 0 && quantCtlOk f.ctl && rowSrcs c [f.x, f.y, f.z]) { p := true } →
      flagFull c.r c.e.fb = false → uniform c [f.x, f.y, f.z] = true →
      let opw := rdRow c f.x
      let addr := rdRow c f.y
      let par := rdRow c f.z
      let q := word opw
      let p := word par
      let n := wideRegs f.ctl
      let fs := (List.range n).map (groupField c.gen0 (qReg q))
      let rec_ := fun (wide : List Word) =>
        (⟨f.ctl, q, word addr, p, c.e.fb, s.steps, wide, c.gen0⟩ : QuantOp)
      let inside := fun (a n : Int) => 0 ≤ a ∧ a + n ≤ 3 * (c.g.lrec.scr : Int)
      let sized := c.w = 27 ∧ 0 ≤ qReg q ∧ field opw 21 6 = 0 ∧ field par 18 9 = 0 ∧ scaleOk (qS p) = true ∧
        (qList f.ctl = true → thetaOk (qTheta p) = true) ∧ (qList f.ctl = false → qTheta p = 0 ∧ qOl q = 0)
      (¬sized → exec (.quant f) s = .next (takeTrap s c Trap.illmod) ∧ exec (.deq f) s = .next (takeTrap s c Trap.illmod)) ∧
      (sized → groupFits c (qReg q) n = true → addr % 27 = 0 → (qList f.ctl = true → qOl q % 27 = 0 ∧ inside (qOl q) 243) →
        (inside addr (narrowTrytes f.ctl) →
          ((∀ x ∈ fs, x ∉ c.r.busy) →
            exec (.quant f) s = .next (s.finish c ({ c.r with
              quants := c.r.quants ++ [rec_ (groupVals c.gen0 c.r (qReg q) n)] }.flagUp c.e.fb))) ∧
          ((∀ x ∈ fs, x ∉ c.r.locked ∧ x ∉ c.r.busy ∧ x ∉ c.r.unread) →
            exec (.deq f) s = .next (s.finish c (({ c.r with deqs := c.r.deqs ++ [rec_ []] }.owe fs).flagUp c.e.fb)))) ∧
        (¬inside addr (narrowTrytes f.ctl) →
          exec (.quant f) s = .next (takeTrap s c ⟨.prot, some addr, none⟩) ∧
          exec (.deq f) s = .next (takeTrap s c ⟨.prot, some addr, none⟩)))) ∧
    (Free c false [dst f.x] (f.slot == 0 && f.y == 0 && f.z == 0 && qcntOk f.ctl && scaDst c f.x) { p := true } →
      let i := field f.ctl 0 2
      let clr := trit f.ctl 2 = 1
      let out := fun (r : Row) (v : Int) => wrRow c.gen0 c.w r c.act f.x v
      (c.r.passes ≠ [] ∨ c.r.quants ≠ [] ∨ c.r.deqs ≠ [] → exec (.qcnt f) s = .next (s.hold c 13)) ∧
      (c.r.passes = [] → c.r.quants = [] → c.r.deqs = [] →
        (i = 0 → exec (.qcnt f) s = .next (s.finish c (out (if clr then { c.r with mxst := 0 } else c.r) (wval c.r.mxst)))) ∧
        (i = 1 → exec (.qcnt f) s = .next (s.finish c (out (if clr then { c.r with sat := 0 } else c.r) (wval c.r.sat)))) ∧
        (i = -1 → exec (.qcnt f) s = .next (s.finish c (out (if clr then { c.r with zero := 0 } else c.r) (wval c.r.zero)))) ∧
        (i = 3 → exec (.qcnt f) s = .next (s.finish c (out (if clr then { c.r with ovf := 0 } else c.r) (wval c.r.ovf)))) ∧
        (i = 2 →
          let mine := (s.core c.core).escq.find? (fun e => e.who == c.ref)
          exec (.qcnt f) s = .next ((s.modCore c.core (fun k => { k with
            escq := dropFirst (fun e => e.who == c.ref) k.escq })).finish c
              (out c.r ((mine.map (fun e => wval e.ev)).getD 0)))))))

/-- R303, R305, R307: the arbiter grants the one waiting pass of a quad once its panels are staged and its arrays are free: the
pass holds the A group's values and its run holds the arrays of its first pass; with no pass waiting nothing changes. A run's hold
lapses 729 cycles after its last pass.
R298 to R301, R303: a granted pass writes D and completes. An integer pass adds the products of the A and B rows to
each element and wraps it; a float pass, and a block-scaled one with its scales, round the exact sum once in F27. Its D registers
are owed no more, its flag counts down, and no other register changes.
R312 to R314, R316: QUANT without a list writes to the narrow area, for a finite element x and scale s, the integer nearest
x ÷ s, of two the one of smaller magnitude, saturated; a NaN gives 0 and an infinity the bound; its flag counts down. DEQ writes s × q,
rounded, to the wide group. An escalation event stands at the tail of its core's queue, before one of its own cycle with a
higher %row, or is lost with EL when 27 stand there.
What the spec leaves to the model here is as log 68 says. -/
def Obligations.MatrixUnitResults : Prop :=
  ((∀ (s : State) (quad : Nat), ((s.mxEntries quad).filter (fun e => !e.pass.granted) = [] →
      exec (.matrixArbitrate quad) s = .next s) ∧
    ∀ (e : MxEntry), (s.mxEntries quad).filter (fun e => !e.pass.granted) = [e] →
      (e.staged = false → exec (.matrixArbitrate quad) s = .next s) ∧
      (e.staged = true → (∀ a ∈ s.arrays e.core e.pass, s.arrayFree (s.mxEntries quad) e a = true) →
        s.row? e.ref = some e.row →
        ∃ (t : State) (y : Row), exec (.matrixArbitrate quad) s = .next t ∧ t.row? e.ref = some y ∧
          y.vregs = e.row.vregs ∧ y.pregs = e.row.pregs ∧ t.mem = s.mem ∧
          y.passes = e.row.passes.map (fun x => if x.order = e.pass.order then
            { x with granted := true, aVals := (((e.pass.run.bind (fun i => e.row.runs.find? (fun u => u.id == i))).bind
                (·.latch)).getD
              (groupVals e.pass.gen0 e.row e.pass.aa (aRegs (mxForm e.pass.ctl) (opK e.pass.opw)))) } else x) ∧
          ∀ i u, e.pass.run = some i → e.row.runs.find? (fun u => u.id == i) = some u →
            (e.pass.closes = true → ∀ v ∈ y.runs, v.id ≠ i) ∧
            (e.pass.closes = false → ∀ v ∈ y.runs, v.id = i → ∃ w ∈ e.row.runs, w.id = i ∧
              v.holds = if w.holds = [] then s.arrays e.core e.pass else w.holds))) ∧
  ∀ (s : State) (r : RowRef) (b : Block) (x : Row), s.block? r = some b → s.row? r = some x →
    let cyc := (s.die (b.core / 80)).cyc
    ∃ (t : State) (y : Row), exec (.runHoldLapse r) s = .next t ∧ t.row? r = some y ∧
      y = { x with runs := y.runs } ∧ y.runs.length = x.runs.length ∧
      ∀ j < x.runs.length, ∀ u v, x.runs[j]? = some u → y.runs[j]? = some v →
        v = { u with holds := v.holds } ∧
        v.holds = (if (∀ p ∈ x.passes, p.run ≠ some u.id) ∧ u.last + 729 ≤ cyc then [] else u.holds)) ∧
  (∀ (s : State) (r : RowRef) (b : Block) (x : Row) (p : Pass), s.block? r = some b → s.row? r = some x →
    x.passes.find? (·.granted) = some p → 0 ≤ opDA p.opw →
    27 * ((opDA p.opw).toNat + mxCols p.ctl) ≤ (if p.gen0 then x.pregs.length else x.vregs.length) →
    let d := fun (i j : Nat) => wval (groupVal p.gen0 27 x (opDA p.opw) j i)
    let a := aElem p
    let bb := bElem b (s.blk r (opPB p.opw).toNat) p
    let k := (opK p.opw).toNat
    ∃ (t : State) (y : Row) (z : Nat → Nat → Int × Fx), exec (.passComplete r) s = .next t ∧ t.row? r = some y ∧
      (∀ l, t.tryteAt l = s.tryteAt l) ∧ y.sregs = x.sregs ∧ y.qs = x.qs ∧ y.fx = x.fx ∧
      y.flags = (x.flagDown p.flag).flags ∧ y.busy = (x.paid (dFields p.gen0 p.ctl p.opw)).busy ∧
      y.passes = x.passes.filter (fun q => q.order != p.order) ∧
      (∀ n : Nat, (n < (opDA p.opw).toNat ∨ (opDA p.opw).toNat + mxCols p.ctl ≤ n) → ∀ i < 27,
        y.vreg 27 n i = x.vreg 27 n i ∧ y.preg 27 n i = x.preg 27 n i) ∧
      ∀ i < 27, ∀ j < mxCols p.ctl,
        groupVal p.gen0 27 y (opDA p.opw) j i = word (z i j).1 ∧
        (p.scaled = false → formInt (mxForm p.ctl) = true →
          (z i j).1 = wrapT 27 (d i j + ((List.range k).map (fun n => a i n * bb n j)).sum)) ∧
        (p.scaled = false → formInt (mxForm p.ctl) = false →
          let kd := formFl (mxForm p.ctl)
          (readFl .f27 (d i j)).isFin = true →
          (∀ n < k, (readFl kd (a i n)).isFin = true ∧ (readFl kd (bb n j)).isFin = true) →
          Rounded .f27 ((readFl .f27 (d i j)).rat +
            ((List.range k).map (fun n => (readFl kd (a i n)).rat * (readFl kd (bb n j)).rat)).sum) (z i j)) ∧
        (p.scaled = true →
          let sa := fun (g : Nat) => readFl .f9w (b.tryteAt (scaleA p.scale + 27 * g + i))
          let sb := fun (g : Nat) => readFl .f9w (if j < 27 then b.tryteAt (scaleB p.scale + 27 * g + j)
            else (s.blk r (opPB p.opw).toNat).tryteAt (scaleB p.scale + 27 * g + (j - 27 : Nat)))
          (readFl .f27 (d i j)).isFin = true → (∀ g < k / 27, (sa g).isFin = true ∧ (sb g).isFin = true) →
          Rounded .f27 ((readFl .f27 (d i j)).rat + ((List.range (k / 27)).map (fun g =>
            (sa g).rat * (sb g).rat *
              ((((List.range 27).map (fun n => a i (27 * g + n) * bb (27 * g + n) j)).sum : Int) : Rat))).sum) (z i j))) ∧
  ((∀ (s : State) (r : RowRef) (b : Block) (x : Row) (q : QuantOp) (rest : List QuantOp) (sm se : Int),
    s.block? r = some b → s.row? r = some x → b.retired = false → x.escpol = 0 → x.quants = q :: rest →
    qList q.ctl = false → 0 ≤ wval q.addr → wval q.addr % 27 = 0 → readFl .f9w (qS q.par) = .fin sm se → 0 < sm →
    amWf ((0, .neg) : Word × Trit) b.scratch = true →
    ∃ (t : State) (d : Block) (y : Row) (v : Nat → Nat → Int), exec (.quantComplete r) s = .next t ∧
      t.block? r = some d ∧ t.row? r = some y ∧ (∀ l, t.tryteAt l = s.tryteAt l) ∧
      y.quants = rest ∧ y.flags = (x.flagDown q.flag).flags ∧ y.vregs = x.vregs ∧ y.sregs = x.sregs ∧ y.pregs = x.pregs ∧
      (∀ n : Nat, (3 * (n : Int) < wval q.addr ∨ wval q.addr + narrowTrytes q.ctl ≤ 3 * (n : Int)) → d.word n = b.word n) ∧
      ∀ i < 27, ∀ k < 27,
        let e := readFl (wideFl q.ctl) (wideElem q i k)
        let scale : Rat := sm * (3 : Rat) ^ se
        v i k = (if qT2 q.ctl then t2Elem (d.wordAt (wval q.addr + 6 * i)) (d.wordAt (wval q.addr + 6 * i + 3)) k
          else trit (d.wordAt (wval q.addr + 3 * i)) k) ∧
        (e.isNan = true → v i k = 0) ∧ (∀ n, e = .inf n → v i k = if n then -qMax q.ctl else qMax q.ctl) ∧
        (e.isFin = true → ∃ z : Int, v i k = satT z (-qMax q.ctl) (qMax q.ctl) ∧ 2 * |e.rat - z * scale| ≤ scale ∧
          (2 * |e.rat - z * scale| = scale → |z * scale| ≤ |e.rat|))) ∧
  (∀ (s : State) (r : RowRef) (b : Block) (x : Row) (q : QuantOp) (rest : List QuantOp) (sm se : Int),
    s.block? r = some b → s.row? r = some x → x.deqs = q :: rest → (∀ o ∈ x.quants, q.stamp ≤ o.stamp) →
    x.scrPending q.stamp (q.areas r.blk) = false →
    qList q.ctl = false → 0 ≤ qReg q.opw → readFl .f9w (qS q.par) = .fin sm se →
    27 * ((qReg q.opw).toNat + wideRegs q.ctl) ≤ (if q.gen0 then x.pregs.length else x.vregs.length) →
    ∃ (t : State) (y : Row) (z : Nat → Nat → Int × Fx), exec (.deqComplete r) s = .next t ∧ t.row? r = some y ∧
      (∀ l, t.tryteAt l = s.tryteAt l) ∧ y.deqs = rest ∧ y.flags = (x.flagDown q.flag).flags ∧ y.sregs = x.sregs ∧
      ∀ (i k : Nat), i < 27 → k < 27 →
        let n : Int := if qT2 q.ctl then
            t2Elem (b.wordAt (wval q.addr + 6 * i)) (b.wordAt (wval q.addr + 6 * i + 3)) k
          else trit (b.wordAt (wval q.addr + 3 * i)) k
        Rounded (wideFl q.ctl) (sm * (3 : Rat) ^ se * n) (z i k) ∧
        (if wideFl q.ctl = .f27 then wval (groupVal q.gen0 27 y (qReg q.opw) k i)
          else elem (wval (groupVal q.gen0 27 y (qReg q.opw) (k / 3) i)) 9 (k % 3)) = (z i k).1) ∧
  ∀ (s : State) (core : Nat) (e : EscEvent) (x : Row), s.row? e.who = some x → core < s.cores.length → e.fresh = true →
    let q := (s.core core).escq
    ((∀ y ∈ q, y.cyc ≠ e.cyc ∨ y.row ≤ e.row) →
      (q.length < 27 →
        ((s.raiseEvent core e).core core).escq = q ++ [e] ∧
        (s.raiseEvent core e).row? e.who = some { x with escDue := x.escDue ++ [e.flag] }) ∧
      (q.length = 27 → trit (wval x.mxst) 5 = 0 →
        (s.raiseEvent core e).cores = s.cores ∧
        ∃ y, (s.raiseEvent core e).row? e.who = some y ∧ wval y.mxst = wval x.mxst + 3 ^ 5 ∧ y.vregs = x.vregs ∧
          y.escLost = x.escLost ++ [e.flag])) ∧
    ∀ q' d, q = q' ++ [d] → q.length < 27 → (∀ y ∈ q', y.cyc ≠ e.cyc) → d.cyc = e.cyc → e.row < d.row →
      ((s.raiseEvent core e).core core).escq = q' ++ [e, d])

/-! ### Engines (18) -/

/-- R322: what each engine command's operands must be: its count in range, its addresses aligned to its unit, its scratch ranges inside
one block's scratch, and its list or record inside the block's own.
R321 to R325, R334: CPY, GATH, SCAT, PEER, CHAIN and COLL stand in a slot their kind allows, trap ILLMOD with a count
below 1 or above the bound of Table 18.4, or a participant index outside 0..728, wait while the slot holds 81 entries, and are otherwise accepted at its tail and into its open batch, which the 27th
command closes; they count on flag B, and the scratch words CPY and GATH will write become pending. -/
def Obligations.EngineIssueResults : Prop :=
  (∀ (c : Ctx) (f : FF) (x y z : Int),
    let size : Int := if trit f.ctl 0 = 1 then 27 else 3
    let ssp := trit f.ctl 1 = 1
    let dsp := trit f.ctl 2 = 1
    let al := fun (m : Int) (scr : Prop) (a : Int) => (scr → scrAlign a % m = 0) ∧ (¬scr → a % m = 0)
    let blk := fun (a n : Int) => ∃ k w sub, blockWord c.g c.ref.blk a = some (k, w, sub) ∧
      3 * (w : Int) + (sub : Int) + n ≤ 3 * (c.g.lrec.scr : Int)
    let own := fun (a n : Int) => trit a 26 = 0 ∧ 0 ≤ a ∧ a + n ≤ 3 * (c.g.lrec.scr : Int)
    (cmdChecks c .cpy f x y z = .ok () ↔ (1 ≤ z ∧ z ≤ 531441) ∧ al size dsp x ∧ al size ssp y ∧
      (dsp → blk x (z * size)) ∧ (ssp → blk y (z * size))) ∧
    (cmdChecks c .gath f x y z = .ok () ↔ (1 ≤ z ∧ z ≤ 6561) ∧ al size dsp x ∧ al 3 True y ∧
      (dsp → blk x (z * size)) ∧ own y (3 * z)) ∧
    (cmdChecks c .scat f x y z = .ok () ↔ (1 ≤ z ∧ z ≤ 6561) ∧ al 3 True x ∧ al size ssp y ∧
      own x (3 * z) ∧ (ssp → blk y (z * size))) ∧
    (cmdChecks c .peer f x y z = .ok () ↔ (1 ≤ z ∧ z ≤ 729) ∧ al size False x ∧ al size ssp y ∧ (ssp → blk y (z * size))) ∧
    (cmdChecks c .chain f x y z = .ok () ↔ (1 ≤ z ∧ z ≤ 531441) ∧ al 27 True x ∧ own x 54) ∧
    (cmdChecks c .coll f x y z = .ok () ↔ (0 ≤ y ∧ y ≤ 728) ∧ al 27 False x)) ∧
  (∀ (s : State) (c : Ctx) (f : FF), Issuing s c → rowActs c c.mod.pred = .ok true → flagFull c.r c.e.fb = false →
    ∀ q ∈ ([(.cpy f, .cpy, true, true), (.gath f, .gath, true, true), (.scat f, .scat, true, true),
        (.peer f, .peer, true, true), (.chain f, .chain, false, true), (.coll f, .coll, true, false)] :
        List (Instr × CmdKind × Bool × Bool)),
    let fs := [f.x] ++ (if q.2.2.1 then [f.y] else []) ++ (if q.2.2.2 then [f.z] else [])
    let k := (f.slot + 4).toNat
    let ks : Bool := match q.2.1 with
      | .chain => k == 5 || k == 6
      | .coll => k == 7
      | .peer => k == 8
      | _ => decide (k ≤ 4)
    let x := rdRow c f.x
    let y := if q.2.2.1 then rdRow c f.y else 0
    let z := if q.2.2.2 then rdRow c f.z else 0
    let size : Int := if trit f.ctl 0 = 1 then 27 else 3
    let bound : Int := match q.2.1 with
      | .gath | .scat => 6561
      | .peer => 729
      | _ => 531441
    Free c false (fs.map src) ((q.2.2.1 || f.y == 0) && (q.2.2.2 || f.z == 0) && ks && cmdCtlOk q.2.1 f.ctl && rowSrcs c fs)
      { p := true } →
    uniform c fs = true →
    ((z < 1 ∨ bound < z) → q.2.1 ≠ .coll → exec q.1 s = .next (takeTrap s c ⟨.illmod, some z, none⟩)) ∧
    ((y < 0 ∨ 728 < y) → q.2.1 = .coll → exec q.1 s = .next (takeTrap s c ⟨.illmod, some y, none⟩)) ∧
    (cmdChecks c q.2.1 f x y z = .ok () → 81 ≤ (c.r.slot k).entries.length → exec q.1 s = .next (s.hold c 5 0 f.slot)) ∧
    (cmdChecks c q.2.1 f x y z = .ok () → (c.r.slot k).entries.length < 81 → k < c.r.slots.length →
      ∃ (r : Row) (ws : List (Nat × Nat)) (cmd : Cmd),
        exec q.1 s = .next ((ws.foldl (fun t w => t.scrSet c.ref w.1 w.2 ((t.scrGet c.ref w.1 w.2).1, .zero)) s).finish c r) ∧
        (q.2.1 = .cpy ∨ q.2.1 = .gath →
          ws = if trit f.ctl 2 = 1 then areaWords c.g c.ref.blk x (z * size).toNat else []) ∧
        (q.2.1 = .scat ∨ q.2.1 = .peer ∨ q.2.1 = .coll → ws = []) ∧
        cmd.kind = q.2.1 ∧ cmd.x = word x ∧ cmd.y = word y ∧ cmd.z = word z ∧ cmd.line = (trit f.ctl 0 == 1) ∧
        cmd.ssp = (trit f.ctl 1 == 1) ∧ cmd.dsp = (trit f.ctl 2 == 1) ∧ cmd.ctl = f.ctl ∧ cmd.flag = c.e.fb ∧
        cmd.started = false ∧ cmd.done_ = 0 ∧ cmd.pend = ws ∧ cmd.stamp = s.steps ∧
        (r.slot k).entries = (c.r.slot k).entries ++ [.cmd cmd] ∧ (∀ j, j ≠ k → r.slot j = c.r.slot j) ∧
        ((c.r.slot k).openBatch = none → cmd.batch = c.r.batches ∧ (r.slot k).openBatch = some (cmd.batch, 1)) ∧
        (∀ n m, (c.r.slot k).openBatch = some (n, m) → cmd.batch = n ∧
          (r.slot k).openBatch = if m + 1 = 27 then none else some (n, m + 1)) ∧
        r.flags = (c.r.flagUp c.e.fb).flags ∧ r.vregs = c.r.vregs ∧ r.sregs = c.r.sregs ∧ r.pregs = c.r.pregs))

/-- R321, R333 to R335, R338: QFENCE puts one join at the tail of every slot of its mask; BCLOSE closes their open batches; BWAIT closes them and
waits while a slot has more outstanding batches than its bound, and then gives their sum. A mask with another trit traps ILLMOD.
R323 to R326, R333: a command starts when it is first in its slot and every earlier write of its row has completed; it
then performs its units in ascending order once its die's copy engines have no older command to serve, and when the last is done it leaves its slot and its flag counts down; a unit on the
fault path holds it. GATH, and SCAT to memory, read their lists and CHAIN its record as they start; a word of these that no code
repairs fails the command with DATA, and a record that is not well formed with ILLMOD. A CPY of one line makes the line at the destination that of the source, and
changes no other tryte. A join leaves all its slots when it is first in each.
R327, R330 to R332: a collective waits for its P participants; then, once the sources are read and the destinations can be
written, every destination receives the root's source, all sources in index order, or, for a sum of words, the wrapped sum, and the instance ends with its
last step. A peer's write arrives at its line, or fails there and gives the grid reason 14 where it had none.
What the spec leaves to the model here is as log 34, 35, 71, 78, 107 say. -/
def Obligations.EngineUnitResults : Prop :=
  (∀ (s : State) (c : Ctx) (f : FF), Issuing s c → rowActs c c.mod.pred = .ok true →
    let m := rdRow c f.y
    let ks := (List.range 9).filter (fun i => trit m i == 1)
    let ok := field m 9 18 = 0 ∧ ∀ i < 9, trit m i ≠ -1
    let shut := ks.foldl (fun (r : Row) k => { r with slots := modAt r.slots k (fun x => { x with openBatch := none }) }) c.r
    (Free c false [src f.y] (f.slot == 0 && f.ctl == 0 && f.x == 0 && f.z == 0 && rowSrcs c [f.y]) { p := true } →
      uniform c [f.y] = true →
      (¬ok → exec (.qfence f) s = .next (takeTrap s c ⟨.illmod, some m, none⟩) ∧
        exec (.bclose f) s = .next (takeTrap s c ⟨.illmod, some m, none⟩)) ∧
      (ok → exec (.bclose f) s = .next (s.finish c shut)) ∧
      (ok → (∀ k ∈ ks, (c.r.slot k).entries.length < 81) →
        exec (.qfence f) s = .next (s.finish c (ks.foldl (fun (r : Row) k =>
          { r with slots := modAt r.slots k (fun x => { x with entries := x.entries ++ [.join c.r.joins] }) })
            { c.r with joins := c.r.joins + 1 }))) ∧
      (ok → (∃ k ∈ ks, 81 ≤ (c.r.slot k).entries.length) →
        ∃ k ∈ ks, exec (.qfence f) s = .next (s.hold c 5 0 ((k : Int) - 4)))) ∧
    (Free c false [dst f.x, src f.y, src f.z] (f.slot == 0 && f.ctl == 0 && scaDst c f.x && rowSrcs c [f.y, f.z])
        { p := true } →
      uniform c [f.y, f.z] = true →
      let n := rdRow c f.z
      (ok → ¬(0 ≤ n ∧ n ≤ 81) → exec (.bwait f) s = .next (takeTrap s c ⟨.illmod, some n, none⟩)) ∧
      (ok → 0 ≤ n → n ≤ 81 → (∀ k ∈ ks, ((shut.slot k).outstanding : Int) ≤ n) → c.r.fails = [] → c.r.escDue = [] →
        c.r.escLost = [] →
        exec (.bwait f) s = .next (s.finish c (wrRow c.gen0 c.w shut c.act f.x
          ((ks.map (fun k => ((shut.slot k).outstanding : Int))).sum)))) ∧
      (ok → 0 ≤ n → n ≤ 81 → (∃ k ∈ ks, n < ((shut.slot k).outstanding : Int)) →
        ∃ k ∈ ks, exec (.bwait f) s = .next ((s.modRow c.ref (fun _ => shut)).hold { c with r := shut } 5 0 ((k : Int) - 4))))) ∧
  ((∀ (s : State) (r : RowRef) (k : Nat) (e : Env) (x : Row) (c : Cmd), s.env? r = some e → s.row? r = some x →
    x.headCmd k = some c → c.held = none → c.spill = false →
    (c.started = false → e.g.status = .resident → s.earlierDone e x c.stamp = true →
      (c.kind = .cpy ∨ c.kind = .peer → exec (.commandStart r k) s = .next (s.putCmd r k { c with started := true })) ∧
      (∀ a, s.startBad e c = some a → exec (.commandStart r k) s = .next (s.failCmd r k c .data a 0 0)) ∧
      (c.kind = .scat → c.dsp = false → s.startBad e c = none → exec (.commandStart r k) s = .next (s.putCmd r k { c with
        started := true
        data := (List.range (wval c.z).toNat).map (fun i => (s.scrGet r r.blk ((wval c.x / 3).toNat + i)).1)
        pend := [] })) ∧
      (c.kind = .chain → s.startBad e c = none →
        let d := (List.range 18).map (fun i => (s.scrGet r r.blk ((wval c.x / 3).toNat + i)).1)
        exec (.commandStart r k) s = .next (if recordOk d then s.putCmd r k { c with started := true, data := d ++ [0] }
          else s.failCmd r k c .illmod (wval c.x) 0 0)) ∧
      (c.kind = .gath → s.startBad e c = none → exec (.commandStart r k) s = .next (s.putCmd r k { c with
        started := true
        data := (List.range (wval c.z).toNat).map (fun i => (s.scrGet r r.blk ((wval c.y / 3).toNat + i)).1) }))) ∧
    (c.started = false → s.earlierDone e x c.stamp = false → exec (.commandStart r k) s = .next s) ∧
    (c.started = true → c.kind ≠ .coll → e.g.absent = false → s.olderCopy e c = false →
      ∀ u c', runUnits e ((wval c.z).toNat - c.done_) s c = (u, c', .done) → (c.kind ≠ .chain → c.kind ≠ .peer →
          c'.kind = c.kind → exec (.commandComplete r k) s = .next (u.endCmd r k c'))) ∧
    (c.started = true → s.olderCopy e c = true → exec (.commandComplete r k) s = .next s) ∧
    (c.started = true → c.kind ≠ .coll → e.g.absent = false → s.olderCopy e c = false →
      ∀ u c' va fk lv, runUnits e ((wval c.z).toNat - c.done_) s c = (u, c', .fault va fk lv) →
        exec (.commandComplete r k) s = .next (u.holdCmd e k c' va fk lv))) ∧
  (∀ (s : State) (r : RowRef) (k : Nat) (e : Env) (x : Row) (c : Cmd) (a b : Loc) (t u : State),
    s.env? r = some e → s.row? r = some x → x.headCmd k = some c → c.held = none → c.spill = false → c.started = true →
    e.g.absent = false → s.olderCopy e c = false → c.kind = .cpy → c.line = true → c.ssp = false → c.dsp = false → wval c.z = 1 → c.done_ = 0 →
    s.unitLoc e (wrapT 27 (wval c.y)) { Need.load with len := 27 } = .ok a t → a.kind = .hbm → a.a % 27 = 0 → t.badLine a = false →
    t.cutOff (e.core / 80) a = false → t.snoopFirst false [a] = none →
    (t.l2Request a (e.core / 4) 0).unitLoc e (wrapT 27 (wval c.x)) { Need.store with len := 27 } = .ok b u → b.kind = .hbm → b.a % 27 = 0 →
    u.badWhole b = false → u.cutOff (e.core / 80) b = false → u.snoopFirst true [b] = none → u.partialsOf b = [] →
    Memory.wf s.mem = true →
    ∃ (v : State) (y : Row), exec (.commandComplete r k) s = .next v ∧
      (∀ i < 27, v.tryteAt (locAt b i) = s.tryteAt (locAt a i)) ∧ (∀ l, lineOf l ≠ b → v.tryteAt l = s.tryteAt l) ∧
      v.row? r = some y ∧ y.flags = (x.flagDown c.flag).flags ∧ (y.slot k).entries = (x.slot k).entries.drop 1) ∧
  ∀ (s : State) (r : RowRef) (k i : Nat) (x : Row) (rest : List SlotEntry), s.row? r = some x →
    (x.slot k).entries = .join i :: rest →
    let first := fun (y : EngSlot) => y.entries.head? = some (.join i)
    ((∀ y ∈ x.slots, .join i ∈ y.entries → first y) →
      exec (.joinComplete r k) s = .next (s.modRow r (fun z => { z with slots := z.slots.map (fun y =>
        if first y then { y with entries := y.entries.drop 1 } else y) }))) ∧
    ((∃ y ∈ x.slots, .join i ∈ y.entries ∧ ¬first y) → exec (.joinComplete r k) s = .next s)) ∧
  ((∀ (s : State) (k : Nat) (x : CollInst) (first : Env), s.colls[k]? = some x →
    (x.arrived.head?).bind (fun q => s.env? q.who) = some first →
    let d := x.desc
    let z := collSize (collType d)
    let n := (recW d 1).toNat
    ((x.arrived.length : Int) < recW d 0 → exec (.collInstanceComplete k) s = .next s) ∧
    (s.instanceHeld x = false → recW d 0 ≤ x.arrived.length →
      ∀ srcs u v l w o y, let as := s.members x (recW d 0).toNat
        collReads x (n * z) as s = .ok srcs u →
        collChecks x (if x.kind = 3 then (recW d 0).toNat * n * z else n * z) as u = .ok () v →
        v.unitTarget first (wrapT 27 (wval x.va + 15)) 6 = .ok l w → collOut x.kind d srcs = o → collWrites x o.1 as w = .ok () y →
        exec (.collInstanceComplete k) s = .next (y.endInstance x first (lineOf l) o.2) ∧
        (y.endInstance x first (lineOf l) o.2).colls = dropFirst (· == x) y.colls ∧
        (x.kind = 2 → o.1 = srcs.getD (recW d 3).toNat []) ∧ (x.kind = 3 → o.1 = srcs.flatten) ∧
        (x.kind = 1 → collType d = 0 → collOp d = 1 → srcs ≠ [] → srcs.length ≤ 729 → ∀ e < n,
          trytesVal ((o.1.drop (3 * e)).take 3) =
            wrapT 27 ((srcs.map (fun ts => trytesVal ((ts.drop (3 * e)).take 3))).sum)))) ∧
  ∀ (s : State) (r : RowRef) (x : Row) (p : PeerOut) (rest : List PeerOut), s.row? r = some x → x.peers = p :: rest →
    (p.units = [] → exec (.peerDelivered r true) s = .next (s.modRow r (fun _ => { x with peers := rest }))) ∧
    ∀ (q : PeerUnit) (more : List PeerUnit), p.units = q :: more →
      let left := if more = [] then rest else { p with units := more } :: rest
      let l := q.loc
      (l.kind = .peer → l.a % 27 + q.data.length ≤ 27 → Memory.wf s.peerMem = true → s.partialsOf (lineOf l) = [] →
        ∃ (t : State) (y : Row), exec (.peerDelivered r true) s = .next t ∧ t.row? r = some y ∧ y.peers = left ∧
          (∀ i < q.data.length, t.tryteAt (locAt l i) = q.data.getD i 0) ∧
          (∀ m : Loc, m.kind ≠ .peer ∨ m.a < l.a ∨ l.a + q.data.length ≤ m.a → t.tryteAt m = s.tryteAt m)) ∧
      (∃ (t : State) (y : Row), exec (.peerDelivered r false) s = .next t ∧ t.row? r = some y ∧ y.peers = left ∧
        (∀ m, t.tryteAt m = s.tryteAt m) ∧
        ∀ g h0 h, s.gang? r.gid = some g → s.grids.find? (fun h => h.id == g.grid) = some h0 →
          t.grids.find? (fun h => h.id == g.grid) = some h → h.reason = if h0.reason = 0 then 14 else h0.reason))

/-! ### Privileged instructions (23) -/

/-- R109, R407: on a compute core every privileged instruction traps PROT before any effect.
R228, R408, R409: on the management core REPLAY .tok acts on the entry its token names and writes 1, or 0 without one; .page replays every entry
of the field that holds the address and writes how many; .fail traps the rows of its entry; a replayed entry is free and no row waits under it. TLBI counts on
flag B as it issues; once its release has been met it leaves no cached entry of the field, or none for the address, and once no access under
an old mapping is left it completes.
What the spec leaves to the model here is as log 38, 39 say. -/
def Obligations.PrivilegedResults : Prop :=
  (∀ (s : State) (c : Ctx) (f : FA), Issuing s c → c.core ≠ 960 →
    ∀ q ∈ ([(.replayTok f, true, true), (.replayPage f, true, true), (.replayFail f, true, true), (.tlbiFld f, false, false),
        (.tlbiVa f, false, true), (.ctxs f, true, true), (.ctxsPort f, true, true), (.ctxr f, true, true),
        (.ctxrDrop f, true, false)] : List (Instr × Bool × Bool)),
    let srcs := [f.a] ++ (if q.2.2 then [f.b] else [])
    Legal c false ((if q.2.1 then [dst f.dst] else []) ++ srcs.map src)
      (predOk f.pred && (if q.2.1 then scaDst c f.dst else f.dst == 0) && (q.2.2 || f.b == 0) && rowSrcs c srcs &&
        c.r.pfx.isNone) {} →
    ∃ x : Int, exec q.1 s = .next (takeTrap s c ⟨.prot, some x, none⟩)) ∧
  ((∀ (s : State) (c : Ctx) (f : FA), Issuing s c → c.core = 960 → rowActs c f.pred = .ok true →
    let a := rdRow c f.a
    let b := rdRow c f.b
    (Free c false [dst f.dst, src f.a, src f.b] (predOk f.pred && scaDst c f.dst && rowSrcs c [f.a, f.b] && c.r.pfx.isNone) {} →
      flagFull c.r c.e.fb = false → uniform c [f.a, f.b] = true →
      let done := fun (t : State) (v : Int) =>
        (.next (t.modRow c.ref (fun r => wrRow c.gen0 c.w r c.act f.dst v)) : Host.Outcome State Fault Refusal)
      let good := 0 ≤ a ∧ a ≤ 11 ∧ field b 9 18 = 0
      (¬good → exec (.replayTok f) s = .next (takeTrap s c Trap.illmod) ∧
        exec (.replayFail f) s = .next (takeTrap s c Trap.illmod)) ∧
      (good → s.tokenEntry a.toNat b = none →
        exec (.replayTok f) s = done (s.finish c c.r) 0 ∧ exec (.replayFail f) s = done (s.finish c c.r) 0) ∧
      (∀ w, good → s.tokenEntry a.toNat b = some w →
        exec (.replayTok f) s = done ((s.finish c c.r).replayEntry a.toNat w.idx) 1 ∧
        exec (.replayFail f) s = done ((s.finish c c.r).failEntry a.toNat w.idx) 1) ∧
      (0 ≤ a → a ≤ 11 → exec (.replayPage f) s =
        done ((s.pageEntries a.toNat b).foldl (fun t e => t.replayEntry e.1 e.2) (s.finish c c.r))
          ((s.pageEntries a.toNat b).length : Int))) ∧
    ∀ q ∈ ([(.tlbiFld f, false), (.tlbiVa f, true)] : List (Instr × Bool)),
      let srcs := [f.a] ++ (if q.2 then [f.b] else [])
      Free c false (srcs.map src) (predOk f.pred && f.dst == 0 && (q.2 || f.b == 0) && rowSrcs c srcs && c.r.pfx.isNone) {} →
      flagFull c.r c.e.fb = false → uniform c srcs = true → 0 ≤ a → a ≤ 11 →
      exec q.1 s = .next (s.finish c (({ c.r with
        fifo := c.r.fifo ++ [markEntry s c 4]
        tlbis := c.r.tlbis ++ [(⟨a.toNat, if q.2 then some (word b) else none, c.e.fb, s.steps, none⟩ : TlbiOp)] } : Row).flagUp c.e.fb))) ∧
  (∀ (s : State) (r : RowRef) (g : Gang) (b : Block) (x : Row) (o : TlbiOp) (rest : List TlbiOp), s.gang? r.gid = some g →
    s.block? r = some b → s.row? r = some x → g.absent = false → x.parks = [] → x.rels = [] → x.tlbis = o :: rest →
    (s.releaseMetAt r o.stamp = false → exec (.waitFullRetry r) s = .next s) ∧
    (s.releaseMetAt r o.stamp = true → o.done_ = none →
      ∃ (t : State) (y : Row), exec (.waitFullRetry r) s = .next t ∧ t.row? r = some y ∧ t.mem = s.mem ∧
        y = { x with tlbis := { o with done_ := some s.steps } :: rest } ∧
        let gone := fun (e : TlbEntry) => e.fld = o.fld → ∃ va, o.va = some va ∧ e.unit ≠ unitOf e.level (wval va)
        (∀ k ∈ t.cores, ∀ e ∈ k.tlb, gone e) ∧ (∀ k ∈ t.quadTlb, ∀ e ∈ k.2, gone e) ∧
        (∀ k ∈ t.walker, ∀ e ∈ k.2, gone e)) ∧
    ∀ n, s.releaseMetAt r o.stamp = true → o.done_ = some n →
      (s.usingOld o.fld o.range n = true → exec (.waitFullRetry r) s = .next s) ∧
      (s.usingOld o.fld o.range n = false →
        s.snoopFirst true ((s.movingLines o.fld o.range).filter (fun l => !(s.partialsOf l).isEmpty)) = none →
        ∃ (t : State) (y : Row), exec (.waitFullRetry r) s = .next t ∧ t.row? r = some y ∧ y.tlbis = rest ∧
          y.flags = (x.flagDown o.flag).flags ∧ y.vregs = x.vregs ∧ y.sregs = x.sregs ∧ y.pregs = x.pregs ∧
          (s.movingLines o.fld o.range = [] → t.mem = s.mem))) ∧
  ∀ (s : State) (die : Nat) (i : Int),
    (∀ w ∈ ((s.replayEntry die i).die die).waits, w.idx = i → w.live = false) ∧
    (∀ q ∈ (s.replayEntry die i).allRows, ∀ f, q.2.2.2.fault = some f → (die, i) ∉ f.units) ∧
    (∀ l, (s.replayEntry die i).tryteAt l = s.tryteAt l))

/-- R410 to R412: CTXS writes 0 for a gang that is neither resident nor being placed, or is being saved, −3 for a portable save of a gang of a
larger grid, −1 for an area too short, and otherwise waits for the save with its register owed. CTXR writes −1 for no header, −5 for the
drop of a portable image, −4 for a gang that is resident or being restored; and 1 for the native image of a saved gang, which becomes a candidate, or whose grid the drop ends.
R128, R405, R406, R411, R416: the halt reaches a gang that a CTXS waits on, at once or, for a portable save, when every
row is ready, and each of its rows then has a release at .pkg in its FIFO; one that is not ready after 3^21 cycles runs on, and CTXS writes −2. A halted gang that has drained is saved: its image begins
with MAGIC, the device, its GID, kind and length, no line outside its area changes, and CTXS writes 1; one whose rows have all ended writes 0. A row that has not issued for 3^21 cycles traps STALL.
What the spec leaves to the model here is as log 7, 40, 41, 42, 82, 83, 89, 90 say. -/
def Obligations.ContextResults : Prop :=
  (∀ (s : State) (c : Ctx) (f : FA), Issuing s c → c.core = 960 → rowActs c f.pred = .ok true →
    flagFull c.r c.e.fb = false →
    let a := rdRow c f.a
    let b := rdRow c f.b
    let done := fun (t : State) (v : Int) =>
      (.next (t.modRow c.ref (fun r => wrRow c.gen0 c.w r c.act f.dst v)) : Host.Outcome State Fault Refusal)
    (Free c false [dst f.dst, src f.a, src f.b] (predOk f.pred && scaDst c f.dst && rowSrcs c [f.a, f.b] && c.r.pfx.isNone) {} →
      uniform c [f.a, f.b] = true →
      (∀ q ∈ ([(.ctxs f, false), (.ctxsPort f, true)] : List (Instr × Bool)),
        (s.gang? (word a) = none → exec q.1 s = done (s.finish c c.r) 0) ∧
        (∀ g, s.gang? (word a) = some g →
          let n := if q.2 then portableBound g.lrec else nativeBound g.lrec
          ((g.status ≠ .resident ∧ g.status ≠ .waking) ∨ g.saveTo.isSome = true → exec q.1 s = done (s.finish c c.r) 0) ∧
          (g.status = .resident ∨ g.status = .waking → g.saveTo = none → g.rowsOver = false →
            (q.2 = true → g.lrec.gangs ≠ 1 → exec q.1 s = done (s.finish c c.r) (-3)) ∧
            ((q.2 = true → g.lrec.gangs = 1) → (s.areaLines g.fld b n).length < n →
              exec q.1 s = done (s.finish c c.r) (-1)) ∧
            ((q.2 = true → g.lrec.gangs = 1) → n ≤ (s.areaLines g.fld b n).length →
              exec q.1 s = .next ((s.finish c ((c.r.owe [f.dst]).flagUp c.e.fb)).modGang g.gid (fun x =>
                { x with
                  saveTo := some ⟨c.ref, f.dst, c.e.fb, c.gen0, c.act⟩, saveLine := b.toNat, portHalt := q.2
                  deadline := s.gangCyc g + 3 ^ 21 })))))) ∧
      (s.header a = none → exec (.ctxr f) s = done (s.finish c c.r) (-1)) ∧
      (∀ fl h, s.header a = some (fl, h) →
        (hdrW h 0 ≠ saveMagic → exec (.ctxr f) s = done (s.finish c c.r) (-1)) ∧
        (∀ g, hdrW h 0 = saveMagic → hdrKind h = 0 → hdrW h 5 ≤ (nativeBound (hdrRec h) : Int) →
          h.getD 1 0 = Config.revId → h.getD 2 0 = Config.serial → s.gang? (hdrGid h) = some g →
          (g.status ≠ .saved → exec (.ctxr f) s = done (s.finish c c.r) (-4)) ∧
          ((∀ x ∈ s.gangs, x.gid = hdrGid h → x.status = .saved) → exec (.ctxr f) s =
            done ((s.finish c c.r).modGang (hdrGid h) (fun x =>
              { x with status := .restoring, saveLine := a.toNat, dieMask := word b })) 1)))) ∧
    (Free c false [dst f.dst, src f.a] (predOk f.pred && scaDst c f.dst && f.b == 0 && rowSrcs c [f.a] && c.r.pfx.isNone) {} →
      uniform c [f.a] = true →
      (s.header a = none → exec (.ctxrDrop f) s = done (s.finish c c.r) (-1)) ∧
      (∀ fl h, s.header a = some (fl, h) → hdrW h 0 = saveMagic →
        (hdrKind h = 1 → hdrW h 5 ≤ (portableBound (hdrRec h) : Int) → exec (.ctxrDrop f) s = done (s.finish c c.r) (-5)) ∧
        (∀ g, hdrKind h = 0 → hdrW h 5 ≤ (nativeBound (hdrRec h) : Int) → h.getD 1 0 = Config.revId →
          h.getD 2 0 = Config.serial → s.gang? (hdrGid h) = some g →
          (∀ x ∈ s.gangs, x.gid = hdrGid h → x.status = .saved) → g.gid ≠ c.ref.gid →
          ∃ t : State, exec (.ctxrDrop f) s = done t 1 ∧ t.mem = s.mem ∧
            (∀ d, t.gang? g.gid = some d → d.status = .retiring ∧ ∀ b ∈ d.blocks, b.tenures = []) ∧
            ∀ y, t.grids.find? (fun y => y.id == g.grid) = some y → y.ended = true)))) ∧
  ((∀ (s : State) (g : Gang), s.gang? g.gid = some g →
    (g.status = .resident → g.saveTo.isSome = true → (g.portHalt = true → g.portReady = true) →
      exec (.preemptHalt g.gid) s = .next (s.haltGang g (fun x => { x with status := .halting })) ∧
      (∃ d, (s.haltGang g (fun x => { x with status := .halting })).gang? g.gid = some d ∧
        { d with blocks := g.blocks } = { g with status := .halting }) ∧
      ∀ r x, r.gid = g.gid → s.row? r = some x →
        ∃ y, (s.haltGang g (fun x => { x with status := .halting })).row? r = some y ∧ { y with fifo := x.fifo } = x ∧
          (x.ended = true → y.fifo = x.fifo) ∧
          (x.ended = false → ∃ o : MemOp, y.fifo = x.fifo ++ [o] ∧ o.kind = .mark ∧ o.rel = 4 ∧ o.who.gid = r.gid ∧
            o.who.blk = r.blk ∧ o.who.row = x.row)) ∧
    (g.status = .resident → g.saveTo.isSome = true → g.portHalt = true → g.portReady = false →
      exec (.preemptHalt g.gid) s = .next s ∧
      (g.deadline ≤ s.gangCyc g → exec (.portableHaltTimeout g.gid) s =
        .next ((s.answerSave g (-2)).modGang g.gid (fun x => { x.modRows Row.released with portHalt := false }))) ∧
      (s.gangCyc g < g.deadline → exec (.portableHaltTimeout g.gid) s = .next s)) ∧
    (g.status ≠ .halting → exec (.contextSaveComplete g.gid) s = .next s) ∧
    (g.status = .halting → g.rowsOver = true → g.mgmt = false → exec (.contextSaveComplete g.gid) s =
      .next ((s.answerSave g 0).modGang g.gid (fun x => { x with status := .resident, mgmt := false }))) ∧
    (g.status = .halting → g.rowsOver = false → s.gangDrained g = false → exec (.contextSaveComplete g.gid) s = .next s) ∧
    (g.status = .halting → g.rowsOver = false → s.gangDrained g = true → g.portHalt = false → g.mgmt = false →
      (∀ b ∈ g.blocks, b.partials = []) → s.hostLines = [] → (∀ d ∈ s.dies, d.fallow ≠ 3) → Memory.wf s.mem = true →
      ∃ (t : State) (d : Gang) (n : Nat), exec (.contextSaveComplete g.gid) s = .next t ∧ t.gang? g.gid = some d ∧
        d.status = .saved ∧ d.saveTo = none ∧ 4 ≤ n ∧ n ≤ nativeBound g.lrec ∧
        (∀ l : Loc, (l.kind ≠ .hbm ∨ l.a / 27 ∉ s.areaLines g.fld (g.saveLine : Int) n) → t.tryteAt l = s.tryteAt l) ∧
        ((s.areaLines g.fld (g.saveLine : Int) n).head? = some g.saveLine →
          (t.devLine g.saveLine).take 6 = [word saveMagic, Config.revId, Config.serial, g.gid, 0, word n]))) ∧
  ∀ (s : State) (r : RowRef) (x : Row) (c : Ctx), s.row? r = some x → s.ctxBy r stallHead = some c →
    (x.stall < 3 ^ 21 ∨ c.blocked = true → exec (.stallWatchdogExpiry r) s = .next s) ∧
    (3 ^ 21 ≤ x.stall → c.blocked = false → exec (.stallWatchdogExpiry r) s =
      .next (takeTrap s { c with r := x.giveUp c.e } ⟨.stall, some (stallInfo x c.e), none⟩)))

/-! ### Homes, the host and links (13, 14, 15) -/

/-- R233, R235, R236, R237, R241, R242, R243, 02 R42: the write-back of the line that its set or its slice replaces first leaves
all data as it is, takes the line and its forwarding entry out of L2, and writes the tag of a dirty one: full without C or while it is
failing, zero, the constant of a slot, delta when its words lie within 19682 of each other, else full; a full line gets its 64 bytes,
a delta line its half sector; where no code repairs the group's tag line it stays as it is (log 109). Another line stays, and so does a pinned one. A line that one quad has asked for nine times moves to a
nearer slice; data stay.
R45, R254, R258 to R260, R420, 14 R250: a host read of a line is answered with the line's trits, with poison when it is failing,
and in CXL mode leaves it in the state asked for; the lines of a free channel, and those no route reaches, read as zeros. A host write
makes the line what its bytes decode to, and failing when their check does not agree. The response to a snoop ends it, and the host's
copy with it, and what waited for it and for no other snoop goes on, before anything else reaches the home; where the host was granted the line anew the snoop is repeated. A BIConflict is
acknowledged once no earlier access of its line waits; a host snoop drops the copies of its block.
What the spec leaves to the model here is as log 15, 43, 44, 51, 52, 108, 109, 110, 122 say. -/
def Obligations.HomeHostResults : Prop :=
  (∀ (s : State) (n : Nat),
    (s.l2.find? (fun x => x.line == n) = none →
      exec (.l2WriteBack n) s = .next s ∧ exec (.lineMigrate n) s = .next s) ∧
    ∀ x, s.l2.find? (fun x => x.line == n) = some x →
      let l := lineAddr n
      let ws := lineWords (s.lineAt l)
      ((s.die (n / dieLines)).service = 1 → exec (.l2WriteBack n) s = .next s) ∧
      (s.mayReplace x = false → exec (.l2WriteBack n) s = .next s) ∧
      (s.mayReplace x = true →
        ∃ t : State, exec (.l2WriteBack n) s = .next t ∧ (∀ m, t.tryteAt m = s.tryteAt m) ∧ t.gangs = s.gangs ∧
          (∀ y ∈ t.l2, y.line ≠ n) ∧ (∀ q ∈ t.forwards, q.1 ≠ n) ∧ (x.dirty = false → t.tags = s.tags) ∧
          let key := 256 * hbmDie l.a + x.slice
          let old := s.tagsAt key (groupOf n)
          (x.dirty = true → s.tagLost key (groupOf n) = false → old.group = groupOf n → old.tags.length = 81 → old.consts.length = 3 →
            let g := t.tagLine (groupOf n)
            let tag := g.tags.getD (placeOf n) 0
            let c := x.c = true ∧ l.a ∉ s.failing
            (¬c → tag = 0) ∧
            (c → (∀ w ∈ ws, w = 0) → tag = -1) ∧
            (∀ v k, c → v ≠ 0 → (∀ w ∈ ws, w = v) → old.slotFor v = some k →
              tag = 2 + (k : Int) ∧ g.consts.getD k 0 = v) ∧
            (c → (∃ w ∈ ws, ∃ v ∈ ws, w ≠ v) → (∀ w ∈ ws, ∀ v ∈ ws, wval w - wval v ≤ 19682) → tag = 1) ∧
            (c → (∃ w ∈ ws, ∃ v ∈ ws, 19682 < wval w - wval v) → tag = 0) ∧
            (amWf [] s.sectors = true → l.a ∉ s.failing → t.stored n = if tag = 0 then sectorOf (s.lineAt l)
              else if tag = 1 then halfSectorOf (s.lineAt l) else s.stored n) ∧
            ∀ j, j ≠ placeOf n → g.tags.getD j 0 = old.tags.getD j 0) ∧
          (x.dirty = true → s.tagLost key (groupOf n) = true → t.tags = s.tags ∧ t.tagHits = s.tagHits)) ∧
      (s.migrateTo x = none → exec (.lineMigrate n) s = .next s) ∧
      (∀ k, s.migrateTo x = some k → (∀ y ∈ s.l2, y.line = n → y.slice = x.slice) →
        9 ≤ x.run ∧ k ≠ x.slice ∧ s.marks l = [] ∧ x.quad / 20 = hbmDie l.a ∧
        ∃ t : State, exec (.lineMigrate n) s = .next t ∧ t.l2Find l = some { x with slice := k, run := 0 } ∧
          (∀ m, t.tryteAt m = s.tryteAt m) ∧ t.cores = s.cores)) ∧
  ((∀ (s : State) (n want : Nat), n < 12 * dieLines → want ≤ 2 → s.hostWaits (.read n want) = false →
    let l := lineAddr n
    let free := s.lineOwner l = -1
    let cut := s.hubCut l = true
    ∃ (t : State) (bs : List Nat), exec (.hostLineRead n want) s = .next t ∧ t.gangs = s.gangs ∧
      t.host.reads = s.host.reads ++ [bs] ∧ bs.length = 64 ∧
      (s.needsFill l = false → ∀ m, t.tryteAt m = s.tryteAt m) ∧
      (free ∨ cut → unpackLine bs = List.replicate 27 0) ∧ (¬free → ¬cut → unpackLine bs = t.lineAt l) ∧
      t.host.poison = (if ¬free ∧ (cut ∨ t.badLine l = true) then s.host.poison ++ [n] else s.host.poison) ∧
      (s.host.linkMode = 1 → ¬free → ¬cut → want ≠ 0 → (s.hostEntry l).snoop = 0 →
        (want = 2 → s.needsFill l = false ∧ s.watched l = false) → (t.hostEntry l).st = want)) ∧
  (∀ (s : State) (n : Nat) (bs : List Nat) (inv : Bool), n < 12 * dieLines → bs.length = 64 → (∀ b ∈ bs, b ≤ 255) →
    s.hostWaits (.write n bs inv) = false → s.lineOwner (lineAddr n) ≠ -1 → s.badWhole (lineAddr n) = false →
    Memory.wf s.mem = true →
    ∃ t : State, exec (.hostLineWrite n bs inv) s = .next t ∧
      (s.hubCut (lineAddr n) = true → ∀ m, t.tryteAt m = s.tryteAt m) ∧
      (s.hubCut (lineAddr n) = false → (∀ k < 27, t.tryteAt (locAt (lineAddr n) k) = (unpackLine bs).getD k 0) ∧
        (∀ m, lineOf m ≠ lineAddr n → t.tryteAt m = s.tryteAt m) ∧
        ((lineAddr n).a ∈ t.failing ↔ blockOk bs = false) ∧
        (inv = true → s.host.linkMode = 1 → (t.hostEntry (lineAddr n)).st = 0))) ∧
  (∀ (s : State) (n : Nat), n < 12 * dieLines → s.hostQueue = [] →
    let e := s.hostEntry (lineAddr n)
    (e.snoop = 0 → exec (.backInvalidateSnoopResponse n) s = .next s) ∧
    (e.snoop ≠ 0 → e.again = false →
      ∃ t : State, exec (.backInvalidateSnoopResponse n) s = .next t ∧ (t.hostEntry (lineAddr n)).st = 0 ∧
        (t.hostEntry (lineAddr n)).snoop = 0 ∧ (e.waiting = [] → t.agenda = s.agenda) ∧
        (e.waiting ≠ [] → (∀ w ∈ e.waiting, ∀ x ∈ s.hostLines, x.line ≠ n → x.snoop ≠ 0 → w ∉ x.waiting) →
          t.agenda = e.waiting.map s.resumed ++ .held :: s.agenda) ∧
        (∀ m, t.tryteAt m = s.tryteAt m) ∧ ∀ k, k ≠ n → (t.hostEntry (lineAddr k)).st = (s.hostEntry (lineAddr k)).st ∧
          (t.hostEntry (lineAddr k)).snoop = (s.hostEntry (lineAddr k)).snoop) ∧
    (e.again = true → e.snoop = 1 ∧ e.st ≠ 0 ∨ e.snoop = 2 ∧ e.st = 2 →
      ∃ t : State, exec (.backInvalidateSnoopResponse n) s = .next t ∧ t.agenda = s.agenda ∧
        t.hostEntry (lineAddr n) = { e with again := false, yields := e.yields + 1 }) ∧
    (∃ t : State, exec (.hostBiconflict n) s = .next t ∧ n ∈ t.host.acks ∧ ∀ m, t.tryteAt m = s.tryteAt m)) ∧
  ∀ (s : State) (n : Nat), ∃ t : State, exec (.hostSnoop n) s = .next t ∧ (∀ m, t.tryteAt m = s.tryteAt m) ∧
    (∀ d < 12, ∀ k ∈ (t.die d).rdc, k.line ≠ ⟨.hostLine, 27 * n⟩) ∧ t.gangs = s.gangs)

/-- R247 to R250: an end that is up delivers a flit that passes its check and carries the expected SEQ, ignores a duplicate and its credits, and takes
only the ACK and credits of a null; one that fails is counted and answered with a NAK, and the third failure of one SEQ
retrains the link. A NAK has everything after its ACK sent again. An end sends the first waiting flit that a free replay place and a
credit of its class allow, with the next SEQ, and keeps it for replay; with none it sends a null. A retrained link runs at 64 lanes, or at 32, or fails.
What the spec leaves to the model here is as log 46, 114 say. -/
def Obligations.LinkResults : Prop :=
  ∀ (s : State) (link e : Nat),
    ((link < 72 ∧ link < s.links.length ∧ e < 2) ∨ (72 ≤ link ∧ link < 90 ∧ link - 72 < s.coluri.length ∧ e = 0)) →
    let x := s.linkEnd link e
    (x.state ≠ 1 → (∀ bs, exec (.flitReceive link e bs) s = .next s) ∧ exec (.nullFlitSend link e) s = .next s ∧
      ∀ a, exec (.nakReceive link e a) s = .next s) ∧
    (x.state = 1 →
      (∀ bs, flitOk bs = true → 1 ≤ flitKind bs → flitKind bs ≤ 3 →
        (flitSeq bs = x.expected → ∃ t : State, exec (.flitReceive link e bs) s = .next t ∧
          (t.linkEnd link e).delivered = x.delivered ++ [bs] ∧ (t.linkEnd link e).expected = (x.expected + 1) % 4096 ∧
          (t.linkEnd link e).nakOut = false ∧ (t.linkEnd link e).acked = flitAck bs ∧ t.mem = s.mem ∧ t.gangs = s.gangs) ∧
        (flitSeq bs ≠ x.expected → (x.expected + 4096 - flitSeq bs) % 4096 ≤ 2048 →
          ∃ t : State, exec (.flitReceive link e bs) s = .next t ∧ (t.linkEnd link e).delivered = x.delivered ∧
            (t.linkEnd link e).expected = x.expected ∧ (t.linkEnd link e).sent = x.sent ∧
            (t.linkEnd link e).credits = x.credits)) ∧
      (∀ bs, flitOk bs = true → flitKind bs = 0 → ∃ t : State, exec (.flitReceive link e bs) s = .next t ∧
        (t.linkEnd link e).delivered = x.delivered ∧ (t.linkEnd link e).expected = x.expected ∧
        (t.linkEnd link e).acked = flitAck bs) ∧
      (∀ bs, flitOk bs = false → ∃ t : State, exec (.flitReceive link e bs) s = .next t ∧
        (t.linkEnd link e).delivered = x.delivered ∧
        (x.crce < 9841 → (t.linkEnd link e).crce = x.crce + 1) ∧
        (flitSeq bs ≠ x.expected → x.badRun < 3 → x.nakOut = false →
          (t.linkEnd link e).nakOut = true ∧ (t.linkEnd link e).sent.length = x.sent.length + 1) ∧
        (flitSeq bs = x.expected → x.badSeq = x.expected → 2 ≤ x.badRun → (t.linkEnd link e).state = 0)) ∧
      (∀ a < 4096, ∃ t : State, exec (.nakReceive link e a) s = .next t ∧
        let keep := x.buffer.filter (fun q => decide (2048 ≤ (a + 4096 - q.1) % 4096))
        (t.linkEnd link e).buffer = keep ∧ (t.linkEnd link e).sent = x.sent ++ keep.map (·.2) ∧
        (t.linkEnd link e).acked = a) ∧
      (∀ q, x.nextFlit = some q → ∃ t : State, exec (.nullFlitSend link e) s = .next t ∧
        let y := t.linkEnd link e
        let bs := flitOf x.nextSeq x.ackOut q.kind q.cls q.tag x.creditsOut q.line
        x.buffer.length < 729 ∧ q ∈ x.queue ∧ y.sent = x.sent ++ [bs] ∧ y.buffer = x.buffer ++ [(x.nextSeq, bs)] ∧
        y.nextSeq = (x.nextSeq + 1) % 4096 ∧ y.queue.length + 1 = x.queue.length ∧
        (q.class_ = 0 → 0 < x.credits.1 ∧ y.credits = (x.credits.1 - 1, x.credits.2)) ∧
        (q.class_ ≠ 0 → 0 < x.credits.2 ∧ y.credits = (x.credits.1, x.credits.2 - 1))) ∧
      (x.nextFlit = none → ∃ (t : State) (bs : List Nat), exec (.nullFlitSend link e) s = .next t ∧ (t.linkEnd link e).sent = x.sent ++ [bs] ∧
        bs.length = 64 ∧ flitKind bs = 0 ∧ flitAck bs = (x.expected + 4095) % 4096)) ∧
    (e = 0 → x.state = 0 → x.wid ≠ 0 → ∀ wide narrow, ∃ t : State, exec (.retrainComplete link wide narrow) s = .next t ∧
      let y := t.linkEnd link 0
      (wide = true → x.wid ≠ -1 → y.state = 1 ∧ y.wid = 1) ∧
      ((wide = false ∨ x.wid = -1) → narrow = true → y.state = 1 ∧ y.wid = -1) ∧
      ((wide = false ∨ x.wid = -1) → narrow = false → y.state = -1)) ∧
    (e = 0 → x.state ≠ 0 ∨ x.wid = 0 → ∀ wide narrow, exec (.retrainComplete link wide narrow) s = .next s)

/-! ### Bring-up, trips and firmware (01) -/

/-- R14, R18, R19: a die in no service enters seedling service and runs at 350 MHz; a stack and a link train or fail; the
die is in full service, at 700 MHz, once its stack and every link to the hub or to a die in service are up. A junction trip takes
its die to 350 MHz and a power trip every die, each with one log record, until it is released. A thermal halt stops every
clock, signals the host and ends every resident grid with reason 11. A step that does not apply changes nothing.
What the spec leaves to the model here is as log 33, 60, 62, 63 say. -/
def Obligations.BringupResults : Prop :=
  ∀ (s : State),
    (∀ die : Nat, die < 12 → die < s.dies.length →
      let d := s.die die
      (d.service = 0 → s.halted = false → ∃ t : State, exec (.seedlingEntry die) s = .next t ∧ (t.die die).service = 1 ∧
        t.clock die = 350 ∧ (∀ k, k ≠ die → t.die k = s.die k) ∧ { t with dies := s.dies } = s) ∧
      (d.service ≠ 0 → exec (.seedlingEntry die) s = .next s) ∧
      (∀ ok : Bool, d.hbm = 0 → ∃ t : State, exec (.hbmStackTrained die ok) s = .next t ∧
        t.die die = { d with hbm := if ok then 1 else -1 } ∧ (∀ k, k ≠ die → t.die k = s.die k) ∧ { t with dies := s.dies } = s) ∧
      (∀ ok : Bool, d.hbm ≠ 0 → exec (.hbmStackTrained die ok) s = .next s) ∧
      (d.service = 1 → d.hbm = 1 → (∀ l ∈ dieLinks die, s.linkState l = 1) →
        ∃ t : State, exec (.leaveSeedling die) s = .next t ∧ (t.die die).service = 2 ∧ (∀ m, t.tryteAt m = s.tryteAt m) ∧
          (s.halted = false → s.power = false → d.hot = false → t.clock die = 700) ∧ t.gangs = s.gangs) ∧
      (d.service ≠ 1 ∨ d.hbm ≠ 1 ∨ (∃ l ∈ dieLinks die, (linkDies l).2 = 12 ∧ s.linkState l ≠ 1) →
        exec (.leaveSeedling die) s = .next s) ∧
      (d.hot = true → exec (.junctionTrip die) s = .next s) ∧
      (d.hot = false → ∃ t : State, exec (.junctionTrip die) s = .next t ∧ (s.halted = false → t.clock die = 350) ∧
        (∀ k, k ≠ die → t.die k = s.die k) ∧
        t.host.eloghead + t.host.eloglost = s.host.eloghead + s.host.eloglost + 1) ∧
      (∃ t : State, exec (.tripRelease (some die)) s = .next t ∧ t.die die = { d with hot := false } ∧
        ∀ k, k ≠ die → t.die k = s.die k)) ∧
    exec (.tripRelease none) s = .next { s with power := false } ∧
    (s.power = true → exec .powerTrip s = .next s) ∧
    (s.power = false → ∃ t : State, exec .powerTrip s = .next t ∧ t.dies = s.dies ∧
      (s.halted = false → ∀ die, t.clock die = 350) ∧
      t.host.eloghead + t.host.eloglost = s.host.eloghead + s.host.eloglost + 1) ∧
    (∀ link : Nat, (link < 72 ∧ link < s.links.length) ∨ (72 ≤ link ∧ link < 90 ∧ link - 72 < s.coluri.length) →
      (s.linkEnd link 0).state = 0 → (s.linkEnd link 0).wid = 0 → ∀ lanes : Nat,
      ∃ t : State, exec (.linkTrained link lanes) s = .next t ∧
        (lanes = 64 → (t.linkEnd link 0).state = 1 ∧ (t.linkEnd link 0).wid = 1) ∧
        (lanes = 32 → (t.linkEnd link 0).state = 1 ∧ (t.linkEnd link 0).wid = -1) ∧
        (lanes = 0 → (t.linkEnd link 0).state = -1)) ∧
    (s.halted = true → exec .thermalHalt s = .next s) ∧
    (s.halted = false → ∃ t : State, exec .thermalHalt s = .next t ∧ (∀ die, t.clock die = 0) ∧ t.mem = s.mem ∧
      t.host.signals = s.host.signals + 1 ∧
      t.host.eloghead + t.host.eloglost = s.host.eloghead + s.host.eloglost + 1 ∧
      ∀ n x, s.grids.find? (fun y => y.id == n) = some x → (∃ g ∈ s.gangs, g.grid = n ∧ g.absent = false) →
        (∀ g ∈ t.gangs, g.grid = n → g.status = .retiring) ∧
        ∃ y, t.grids.find? (fun y => y.id == n) = some y ∧ y.ended = true ∧ y.reason = (if x.reason = 0 then 11 else x.reason))

/-- R16, R262, 03 R51: a device reset keeps the fuses, the flash and the host's memory, empties the device, and runs the flash
image if its signature and security version pass, else the device is in recovery; a rewrite of the slot that a reset cuts short leaves
an image that fails. In recovery RECCTL reads +1 while the buffered image is checked; it runs if it passes and is dropped if not. The
portable version never falls. The fused version only rises, and it and the flash change only while a verified image runs; that the
advance goes to the version the host names is the model's choice (log 12). The SPDM responder answers each request with one response
that carries what R262 says; the codes of requests and responses are PRESUMED (log 47).
What the spec leaves to the model here is as log 6, 11, 12, 47, 61 say. -/
def Obligations.FirmwareResults : Prop :=
  ∀ (s : State),
    let vc := fun (image : List Nat) => Max.max s.fw.vc (Config.portableVersion (Config.imageVersion image))
    let passes := fun (image : List Nat) => Config.imageSigned image = true ∧ s.fw.fused ≤ Config.imageVersion image
    (∃ t : State, exec .deviceReset s = .next t ∧ t.fw.flash = s.fw.flash ∧ t.fw.fused = s.fw.fused ∧
      t.hostMem = s.hostMem ∧ t.mem = [] ∧ t.gangs = [] ∧ t.grids = [] ∧ t.fields = State.reset.fields ∧
      t.dies = State.reset.dies ∧ t.quads = State.reset.quads ∧ t.groups = State.reset.groups ∧ t.chans = State.reset.chans ∧
      t.cores.map (·.fused) = s.cores.map (·.fused) ∧ (∀ k ∈ t.cores, k.l1 = [] ∧ k.order = [] ∧ k.tlb = []) ∧
      (s.fw.torn = false → passes s.fw.flash → t.fw.mode = 1 ∧ t.fw.image = s.fw.flash ∧ t.fw.vc = vc s.fw.flash) ∧
      (s.fw.torn = true ∨ ¬passes s.fw.flash → t.fw.mode = -1 ∧ t.fw.image = [] ∧ t.fw.vc = s.fw.vc)) ∧
    (s.fw.mode ≠ -1 → exec .recctlSubmit s = .next s) ∧
    (s.fw.mode = -1 → s.fw.recctl ≠ 1 → exec .recctlSubmit s = .next { s with fw := { s.fw with recctl := 1 } }) ∧
    (s.fw.mode = -1 → s.fw.recctl = 1 → ∃ t : State, exec .recctlSubmit s = .next t ∧ { t with fw := s.fw } = s ∧
      (passes s.fw.buffer → t.fw = { s.fw with mode := 1, image := s.fw.buffer, recctl := 0, vc := vc s.fw.buffer }) ∧
      (¬passes s.fw.buffer → t.fw = { s.fw with buffer := [], recctl := -1 })) ∧
    (∀ v : Nat, exec (.securityVersionAdvance v) s = .next
      (if s.fw.mode = 1 then { s with fw := { s.fw with fused := Max.max s.fw.fused v } } else s)) ∧
    (∀ image : List Nat, exec (.firmwareSlotRewrite image) s = .next
      (if s.fw.mode = 1 then
        { s with fw := if s.fw.rewriting = some image then { s.fw with flash := image, rewriting := none, torn := false }
          else { s.fw with rewriting := some image, torn := true } }
      else s)) ∧
    ∀ q ∈ ([(.getVersion, 0x04, [0x13]), (.getCapabilities, 0x61, [0x02, 0x04, 0x10]),
        (.negotiateAlgorithms, 0x63, [0x1B, 0x12]), (.getDigests, 0x01, Config.sm3 (Config.certChain (Config.sm3 s.fw.image))),
        (.getCertificate 0, 0x02, Config.certChain (Config.sm3 s.fw.image)),
        (.getMeasurements 1, 0x60, 1 :: Config.sm3 Config.romBytes),
        (.getMeasurements 2, 0x60, 2 :: Config.sm3 s.fw.image),
        (.getMeasurements 3, 0x60, 3 :: Config.sm3 Config.translatorBytes)] : List (Instr × Nat × List Nat)) ++
        [1, 26].map (fun k => (.getCertificate k, 0x7F, [])) ++ [0, 4].map (fun k => (.getMeasurements k, 0x7F, [])),
      exec q.1 s = .next { s with host := { s.host with spdm := s.host.spdm ++ [0x13 :: q.2.1 :: q.2.2] } } ∧
      ∀ nonce : List Nat, ∃ sig : List Nat, exec (.challenge nonce) s =
        .next { s with host := { s.host with spdm := s.host.spdm ++ [0x13 :: 0x03 :: (nonce ++ sig)] } }

/-! ### Host registers, keys and functions (03, 04, 15) -/

/-- R253, R261, R263, R73: a write of a command register performs its command; one of a plain register is read back as it was
written where its value is in range, and changes nothing where it is not; a misaligned write, one of a VF that is not enabled and one of a VF outside its block change
nothing. A key is erased, or installed from the fourteen words at KEYADR if its lines can be read and it is in range, else refused with a log
record. A VF without a field is never enabled. The reset of a function clears its registers, ends its load and disarms its queues.
A register is read as 8 bytes, or as its low or high 4, and written as 8.
What the spec leaves to the model here is as log 48, 53, 54, 55 say. -/
def Obligations.HostRegisterResults : Prop :=
  ∀ (s : State),
    (∀ (fn : Int) (off : Nat) (x : Int),
      (off % 8 ≠ 0 ∨ fn < -1 ∨ 127 < fn ∨ s.fnField fn = none ∨ (fn ≠ -1 ∧ 0x100 ≤ off) →
        exec (.hostRegisterWrite fn off x) s = .next s) ∧
      (-1 ≤ fn → fn ≤ 127 → (s.fnField fn).isSome = true → s.host.fns.length = 129 →
        (∃ t : State, exec (.hostRegisterWrite fn 0x50 x) s = .next t ∧ t.hostRegister fn 0x50 = wrapT 27 x) ∧
        (∀ q < 9, exec (.hostRegisterWrite fn (8 * q) x) s = exec (.lqbaseArm fn q (word (wrapT 27 x))) s) ∧
        (field (wrapT 27 x) 0 2 = 1 → exec (.hostRegisterWrite fn 0x58 x) s = exec (.clcmdLoad fn (field (wrapT 27 x) 2 5)) s) ∧
        (field (wrapT 27 x) 0 2 = 3 → exec (.hostRegisterWrite fn 0x58 x) s = exec (.clcmdUnload fn (field (wrapT 27 x) 2 5)) s) ∧
        (field (wrapT 27 x) 0 2 = 0 → exec (.hostRegisterWrite fn 0x58 x) s = .next s))) ∧
    (∀ x : Int,
      let v := wrapT 27 x
      let wr := fun (off : Nat) => exec (.hostRegisterWrite (-1) off x) s
      let reads := fun (off : Nat) (y : Int) => ∃ t : State, wr off = .next t ∧ t.hostRegister (-1) off = y ∧ t.mem = s.mem ∧ t.gangs = s.gangs
      (v = 1 → wr 0x110 = exec .recctlSubmit s) ∧
      (field v 0 2 = 1 → wr 0x140 = exec (.frcmdGrow (field v 2 2) (field v 4 4) (field v 8 5) (field v 13 4)) s) ∧
      (field v 0 2 = 3 → wr 0x140 = exec (.frcmdShrink (field v 2 2) (field v 4 4) (field v 8 5) (field v 13 4)) s) ∧
      (field v 8 2 = 1 → wr 0x130 = exec (.keycmdInstall (field v 0 4) (field v 4 4)) s) ∧
      (field v 8 2 = 3 → wr 0x130 = exec (.keycmdErase (field v 0 4) (field v 4 4)) s) ∧
      (0 ≤ field v 0 4 → field v 0 4 ≤ 11 → reads 0x100 (field v 0 4)) ∧
      (field v 0 4 < 0 ∨ 11 < field v 0 4 → wr 0x100 = .next s) ∧
      (trit v 0 ≠ -1 → reads 0x118 (trit v 0)) ∧ (trit v 0 = -1 → wr 0x118 = .next s) ∧
      (1 ≤ v → v ≤ 242 → reads 0x120 v) ∧ (v < 1 ∨ 242 < v → wr 0x120 = .next s) ∧
      reads 0x138 v ∧ reads 0x168 v ∧
      (∀ f < 12, f < s.fields.length →
        (0 ≤ v → v ≤ 3 ^ 18 → reads (0x200 + 8 * f) v) ∧ (v < 0 ∨ 3 ^ 18 < v → wr (0x200 + 8 * f) = .next s) ∧
        reads (0x280 + 8 * f) v ∧ ((∃ g ∈ s.gangs, g.fld = f) → wr (0x300 + 8 * f) = .next s ∧ wr (0x380 + 8 * f) = .next s)) ∧
      (∀ k < 128, k < s.host.vffield.length → s.host.vfon.getD k false = false → -1 ≤ field v 0 4 → field v 0 4 ≤ 11 →
        reads (0x400 + 8 * k) (field v 0 4)) ∧
      (∀ k < 128, s.host.vfon.getD k false = true → wr (0x400 + 8 * k) = .next s) ∧
      (∀ k < 27, k < s.host.windows.length → 0 ≤ v → v < 2 ^ 40 → reads (0x800 + 24 * k) v ∧ reads (0x808 + 24 * k) v) ∧
      (∀ k < 12, k < s.host.cecnt.length → v = 0 → reads (0xC00 + 8 * k) 0) ∧
      (∀ l < 72, l < s.links.length → ∀ e < 2, v = 0 → ∃ t : State, wr (0x1000 + 16 * l + 8 * e) = .next t ∧
        t.linkEnd l e = { s.linkEnd l e with crce := 0, rply := 0, retr := 0 })) ∧
    (∀ (f k : Nat), f < 12 → k ≤ 26 → f < s.fields.length →
      let keyed := fun (t : State) (ws : Option (List Word)) =>
        (t.fieldSt f).keys.find? (fun q => q.1 == k) = ws.map (fun w => (k, w)) ∧
        (∀ j, j ≠ k → (t.fieldSt f).keys.find? (fun q => q.1 == j) = (s.fieldSt f).keys.find? (fun q => q.1 == j)) ∧
        (∀ g, g ≠ f → t.fieldSt g = s.fieldSt g) ∧ t.mem = s.mem
      (∃ t : State, exec (.keycmdErase f k) s = .next t ∧ keyed t none) ∧
      (∀ m : Nat, wval s.host.keyadr = (m : Int) → hbmExists (27 * m) = true → hbmExists (27 * (m + 1)) = true →
        s.lineOwner ⟨.hbm, 27 * m⟩ = (f : Int) → s.lineOwner ⟨.hbm, 27 * (m + 1)⟩ = (f : Int) →
        s.badLine ⟨.hbm, 27 * m⟩ = false → s.badLine ⟨.hbm, 27 * (m + 1)⟩ = false →
        s.hubCut ⟨.hbm, 27 * m⟩ = false → s.hubCut ⟨.hbm, 27 * (m + 1)⟩ = false →
        s.snoopFirst false [⟨.hbm, 27 * m⟩, ⟨.hbm, 27 * (m + 1)⟩] = none →
        let ws := (s.devLine m ++ s.devLine (m + 1)).take 14
        ((value256 (ws.take 7)).isSome = true → (value256 (ws.drop 7)).isSome = true →
          ∃ t : State, exec (.keycmdInstall f k) s = .next t ∧ keyed t (some ws)) ∧
        (value256 (ws.take 7) = none ∨ value256 (ws.drop 7) = none →
          ∃ t : State, exec (.keycmdInstall f k) s = .next t ∧ t.fields = s.fields ∧
            t.host.eloghead + t.host.eloglost = s.host.eloghead + s.host.eloglost + 1))) ∧
    (∀ vf < 128, vf < s.host.vfon.length →
      (s.host.vffield.getD vf (-1) = -1 → exec (.sriovVfEnable vf true) s = .next s) ∧
      (∀ on : Bool, (on = true → s.host.vffield.getD vf (-1) ≠ -1) →
        exec (.sriovVfEnable vf on) s = .next { s with host := { s.host with vfon := s.host.vfon.set vf on } }) ∧
      (vf + 1 < s.host.fns.length → s.resetAwait vf = none →
        ∃ t : State, exec (.functionLevelReset vf) s = .next t ∧ t.fnRegs vf = ⟨0, 0, false, 0, none⟩ ∧
          (∀ g, g ≠ (vf : Int) → -1 ≤ g → t.fnRegs g = s.fnRegs g) ∧
          (∀ f < 12, ∀ q < 9, (s.queue f q).by_ = (vf : Int) → (s.queue f q).st = 1 → (t.queue f q).st = 0 ∧ (t.queue f q).base = 0) ∧
          ∀ f slot base, (s.fnRegs vf).loading = some (f, slot, base) → t.slot? f slot = none)) ∧
    (∀ (fn : Int) (off : Nat), off < bar4 → off % 8 = 0 →
      s.hostRead fn off 8 = (s.hostRegister fn off % 2 ^ 64).toNat ∧ s.hostRead fn off 4 = s.hostRead fn off 8 % 2 ^ 32 ∧
      s.hostRead fn (off + 4) 4 = s.hostRead fn off 8 / 2 ^ 32) ∧
    (∀ (fn : Int) (off size : Nat) (x : Int), off < bar4 → size ≠ 8 → s.hostWrite fn off size x = s) ∧
    exec .hostLinkRetrain s = .next { s with host := { s.host with linkHalf := true } }

/-! ### Code objects and queues (03, 04) -/

/-- R52, R53, R55: CLCMD LOAD takes an empty slot to loading, refuses one that is not empty with −6, and raises OVR while a request of its
function is in progress. The copy is checked: −8 when it cannot be read, else −1 to −5 by the first check that fails, the slot empty again; or the
slot is loaded with the portable code as generation 0. UNLOAD empties a loaded slot, makes it fallow while a gang of it is left, and refuses any other with
−7. An installed translation is the slot's newest generation, under a value no code or map still holds, with a greater issue count; with all 26 values
held, or for a translation whose maps do not list its SAFE words, nothing changes.
R66: a write of a queue's address to LQBASE arms it with its header's capacity, priority, mode and HEAD; it faults the queue with cause 3 for an address that
is not line-aligned, 2 for a header that cannot be read and 1 for one out of range. A write of 0 disarms it: its records proceed, no longer armed, but for those
that now fit no cores, which are refused (R64).
What the spec leaves to the model here is as log 11, 79, 80, 81, 100, 102, 112, 115 say. -/
def Obligations.CodeQueueResults : Prop :=
  (∀ (s : State) (fn : Int), -1 ≤ fn → (fn + 1).toNat < s.host.fns.length →
    (∀ slot : Int,
      (s.fnField fn = none → exec (.clcmdLoad fn slot) s = .next s ∧ exec (.clcmdUnload fn slot) s = .next s) ∧
      ∀ f, s.fnField fn = some f → f < s.fields.length →
        ((s.fnRegs fn).loading.isSome = true → ∀ i ∈ [Instr.clcmdLoad fn slot, .clcmdUnload fn slot],
          ∃ t : State, exec i s = .next t ∧ t.fnRegs fn = { s.fnRegs fn with ovr := true } ∧ t.fields = s.fields) ∧
        ((s.fnRegs fn).loading = none →
          (s.slotState f slot ≠ 0 → ∃ t : State, exec (.clcmdLoad fn slot) s = .next t ∧ t.fields = s.fields ∧
            (t.fnRegs fn).st = -6 ∧ (t.fnRegs fn).slot = slot) ∧
          (s.slotState f slot = 0 → ∃ t : State, exec (.clcmdLoad fn slot) s = .next t ∧ t.slotState f slot = 1 ∧
            t.fnRegs fn = { s.fnRegs fn with st := 1, slot := slot, loading := some (f, slot, (s.fnRegs fn).clbase) } ∧
            (∀ g n, (g, n) ≠ (f, slot) → t.slot? g n = s.slot? g n)) ∧
          (s.slotState f slot ≠ 2 → ∃ t : State, exec (.clcmdUnload fn slot) s = .next t ∧ t.fields = s.fields ∧
            (t.fnRegs fn).st = -7) ∧
          (s.slotState f slot = 2 → (∃ g ∈ s.gangs, g.fld = f ∧ g.lrec.slot = slot) →
            ∃ t : State, exec (.clcmdUnload fn slot) s = .next t ∧ t.slotState f slot = 3 ∧ (t.fnRegs fn).st = 4) ∧
          (s.slotState f slot = 2 → (∀ g ∈ s.gangs, g.fld = f → g.lrec.slot ≠ slot) →
            ∃ t : State, exec (.clcmdUnload fn slot) s = .next t ∧ t.slot? f slot = none ∧ (t.fnRegs fn).st = 3))) ∧
    ((s.fnRegs fn).loading = none → exec (.codeObjectLoadComplete fn) s = .next s) ∧
    (∀ f slot base, (s.fnRegs fn).loading = some (f, slot, base) → f < s.fields.length →
      s.snoopFirst false (s.loaderNeeds f (wval base)) = none →
      ∃ t : State, exec (.codeObjectLoadComplete fn) s = .next t ∧ (t.fnRegs fn).loading = none ∧ (t.fnRegs fn).slot = slot ∧
        t.mem = s.mem ∧ t.gangs = s.gangs ∧
        (s.copyObject f (wval base) = none → (t.fnRegs fn).st = -8 ∧ t.slot? f slot = none) ∧
        ∀ ws, s.copyObject f (wval base) = some ws →
          let vc := s.fw.vc
          let x := s.fieldSt f
          let w := objW ws
          let versioned := 1 ≤ w 1 ∧ vc - 4 ≤ w 1 ∧ w 1 ≤ vc
          (t.fnRegs fn).st =
            (if w 0 ≠ 2859599056870 then -1
              else if ¬versioned then -2
              else if w 2 < wval x.minver then -3
              else if objSigned x ws = false then -4
              else if objFormed ws = false then -5
              else 2) ∧
          ((t.fnRegs fn).st ≠ 2 → t.slot? f slot = none) ∧
          ((t.fnRegs fn).st = 2 → ∃ sl g, t.slot? f slot = some sl ∧ sl.state = 2 ∧ sl.words = ws ∧ sl.gens = [g] ∧ g.gen = 0 ∧
            g.tr.words = ws ∧ g.tr.funcs = objFuncs ws)) ∧
    ∀ (f : Nat) (slot : Int) (tr : Translation), f < s.fields.length →
      (translationOk tr = false → exec (.translationInstall f slot tr) s = .next s) ∧
      ((∀ sl, s.slot? f slot = some sl → sl.state ≠ 2) → exec (.translationInstall f slot tr) s = .next s) ∧
      ∀ sl, s.slot? f slot = some sl → sl.state = 2 → sl.slot = slot → |sl.current| ≤ 13 →
        ((∀ v : Int, v ≠ 0 → |v| ≤ 13 → v ∈ sl.gens.map (·.gen)) → exec (.translationInstall f slot tr) s = .next s) ∧
        (∀ v : Int, translationOk tr = true → v ≠ 0 → |v| ≤ 13 → v ∉ sl.gens.map (·.gen) →
          ∃ (t : State) (d : Slot) (g : Gener), exec (.translationInstall f slot tr) s = .next t ∧ t.slot? f slot = some d ∧
            d.current = g.gen ∧ t.gener? f slot g.gen = some g ∧ g.tr = tr ∧ g.gen ≠ 0 ∧ |g.gen| ≤ 13 ∧
            g.gen ∉ sl.gens.map (·.gen) ∧ g.count = (s.fieldSt f).issueCount + 1 ∧ (t.fieldSt f).issueCount = g.count ∧
            t.gangs = s.gangs ∧ t.mem = s.mem)) ∧
  (∀ (s : State) (fn : Int) (q f : Nat), q < 9 → s.fnField fn = some f → f < s.fields.length → q < (s.fieldSt f).queues.length →
    ((∀ a, s.fieldAwait a f [] (s.disarmAddrs f q) = none) → ∀ i ∈ [Instr.lqbaseDisarm fn q, .lqbaseArm fn q 0], ∃ t : State, exec i s = .next t ∧ (t.queue f q).st = 0 ∧
      (t.queue f q).base = 0 ∧ (∀ x ∈ t.grids, x.fld = f → x.q = q → (s.queue f q).st = 1 → x.armed = false) ∧
      (∀ x ∈ s.unfit f q, ∀ y ∈ t.grids, y.id ≠ x.id) ∧
      (∀ g k, (g, k) ≠ (f, q) → t.queue g k = s.queue g k) ∧ t.gangs.map (·.gid) = s.gangs.map (·.gid)) ∧
    (∀ base : Word, base ≠ 0 → (s.queue f q).st ≠ 1 → (∀ a, s.fieldAwait a f [wval base] [] = none) →
      ∃ t : State, exec (.lqbaseArm fn q base) s = .next t ∧ (t.queue f q).base = base ∧ (t.queue f q).by_ = fn ∧
        t.grids = s.grids ∧ t.mem = s.mem ∧ (∀ g k, (g, k) ≠ (f, q) → t.queue g k = s.queue g k) ∧
        let failed := fun (cause : Int) => (t.queue f q).st = -1 ∧ (t.fieldSt f).fcause = cause ∧ (t.fieldSt f).fq = (q : Int)
        (wval base % 27 ≠ 0 → failed 3) ∧
        (wval base % 27 = 0 → s.fieldWords f (wval base) 9 = none → failed 2) ∧
        ∀ ws, wval base % 27 = 0 → s.fieldWords f (wval base) 9 = some ws →
          let w := fun (k : Nat) => wval (ws.getD k 0)
          let ok := 1 ≤ w 2 ∧ w 2 ≤ 729 ∧ -1 ≤ w 3 ∧ w 3 ≤ 1 ∧ (w 4 = 0 ∨ w 4 = 1) ∧ w 5 = 0 ∧ w 6 = 0 ∧ w 7 = 0 ∧ w 8 = 0
          (¬ok → failed 1) ∧
          (ok → (t.queue f q).st = 1 ∧ ((t.queue f q).cap : Int) = w 2 ∧ (t.queue f q).prio = w 3 ∧ (t.queue f q).mode = w 4 ∧
            (t.queue f q).head = ws.getD 1 0)) ∧
    ∀ k : Nat, 9 ≤ k → exec (.lqbaseDisarm fn k) s = .next s)

/-! ### The sower and retirement (04, 05, 26) -/

/-- R64, R67, R69: the sower takes the next record of an armed queue that shows one, fewer than 27 of whose records wait: HEAD advances, and STAT
is +1 with the record now known by its words, or −1 with the first reason of Table 4.8 and DONE counted. An occupancy outside 0 to CAP
faults the queue with cause 4, a record that cannot be read with cause 5. A queue that a fault disarms refuses its taken records that now fit no cores. A dependence is met once its
event word is at least its target; one that cannot be read refuses the record with reason 8.
What the spec leaves to the model here is as log 84, 117 say. -/
def Obligations.SowerResults : Prop :=
  (∀ (s : State) (f q : Nat),
    let x := s.queue f q
    (x.st ≠ 1 → exec (.sowerTakeRecords f q) s = .next s) ∧
    ((∀ a, s.fieldAwait a f [wval x.base] [] = none) → s.fieldLine f (wval x.base) Need.load = none →
      exec (.sowerTakeRecords f q) s = .next s) ∧
    ∀ line, x.st = 1 → s.fieldLine f (wval x.base) Need.load = some line → (∀ a, s.fieldAwait a f [wval x.base] [] = none) →
      let occ := wrapT 27 (wval (s.wordAt line) - wval x.head)
      let failed := fun (t : State) (cause : Int) => (t.queue f q).st = -1 ∧ (t.fieldSt f).fcause = cause ∧
        (t.fieldSt f).fq = (q : Int) ∧ (∀ y ∈ s.unfit f q, ∀ z ∈ t.grids, z.id ≠ y.id) ∧
        (s.unfit f q = [] → t.mem = s.mem ∧
          t.grids = s.grids.map (fun (y : Grid) => if y.fld = f ∧ y.q = q then { y with armed := false } else y))
      let free := ∀ a, s.fieldAwait a f [] (s.disarmAddrs f q) = none
      (occ < 0 ∨ (x.cap : Int) < occ → free → ∃ t : State, exec (.sowerTakeRecords f q) s = .next t ∧ failed t 4) ∧
      (occ = 0 ∨ 27 ≤ s.pendingRecords f q → 0 ≤ occ → occ ≤ x.cap → exec (.sowerTakeRecords f q) s = .next s) ∧
      (0 < occ → occ ≤ x.cap → s.pendingRecords f q < 27 →
        let va := slotVa x (wval x.head)
        (∀ a, s.fieldAwait a f [va, wrapT 27 (va + 27)] [] = none) →
        (s.fieldWords f va 18 = none → free → ∃ t : State, exec (.sowerTakeRecords f q) s = .next t ∧ failed t 5) ∧
        ∀ ws, s.fieldWords f va 18 = some ws →
          (∀ a, s.fieldAwait a f (LaunchRec.constVas ⟨ws⟩) (wrapT 27 (wval x.base + 3) :: refusalAddrs va ⟨ws⟩) = none) →
          (∀ a, s.tablesAwait a f (LaunchRec.depVas ⟨ws⟩) = none) →
          ∃ t : State, exec (.sowerTakeRecords f q) s = .next t ∧ (t.queue f q).head = word (wval x.head + 1) ∧
            (s.slotState f (LaunchRec.slot ⟨ws⟩) ≠ 2 → s.refusal f ⟨ws⟩ = 1) ∧
            (s.refusal f ⟨ws⟩ ≠ 0 → t.grids = s.grids ∧
              t = ((s.statPut f va (-1) (s.refusal f ⟨ws⟩)).advanceHead f q).bumpDone f (LaunchRec.w ⟨ws⟩ 7)) ∧
            (s.refusal f ⟨ws⟩ = 0 → ∃ g : Grid, t.grids = s.grids ++ [g] ∧ g.lrec = ⟨ws⟩ ∧ g.fld = f ∧ g.q = q ∧
              g.prio = x.prio ∧ g.recAddr = word va ∧ g.placed = 0 ∧ g.finished = 0 ∧ g.ended = false ∧ g.armed = true ∧
              g.deps = [9, 11, 13].map (fun k => LaunchRec.w ⟨ws⟩ k == 0) ∧ (∀ y ∈ s.grids, y.id < g.id) ∧
              t = (({ s with grids := s.grids ++ [g] } : State).statPut f va 1 0).advanceHead f q))) ∧
  ∀ (s : State) (f k d : Nat) (x : Grid), s.grids.find? (fun y => y.id == k && y.fld == f) = some x →
    (x.deps.getD d true = true ∨ x.placed ≠ 0 → exec (.dependenceMet f k d) s = .next s) ∧
    (x.deps.getD d true = false → x.placed = 0 →
      let va := x.lrec.w (9 + 2 * d)
      (∀ a, s.fieldAwait a f [va] [] = none) →
      (∀ line, s.fieldLine f va Need.load = some line →
        let e := wval (s.wordAt (locAt line (va % 27).toNat))
        (e < x.lrec.w (10 + 2 * d) → exec (.dependenceMet f k d) s = .next s) ∧
        (x.lrec.w (10 + 2 * d) ≤ e →
          exec (.dependenceMet f k d) s = .next (s.modGrid k (fun y => { y with deps := y.deps.set d true })))) ∧
      (s.fieldLine f va Need.load = none → (∀ a, s.fieldAwait a f [] (refusalAddrs (wval x.recAddr) x.lrec) = none) →
        exec (.dependenceMet f k d) s = .next (s.refuseGrid x 8) ∧ ∀ y ∈ (s.refuseGrid x 8).grids, y.id ≠ x.id))

/-- R71, R85, R87, R89, R412, R413: the sower places the first candidate that fits: a record's next gang stands, fresh, on
the first set of cores that pass, its private words zero, or a saved gang stands there with its registers as they were, once partials and stores on the L1 lines that it takes are done (R84); a set with a
fallow die is taken at once and its gang is ready when the die has been woken. The management core is told (23 R403). Without a candidate the field has no head, and one that fits nowhere becomes the head. 81 µs later the head's target is barred to the others.
R74, R75: a die in service that has been idle for 81 µs enters the deepest fallow state whose exit latency every owner
tolerates: 2, 40 or 1500 µs for F1, F2 and F3. A die that is woken is active again, what waited for it goes on, and a gang that waited
for its last sleeping die is ready (05 R88).
What the spec leaves to the model here is as log 17, 33, 83, 85, 86, 87, 111, 123 say. -/
def Obligations.PlacementFallowResults : Prop :=
  (∀ (s : State) (f : Nat),
    (s.candidates f = [] → exec (.sowerSchedule f) s = .next (s.modField f (fun x => { x with head := none }))) ∧
    (∀ (c : Cand) (rest : List Cand), s.candidates f = c :: rest →
      let u := s.keepTarget f (s.candidates f)
      let sets := (s.coreSets c.dieOk (s.passes c.fld c.lrec) c.lrec).filter (fun x => x.cores.all (fun k => !u.barredTo c k))
      ((∀ h, (s.fieldSt f).head = some h → h.target ≠ [] ∧ ∀ k ∈ h.target, s.usable f k = true) → u = s) ∧
      (∀ h k, (s.fieldSt c.fld).head = some h → c.isHead h = false → c.rank ≤ h.rank → h.since + 81000 ≤ s.now → k ∈ h.target →
        s.barredTo c k = true) ∧
      (sets = [] → rest = [] → exec (.sowerSchedule f) s = .next (u.setHead f (some c))) ∧
      ∀ x xs, sets = x :: xs → s.clearWay c.lrec x.cores = none →
        (∀ k ∈ x.cores, s.passes c.fld c.lrec k = true) ∧
        let ready := (if ∀ k ∈ x.cores, (s.die (k / 80)).fallow = 0 then GangState.resident else .waking)
        (∀ y rs, c = .launch y → s.gangRanges y.fld y.lrec = some rs → s.snoopFirst true (rangeLocs rs) = none → y.placed ≠ 0 →
          Memory.wf s.mem = true →
          ∃ (t : State) (g : Gang), exec (.sowerSchedule f) s = .next t ∧ t.gangs.map (·.gid) = s.gangs.map (·.gid) ++ [g.gid] ∧
            g ∈ t.gangs ∧ (rangeLocs rs = [] → t.gangs = s.gangs ++ [g] ∧ t.mem = s.mem) ∧
            (∀ l ∈ rangeLocs rs, ∀ n < 27, t.tryteAt (locAt l n) = 0) ∧ g.fld = y.fld ∧
            g.grid = y.id ∧ g.index = y.placed ∧ g.lrec = y.lrec ∧ g.consts = y.consts ∧ g.status = ready ∧
            g.blocks.map (·.core) = x.cores ∧ t.reports = s.reports ++ [(1, g.gid)] ∧
            (∀ k ∈ x.cores, k / 80 < s.dies.length → (s.die (k / 80)).fallow ≠ 0 → (t.die (k / 80)).waking = true) ∧
            (∀ z, s.grids.find? (fun z => z.id == y.id) = some z →
              ∃ z', t.grids.find? (fun z => z.id == y.id) = some z' ∧ z'.placed = z.placed + 1) ∧
            ∀ b ∈ g.blocks, b.scratch = [] ∧ b.rows.length = y.lrec.rows ∧
              (∀ n < 9, b.bars[n]? = some ⟨y.lrec.rows * y.lrec.blks, 0, 0⟩) ∧
              ∀ r ∈ b.rows, r.pct.map (fun e => (e.addr, e.threads)) = [(s.entryPoint y.fld y.lrec, List.range y.lrec.width)] ∧
                (∀ w ∈ r.sregs ++ r.vregs, w = 0) ∧ r.ended = false) ∧
        (∀ g, c = .saved g → g.portHalt = false →
          ∃ (t : State) (d : Gang), exec (.sowerSchedule f) s = .next t ∧ t.gang? g.gid = some d ∧ d.status = ready ∧
            t.reports = s.reports ++ [(2, g.gid)] ∧
            ∀ n b b0, d.blocks[n]? = some b → g.blocks[n]? = some b0 → b.core = x.cores.getD n 0 ∧
              b.rows.map (fun r => (r.sregs, r.vregs, r.pct)) = b0.rows.map (fun r => (r.sregs, r.vregs, r.pct)))) ∧
    ∀ h, (s.fieldSt f).head = some h →
      (h.barred = true ∨ s.now < h.since + 81000 → exec (.headReservationBar f) s = .next s) ∧
      (h.barred = false → h.since + 81000 ≤ s.now →
        exec (.headReservationBar f) s = .next (s.modField f (fun x => { x with head := some { h with barred := true } })))) ∧
  (∀ (s : State) (die : Nat), die < 12 → die < s.dies.length →
    let d := s.die die
    (d.fallow ≠ 0 ∨ d.waking = true ∨ d.service = 0 ∨ s.dieBusy die = true ∨ s.now < d.idleSince + 81000 →
      exec (.fallowEntry die) s = .next s) ∧
    (s.dieOwners die = [] → exec (.fallowEntry die) s = .next s) ∧
    (d.fallow = 0 → d.waking = false → d.service ≠ 0 → s.dieBusy die = false → d.idleSince + 81000 ≤ s.now → s.dieOwners die ≠ [] →
      let latency := fun (n : Nat) => if n = 1 then 2 else if n = 2 then 40 else (1500 : Int)
      ∀ n ≤ 3, (n = 0 ∨ ∀ f ∈ s.dieOwners die, latency n ≤ wval (s.fieldSt f).fltol) →
        (n < 3 → ∃ f ∈ s.dieOwners die, wval (s.fieldSt f).fltol < latency (n + 1)) →
        (n = 0 → exec (.fallowEntry die) s = .next s) ∧
        (n ≠ 0 → ∃ t : State, exec (.fallowEntry die) s = .next t ∧ t.die die = { d with fallow := n } ∧
          (∀ k, k ≠ die → t.die k = s.die k) ∧ { t with dies := s.dies } = s)) ∧
    (d.waking = true → (∀ g ∈ s.gangs, g.status ≠ .waking) → s.hostQueue = [] → s.host.conflicts = [] →
      ∃ t : State, exec (.fallowExit die) s = .next t ∧ t.die die = { d with fallow := 0, waking := false, idleSince := s.now } ∧
        (∀ k, k ≠ die → t.die k = s.die k) ∧ { t with dies := s.dies, sleepers := s.sleepers, agenda := s.agenda } = s ∧
        t.sleepers = [] ∧ t.agenda = s.sleepers.map s.resumed ++ s.agenda) ∧
    (d.waking = true → s.hostQueue = [] → ∃ t : State, exec (.fallowExit die) s = .next t ∧ (t.die die).fallow = 0 ∧
      ∀ g ∈ s.gangs, g.status = .waking → g.saveTo = none → (∀ b ∈ g.blocks, b.core / 80 = die ∨ (s.die (b.core / 80)).fallow = 0) →
        { g with status := .resident } ∈ t.gangs) ∧
    (d.waking = false → exec (.fallowExit die) s = .next s))

/-- R442, R443, R444: a gang all of whose rows have ended releases its tenures and retires its blocks, and then leaves, counted by its
grid, its private range freed, once no PEER and no collective instance of it is open. A grid that is over adds 1 to DONE first, reason 15 if that cannot be, and then
writes STAT, +3 or −2 with the reason, and leaves; a reason is logged.
What the spec leaves to the model here is as log 41 says. -/
def Obligations.RetireResults : Prop :=
  (∀ (s : State) (gid : Word),
    (s.gang? gid = none → exec (.gangRetire gid) s = .next s) ∧
    ∀ g, s.gang? gid = some g →
      (g.absent = true → exec (.gangRetire gid) s = .next s) ∧
      (g.absent = false → (∀ b ∈ g.blocks, ∀ r ∈ b.rows, r.ended = true) →
        ((∃ b ∈ g.blocks, b.retired = false) → (∀ b ∈ g.blocks, ∀ t ∈ b.tenures, t.kind = 0) →
          (∀ m ∈ s.recalls, m.who.gid ≠ gid) → (g.blocks.map (·.blk)).Nodup →
          ∃ (t : State) (d : Gang), exec (.gangRetire gid) s = .next t ∧ t.gang? gid = some d ∧ (∀ b ∈ d.blocks, b.retired = true) ∧
            t.mem = s.mem ∧ ∀ x, x ≠ gid → t.gang? x = s.gang? x) ∧
        ((∀ b ∈ g.blocks, b.retired = true) → (∃ b ∈ g.blocks, ∃ r ∈ b.rows, r.peers ≠ []) → exec (.gangRetire gid) s = .next s) ∧
        ((∀ b ∈ g.blocks, b.retired = true) → (∀ b ∈ g.blocks, ∀ r ∈ b.rows, r.peers = []) →
          (∀ x ∈ s.colls, ∀ q ∈ x.arrived, q.1.gid ≠ gid) →
          ∃ t : State, exec (.gangRetire gid) s = .next t ∧ (∀ d ∈ t.gangs, d.gid ≠ gid) ∧ t.mem = s.mem ∧
            (∀ a ∈ (t.fieldSt g.fld).pool, a.gid ≠ gid) ∧
            ∀ y, s.grids.find? (fun y => y.id == g.grid) = some y →
              ∃ z, t.grids.find? (fun y => y.id == g.grid) = some z ∧ z.finished = y.finished + 1))) ∧
  ∀ (s : State) (n : Nat),
    (s.grids.find? (fun y => y.id == n) = none → exec (.gridRetire n) s = .next s) ∧
    ∀ x, s.grids.find? (fun y => y.id == n) = some x →
      let gone := (x.ended = true ∨ x.lrec.gangs ≤ x.finished) ∧ ∀ g ∈ s.gangs, g.grid ≠ n
      let marked := fun (t : State) (reason : Nat) => t.grids.find? (fun y => y.id == n) =
        some { x with gridDone := true, reason := if x.reason = 0 then reason else x.reason }
      (¬gone → exec (.gridRetire n) s = .next s) ∧
      (gone → x.gridDone = false → x.lrec.w 7 = 0 → ∃ t : State, exec (.gridRetire n) s = .next t ∧ marked t 0 ∧ t.mem = s.mem) ∧
      (gone → x.gridDone = false → x.lrec.w 7 ≠ 0 → s.hostClear n x.fld (x.lrec.w 7) = none →
        s.canWrite x.fld (x.lrec.w 7) = false →
        ∃ t : State, exec (.gridRetire n) s = .next t ∧ marked t 15 ∧ t.mem = s.mem) ∧
      (∀ u : State, gone → x.gridDone = false → x.lrec.w 7 ≠ 0 → s.hostClear n x.fld (x.lrec.w 7) = none →
        s.eventAdd x.fld (x.lrec.w 7) = some u →
        ∃ t : State, exec (.gridRetire n) s = .next t ∧ marked t 0 ∧ t.mem = u.mem) ∧
      (gone → x.gridDone = true → wval x.recAddr % 27 = 0 → s.hostClear n x.fld (wrapT 27 (wval x.recAddr + 24)) = none →
        let u := s.statPut x.fld (wval x.recAddr) (if x.reason = 0 then 3 else -2) x.reason
        ∃ t : State, exec (.gridRetire n) s = .next t ∧ (∀ y ∈ t.grids, y.id ≠ n) ∧ t.mem = u.mem ∧
          (x.reason = 0 → t.host = u.host) ∧
          (x.reason ≠ 0 → t.host.eloghead + t.host.eloglost = u.host.eloghead + u.host.eloglost + 1))

/-! ### Fields and the headland protocol (16, 24) -/

/-- R419, R421, R424, R425, R427, R428: while a request is in progress another raises OVR. A request is refused with −1 for a selection out of range, −5 for a slice
group or channel of a die not in full service, and −2 for the wrong owner; accepted, its resource enters scrub when it grows and leaves its field when
it shrinks. A quad leaves once no gang stands on it; a channel once no leaf and no table of its field lies in it and no access of it is
outstanding, and until then its pages move, data unchanged, one after the other to free frames of other channels (how the firmware goes
about this is the model's choice, log 58). Scrub clears the resource, which is then the field's or free.
What the spec leaves to the model here is as log 45, 57, 58 say. -/
def Obligations.HeadlandResults : Prop :=
  (∀ (s : State) (kind die index fld : Int) (grow : Bool),
    let i := if grow then Instr.frcmdGrow kind die index fld else .frcmdShrink kind die index fld
    let named := 1 ≤ kind ∧ kind ≤ 3 ∧ 0 ≤ die ∧ die < 12 ∧ 0 ≤ index ∧
      index < (if kind = 1 then 20 else if kind = 2 then 16 else (32 : Int)) ∧ 0 ≤ fld ∧ fld ≤ 11
    let o := s.resource kind die.toNat index.toNat
    let refused := fun (st : Int) => exec i s = .next { s with host := { s.host with frst := st } }
    (s.freq.isSome = true → exec i s = .next { s with host := { s.host with frovr := true } }) ∧
    (s.freq = none →
      (¬named → refused (-1)) ∧
      (named → kind ≠ 1 → (s.die die.toNat).service ≠ 2 → refused (-5)) ∧
      (named → (kind = 1 ∨ (s.die die.toNat).service = 2) → o.owner ≠ (if grow then -1 else fld) → refused (-2)) ∧
      (s.frChecks grow kind die index fld = 1 → s.quads.length = 240 → s.groups.length = 192 → s.chans.length = 384 →
        named ∧ o.owner = (if grow then -1 else fld) ∧
        ∃ t : State, exec i s = .next t ∧ t.freq = some ⟨grow, kind, die.toNat, index.toNat, fld.toNat⟩ ∧ t.host.frst = 1 ∧
          t.resource kind die.toNat index.toNat = (if grow then ⟨-2, 2⟩ else ⟨fld, 1⟩) ∧ t.mem = s.mem ∧ t.gangs = s.gangs ∧
          ∀ (k : Int) (d n : Nat), 1 ≤ k → k ≤ 3 → n < perDie k → perDie kind * die.toNat + index.toNat ≠ perDie k * d + n ∨ k ≠ kind →
            t.resource k d n = s.resource k d n))) ∧
  ∀ (s : State), s.quads.length = 240 → s.groups.length = 192 → s.chans.length = 384 →
    (s.freq = none → ∀ i ∈ [Instr.quadLeaveEnd, .vacateEnd, .scrubEnd, .rehashComplete], exec i s = .next s) ∧
    ∀ q, s.freq = some q → 1 ≤ q.kind → q.kind ≤ 3 → q.die < 12 → q.index < perDie q.kind →
      let phase := (s.reqRes q).phase
      (q.kind = 1 → phase = 1 →
        ((∃ g ∈ s.gangs, g.absent = false ∧ ∃ b ∈ g.blocks, b.retired = false ∧ b.core / 4 = 20 * q.die + q.index) →
          exec .quadLeaveEnd s = .next s) ∧
        ((∀ g ∈ s.gangs, g.absent = false → ∀ b ∈ g.blocks, b.retired = false → b.core / 4 ≠ 20 * q.die + q.index) →
          ∃ t : State, exec .quadLeaveEnd s = .next t ∧ t.reqRes q = ⟨-2, 2⟩ ∧ t.freq = s.freq ∧ t.gangs = s.gangs ∧ t.mem = s.mem)) ∧
      (q.kind = 3 → phase = 1 →
        let clear := ∀ t ∈ s.entries q.fld, t.run.inChan q.die q.index = 0
        (s.moving = none → clear → s.chanBusy (32 * q.die + q.index) = true → exec .vacateEnd s = .next s) ∧
        (s.moving = none → clear → s.chanBusy (32 * q.die + q.index) = false →
          ∃ t : State, exec .vacateEnd s = .next t ∧ t.reqRes q = ⟨-2, 2⟩ ∧ t.freq = s.freq ∧ t.gangs = s.gangs ∧ t.mem = s.mem) ∧
        (s.moving = none → ¬clear → s.freeFrame q.fld = none → exec .vacateEnd s = .next s) ∧
        (∀ n x, s.moving = none → s.nextIn q.fld q.die q.index = some x → (x.isLeaf = false ∨ 3 ≤ x.level) → s.freeFrame q.fld = some n →
          s.snoopFirst true (entryLines ((s.entries q.fld).filter (fun t => t.isLeaf && t.names (entFrame x.e).toNat))) = none →
          x ∈ s.entries q.fld ∧ x.run.inChan q.die q.index ≠ 0 ∧
          ∃ (t : State) (m : PageMove), exec .vacateEnd s = .next t ∧ t.moving = some m ∧ m.frame = (entFrame x.e).toNat ∧ m.to_ = n ∧
            (∀ l, lineOf l ∉ entryLines (s.entries q.fld) → t.tryteAt l = s.tryteAt l) ∧ t.freq = s.freq) ∧
        (∀ m, s.moving = some m →
          let page := fun (va : Int) => m.olds.any (fun o => unitOf 3 o.1 == unitOf 3 va)
          let ts := (s.entries q.fld).filter (fun t => t.names m.frame)
          (s.usingOld q.fld page m.since = true → exec .vacateEnd s = .next s) ∧
          (s.usingOld q.fld page m.since = false →
            s.snoopFirst true (frameLines m.frame ++ frameLines m.to_ ++ entryLines ts) = none →
            ∃ t : State, exec .vacateEnd s = .next t ∧ t.moving = none ∧ t.freq = s.freq ∧
              ((∀ g ∈ s.gangs, ∀ b ∈ g.blocks, b.partials = []) → m.frame ≠ m.to_ → Memory.wf s.mem = true →
                (∀ x ∈ s.entries q.fld, ∀ a, x.at_ = some a → a / 19683 ≠ m.frame ∧ a / 19683 ≠ m.to_) →
                ∀ i < 19683, t.tryteAt ⟨.hbm, 19683 * m.to_ + i⟩ = s.tryteAt ⟨.hbm, 19683 * m.frame + i⟩)))) ∧
      (phase ≠ 2 → exec .scrubEnd s = .next s) ∧
      (phase = 2 → s.hostQueue = [] → s.host.conflicts = [] →
        ∃ t : State, exec .scrubEnd s = .next t ∧ t.gangs = s.gangs ∧
          (q.kind ≠ 2 ∨ q.grow = false → t.freq = none ∧ t.host.frst = 2 ∧
            t.reqRes q = ⟨if q.grow then (q.fld : Int) else -1, 0⟩) ∧
          (q.kind = 2 → q.grow = true → t.freq = s.freq ∧ t.reqRes q = ⟨q.fld, 3⟩) ∧
          (q.kind = 1 → t.mem = s.mem ∧ ∀ c < 4, (t.core (4 * (20 * q.die + q.index) + c)).l1 = []) ∧
          (q.kind = 2 → t.mem = s.mem ∧ ∀ x ∈ t.l2, x.line / dieLines = q.die → x.slice / 16 ≠ q.index) ∧
          (q.kind = 3 → ∀ l : Loc, t.tryteAt l =
            if l.kind = .hbm ∧ chanOf l.a = 32 * q.die + q.index then 0 else s.tryteAt l))

/-- R424, R426, R271: a line of the walk moves to its new hash slice, or only its forwarding entry does when the line stands elsewhere, or
nothing where it stands there already; no data change. The walk over, a group that joins is its field's, and one that parts, which holds no
line, no forwarding entry and no tag line then, is scrubbed. A field's reset ends every handle: its
indices are no longer live and its holders have lost them.
What the spec leaves to the model here is as log 56 says. -/
def Obligations.RehashResults : Prop :=
  (∀ (s : State) (line : Nat),
    (s.rehash.find? (fun q => q.1 == line) = none → exec (.rehashLineMove line) s = .next s) ∧
    ∀ q, s.rehash.find? (fun q => q.1 == line) = some q →
      ∃ t : State, exec (.rehashLineMove line) s = .next t ∧ (∀ y ∈ t.rehash, y.1 ≠ line) ∧ (∀ m, t.tryteAt m = s.tryteAt m) ∧
        ∀ x, s.l2.find? (fun x => x.line == line) = some x →
          (s.standsAt x = q.2 → s.leavingSlices.contains x.slice = false → t.l2 = s.l2 ∧ t.forwards = s.forwards ∧ t.gangs = s.gangs) ∧
          ((s.standsAt x = x.slice ∧ s.standsAt x ≠ q.2) ∨ s.leavingSlices.contains x.slice = true →
            t.l2.find? (fun x => x.line == line) = some { x with slice := q.2, run := 0 } ∧ ∀ y ∈ t.forwards, y.1 ≠ line) ∧
          (s.standsAt x ≠ x.slice → s.leavingSlices.contains x.slice = false →
            t.l2.find? (fun x => x.line == line) = some x ∧ t.standsAt x = q.2)) ∧
  (∀ (s : State) (q : FieldReq), s.freq = some q → s.groups.length = 192 → q.die < 12 → q.index < 16 →
    (q.kind ≠ 2 ∨ s.rehash ≠ [] → exec .rehashComplete s = .next s) ∧
    (q.kind = 2 → s.rehash = [] →
      ((s.reqRes q).phase = 3 → ∃ t : State, exec .rehashComplete s = .next t ∧ t.freq = none ∧ t.host.frst = 2 ∧
        t.reqRes q = ⟨if q.grow then (q.fld : Int) else -1, 0⟩) ∧
      ((s.reqRes q).phase = 1 → s.groupHolds q.die q.index = true → exec .rehashComplete s = .next s) ∧
      ((s.reqRes q).phase = 1 → s.groupHolds q.die q.index = false →
        ∃ t : State, exec .rehashComplete s = .next t ∧ t.freq = some q ∧ t.reqRes q = ⟨-2, 2⟩ ∧
          ∀ c ∈ t.tagCache, c.1 / 256 = q.die → c.1 % 256 / 16 ≠ q.index))) ∧
  ∀ (s : State) (f : Nat),
    (12 ≤ f → exec (.fieldReset f) s = .next s) ∧
    (f < 12 → ∃ t : State, exec (.fieldReset f) s = .next t ∧ (∀ x ∈ (t.fieldSt f).tiles, x.state ≠ 1) ∧
      (∀ g, g ≠ f → t.fieldSt g = s.fieldSt g) ∧
      ∀ r g b tn, s.gang? r.gid = some g → s.block? r = some b → tn ∈ b.tenures → tn.kind ≠ 0 → hFld tn.handle = (f : Int) →
        (∀ y ∈ b.tenures, y.handle = tn.handle → y = tn) →
        ∃ d, t.block? r = some d ∧ d.tenure? tn.handle = some ⟨tn.handle, 0, true⟩)

/-! ### Reset, fetch and decode (01, 06, 15, 24) -/

/-- 01 R16, R20, 04 R66, 15 R263, 24 R419: right after reset nothing is resident, boot is not done, every die is in no service and
fallow in nothing, queues are unarmed, slots empty, RATECAP is 16, the link counters are 0, and field 0 owns every resource. The values that the spec
does not give are the model's (log 10, 13, 14, 17), and so is that memory nothing has written reads as zeros (log 5). -/
def Obligations.ResetState : Prop :=
  let s := State.reset
  s.fw.mode = 0 ∧ s.fw.recctl = 0 ∧ s.gangs = [] ∧ s.grids = [] ∧ s.freq = none ∧ s.host.pffield = 0 ∧ s.host.hlmode = 0 ∧
    s.host.ratecap = 16 ∧ s.host.eloghead = 0 ∧ s.host.eloglost = 0 ∧
    (∀ die < 12, (s.die die).service = 0 ∧ (s.die die).hbm = 0 ∧ (s.die die).cyc = 0 ∧ (s.die die).fallow = 0 ∧
      trit (s.qavl die) 20 = 0) ∧
    (∀ f < 12, ∀ q < 9, (s.queue f q).st = 0 ∧ (s.queue f q).base = 0) ∧ (∀ f < 12, ∀ n : Int, s.slotState f n = 0) ∧
    (∀ k d n : Nat, 1 ≤ k → k ≤ 3 → d < 12 → n < perDie k → s.resource k d n = ⟨0, 0⟩) ∧
    (∀ l < 72, ∀ e < 2, (s.linkEnd l e).state = 0 ∧ (s.linkEnd l e).crce = 0 ∧ (s.linkEnd l e).retr = 0) ∧
    s.moving = none ∧ s.sleepers = [] ∧ s.images = [] ∧ s.tagHits = [] ∧ s.checks = [] ∧ s.agenda = [] ∧ s.hostQueue = [] ∧
    (∀ l : Loc, l.kind = .hbm → s.tryteAt l = 0) ∧ s.memWf ∧ s.scratchWf

/-- 06 R92, 07 R121, R122, R125, R128 and log 2: a step lets time pass and does one thing. A watchdog that has run out comes first. Then
the agenda: a turn to issue goes to the row that R125 chooses on the side of the word it names, or to that row where it is alone on its
core; a side that has nothing done ahead issues the row's next word; a device step is its meaning. With nothing on the agenda, what is due is done, and then the row that R125 chooses issues.
What the spec leaves to the model here is as log 101 says. -/
def Obligations.StepTakesTurns : Prop :=
  ∀ (s : State),
    (∀ r, s.stallDue = some r → step s = expiry r s.tick) ∧
    (s.stallDue = none →
      (∀ (a : Act) (rest : List Act), s.agenda = a :: rest →
        let u : State := { s.tick with agenda := rest }
        (∀ r, a = .issue r →
          (∀ q v, u.turnOf r = (q, v) → step s = v.sideStep (u.scalarNext r) q) ∧
          ∀ b x, u.block? r = some b → u.rowsOn b.core = [x] → u.turnOf r = (r, u)) ∧
        (∀ i, a = .event i → encode i = none → (∀ r, i ≠ .stallWatchdogExpiry r) → step s = exec i u) ∧
        (∀ r, a = .event (.stallWatchdogExpiry r) → (u.expired r = false → step s = .next u) ∧
          (u.expired r = true → ∃ w, step s = exec (.stallWatchdogExpiry r) (u.modRow r (fun x => { x with wait := w })))) ∧
        (a = .held → step s = .next u.serveHeld) ∧
        (∀ x, a = .upset x → step s = .next (u.struck x)) ∧ ∀ o, a = .outside o → step s = .next (u.fromOutside o)) ∧
      (s.agenda = [] →
        (∀ t, firstDue s.tick s.tick.pending = some t → step s = .next t) ∧
        (firstDue s.tick s.tick.pending = none →
          (∀ t, s.tick.attempt = some t → step s = .next t) ∧
          (s.tick.attempt = none →
            (s.tick.chooseFrom s.tick.sidesInTurn = none → step s = .next s.tick) ∧
            ∀ k r u, s.tick.chooseFrom s.tick.sidesInTurn = some (k, r, u) →
              step s = State.sideStep { u with turn := k + 1 } (k % 2 == 1) r ∧ s.tick.readyOn (k % 2 == 1) r = true)))) ∧
    ∀ r, (s.ranOf r = 0 → s.sideStep false r = issueStep r s) ∧ (s.scalarNext r = true → s.sideStep true r = issueStep r s) ∧
      (s.scalarNext r = false → ∀ t, s.aheadStep r = some t → s.sideStep true r = .next t)

/-- 06 R92, 07 R121 and log 1: the issue of a row performs the instruction that the word at its head group decodes to, at that row; past
the end of the code it traps ILLOP (the model's choice, log 31). A word its side cannot take waits. After an issue only the counts of the
row's sides, its queues, what its scalar side has done ahead, the use of a unit and the code that it has left change. A word put in reach of the next step is the one that issues.
What the spec leaves to the model here is as log 2, 101 say. -/
def Obligations.StepRunsDecoded : Prop :=
  (∀ (s : State) (r : RowRef) (c : Ctx), s.ctxOf r = some c →
    let u := s.issuing r
    u.cur = some r ∧
    (∀ w i, s.codeWord c.fld c.ia = some w → decode w = .ok i →
      (c.blocked = true → issueStep r s = exec i u) ∧
      (∀ k, c.blocked = false → s.sideHold c w = some k → issueStep r s = .next (u.hold c k)) ∧
      (c.blocked = false → s.sideHold c w = none →
        (∀ t, exec i u = .next t → issueStep r s = .next (t.settled c w true)) ∧
        ((∀ t, exec i u ≠ .next t) → issueStep r s = exec i u))) ∧
    (s.codeWord c.fld c.ia = none → c.blocked = false → c.r.acquiring = false → (c.gen0 = true → c.r.busy = []) →
      ∃ c', u.ctxOf r = some c' ∧ issueStep r s = .next (takeTrap u c' Trap.illop))) ∧
  (∀ (t : State) (c : Ctx) (w : Word), (t.settled c w true).mem = t.mem ∧ (t.settled c w true).host = t.host ∧
    ∀ q y, t.row? q = some y → ∃ z, (t.settled c w true).row? q = some z ∧
      { z with ahead := y.ahead, vs := y.vs, waitS := y.waitS, waitV := y.waitV } = y) ∧
  ∀ (s : State) (w : Word), 0 < s.fields.length →
    let u : State := { (s.probe w).tick with agenda := [] }
    step (s.probe w) = issueStep ⟨probeGid, 0, 0⟩ u ∧ u.ranOf ⟨probeGid, 0, 0⟩ = 0 ∧
    ∃ c, u.ctxOf ⟨probeGid, 0, 0⟩ = some c ∧ c.blocked = false ∧ u.codeWord c.fld c.ia = some w

/-- 06 R91, R93, Tables 6.1 to 6.9: words written out trit by trit, t26 first, decode to the instructions they stand for. -/
def Obligations.DecodeWords : Prop :=
  let w := fun (ts : List Int) => word (ts.foldl (fun a t => 3 * a + t) 0)
  -- ADD
  decode (w [0, 0, 1, 0, 1, -1, 0, 0, 1, -1, -1, 0, 0, 0, 1, 0, 0, 0, 0, -1, 1, 0, 0, 1, 1, 0, 1]) = .ok (.add ⟨5, 3, -2, 4, 1⟩) ∧
  -- SHL
  decode (w [0, 0, 1, 0, 0, -1, 0, 0, 1, -1, -1, 0, 0, 0, 1, 0, 0, 0, 0, -1, 1, 0, 0, 0, 0, 0, 0]) = .ok (.shl ⟨5, 3, -2, 0, 0⟩) ∧
  -- ADDI
  decode (w [0, 1, -1, 0, 1, -1, 0, 0, 0, 0, 1, 0, 0, 1, -1, 1, 0, 0, 0, 0, -1, -1, 1, 0, -1, 0, -1]) = .ok (.addi ⟨1, 7, -100, -1⟩) ∧
  -- MAD
  decode (w [0, 1, 0, 0, 0, 1, 0, 0, -1, 1, 1, 0, 0, 0, 1, -1, 0, 0, 0, 1, 0, 0, 0, 0, 1, 1, 1]) = .ok (.mad ⟨-5, 2, 3, 4, 1⟩) ∧
  -- MOVQ ballot
  decode (w [0, 1, 1, 1, 0, 0, 0, 0, 0, -1, 0, 0, 0, 0, 1, -1, 0, 0, 0, 0, 1, 0, 0, 0, 0, 0, -1]) = .ok (.movqBallot ⟨-3, 2, 1, 0, -1⟩) ∧
  -- FADD
  decode (w [1, -1, -1, 0, 0, 1, 0, 0, 1, 0, 0, 0, 0, 1, 0, -1, 0, 0, 1, -1, 1, 0, 0, 0, 0, 1, -1]) = .ok (.fadd ⟨9, 8, 7, 0, 2⟩) ∧
  -- FMA
  decode (w [1, -1, 0, 0, 0, 1, 0, 0, 1, 0, 0, 0, 0, 1, 0, -1, 0, 0, 1, -1, 1, 0, 0, 1, -1, 0, 0]) = .ok (.fma ⟨9, 8, 7, 6, 0⟩) ∧
  -- CVT
  decode (w [1, -1, 1, 0, 1, 0, 0, 0, 1, 0, 0, 0, 0, 1, 0, -1, 0, 0, 0, 1, -1, 0, 0, 0, 0, 0, 0]) = .ok (.cvt 3 ⟨9, 8, 2, 0, 0⟩) ∧
  -- XLN.BK
  decode (w [1, 0, -1, 0, 1, -1, 0, 0, 1, 0, 0, 0, 0, 1, 0, -1, 0, 0, 0, 1, -1, 0, 0, 0, 0, 0, 0]) = .ok (.xlnBk ⟨9, 8, 2, 0, 0⟩) ∧
  -- BR
  decode (w [0, 0, -1, 0, 0, 1, 0, 0, 1, 1, 1, 0, 0, 0, 0, 0, 0, 0, 0, 0, 0, 0, 0, 0, -1, 1, -1]) = .ok (.br ⟨0, 13, -7⟩) ∧
  -- TRAP
  decode (w [0, -1, 1, 1, -1, 0, 0, 0, 0, 0, 0, 0, 0, 0, 0, 0, 0, 0, 0, 0, 1, -1, -1, -1, 0, 0, 0]) = .ok (.trap ⟨0, 0, 42, 0⟩) ∧
  -- CSRR
  decode (w [0, -1, 0, 1, -1, -1, 0, 0, 0, 1, 1, 0, 0, 0, 0, 0, 0, 0, 0, 0, 0, 0, 1, 1, 0, 0, 0]) = .ok (.csrr ⟨4, 0, 12, 0⟩) ∧
  -- GLD
  decode (w [0, -1, -1, 0, 0, 1, 0, 1, -1, 1, -1, 0, 1, -1, 1, 0, 0, 0, 1, -1, -1, 0, 0, 0, 0, 0, 0]) = .ok (.gld ⟨20, 21, 5, 0, 0⟩) ∧
  -- LDC
  decode (w [0, -1, -1, 1, 1, 1, 0, 1, -1, 1, -1, 0, 0, 0, -1, 0, 0, 0, 1, -1, -1, 0, 0, 0, 0, 0, -1]) = .ok (.ldc ⟨20, -3, 5, 0, -1⟩) ∧
  -- TACQ
  decode (w [-1, 1, 1, 0, 1, 1, 0, 0, 0, 0, -1, 0, 0, 0, -1, 1, 0, 0, 0, 0, 0, 0, 0, 0, 0, 1, -1]) = .ok (.tacq ⟨-1, -2, 0, 0, 2⟩) ∧
  -- MMA
  decode (w [-1, 1, 0, 0, 0, 1, 0, 0, 0, 0, -1, 0, 0, 0, -1, 1, 0, 0, 0, 0, 0, 0, 0, 0, 1, -1, -1]) = .ok (.mma ⟨-1, -2, 0, 0, 5⟩) ∧
  -- CPY
  decode (w [-1, 1, -1, 0, 0, 1, 0, 0, 0, 0, -1, 0, 0, 0, -1, 1, 0, 0, 0, -1, 0, 1, 1, 0, 0, 0, 1]) = .ok (.cpy ⟨-1, -2, -3, 4, 1⟩) ∧
  -- ATOM.CAS
  decode (w [-1, 0, 1, 1, -1, 1, 0, 0, 0, 1, 0, 0, 0, 0, 1, 1, 0, 0, 1, -1, -1, 0, 0, 1, -1, 0, 0]) = .ok (.atomCas ⟨3, 4, 5, 6, 0⟩) ∧
  -- RED.ADD
  decode (w [-1, 0, 0, 0, 0, 1, 0, 0, 0, 1, 0, 0, 0, 0, 1, 1, 0, 0, 1, -1, -1, 0, 0, 0, 0, 0, 0]) = .ok (.redAdd ⟨3, 4, 5, 0, 0⟩) ∧
  -- BARS
  decode (w [-1, 0, -1, 0, 1, 1, 0, 0, 0, 0, 0, 0, 0, 0, 1, -1, 0, 0, 0, 0, 0, 0, 0, 0, 0, 0, 0]) = .ok (.bars ⟨0, 2, 0, 0, 0⟩) ∧
  -- CTXS.port
  decode (w [-1, -1, 1, 0, 1, 0, 0, 0, 0, 0, -1, 0, 0, 0, -1, 1, 0, 0, 0, -1, 0, 0, 0, 0, 0, 0, 1]) = .ok (.ctxsPort ⟨-1, -2, -3, 0, 1⟩) ∧
  -- HDR
  decode (w [0, 0, 0, 0, 0, 0, 0, 1, 1, 0, 0, 0, 0, 0, 0, 0, 0, 0, 0, 0, 0, 0, 0, 0, 0, 0, 0]) = .ok (.hdr ⟨1549681956⟩) ∧
  -- NOP
  decode (w [0, 0, 0, 0, 1, 0, 0, 0, 0, 0, 0, 0, 0, 0, 0, 0, 0, 0, 0, 0, 0, 0, 0, 0, 0, 0, 0]) = .ok (.nop ⟨0⟩) ∧
  -- a class with no opcode, and MOVQ with a type no form has
  decode (w [1, 0, 0, 0, 0, 1, 0, 0, 0, 0, 0, 0, 0, 0, 0, 0, 0, 0, 0, 0, 0, 0, 0, 0, 0, 0, 0]) =
    .ok (.unassignedOpcode (w [1, 0, 0, 0, 0, 1, 0, 0, 0, 0, 0, 0, 0, 0, 0, 0, 0, 0, 0, 0, 0, 0, 0, 0, 0, 0, 0])) ∧
  decode (w [0, 1, 1, 1, 0, 0, 0, 0, 0, 0, 1, 0, 0, 0, 1, -1, 0, 0, 0, 1, 0, 0, 0, 0, 0, 1, 1]) = .error (.reservedMovq ⟨1, 2, 3, 0, 4⟩)

/-- 06 R91, R93, R107: the word of every well-formed instruction decodes to it, with every operand at every value, and every
word is the word of the instruction it decodes to, which is well-formed; a word that decodes to none has the opcode of MOVQ, REPLAY, TLBI, CTXS or
CTXR and a type that no form of it has. -/
def Obligations.RoundTrip : Prop :=
  (∀ (i : Instr) (w : Word), i.wf = true → encode i = some w → decode w = .ok i) ∧
  (∀ (w : Word) (i : Instr), decode w = .ok i → encode i = some w ∧ i.wf = true) ∧
  ∀ (w : Word) (e : DecodeError), decode w = .error e →
    (field (wval w) 24 3 = 4 ∧ field (wval w) 21 3 = 9 ∧ (field (wval w) 0 2 < -1 ∨ 1 < field (wval w) 0 2)) ∨
    (field (wval w) 24 3 = -11 ∧ 1 ≤ field (wval w) 21 3 ∧ field (wval w) 21 3 ≤ 4 ∧
      (field (wval w) 0 2 < 0 ∨ (field (wval w) 0 2 = 0 ∧ field (wval w) 21 3 ≤ 2) ∨
        (1 < field (wval w) 0 2 ∧ field (wval w) 21 3 ≠ 1) ∨ 3 < field (wval w) 0 2))

/-! ### Invariants (log 4, 5) -/

/-- Log 2: a step neither faults nor is refused, in any state: the device always goes on. No rule states it: it is the model's form of a
step, in which what the spec leaves open is a free value or waits. -/
def Obligations.StepGoesOn : Prop :=
  ∀ s : State, s.goesOn

/-- Log 4, 5: a step keeps the canonical form of device, peer and host memory, in which equal memories are equal data: addresses rise
strictly and no entry holds what an unlisted address reads as. -/
def Obligations.StepKeepsMemWf : Prop :=
  ∀ s t : State, s.memWf → step s = .next t → t.memWf

/-- Log 4: a step keeps the canonical form of every block's scratch. -/
def Obligations.StepKeepsScratchWf : Prop :=
  ∀ s t : State, s.scratchWf → step s = .next t → t.scratchWf

/-! ### Steps of the machine's own units -/

/-- R278 to R280, R283, R287, R303, R305, R307, R312, R314, R323, R324, R327, R331, R333, R358, R367, R372, R375: no step that a unit of the
machine makes of itself (one that stands in no word of code) faults or is refused; and where a request, recall, push, flush, pass,
quantization, command, join, instance, peer unit, atomic or arrival is at hand and nothing holds it, its step takes it off its queue. -/
def Obligations.UnitStepsComplete : Prop :=
  (∀ (s : State) (i : Instr), encode i = none → ∃ t : State, exec i s = .next t) ∧
  (∀ (s : State) (k : Nat) (q : TileReq), s.tileQ[k]? = some q → (s.block? q.who).isSome = true →
    let d := s.descOf q.fld q.handle
    q.acqKind ≠ 0 → q.stage = 1 → s.queuedAhead q.fld q.handle d (s.tileQ.take k) = false → s.conflicting q d = [] →
    s.hostHeld q.fld d = [] →
    ∃ t : State, exec (.tacqGrant k) s = .next t ∧ t.tileQ = s.tileQ.eraseIdx k ∧
      ∀ b, t.block? q.who = some b → ∃ n, b.tenure? q.handle = some n ∧ n.kind = q.acqKind ∧ n.lost = false) ∧
  (∀ (s : State) (k : Nat) (m : RecallMsg) (g : Gang) (b : Block) (n : Tenure), s.recalls[k]? = some m →
    s.gang? m.who.gid = some g → s.block? m.who = some b → b.tenure? m.handle = some n → n.kind = 1 →
    ∃ t : State, exec (.recall k) s = .next t ∧ t.recalls.length + 1 = s.recalls.length ∧
      ∀ b, t.block? m.who = some b → ∀ n, b.tenure? m.handle = some n → n.kind = 0 ∧ n.lost = true) ∧
  (∀ (s : State) (k : Nat) (p : PushMsg), s.pushes[k]? = some p → (∀ x ∈ s.pushes.take k, x.line = p.line → x.who ≠ p.who) →
    ∃ t : State, exec (.push k) s = .next t ∧ t.pushes = s.pushes.eraseIdx k) ∧
  (∀ (s : State) (r : RowRef) (line : Loc) (b : Block) (p : Partial), s.block? { r with row := 0 } = some b →
    b.partials.find? (fun x => x.line == line) = some p →
    s.snoopFirst true (s.partialLines { r with row := 0 } [line]) = none →
    ∃ t : State, exec (.flush r line) s = .next t ∧
      ∀ d, t.block? { r with row := 0 } = some d → ∀ x ∈ d.partials, x.line ≠ line) ∧
  (∀ (s : State) (q : TileReq) (rest : List TileReq), s.tileIn = q :: rest → ((∃ d, q.kind = .tnew d) ∨ q.kind = .tqry) →
    ∃ t : State, exec .tileRequestAnswer s = .next t ∧ t.tileIn = rest) ∧
  (∀ (s : State) (quad : Nat) (e : MxEntry), (s.mxEntries quad).filter (fun e => !e.pass.granted) = [e] → e.staged = true →
    (∀ a ∈ s.arrays e.core e.pass, s.arrayFree (s.mxEntries quad) e a = true) → s.row? e.ref = some e.row →
    ∃ (t : State) (y : Row), exec (.matrixArbitrate quad) s = .next t ∧ t.row? e.ref = some y ∧
      y.passes.length = e.row.passes.length ∧ ∀ p ∈ y.passes, p.order = e.pass.order → p.granted = true) ∧
  (∀ (s : State) (r : RowRef) (b : Block) (x : Row), s.block? r = some b → s.row? r = some x →
    (∀ p, x.passes.find? (·.granted) = some p →
      ∃ (t : State) (y : Row), exec (.passComplete r) s = .next t ∧ t.row? r = some y ∧
        y.passes = x.passes.filter (fun q => q.order != p.order) ∧ y.flags = (x.flagDown p.flag).flags) ∧
    (∀ q rest, x.quants = q :: rest → ∃ (t : State) (y : Row), exec (.quantComplete r) s = .next t ∧ t.row? r = some y ∧
      y.quants = rest ∧ y.flags = (x.flagDown q.flag).flags) ∧
    (∀ q rest, x.deqs = q :: rest → (∀ o ∈ x.quants, q.stamp ≤ o.stamp) →
      x.scrPending q.stamp (q.areas r.blk) = false →
      ∃ (t : State) (y : Row), exec (.deqComplete r) s = .next t ∧ t.row? r = some y ∧
        y.deqs = rest ∧ y.flags = (x.flagDown q.flag).flags) ∧
    (∀ u, x.runs = [u] → (∀ p ∈ x.passes, p.run ≠ some u.id) → u.last + 729 ≤ (s.die (b.core / 80)).cyc →
      ∃ (t : State) (y : Row), exec (.runHoldLapse r) s = .next t ∧ t.row? r = some y ∧ y.runs = [{ u with holds := [] }])) ∧
  (∀ (s : State) (r : RowRef) (k : Nat) (e : Env) (x : Row) (c : Cmd), s.env? r = some e → s.row? r = some x →
    x.headCmd k = some c → c.held = none → c.spill = false → k < x.slots.length →
    (c.started = false → e.g.status = .resident → s.earlierDone e x c.stamp = true → c.kind = .cpy ∨ c.kind = .peer →
      ∃ (t : State) (y : Row), exec (.commandStart r k) s = .next t ∧ t.row? r = some y ∧
        y.headCmd k = some { c with started := true }) ∧
    (c.started = true → c.kind = .cpy ∨ c.kind = .gath ∨ c.kind = .scat → e.g.absent = false → s.olderCopy e c = false →
      (wval c.z).toNat = c.done_ →
      ∃ (t : State) (y : Row), exec (.commandComplete r k) s = .next t ∧ t.row? r = some y ∧
        (y.slot k).entries = (x.slot k).entries.drop 1 ∧ y.flags = (x.flagDown c.flag).flags)) ∧
  (∀ (s : State) (r : RowRef) (k i : Nat) (x : Row) (rest : List SlotEntry), s.row? r = some x →
    (x.slot k).entries = .join i :: rest → (∀ y ∈ x.slots, .join i ∈ y.entries → y.entries.head? = some (.join i)) →
    k < x.slots.length →
    ∃ (t : State) (y : Row), exec (.joinComplete r k) s = .next t ∧ t.row? r = some y ∧ (y.slot k).entries = rest) ∧
  (∀ (s : State) (k : Nat) (x : CollInst) (first : Env), s.colls[k]? = some x →
    (x.arrived.head?).bind (fun q => s.env? q.who) = some first → s.instanceHeld x = false →
    recW x.desc 0 ≤ x.arrived.length →
    let n := (recW x.desc 1).toNat * collSize (collType x.desc)
    ∀ srcs u v l w o y, collReads x n (s.members x (recW x.desc 0).toNat) s = .ok srcs u →
      collChecks x (if x.kind = 3 then (recW x.desc 0).toNat * n else n) (s.members x (recW x.desc 0).toNat) u = .ok () v →
      v.unitTarget first (wrapT 27 (wval x.va + 15)) 6 = .ok l w → collOut x.kind x.desc srcs = o →
      collWrites x o.1 (s.members x (recW x.desc 0).toNat) w = .ok () y →
      ∃ t : State, exec (.collInstanceComplete k) s = .next t ∧ t.colls = dropFirst (· == x) y.colls) ∧
  (∀ (s : State) (r : RowRef) (x : Row) (p : PeerOut) (q : PeerUnit) (more : List PeerUnit) (rest : List PeerOut),
    s.row? r = some x → x.peers = p :: rest → p.units = q :: more → q.loc.kind = .peer →
    s.partialsOf (lineOf q.loc) = [] →
    ∃ (t : State) (y : Row), exec (.peerDelivered r true) s = .next t ∧ t.row? r = some y ∧
      y.peers = if more = [] then rest else { p with units := more } :: rest) ∧
  (∀ (s : State) (core k : Nat) (o : MemOp) (a : AtomOp) (ret : Bool), (s.core core).order[k]? = some o →
    o.kind = (if ret then .atom a else .red a) → s.mayApply core k o = true → s.snoopFirst true o.lines = none → o.acq = 0 →
    core < s.cores.length →
    ∃ t : State, exec (.atomicApply core k) s = .next t ∧ (t.core core).order = (s.core core).order.eraseIdx k) ∧
  (∀ (s : State) (r : RowRef) (g : Gang) (x : Row) (a : Arrival) (rest : List Arrival) (b : Block),
    s.gang? r.gid = some g → s.row? r = some x → x.arrivals = a :: rest → a.stage = 0 →
    s.releaseMetAt r a.stamp = true → s.block? { r with blk := a.blk } = some b → b.retired = false →
    a.bar < b.bars.length →
    ∃ (t : State) (y : Row), exec (.barrierArrivalApply r) s = .next t ∧ t.row? r = some y ∧ y.arrivals = rest) ∧
  (∀ (s : State) (g : Gang) (blk bar : Nat), s.gang? g.gid = some g →
    (∀ b ∈ g.blocks, ∀ r ∈ b.rows, ∀ a ∈ r.arrivals, a.stage ≠ 2) → exec (.barrierRelayForward g.gid blk bar) s = .next s) ∧
  ∀ (s : State) (k : Nat) (b : LevelBar), s.levelBars[k]? = some b → b.cnt ≠ 0 → b.cnt = b.p →
    ∃ t : State, exec (.barlInstanceComplete k) s = .next t ∧
      t.levelBar b.key = { b with p := 0, cnt := 0, done_ := wrapT 27 (b.done_ + 1) }
end

