-- ==== Sys2Proof/Laws/State.lean ====
section
/-!
SUPPORT. One lemma per field of State for every shared update, so that no proof unfolds a record update.
-/
namespace Sys2Proof.Machine

/-! ### modGang -/

@[simp] theorem State.modGang_agenda (s : State) (x : Word) (f : Gang → Gang) : (s.modGang x f).agenda = s.agenda := rfl
@[simp] theorem State.modGang_steps (s : State) (x : Word) (f : Gang → Gang) : (s.modGang x f).steps = s.steps := rfl
@[simp] theorem State.modGang_cur (s : State) (x : Word) (f : Gang → Gang) : (s.modGang x f).cur = s.cur := rfl
@[simp] theorem State.modGang_now (s : State) (x : Word) (f : Gang → Gang) : (s.modGang x f).now = s.now := rfl
@[simp] theorem State.modGang_fw (s : State) (x : Word) (f : Gang → Gang) : (s.modGang x f).fw = s.fw := rfl
@[simp] theorem State.modGang_dies (s : State) (x : Word) (f : Gang → Gang) : (s.modGang x f).dies = s.dies := rfl
@[simp] theorem State.modGang_cores (s : State) (x : Word) (f : Gang → Gang) : (s.modGang x f).cores = s.cores := rfl
@[simp] theorem State.modGang_quadTlb (s : State) (x : Word) (f : Gang → Gang) : (s.modGang x f).quadTlb = s.quadTlb := rfl
@[simp] theorem State.modGang_walker (s : State) (x : Word) (f : Gang → Gang) : (s.modGang x f).walker = s.walker := rfl
@[simp] theorem State.modGang_fields (s : State) (x : Word) (f : Gang → Gang) : (s.modGang x f).fields = s.fields := rfl
@[simp] theorem State.modGang_grids (s : State) (x : Word) (f : Gang → Gang) : (s.modGang x f).grids = s.grids := rfl
@[simp] theorem State.modGang_mem (s : State) (x : Word) (f : Gang → Gang) : (s.modGang x f).mem = s.mem := rfl
@[simp] theorem State.modGang_hostMem (s : State) (x : Word) (f : Gang → Gang) : (s.modGang x f).hostMem = s.hostMem := rfl
@[simp] theorem State.modGang_peerMem (s : State) (x : Word) (f : Gang → Gang) : (s.modGang x f).peerMem = s.peerMem := rfl
@[simp] theorem State.modGang_failing (s : State) (x : Word) (f : Gang → Gang) : (s.modGang x f).failing = s.failing := rfl
@[simp] theorem State.modGang_l2 (s : State) (x : Word) (f : Gang → Gang) : (s.modGang x f).l2 = s.l2 := rfl
@[simp] theorem State.modGang_forwards (s : State) (x : Word) (f : Gang → Gang) : (s.modGang x f).forwards = s.forwards := rfl
@[simp] theorem State.modGang_tags (s : State) (x : Word) (f : Gang → Gang) : (s.modGang x f).tags = s.tags := rfl
@[simp] theorem State.modGang_tagCache (s : State) (x : Word) (f : Gang → Gang) : (s.modGang x f).tagCache = s.tagCache := rfl
@[simp] theorem State.modGang_sectors (s : State) (x : Word) (f : Gang → Gang) : (s.modGang x f).sectors = s.sectors := rfl
@[simp] theorem State.modGang_mgmtCyc (s : State) (x : Word) (f : Gang → Gang) : (s.modGang x f).mgmtCyc = s.mgmtCyc := rfl
@[simp] theorem State.modGang_reports (s : State) (x : Word) (f : Gang → Gang) : (s.modGang x f).reports = s.reports := rfl
@[simp] theorem State.modGang_hostLines (s : State) (x : Word) (f : Gang → Gang) : (s.modGang x f).hostLines = s.hostLines := rfl
@[simp] theorem State.modGang_hostQueue (s : State) (x : Word) (f : Gang → Gang) : (s.modGang x f).hostQueue = s.hostQueue := rfl
@[simp] theorem State.modGang_images (s : State) (x : Word) (f : Gang → Gang) : (s.modGang x f).images = s.images := rfl
@[simp] theorem State.modGang_tagHits (s : State) (x : Word) (f : Gang → Gang) : (s.modGang x f).tagHits = s.tagHits := rfl
@[simp] theorem State.modGang_checks (s : State) (x : Word) (f : Gang → Gang) : (s.modGang x f).checks = s.checks := rfl
@[simp] theorem State.modGang_sleepers (s : State) (x : Word) (f : Gang → Gang) : (s.modGang x f).sleepers = s.sleepers := rfl
@[simp] theorem State.modGang_moving (s : State) (x : Word) (f : Gang → Gang) : (s.modGang x f).moving = s.moving := rfl
@[simp] theorem State.modGang_links (s : State) (x : Word) (f : Gang → Gang) : (s.modGang x f).links = s.links := rfl
@[simp] theorem State.modGang_coluri (s : State) (x : Word) (f : Gang → Gang) : (s.modGang x f).coluri = s.coluri := rfl
@[simp] theorem State.modGang_host (s : State) (x : Word) (f : Gang → Gang) : (s.modGang x f).host = s.host := rfl
@[simp] theorem State.modGang_quads (s : State) (x : Word) (f : Gang → Gang) : (s.modGang x f).quads = s.quads := rfl
@[simp] theorem State.modGang_groups (s : State) (x : Word) (f : Gang → Gang) : (s.modGang x f).groups = s.groups := rfl
@[simp] theorem State.modGang_chans (s : State) (x : Word) (f : Gang → Gang) : (s.modGang x f).chans = s.chans := rfl
@[simp] theorem State.modGang_freq (s : State) (x : Word) (f : Gang → Gang) : (s.modGang x f).freq = s.freq := rfl
@[simp] theorem State.modGang_rehash (s : State) (x : Word) (f : Gang → Gang) : (s.modGang x f).rehash = s.rehash := rfl
@[simp] theorem State.modGang_levelBars (s : State) (x : Word) (f : Gang → Gang) : (s.modGang x f).levelBars = s.levelBars := rfl
@[simp] theorem State.modGang_colls (s : State) (x : Word) (f : Gang → Gang) : (s.modGang x f).colls = s.colls := rfl
@[simp] theorem State.modGang_tileIn (s : State) (x : Word) (f : Gang → Gang) : (s.modGang x f).tileIn = s.tileIn := rfl
@[simp] theorem State.modGang_tileQ (s : State) (x : Word) (f : Gang → Gang) : (s.modGang x f).tileQ = s.tileQ := rfl
@[simp] theorem State.modGang_pushes (s : State) (x : Word) (f : Gang → Gang) : (s.modGang x f).pushes = s.pushes := rfl
@[simp] theorem State.modGang_recalls (s : State) (x : Word) (f : Gang → Gang) : (s.modGang x f).recalls = s.recalls := rfl
@[simp] theorem State.modGang_power (s : State) (x : Word) (f : Gang → Gang) : (s.modGang x f).power = s.power := rfl
@[simp] theorem State.modGang_halted (s : State) (x : Word) (f : Gang → Gang) : (s.modGang x f).halted = s.halted := rfl
@[simp] theorem State.modGang_turn (s : State) (x : Word) (f : Gang → Gang) : (s.modGang x f).turn = s.turn := rfl
@[simp] theorem State.modGang_gangs (s : State) (x : Word) (f : Gang → Gang) :
    (s.modGang x f).gangs = modFirst (fun g => g.gid == x) f s.gangs := rfl

/-! ### modBlock -/

@[simp] theorem State.modBlock_agenda (s : State) (x : RowRef) (f : Block → Block) : (s.modBlock x f).agenda = s.agenda := rfl
@[simp] theorem State.modBlock_steps (s : State) (x : RowRef) (f : Block → Block) : (s.modBlock x f).steps = s.steps := rfl
@[simp] theorem State.modBlock_cur (s : State) (x : RowRef) (f : Block → Block) : (s.modBlock x f).cur = s.cur := rfl
@[simp] theorem State.modBlock_now (s : State) (x : RowRef) (f : Block → Block) : (s.modBlock x f).now = s.now := rfl
@[simp] theorem State.modBlock_fw (s : State) (x : RowRef) (f : Block → Block) : (s.modBlock x f).fw = s.fw := rfl
@[simp] theorem State.modBlock_dies (s : State) (x : RowRef) (f : Block → Block) : (s.modBlock x f).dies = s.dies := rfl
@[simp] theorem State.modBlock_cores (s : State) (x : RowRef) (f : Block → Block) : (s.modBlock x f).cores = s.cores := rfl
@[simp] theorem State.modBlock_quadTlb (s : State) (x : RowRef) (f : Block → Block) : (s.modBlock x f).quadTlb = s.quadTlb := rfl
@[simp] theorem State.modBlock_walker (s : State) (x : RowRef) (f : Block → Block) : (s.modBlock x f).walker = s.walker := rfl
@[simp] theorem State.modBlock_fields (s : State) (x : RowRef) (f : Block → Block) : (s.modBlock x f).fields = s.fields := rfl
@[simp] theorem State.modBlock_grids (s : State) (x : RowRef) (f : Block → Block) : (s.modBlock x f).grids = s.grids := rfl
@[simp] theorem State.modBlock_mem (s : State) (x : RowRef) (f : Block → Block) : (s.modBlock x f).mem = s.mem := rfl
@[simp] theorem State.modBlock_hostMem (s : State) (x : RowRef) (f : Block → Block) : (s.modBlock x f).hostMem = s.hostMem := rfl
@[simp] theorem State.modBlock_peerMem (s : State) (x : RowRef) (f : Block → Block) : (s.modBlock x f).peerMem = s.peerMem := rfl
@[simp] theorem State.modBlock_failing (s : State) (x : RowRef) (f : Block → Block) : (s.modBlock x f).failing = s.failing := rfl
@[simp] theorem State.modBlock_l2 (s : State) (x : RowRef) (f : Block → Block) : (s.modBlock x f).l2 = s.l2 := rfl
@[simp] theorem State.modBlock_forwards (s : State) (x : RowRef) (f : Block → Block) : (s.modBlock x f).forwards = s.forwards := rfl
@[simp] theorem State.modBlock_tags (s : State) (x : RowRef) (f : Block → Block) : (s.modBlock x f).tags = s.tags := rfl
@[simp] theorem State.modBlock_tagCache (s : State) (x : RowRef) (f : Block → Block) : (s.modBlock x f).tagCache = s.tagCache := rfl
@[simp] theorem State.modBlock_sectors (s : State) (x : RowRef) (f : Block → Block) : (s.modBlock x f).sectors = s.sectors := rfl
@[simp] theorem State.modBlock_mgmtCyc (s : State) (x : RowRef) (f : Block → Block) : (s.modBlock x f).mgmtCyc = s.mgmtCyc := rfl
@[simp] theorem State.modBlock_reports (s : State) (x : RowRef) (f : Block → Block) : (s.modBlock x f).reports = s.reports := rfl
@[simp] theorem State.modBlock_hostLines (s : State) (x : RowRef) (f : Block → Block) : (s.modBlock x f).hostLines = s.hostLines := rfl
@[simp] theorem State.modBlock_hostQueue (s : State) (x : RowRef) (f : Block → Block) : (s.modBlock x f).hostQueue = s.hostQueue := rfl
@[simp] theorem State.modBlock_images (s : State) (x : RowRef) (f : Block → Block) : (s.modBlock x f).images = s.images := rfl
@[simp] theorem State.modBlock_tagHits (s : State) (x : RowRef) (f : Block → Block) : (s.modBlock x f).tagHits = s.tagHits := rfl
@[simp] theorem State.modBlock_checks (s : State) (x : RowRef) (f : Block → Block) : (s.modBlock x f).checks = s.checks := rfl
@[simp] theorem State.modBlock_sleepers (s : State) (x : RowRef) (f : Block → Block) : (s.modBlock x f).sleepers = s.sleepers := rfl
@[simp] theorem State.modBlock_moving (s : State) (x : RowRef) (f : Block → Block) : (s.modBlock x f).moving = s.moving := rfl
@[simp] theorem State.modBlock_links (s : State) (x : RowRef) (f : Block → Block) : (s.modBlock x f).links = s.links := rfl
@[simp] theorem State.modBlock_coluri (s : State) (x : RowRef) (f : Block → Block) : (s.modBlock x f).coluri = s.coluri := rfl
@[simp] theorem State.modBlock_host (s : State) (x : RowRef) (f : Block → Block) : (s.modBlock x f).host = s.host := rfl
@[simp] theorem State.modBlock_quads (s : State) (x : RowRef) (f : Block → Block) : (s.modBlock x f).quads = s.quads := rfl
@[simp] theorem State.modBlock_groups (s : State) (x : RowRef) (f : Block → Block) : (s.modBlock x f).groups = s.groups := rfl
@[simp] theorem State.modBlock_chans (s : State) (x : RowRef) (f : Block → Block) : (s.modBlock x f).chans = s.chans := rfl
@[simp] theorem State.modBlock_freq (s : State) (x : RowRef) (f : Block → Block) : (s.modBlock x f).freq = s.freq := rfl
@[simp] theorem State.modBlock_rehash (s : State) (x : RowRef) (f : Block → Block) : (s.modBlock x f).rehash = s.rehash := rfl
@[simp] theorem State.modBlock_levelBars (s : State) (x : RowRef) (f : Block → Block) : (s.modBlock x f).levelBars = s.levelBars := rfl
@[simp] theorem State.modBlock_colls (s : State) (x : RowRef) (f : Block → Block) : (s.modBlock x f).colls = s.colls := rfl
@[simp] theorem State.modBlock_tileIn (s : State) (x : RowRef) (f : Block → Block) : (s.modBlock x f).tileIn = s.tileIn := rfl
@[simp] theorem State.modBlock_tileQ (s : State) (x : RowRef) (f : Block → Block) : (s.modBlock x f).tileQ = s.tileQ := rfl
@[simp] theorem State.modBlock_pushes (s : State) (x : RowRef) (f : Block → Block) : (s.modBlock x f).pushes = s.pushes := rfl
@[simp] theorem State.modBlock_recalls (s : State) (x : RowRef) (f : Block → Block) : (s.modBlock x f).recalls = s.recalls := rfl
@[simp] theorem State.modBlock_power (s : State) (x : RowRef) (f : Block → Block) : (s.modBlock x f).power = s.power := rfl
@[simp] theorem State.modBlock_halted (s : State) (x : RowRef) (f : Block → Block) : (s.modBlock x f).halted = s.halted := rfl
@[simp] theorem State.modBlock_turn (s : State) (x : RowRef) (f : Block → Block) : (s.modBlock x f).turn = s.turn := rfl

/-! ### modRow -/

@[simp] theorem State.modRow_agenda (s : State) (x : RowRef) (f : Row → Row) : (s.modRow x f).agenda = s.agenda := rfl
@[simp] theorem State.modRow_steps (s : State) (x : RowRef) (f : Row → Row) : (s.modRow x f).steps = s.steps := rfl
@[simp] theorem State.modRow_cur (s : State) (x : RowRef) (f : Row → Row) : (s.modRow x f).cur = s.cur := rfl
@[simp] theorem State.modRow_now (s : State) (x : RowRef) (f : Row → Row) : (s.modRow x f).now = s.now := rfl
@[simp] theorem State.modRow_fw (s : State) (x : RowRef) (f : Row → Row) : (s.modRow x f).fw = s.fw := rfl
@[simp] theorem State.modRow_dies (s : State) (x : RowRef) (f : Row → Row) : (s.modRow x f).dies = s.dies := rfl
@[simp] theorem State.modRow_cores (s : State) (x : RowRef) (f : Row → Row) : (s.modRow x f).cores = s.cores := rfl
@[simp] theorem State.modRow_quadTlb (s : State) (x : RowRef) (f : Row → Row) : (s.modRow x f).quadTlb = s.quadTlb := rfl
@[simp] theorem State.modRow_walker (s : State) (x : RowRef) (f : Row → Row) : (s.modRow x f).walker = s.walker := rfl
@[simp] theorem State.modRow_fields (s : State) (x : RowRef) (f : Row → Row) : (s.modRow x f).fields = s.fields := rfl
@[simp] theorem State.modRow_grids (s : State) (x : RowRef) (f : Row → Row) : (s.modRow x f).grids = s.grids := rfl
@[simp] theorem State.modRow_mem (s : State) (x : RowRef) (f : Row → Row) : (s.modRow x f).mem = s.mem := rfl
@[simp] theorem State.modRow_hostMem (s : State) (x : RowRef) (f : Row → Row) : (s.modRow x f).hostMem = s.hostMem := rfl
@[simp] theorem State.modRow_peerMem (s : State) (x : RowRef) (f : Row → Row) : (s.modRow x f).peerMem = s.peerMem := rfl
@[simp] theorem State.modRow_failing (s : State) (x : RowRef) (f : Row → Row) : (s.modRow x f).failing = s.failing := rfl
@[simp] theorem State.modRow_l2 (s : State) (x : RowRef) (f : Row → Row) : (s.modRow x f).l2 = s.l2 := rfl
@[simp] theorem State.modRow_forwards (s : State) (x : RowRef) (f : Row → Row) : (s.modRow x f).forwards = s.forwards := rfl
@[simp] theorem State.modRow_tags (s : State) (x : RowRef) (f : Row → Row) : (s.modRow x f).tags = s.tags := rfl
@[simp] theorem State.modRow_tagCache (s : State) (x : RowRef) (f : Row → Row) : (s.modRow x f).tagCache = s.tagCache := rfl
@[simp] theorem State.modRow_sectors (s : State) (x : RowRef) (f : Row → Row) : (s.modRow x f).sectors = s.sectors := rfl
@[simp] theorem State.modRow_mgmtCyc (s : State) (x : RowRef) (f : Row → Row) : (s.modRow x f).mgmtCyc = s.mgmtCyc := rfl
@[simp] theorem State.modRow_reports (s : State) (x : RowRef) (f : Row → Row) : (s.modRow x f).reports = s.reports := rfl
@[simp] theorem State.modRow_hostLines (s : State) (x : RowRef) (f : Row → Row) : (s.modRow x f).hostLines = s.hostLines := rfl
@[simp] theorem State.modRow_hostQueue (s : State) (x : RowRef) (f : Row → Row) : (s.modRow x f).hostQueue = s.hostQueue := rfl
@[simp] theorem State.modRow_images (s : State) (x : RowRef) (f : Row → Row) : (s.modRow x f).images = s.images := rfl
@[simp] theorem State.modRow_tagHits (s : State) (x : RowRef) (f : Row → Row) : (s.modRow x f).tagHits = s.tagHits := rfl
@[simp] theorem State.modRow_checks (s : State) (x : RowRef) (f : Row → Row) : (s.modRow x f).checks = s.checks := rfl
@[simp] theorem State.modRow_sleepers (s : State) (x : RowRef) (f : Row → Row) : (s.modRow x f).sleepers = s.sleepers := rfl
@[simp] theorem State.modRow_moving (s : State) (x : RowRef) (f : Row → Row) : (s.modRow x f).moving = s.moving := rfl
@[simp] theorem State.modRow_links (s : State) (x : RowRef) (f : Row → Row) : (s.modRow x f).links = s.links := rfl
@[simp] theorem State.modRow_coluri (s : State) (x : RowRef) (f : Row → Row) : (s.modRow x f).coluri = s.coluri := rfl
@[simp] theorem State.modRow_host (s : State) (x : RowRef) (f : Row → Row) : (s.modRow x f).host = s.host := rfl
@[simp] theorem State.modRow_quads (s : State) (x : RowRef) (f : Row → Row) : (s.modRow x f).quads = s.quads := rfl
@[simp] theorem State.modRow_groups (s : State) (x : RowRef) (f : Row → Row) : (s.modRow x f).groups = s.groups := rfl
@[simp] theorem State.modRow_chans (s : State) (x : RowRef) (f : Row → Row) : (s.modRow x f).chans = s.chans := rfl
@[simp] theorem State.modRow_freq (s : State) (x : RowRef) (f : Row → Row) : (s.modRow x f).freq = s.freq := rfl
@[simp] theorem State.modRow_rehash (s : State) (x : RowRef) (f : Row → Row) : (s.modRow x f).rehash = s.rehash := rfl
@[simp] theorem State.modRow_levelBars (s : State) (x : RowRef) (f : Row → Row) : (s.modRow x f).levelBars = s.levelBars := rfl
@[simp] theorem State.modRow_colls (s : State) (x : RowRef) (f : Row → Row) : (s.modRow x f).colls = s.colls := rfl
@[simp] theorem State.modRow_tileIn (s : State) (x : RowRef) (f : Row → Row) : (s.modRow x f).tileIn = s.tileIn := rfl
@[simp] theorem State.modRow_tileQ (s : State) (x : RowRef) (f : Row → Row) : (s.modRow x f).tileQ = s.tileQ := rfl
@[simp] theorem State.modRow_pushes (s : State) (x : RowRef) (f : Row → Row) : (s.modRow x f).pushes = s.pushes := rfl
@[simp] theorem State.modRow_recalls (s : State) (x : RowRef) (f : Row → Row) : (s.modRow x f).recalls = s.recalls := rfl
@[simp] theorem State.modRow_power (s : State) (x : RowRef) (f : Row → Row) : (s.modRow x f).power = s.power := rfl
@[simp] theorem State.modRow_halted (s : State) (x : RowRef) (f : Row → Row) : (s.modRow x f).halted = s.halted := rfl
@[simp] theorem State.modRow_turn (s : State) (x : RowRef) (f : Row → Row) : (s.modRow x f).turn = s.turn := rfl

/-! ### modGrid -/

@[simp] theorem State.modGrid_agenda (s : State) (x : Nat) (f : Grid → Grid) : (s.modGrid x f).agenda = s.agenda := rfl
@[simp] theorem State.modGrid_steps (s : State) (x : Nat) (f : Grid → Grid) : (s.modGrid x f).steps = s.steps := rfl
@[simp] theorem State.modGrid_cur (s : State) (x : Nat) (f : Grid → Grid) : (s.modGrid x f).cur = s.cur := rfl
@[simp] theorem State.modGrid_now (s : State) (x : Nat) (f : Grid → Grid) : (s.modGrid x f).now = s.now := rfl
@[simp] theorem State.modGrid_fw (s : State) (x : Nat) (f : Grid → Grid) : (s.modGrid x f).fw = s.fw := rfl
@[simp] theorem State.modGrid_dies (s : State) (x : Nat) (f : Grid → Grid) : (s.modGrid x f).dies = s.dies := rfl
@[simp] theorem State.modGrid_cores (s : State) (x : Nat) (f : Grid → Grid) : (s.modGrid x f).cores = s.cores := rfl
@[simp] theorem State.modGrid_quadTlb (s : State) (x : Nat) (f : Grid → Grid) : (s.modGrid x f).quadTlb = s.quadTlb := rfl
@[simp] theorem State.modGrid_walker (s : State) (x : Nat) (f : Grid → Grid) : (s.modGrid x f).walker = s.walker := rfl
@[simp] theorem State.modGrid_fields (s : State) (x : Nat) (f : Grid → Grid) : (s.modGrid x f).fields = s.fields := rfl
@[simp] theorem State.modGrid_gangs (s : State) (x : Nat) (f : Grid → Grid) : (s.modGrid x f).gangs = s.gangs := rfl
@[simp] theorem State.modGrid_mem (s : State) (x : Nat) (f : Grid → Grid) : (s.modGrid x f).mem = s.mem := rfl
@[simp] theorem State.modGrid_hostMem (s : State) (x : Nat) (f : Grid → Grid) : (s.modGrid x f).hostMem = s.hostMem := rfl
@[simp] theorem State.modGrid_peerMem (s : State) (x : Nat) (f : Grid → Grid) : (s.modGrid x f).peerMem = s.peerMem := rfl
@[simp] theorem State.modGrid_failing (s : State) (x : Nat) (f : Grid → Grid) : (s.modGrid x f).failing = s.failing := rfl
@[simp] theorem State.modGrid_l2 (s : State) (x : Nat) (f : Grid → Grid) : (s.modGrid x f).l2 = s.l2 := rfl
@[simp] theorem State.modGrid_forwards (s : State) (x : Nat) (f : Grid → Grid) : (s.modGrid x f).forwards = s.forwards := rfl
@[simp] theorem State.modGrid_tags (s : State) (x : Nat) (f : Grid → Grid) : (s.modGrid x f).tags = s.tags := rfl
@[simp] theorem State.modGrid_tagCache (s : State) (x : Nat) (f : Grid → Grid) : (s.modGrid x f).tagCache = s.tagCache := rfl
@[simp] theorem State.modGrid_sectors (s : State) (x : Nat) (f : Grid → Grid) : (s.modGrid x f).sectors = s.sectors := rfl
@[simp] theorem State.modGrid_mgmtCyc (s : State) (x : Nat) (f : Grid → Grid) : (s.modGrid x f).mgmtCyc = s.mgmtCyc := rfl
@[simp] theorem State.modGrid_reports (s : State) (x : Nat) (f : Grid → Grid) : (s.modGrid x f).reports = s.reports := rfl
@[simp] theorem State.modGrid_hostLines (s : State) (x : Nat) (f : Grid → Grid) : (s.modGrid x f).hostLines = s.hostLines := rfl
@[simp] theorem State.modGrid_hostQueue (s : State) (x : Nat) (f : Grid → Grid) : (s.modGrid x f).hostQueue = s.hostQueue := rfl
@[simp] theorem State.modGrid_images (s : State) (x : Nat) (f : Grid → Grid) : (s.modGrid x f).images = s.images := rfl
@[simp] theorem State.modGrid_tagHits (s : State) (x : Nat) (f : Grid → Grid) : (s.modGrid x f).tagHits = s.tagHits := rfl
@[simp] theorem State.modGrid_checks (s : State) (x : Nat) (f : Grid → Grid) : (s.modGrid x f).checks = s.checks := rfl
@[simp] theorem State.modGrid_sleepers (s : State) (x : Nat) (f : Grid → Grid) : (s.modGrid x f).sleepers = s.sleepers := rfl
@[simp] theorem State.modGrid_moving (s : State) (x : Nat) (f : Grid → Grid) : (s.modGrid x f).moving = s.moving := rfl
@[simp] theorem State.modGrid_links (s : State) (x : Nat) (f : Grid → Grid) : (s.modGrid x f).links = s.links := rfl
@[simp] theorem State.modGrid_coluri (s : State) (x : Nat) (f : Grid → Grid) : (s.modGrid x f).coluri = s.coluri := rfl
@[simp] theorem State.modGrid_host (s : State) (x : Nat) (f : Grid → Grid) : (s.modGrid x f).host = s.host := rfl
@[simp] theorem State.modGrid_quads (s : State) (x : Nat) (f : Grid → Grid) : (s.modGrid x f).quads = s.quads := rfl
@[simp] theorem State.modGrid_groups (s : State) (x : Nat) (f : Grid → Grid) : (s.modGrid x f).groups = s.groups := rfl
@[simp] theorem State.modGrid_chans (s : State) (x : Nat) (f : Grid → Grid) : (s.modGrid x f).chans = s.chans := rfl
@[simp] theorem State.modGrid_freq (s : State) (x : Nat) (f : Grid → Grid) : (s.modGrid x f).freq = s.freq := rfl
@[simp] theorem State.modGrid_rehash (s : State) (x : Nat) (f : Grid → Grid) : (s.modGrid x f).rehash = s.rehash := rfl
@[simp] theorem State.modGrid_levelBars (s : State) (x : Nat) (f : Grid → Grid) : (s.modGrid x f).levelBars = s.levelBars := rfl
@[simp] theorem State.modGrid_colls (s : State) (x : Nat) (f : Grid → Grid) : (s.modGrid x f).colls = s.colls := rfl
@[simp] theorem State.modGrid_tileIn (s : State) (x : Nat) (f : Grid → Grid) : (s.modGrid x f).tileIn = s.tileIn := rfl
@[simp] theorem State.modGrid_tileQ (s : State) (x : Nat) (f : Grid → Grid) : (s.modGrid x f).tileQ = s.tileQ := rfl
@[simp] theorem State.modGrid_pushes (s : State) (x : Nat) (f : Grid → Grid) : (s.modGrid x f).pushes = s.pushes := rfl
@[simp] theorem State.modGrid_recalls (s : State) (x : Nat) (f : Grid → Grid) : (s.modGrid x f).recalls = s.recalls := rfl
@[simp] theorem State.modGrid_power (s : State) (x : Nat) (f : Grid → Grid) : (s.modGrid x f).power = s.power := rfl
@[simp] theorem State.modGrid_halted (s : State) (x : Nat) (f : Grid → Grid) : (s.modGrid x f).halted = s.halted := rfl
@[simp] theorem State.modGrid_turn (s : State) (x : Nat) (f : Grid → Grid) : (s.modGrid x f).turn = s.turn := rfl
@[simp] theorem State.modGrid_grids (s : State) (x : Nat) (f : Grid → Grid) :
    (s.modGrid x f).grids = modFirst (fun g => g.id == x) f s.grids := rfl

/-! ### modField -/

@[simp] theorem State.modField_agenda (s : State) (x : Nat) (f : FieldSt → FieldSt) : (s.modField x f).agenda = s.agenda := rfl
@[simp] theorem State.modField_steps (s : State) (x : Nat) (f : FieldSt → FieldSt) : (s.modField x f).steps = s.steps := rfl
@[simp] theorem State.modField_cur (s : State) (x : Nat) (f : FieldSt → FieldSt) : (s.modField x f).cur = s.cur := rfl
@[simp] theorem State.modField_now (s : State) (x : Nat) (f : FieldSt → FieldSt) : (s.modField x f).now = s.now := rfl
@[simp] theorem State.modField_fw (s : State) (x : Nat) (f : FieldSt → FieldSt) : (s.modField x f).fw = s.fw := rfl
@[simp] theorem State.modField_dies (s : State) (x : Nat) (f : FieldSt → FieldSt) : (s.modField x f).dies = s.dies := rfl
@[simp] theorem State.modField_cores (s : State) (x : Nat) (f : FieldSt → FieldSt) : (s.modField x f).cores = s.cores := rfl
@[simp] theorem State.modField_quadTlb (s : State) (x : Nat) (f : FieldSt → FieldSt) : (s.modField x f).quadTlb = s.quadTlb := rfl
@[simp] theorem State.modField_walker (s : State) (x : Nat) (f : FieldSt → FieldSt) : (s.modField x f).walker = s.walker := rfl
@[simp] theorem State.modField_gangs (s : State) (x : Nat) (f : FieldSt → FieldSt) : (s.modField x f).gangs = s.gangs := rfl
@[simp] theorem State.modField_grids (s : State) (x : Nat) (f : FieldSt → FieldSt) : (s.modField x f).grids = s.grids := rfl
@[simp] theorem State.modField_mem (s : State) (x : Nat) (f : FieldSt → FieldSt) : (s.modField x f).mem = s.mem := rfl
@[simp] theorem State.modField_hostMem (s : State) (x : Nat) (f : FieldSt → FieldSt) : (s.modField x f).hostMem = s.hostMem := rfl
@[simp] theorem State.modField_peerMem (s : State) (x : Nat) (f : FieldSt → FieldSt) : (s.modField x f).peerMem = s.peerMem := rfl
@[simp] theorem State.modField_failing (s : State) (x : Nat) (f : FieldSt → FieldSt) : (s.modField x f).failing = s.failing := rfl
@[simp] theorem State.modField_l2 (s : State) (x : Nat) (f : FieldSt → FieldSt) : (s.modField x f).l2 = s.l2 := rfl
@[simp] theorem State.modField_forwards (s : State) (x : Nat) (f : FieldSt → FieldSt) : (s.modField x f).forwards = s.forwards := rfl
@[simp] theorem State.modField_tags (s : State) (x : Nat) (f : FieldSt → FieldSt) : (s.modField x f).tags = s.tags := rfl
@[simp] theorem State.modField_tagCache (s : State) (x : Nat) (f : FieldSt → FieldSt) : (s.modField x f).tagCache = s.tagCache := rfl
@[simp] theorem State.modField_sectors (s : State) (x : Nat) (f : FieldSt → FieldSt) : (s.modField x f).sectors = s.sectors := rfl
@[simp] theorem State.modField_mgmtCyc (s : State) (x : Nat) (f : FieldSt → FieldSt) : (s.modField x f).mgmtCyc = s.mgmtCyc := rfl
@[simp] theorem State.modField_reports (s : State) (x : Nat) (f : FieldSt → FieldSt) : (s.modField x f).reports = s.reports := rfl
@[simp] theorem State.modField_hostLines (s : State) (x : Nat) (f : FieldSt → FieldSt) : (s.modField x f).hostLines = s.hostLines := rfl
@[simp] theorem State.modField_hostQueue (s : State) (x : Nat) (f : FieldSt → FieldSt) : (s.modField x f).hostQueue = s.hostQueue := rfl
@[simp] theorem State.modField_images (s : State) (x : Nat) (f : FieldSt → FieldSt) : (s.modField x f).images = s.images := rfl
@[simp] theorem State.modField_tagHits (s : State) (x : Nat) (f : FieldSt → FieldSt) : (s.modField x f).tagHits = s.tagHits := rfl
@[simp] theorem State.modField_checks (s : State) (x : Nat) (f : FieldSt → FieldSt) : (s.modField x f).checks = s.checks := rfl
@[simp] theorem State.modField_sleepers (s : State) (x : Nat) (f : FieldSt → FieldSt) : (s.modField x f).sleepers = s.sleepers := rfl
@[simp] theorem State.modField_moving (s : State) (x : Nat) (f : FieldSt → FieldSt) : (s.modField x f).moving = s.moving := rfl
@[simp] theorem State.modField_links (s : State) (x : Nat) (f : FieldSt → FieldSt) : (s.modField x f).links = s.links := rfl
@[simp] theorem State.modField_coluri (s : State) (x : Nat) (f : FieldSt → FieldSt) : (s.modField x f).coluri = s.coluri := rfl
@[simp] theorem State.modField_host (s : State) (x : Nat) (f : FieldSt → FieldSt) : (s.modField x f).host = s.host := rfl
@[simp] theorem State.modField_quads (s : State) (x : Nat) (f : FieldSt → FieldSt) : (s.modField x f).quads = s.quads := rfl
@[simp] theorem State.modField_groups (s : State) (x : Nat) (f : FieldSt → FieldSt) : (s.modField x f).groups = s.groups := rfl
@[simp] theorem State.modField_chans (s : State) (x : Nat) (f : FieldSt → FieldSt) : (s.modField x f).chans = s.chans := rfl
@[simp] theorem State.modField_freq (s : State) (x : Nat) (f : FieldSt → FieldSt) : (s.modField x f).freq = s.freq := rfl
@[simp] theorem State.modField_rehash (s : State) (x : Nat) (f : FieldSt → FieldSt) : (s.modField x f).rehash = s.rehash := rfl
@[simp] theorem State.modField_levelBars (s : State) (x : Nat) (f : FieldSt → FieldSt) : (s.modField x f).levelBars = s.levelBars := rfl
@[simp] theorem State.modField_colls (s : State) (x : Nat) (f : FieldSt → FieldSt) : (s.modField x f).colls = s.colls := rfl
@[simp] theorem State.modField_tileIn (s : State) (x : Nat) (f : FieldSt → FieldSt) : (s.modField x f).tileIn = s.tileIn := rfl
@[simp] theorem State.modField_tileQ (s : State) (x : Nat) (f : FieldSt → FieldSt) : (s.modField x f).tileQ = s.tileQ := rfl
@[simp] theorem State.modField_pushes (s : State) (x : Nat) (f : FieldSt → FieldSt) : (s.modField x f).pushes = s.pushes := rfl
@[simp] theorem State.modField_recalls (s : State) (x : Nat) (f : FieldSt → FieldSt) : (s.modField x f).recalls = s.recalls := rfl
@[simp] theorem State.modField_power (s : State) (x : Nat) (f : FieldSt → FieldSt) : (s.modField x f).power = s.power := rfl
@[simp] theorem State.modField_halted (s : State) (x : Nat) (f : FieldSt → FieldSt) : (s.modField x f).halted = s.halted := rfl
@[simp] theorem State.modField_turn (s : State) (x : Nat) (f : FieldSt → FieldSt) : (s.modField x f).turn = s.turn := rfl
@[simp] theorem State.modField_fields (s : State) (x : Nat) (f : FieldSt → FieldSt) :
    (s.modField x f).fields = modAt s.fields x f := rfl

/-! ### modCore -/

@[simp] theorem State.modCore_agenda (s : State) (x : Nat) (f : Core → Core) : (s.modCore x f).agenda = s.agenda := rfl
@[simp] theorem State.modCore_steps (s : State) (x : Nat) (f : Core → Core) : (s.modCore x f).steps = s.steps := rfl
@[simp] theorem State.modCore_cur (s : State) (x : Nat) (f : Core → Core) : (s.modCore x f).cur = s.cur := rfl
@[simp] theorem State.modCore_now (s : State) (x : Nat) (f : Core → Core) : (s.modCore x f).now = s.now := rfl
@[simp] theorem State.modCore_fw (s : State) (x : Nat) (f : Core → Core) : (s.modCore x f).fw = s.fw := rfl
@[simp] theorem State.modCore_dies (s : State) (x : Nat) (f : Core → Core) : (s.modCore x f).dies = s.dies := rfl
@[simp] theorem State.modCore_quadTlb (s : State) (x : Nat) (f : Core → Core) : (s.modCore x f).quadTlb = s.quadTlb := rfl
@[simp] theorem State.modCore_walker (s : State) (x : Nat) (f : Core → Core) : (s.modCore x f).walker = s.walker := rfl
@[simp] theorem State.modCore_fields (s : State) (x : Nat) (f : Core → Core) : (s.modCore x f).fields = s.fields := rfl
@[simp] theorem State.modCore_gangs (s : State) (x : Nat) (f : Core → Core) : (s.modCore x f).gangs = s.gangs := rfl
@[simp] theorem State.modCore_grids (s : State) (x : Nat) (f : Core → Core) : (s.modCore x f).grids = s.grids := rfl
@[simp] theorem State.modCore_mem (s : State) (x : Nat) (f : Core → Core) : (s.modCore x f).mem = s.mem := rfl
@[simp] theorem State.modCore_hostMem (s : State) (x : Nat) (f : Core → Core) : (s.modCore x f).hostMem = s.hostMem := rfl
@[simp] theorem State.modCore_peerMem (s : State) (x : Nat) (f : Core → Core) : (s.modCore x f).peerMem = s.peerMem := rfl
@[simp] theorem State.modCore_failing (s : State) (x : Nat) (f : Core → Core) : (s.modCore x f).failing = s.failing := rfl
@[simp] theorem State.modCore_l2 (s : State) (x : Nat) (f : Core → Core) : (s.modCore x f).l2 = s.l2 := rfl
@[simp] theorem State.modCore_forwards (s : State) (x : Nat) (f : Core → Core) : (s.modCore x f).forwards = s.forwards := rfl
@[simp] theorem State.modCore_tags (s : State) (x : Nat) (f : Core → Core) : (s.modCore x f).tags = s.tags := rfl
@[simp] theorem State.modCore_tagCache (s : State) (x : Nat) (f : Core → Core) : (s.modCore x f).tagCache = s.tagCache := rfl
@[simp] theorem State.modCore_sectors (s : State) (x : Nat) (f : Core → Core) : (s.modCore x f).sectors = s.sectors := rfl
@[simp] theorem State.modCore_mgmtCyc (s : State) (x : Nat) (f : Core → Core) : (s.modCore x f).mgmtCyc = s.mgmtCyc := rfl
@[simp] theorem State.modCore_reports (s : State) (x : Nat) (f : Core → Core) : (s.modCore x f).reports = s.reports := rfl
@[simp] theorem State.modCore_hostLines (s : State) (x : Nat) (f : Core → Core) : (s.modCore x f).hostLines = s.hostLines := rfl
@[simp] theorem State.modCore_hostQueue (s : State) (x : Nat) (f : Core → Core) : (s.modCore x f).hostQueue = s.hostQueue := rfl
@[simp] theorem State.modCore_images (s : State) (x : Nat) (f : Core → Core) : (s.modCore x f).images = s.images := rfl
@[simp] theorem State.modCore_tagHits (s : State) (x : Nat) (f : Core → Core) : (s.modCore x f).tagHits = s.tagHits := rfl
@[simp] theorem State.modCore_checks (s : State) (x : Nat) (f : Core → Core) : (s.modCore x f).checks = s.checks := rfl
@[simp] theorem State.modCore_sleepers (s : State) (x : Nat) (f : Core → Core) : (s.modCore x f).sleepers = s.sleepers := rfl
@[simp] theorem State.modCore_moving (s : State) (x : Nat) (f : Core → Core) : (s.modCore x f).moving = s.moving := rfl
@[simp] theorem State.modCore_links (s : State) (x : Nat) (f : Core → Core) : (s.modCore x f).links = s.links := rfl
@[simp] theorem State.modCore_coluri (s : State) (x : Nat) (f : Core → Core) : (s.modCore x f).coluri = s.coluri := rfl
@[simp] theorem State.modCore_host (s : State) (x : Nat) (f : Core → Core) : (s.modCore x f).host = s.host := rfl
@[simp] theorem State.modCore_quads (s : State) (x : Nat) (f : Core → Core) : (s.modCore x f).quads = s.quads := rfl
@[simp] theorem State.modCore_groups (s : State) (x : Nat) (f : Core → Core) : (s.modCore x f).groups = s.groups := rfl
@[simp] theorem State.modCore_chans (s : State) (x : Nat) (f : Core → Core) : (s.modCore x f).chans = s.chans := rfl
@[simp] theorem State.modCore_freq (s : State) (x : Nat) (f : Core → Core) : (s.modCore x f).freq = s.freq := rfl
@[simp] theorem State.modCore_rehash (s : State) (x : Nat) (f : Core → Core) : (s.modCore x f).rehash = s.rehash := rfl
@[simp] theorem State.modCore_levelBars (s : State) (x : Nat) (f : Core → Core) : (s.modCore x f).levelBars = s.levelBars := rfl
@[simp] theorem State.modCore_colls (s : State) (x : Nat) (f : Core → Core) : (s.modCore x f).colls = s.colls := rfl
@[simp] theorem State.modCore_tileIn (s : State) (x : Nat) (f : Core → Core) : (s.modCore x f).tileIn = s.tileIn := rfl
@[simp] theorem State.modCore_tileQ (s : State) (x : Nat) (f : Core → Core) : (s.modCore x f).tileQ = s.tileQ := rfl
@[simp] theorem State.modCore_pushes (s : State) (x : Nat) (f : Core → Core) : (s.modCore x f).pushes = s.pushes := rfl
@[simp] theorem State.modCore_recalls (s : State) (x : Nat) (f : Core → Core) : (s.modCore x f).recalls = s.recalls := rfl
@[simp] theorem State.modCore_power (s : State) (x : Nat) (f : Core → Core) : (s.modCore x f).power = s.power := rfl
@[simp] theorem State.modCore_halted (s : State) (x : Nat) (f : Core → Core) : (s.modCore x f).halted = s.halted := rfl
@[simp] theorem State.modCore_turn (s : State) (x : Nat) (f : Core → Core) : (s.modCore x f).turn = s.turn := rfl
@[simp] theorem State.modCore_cores (s : State) (x : Nat) (f : Core → Core) :
    (s.modCore x f).cores = modAt s.cores x f := rfl

/-! ### modDie -/

@[simp] theorem State.modDie_agenda (s : State) (x : Nat) (f : DieSt → DieSt) : (s.modDie x f).agenda = s.agenda := rfl
@[simp] theorem State.modDie_steps (s : State) (x : Nat) (f : DieSt → DieSt) : (s.modDie x f).steps = s.steps := rfl
@[simp] theorem State.modDie_cur (s : State) (x : Nat) (f : DieSt → DieSt) : (s.modDie x f).cur = s.cur := rfl
@[simp] theorem State.modDie_now (s : State) (x : Nat) (f : DieSt → DieSt) : (s.modDie x f).now = s.now := rfl
@[simp] theorem State.modDie_fw (s : State) (x : Nat) (f : DieSt → DieSt) : (s.modDie x f).fw = s.fw := rfl
@[simp] theorem State.modDie_cores (s : State) (x : Nat) (f : DieSt → DieSt) : (s.modDie x f).cores = s.cores := rfl
@[simp] theorem State.modDie_quadTlb (s : State) (x : Nat) (f : DieSt → DieSt) : (s.modDie x f).quadTlb = s.quadTlb := rfl
@[simp] theorem State.modDie_walker (s : State) (x : Nat) (f : DieSt → DieSt) : (s.modDie x f).walker = s.walker := rfl
@[simp] theorem State.modDie_fields (s : State) (x : Nat) (f : DieSt → DieSt) : (s.modDie x f).fields = s.fields := rfl
@[simp] theorem State.modDie_gangs (s : State) (x : Nat) (f : DieSt → DieSt) : (s.modDie x f).gangs = s.gangs := rfl
@[simp] theorem State.modDie_grids (s : State) (x : Nat) (f : DieSt → DieSt) : (s.modDie x f).grids = s.grids := rfl
@[simp] theorem State.modDie_mem (s : State) (x : Nat) (f : DieSt → DieSt) : (s.modDie x f).mem = s.mem := rfl
@[simp] theorem State.modDie_hostMem (s : State) (x : Nat) (f : DieSt → DieSt) : (s.modDie x f).hostMem = s.hostMem := rfl
@[simp] theorem State.modDie_peerMem (s : State) (x : Nat) (f : DieSt → DieSt) : (s.modDie x f).peerMem = s.peerMem := rfl
@[simp] theorem State.modDie_failing (s : State) (x : Nat) (f : DieSt → DieSt) : (s.modDie x f).failing = s.failing := rfl
@[simp] theorem State.modDie_l2 (s : State) (x : Nat) (f : DieSt → DieSt) : (s.modDie x f).l2 = s.l2 := rfl
@[simp] theorem State.modDie_forwards (s : State) (x : Nat) (f : DieSt → DieSt) : (s.modDie x f).forwards = s.forwards := rfl
@[simp] theorem State.modDie_tags (s : State) (x : Nat) (f : DieSt → DieSt) : (s.modDie x f).tags = s.tags := rfl
@[simp] theorem State.modDie_tagCache (s : State) (x : Nat) (f : DieSt → DieSt) : (s.modDie x f).tagCache = s.tagCache := rfl
@[simp] theorem State.modDie_sectors (s : State) (x : Nat) (f : DieSt → DieSt) : (s.modDie x f).sectors = s.sectors := rfl
@[simp] theorem State.modDie_mgmtCyc (s : State) (x : Nat) (f : DieSt → DieSt) : (s.modDie x f).mgmtCyc = s.mgmtCyc := rfl
@[simp] theorem State.modDie_reports (s : State) (x : Nat) (f : DieSt → DieSt) : (s.modDie x f).reports = s.reports := rfl
@[simp] theorem State.modDie_hostLines (s : State) (x : Nat) (f : DieSt → DieSt) : (s.modDie x f).hostLines = s.hostLines := rfl
@[simp] theorem State.modDie_hostQueue (s : State) (x : Nat) (f : DieSt → DieSt) : (s.modDie x f).hostQueue = s.hostQueue := rfl
@[simp] theorem State.modDie_images (s : State) (x : Nat) (f : DieSt → DieSt) : (s.modDie x f).images = s.images := rfl
@[simp] theorem State.modDie_tagHits (s : State) (x : Nat) (f : DieSt → DieSt) : (s.modDie x f).tagHits = s.tagHits := rfl
@[simp] theorem State.modDie_checks (s : State) (x : Nat) (f : DieSt → DieSt) : (s.modDie x f).checks = s.checks := rfl
@[simp] theorem State.modDie_sleepers (s : State) (x : Nat) (f : DieSt → DieSt) : (s.modDie x f).sleepers = s.sleepers := rfl
@[simp] theorem State.modDie_moving (s : State) (x : Nat) (f : DieSt → DieSt) : (s.modDie x f).moving = s.moving := rfl
@[simp] theorem State.modDie_links (s : State) (x : Nat) (f : DieSt → DieSt) : (s.modDie x f).links = s.links := rfl
@[simp] theorem State.modDie_coluri (s : State) (x : Nat) (f : DieSt → DieSt) : (s.modDie x f).coluri = s.coluri := rfl
@[simp] theorem State.modDie_host (s : State) (x : Nat) (f : DieSt → DieSt) : (s.modDie x f).host = s.host := rfl
@[simp] theorem State.modDie_quads (s : State) (x : Nat) (f : DieSt → DieSt) : (s.modDie x f).quads = s.quads := rfl
@[simp] theorem State.modDie_groups (s : State) (x : Nat) (f : DieSt → DieSt) : (s.modDie x f).groups = s.groups := rfl
@[simp] theorem State.modDie_chans (s : State) (x : Nat) (f : DieSt → DieSt) : (s.modDie x f).chans = s.chans := rfl
@[simp] theorem State.modDie_freq (s : State) (x : Nat) (f : DieSt → DieSt) : (s.modDie x f).freq = s.freq := rfl
@[simp] theorem State.modDie_rehash (s : State) (x : Nat) (f : DieSt → DieSt) : (s.modDie x f).rehash = s.rehash := rfl
@[simp] theorem State.modDie_levelBars (s : State) (x : Nat) (f : DieSt → DieSt) : (s.modDie x f).levelBars = s.levelBars := rfl
@[simp] theorem State.modDie_colls (s : State) (x : Nat) (f : DieSt → DieSt) : (s.modDie x f).colls = s.colls := rfl
@[simp] theorem State.modDie_tileIn (s : State) (x : Nat) (f : DieSt → DieSt) : (s.modDie x f).tileIn = s.tileIn := rfl
@[simp] theorem State.modDie_tileQ (s : State) (x : Nat) (f : DieSt → DieSt) : (s.modDie x f).tileQ = s.tileQ := rfl
@[simp] theorem State.modDie_pushes (s : State) (x : Nat) (f : DieSt → DieSt) : (s.modDie x f).pushes = s.pushes := rfl
@[simp] theorem State.modDie_recalls (s : State) (x : Nat) (f : DieSt → DieSt) : (s.modDie x f).recalls = s.recalls := rfl
@[simp] theorem State.modDie_power (s : State) (x : Nat) (f : DieSt → DieSt) : (s.modDie x f).power = s.power := rfl
@[simp] theorem State.modDie_halted (s : State) (x : Nat) (f : DieSt → DieSt) : (s.modDie x f).halted = s.halted := rfl
@[simp] theorem State.modDie_turn (s : State) (x : Nat) (f : DieSt → DieSt) : (s.modDie x f).turn = s.turn := rfl
@[simp] theorem State.modDie_dies (s : State) (x : Nat) (f : DieSt → DieSt) :
    (s.modDie x f).dies = modAt s.dies x f := rfl

/-! ### issued -/

@[simp] theorem State.issued_agenda (s : State) (c : Ctx) (r : Row) (m : List PcEntry) : (s.issued c r m).agenda = s.agenda := rfl
@[simp] theorem State.issued_steps (s : State) (c : Ctx) (r : Row) (m : List PcEntry) : (s.issued c r m).steps = s.steps := rfl
@[simp] theorem State.issued_cur (s : State) (c : Ctx) (r : Row) (m : List PcEntry) : (s.issued c r m).cur = s.cur := rfl
@[simp] theorem State.issued_now (s : State) (c : Ctx) (r : Row) (m : List PcEntry) : (s.issued c r m).now = s.now := rfl
@[simp] theorem State.issued_fw (s : State) (c : Ctx) (r : Row) (m : List PcEntry) : (s.issued c r m).fw = s.fw := rfl
@[simp] theorem State.issued_dies (s : State) (c : Ctx) (r : Row) (m : List PcEntry) : (s.issued c r m).dies = s.dies := rfl
@[simp] theorem State.issued_cores (s : State) (c : Ctx) (r : Row) (m : List PcEntry) : (s.issued c r m).cores = s.cores := rfl
@[simp] theorem State.issued_quadTlb (s : State) (c : Ctx) (r : Row) (m : List PcEntry) : (s.issued c r m).quadTlb = s.quadTlb := rfl
@[simp] theorem State.issued_walker (s : State) (c : Ctx) (r : Row) (m : List PcEntry) : (s.issued c r m).walker = s.walker := rfl
@[simp] theorem State.issued_fields (s : State) (c : Ctx) (r : Row) (m : List PcEntry) : (s.issued c r m).fields = s.fields := rfl
@[simp] theorem State.issued_grids (s : State) (c : Ctx) (r : Row) (m : List PcEntry) : (s.issued c r m).grids = s.grids := rfl
@[simp] theorem State.issued_mem (s : State) (c : Ctx) (r : Row) (m : List PcEntry) : (s.issued c r m).mem = s.mem := rfl
@[simp] theorem State.issued_hostMem (s : State) (c : Ctx) (r : Row) (m : List PcEntry) : (s.issued c r m).hostMem = s.hostMem := rfl
@[simp] theorem State.issued_peerMem (s : State) (c : Ctx) (r : Row) (m : List PcEntry) : (s.issued c r m).peerMem = s.peerMem := rfl
@[simp] theorem State.issued_failing (s : State) (c : Ctx) (r : Row) (m : List PcEntry) : (s.issued c r m).failing = s.failing := rfl
@[simp] theorem State.issued_l2 (s : State) (c : Ctx) (r : Row) (m : List PcEntry) : (s.issued c r m).l2 = s.l2 := rfl
@[simp] theorem State.issued_forwards (s : State) (c : Ctx) (r : Row) (m : List PcEntry) : (s.issued c r m).forwards = s.forwards := rfl
@[simp] theorem State.issued_tags (s : State) (c : Ctx) (r : Row) (m : List PcEntry) : (s.issued c r m).tags = s.tags := rfl
@[simp] theorem State.issued_tagCache (s : State) (c : Ctx) (r : Row) (m : List PcEntry) : (s.issued c r m).tagCache = s.tagCache := rfl
@[simp] theorem State.issued_sectors (s : State) (c : Ctx) (r : Row) (m : List PcEntry) : (s.issued c r m).sectors = s.sectors := rfl
@[simp] theorem State.issued_mgmtCyc (s : State) (c : Ctx) (r : Row) (m : List PcEntry) : (s.issued c r m).mgmtCyc = s.mgmtCyc := rfl
@[simp] theorem State.issued_reports (s : State) (c : Ctx) (r : Row) (m : List PcEntry) : (s.issued c r m).reports = s.reports := rfl
@[simp] theorem State.issued_hostLines (s : State) (c : Ctx) (r : Row) (m : List PcEntry) : (s.issued c r m).hostLines = s.hostLines := rfl
@[simp] theorem State.issued_hostQueue (s : State) (c : Ctx) (r : Row) (m : List PcEntry) : (s.issued c r m).hostQueue = s.hostQueue := rfl
@[simp] theorem State.issued_images (s : State) (c : Ctx) (r : Row) (m : List PcEntry) : (s.issued c r m).images = s.images := rfl
@[simp] theorem State.issued_tagHits (s : State) (c : Ctx) (r : Row) (m : List PcEntry) : (s.issued c r m).tagHits = s.tagHits := rfl
@[simp] theorem State.issued_checks (s : State) (c : Ctx) (r : Row) (m : List PcEntry) : (s.issued c r m).checks = s.checks := rfl
@[simp] theorem State.issued_sleepers (s : State) (c : Ctx) (r : Row) (m : List PcEntry) : (s.issued c r m).sleepers = s.sleepers := rfl
@[simp] theorem State.issued_moving (s : State) (c : Ctx) (r : Row) (m : List PcEntry) : (s.issued c r m).moving = s.moving := rfl
@[simp] theorem State.issued_links (s : State) (c : Ctx) (r : Row) (m : List PcEntry) : (s.issued c r m).links = s.links := rfl
@[simp] theorem State.issued_coluri (s : State) (c : Ctx) (r : Row) (m : List PcEntry) : (s.issued c r m).coluri = s.coluri := rfl
@[simp] theorem State.issued_host (s : State) (c : Ctx) (r : Row) (m : List PcEntry) : (s.issued c r m).host = s.host := rfl
@[simp] theorem State.issued_quads (s : State) (c : Ctx) (r : Row) (m : List PcEntry) : (s.issued c r m).quads = s.quads := rfl
@[simp] theorem State.issued_groups (s : State) (c : Ctx) (r : Row) (m : List PcEntry) : (s.issued c r m).groups = s.groups := rfl
@[simp] theorem State.issued_chans (s : State) (c : Ctx) (r : Row) (m : List PcEntry) : (s.issued c r m).chans = s.chans := rfl
@[simp] theorem State.issued_freq (s : State) (c : Ctx) (r : Row) (m : List PcEntry) : (s.issued c r m).freq = s.freq := rfl
@[simp] theorem State.issued_rehash (s : State) (c : Ctx) (r : Row) (m : List PcEntry) : (s.issued c r m).rehash = s.rehash := rfl
@[simp] theorem State.issued_levelBars (s : State) (c : Ctx) (r : Row) (m : List PcEntry) : (s.issued c r m).levelBars = s.levelBars := rfl
@[simp] theorem State.issued_colls (s : State) (c : Ctx) (r : Row) (m : List PcEntry) : (s.issued c r m).colls = s.colls := rfl
@[simp] theorem State.issued_tileIn (s : State) (c : Ctx) (r : Row) (m : List PcEntry) : (s.issued c r m).tileIn = s.tileIn := rfl
@[simp] theorem State.issued_tileQ (s : State) (c : Ctx) (r : Row) (m : List PcEntry) : (s.issued c r m).tileQ = s.tileQ := rfl
@[simp] theorem State.issued_pushes (s : State) (c : Ctx) (r : Row) (m : List PcEntry) : (s.issued c r m).pushes = s.pushes := rfl
@[simp] theorem State.issued_recalls (s : State) (c : Ctx) (r : Row) (m : List PcEntry) : (s.issued c r m).recalls = s.recalls := rfl
@[simp] theorem State.issued_power (s : State) (c : Ctx) (r : Row) (m : List PcEntry) : (s.issued c r m).power = s.power := rfl
@[simp] theorem State.issued_halted (s : State) (c : Ctx) (r : Row) (m : List PcEntry) : (s.issued c r m).halted = s.halted := rfl
@[simp] theorem State.issued_turn (s : State) (c : Ctx) (r : Row) (m : List PcEntry) : (s.issued c r m).turn = s.turn := rfl

/-! ### finish -/

@[simp] theorem State.finish_agenda (s : State) (c : Ctx) (r : Row) : (s.finish c r).agenda = s.agenda := rfl
@[simp] theorem State.finish_steps (s : State) (c : Ctx) (r : Row) : (s.finish c r).steps = s.steps := rfl
@[simp] theorem State.finish_cur (s : State) (c : Ctx) (r : Row) : (s.finish c r).cur = s.cur := rfl
@[simp] theorem State.finish_now (s : State) (c : Ctx) (r : Row) : (s.finish c r).now = s.now := rfl
@[simp] theorem State.finish_fw (s : State) (c : Ctx) (r : Row) : (s.finish c r).fw = s.fw := rfl
@[simp] theorem State.finish_dies (s : State) (c : Ctx) (r : Row) : (s.finish c r).dies = s.dies := rfl
@[simp] theorem State.finish_cores (s : State) (c : Ctx) (r : Row) : (s.finish c r).cores = s.cores := rfl
@[simp] theorem State.finish_quadTlb (s : State) (c : Ctx) (r : Row) : (s.finish c r).quadTlb = s.quadTlb := rfl
@[simp] theorem State.finish_walker (s : State) (c : Ctx) (r : Row) : (s.finish c r).walker = s.walker := rfl
@[simp] theorem State.finish_fields (s : State) (c : Ctx) (r : Row) : (s.finish c r).fields = s.fields := rfl
@[simp] theorem State.finish_grids (s : State) (c : Ctx) (r : Row) : (s.finish c r).grids = s.grids := rfl
@[simp] theorem State.finish_mem (s : State) (c : Ctx) (r : Row) : (s.finish c r).mem = s.mem := rfl
@[simp] theorem State.finish_hostMem (s : State) (c : Ctx) (r : Row) : (s.finish c r).hostMem = s.hostMem := rfl
@[simp] theorem State.finish_peerMem (s : State) (c : Ctx) (r : Row) : (s.finish c r).peerMem = s.peerMem := rfl
@[simp] theorem State.finish_failing (s : State) (c : Ctx) (r : Row) : (s.finish c r).failing = s.failing := rfl
@[simp] theorem State.finish_l2 (s : State) (c : Ctx) (r : Row) : (s.finish c r).l2 = s.l2 := rfl
@[simp] theorem State.finish_forwards (s : State) (c : Ctx) (r : Row) : (s.finish c r).forwards = s.forwards := rfl
@[simp] theorem State.finish_tags (s : State) (c : Ctx) (r : Row) : (s.finish c r).tags = s.tags := rfl
@[simp] theorem State.finish_tagCache (s : State) (c : Ctx) (r : Row) : (s.finish c r).tagCache = s.tagCache := rfl
@[simp] theorem State.finish_sectors (s : State) (c : Ctx) (r : Row) : (s.finish c r).sectors = s.sectors := rfl
@[simp] theorem State.finish_mgmtCyc (s : State) (c : Ctx) (r : Row) : (s.finish c r).mgmtCyc = s.mgmtCyc := rfl
@[simp] theorem State.finish_reports (s : State) (c : Ctx) (r : Row) : (s.finish c r).reports = s.reports := rfl
@[simp] theorem State.finish_hostLines (s : State) (c : Ctx) (r : Row) : (s.finish c r).hostLines = s.hostLines := rfl
@[simp] theorem State.finish_hostQueue (s : State) (c : Ctx) (r : Row) : (s.finish c r).hostQueue = s.hostQueue := rfl
@[simp] theorem State.finish_images (s : State) (c : Ctx) (r : Row) : (s.finish c r).images = s.images := rfl
@[simp] theorem State.finish_tagHits (s : State) (c : Ctx) (r : Row) : (s.finish c r).tagHits = s.tagHits := rfl
@[simp] theorem State.finish_checks (s : State) (c : Ctx) (r : Row) : (s.finish c r).checks = s.checks := rfl
@[simp] theorem State.finish_sleepers (s : State) (c : Ctx) (r : Row) : (s.finish c r).sleepers = s.sleepers := rfl
@[simp] theorem State.finish_moving (s : State) (c : Ctx) (r : Row) : (s.finish c r).moving = s.moving := rfl
@[simp] theorem State.finish_links (s : State) (c : Ctx) (r : Row) : (s.finish c r).links = s.links := rfl
@[simp] theorem State.finish_coluri (s : State) (c : Ctx) (r : Row) : (s.finish c r).coluri = s.coluri := rfl
@[simp] theorem State.finish_host (s : State) (c : Ctx) (r : Row) : (s.finish c r).host = s.host := rfl
@[simp] theorem State.finish_quads (s : State) (c : Ctx) (r : Row) : (s.finish c r).quads = s.quads := rfl
@[simp] theorem State.finish_groups (s : State) (c : Ctx) (r : Row) : (s.finish c r).groups = s.groups := rfl
@[simp] theorem State.finish_chans (s : State) (c : Ctx) (r : Row) : (s.finish c r).chans = s.chans := rfl
@[simp] theorem State.finish_freq (s : State) (c : Ctx) (r : Row) : (s.finish c r).freq = s.freq := rfl
@[simp] theorem State.finish_rehash (s : State) (c : Ctx) (r : Row) : (s.finish c r).rehash = s.rehash := rfl
@[simp] theorem State.finish_levelBars (s : State) (c : Ctx) (r : Row) : (s.finish c r).levelBars = s.levelBars := rfl
@[simp] theorem State.finish_colls (s : State) (c : Ctx) (r : Row) : (s.finish c r).colls = s.colls := rfl
@[simp] theorem State.finish_tileIn (s : State) (c : Ctx) (r : Row) : (s.finish c r).tileIn = s.tileIn := rfl
@[simp] theorem State.finish_tileQ (s : State) (c : Ctx) (r : Row) : (s.finish c r).tileQ = s.tileQ := rfl
@[simp] theorem State.finish_pushes (s : State) (c : Ctx) (r : Row) : (s.finish c r).pushes = s.pushes := rfl
@[simp] theorem State.finish_recalls (s : State) (c : Ctx) (r : Row) : (s.finish c r).recalls = s.recalls := rfl
@[simp] theorem State.finish_power (s : State) (c : Ctx) (r : Row) : (s.finish c r).power = s.power := rfl
@[simp] theorem State.finish_halted (s : State) (c : Ctx) (r : Row) : (s.finish c r).halted = s.halted := rfl
@[simp] theorem State.finish_turn (s : State) (c : Ctx) (r : Row) : (s.finish c r).turn = s.turn := rfl

/-! ### hold -/

@[simp] theorem State.hold_agenda (s : State) (c : Ctx) (k : Int) (n : Nat) (z : Int) : (s.hold c k n z).agenda = s.agenda := rfl
@[simp] theorem State.hold_steps (s : State) (c : Ctx) (k : Int) (n : Nat) (z : Int) : (s.hold c k n z).steps = s.steps := rfl
@[simp] theorem State.hold_cur (s : State) (c : Ctx) (k : Int) (n : Nat) (z : Int) : (s.hold c k n z).cur = s.cur := rfl
@[simp] theorem State.hold_now (s : State) (c : Ctx) (k : Int) (n : Nat) (z : Int) : (s.hold c k n z).now = s.now := rfl
@[simp] theorem State.hold_fw (s : State) (c : Ctx) (k : Int) (n : Nat) (z : Int) : (s.hold c k n z).fw = s.fw := rfl
@[simp] theorem State.hold_dies (s : State) (c : Ctx) (k : Int) (n : Nat) (z : Int) : (s.hold c k n z).dies = s.dies := rfl
@[simp] theorem State.hold_cores (s : State) (c : Ctx) (k : Int) (n : Nat) (z : Int) : (s.hold c k n z).cores = s.cores := rfl
@[simp] theorem State.hold_quadTlb (s : State) (c : Ctx) (k : Int) (n : Nat) (z : Int) : (s.hold c k n z).quadTlb = s.quadTlb := rfl
@[simp] theorem State.hold_walker (s : State) (c : Ctx) (k : Int) (n : Nat) (z : Int) : (s.hold c k n z).walker = s.walker := rfl
@[simp] theorem State.hold_fields (s : State) (c : Ctx) (k : Int) (n : Nat) (z : Int) : (s.hold c k n z).fields = s.fields := rfl
@[simp] theorem State.hold_grids (s : State) (c : Ctx) (k : Int) (n : Nat) (z : Int) : (s.hold c k n z).grids = s.grids := rfl
@[simp] theorem State.hold_mem (s : State) (c : Ctx) (k : Int) (n : Nat) (z : Int) : (s.hold c k n z).mem = s.mem := rfl
@[simp] theorem State.hold_hostMem (s : State) (c : Ctx) (k : Int) (n : Nat) (z : Int) : (s.hold c k n z).hostMem = s.hostMem := rfl
@[simp] theorem State.hold_peerMem (s : State) (c : Ctx) (k : Int) (n : Nat) (z : Int) : (s.hold c k n z).peerMem = s.peerMem := rfl
@[simp] theorem State.hold_failing (s : State) (c : Ctx) (k : Int) (n : Nat) (z : Int) : (s.hold c k n z).failing = s.failing := rfl
@[simp] theorem State.hold_l2 (s : State) (c : Ctx) (k : Int) (n : Nat) (z : Int) : (s.hold c k n z).l2 = s.l2 := rfl
@[simp] theorem State.hold_forwards (s : State) (c : Ctx) (k : Int) (n : Nat) (z : Int) : (s.hold c k n z).forwards = s.forwards := rfl
@[simp] theorem State.hold_tags (s : State) (c : Ctx) (k : Int) (n : Nat) (z : Int) : (s.hold c k n z).tags = s.tags := rfl
@[simp] theorem State.hold_tagCache (s : State) (c : Ctx) (k : Int) (n : Nat) (z : Int) : (s.hold c k n z).tagCache = s.tagCache := rfl
@[simp] theorem State.hold_sectors (s : State) (c : Ctx) (k : Int) (n : Nat) (z : Int) : (s.hold c k n z).sectors = s.sectors := rfl
@[simp] theorem State.hold_mgmtCyc (s : State) (c : Ctx) (k : Int) (n : Nat) (z : Int) : (s.hold c k n z).mgmtCyc = s.mgmtCyc := rfl
@[simp] theorem State.hold_reports (s : State) (c : Ctx) (k : Int) (n : Nat) (z : Int) : (s.hold c k n z).reports = s.reports := rfl
@[simp] theorem State.hold_hostLines (s : State) (c : Ctx) (k : Int) (n : Nat) (z : Int) : (s.hold c k n z).hostLines = s.hostLines := rfl
@[simp] theorem State.hold_hostQueue (s : State) (c : Ctx) (k : Int) (n : Nat) (z : Int) : (s.hold c k n z).hostQueue = s.hostQueue := rfl
@[simp] theorem State.hold_images (s : State) (c : Ctx) (k : Int) (n : Nat) (z : Int) : (s.hold c k n z).images = s.images := rfl
@[simp] theorem State.hold_tagHits (s : State) (c : Ctx) (k : Int) (n : Nat) (z : Int) : (s.hold c k n z).tagHits = s.tagHits := rfl
@[simp] theorem State.hold_checks (s : State) (c : Ctx) (k : Int) (n : Nat) (z : Int) : (s.hold c k n z).checks = s.checks := rfl
@[simp] theorem State.hold_sleepers (s : State) (c : Ctx) (k : Int) (n : Nat) (z : Int) : (s.hold c k n z).sleepers = s.sleepers := rfl
@[simp] theorem State.hold_moving (s : State) (c : Ctx) (k : Int) (n : Nat) (z : Int) : (s.hold c k n z).moving = s.moving := rfl
@[simp] theorem State.hold_links (s : State) (c : Ctx) (k : Int) (n : Nat) (z : Int) : (s.hold c k n z).links = s.links := rfl
@[simp] theorem State.hold_coluri (s : State) (c : Ctx) (k : Int) (n : Nat) (z : Int) : (s.hold c k n z).coluri = s.coluri := rfl
@[simp] theorem State.hold_host (s : State) (c : Ctx) (k : Int) (n : Nat) (z : Int) : (s.hold c k n z).host = s.host := rfl
@[simp] theorem State.hold_quads (s : State) (c : Ctx) (k : Int) (n : Nat) (z : Int) : (s.hold c k n z).quads = s.quads := rfl
@[simp] theorem State.hold_groups (s : State) (c : Ctx) (k : Int) (n : Nat) (z : Int) : (s.hold c k n z).groups = s.groups := rfl
@[simp] theorem State.hold_chans (s : State) (c : Ctx) (k : Int) (n : Nat) (z : Int) : (s.hold c k n z).chans = s.chans := rfl
@[simp] theorem State.hold_freq (s : State) (c : Ctx) (k : Int) (n : Nat) (z : Int) : (s.hold c k n z).freq = s.freq := rfl
@[simp] theorem State.hold_rehash (s : State) (c : Ctx) (k : Int) (n : Nat) (z : Int) : (s.hold c k n z).rehash = s.rehash := rfl
@[simp] theorem State.hold_levelBars (s : State) (c : Ctx) (k : Int) (n : Nat) (z : Int) : (s.hold c k n z).levelBars = s.levelBars := rfl
@[simp] theorem State.hold_colls (s : State) (c : Ctx) (k : Int) (n : Nat) (z : Int) : (s.hold c k n z).colls = s.colls := rfl
@[simp] theorem State.hold_tileIn (s : State) (c : Ctx) (k : Int) (n : Nat) (z : Int) : (s.hold c k n z).tileIn = s.tileIn := rfl
@[simp] theorem State.hold_tileQ (s : State) (c : Ctx) (k : Int) (n : Nat) (z : Int) : (s.hold c k n z).tileQ = s.tileQ := rfl
@[simp] theorem State.hold_pushes (s : State) (c : Ctx) (k : Int) (n : Nat) (z : Int) : (s.hold c k n z).pushes = s.pushes := rfl
@[simp] theorem State.hold_recalls (s : State) (c : Ctx) (k : Int) (n : Nat) (z : Int) : (s.hold c k n z).recalls = s.recalls := rfl
@[simp] theorem State.hold_power (s : State) (c : Ctx) (k : Int) (n : Nat) (z : Int) : (s.hold c k n z).power = s.power := rfl
@[simp] theorem State.hold_halted (s : State) (c : Ctx) (k : Int) (n : Nat) (z : Int) : (s.hold c k n z).halted = s.halted := rfl
@[simp] theorem State.hold_turn (s : State) (c : Ctx) (k : Int) (n : Nat) (z : Int) : (s.hold c k n z).turn = s.turn := rfl

/-! ### log -/

@[simp] theorem State.log_agenda (s : State) (k : Int) (g : Word) (p : Int) (pc i : Word) (l : Int) : (s.log k g p pc i l).agenda = s.agenda := by
  dsimp only [State.log]; split <;> rfl
@[simp] theorem State.log_steps (s : State) (k : Int) (g : Word) (p : Int) (pc i : Word) (l : Int) : (s.log k g p pc i l).steps = s.steps := by
  dsimp only [State.log]; split <;> rfl
@[simp] theorem State.log_cur (s : State) (k : Int) (g : Word) (p : Int) (pc i : Word) (l : Int) : (s.log k g p pc i l).cur = s.cur := by
  dsimp only [State.log]; split <;> rfl
@[simp] theorem State.log_now (s : State) (k : Int) (g : Word) (p : Int) (pc i : Word) (l : Int) : (s.log k g p pc i l).now = s.now := by
  dsimp only [State.log]; split <;> rfl
@[simp] theorem State.log_fw (s : State) (k : Int) (g : Word) (p : Int) (pc i : Word) (l : Int) : (s.log k g p pc i l).fw = s.fw := by
  dsimp only [State.log]; split <;> rfl
@[simp] theorem State.log_dies (s : State) (k : Int) (g : Word) (p : Int) (pc i : Word) (l : Int) : (s.log k g p pc i l).dies = s.dies := by
  dsimp only [State.log]; split <;> rfl
@[simp] theorem State.log_cores (s : State) (k : Int) (g : Word) (p : Int) (pc i : Word) (l : Int) : (s.log k g p pc i l).cores = s.cores := by
  dsimp only [State.log]; split <;> rfl
@[simp] theorem State.log_quadTlb (s : State) (k : Int) (g : Word) (p : Int) (pc i : Word) (l : Int) : (s.log k g p pc i l).quadTlb = s.quadTlb := by
  dsimp only [State.log]; split <;> rfl
@[simp] theorem State.log_walker (s : State) (k : Int) (g : Word) (p : Int) (pc i : Word) (l : Int) : (s.log k g p pc i l).walker = s.walker := by
  dsimp only [State.log]; split <;> rfl
@[simp] theorem State.log_fields (s : State) (k : Int) (g : Word) (p : Int) (pc i : Word) (l : Int) : (s.log k g p pc i l).fields = s.fields := by
  dsimp only [State.log]; split <;> rfl
@[simp] theorem State.log_gangs (s : State) (k : Int) (g : Word) (p : Int) (pc i : Word) (l : Int) : (s.log k g p pc i l).gangs = s.gangs := by
  dsimp only [State.log]; split <;> rfl
@[simp] theorem State.log_grids (s : State) (k : Int) (g : Word) (p : Int) (pc i : Word) (l : Int) : (s.log k g p pc i l).grids = s.grids := by
  dsimp only [State.log]; split <;> rfl
@[simp] theorem State.log_mem (s : State) (k : Int) (g : Word) (p : Int) (pc i : Word) (l : Int) : (s.log k g p pc i l).mem = s.mem := by
  dsimp only [State.log]; split <;> rfl
@[simp] theorem State.log_hostMem (s : State) (k : Int) (g : Word) (p : Int) (pc i : Word) (l : Int) : (s.log k g p pc i l).hostMem = s.hostMem := by
  dsimp only [State.log]; split <;> rfl
@[simp] theorem State.log_peerMem (s : State) (k : Int) (g : Word) (p : Int) (pc i : Word) (l : Int) : (s.log k g p pc i l).peerMem = s.peerMem := by
  dsimp only [State.log]; split <;> rfl
@[simp] theorem State.log_failing (s : State) (k : Int) (g : Word) (p : Int) (pc i : Word) (l : Int) : (s.log k g p pc i l).failing = s.failing := by
  dsimp only [State.log]; split <;> rfl
@[simp] theorem State.log_l2 (s : State) (k : Int) (g : Word) (p : Int) (pc i : Word) (l : Int) : (s.log k g p pc i l).l2 = s.l2 := by
  dsimp only [State.log]; split <;> rfl
@[simp] theorem State.log_forwards (s : State) (k : Int) (g : Word) (p : Int) (pc i : Word) (l : Int) : (s.log k g p pc i l).forwards = s.forwards := by
  dsimp only [State.log]; split <;> rfl
@[simp] theorem State.log_tags (s : State) (k : Int) (g : Word) (p : Int) (pc i : Word) (l : Int) : (s.log k g p pc i l).tags = s.tags := by
  dsimp only [State.log]; split <;> rfl
@[simp] theorem State.log_tagCache (s : State) (k : Int) (g : Word) (p : Int) (pc i : Word) (l : Int) : (s.log k g p pc i l).tagCache = s.tagCache := by
  dsimp only [State.log]; split <;> rfl
@[simp] theorem State.log_sectors (s : State) (k : Int) (g : Word) (p : Int) (pc i : Word) (l : Int) : (s.log k g p pc i l).sectors = s.sectors := by
  dsimp only [State.log]; split <;> rfl
@[simp] theorem State.log_mgmtCyc (s : State) (k : Int) (g : Word) (p : Int) (pc i : Word) (l : Int) : (s.log k g p pc i l).mgmtCyc = s.mgmtCyc := by
  dsimp only [State.log]; split <;> rfl
@[simp] theorem State.log_reports (s : State) (k : Int) (g : Word) (p : Int) (pc i : Word) (l : Int) : (s.log k g p pc i l).reports = s.reports := by
  dsimp only [State.log]; split <;> rfl
@[simp] theorem State.log_hostLines (s : State) (k : Int) (g : Word) (p : Int) (pc i : Word) (l : Int) : (s.log k g p pc i l).hostLines = s.hostLines := by
  dsimp only [State.log]; split <;> rfl
@[simp] theorem State.log_hostQueue (s : State) (k : Int) (g : Word) (p : Int) (pc i : Word) (l : Int) : (s.log k g p pc i l).hostQueue = s.hostQueue := by
  dsimp only [State.log]; split <;> rfl
@[simp] theorem State.log_images (s : State) (k : Int) (g : Word) (p : Int) (pc i : Word) (l : Int) : (s.log k g p pc i l).images = s.images := by
  dsimp only [State.log]; split <;> rfl
@[simp] theorem State.log_tagHits (s : State) (k : Int) (g : Word) (p : Int) (pc i : Word) (l : Int) : (s.log k g p pc i l).tagHits = s.tagHits := by
  dsimp only [State.log]; split <;> rfl
@[simp] theorem State.log_checks (s : State) (k : Int) (g : Word) (p : Int) (pc i : Word) (l : Int) : (s.log k g p pc i l).checks = s.checks := by
  dsimp only [State.log]; split <;> rfl
@[simp] theorem State.log_sleepers (s : State) (k : Int) (g : Word) (p : Int) (pc i : Word) (l : Int) : (s.log k g p pc i l).sleepers = s.sleepers := by
  dsimp only [State.log]; split <;> rfl
@[simp] theorem State.log_moving (s : State) (k : Int) (g : Word) (p : Int) (pc i : Word) (l : Int) : (s.log k g p pc i l).moving = s.moving := by
  dsimp only [State.log]; split <;> rfl
@[simp] theorem State.log_links (s : State) (k : Int) (g : Word) (p : Int) (pc i : Word) (l : Int) : (s.log k g p pc i l).links = s.links := by
  dsimp only [State.log]; split <;> rfl
@[simp] theorem State.log_coluri (s : State) (k : Int) (g : Word) (p : Int) (pc i : Word) (l : Int) : (s.log k g p pc i l).coluri = s.coluri := by
  dsimp only [State.log]; split <;> rfl
@[simp] theorem State.log_quads (s : State) (k : Int) (g : Word) (p : Int) (pc i : Word) (l : Int) : (s.log k g p pc i l).quads = s.quads := by
  dsimp only [State.log]; split <;> rfl
@[simp] theorem State.log_groups (s : State) (k : Int) (g : Word) (p : Int) (pc i : Word) (l : Int) : (s.log k g p pc i l).groups = s.groups := by
  dsimp only [State.log]; split <;> rfl
@[simp] theorem State.log_chans (s : State) (k : Int) (g : Word) (p : Int) (pc i : Word) (l : Int) : (s.log k g p pc i l).chans = s.chans := by
  dsimp only [State.log]; split <;> rfl
@[simp] theorem State.log_freq (s : State) (k : Int) (g : Word) (p : Int) (pc i : Word) (l : Int) : (s.log k g p pc i l).freq = s.freq := by
  dsimp only [State.log]; split <;> rfl
@[simp] theorem State.log_rehash (s : State) (k : Int) (g : Word) (p : Int) (pc i : Word) (l : Int) : (s.log k g p pc i l).rehash = s.rehash := by
  dsimp only [State.log]; split <;> rfl
@[simp] theorem State.log_levelBars (s : State) (k : Int) (g : Word) (p : Int) (pc i : Word) (l : Int) : (s.log k g p pc i l).levelBars = s.levelBars := by
  dsimp only [State.log]; split <;> rfl
@[simp] theorem State.log_colls (s : State) (k : Int) (g : Word) (p : Int) (pc i : Word) (l : Int) : (s.log k g p pc i l).colls = s.colls := by
  dsimp only [State.log]; split <;> rfl
@[simp] theorem State.log_tileIn (s : State) (k : Int) (g : Word) (p : Int) (pc i : Word) (l : Int) : (s.log k g p pc i l).tileIn = s.tileIn := by
  dsimp only [State.log]; split <;> rfl
@[simp] theorem State.log_tileQ (s : State) (k : Int) (g : Word) (p : Int) (pc i : Word) (l : Int) : (s.log k g p pc i l).tileQ = s.tileQ := by
  dsimp only [State.log]; split <;> rfl
@[simp] theorem State.log_pushes (s : State) (k : Int) (g : Word) (p : Int) (pc i : Word) (l : Int) : (s.log k g p pc i l).pushes = s.pushes := by
  dsimp only [State.log]; split <;> rfl
@[simp] theorem State.log_recalls (s : State) (k : Int) (g : Word) (p : Int) (pc i : Word) (l : Int) : (s.log k g p pc i l).recalls = s.recalls := by
  dsimp only [State.log]; split <;> rfl
@[simp] theorem State.log_power (s : State) (k : Int) (g : Word) (p : Int) (pc i : Word) (l : Int) : (s.log k g p pc i l).power = s.power := by
  dsimp only [State.log]; split <;> rfl
@[simp] theorem State.log_halted (s : State) (k : Int) (g : Word) (p : Int) (pc i : Word) (l : Int) : (s.log k g p pc i l).halted = s.halted := by
  dsimp only [State.log]; split <;> rfl
@[simp] theorem State.log_turn (s : State) (k : Int) (g : Word) (p : Int) (pc i : Word) (l : Int) : (s.log k g p pc i l).turn = s.turn := by
  dsimp only [State.log]; split <;> rfl

/-! ### logRow -/

@[simp] theorem State.logRow_agenda (s : State) (k : Int) (r : RowRef) (pc i : Word) (l : Int) : (s.logRow k r pc i l).agenda = s.agenda := by
  simp [State.logRow]
@[simp] theorem State.logRow_steps (s : State) (k : Int) (r : RowRef) (pc i : Word) (l : Int) : (s.logRow k r pc i l).steps = s.steps := by
  simp [State.logRow]
@[simp] theorem State.logRow_cur (s : State) (k : Int) (r : RowRef) (pc i : Word) (l : Int) : (s.logRow k r pc i l).cur = s.cur := by
  simp [State.logRow]
@[simp] theorem State.logRow_now (s : State) (k : Int) (r : RowRef) (pc i : Word) (l : Int) : (s.logRow k r pc i l).now = s.now := by
  simp [State.logRow]
@[simp] theorem State.logRow_fw (s : State) (k : Int) (r : RowRef) (pc i : Word) (l : Int) : (s.logRow k r pc i l).fw = s.fw := by
  simp [State.logRow]
@[simp] theorem State.logRow_dies (s : State) (k : Int) (r : RowRef) (pc i : Word) (l : Int) : (s.logRow k r pc i l).dies = s.dies := by
  simp [State.logRow]
@[simp] theorem State.logRow_cores (s : State) (k : Int) (r : RowRef) (pc i : Word) (l : Int) : (s.logRow k r pc i l).cores = s.cores := by
  simp [State.logRow]
@[simp] theorem State.logRow_quadTlb (s : State) (k : Int) (r : RowRef) (pc i : Word) (l : Int) : (s.logRow k r pc i l).quadTlb = s.quadTlb := by
  simp [State.logRow]
@[simp] theorem State.logRow_walker (s : State) (k : Int) (r : RowRef) (pc i : Word) (l : Int) : (s.logRow k r pc i l).walker = s.walker := by
  simp [State.logRow]
@[simp] theorem State.logRow_fields (s : State) (k : Int) (r : RowRef) (pc i : Word) (l : Int) : (s.logRow k r pc i l).fields = s.fields := by
  simp [State.logRow]
@[simp] theorem State.logRow_gangs (s : State) (k : Int) (r : RowRef) (pc i : Word) (l : Int) : (s.logRow k r pc i l).gangs = s.gangs := by
  simp [State.logRow]
@[simp] theorem State.logRow_grids (s : State) (k : Int) (r : RowRef) (pc i : Word) (l : Int) : (s.logRow k r pc i l).grids = s.grids := by
  simp [State.logRow]
@[simp] theorem State.logRow_mem (s : State) (k : Int) (r : RowRef) (pc i : Word) (l : Int) : (s.logRow k r pc i l).mem = s.mem := by
  simp [State.logRow]
@[simp] theorem State.logRow_hostMem (s : State) (k : Int) (r : RowRef) (pc i : Word) (l : Int) : (s.logRow k r pc i l).hostMem = s.hostMem := by
  simp [State.logRow]
@[simp] theorem State.logRow_peerMem (s : State) (k : Int) (r : RowRef) (pc i : Word) (l : Int) : (s.logRow k r pc i l).peerMem = s.peerMem := by
  simp [State.logRow]
@[simp] theorem State.logRow_failing (s : State) (k : Int) (r : RowRef) (pc i : Word) (l : Int) : (s.logRow k r pc i l).failing = s.failing := by
  simp [State.logRow]
@[simp] theorem State.logRow_l2 (s : State) (k : Int) (r : RowRef) (pc i : Word) (l : Int) : (s.logRow k r pc i l).l2 = s.l2 := by
  simp [State.logRow]
@[simp] theorem State.logRow_forwards (s : State) (k : Int) (r : RowRef) (pc i : Word) (l : Int) : (s.logRow k r pc i l).forwards = s.forwards := by
  simp [State.logRow]
@[simp] theorem State.logRow_tags (s : State) (k : Int) (r : RowRef) (pc i : Word) (l : Int) : (s.logRow k r pc i l).tags = s.tags := by
  simp [State.logRow]
@[simp] theorem State.logRow_tagCache (s : State) (k : Int) (r : RowRef) (pc i : Word) (l : Int) : (s.logRow k r pc i l).tagCache = s.tagCache := by
  simp [State.logRow]
@[simp] theorem State.logRow_sectors (s : State) (k : Int) (r : RowRef) (pc i : Word) (l : Int) : (s.logRow k r pc i l).sectors = s.sectors := by
  simp [State.logRow]
@[simp] theorem State.logRow_mgmtCyc (s : State) (k : Int) (r : RowRef) (pc i : Word) (l : Int) : (s.logRow k r pc i l).mgmtCyc = s.mgmtCyc := by
  simp [State.logRow]
@[simp] theorem State.logRow_reports (s : State) (k : Int) (r : RowRef) (pc i : Word) (l : Int) : (s.logRow k r pc i l).reports = s.reports := by
  simp [State.logRow]
@[simp] theorem State.logRow_hostLines (s : State) (k : Int) (r : RowRef) (pc i : Word) (l : Int) : (s.logRow k r pc i l).hostLines = s.hostLines := by
  simp [State.logRow]
@[simp] theorem State.logRow_hostQueue (s : State) (k : Int) (r : RowRef) (pc i : Word) (l : Int) : (s.logRow k r pc i l).hostQueue = s.hostQueue := by
  simp [State.logRow]
@[simp] theorem State.logRow_images (s : State) (k : Int) (r : RowRef) (pc i : Word) (l : Int) : (s.logRow k r pc i l).images = s.images := by
  simp [State.logRow]
@[simp] theorem State.logRow_tagHits (s : State) (k : Int) (r : RowRef) (pc i : Word) (l : Int) : (s.logRow k r pc i l).tagHits = s.tagHits := by
  simp [State.logRow]
@[simp] theorem State.logRow_checks (s : State) (k : Int) (r : RowRef) (pc i : Word) (l : Int) : (s.logRow k r pc i l).checks = s.checks := by
  simp [State.logRow]
@[simp] theorem State.logRow_sleepers (s : State) (k : Int) (r : RowRef) (pc i : Word) (l : Int) : (s.logRow k r pc i l).sleepers = s.sleepers := by
  simp [State.logRow]
@[simp] theorem State.logRow_moving (s : State) (k : Int) (r : RowRef) (pc i : Word) (l : Int) : (s.logRow k r pc i l).moving = s.moving := by
  simp [State.logRow]
@[simp] theorem State.logRow_links (s : State) (k : Int) (r : RowRef) (pc i : Word) (l : Int) : (s.logRow k r pc i l).links = s.links := by
  simp [State.logRow]
@[simp] theorem State.logRow_coluri (s : State) (k : Int) (r : RowRef) (pc i : Word) (l : Int) : (s.logRow k r pc i l).coluri = s.coluri := by
  simp [State.logRow]
@[simp] theorem State.logRow_quads (s : State) (k : Int) (r : RowRef) (pc i : Word) (l : Int) : (s.logRow k r pc i l).quads = s.quads := by
  simp [State.logRow]
@[simp] theorem State.logRow_groups (s : State) (k : Int) (r : RowRef) (pc i : Word) (l : Int) : (s.logRow k r pc i l).groups = s.groups := by
  simp [State.logRow]
@[simp] theorem State.logRow_chans (s : State) (k : Int) (r : RowRef) (pc i : Word) (l : Int) : (s.logRow k r pc i l).chans = s.chans := by
  simp [State.logRow]
@[simp] theorem State.logRow_freq (s : State) (k : Int) (r : RowRef) (pc i : Word) (l : Int) : (s.logRow k r pc i l).freq = s.freq := by
  simp [State.logRow]
@[simp] theorem State.logRow_rehash (s : State) (k : Int) (r : RowRef) (pc i : Word) (l : Int) : (s.logRow k r pc i l).rehash = s.rehash := by
  simp [State.logRow]
@[simp] theorem State.logRow_levelBars (s : State) (k : Int) (r : RowRef) (pc i : Word) (l : Int) : (s.logRow k r pc i l).levelBars = s.levelBars := by
  simp [State.logRow]
@[simp] theorem State.logRow_colls (s : State) (k : Int) (r : RowRef) (pc i : Word) (l : Int) : (s.logRow k r pc i l).colls = s.colls := by
  simp [State.logRow]
@[simp] theorem State.logRow_tileIn (s : State) (k : Int) (r : RowRef) (pc i : Word) (l : Int) : (s.logRow k r pc i l).tileIn = s.tileIn := by
  simp [State.logRow]
@[simp] theorem State.logRow_tileQ (s : State) (k : Int) (r : RowRef) (pc i : Word) (l : Int) : (s.logRow k r pc i l).tileQ = s.tileQ := by
  simp [State.logRow]
@[simp] theorem State.logRow_pushes (s : State) (k : Int) (r : RowRef) (pc i : Word) (l : Int) : (s.logRow k r pc i l).pushes = s.pushes := by
  simp [State.logRow]
@[simp] theorem State.logRow_recalls (s : State) (k : Int) (r : RowRef) (pc i : Word) (l : Int) : (s.logRow k r pc i l).recalls = s.recalls := by
  simp [State.logRow]
@[simp] theorem State.logRow_power (s : State) (k : Int) (r : RowRef) (pc i : Word) (l : Int) : (s.logRow k r pc i l).power = s.power := by
  simp [State.logRow]
@[simp] theorem State.logRow_halted (s : State) (k : Int) (r : RowRef) (pc i : Word) (l : Int) : (s.logRow k r pc i l).halted = s.halted := by
  simp [State.logRow]
@[simp] theorem State.logRow_turn (s : State) (k : Int) (r : RowRef) (pc i : Word) (l : Int) : (s.logRow k r pc i l).turn = s.turn := by
  simp [State.logRow]

/-! ### endGrid -/

@[simp] theorem State.endGrid_agenda (s : State) (g n : Nat) : (s.endGrid g n).agenda = s.agenda := rfl
@[simp] theorem State.endGrid_steps (s : State) (g n : Nat) : (s.endGrid g n).steps = s.steps := rfl
@[simp] theorem State.endGrid_cur (s : State) (g n : Nat) : (s.endGrid g n).cur = s.cur := rfl
@[simp] theorem State.endGrid_now (s : State) (g n : Nat) : (s.endGrid g n).now = s.now := rfl
@[simp] theorem State.endGrid_fw (s : State) (g n : Nat) : (s.endGrid g n).fw = s.fw := rfl
@[simp] theorem State.endGrid_dies (s : State) (g n : Nat) : (s.endGrid g n).dies = s.dies := rfl
@[simp] theorem State.endGrid_cores (s : State) (g n : Nat) : (s.endGrid g n).cores = s.cores := rfl
@[simp] theorem State.endGrid_quadTlb (s : State) (g n : Nat) : (s.endGrid g n).quadTlb = s.quadTlb := rfl
@[simp] theorem State.endGrid_walker (s : State) (g n : Nat) : (s.endGrid g n).walker = s.walker := rfl
@[simp] theorem State.endGrid_fields (s : State) (g n : Nat) : (s.endGrid g n).fields = s.fields := rfl
@[simp] theorem State.endGrid_mem (s : State) (g n : Nat) : (s.endGrid g n).mem = s.mem := rfl
@[simp] theorem State.endGrid_hostMem (s : State) (g n : Nat) : (s.endGrid g n).hostMem = s.hostMem := rfl
@[simp] theorem State.endGrid_peerMem (s : State) (g n : Nat) : (s.endGrid g n).peerMem = s.peerMem := rfl
@[simp] theorem State.endGrid_failing (s : State) (g n : Nat) : (s.endGrid g n).failing = s.failing := rfl
@[simp] theorem State.endGrid_l2 (s : State) (g n : Nat) : (s.endGrid g n).l2 = s.l2 := rfl
@[simp] theorem State.endGrid_forwards (s : State) (g n : Nat) : (s.endGrid g n).forwards = s.forwards := rfl
@[simp] theorem State.endGrid_tags (s : State) (g n : Nat) : (s.endGrid g n).tags = s.tags := rfl
@[simp] theorem State.endGrid_tagCache (s : State) (g n : Nat) : (s.endGrid g n).tagCache = s.tagCache := rfl
@[simp] theorem State.endGrid_sectors (s : State) (g n : Nat) : (s.endGrid g n).sectors = s.sectors := rfl
@[simp] theorem State.endGrid_mgmtCyc (s : State) (g n : Nat) : (s.endGrid g n).mgmtCyc = s.mgmtCyc := rfl
@[simp] theorem State.endGrid_reports (s : State) (g n : Nat) : (s.endGrid g n).reports = s.reports := rfl
@[simp] theorem State.endGrid_hostLines (s : State) (g n : Nat) : (s.endGrid g n).hostLines = s.hostLines := rfl
@[simp] theorem State.endGrid_hostQueue (s : State) (g n : Nat) : (s.endGrid g n).hostQueue = s.hostQueue := rfl
@[simp] theorem State.endGrid_images (s : State) (g n : Nat) : (s.endGrid g n).images = s.images := rfl
@[simp] theorem State.endGrid_tagHits (s : State) (g n : Nat) : (s.endGrid g n).tagHits = s.tagHits := rfl
@[simp] theorem State.endGrid_checks (s : State) (g n : Nat) : (s.endGrid g n).checks = s.checks := rfl
@[simp] theorem State.endGrid_sleepers (s : State) (g n : Nat) : (s.endGrid g n).sleepers = s.sleepers := rfl
@[simp] theorem State.endGrid_moving (s : State) (g n : Nat) : (s.endGrid g n).moving = s.moving := rfl
@[simp] theorem State.endGrid_links (s : State) (g n : Nat) : (s.endGrid g n).links = s.links := rfl
@[simp] theorem State.endGrid_coluri (s : State) (g n : Nat) : (s.endGrid g n).coluri = s.coluri := rfl
@[simp] theorem State.endGrid_host (s : State) (g n : Nat) : (s.endGrid g n).host = s.host := rfl
@[simp] theorem State.endGrid_quads (s : State) (g n : Nat) : (s.endGrid g n).quads = s.quads := rfl
@[simp] theorem State.endGrid_groups (s : State) (g n : Nat) : (s.endGrid g n).groups = s.groups := rfl
@[simp] theorem State.endGrid_chans (s : State) (g n : Nat) : (s.endGrid g n).chans = s.chans := rfl
@[simp] theorem State.endGrid_freq (s : State) (g n : Nat) : (s.endGrid g n).freq = s.freq := rfl
@[simp] theorem State.endGrid_rehash (s : State) (g n : Nat) : (s.endGrid g n).rehash = s.rehash := rfl
@[simp] theorem State.endGrid_levelBars (s : State) (g n : Nat) : (s.endGrid g n).levelBars = s.levelBars := rfl
@[simp] theorem State.endGrid_colls (s : State) (g n : Nat) : (s.endGrid g n).colls = s.colls := rfl
@[simp] theorem State.endGrid_tileIn (s : State) (g n : Nat) : (s.endGrid g n).tileIn = s.tileIn := rfl
@[simp] theorem State.endGrid_pushes (s : State) (g n : Nat) : (s.endGrid g n).pushes = s.pushes := rfl
@[simp] theorem State.endGrid_recalls (s : State) (g n : Nat) : (s.endGrid g n).recalls = s.recalls := rfl
@[simp] theorem State.endGrid_power (s : State) (g n : Nat) : (s.endGrid g n).power = s.power := rfl
@[simp] theorem State.endGrid_halted (s : State) (g n : Nat) : (s.endGrid g n).halted = s.halted := rfl
@[simp] theorem State.endGrid_turn (s : State) (g n : Nat) : (s.endGrid g n).turn = s.turn := rfl

/-! ### trapped -/

@[simp] theorem State.trapped_agenda (s : State) (c : Ctx) (r : Row) (b : Bool) (m : List PcEntry) : (s.trapped c r b m).agenda = s.agenda := by
  unfold State.trapped; split <;> rfl
@[simp] theorem State.trapped_steps (s : State) (c : Ctx) (r : Row) (b : Bool) (m : List PcEntry) : (s.trapped c r b m).steps = s.steps := by
  unfold State.trapped; split <;> rfl
@[simp] theorem State.trapped_cur (s : State) (c : Ctx) (r : Row) (b : Bool) (m : List PcEntry) : (s.trapped c r b m).cur = s.cur := by
  unfold State.trapped; split <;> rfl
@[simp] theorem State.trapped_now (s : State) (c : Ctx) (r : Row) (b : Bool) (m : List PcEntry) : (s.trapped c r b m).now = s.now := by
  unfold State.trapped; split <;> rfl
@[simp] theorem State.trapped_fw (s : State) (c : Ctx) (r : Row) (b : Bool) (m : List PcEntry) : (s.trapped c r b m).fw = s.fw := by
  unfold State.trapped; split <;> rfl
@[simp] theorem State.trapped_dies (s : State) (c : Ctx) (r : Row) (b : Bool) (m : List PcEntry) : (s.trapped c r b m).dies = s.dies := by
  unfold State.trapped; split <;> rfl
@[simp] theorem State.trapped_cores (s : State) (c : Ctx) (r : Row) (b : Bool) (m : List PcEntry) : (s.trapped c r b m).cores = s.cores := by
  unfold State.trapped; split <;> rfl
@[simp] theorem State.trapped_quadTlb (s : State) (c : Ctx) (r : Row) (b : Bool) (m : List PcEntry) : (s.trapped c r b m).quadTlb = s.quadTlb := by
  unfold State.trapped; split <;> rfl
@[simp] theorem State.trapped_walker (s : State) (c : Ctx) (r : Row) (b : Bool) (m : List PcEntry) : (s.trapped c r b m).walker = s.walker := by
  unfold State.trapped; split <;> rfl
@[simp] theorem State.trapped_fields (s : State) (c : Ctx) (r : Row) (b : Bool) (m : List PcEntry) : (s.trapped c r b m).fields = s.fields := by
  unfold State.trapped; split <;> rfl
@[simp] theorem State.trapped_grids (s : State) (c : Ctx) (r : Row) (b : Bool) (m : List PcEntry) : (s.trapped c r b m).grids = s.grids := by
  unfold State.trapped; split <;> rfl
@[simp] theorem State.trapped_mem (s : State) (c : Ctx) (r : Row) (b : Bool) (m : List PcEntry) : (s.trapped c r b m).mem = s.mem := by
  unfold State.trapped; split <;> rfl
@[simp] theorem State.trapped_hostMem (s : State) (c : Ctx) (r : Row) (b : Bool) (m : List PcEntry) : (s.trapped c r b m).hostMem = s.hostMem := by
  unfold State.trapped; split <;> rfl
@[simp] theorem State.trapped_peerMem (s : State) (c : Ctx) (r : Row) (b : Bool) (m : List PcEntry) : (s.trapped c r b m).peerMem = s.peerMem := by
  unfold State.trapped; split <;> rfl
@[simp] theorem State.trapped_failing (s : State) (c : Ctx) (r : Row) (b : Bool) (m : List PcEntry) : (s.trapped c r b m).failing = s.failing := by
  unfold State.trapped; split <;> rfl
@[simp] theorem State.trapped_l2 (s : State) (c : Ctx) (r : Row) (b : Bool) (m : List PcEntry) : (s.trapped c r b m).l2 = s.l2 := by
  unfold State.trapped; split <;> rfl
@[simp] theorem State.trapped_forwards (s : State) (c : Ctx) (r : Row) (b : Bool) (m : List PcEntry) : (s.trapped c r b m).forwards = s.forwards := by
  unfold State.trapped; split <;> rfl
@[simp] theorem State.trapped_tags (s : State) (c : Ctx) (r : Row) (b : Bool) (m : List PcEntry) : (s.trapped c r b m).tags = s.tags := by
  unfold State.trapped; split <;> rfl
@[simp] theorem State.trapped_tagCache (s : State) (c : Ctx) (r : Row) (b : Bool) (m : List PcEntry) : (s.trapped c r b m).tagCache = s.tagCache := by
  unfold State.trapped; split <;> rfl
@[simp] theorem State.trapped_sectors (s : State) (c : Ctx) (r : Row) (b : Bool) (m : List PcEntry) : (s.trapped c r b m).sectors = s.sectors := by
  unfold State.trapped; split <;> rfl
@[simp] theorem State.trapped_mgmtCyc (s : State) (c : Ctx) (r : Row) (b : Bool) (m : List PcEntry) : (s.trapped c r b m).mgmtCyc = s.mgmtCyc := by
  unfold State.trapped; split <;> rfl
@[simp] theorem State.trapped_reports (s : State) (c : Ctx) (r : Row) (b : Bool) (m : List PcEntry) : (s.trapped c r b m).reports = s.reports := by
  unfold State.trapped; split <;> rfl
@[simp] theorem State.trapped_hostLines (s : State) (c : Ctx) (r : Row) (b : Bool) (m : List PcEntry) : (s.trapped c r b m).hostLines = s.hostLines := by
  unfold State.trapped; split <;> rfl
@[simp] theorem State.trapped_hostQueue (s : State) (c : Ctx) (r : Row) (b : Bool) (m : List PcEntry) : (s.trapped c r b m).hostQueue = s.hostQueue := by
  unfold State.trapped; split <;> rfl
@[simp] theorem State.trapped_images (s : State) (c : Ctx) (r : Row) (b : Bool) (m : List PcEntry) : (s.trapped c r b m).images = s.images := by
  unfold State.trapped; split <;> rfl
@[simp] theorem State.trapped_tagHits (s : State) (c : Ctx) (r : Row) (b : Bool) (m : List PcEntry) : (s.trapped c r b m).tagHits = s.tagHits := by
  unfold State.trapped; split <;> rfl
@[simp] theorem State.trapped_checks (s : State) (c : Ctx) (r : Row) (b : Bool) (m : List PcEntry) : (s.trapped c r b m).checks = s.checks := by
  unfold State.trapped; split <;> rfl
@[simp] theorem State.trapped_sleepers (s : State) (c : Ctx) (r : Row) (b : Bool) (m : List PcEntry) : (s.trapped c r b m).sleepers = s.sleepers := by
  unfold State.trapped; split <;> rfl
@[simp] theorem State.trapped_moving (s : State) (c : Ctx) (r : Row) (b : Bool) (m : List PcEntry) : (s.trapped c r b m).moving = s.moving := by
  unfold State.trapped; split <;> rfl
@[simp] theorem State.trapped_links (s : State) (c : Ctx) (r : Row) (b : Bool) (m : List PcEntry) : (s.trapped c r b m).links = s.links := by
  unfold State.trapped; split <;> rfl
@[simp] theorem State.trapped_coluri (s : State) (c : Ctx) (r : Row) (b : Bool) (m : List PcEntry) : (s.trapped c r b m).coluri = s.coluri := by
  unfold State.trapped; split <;> rfl
@[simp] theorem State.trapped_host (s : State) (c : Ctx) (r : Row) (b : Bool) (m : List PcEntry) : (s.trapped c r b m).host = s.host := by
  unfold State.trapped; split <;> rfl
@[simp] theorem State.trapped_quads (s : State) (c : Ctx) (r : Row) (b : Bool) (m : List PcEntry) : (s.trapped c r b m).quads = s.quads := by
  unfold State.trapped; split <;> rfl
@[simp] theorem State.trapped_groups (s : State) (c : Ctx) (r : Row) (b : Bool) (m : List PcEntry) : (s.trapped c r b m).groups = s.groups := by
  unfold State.trapped; split <;> rfl
@[simp] theorem State.trapped_chans (s : State) (c : Ctx) (r : Row) (b : Bool) (m : List PcEntry) : (s.trapped c r b m).chans = s.chans := by
  unfold State.trapped; split <;> rfl
@[simp] theorem State.trapped_freq (s : State) (c : Ctx) (r : Row) (b : Bool) (m : List PcEntry) : (s.trapped c r b m).freq = s.freq := by
  unfold State.trapped; split <;> rfl
@[simp] theorem State.trapped_rehash (s : State) (c : Ctx) (r : Row) (b : Bool) (m : List PcEntry) : (s.trapped c r b m).rehash = s.rehash := by
  unfold State.trapped; split <;> rfl
@[simp] theorem State.trapped_levelBars (s : State) (c : Ctx) (r : Row) (b : Bool) (m : List PcEntry) : (s.trapped c r b m).levelBars = s.levelBars := by
  unfold State.trapped; split <;> rfl
@[simp] theorem State.trapped_colls (s : State) (c : Ctx) (r : Row) (b : Bool) (m : List PcEntry) : (s.trapped c r b m).colls = s.colls := by
  unfold State.trapped; split <;> rfl
@[simp] theorem State.trapped_tileIn (s : State) (c : Ctx) (r : Row) (b : Bool) (m : List PcEntry) : (s.trapped c r b m).tileIn = s.tileIn := by
  unfold State.trapped; split <;> rfl
@[simp] theorem State.trapped_tileQ (s : State) (c : Ctx) (r : Row) (b : Bool) (m : List PcEntry) : (s.trapped c r b m).tileQ = s.tileQ := by
  unfold State.trapped; split <;> rfl
@[simp] theorem State.trapped_pushes (s : State) (c : Ctx) (r : Row) (b : Bool) (m : List PcEntry) : (s.trapped c r b m).pushes = s.pushes := by
  unfold State.trapped; split <;> rfl
@[simp] theorem State.trapped_recalls (s : State) (c : Ctx) (r : Row) (b : Bool) (m : List PcEntry) : (s.trapped c r b m).recalls = s.recalls := by
  unfold State.trapped; split <;> rfl
@[simp] theorem State.trapped_power (s : State) (c : Ctx) (r : Row) (b : Bool) (m : List PcEntry) : (s.trapped c r b m).power = s.power := by
  unfold State.trapped; split <;> rfl
@[simp] theorem State.trapped_halted (s : State) (c : Ctx) (r : Row) (b : Bool) (m : List PcEntry) : (s.trapped c r b m).halted = s.halted := by
  unfold State.trapped; split <;> rfl
@[simp] theorem State.trapped_turn (s : State) (c : Ctx) (r : Row) (b : Bool) (m : List PcEntry) : (s.trapped c r b m).turn = s.turn := by
  unfold State.trapped; split <;> rfl

/-! ### Taking a trap -/

@[simp] theorem takeTrapAt_agenda (s : State) (c : Ctx) (u : Cause) (i : Word) (pc : CodeAddr) (b : Bool) (k n : Nat) :
    (takeTrapAt s c u i pc b k n).agenda = s.agenda := by unfold takeTrapAt; split <;> simp
@[simp] theorem takeTrap_agenda (s : State) (c : Ctx) (t : Trap) : (takeTrap s c t).agenda = s.agenda := by
  simp [takeTrap]
@[simp] theorem takeTrapAt_steps (s : State) (c : Ctx) (u : Cause) (i : Word) (pc : CodeAddr) (b : Bool) (k n : Nat) :
    (takeTrapAt s c u i pc b k n).steps = s.steps := by unfold takeTrapAt; split <;> simp
@[simp] theorem takeTrap_steps (s : State) (c : Ctx) (t : Trap) : (takeTrap s c t).steps = s.steps := by
  simp [takeTrap]
@[simp] theorem takeTrapAt_cur (s : State) (c : Ctx) (u : Cause) (i : Word) (pc : CodeAddr) (b : Bool) (k n : Nat) :
    (takeTrapAt s c u i pc b k n).cur = s.cur := by unfold takeTrapAt; split <;> simp
@[simp] theorem takeTrap_cur (s : State) (c : Ctx) (t : Trap) : (takeTrap s c t).cur = s.cur := by
  simp [takeTrap]
@[simp] theorem takeTrapAt_now (s : State) (c : Ctx) (u : Cause) (i : Word) (pc : CodeAddr) (b : Bool) (k n : Nat) :
    (takeTrapAt s c u i pc b k n).now = s.now := by unfold takeTrapAt; split <;> simp
@[simp] theorem takeTrap_now (s : State) (c : Ctx) (t : Trap) : (takeTrap s c t).now = s.now := by
  simp [takeTrap]
@[simp] theorem takeTrapAt_fw (s : State) (c : Ctx) (u : Cause) (i : Word) (pc : CodeAddr) (b : Bool) (k n : Nat) :
    (takeTrapAt s c u i pc b k n).fw = s.fw := by unfold takeTrapAt; split <;> simp
@[simp] theorem takeTrap_fw (s : State) (c : Ctx) (t : Trap) : (takeTrap s c t).fw = s.fw := by
  simp [takeTrap]
@[simp] theorem takeTrapAt_dies (s : State) (c : Ctx) (u : Cause) (i : Word) (pc : CodeAddr) (b : Bool) (k n : Nat) :
    (takeTrapAt s c u i pc b k n).dies = s.dies := by unfold takeTrapAt; split <;> simp
@[simp] theorem takeTrap_dies (s : State) (c : Ctx) (t : Trap) : (takeTrap s c t).dies = s.dies := by
  simp [takeTrap]
@[simp] theorem takeTrapAt_cores (s : State) (c : Ctx) (u : Cause) (i : Word) (pc : CodeAddr) (b : Bool) (k n : Nat) :
    (takeTrapAt s c u i pc b k n).cores = s.cores := by unfold takeTrapAt; split <;> simp
@[simp] theorem takeTrap_cores (s : State) (c : Ctx) (t : Trap) : (takeTrap s c t).cores = s.cores := by
  simp [takeTrap]
@[simp] theorem takeTrapAt_quadTlb (s : State) (c : Ctx) (u : Cause) (i : Word) (pc : CodeAddr) (b : Bool) (k n : Nat) :
    (takeTrapAt s c u i pc b k n).quadTlb = s.quadTlb := by unfold takeTrapAt; split <;> simp
@[simp] theorem takeTrap_quadTlb (s : State) (c : Ctx) (t : Trap) : (takeTrap s c t).quadTlb = s.quadTlb := by
  simp [takeTrap]
@[simp] theorem takeTrapAt_walker (s : State) (c : Ctx) (u : Cause) (i : Word) (pc : CodeAddr) (b : Bool) (k n : Nat) :
    (takeTrapAt s c u i pc b k n).walker = s.walker := by unfold takeTrapAt; split <;> simp
@[simp] theorem takeTrap_walker (s : State) (c : Ctx) (t : Trap) : (takeTrap s c t).walker = s.walker := by
  simp [takeTrap]
@[simp] theorem takeTrapAt_fields (s : State) (c : Ctx) (u : Cause) (i : Word) (pc : CodeAddr) (b : Bool) (k n : Nat) :
    (takeTrapAt s c u i pc b k n).fields = s.fields := by unfold takeTrapAt; split <;> simp
@[simp] theorem takeTrap_fields (s : State) (c : Ctx) (t : Trap) : (takeTrap s c t).fields = s.fields := by
  simp [takeTrap]
@[simp] theorem takeTrapAt_mem (s : State) (c : Ctx) (u : Cause) (i : Word) (pc : CodeAddr) (b : Bool) (k n : Nat) :
    (takeTrapAt s c u i pc b k n).mem = s.mem := by unfold takeTrapAt; split <;> simp
@[simp] theorem takeTrap_mem (s : State) (c : Ctx) (t : Trap) : (takeTrap s c t).mem = s.mem := by
  simp [takeTrap]
@[simp] theorem takeTrapAt_hostMem (s : State) (c : Ctx) (u : Cause) (i : Word) (pc : CodeAddr) (b : Bool) (k n : Nat) :
    (takeTrapAt s c u i pc b k n).hostMem = s.hostMem := by unfold takeTrapAt; split <;> simp
@[simp] theorem takeTrap_hostMem (s : State) (c : Ctx) (t : Trap) : (takeTrap s c t).hostMem = s.hostMem := by
  simp [takeTrap]
@[simp] theorem takeTrapAt_peerMem (s : State) (c : Ctx) (u : Cause) (i : Word) (pc : CodeAddr) (b : Bool) (k n : Nat) :
    (takeTrapAt s c u i pc b k n).peerMem = s.peerMem := by unfold takeTrapAt; split <;> simp
@[simp] theorem takeTrap_peerMem (s : State) (c : Ctx) (t : Trap) : (takeTrap s c t).peerMem = s.peerMem := by
  simp [takeTrap]
@[simp] theorem takeTrapAt_failing (s : State) (c : Ctx) (u : Cause) (i : Word) (pc : CodeAddr) (b : Bool) (k n : Nat) :
    (takeTrapAt s c u i pc b k n).failing = s.failing := by unfold takeTrapAt; split <;> simp
@[simp] theorem takeTrap_failing (s : State) (c : Ctx) (t : Trap) : (takeTrap s c t).failing = s.failing := by
  simp [takeTrap]
@[simp] theorem takeTrapAt_l2 (s : State) (c : Ctx) (u : Cause) (i : Word) (pc : CodeAddr) (b : Bool) (k n : Nat) :
    (takeTrapAt s c u i pc b k n).l2 = s.l2 := by unfold takeTrapAt; split <;> simp
@[simp] theorem takeTrap_l2 (s : State) (c : Ctx) (t : Trap) : (takeTrap s c t).l2 = s.l2 := by
  simp [takeTrap]
@[simp] theorem takeTrapAt_forwards (s : State) (c : Ctx) (u : Cause) (i : Word) (pc : CodeAddr) (b : Bool) (k n : Nat) :
    (takeTrapAt s c u i pc b k n).forwards = s.forwards := by unfold takeTrapAt; split <;> simp
@[simp] theorem takeTrap_forwards (s : State) (c : Ctx) (t : Trap) : (takeTrap s c t).forwards = s.forwards := by
  simp [takeTrap]
@[simp] theorem takeTrapAt_tags (s : State) (c : Ctx) (u : Cause) (i : Word) (pc : CodeAddr) (b : Bool) (k n : Nat) :
    (takeTrapAt s c u i pc b k n).tags = s.tags := by unfold takeTrapAt; split <;> simp
@[simp] theorem takeTrapAt_tagCache (s : State) (c : Ctx) (u : Cause) (i : Word) (pc : CodeAddr) (b : Bool) (k n : Nat) :
    (takeTrapAt s c u i pc b k n).tagCache = s.tagCache := by unfold takeTrapAt; split <;> simp
@[simp] theorem takeTrapAt_sectors (s : State) (c : Ctx) (u : Cause) (i : Word) (pc : CodeAddr) (b : Bool) (k n : Nat) :
    (takeTrapAt s c u i pc b k n).sectors = s.sectors := by unfold takeTrapAt; split <;> simp
@[simp] theorem takeTrapAt_mgmtCyc (s : State) (c : Ctx) (u : Cause) (i : Word) (pc : CodeAddr) (b : Bool) (k n : Nat) :
    (takeTrapAt s c u i pc b k n).mgmtCyc = s.mgmtCyc := by unfold takeTrapAt; split <;> simp
@[simp] theorem takeTrapAt_reports (s : State) (c : Ctx) (u : Cause) (i : Word) (pc : CodeAddr) (b : Bool) (k n : Nat) :
    (takeTrapAt s c u i pc b k n).reports = s.reports := by unfold takeTrapAt; split <;> simp
@[simp] theorem takeTrap_tags (s : State) (c : Ctx) (t : Trap) : (takeTrap s c t).tags = s.tags := by
  simp [takeTrap]
@[simp] theorem takeTrap_tagCache (s : State) (c : Ctx) (t : Trap) : (takeTrap s c t).tagCache = s.tagCache := by
  simp [takeTrap]
@[simp] theorem takeTrap_sectors (s : State) (c : Ctx) (t : Trap) : (takeTrap s c t).sectors = s.sectors := by
  simp [takeTrap]
@[simp] theorem takeTrap_mgmtCyc (s : State) (c : Ctx) (t : Trap) : (takeTrap s c t).mgmtCyc = s.mgmtCyc := by
  simp [takeTrap]
@[simp] theorem takeTrap_reports (s : State) (c : Ctx) (t : Trap) : (takeTrap s c t).reports = s.reports := by
  simp [takeTrap]
@[simp] theorem takeTrapAt_hostLines (s : State) (c : Ctx) (u : Cause) (i : Word) (pc : CodeAddr) (b : Bool) (k n : Nat) :
    (takeTrapAt s c u i pc b k n).hostLines = s.hostLines := by unfold takeTrapAt; split <;> simp
@[simp] theorem takeTrap_hostLines (s : State) (c : Ctx) (t : Trap) : (takeTrap s c t).hostLines = s.hostLines := by
  simp [takeTrap]
@[simp] theorem takeTrapAt_hostQueue (s : State) (c : Ctx) (u : Cause) (i : Word) (pc : CodeAddr) (b : Bool) (k n : Nat) :
    (takeTrapAt s c u i pc b k n).hostQueue = s.hostQueue := by unfold takeTrapAt; split <;> simp
@[simp] theorem takeTrapAt_images (s : State) (c : Ctx) (u : Cause) (i : Word) (pc : CodeAddr) (b : Bool) (k n : Nat) :
    (takeTrapAt s c u i pc b k n).images = s.images := by unfold takeTrapAt; split <;> simp
@[simp] theorem takeTrapAt_tagHits (s : State) (c : Ctx) (u : Cause) (i : Word) (pc : CodeAddr) (b : Bool) (k n : Nat) :
    (takeTrapAt s c u i pc b k n).tagHits = s.tagHits := by unfold takeTrapAt; split <;> simp
@[simp] theorem takeTrapAt_checks (s : State) (c : Ctx) (u : Cause) (i : Word) (pc : CodeAddr) (b : Bool) (k n : Nat) :
    (takeTrapAt s c u i pc b k n).checks = s.checks := by unfold takeTrapAt; split <;> simp
@[simp] theorem takeTrapAt_sleepers (s : State) (c : Ctx) (u : Cause) (i : Word) (pc : CodeAddr) (b : Bool) (k n : Nat) :
    (takeTrapAt s c u i pc b k n).sleepers = s.sleepers := by unfold takeTrapAt; split <;> simp
@[simp] theorem takeTrapAt_moving (s : State) (c : Ctx) (u : Cause) (i : Word) (pc : CodeAddr) (b : Bool) (k n : Nat) :
    (takeTrapAt s c u i pc b k n).moving = s.moving := by unfold takeTrapAt; split <;> simp
@[simp] theorem takeTrap_hostQueue (s : State) (c : Ctx) (t : Trap) : (takeTrap s c t).hostQueue = s.hostQueue := by
  simp [takeTrap]
@[simp] theorem takeTrap_images (s : State) (c : Ctx) (t : Trap) : (takeTrap s c t).images = s.images := by
  simp [takeTrap]
@[simp] theorem takeTrap_tagHits (s : State) (c : Ctx) (t : Trap) : (takeTrap s c t).tagHits = s.tagHits := by
  simp [takeTrap]
@[simp] theorem takeTrap_checks (s : State) (c : Ctx) (t : Trap) : (takeTrap s c t).checks = s.checks := by
  simp [takeTrap]
@[simp] theorem takeTrap_sleepers (s : State) (c : Ctx) (t : Trap) : (takeTrap s c t).sleepers = s.sleepers := by
  simp [takeTrap]
@[simp] theorem takeTrap_moving (s : State) (c : Ctx) (t : Trap) : (takeTrap s c t).moving = s.moving := by
  simp [takeTrap]
@[simp] theorem takeTrapAt_links (s : State) (c : Ctx) (u : Cause) (i : Word) (pc : CodeAddr) (b : Bool) (k n : Nat) :
    (takeTrapAt s c u i pc b k n).links = s.links := by unfold takeTrapAt; split <;> simp
@[simp] theorem takeTrap_links (s : State) (c : Ctx) (t : Trap) : (takeTrap s c t).links = s.links := by
  simp [takeTrap]
@[simp] theorem takeTrapAt_coluri (s : State) (c : Ctx) (u : Cause) (i : Word) (pc : CodeAddr) (b : Bool) (k n : Nat) :
    (takeTrapAt s c u i pc b k n).coluri = s.coluri := by unfold takeTrapAt; split <;> simp
@[simp] theorem takeTrap_coluri (s : State) (c : Ctx) (t : Trap) : (takeTrap s c t).coluri = s.coluri := by
  simp [takeTrap]
@[simp] theorem takeTrapAt_quads (s : State) (c : Ctx) (u : Cause) (i : Word) (pc : CodeAddr) (b : Bool) (k n : Nat) :
    (takeTrapAt s c u i pc b k n).quads = s.quads := by unfold takeTrapAt; split <;> simp
@[simp] theorem takeTrap_quads (s : State) (c : Ctx) (t : Trap) : (takeTrap s c t).quads = s.quads := by
  simp [takeTrap]
@[simp] theorem takeTrapAt_groups (s : State) (c : Ctx) (u : Cause) (i : Word) (pc : CodeAddr) (b : Bool) (k n : Nat) :
    (takeTrapAt s c u i pc b k n).groups = s.groups := by unfold takeTrapAt; split <;> simp
@[simp] theorem takeTrap_groups (s : State) (c : Ctx) (t : Trap) : (takeTrap s c t).groups = s.groups := by
  simp [takeTrap]
@[simp] theorem takeTrapAt_chans (s : State) (c : Ctx) (u : Cause) (i : Word) (pc : CodeAddr) (b : Bool) (k n : Nat) :
    (takeTrapAt s c u i pc b k n).chans = s.chans := by unfold takeTrapAt; split <;> simp
@[simp] theorem takeTrap_chans (s : State) (c : Ctx) (t : Trap) : (takeTrap s c t).chans = s.chans := by
  simp [takeTrap]
@[simp] theorem takeTrapAt_freq (s : State) (c : Ctx) (u : Cause) (i : Word) (pc : CodeAddr) (b : Bool) (k n : Nat) :
    (takeTrapAt s c u i pc b k n).freq = s.freq := by unfold takeTrapAt; split <;> simp
@[simp] theorem takeTrap_freq (s : State) (c : Ctx) (t : Trap) : (takeTrap s c t).freq = s.freq := by
  simp [takeTrap]
@[simp] theorem takeTrapAt_rehash (s : State) (c : Ctx) (u : Cause) (i : Word) (pc : CodeAddr) (b : Bool) (k n : Nat) :
    (takeTrapAt s c u i pc b k n).rehash = s.rehash := by unfold takeTrapAt; split <;> simp
@[simp] theorem takeTrap_rehash (s : State) (c : Ctx) (t : Trap) : (takeTrap s c t).rehash = s.rehash := by
  simp [takeTrap]
@[simp] theorem takeTrapAt_levelBars (s : State) (c : Ctx) (u : Cause) (i : Word) (pc : CodeAddr) (b : Bool) (k n : Nat) :
    (takeTrapAt s c u i pc b k n).levelBars = s.levelBars := by unfold takeTrapAt; split <;> simp
@[simp] theorem takeTrap_levelBars (s : State) (c : Ctx) (t : Trap) : (takeTrap s c t).levelBars = s.levelBars := by
  simp [takeTrap]
@[simp] theorem takeTrapAt_colls (s : State) (c : Ctx) (u : Cause) (i : Word) (pc : CodeAddr) (b : Bool) (k n : Nat) :
    (takeTrapAt s c u i pc b k n).colls = s.colls := by unfold takeTrapAt; split <;> simp
@[simp] theorem takeTrap_colls (s : State) (c : Ctx) (t : Trap) : (takeTrap s c t).colls = s.colls := by
  simp [takeTrap]
@[simp] theorem takeTrapAt_tileIn (s : State) (c : Ctx) (u : Cause) (i : Word) (pc : CodeAddr) (b : Bool) (k n : Nat) :
    (takeTrapAt s c u i pc b k n).tileIn = s.tileIn := by unfold takeTrapAt; split <;> simp
@[simp] theorem takeTrap_tileIn (s : State) (c : Ctx) (t : Trap) : (takeTrap s c t).tileIn = s.tileIn := by
  simp [takeTrap]
@[simp] theorem takeTrapAt_pushes (s : State) (c : Ctx) (u : Cause) (i : Word) (pc : CodeAddr) (b : Bool) (k n : Nat) :
    (takeTrapAt s c u i pc b k n).pushes = s.pushes := by unfold takeTrapAt; split <;> simp
@[simp] theorem takeTrap_pushes (s : State) (c : Ctx) (t : Trap) : (takeTrap s c t).pushes = s.pushes := by
  simp [takeTrap]
@[simp] theorem takeTrapAt_recalls (s : State) (c : Ctx) (u : Cause) (i : Word) (pc : CodeAddr) (b : Bool) (k n : Nat) :
    (takeTrapAt s c u i pc b k n).recalls = s.recalls := by unfold takeTrapAt; split <;> simp
@[simp] theorem takeTrap_recalls (s : State) (c : Ctx) (t : Trap) : (takeTrap s c t).recalls = s.recalls := by
  simp [takeTrap]
@[simp] theorem takeTrapAt_power (s : State) (c : Ctx) (u : Cause) (i : Word) (pc : CodeAddr) (b : Bool) (k n : Nat) :
    (takeTrapAt s c u i pc b k n).power = s.power := by unfold takeTrapAt; split <;> simp
@[simp] theorem takeTrap_power (s : State) (c : Ctx) (t : Trap) : (takeTrap s c t).power = s.power := by
  simp [takeTrap]
@[simp] theorem takeTrapAt_halted (s : State) (c : Ctx) (u : Cause) (i : Word) (pc : CodeAddr) (b : Bool) (k n : Nat) :
    (takeTrapAt s c u i pc b k n).halted = s.halted := by unfold takeTrapAt; split <;> simp
@[simp] theorem takeTrap_halted (s : State) (c : Ctx) (t : Trap) : (takeTrap s c t).halted = s.halted := by
  simp [takeTrap]
@[simp] theorem takeTrapAt_turn (s : State) (c : Ctx) (u : Cause) (i : Word) (pc : CodeAddr) (b : Bool) (k n : Nat) :
    (takeTrapAt s c u i pc b k n).turn = s.turn := by unfold takeTrapAt; split <;> simp
@[simp] theorem takeTrap_turn (s : State) (c : Ctx) (t : Trap) : (takeTrap s c t).turn = s.turn := by
  simp [takeTrap]

end Sys2Proof.Machine
end

