-- ==== Sys2Proof/Laws/Memory.lean ====
section
/-!
SUPPORT. Memories and scratch: a read after a write, and the canonical form that every write keeps.
-/
namespace Sys2Proof.Machine

/-! ### Lists by key -/

section
variable {β : Type} [DecidableEq β] (d : β)

theorem amWfFrom_mono {lo hi : Option Nat} {m : List (Nat × β)} (h : amWfFrom d hi m = true)
    (hl : ∀ l, lo = some l → ∃ k, hi = some k ∧ l ≤ k) : amWfFrom d lo m = true := by
  cases m with
  | nil => rfl
  | cons x r =>
    obtain ⟨k, v⟩ := x
    simp only [amWfFrom, Bool.and_eq_true] at h ⊢
    refine ⟨⟨?_, h.1.2⟩, h.2⟩
    cases lo with
    | none => rfl
    | some l =>
      obtain ⟨k', rfl, hk⟩ := hl l rfl
      have := h.1.1
      simp only [decide_eq_true_eq] at this ⊢
      omega

/-- A write at a key above the bound keeps the form. -/
theorem amSet_wfFrom {lo : Option Nat} {m : List (Nat × β)} {a : Nat} (v : β) (h : amWfFrom d lo m = true)
    (ha : ∀ l, lo = some l → l < a) : amWfFrom d lo (amSet d m a v) = true := by
  induction m generalizing lo with
  | nil =>
    unfold amSet
    split
    · rfl
    · rename_i hv
      cases lo with
      | none => simp [amWfFrom, hv]
      | some l => simp [amWfFrom, hv, ha l rfl]
  | cons x r ih =>
    obtain ⟨k, w⟩ := x
    have h' := h
    simp only [amWfFrom, Bool.and_eq_true] at h'
    unfold amSet
    split
    · rename_i hk
      split
      · exact h
      · rename_i hv
        simp only [amWfFrom, Bool.and_eq_true]
        refine ⟨⟨?_, by simpa using hv⟩, ⟨⟨by simpa using hk, h'.1.2⟩, h'.2⟩⟩
        cases lo with
        | none => rfl
        | some l => simpa using ha l rfl
    · split
      · rename_i hk
        subst hk
        split
        · exact amWfFrom_mono d h'.2 (fun l hl => ⟨a, rfl, (ha l hl).le⟩)
        · rename_i hv
          simp only [amWfFrom, Bool.and_eq_true]
          exact ⟨⟨h'.1.1, by simpa using hv⟩, h'.2⟩
      · rename_i h1 h2
        simp only [amWfFrom, Bool.and_eq_true]
        exact ⟨h'.1, ih h'.2 (fun l hl => by cases hl; omega)⟩

/-- A write keeps the canonical form. -/
theorem amSet_wf {m : List (Nat × β)} (a : Nat) (v : β) (h : amWf d m = true) : amWf d (amSet d m a v) = true :=
  amSet_wfFrom d v h (fun _ hl => by cases hl)

/-- So do writes of several keys. -/
theorem amSet_fold_wf {γ : Type} (key : γ → Nat) (val : γ → β) (ws : List γ) {m : List (Nat × β)} (h : amWf d m = true) :
    amWf d (ws.foldl (fun m w => amSet d m (key w) (val w)) m) = true := by
  induction ws generalizing m with
  | nil => exact h
  | cons w r ih => exact ih (amSet_wf d _ _ h)

theorem amGet_above {lo : Nat} {m : List (Nat × β)} (h : amWfFrom d (some lo) m = true) {a : Nat} (ha : a ≤ lo) :
    amGet d m a = d := by
  induction m generalizing lo with
  | nil => rfl
  | cons x r ih =>
    obtain ⟨k, v⟩ := x
    simp only [amWfFrom, Bool.and_eq_true, decide_eq_true_eq] at h
    have hk : k ≠ a := by omega
    simp only [amGet, hk, if_false]
    exact ih h.2 (by omega)

/-- A read of the key just written. -/
theorem amGet_amSet_same {lo : Option Nat} {m : List (Nat × β)} (a : Nat) (v : β) (h : amWfFrom d lo m = true) :
    amGet d (amSet d m a v) a = v := by
  induction m generalizing lo with
  | nil =>
    unfold amSet
    split
    · rename_i hv; simp [amGet, hv]
    · simp [amGet]
  | cons x r ih =>
    obtain ⟨k, w⟩ := x
    simp only [amWfFrom, Bool.and_eq_true] at h
    unfold amSet
    split
    · rename_i hk
      split
      · rename_i hv
        have hne : k ≠ a := by omega
        simp only [amGet, hne, if_false, hv]
        exact amGet_above d h.2 (by omega)
      · simp [amGet]
    · split
      · rename_i hk
        split
        · rename_i hv
          rw [hv]; exact amGet_above d h.2 (by omega)
        · simp [amGet]
      · rename_i h1 h2
        have hne : k ≠ a := fun e => h2 e.symm
        simp only [amGet, hne, if_false]
        exact ih h.2

/-- A read of any other key. -/
theorem amGet_amSet_other (m : List (Nat × β)) {a b : Nat} (v : β) (hb : b ≠ a) :
    amGet d (amSet d m a v) b = amGet d m b := by
  induction m with
  | nil =>
    unfold amSet
    split
    · rfl
    · simp [amGet, hb.symm]
  | cons x r ih =>
    obtain ⟨k, w⟩ := x
    unfold amSet
    split
    · split
      · rfl
      · simp [amGet, hb.symm]
    · split
      · rename_i hk
        subst hk
        split <;> simp [amGet, hb.symm]
      · simp only [amGet, ih]

theorem amWfFrom_filter {lo : Option Nat} {m : List (Nat × β)} (p : Nat × β → Bool) (h : amWfFrom d lo m = true) :
    amWfFrom d lo (m.filter p) = true := by
  induction m generalizing lo with
  | nil => rfl
  | cons x r ih =>
    obtain ⟨k, v⟩ := x
    have h' := h
    simp only [amWfFrom, Bool.and_eq_true] at h'
    rw [List.filter_cons]
    split
    · simp only [amWfFrom, Bool.and_eq_true]
      exact ⟨h'.1, ih h'.2⟩
    · refine ih (amWfFrom_mono d h'.2 (fun l hl => ⟨k, rfl, ?_⟩))
      subst hl
      have := h'.1.1
      simp only [decide_eq_true_eq] at this
      omega

/-- Entries may be removed. -/
theorem amWf_filter {m : List (Nat × β)} (p : Nat × β → Bool) (h : amWf d m = true) : amWf d (m.filter p) = true :=
  amWfFrom_filter d p h

end

/-! ### The three memories -/

theorem State.reset_memWf : State.reset.memWf := ⟨rfl, rfl, rfl⟩
theorem State.reset_scratchWf : State.reset.scratchWf := fun _ h => by cases h

/-- A state of the same memories has the form. -/
theorem State.memWf_of_eq {s t : State} (h : s.memWf) (h1 : t.mem = s.mem) (h2 : t.peerMem = s.peerMem)
    (h3 : t.hostMem = s.hostMem) : t.memWf := by
  simpa only [State.memWf, h1, h2, h3] using h

theorem State.setHostByte_memWf {s : State} (a v : Nat) (h : s.memWf) : (s.setHostByte a v).memWf :=
  ⟨h.1, h.2.1, amSet_wf _ _ _ h.2.2⟩

/-- Steps that each keep the form keep it together. -/
theorem State.fold_memWf {γ : Type} (f : State → γ → State) (hf : ∀ s x, s.memWf → (f s x).memWf) (l : List γ) {s : State}
    (h : s.memWf) : (l.foldl f s).memWf := by
  induction l generalizing s with
  | nil => exact h
  | cons x r ih => exact ih (hf s x h)

theorem State.setHostBlock_memWf {s : State} (o : Nat) (bs : List Nat) (h : s.memWf) : (s.setHostBlock o bs).memWf :=
  State.fold_memWf _ (fun _ _ hs => State.setHostByte_memWf _ _ hs) _ h

/-- Every write of memory goes through this one operation, which keeps the form. -/
theorem State.putTrytes_memWf {s : State} (l : Loc) (ws : List (Nat × Tryte)) (h : s.memWf) : (s.putTrytes l ws).memWf := by
  unfold State.putTrytes
  split
  · exact ⟨amSet_fold_wf 0 (fun (w : Nat × Tryte) => l.a + w.1) (fun w => w.2) ws h.1, h.2⟩
  · exact ⟨h.1, amSet_fold_wf 0 (fun (w : Nat × Tryte) => l.a + w.1) (fun w => w.2) ws h.2.1, h.2.2⟩
  · exact State.fold_memWf _ (fun _ _ hs => State.setHostByte_memWf _ _ hs) _ h
  · exact State.setHostBlock_memWf _ _ h
  · exact h

/-- A write of device memory: the tryte written, and no other. -/
theorem State.putTrytes_tryteAt_same {s : State} {l : Loc} (n : Nat) (v : Tryte) (hk : l.kind = .hbm) (h : s.memWf) :
    (s.putTrytes l [(n, v)]).tryteAt ⟨.hbm, l.a + n⟩ = v := by
  simp only [State.putTrytes, hk, State.tryteAt, List.foldl_cons, List.foldl_nil]
  exact amGet_amSet_same (lo := none) 0 _ _ h.1

theorem State.putTrytes_tryteAt_other {s : State} {l m : Loc} (ws : List (Nat × Tryte)) (hk : l.kind = .hbm)
    (hm : m.kind = .hbm → ∀ w ∈ ws, m.a ≠ l.a + w.1) : (s.putTrytes l ws).tryteAt m = s.tryteAt m := by
  simp only [State.putTrytes, hk]
  unfold State.tryteAt
  split
  · rename_i hh
    have hm' := hm hh
    clear hm
    generalize s.mem = x
    induction ws generalizing x with
    | nil => rfl
    | cons w r ih =>
      simp only [List.foldl_cons]
      rw [ih (fun y hy => hm' y (List.mem_cons_of_mem _ hy))]
      exact amGet_amSet_other 0 x w.2 (hm' w (List.mem_cons_self))
  · rfl
  · rfl
  · rfl
  · rfl

/-! ### Scratch -/

theorem Block.setWord_wf {b : Block} (w : Nat) (v : Word × Trit) (h : amWf ((0, .neg) : Word × Trit) b.scratch = true) :
    amWf ((0, .neg) : Word × Trit) (b.setWord w v).scratch = true := amSet_wf _ _ _ h

end Sys2Proof.Machine
end

