-- ==== Sys2Proof/Laws/Rows.lean ====
section
/-!
SUPPORT. What the shared operations of the issuing row do: one lemma for each, which claims cite instead of unfolding it.
-/
namespace Sys2Proof.Machine

/-! ### Except -/

@[simp] theorem bind_ok {ε α β : Type} (a : α) (f : α → Except ε β) : ((.ok a : Except ε α) >>= f) = f a := rfl
@[simp] theorem bind_error {ε α β : Type} (e : ε) (f : α → Except ε β) :
    ((.error e : Except ε α) >>= f) = .error e := rfl
@[simp] theorem need_true (t : Trap) : need true t = .ok () := rfl
@[simp] theorem need_false (t : Trap) : need false t = .error t := rfl

/-! ### The issuing row -/

theorem withRow_ok {s t : State} {c : Ctx} {f : Ctx → Except Trap State} (h : Issuing s c) (hf : f c = .ok t) :
    withRow s f = .next t := by
  obtain ⟨h1, h2, h3⟩ := h
  simp [withRow, h1, h2, h3, hf]

theorem withRow_error {s : State} {c : Ctx} {e : Trap} {f : Ctx → Except Trap State} (h : Issuing s c)
    (hf : f c = .error e) : withRow s f = .next (takeTrap s c e) := by
  obtain ⟨h1, h2, h3⟩ := h
  simp [withRow, h1, h2, h3, hf]

/-- With an issuing row a meaning never stops the model. -/
theorem withRow_goes {s : State} (f : Ctx → Except Trap State) (h : s.ctx?.isSome = true) :
    ∃ t, withRow s f = .next t := by
  obtain ⟨c, hc⟩ := Option.isSome_iff_exists.mp h
  simp only [withRow, hc]
  split
  · exact ⟨_, rfl⟩
  · split
    · exact ⟨_, rfl⟩
    · split
      · exact ⟨_, rfl⟩
      · cases f c <;> exact ⟨_, rfl⟩

/-! ### The checks -/

theorem lockCheck_ok {c : Ctx} {fs : List Int} (h : ∀ f ∈ fs, f ∉ c.r.locked) : lockCheck c fs = .ok () := by
  have hn : fs.find? (fun f => c.r.locked.contains f) = none := by
    simpa [List.find?_eq_none] using h
  unfold lockCheck; rw [hn]

theorem gate_ok {c : Ctx} {tr : Bool} {us : List Use} {fields : Bool} {a : Accept} (h : Legal c tr us fields a) :
    gate c tr us fields a = .ok () := by
  obtain ⟨⟨h1, h2, h3⟩, h4, h5⟩ := h
  have hl : lockCheck c ((us.filter (·.isDst)).flatMap (fun u => u.fields c)) = .ok () := by
    apply lockCheck_ok
    intro f hf
    simp only [List.mem_flatMap, List.mem_filter] at hf
    obtain ⟨u, ⟨hu, hd⟩, hf⟩ := hf
    exact h3 u hu hd f hf
  have hu : us.all (fun u => regsOk c u.f u.n u.isDst) = true := by simpa using h2
  simp only [gate, h1, hu, hl, h4, h5, need_true, Bool.and_self, bind_ok]

/-- An instruction that names what it may and fails check 4 traps ILLMOD (06 R92). -/
theorem gate_illmod {c : Ctx} {tr : Bool} {us : List Use} {fields : Bool} {a : Accept} (h : Named c tr us)
    (hf : (fields && pfxOk a c) = false) : gate c tr us fields a = .error Trap.illmod := by
  obtain ⟨h1, h2, h3⟩ := h
  have hl : lockCheck c ((us.filter (·.isDst)).flatMap (fun u => u.fields c)) = .ok () := by
    apply lockCheck_ok
    intro f hf
    simp only [List.mem_flatMap, List.mem_filter] at hf
    obtain ⟨u, ⟨hu, hd⟩, hf⟩ := hf
    exact h3 u hu hd f hf
  have hu : us.all (fun u => regsOk c u.f u.n u.isDst) = true := by simpa using h2
  simp only [gate, h1, hu, hl, hf, need_true, need_false, bind_ok]

theorem rowActs_ok {c : Ctx} {p : Int} (h : OneWay c p) :
    rowActs c p = .ok (decide ((c.acting p).length = c.act.length)) := by
  unfold rowActs
  by_cases hl : (c.acting p).length = c.act.length
  · simp [hl]
  · rw [if_neg hl, if_pos (h.resolve_left hl), decide_eq_false hl]

theorem alu_ok {s : State} {c : Ctx} {a : Alu} {f : Nat → List Int × Fx}
    (h : AluFree c a.dst a.n a.srcs a.pred a.fields a.acc) :
    alu s c a f = .ok (s.computed c a.dst a.pred f) := by
  obtain ⟨⟨hl, hb⟩, ho⟩ := h
  unfold alu aluGate State.computed
  rw [gate_ok hl]
  simp only [bind_ok, hb]
  cases hr : rowSide c a.dst with
  | false => simp
  | true => simp [rowActs_ok (ho hr)]

theorem fx_set_self (l : List Fx) (p : Nat) : l.set p (l.getD p Fx.clear) = l := by
  induction l generalizing p with
  | nil => rfl
  | cons x r ih =>
    cases p with
    | zero => simp
    | succ n => simpa using ih n

@[simp] theorem union_clear (x : Fx) : x.union Fx.clear = x := by
  simp [Fx.union, Fx.clear]

/-- Raising no flag changes nothing. -/
@[simp] theorem raise_clear (r : Row) (p : Nat) : r.raise p Fx.clear = r := by
  unfold Row.raise Row.setFx Row.fxOf
  rw [union_clear, fx_set_self]

theorem quAlu_ok {s : State} {c : Ctx} {qd : Int} {srcs : List Use} {pred : Int} {fields : Bool} {a : Accept}
    {g : Nat → Int × Fx} (h : Free c false srcs (fields && predOk pred && qNum qd) a)
    (hx : ∀ p, (g p).2 = Fx.clear) :
    quAlu s c qd srcs pred fields a g = .ok (s.predicated c qd pred (fun p => Trit.ofSign (g p).1)) := by
  obtain ⟨hl, hb⟩ := h
  unfold quAlu State.predicated
  rw [gate_ok hl]
  simp [hb, hx]

theorem gather_ok {s : State} {c : Ctx} {d : Int} {srcs : List Use} {rows : List Int} {pred : Int} {fields : Bool}
    {v : Int} (h : RowFree c d srcs rows pred fields) :
    gather s c d srcs rows pred fields v = .ok (s.gathered c d pred v) := by
  obtain ⟨⟨hl, hb⟩, hu, ho⟩ := h
  unfold gather State.gathered
  rw [gate_ok hl]
  simp [hb, hu, rowActs_ok ho]

/-! ### Rows after an update -/

theorem find_modFirst {α : Type} {p : α → Bool} {f : α → α} {l : List α} {x : α}
    (h : l.find? p = some x) (hf : ∀ y, p (f y) = p y) : (modFirst p f l).find? p = some (f x) := by
  induction l with
  | nil => simp at h
  | cons a r ih =>
    by_cases ha : p a = true
    · simp only [List.find?_cons, ha] at h
      simp only [modFirst, ha, if_true, List.find?_cons, hf]
      exact congrArg _ (congrArg f (Option.some.inj h))
    · have ha : p a = false := by simpa using ha
      simp only [List.find?_cons, ha] at h
      simpa [modFirst, ha] using ih h

theorem find_modFirst_other {α : Type} {p q : α → Bool} {f : α → α} {l : List α}
    (hf : ∀ y, q (f y) = q y) (hpq : ∀ y, p y = true → q y = false) : (modFirst p f l).find? q = l.find? q := by
  induction l with
  | nil => rfl
  | cons a r ih =>
    by_cases ha : p a = true
    · simp [modFirst, ha, hf, hpq a ha]
    · have ha : p a = false := by simpa using ha
      rw [show modFirst p f (a :: r) = a :: modFirst p f r by simp [modFirst, ha], List.find?_cons, List.find?_cons, ih]

end Sys2Proof.Machine
end

