-- ==== Sys2Proof/Tests/Slice0.lean ====
section
/-!
SUPPORT. Tests of the model on fixed values, and for every statement a state that meets its hypotheses.
Words are written out trit by trit from 06 Tables 6.1 to 6.9, t26 first; other expected values are worked by hand from the
rules named.
-/
namespace Sys2Proof.Tests
open Sys2Proof Sys2Proof.Machine
set_option Elab.async false
set_option synthInstance.maxSize 20000
set_option synthInstance.maxHeartbeats 200000

/-- A word from its trits, t26 first. -/
def tw (ts : List Int) : Word := word (ts.foldl (fun a t => 3 * a + t) 0)

/-! ### Well-formedness refuses one term for each check -/

theorem test_wf_formats : ∀ i ∈ ([.add ⟨122, 0, 0, 0, 0⟩, .add ⟨0, -122, 0, 0, 0⟩, .add ⟨0, 0, 122, 0, 0⟩,
    .add ⟨0, 0, 0, 41, 0⟩, .add ⟨0, 0, 0, 0, 5⟩, .addi ⟨122, 0, 0, 0⟩, .addi ⟨0, 122, 0, 0⟩, .addi ⟨0, 0, 9842, 0⟩,
    .addi ⟨0, 0, 0, -5⟩, .mad ⟨122, 0, 0, 0, 0⟩, .mad ⟨0, 122, 0, 0, 0⟩, .mad ⟨0, 0, 122, 0, 0⟩, .mad ⟨0, 0, 0, 122, 0⟩,
    .mad ⟨0, 0, 0, 0, 2⟩, .gld ⟨122, 0, 0, 0, 0⟩, .gld ⟨0, 122, 0, 0, 0⟩, .gld ⟨0, 0, 122, 0, 0⟩, .gld ⟨0, 0, 0, 41, 0⟩,
    .gld ⟨0, 0, 0, 0, 5⟩, .br ⟨2, 0, 0⟩, .br ⟨0, 41, 0⟩, .br ⟨0, 0, 21523361⟩, .cpy ⟨122, 0, 0, 0, 0⟩,
    .cpy ⟨0, 122, 0, 0, 0⟩, .cpy ⟨0, 0, 122, 0, 0⟩, .cpy ⟨0, 0, 0, 5, 0⟩, .cpy ⟨0, 0, 0, 0, 41⟩, .nop ⟨5230176602⟩] :
    List Instr), i.wf = false := by decide +kernel

theorem test_wf_forms : ∀ i ∈ ([.movqToRegister ⟨0, 0, 0, 0, 1⟩, .movqToPredicate ⟨0, 0, 0, 0, 0⟩, .movqBallot ⟨0, 0, 0, 0, 0⟩,
    .replayTok ⟨0, 0, 0, 0, 0⟩, .replayPage ⟨0, 0, 0, 0, 1⟩, .replayFail ⟨0, 0, 0, 0, 1⟩, .tlbiFld ⟨0, 0, 0, 0, 0⟩,
    .tlbiVa ⟨0, 0, 0, 0, 1⟩, .ctxs ⟨0, 0, 0, 0, 1⟩, .ctxsPort ⟨0, 0, 0, 0, 0⟩, .ctxr ⟨0, 0, 0, 0, 1⟩,
    .ctxrDrop ⟨0, 0, 0, 0, 0⟩, .cvt 0 ⟨0, 0, 0, 0, 0⟩, .cvt 10 ⟨0, 0, 0, 0, 0⟩, .unassignedOpcode 0] : List Instr),
    i.wf = false := by decide +kernel

theorem test_wf_steps : ∀ i ∈ ([.sleepWake ⟨1, 8, 0⟩, .sleepWake ⟨1, 0, 81⟩, .matrixArbitrate 240, .commandStart ⟨1, 0, 0⟩ 9,
    .commandComplete ⟨1, 0, 0⟩ 9, .joinComplete ⟨1, 0, 0⟩ 9, .atomicApply 961 0, .storeApply 961 0,
    .barrierRelayForward 1 8 0, .barrierRelayForward 1 0 9, .pageWalk 961 0 0, .pageWalk 0 12 0, .overflowReissue 12,
    .l2WriteBack 12000000000, .lineMigrate 12000000000, .backInvalidateSnoopResponse 12000000000,
    .hostLineRead 12000000000 0, .hostLineRead 0 3, .hostLineWrite 12000000000 (List.replicate 64 0) true,
    .hostLineWrite 0 [0] true, .hostLineWrite 0 (List.replicate 64 256) true, .hostBiconflict 12000000000,
    .hostSnoop 12000000000, .flitReceive 72 1 (List.replicate 64 0), .flitReceive 0 2 (List.replicate 64 0),
    .flitReceive 0 0 [], .nakReceive 90 0 0, .nakReceive 0 0 4096, .nullFlitSend 0 2, .retrainComplete 90 true true,
    .linkTrained 0 16, .linkTrained 90 64, .seedlingEntry 12, .hbmStackTrained 12 true, .leaveSeedling 12, .junctionTrip 12,
    .tripRelease (some 12), .clcmdLoad 128 0, .clcmdLoad 0 122, .clcmdUnload (-2) 0, .clcmdUnload 0 122,
    .codeObjectLoadComplete 128, .lqbaseArm 0 9 0, .lqbaseArm 128 0 0, .lqbaseDisarm 0 9, .sowerTakeRecords 12 0,
    .sowerTakeRecords 0 9, .dependenceMet 12 0 0, .sowerSchedule 12, .headReservationBar 12, .fallowEntry 12, .fallowExit 12,
    .frcmdGrow 5 0 0 0, .frcmdGrow 1 41 0 0, .frcmdShrink 1 0 122 0, .frcmdShrink 1 0 0 41, .rehashLineMove 12000000000,
    .hostRegisterWrite 128 0 0, .sriovVfEnable 128 true, .fieldReset 12, .firmwareSlotRewrite [256],
    .translationInstall 12 0 ⟨[], [], [], []⟩, .translationInstall 0 122 ⟨[], [], [], []⟩, .challenge [256],
    .functionLevelReset 128, .keycmdErase 12 0, .keycmdErase 0 27, .keycmdInstall 12 0, .keycmdInstall 0 27] : List Instr),
    i.wf = false := by decide +kernel

/-! ### Decoding -/

/-- Class 0 of Table 6.9, every function. -/
theorem test_decode_class_0 : ∀ q ∈ ([
    ([0, 0, 0, 0, 0, 0, 0, 0, 0, 0, 0, 0, 0, 0, 0, 0, 0, 1, -1, 0, -1, 0, -1, 1, 1, -1, 0], .hdr ⟨12345⟩),
    ([0, 0, 0, 0, 0, 1, 0, 0, 0, 0, 0, 0, 0, 0, 0, 0, 0, 1, -1, 0, -1, 0, -1, 1, 1, -1, 0], .imm ⟨12345⟩),
    ([0, 0, 0, 0, 1, -1, 0, 0, 0, 0, 0, 0, 0, 0, 0, 0, 0, 1, -1, 0, -1, 0, -1, 1, 1, -1, 0], .modh ⟨12345⟩),
    ([0, 0, 0, 0, 1, 0, 0, 0, 0, 0, 0, 0, 0, 0, 0, 0, 0, 1, -1, 0, -1, 0, -1, 1, 1, -1, 0], .nop ⟨12345⟩),
    ([0, 0, 0, 0, 1, 1, 0, 0, 0, 0, 0, 0, 0, 0, 0, 0, 0, 1, -1, 0, -1, 0, -1, 1, 1, -1, 0], .safe ⟨12345⟩)] : List (List Int × Instr)),
    decode (tw q.1) = .ok q.2 := by decide +kernel

/-- Class +1 of Table 6.9, every function. -/
theorem test_decode_class_plus1 : ∀ q ∈ ([
    ([0, 0, 1, 0, 0, 1, 0, 0, 1, -1, -1, 0, 0, 0, 1, 0, 0, 0, 0, -1, 1, 0, 0, 1, 1, 0, 1], .mov ⟨5, 3, -2, 4, 1⟩),
    ([0, 0, 1, 0, 1, -1, 0, 0, 1, -1, -1, 0, 0, 0, 1, 0, 0, 0, 0, -1, 1, 0, 0, 1, 1, 0, 1], .add ⟨5, 3, -2, 4, 1⟩),
    ([0, 0, 1, 0, 1, 0, 0, 0, 1, -1, -1, 0, 0, 0, 1, 0, 0, 0, 0, -1, 1, 0, 0, 1, 1, 0, 1], .sub ⟨5, 3, -2, 4, 1⟩),
    ([0, 0, 1, 0, 1, 1, 0, 0, 1, -1, -1, 0, 0, 0, 1, 0, 0, 0, 0, -1, 1, 0, 0, 1, 1, 0, 1], .mul ⟨5, 3, -2, 4, 1⟩),
    ([0, 0, 1, 1, -1, -1, 0, 0, 1, -1, -1, 0, 0, 0, 1, 0, 0, 0, 0, -1, 1, 0, 0, 1, 1, 0, 1], .mulh ⟨5, 3, -2, 4, 1⟩),
    ([0, 0, 1, 1, -1, 0, 0, 0, 1, -1, -1, 0, 0, 0, 1, 0, 0, 0, 0, -1, 1, 0, 0, 1, 1, 0, 1], .div ⟨5, 3, -2, 4, 1⟩),
    ([0, 0, 1, 1, -1, 1, 0, 0, 1, -1, -1, 0, 0, 0, 1, 0, 0, 0, 0, -1, 1, 0, 0, 1, 1, 0, 1], .mod ⟨5, 3, -2, 4, 1⟩),
    ([0, 0, 1, 1, 0, -1, 0, 0, 1, -1, -1, 0, 0, 0, 1, 0, 0, 0, 0, -1, 1, 0, 0, 1, 1, 0, 1], .divt ⟨5, 3, -2, 4, 1⟩),
    ([0, 0, 1, 1, 0, 0, 0, 0, 1, -1, -1, 0, 0, 0, 1, 0, 0, 0, 0, -1, 1, 0, 0, 1, 1, 0, 1], .modt ⟨5, 3, -2, 4, 1⟩),
    ([0, 0, 1, 1, 0, 1, 0, 0, 1, -1, -1, 0, 0, 0, 1, 0, 0, 0, 0, -1, 1, 0, 0, 1, 1, 0, 1], .min ⟨5, 3, -2, 4, 1⟩),
    ([0, 0, 1, 1, 1, -1, 0, 0, 1, -1, -1, 0, 0, 0, 1, 0, 0, 0, 0, -1, 1, 0, 0, 1, 1, 0, 1], .max ⟨5, 3, -2, 4, 1⟩),
    ([0, 0, 1, 1, 1, 0, 0, 0, 1, -1, -1, 0, 0, 0, 1, 0, 0, 0, 0, -1, 1, 0, 0, 1, 1, 0, 1], .abs ⟨5, 3, -2, 4, 1⟩),
    ([0, 0, 1, 1, 1, 1, 0, 0, 1, -1, -1, 0, 0, 0, 1, 0, 0, 0, 0, -1, 1, 0, 0, 1, 1, 0, 1], .sgn ⟨5, 3, -2, 4, 1⟩),
    ([0, 0, 1, 0, 0, -1, 0, 0, 1, -1, -1, 0, 0, 0, 1, 0, 0, 0, 0, -1, 1, 0, 0, 1, 1, 0, 1], .shl ⟨5, 3, -2, 4, 1⟩),
    ([0, 0, 1, 0, -1, 1, 0, 0, 1, -1, -1, 0, 0, 0, 1, 0, 0, 0, 0, -1, 1, 0, 0, 1, 1, 0, 1], .shr ⟨5, 3, -2, 4, 1⟩),
    ([0, 0, 1, 0, -1, 0, 0, 0, 1, -1, -1, 0, 0, 0, 1, 0, 0, 0, 0, -1, 1, 0, 0, 1, 1, 0, 1], .rot ⟨5, 3, -2, 4, 1⟩),
    ([0, 0, 1, 0, -1, -1, 0, 0, 1, -1, -1, 0, 0, 0, 1, 0, 0, 0, 0, -1, 1, 0, 0, 1, 1, 0, 1], .tcnt ⟨5, 3, -2, 4, 1⟩),
    ([0, 0, 1, -1, 1, 1, 0, 0, 1, -1, -1, 0, 0, 0, 1, 0, 0, 0, 0, -1, 1, 0, 0, 1, 1, 0, 1], .tmin ⟨5, 3, -2, 4, 1⟩),
    ([0, 0, 1, -1, 1, 0, 0, 0, 1, -1, -1, 0, 0, 0, 1, 0, 0, 0, 0, -1, 1, 0, 0, 1, 1, 0, 1], .tmax ⟨5, 3, -2, 4, 1⟩),
    ([0, 0, 1, -1, 1, -1, 0, 0, 1, -1, -1, 0, 0, 0, 1, 0, 0, 0, 0, -1, 1, 0, 0, 1, 1, 0, 1], .tnot ⟨5, 3, -2, 4, 1⟩),
    ([0, 0, 1, -1, 0, 1, 0, 0, 1, -1, -1, 0, 0, 0, 1, 0, 0, 0, 0, -1, 1, 0, 0, 1, 1, 0, 1], .tsum ⟨5, 3, -2, 4, 1⟩),
    ([0, 0, 1, -1, 0, 0, 0, 0, 1, -1, -1, 0, 0, 0, 1, 0, 0, 0, 0, -1, 1, 0, 0, 1, 1, 0, 1], .tmul ⟨5, 3, -2, 4, 1⟩),
    ([0, 0, 1, -1, 0, -1, 0, 0, 1, -1, -1, 0, 0, 0, 1, 0, 0, 0, 0, -1, 1, 0, 0, 1, 1, 0, 1], .tcons ⟨5, 3, -2, 4, 1⟩),
    ([0, 0, 1, -1, -1, 1, 0, 0, 1, -1, -1, 0, 0, 0, 1, 0, 0, 0, 0, -1, 1, 0, 0, 1, 1, 0, 1], .pack9 ⟨5, 3, -2, 4, 1⟩),
    ([0, 0, 1, -1, -1, 0, 0, 0, 1, -1, -1, 0, 0, 0, 1, 0, 0, 0, 0, -1, 1, 0, 0, 1, 1, 0, 1], .unp9 ⟨5, 3, -2, 4, 1⟩),
    ([0, 0, 1, -1, -1, -1, 0, 0, 1, -1, -1, 0, 0, 0, 1, 0, 0, 0, 0, -1, 1, 0, 0, 1, 1, 0, 1], .cmp ⟨5, 3, -2, 4, 1⟩)] : List (List Int × Instr)),
    decode (tw q.1) = .ok q.2 := by decide +kernel

/-- Class +2 of Table 6.9, every function. -/
theorem test_decode_class_plus2 : ∀ q ∈ ([
    ([0, 1, -1, 0, 0, 1, 0, 0, 0, 0, 1, 0, 0, 1, -1, 1, 0, 0, 0, 0, -1, -1, 1, 0, -1, 0, -1], .movi ⟨1, 7, -100, -1⟩),
    ([0, 1, -1, 0, 1, -1, 0, 0, 0, 0, 1, 0, 0, 1, -1, 1, 0, 0, 0, 0, -1, -1, 1, 0, -1, 0, -1], .addi ⟨1, 7, -100, -1⟩),
    ([0, 1, -1, 0, 1, 0, 0, 0, 0, 0, 1, 0, 0, 1, -1, 1, 0, 0, 0, 0, -1, -1, 1, 0, -1, 0, -1], .muli ⟨1, 7, -100, -1⟩),
    ([0, 1, -1, 0, 1, 1, 0, 0, 0, 0, 1, 0, 0, 1, -1, 1, 0, 0, 0, 0, -1, -1, 1, 0, -1, 0, -1], .shli ⟨1, 7, -100, -1⟩),
    ([0, 1, -1, 1, -1, -1, 0, 0, 0, 0, 1, 0, 0, 1, -1, 1, 0, 0, 0, 0, -1, -1, 1, 0, -1, 0, -1], .shri ⟨1, 7, -100, -1⟩),
    ([0, 1, -1, 1, -1, 0, 0, 0, 0, 0, 1, 0, 0, 1, -1, 1, 0, 0, 0, 0, -1, -1, 1, 0, -1, 0, -1], .cmpi ⟨1, 7, -100, -1⟩),
    ([0, 1, -1, 1, -1, 1, 0, 0, 0, 0, 1, 0, 0, 1, -1, 1, 0, 0, 0, 0, -1, -1, 1, 0, -1, 0, -1], .text ⟨1, 7, -100, -1⟩),
    ([0, 1, -1, 1, 0, -1, 0, 0, 0, 0, 1, 0, 0, 1, -1, 1, 0, 0, 0, 0, -1, -1, 1, 0, -1, 0, -1], .tins ⟨1, 7, -100, -1⟩)] : List (List Int × Instr)),
    decode (tw q.1) = .ok q.2 := by decide +kernel

/-- Class +3 of Table 6.9, every function. -/
theorem test_decode_class_plus3 : ∀ q ∈ ([
    ([0, 1, 0, 0, 0, 1, 0, 0, -1, 1, 1, 0, 0, 0, 1, -1, 0, 0, 0, 1, 0, 0, 0, 0, 1, 1, 1], .mad ⟨-5, 2, 3, 4, 1⟩),
    ([0, 1, 0, 0, 1, -1, 0, 0, -1, 1, 1, 0, 0, 0, 1, -1, 0, 0, 0, 1, 0, 0, 0, 0, 1, 1, 1], .clamp ⟨-5, 2, 3, 4, 1⟩),
    ([0, 1, 0, 0, 1, 0, 0, 0, -1, 1, 1, 0, 0, 0, 1, -1, 0, 0, 0, 1, 0, 0, 0, 0, 1, 1, 1], .tsel ⟨-5, 2, 3, 4, 1⟩),
    ([0, 1, 0, 0, 1, 1, 0, 0, -1, 1, 1, 0, 0, 0, 1, -1, 0, 0, 0, 1, 0, 0, 0, 0, 1, 1, 1], .lea ⟨-5, 2, 3, 4, 1⟩),
    ([0, 1, 0, 1, -1, -1, 0, 0, -1, 1, 1, 0, 0, 0, 1, -1, 0, 0, 0, 1, 0, 0, 0, 0, 1, 1, 1], .lead ⟨-5, 2, 3, 4, 1⟩)] : List (List Int × Instr)),
    decode (tw q.1) = .ok q.2 := by decide +kernel

/-- Class +4 of Table 6.9, every function. -/
theorem test_decode_class_plus4 : ∀ q ∈ ([
    ([0, 1, 1, 0, 0, 1, 0, 0, 1, -1, -1, 0, 0, 0, 1, 0, 0, 0, 0, -1, 1, 0, 0, 1, 1, 0, 1], .qmin ⟨5, 3, -2, 4, 1⟩),
    ([0, 1, 1, 0, 1, -1, 0, 0, 1, -1, -1, 0, 0, 0, 1, 0, 0, 0, 0, -1, 1, 0, 0, 1, 1, 0, 1], .qmax ⟨5, 3, -2, 4, 1⟩),
    ([0, 1, 1, 0, 1, 0, 0, 0, 1, -1, -1, 0, 0, 0, 1, 0, 0, 0, 0, -1, 1, 0, 0, 1, 1, 0, 1], .qnot ⟨5, 3, -2, 4, 1⟩),
    ([0, 1, 1, 0, 1, 1, 0, 0, 1, -1, -1, 0, 0, 0, 1, 0, 0, 0, 0, -1, 1, 0, 0, 1, 1, 0, 1], .qmov ⟨5, 3, -2, 4, 1⟩),
    ([0, 1, 1, 1, -1, -1, 0, 0, 1, -1, -1, 0, 0, 0, 1, 0, 0, 0, 0, -1, 1, 0, 0, 1, 1, 0, 1], .sel ⟨5, 3, -2, 4, 1⟩),
    ([0, 1, 1, 1, -1, 0, 0, 0, 1, -1, -1, 0, 0, 0, 1, 0, 0, 0, 0, -1, 1, 0, 0, 1, 1, 0, 1], .voteAll ⟨5, 3, -2, 4, 1⟩),
    ([0, 1, 1, 1, -1, 1, 0, 0, 1, -1, -1, 0, 0, 0, 1, 0, 0, 0, 0, -1, 1, 0, 0, 1, 1, 0, 1], .voteAny ⟨5, 3, -2, 4, 1⟩),
    ([0, 1, 1, 1, 0, -1, 0, 0, 1, -1, -1, 0, 0, 0, 1, 0, 0, 0, 0, -1, 1, 0, 0, 1, 1, 0, 1], .voteCnt ⟨5, 3, -2, 4, 1⟩),
    ([0, 1, 1, 1, 0, 0, 0, 0, 1, -1, -1, 0, 0, 0, 1, 0, 0, 0, 0, -1, 1, 0, 0, 1, 1, 0, 0], .movqToRegister ⟨5, 3, -2, 4, 0⟩),
    ([0, 1, 1, 1, 0, 0, 0, 0, 1, -1, -1, 0, 0, 0, 1, 0, 0, 0, 0, -1, 1, 0, 0, 1, 1, 0, 1], .movqToPredicate ⟨5, 3, -2, 4, 1⟩),
    ([0, 1, 1, 1, 0, 0, 0, 0, 1, -1, -1, 0, 0, 0, 1, 0, 0, 0, 0, -1, 1, 0, 0, 1, 1, 0, -1], .movqBallot ⟨5, 3, -2, 4, -1⟩),
    ([0, 1, 1, 1, 0, 1, 0, 0, 1, -1, -1, 0, 0, 0, 1, 0, 0, 0, 0, -1, 1, 0, 0, 1, 1, 0, 1], .movs ⟨5, 3, -2, 4, 1⟩),
    ([0, 1, 1, 1, 1, -1, 0, 0, 1, -1, -1, 0, 0, 0, 1, 0, 0, 0, 0, -1, 1, 0, 0, 1, 1, 0, 1], .lane ⟨5, 3, -2, 4, 1⟩)] : List (List Int × Instr)),
    decode (tw q.1) = .ok q.2 := by decide +kernel

/-- Class +5 of Table 6.9, every function. -/
theorem test_decode_class_plus5 : ∀ q ∈ ([
    ([1, -1, -1, 0, 0, 1, 0, 0, 1, -1, -1, 0, 0, 0, 1, 0, 0, 0, 0, -1, 1, 0, 0, 1, 1, 0, 1], .fadd ⟨5, 3, -2, 4, 1⟩),
    ([1, -1, -1, 0, 1, -1, 0, 0, 1, -1, -1, 0, 0, 0, 1, 0, 0, 0, 0, -1, 1, 0, 0, 1, 1, 0, 1], .fsub ⟨5, 3, -2, 4, 1⟩),
    ([1, -1, -1, 0, 1, 0, 0, 0, 1, -1, -1, 0, 0, 0, 1, 0, 0, 0, 0, -1, 1, 0, 0, 1, 1, 0, 1], .fmul ⟨5, 3, -2, 4, 1⟩),
    ([1, -1, -1, 0, 1, 1, 0, 0, 1, -1, -1, 0, 0, 0, 1, 0, 0, 0, 0, -1, 1, 0, 0, 1, 1, 0, 1], .fdiv ⟨5, 3, -2, 4, 1⟩),
    ([1, -1, -1, 1, -1, -1, 0, 0, 1, -1, -1, 0, 0, 0, 1, 0, 0, 0, 0, -1, 1, 0, 0, 1, 1, 0, 1], .fsqrt ⟨5, 3, -2, 4, 1⟩),
    ([1, -1, -1, 1, -1, 0, 0, 0, 1, -1, -1, 0, 0, 0, 1, 0, 0, 0, 0, -1, 1, 0, 0, 1, 1, 0, 1], .frcp ⟨5, 3, -2, 4, 1⟩),
    ([1, -1, -1, 1, -1, 1, 0, 0, 1, -1, -1, 0, 0, 0, 1, 0, 0, 0, 0, -1, 1, 0, 0, 1, 1, 0, 1], .frsq ⟨5, 3, -2, 4, 1⟩),
    ([1, -1, -1, 1, 0, -1, 0, 0, 1, -1, -1, 0, 0, 0, 1, 0, 0, 0, 0, -1, 1, 0, 0, 1, 1, 0, 1], .fmin ⟨5, 3, -2, 4, 1⟩),
    ([1, -1, -1, 1, 0, 0, 0, 0, 1, -1, -1, 0, 0, 0, 1, 0, 0, 0, 0, -1, 1, 0, 0, 1, 1, 0, 1], .fmax ⟨5, 3, -2, 4, 1⟩),
    ([1, -1, -1, 1, 0, 1, 0, 0, 1, -1, -1, 0, 0, 0, 1, 0, 0, 0, 0, -1, 1, 0, 0, 1, 1, 0, 1], .fabs ⟨5, 3, -2, 4, 1⟩),
    ([1, -1, -1, 1, 1, -1, 0, 0, 1, -1, -1, 0, 0, 0, 1, 0, 0, 0, 0, -1, 1, 0, 0, 1, 1, 0, 1], .fcmp ⟨5, 3, -2, 4, 1⟩),
    ([1, -1, -1, 1, 1, 0, 0, 0, 1, -1, -1, 0, 0, 0, 1, 0, 0, 0, 0, -1, 1, 0, 0, 1, 1, 0, 1], .fcls ⟨5, 3, -2, 4, 1⟩),
    ([1, -1, -1, 1, 1, 1, 0, 0, 1, -1, -1, 0, 0, 0, 1, 0, 0, 0, 0, -1, 1, 0, 0, 1, 1, 0, 1], .fscl ⟨5, 3, -2, 4, 1⟩),
    ([1, -1, -1, 0, 0, -1, 0, 0, 1, -1, -1, 0, 0, 0, 1, 0, 0, 0, 0, -1, 1, 0, 0, 1, 1, 0, 1], .fexn ⟨5, 3, -2, 4, 1⟩),
    ([1, -1, -1, 0, -1, 1, 0, 0, 1, -1, -1, 0, 0, 0, 1, 0, 0, 0, 0, -1, 1, 0, 0, 1, 1, 0, 1], .frnd ⟨5, 3, -2, 4, 1⟩),
    ([1, -1, -1, 0, -1, 0, 0, 0, 1, -1, -1, 0, 0, 0, 1, 0, 0, 0, 0, -1, 1, 0, 0, 1, 1, 0, 1], .fexp ⟨5, 3, -2, 4, 1⟩),
    ([1, -1, -1, 0, -1, -1, 0, 0, 1, -1, -1, 0, 0, 0, 1, 0, 0, 0, 0, -1, 1, 0, 0, 1, 1, 0, 1], .flog ⟨5, 3, -2, 4, 1⟩),
    ([1, -1, -1, -1, 1, 1, 0, 0, 1, -1, -1, 0, 0, 0, 1, 0, 0, 0, 0, -1, 1, 0, 0, 1, 1, 0, 1], .fsint ⟨5, 3, -2, 4, 1⟩),
    ([1, -1, -1, -1, 1, 0, 0, 0, 1, -1, -1, 0, 0, 0, 1, 0, 0, 0, 0, -1, 1, 0, 0, 1, 1, 0, 1], .fcost ⟨5, 3, -2, 4, 1⟩),
    ([1, -1, -1, -1, 1, -1, 0, 0, 1, -1, -1, 0, 0, 0, 1, 0, 0, 0, 0, -1, 1, 0, 0, 1, 1, 0, 1], .flgr ⟨5, 3, -2, 4, 1⟩),
    ([1, -1, -1, -1, 0, 1, 0, 0, 1, -1, -1, 0, 0, 0, 1, 0, 0, 0, 0, -1, 1, 0, 0, 1, 1, 0, 1], .flgc ⟨5, 3, -2, 4, 1⟩)] : List (List Int × Instr)),
    decode (tw q.1) = .ok q.2 := by decide +kernel

/-- Class +6 of Table 6.9, every function. -/
theorem test_decode_class_plus6 : ∀ q ∈ ([
    ([1, -1, 0, 0, 0, 1, 0, 0, -1, 1, 1, 0, 0, 0, 1, -1, 0, 0, 0, 1, 0, 0, 0, 0, 1, 1, 1], .fma ⟨-5, 2, 3, 4, 1⟩)] : List (List Int × Instr)),
    decode (tw q.1) = .ok q.2 := by decide +kernel

/-- Class +7 of Table 6.9, every function. -/
theorem test_decode_class_plus7 : ∀ q ∈ ([
    ([1, -1, 1, 0, 0, 1, 0, 0, 1, -1, -1, 0, 0, 0, 1, 0, 0, 0, 0, -1, 1, 0, 0, 1, 1, 0, 1], .cvt 1 ⟨5, 3, -2, 4, 1⟩),
    ([1, -1, 1, 0, 1, -1, 0, 0, 1, -1, -1, 0, 0, 0, 1, 0, 0, 0, 0, -1, 1, 0, 0, 1, 1, 0, 1], .cvt 2 ⟨5, 3, -2, 4, 1⟩),
    ([1, -1, 1, 0, 1, 0, 0, 0, 1, -1, -1, 0, 0, 0, 1, 0, 0, 0, 0, -1, 1, 0, 0, 1, 1, 0, 1], .cvt 3 ⟨5, 3, -2, 4, 1⟩),
    ([1, -1, 1, 0, 1, 1, 0, 0, 1, -1, -1, 0, 0, 0, 1, 0, 0, 0, 0, -1, 1, 0, 0, 1, 1, 0, 1], .cvt 4 ⟨5, 3, -2, 4, 1⟩),
    ([1, -1, 1, 1, -1, -1, 0, 0, 1, -1, -1, 0, 0, 0, 1, 0, 0, 0, 0, -1, 1, 0, 0, 1, 1, 0, 1], .cvt 5 ⟨5, 3, -2, 4, 1⟩),
    ([1, -1, 1, 1, -1, 0, 0, 0, 1, -1, -1, 0, 0, 0, 1, 0, 0, 0, 0, -1, 1, 0, 0, 1, 1, 0, 1], .cvt 6 ⟨5, 3, -2, 4, 1⟩),
    ([1, -1, 1, 1, -1, 1, 0, 0, 1, -1, -1, 0, 0, 0, 1, 0, 0, 0, 0, -1, 1, 0, 0, 1, 1, 0, 1], .cvt 7 ⟨5, 3, -2, 4, 1⟩),
    ([1, -1, 1, 1, 0, -1, 0, 0, 1, -1, -1, 0, 0, 0, 1, 0, 0, 0, 0, -1, 1, 0, 0, 1, 1, 0, 1], .cvt 8 ⟨5, 3, -2, 4, 1⟩),
    ([1, -1, 1, 1, 0, 0, 0, 0, 1, -1, -1, 0, 0, 0, 1, 0, 0, 0, 0, -1, 1, 0, 0, 1, 1, 0, 1], .cvt 9 ⟨5, 3, -2, 4, 1⟩)] : List (List Int × Instr)),
    decode (tw q.1) = .ok q.2 := by decide +kernel

/-- Class +8 of Table 6.9, every function. -/
theorem test_decode_class_plus8 : ∀ q ∈ ([
    ([1, 0, -1, 0, 0, 1, 0, 0, 1, -1, -1, 0, 0, 0, 1, 0, 0, 0, 0, -1, 1, 0, 0, 1, 1, 0, 1], .xlnAt ⟨5, 3, -2, 4, 1⟩),
    ([1, 0, -1, 0, 1, -1, 0, 0, 1, -1, -1, 0, 0, 0, 1, 0, 0, 0, 0, -1, 1, 0, 0, 1, 1, 0, 1], .xlnBk ⟨5, 3, -2, 4, 1⟩),
    ([1, 0, -1, 0, 1, 0, 0, 0, 1, -1, -1, 0, 0, 0, 1, 0, 0, 0, 0, -1, 1, 0, 0, 1, 1, 0, 1], .xlnFw ⟨5, 3, -2, 4, 1⟩),
    ([1, 0, -1, 0, 1, 1, 0, 0, 1, -1, -1, 0, 0, 0, 1, 0, 0, 0, 0, -1, 1, 0, 0, 1, 1, 0, 1], .xlnTri ⟨5, 3, -2, 4, 1⟩),
    ([1, 0, -1, 1, -1, -1, 0, 0, 1, -1, -1, 0, 0, 0, 1, 0, 0, 0, 0, -1, 1, 0, 0, 1, 1, 0, 1], .lred ⟨5, 3, -2, 4, 1⟩),
    ([1, 0, -1, 1, -1, 0, 0, 0, 1, -1, -1, 0, 0, 0, 1, 0, 0, 0, 0, -1, 1, 0, 0, 1, 1, 0, 1], .lscan ⟨5, 3, -2, 4, 1⟩)] : List (List Int × Instr)),
    decode (tw q.1) = .ok q.2 := by decide +kernel

/-- Class −1 of Table 6.9, every function. -/
theorem test_decode_class_minus1 : ∀ q ∈ ([
    ([0, 0, -1, 0, 0, 1, 1, 0, 1, 1, 1, 0, 0, 0, 0, 0, 0, 0, 0, 0, 0, 0, 0, 0, -1, 1, -1], .br ⟨1, 13, -7⟩),
    ([0, 0, -1, 0, 1, -1, 1, 0, 1, 1, 1, 0, 0, 0, 0, 0, 0, 0, 0, 0, 0, 0, 0, 0, -1, 1, -1], .call ⟨1, 13, -7⟩)] : List (List Int × Instr)),
    decode (tw q.1) = .ok q.2 := by decide +kernel

/-- Class −2 of Table 6.9, every function. -/
theorem test_decode_class_minus2 : ∀ q ∈ ([
    ([0, -1, 1, 0, 0, 1, 0, 0, 1, -1, -1, 0, 0, 0, 1, 0, 0, 0, 0, -1, 1, 0, 0, 1, 1, 0, 1], .jmpr ⟨5, 3, -2, 4, 1⟩),
    ([0, -1, 1, 0, 1, -1, 0, 0, 1, -1, -1, 0, 0, 0, 1, 0, 0, 0, 0, -1, 1, 0, 0, 1, 1, 0, 1], .callr ⟨5, 3, -2, 4, 1⟩),
    ([0, -1, 1, 0, 1, 0, 0, 0, 1, -1, -1, 0, 0, 0, 1, 0, 0, 0, 0, -1, 1, 0, 0, 1, 1, 0, 1], .ret ⟨5, 3, -2, 4, 1⟩),
    ([0, -1, 1, 0, 1, 1, 0, 0, 1, -1, -1, 0, 0, 0, 1, 0, 0, 0, 0, -1, 1, 0, 0, 1, 1, 0, 1], .exit ⟨5, 3, -2, 4, 1⟩),
    ([0, -1, 1, 1, -1, -1, 0, 0, 1, -1, -1, 0, 0, 0, 1, 0, 0, 0, 0, -1, 1, 0, 0, 1, 1, 0, 1], .yield ⟨5, 3, -2, 4, 1⟩),
    ([0, -1, 1, 1, -1, 0, 0, 0, 0, 0, 1, 0, 0, 1, -1, 1, 0, 0, 0, 0, -1, -1, 1, 0, -1, 0, -1], .trap ⟨1, 7, -100, -1⟩),
    ([0, -1, 1, 1, -1, 1, 0, 0, 1, -1, -1, 0, 0, 0, 1, 0, 0, 0, 0, -1, 1, 0, 0, 1, 1, 0, 1], .rte ⟨5, 3, -2, 4, 1⟩),
    ([0, -1, 1, 1, 0, -1, 0, 0, 1, -1, -1, 0, 0, 0, 1, 0, 0, 0, 0, -1, 1, 0, 0, 1, 1, 0, 1], .bkpt ⟨5, 3, -2, 4, 1⟩)] : List (List Int × Instr)),
    decode (tw q.1) = .ok q.2 := by decide +kernel

/-- Class −3 of Table 6.9, every function. -/
theorem test_decode_class_minus3 : ∀ q ∈ ([
    ([0, -1, 0, 0, 0, 1, 0, 0, 1, -1, -1, 0, 0, 0, 1, 0, 0, 0, 0, -1, 1, 0, 0, 1, 1, 0, 1], .watch ⟨5, 3, -2, 4, 1⟩),
    ([0, -1, 0, 0, 1, -1, 0, 0, 1, -1, -1, 0, 0, 0, 1, 0, 0, 0, 0, -1, 1, 0, 0, 1, 1, 0, 1], .sleep ⟨5, 3, -2, 4, 1⟩),
    ([0, -1, 0, 0, 1, 0, 0, 0, 1, -1, -1, 0, 0, 0, 1, 0, 0, 0, 0, -1, 1, 0, 0, 1, 1, 0, 1], .time ⟨5, 3, -2, 4, 1⟩),
    ([0, -1, 0, 0, 1, 1, 0, 0, 1, -1, -1, 0, 0, 0, 1, 0, 0, 0, 0, -1, 1, 0, 0, 1, 1, 0, 1], .cyc ⟨5, 3, -2, 4, 1⟩),
    ([0, -1, 0, 1, -1, -1, 0, 0, 0, 0, 1, 0, 0, 1, -1, 1, 0, 0, 0, 0, -1, -1, 1, 0, -1, 0, -1], .csrr ⟨1, 7, -100, -1⟩),
    ([0, -1, 0, 1, -1, 0, 0, 0, 0, 0, 1, 0, 0, 1, -1, 1, 0, 0, 0, 0, -1, -1, 1, 0, -1, 0, -1], .csrw ⟨1, 7, -100, -1⟩),
    ([0, -1, 0, 1, -1, 1, 0, 0, 0, 0, 1, 0, 0, 1, -1, 1, 0, 0, 0, 0, -1, -1, 1, 0, -1, 0, -1], .csrx ⟨1, 7, -100, -1⟩),
    ([0, -1, 0, 1, 0, -1, 0, 0, 0, 0, -1, 0, 0, 0, -1, 1, 0, 0, 0, 1, 0, 1, 1, 0, -1, 1, 1], .launch ⟨-1, -2, 3, 4, -5⟩),
    ([0, -1, 0, 1, 0, 0, 0, 0, 1, -1, -1, 0, 0, 0, 1, 0, 0, 0, 0, -1, 1, 0, 0, 1, 1, 0, 1], .evwait ⟨5, 3, -2, 4, 1⟩)] : List (List Int × Instr)),
    decode (tw q.1) = .ok q.2 := by decide +kernel

/-- Class −4 of Table 6.9, every function. -/
theorem test_decode_class_minus4 : ∀ q ∈ ([
    ([0, -1, -1, 0, 0, 1, 0, 1, -1, 1, -1, 0, -1, 1, -1, 0, 0, 0, 1, -1, -1, 0, 0, -1, 0, 1, -1], .gld ⟨20, -21, 5, -3, 2⟩),
    ([0, -1, -1, 0, 1, -1, 0, 1, -1, 1, -1, 0, -1, 1, -1, 0, 0, 0, 1, -1, -1, 0, 0, -1, 0, 1, -1], .gst ⟨20, -21, 5, -3, 2⟩),
    ([0, -1, -1, 0, 1, 0, 0, 1, -1, 1, -1, 0, -1, 1, -1, 0, 0, 0, 1, -1, -1, 0, 0, -1, 0, 1, -1], .glds ⟨20, -21, 5, -3, 2⟩),
    ([0, -1, -1, 0, 1, 1, 0, 1, -1, 1, -1, 0, -1, 1, -1, 0, 0, 0, 1, -1, -1, 0, 0, -1, 0, 1, -1], .prf ⟨20, -21, 5, -3, 2⟩),
    ([0, -1, -1, 1, -1, -1, 0, 1, -1, 1, -1, 0, -1, 1, -1, 0, 0, 0, 1, -1, -1, 0, 0, -1, 0, 1, -1], .lds ⟨20, -21, 5, -3, 2⟩),
    ([0, -1, -1, 1, -1, 0, 0, 1, -1, 1, -1, 0, -1, 1, -1, 0, 0, 0, 1, -1, -1, 0, 0, -1, 0, 1, -1], .sts ⟨20, -21, 5, -3, 2⟩),
    ([0, -1, -1, 1, -1, 1, 0, 1, -1, 1, -1, 0, -1, 1, -1, 0, 0, 0, 1, -1, -1, 0, 0, -1, 0, 1, -1], .ldsWf ⟨20, -21, 5, -3, 2⟩),
    ([0, -1, -1, 1, 0, -1, 0, 1, -1, 1, -1, 0, -1, 1, -1, 0, 0, 0, 1, -1, -1, 0, 0, -1, 0, 1, -1], .ldsWfe ⟨20, -21, 5, -3, 2⟩),
    ([0, -1, -1, 1, 0, 0, 0, 1, -1, 1, -1, 0, -1, 1, -1, 0, 0, 0, 1, -1, -1, 0, 0, -1, 0, 1, -1], .stsWe ⟨20, -21, 5, -3, 2⟩),
    ([0, -1, -1, 1, 0, 1, 0, 1, -1, 1, -1, 0, -1, 1, -1, 0, 0, 0, 1, -1, -1, 0, 0, -1, 0, 1, -1], .stsSt ⟨20, -21, 5, -3, 2⟩),
    ([0, -1, -1, 1, 1, -1, 0, 1, -1, 1, -1, 0, -1, 1, -1, 0, 0, 0, 1, -1, -1, 0, 0, -1, 0, 1, -1], .ldp ⟨20, -21, 5, -3, 2⟩),
    ([0, -1, -1, 1, 1, 0, 0, 1, -1, 1, -1, 0, -1, 1, -1, 0, 0, 0, 1, -1, -1, 0, 0, -1, 0, 1, -1], .stp ⟨20, -21, 5, -3, 2⟩),
    ([0, -1, -1, 1, 1, 1, 0, 1, -1, 1, -1, 0, -1, 1, -1, 0, 0, 0, 1, -1, -1, 0, 0, -1, 0, 1, -1], .ldc ⟨20, -21, 5, -3, 2⟩)] : List (List Int × Instr)),
    decode (tw q.1) = .ok q.2 := by decide +kernel

/-- Class −5 of Table 6.9, every function. -/
theorem test_decode_class_minus5 : ∀ q ∈ ([
    ([-1, 1, 1, 0, 0, 1, 0, 0, 0, 0, -1, 0, 0, 0, -1, 1, 0, 0, 0, 1, 0, 1, 1, 0, -1, 1, 1], .tnew ⟨-1, -2, 3, 4, -5⟩),
    ([-1, 1, 1, 0, 1, -1, 0, 0, 0, 0, -1, 0, 0, 0, -1, 1, 0, 0, 0, 1, 0, 1, 1, 0, -1, 1, 1], .tsplit ⟨-1, -2, 3, 4, -5⟩),
    ([-1, 1, 1, 0, 1, 0, 0, 0, 0, 0, -1, 0, 0, 0, -1, 1, 0, 0, 0, 1, 0, 1, 1, 0, -1, 1, 1], .tfree ⟨-1, -2, 3, 4, -5⟩),
    ([-1, 1, 1, 0, 1, 1, 0, 0, 0, 0, -1, 0, 0, 0, -1, 1, 0, 0, 0, 1, 0, 1, 1, 0, -1, 1, 1], .tacq ⟨-1, -2, 3, 4, -5⟩),
    ([-1, 1, 1, 1, -1, -1, 0, 0, 0, 0, -1, 0, 0, 0, -1, 1, 0, 0, 0, 1, 0, 1, 1, 0, -1, 1, 1], .trel ⟨-1, -2, 3, 4, -5⟩),
    ([-1, 1, 1, 1, -1, 0, 0, 0, 0, 0, -1, 0, 0, 0, -1, 1, 0, 0, 0, 1, 0, 1, 1, 0, -1, 1, 1], .tqry ⟨-1, -2, 3, 4, -5⟩),
    ([-1, 1, 1, 1, -1, 1, 0, 0, 0, 0, -1, 0, 0, 0, -1, 1, 0, 0, 0, 1, 0, 1, 1, 0, -1, 1, 1], .fenceT ⟨-1, -2, 3, 4, -5⟩),
    ([-1, 1, 1, 1, 0, -1, 0, 0, 0, 0, -1, 0, 0, 0, -1, 1, 0, 0, 0, 1, 0, 1, 1, 0, -1, 1, 1], .redc ⟨-1, -2, 3, 4, -5⟩)] : List (List Int × Instr)),
    decode (tw q.1) = .ok q.2 := by decide +kernel

/-- Class −6 of Table 6.9, every function. -/
theorem test_decode_class_minus6 : ∀ q ∈ ([
    ([-1, 1, 0, 0, 0, 1, 0, 0, 0, 0, -1, 0, 0, 0, -1, 1, 0, 0, 0, 1, 0, 1, 1, 0, -1, 1, 1], .mma ⟨-1, -2, 3, 4, -5⟩),
    ([-1, 1, 0, 0, 1, -1, 0, 0, 0, 0, -1, 0, 0, 0, -1, 1, 0, 0, 0, 1, 0, 1, 1, 0, -1, 1, 1], .mmas ⟨-1, -2, 3, 4, -5⟩),
    ([-1, 1, 0, 0, 1, 0, 0, 0, 0, 0, -1, 0, 0, 0, -1, 1, 0, 0, 0, 1, 0, 1, 1, 0, -1, 1, 1], .mxrel ⟨-1, -2, 3, 4, -5⟩),
    ([-1, 1, 0, 0, 1, 1, 0, 0, 0, 0, -1, 0, 0, 0, -1, 1, 0, 0, 0, 1, 0, 1, 1, 0, -1, 1, 1], .quant ⟨-1, -2, 3, 4, -5⟩),
    ([-1, 1, 0, 1, -1, -1, 0, 0, 0, 0, -1, 0, 0, 0, -1, 1, 0, 0, 0, 1, 0, 1, 1, 0, -1, 1, 1], .deq ⟨-1, -2, 3, 4, -5⟩),
    ([-1, 1, 0, 1, -1, 0, 0, 0, 0, 0, -1, 0, 0, 0, -1, 1, 0, 0, 0, 1, 0, 1, 1, 0, -1, 1, 1], .qcnt ⟨-1, -2, 3, 4, -5⟩)] : List (List Int × Instr)),
    decode (tw q.1) = .ok q.2 := by decide +kernel

/-- Class −7 of Table 6.9, every function. -/
theorem test_decode_class_minus7 : ∀ q ∈ ([
    ([-1, 1, -1, 0, 0, 1, 0, 0, 0, 0, -1, 0, 0, 0, -1, 1, 0, 0, 0, 1, 0, 1, 1, 0, -1, 1, 1], .cpy ⟨-1, -2, 3, 4, -5⟩),
    ([-1, 1, -1, 0, 1, -1, 0, 0, 0, 0, -1, 0, 0, 0, -1, 1, 0, 0, 0, 1, 0, 1, 1, 0, -1, 1, 1], .gath ⟨-1, -2, 3, 4, -5⟩),
    ([-1, 1, -1, 0, 1, 0, 0, 0, 0, 0, -1, 0, 0, 0, -1, 1, 0, 0, 0, 1, 0, 1, 1, 0, -1, 1, 1], .scat ⟨-1, -2, 3, 4, -5⟩),
    ([-1, 1, -1, 0, 1, 1, 0, 0, 0, 0, -1, 0, 0, 0, -1, 1, 0, 0, 0, 1, 0, 1, 1, 0, -1, 1, 1], .peer ⟨-1, -2, 3, 4, -5⟩),
    ([-1, 1, -1, 1, -1, -1, 0, 0, 0, 0, -1, 0, 0, 0, -1, 1, 0, 0, 0, 1, 0, 1, 1, 0, -1, 1, 1], .chain ⟨-1, -2, 3, 4, -5⟩),
    ([-1, 1, -1, 1, -1, 0, 0, 0, 0, 0, -1, 0, 0, 0, -1, 1, 0, 0, 0, 1, 0, 1, 1, 0, -1, 1, 1], .coll ⟨-1, -2, 3, 4, -5⟩),
    ([-1, 1, -1, 1, -1, 1, 0, 0, 0, 0, -1, 0, 0, 0, -1, 1, 0, 0, 0, 1, 0, 1, 1, 0, -1, 1, 1], .qfence ⟨-1, -2, 3, 4, -5⟩),
    ([-1, 1, -1, 1, 0, -1, 0, 0, 0, 0, -1, 0, 0, 0, -1, 1, 0, 0, 0, 1, 0, 1, 1, 0, -1, 1, 1], .bclose ⟨-1, -2, 3, 4, -5⟩),
    ([-1, 1, -1, 1, 0, 0, 0, 0, 0, 0, -1, 0, 0, 0, -1, 1, 0, 0, 0, 1, 0, 1, 1, 0, -1, 1, 1], .bwait ⟨-1, -2, 3, 4, -5⟩)] : List (List Int × Instr)),
    decode (tw q.1) = .ok q.2 := by decide +kernel

/-- Class −8 of Table 6.9, every function. -/
theorem test_decode_class_minus8 : ∀ q ∈ ([
    ([-1, 0, 1, 0, 0, 1, 0, 0, -1, 1, 1, 0, 0, 0, 1, -1, 0, 0, 0, 1, 0, 0, 0, 0, 1, 1, 1], .atomAdd ⟨-5, 2, 3, 4, 1⟩),
    ([-1, 0, 1, 0, 1, -1, 0, 0, -1, 1, 1, 0, 0, 0, 1, -1, 0, 0, 0, 1, 0, 0, 0, 0, 1, 1, 1], .atomMin ⟨-5, 2, 3, 4, 1⟩),
    ([-1, 0, 1, 0, 1, 0, 0, 0, -1, 1, 1, 0, 0, 0, 1, -1, 0, 0, 0, 1, 0, 0, 0, 0, 1, 1, 1], .atomMax ⟨-5, 2, 3, 4, 1⟩),
    ([-1, 0, 1, 0, 1, 1, 0, 0, -1, 1, 1, 0, 0, 0, 1, -1, 0, 0, 0, 1, 0, 0, 0, 0, 1, 1, 1], .atomTmin ⟨-5, 2, 3, 4, 1⟩),
    ([-1, 0, 1, 1, -1, -1, 0, 0, -1, 1, 1, 0, 0, 0, 1, -1, 0, 0, 0, 1, 0, 0, 0, 0, 1, 1, 1], .atomTmax ⟨-5, 2, 3, 4, 1⟩),
    ([-1, 0, 1, 1, -1, 0, 0, 0, -1, 1, 1, 0, 0, 0, 1, -1, 0, 0, 0, 1, 0, 0, 0, 0, 1, 1, 1], .atomXchg ⟨-5, 2, 3, 4, 1⟩),
    ([-1, 0, 1, 1, -1, 1, 0, 0, -1, 1, 1, 0, 0, 0, 1, -1, 0, 0, 0, 1, 0, 0, 0, 0, 1, 1, 1], .atomCas ⟨-5, 2, 3, 4, 1⟩),
    ([-1, 0, 1, 1, 0, -1, 0, 0, -1, 1, 1, 0, 0, 0, 1, -1, 0, 0, 0, 1, 0, 0, 0, 0, 1, 1, 1], .atomFadd ⟨-5, 2, 3, 4, 1⟩)] : List (List Int × Instr)),
    decode (tw q.1) = .ok q.2 := by decide +kernel

/-- Class −9 of Table 6.9, every function. -/
theorem test_decode_class_minus9 : ∀ q ∈ ([
    ([-1, 0, 0, 0, 0, 1, 0, 0, -1, 1, 1, 0, 0, 0, 1, -1, 0, 0, 0, 1, 0, 0, 0, 0, 1, 1, 1], .redAdd ⟨-5, 2, 3, 4, 1⟩),
    ([-1, 0, 0, 0, 1, -1, 0, 0, -1, 1, 1, 0, 0, 0, 1, -1, 0, 0, 0, 1, 0, 0, 0, 0, 1, 1, 1], .redMin ⟨-5, 2, 3, 4, 1⟩),
    ([-1, 0, 0, 0, 1, 0, 0, 0, -1, 1, 1, 0, 0, 0, 1, -1, 0, 0, 0, 1, 0, 0, 0, 0, 1, 1, 1], .redMax ⟨-5, 2, 3, 4, 1⟩),
    ([-1, 0, 0, 0, 1, 1, 0, 0, -1, 1, 1, 0, 0, 0, 1, -1, 0, 0, 0, 1, 0, 0, 0, 0, 1, 1, 1], .redTmin ⟨-5, 2, 3, 4, 1⟩),
    ([-1, 0, 0, 1, -1, -1, 0, 0, -1, 1, 1, 0, 0, 0, 1, -1, 0, 0, 0, 1, 0, 0, 0, 0, 1, 1, 1], .redTmax ⟨-5, 2, 3, 4, 1⟩),
    ([-1, 0, 0, 1, -1, 0, 0, 0, -1, 1, 1, 0, 0, 0, 1, -1, 0, 0, 0, 1, 0, 0, 0, 0, 1, 1, 1], .redX81 ⟨-5, 2, 3, 4, 1⟩),
    ([-1, 0, 0, 1, -1, 1, 0, 0, -1, 1, 1, 0, 0, 0, 1, -1, 0, 0, 0, 1, 0, 0, 0, 0, 1, 1, 1], .redFadd ⟨-5, 2, 3, 4, 1⟩)] : List (List Int × Instr)),
    decode (tw q.1) = .ok q.2 := by decide +kernel

/-- Class −10 of Table 6.9, every function. -/
theorem test_decode_class_minus10 : ∀ q ∈ ([
    ([-1, 0, -1, 0, 0, 1, 0, 0, 1, -1, -1, 0, 0, 0, 1, 0, 0, 0, 0, -1, 1, 0, 0, 1, 1, 0, 1], .fence ⟨5, 3, -2, 4, 1⟩),
    ([-1, 0, -1, 0, 1, -1, 0, 0, 1, -1, -1, 0, 0, 0, 1, 0, 0, 0, 0, -1, 1, 0, 0, 1, 1, 0, 1], .bara ⟨5, 3, -2, 4, 1⟩),
    ([-1, 0, -1, 0, 1, 0, 0, 0, 1, -1, -1, 0, 0, 0, 1, 0, 0, 0, 0, -1, 1, 0, 0, 1, 1, 0, 1], .barw ⟨5, 3, -2, 4, 1⟩),
    ([-1, 0, -1, 0, 1, 1, 0, 0, 1, -1, -1, 0, 0, 0, 1, 0, 0, 0, 0, -1, 1, 0, 0, 1, 1, 0, 1], .bars ⟨5, 3, -2, 4, 1⟩),
    ([-1, 0, -1, 1, -1, -1, 0, 0, 1, -1, -1, 0, 0, 0, 1, 0, 0, 0, 0, -1, 1, 0, 0, 1, 1, 0, 1], .barl ⟨5, 3, -2, 4, 1⟩)] : List (List Int × Instr)),
    decode (tw q.1) = .ok q.2 := by decide +kernel

/-- Class −11 of Table 6.9, every function. -/
theorem test_decode_class_minus11 : ∀ q ∈ ([
    ([-1, -1, 1, 0, 0, 1, 0, 0, 1, -1, -1, 0, 0, 0, 1, 0, 0, 0, 0, -1, 1, 0, 0, 1, 1, 0, 1], .replayTok ⟨5, 3, -2, 4, 1⟩),
    ([-1, -1, 1, 0, 0, 1, 0, 0, 1, -1, -1, 0, 0, 0, 1, 0, 0, 0, 0, -1, 1, 0, 0, 1, 1, 1, -1], .replayPage ⟨5, 3, -2, 4, 2⟩),
    ([-1, -1, 1, 0, 0, 1, 0, 0, 1, -1, -1, 0, 0, 0, 1, 0, 0, 0, 0, -1, 1, 0, 0, 1, 1, 1, 0], .replayFail ⟨5, 3, -2, 4, 3⟩),
    ([-1, -1, 1, 0, 1, -1, 0, 0, 1, -1, -1, 0, 0, 0, 1, 0, 0, 0, 0, -1, 1, 0, 0, 1, 1, 0, 1], .tlbiFld ⟨5, 3, -2, 4, 1⟩),
    ([-1, -1, 1, 0, 1, -1, 0, 0, 1, -1, -1, 0, 0, 0, 1, 0, 0, 0, 0, -1, 1, 0, 0, 1, 1, 1, -1], .tlbiVa ⟨5, 3, -2, 4, 2⟩),
    ([-1, -1, 1, 0, 1, 0, 0, 0, 1, -1, -1, 0, 0, 0, 1, 0, 0, 0, 0, -1, 1, 0, 0, 1, 1, 0, 0], .ctxs ⟨5, 3, -2, 4, 0⟩),
    ([-1, -1, 1, 0, 1, 0, 0, 0, 1, -1, -1, 0, 0, 0, 1, 0, 0, 0, 0, -1, 1, 0, 0, 1, 1, 0, 1], .ctxsPort ⟨5, 3, -2, 4, 1⟩),
    ([-1, -1, 1, 0, 1, 1, 0, 0, 1, -1, -1, 0, 0, 0, 1, 0, 0, 0, 0, -1, 1, 0, 0, 1, 1, 0, 0], .ctxr ⟨5, 3, -2, 4, 0⟩),
    ([-1, -1, 1, 0, 1, 1, 0, 0, 1, -1, -1, 0, 0, 0, 1, 0, 0, 0, 0, -1, 1, 0, 0, 1, 1, 0, 1], .ctxrDrop ⟨5, 3, -2, 4, 1⟩)] : List (List Int × Instr)),
    decode (tw q.1) = .ok q.2 := by decide +kernel

/-! ### Small states

Every witness below is about one of these: a gang of one block with one row at word 0 of a generation, on a core of field 0. -/

/-- A launch record of one gang with one block. -/
def lrec (hndl width vreg sreg priv scr clen : Int) : LaunchRec :=
  ⟨[word (hndl + 3 ^ 24), word (width + 3 + 3 ^ 6), word (vreg + 3 ^ 7 * sreg + 3 ^ 12 * priv), word scr, 1, 0, word clen, 0, 0]⟩

/-- The gang; its row stands `rem` words before the end of a clause with A = 1 and B = 2. -/
def gang (l : LaunchRec) (core : Nat) (gen : Int) (rem : Nat) (f : Row → Row) : Gang :=
  { gid := 1, grid := 0, index := 0, fld := 0, lrec := l, consts := [7]
    blocks := [{ newBlock l 0 core ⟨gen, 0, 1⟩ [5] with
      rows := [f { newRow l 0 ⟨gen, 0, 1⟩ with pct := [⟨⟨gen, 0, 1⟩, List.range l.width, false, false, rem, 1, 2⟩] }] }]
    partner := none, status := .resident, saveLine := 0, dieMask := 0, saveOrder := 0, saveTo := none, events := []
    portHalt := false, deadline := 0, mgmt := false }

/-- A header of three words, a NOP, and a header: the code the row stands in. -/
def code : List Word := [word (3 * 3 ^ 18), word (3 ^ 22), word (3 * 3 ^ 18)]

/-- The slot that holds it. -/
def slot (gen : Int) : Slot := ⟨0, 2, code, [⟨gen, 1, true, ⟨code, [0], [], []⟩, []⟩]⟩

/-- The state in which that row issues. -/
def st (l : LaunchRec) (core : Nat) (gen : Int) (rem : Nat) (f : Row → Row) : State :=
  { State.reset with
    fields := { FieldSt.reset with slots := [slot gen] } :: List.replicate 11 FieldSt.reset
    gangs := [gang l core gen rem f], cur := some ⟨1, 0, 0⟩ }

/-- The issuing context of a state that has one. -/
def cx (s : State) : Ctx :=
  match s.ctx? with
  | some c => c
  | none => ⟨⟨0, 0, 0⟩, gang ⟨[]⟩ 0 0 0 id, newBlock ⟨[]⟩ 0 0 ⟨0, 0, 0⟩ [], newRow ⟨[]⟩ 0 ⟨0, 0, 0⟩, ⟨⟨0, 0, 0⟩, [], false, false, 0, 0, 0⟩, 0⟩

theorem issuing_of (s : State) (h : (s.ctx?.isSome && !(cx s).blocked && !(cx s).r.acquiring &&
    !((cx s).gen0 && !(cx s).r.busy.isEmpty)) = true) : Issuing s (cx s) := by
  unfold cx at *
  cases hc : s.ctx? with
  | none => simp [hc] at h
  | some c =>
    rw [hc] at h
    simp only [Bool.and_eq_true, Bool.not_eq_true'] at h
    exact ⟨hc, h.1.1.2, h.1.2, h.2⟩

/-- Rows of 9 threads: without a handler, with one, in generation 0, on the management core; the last word of a clause. -/
def l9 : LaunchRec := lrec (-1) (-1) 9 9 3 9 3
def n9 : State := st l9 0 1 2 id
def t9 : State := st l9 0 1 1 id
def h9 : State := st (lrec 0 (-1) 9 9 3 9 3) 0 1 1 id
def p9 : State := st l9 0 0 0 id
def m9 : State := st l9 960 1 2 id
/-- A row of 27 threads. -/
def n27 : State := st (lrec (-1) 0 81 9 0 2187 0) 0 1 2 id

theorem n9_issuing : Issuing n9 (cx n9) := issuing_of _ (by decide +kernel)
theorem t9_issuing : Issuing t9 (cx t9) := issuing_of _ (by decide +kernel)
theorem h9_issuing : Issuing h9 (cx h9) := issuing_of _ (by decide +kernel)
theorem p9_issuing : Issuing p9 (cx p9) := issuing_of _ (by decide +kernel)
theorem m9_issuing : Issuing m9 (cx m9) := issuing_of _ (by decide +kernel)
theorem n27_issuing : Issuing n27 (cx n27) := issuing_of _ (by decide +kernel)

/-! ### States that meet the hypotheses of the statements about computing instructions -/

theorem witness_IntegerResults : let c := cx n9
    AluFree c 5 1 [src 3, src 2] 0 (predOk 0 && t27t9 0) accABS ∧ AluFree c (-5) 1 [src (-3), src (-2)] 0 (predOk 0 && t27t9 1) accABS ∧
    AluFree c 5 1 [src 3] 0 (predOk 0 && (0 : Int) == 0 && (0 : Int) == 0) {} ∧ ¬(c.gen0 = true ∧ (0 : Int) = -4) ∧
    AluFree c 8 1 [src 0, src (-1)] 0 (predOk 0 && t27t9 1) accAB ∧
    AluFree c 8 1 [src 0] 0 (predOk 0 && (t27t9 0 && (0 : Int) == 0)) accA ∧
    AluFree (cx p9) (-121) 1 [src 121, src 0] 0 (predOk 0 && t27t9 0) accABS := by decide +kernel

theorem witness_DivideShiftResults : let c := cx n9
    AluFree c 5 1 [src 3, src 2] 0 (predOk 0 && t27t9 0) accAB ∧ AluFree c 5 1 [src 3, src 2] 0 (predOk 0 && t27t9 1) accS ∧
    AluFree c 5 1 [src 3, src (-83)] 0 (predOk 0 && t27t9 0) {} := by decide +kernel

theorem witness_TritWordResults : let c := cx n9
    (∀ b ∈ ([-2, -1, 0, 1, 2] : List Int),
      AluFree c 5 1 [src 3] 0 (predOk 0 && ((0 : Int) == 0 && decide (-2 ≤ b ∧ b ≤ 2))) {}) ∧
    AluFree c 5 1 [src 3, src 2] 0 (predOk 0 && (0 : Int) == 0) accAB ∧
    AluFree c 5 1 [src 3] 0 (predOk 0 && ((0 : Int) == 0 && (0 : Int) == 0)) accA ∧
    (∀ ty ∈ ([0, 1, 2] : List Int), AluFree c 5 1 [src 3, src 2] 0 (predOk 0 && k012 ty) accS ∧
      AluFree c 5 1 [src 3] 0 (predOk 0 && (k012 ty && (0 : Int) == 0)) {}) := by decide +kernel

theorem witness_ComparePredicateResults : let c := cx n9
    Free c false [src 3, src 2] ((0 : Int) == 0 && predOk 0 && qNum 8) accAB ∧
    Free c false [src 3] ((0 : Int) == 0 && predOk c.mod.pred && qNum 0) { p := true, imm := true, na := true } ∧
    Free c false [] ((0 : Int) == 0 && qNum 0 && qNum 8 && predOk 0 && qNum 4) accAB ∧
    Free c false [] ((0 : Int) == 0 && qNum 8 && (0 : Int) == 0 && predOk 0 && qNum 4) {} ∧
    Free c false [dst 5] (predOk 0 && vecDst c 5 && (0 : Int) == 0 && qNum 1 && (0 : Int) == 0) {} ∧
    Free c false [src 3] ((1 : Int) == 1 && (0 : Int) == 0 && predOk 0 && qNum 8) {} ∧
    (∀ b ∈ ([0, 2] : List Int), RowFree c (-3) [] [] 0 ((-1 : Int) == -1 && qNum 1 && decide (0 ≤ b ∧ b ≤ 2))) ∧
    Named c false [dst (-3)] ∧ Named c false [dst 5] ∧ c.gen0 = false ∧ isSca (-3) = true ∧ isVec 5 = true := by
  decide +kernel

theorem witness_ImmediateFieldResults : let c := cx n9
    AluFree c 5 1 [] c.mod.pred (t27t9 0 && (0 : Int) == 0) (accImm 0) ∧
    AluFree c 5 1 [src 3] c.mod.pred (t27t9 1) { accImm 1 with na := true, sat := true } ∧
    (∀ n ∈ ([0, 26] : List Int),
      AluFree c 5 1 [src 3] c.mod.pred (t27t9 0 && decide (0 ≤ n ∧ n < (widthOfA 0 : Int))) { p := true, sat := true } ∧
      AluFree c 5 1 [src 3] c.mod.pred (t27t9 0 && decide (0 ≤ n ∧ n < (widthOfA 0 : Int))) { p := true }) ∧
    (∀ imm ∈ ([27 * 81, 26 + 81] : List Int), AluFree c 5 1 [src 3] c.mod.pred ((0 : Int) == 0 && textOk imm) { p := true }) := by
  decide +kernel

theorem witness_ThreeSourceResults : let c := cx n9
    AluFree c 5 1 [src 3, src 2, src 1] c.mod.pred (t27t9 0) { accABC with sat := true } ∧
    AluFree c 5 1 [src 3, src 2, src 1] c.mod.pred (t27t9 1) accABC ∧
    AluFree c 5 1 [src 3, src 2, src 1] c.mod.pred ((0 : Int) == 0) accABC ∧
    (∀ k ∈ ([0, 26] : List Int), AluFree c 5 1 [src 3, src 2] c.mod.pred ((0 : Int) == 0 && decide (0 ≤ k ∧ k ≤ 26))
      { p := true, na := true, nb := true }) := by decide +kernel

theorem witness_SelResults : let c := cx n9
    Free c false [dst 5, src 3, src 2] (predOk 0 && vecDst c 5) accAB ∧
    Named c false [dst (-5), src 3, src 2] ∧ c.gen0 = false ∧ isSca (-5) = true := by decide +kernel

theorem witness_VoteLaneResults : let c := cx n9
    (∀ a ∈ ([-6, 8] : List Int), RowFree c (-5) [] [] 0 (condOk 0 && decide (-6 ≤ a ∧ a ≤ 8) && (0 : Int) == 0)) ∧
    fxBusy c = false ∧ Named c false [dst 5] ∧ c.gen0 = false ∧ isVec 5 = true ∧
    (∀ ty ∈ ([0, 1] : List Int), Free c false [dst 5, src 3, src 2] (predOk 0 && segOk ty && vecDst c 5) {}) ∧
    Named c false [dst (-5), src 3, src 2] ∧ isSca (-5) = true ∧
    (∀ b ∈ ([1, 2, 3, 4, 5] : List Int),
      Free c false [dst 5, src 3] (predOk 0 && decide (0 < b) && laneOpOk b 0) (laneAcc ⟨5, 3, b, 0, 0⟩) ∧
      Free c false [dst (-5), src 3] (predOk 0 && decide (0 < b) && laneOpOk b 0) (laneAcc ⟨-5, 3, b, 0, 0⟩) ∧
      Free c false [dst 5, src 3] (predOk 0 && vecDst c 5 && laneOpOk (-b) 0) (laneAcc ⟨5, 3, -b, 0, 0⟩)) ∧
    OneWay c 0 ∧ Free c false [dst 5, src 3] (predOk 0) (laneAcc ⟨5, 3, 3, 0, 3⟩) ∧
    Free c false [dst 5, src 3] (predOk 0 && vecDst c 5) (laneAcc ⟨5, 3, -1, 0, 3⟩) := by decide +kernel

theorem witness_LaneMoveResults : let c := cx n9
    RowFree c (-5) [src 3, src (-2)] [-2] 0 ((0 : Int) == 0) ∧
    Free c false [dst 5, src (-3), src (-2)] (predOk 0 && vecDst c 5 && (0 : Int) == 0 && rowSrcs c [-3, -2]) {} ∧
    uniform c [-3, -2] = true ∧ OneWay c 0 ∧ Named c false [dst 5, src 3, src (-2)] ∧
    Named c false [dst (-5), src (-3), src (-2)] ∧ c.gen0 = false ∧ isVec 5 = true ∧ isSca (-5) = true := by decide +kernel

/-! ### Hint words, traps, order of checks, frames -/

/-- A row between two clauses, with flags 1 and 12 counted on, and one whose prefix IMM has issued. -/
def o9 : State := st l9 0 1 0 (fun r => { r with flags := [2] ++ List.replicate 10 0 ++ [1] })
def i9 : State := st l9 0 1 2 (fun r => { r with pfx := some ⟨⟨1, 0, 1⟩, some 5, none⟩ })
/-- The same with MODH behind IMM. -/
def mh9 : State := st l9 0 1 3 (fun r => { r with pfx := some ⟨⟨1, 0, 1⟩, some 5, some 0⟩ })
theorem mh9_issuing : Issuing mh9 (cx mh9) := issuing_of _ (by decide +kernel)
theorem o9_issuing : Issuing o9 (cx o9) := issuing_of _ (by decide +kernel)
theorem i9_issuing : Issuing i9 (cx i9) := issuing_of _ (by decide +kernel)

/-- The header payload of LEN 1, A, B and a WAIT. -/
def hpay (wait a b : Int) : Int := 3 ^ 18 + 3 ^ 6 * wait + 27 * a + b

theorem witness_HintResults : let c := cx o9
    c.gen0 = false ∧ c.e.rem = 0 ∧ field 0 18 3 = 0 ∧ field (-(3 ^ 18)) 18 3 < 0 ∧
    (∀ q ∈ ([(1, 0, 12), (3 ^ 11, 12, 0), (0, 12, 12), (3, 1, 2)] : List (Int × Int × Int)), let p := hpay q.1 q.2.1 q.2.2
      0 < field p 18 3 ∧ (∀ i ∈ List.range 12, trit p (6 + i) ≠ -1) ∧
      (0 ≤ field p 3 3 ∧ field p 3 3 ≤ 12 ∧ 0 ≤ field p 0 3 ∧ field p 0 3 ≤ 12)) ∧
    (∃ i ∈ List.range 12, trit (hpay 1 0 0) (6 + i) = 1 ∧ c.r.flag (i + 1) ≠ 0) ∧
    (∃ i ∈ List.range 12, trit (hpay (3 ^ 11) 0 0) (6 + i) = 1 ∧ c.r.flag (i + 1) ≠ 0) ∧
    (∀ i ∈ List.range 12, trit (hpay 3 1 2) (6 + i) = 1 → c.r.flag (i + 1) = 0) ∧
    (c.r.handler.active = true ∨ (c.r.fails = [] ∧ c.r.escDue = [] ∧ c.r.escLost = [])) ∧
    clauseOk (cx n9) false = true ∧ 1 < (cx n9).rem ∧ (cx n9).r.pfx = none ∧
    clauseOk (cx i9) false = true ∧ (∀ q, (cx i9).r.pfx = some q → q.modh = none) ∧
    (cx n9).gen0 = false ∧ (cx n9).g.portHalt = false ∧ n9.swapTarget (cx n9) 0 = none := by
  and_intros <;> decide +kernel

/-- The traps of the hint words: generation 0, inside a clause, a reserved LEN, a − in WAIT, A and B below 0 and above 12; a
second IMM, an IMM behind MODH, a second MODH, a clause's last word; a SAFE of negative index, or behind a prefix. -/
theorem witness_HintResults_traps : (cx p9).gen0 = true ∧ (cx n9).e.rem ≠ 0 ∧
    (∀ p ∈ ([-(3 ^ 18), hpay (-1) 0 0, hpay (-(3 ^ 11)) 0 0, hpay 0 (-1) 0, hpay 0 13 0, hpay 0 0 (-1), hpay 0 0 13] : List Int),
      field p 18 3 ≠ 0 ∧ (field p 18 3 < 0 ∨ (∃ i ∈ List.range 12, trit p (6 + i) = -1) ∨ field p 3 3 < 0 ∨ 12 < field p 3 3 ∨
        field p 0 3 < 0 ∨ 12 < field p 0 3)) ∧
    clauseOk (cx i9) false = true ∧ (cx i9).r.pfx ≠ none ∧ clauseOk (cx mh9) false = true ∧
    (cx mh9).r.pfx = some ⟨⟨1, 0, 1⟩, some 5, some 0⟩ ∧ clauseOk (cx t9) false = true ∧ (cx t9).gen0 = false ∧ (cx t9).rem ≤ 1 := by
  and_intros <;> decide +kernel

/-- The row's slot with a current generation 2 that maps the first safe point. -/
def sw9 : State := { n9 with fields := modAt n9.fields 0 (fun x => { x with slots := x.slots.map (fun l =>
  { l with gens := l.gens ++ [⟨2, 0, true, ⟨code, [0], [⟨0, 1, 2, []⟩], []⟩, []⟩] }) }) }
theorem witness_HintResults_swap : sw9.swapTarget (cx sw9) 0 = some (2, ⟨0, 1, 2, []⟩) ∧ (cx sw9).r.busy = [] ∧
    sw9.ctx? = some (cx sw9) ∧ swapBusy (cx sw9) (sw9.ownMap (cx sw9) ⟨0, 1, 2, []⟩) ⟨0, 1, 2, []⟩ = false :=
  ⟨by decide +kernel, by decide +kernel, rfl, by decide +kernel⟩
/-- The same with a place that the old generation keeps in a register it still owes. -/
def sb9 : State := { sw9 with gangs := [gang l9 0 1 2 (fun r => { r with busy := [3] })]
                              fields := modAt sw9.fields 0 (fun x => { x with slots := x.slots.map (fun l =>
  { l with gens := [⟨1, 1, true, ⟨code, [0], [⟨0, 1, 1, [(0, .vec 3)]⟩], []⟩, []⟩,
                    ⟨2, 0, true, ⟨code, [0], [⟨0, 1, 2, [(0, .vec 4)]⟩], []⟩, []⟩] }) }) }
theorem witness_HintResults_swapWaits : sb9.swapTarget (cx sb9) 0 = some (2, ⟨0, 1, 2, [(0, .vec 4)]⟩) ∧
    swapBusy (cx sb9) (sb9.ownMap (cx sb9) ⟨0, 1, 2, [(0, .vec 4)]⟩) ⟨0, 1, 2, [(0, .vec 4)]⟩ = true := by
  and_intros <;> decide +kernel

theorem witness_NopResults : Named (cx n9) false [] ∧ (cx n9).r.pfx = none := by decide +kernel

theorem witness_TrapEntry : (0 ≤ (cx h9).g.lrec.hndl ∧ (cx h9).r.handler.active = false) ∧ (cx n9).g.lrec.hndl < 0 := by
  decide +kernel

theorem witness_CheckOrder : clauseOk (cx o9) false = false ∧ clauseOk (cx n9) false = true ∧
    (regOk (cx n9) 9 true && regOk (cx n9) 3 false && regOk (cx n9) 2 false) = false ∧
    Named (cx n9) false [dst 5, src 3, src 2] ∧
    (predOk 0 && t27t9 2 && sideOk (cx n9) 5 [3, 2] && pfxOk accABS (cx n9)) = false := by decide +kernel

theorem witness_IssueComputeFrame : n9.ctx? = some (cx n9) ∧ (cx n9).gen0 = false ∧ isVec 5 = true ∧ isSca (-5) = true ∧
    ((cx n9).acting 0).length = (cx n9).act.length ∧ (-(-5 : Int) - 1).toNat < (cx n9).r.sregs.length ∧ (cx n9).act ≠ [] :=
  ⟨n9_issuing.1, by decide +kernel⟩

/-- The last clause of IssueComputeFrame: such an instruction goes on there. -/
theorem witness_IssueComputeFrame_next : ∃ t, exec (.add ⟨5, 3, 2, 0, 0⟩) n9 = .next t := by
  exact ⟨_, rfl⟩

/-! ### Floating point, conversions -/

theorem witness_FloatArithmeticResults : let c := cx n9
    (∀ ty ∈ ([3, 4, 2] : List Int), AluFree c 5 1 [src 3, src 2] 0 (predOk 0 && fAll ty) accAB) ∧
    AluFree c 5 1 [src 3, src 2, src 1] c.mod.pred true { p := true, na := true, nb := true, nc := true } ∧
    AluFree c 5 1 [src 3, src 2] 0 (predOk 0 && (3 : Int) == 3) accAB ∧
    AluFree c 5 1 [src 3] 0 (predOk 0 && ((3 : Int) == 3 && (0 : Int) == 0)) accA := by decide +kernel

/-- The row with the same three F27 words in v3, v2, v1 of thread 0. -/
def fl9 (x y w : Int) : State := st l9 0 1 2 (fun r => { r with vregs := ((r.vregs.set 27 (word x)).set 18 (word y)).set 9 (word w) })
theorem fl9_issuing (x y w : Int) : Issuing (fl9 x y w) (cx (fl9 x y w)) := ⟨rfl, rfl, rfl, rfl⟩
/-- The operands of each clause: finite values of both signs and 0, infinities that agree and disagree in sign, products of 0 and an
infinity in both orders, and NaNs, quiet and signalling, in each place. -/
theorem witness_FloatArithmeticResults_operands :
    let one := mkFl .f27 0 1
    let sn := mkFl .f27 (FKind.f27).top 1
    let qn := quietNaN sn
    let pinf := infWord .f27 false
    let ninf := infWord .f27 true
    let z := zeroWord .f27
    (∀ q ∈ ([(one, (readFl .f27 one)), (-one, readFl .f27 (-one)), (z, readFl .f27 z), (pinf, .inf false), (ninf, .inf true), (qn, .nan false qn), (sn, .nan true sn)] :
        List (Int × Fl)), ∀ y ∈ ([one, -one, z, pinf, ninf, qn, sn] : List Int), ∀ w ∈ ([one, ninf, qn] : List Int),
      let c := cx (fl9 q.1 y w)
      AluFree c 5 1 [src 3, src 2] 0 (predOk 0 && fAll 3) accAB ∧
      AluFree c 5 1 [src 3, src 2, src 1] c.mod.pred true { p := true, na := true, nb := true, nc := true } ∧
      AluFree c 5 1 [src 3] 0 (predOk 0 && ((3 : Int) == 3 && (0 : Int) == 0)) accA ∧
      c.fl .f27 c.mod.na 3 0 0 = q.2 ∧ c.fl .f27 c.mod.nb 2 0 0 = readFl .f27 y ∧ c.fl .f27 c.mod.nc 1 0 0 = readFl .f27 w) ∧
    (readFl .f27 z).isFin = true ∧ (readFl .f27 z).rat = 0 ∧ (readFl .f27 (-one)).isFin = true ∧ (readFl .f27 (-one)).rat < 0 ∧
    (readFl .f27 one).isFin = true ∧ 0 < (readFl .f27 one).rat := by decide +kernel

theorem witness_FloatCompletion : let c := cx n9
    AluFree c 5 1 [src 3, src 2] 0 (predOk 0 && fAll 3) accAB ∧
    AluFree c 5 1 [src 3, src 2, src 1] c.mod.pred true { p := true, na := true, nb := true, nc := true } ∧
    AluFree c 5 1 [src 3, src 2] 0 (predOk 0 && (3 : Int) == 3) accAB ∧
    AluFree c 5 1 [src 3] 0 (predOk 0 && ((3 : Int) == 3 && (0 : Int) == 0)) accA ∧
    AluFree c 5 1 [src 3] 0 (predOk 0 && (fAll 4 && (0 : Int) == 0)) accA ∧
    AluFree c 5 1 [src 3, src 2] 0 (predOk 0 && fAll 2) accA ∧
    AluFree c 5 1 [src 3] 0 (predOk 0 && (fAll 3 && modeOk (-1))) accA := by decide +kernel

theorem witness_FloatTestResults : let c := cx n9
    AluFree c 5 1 [src 3, src 2] 0 (predOk 0 && fAll 3) accAB ∧ AluFree c 5 1 [src 3] 0 (predOk 0 && (fAll 4 && (0 : Int) == 0)) accA ∧
    Free c false [src 3, src 2] ((3 : Int) == 3 && predOk 0 && qNum 8) accAB ∧
    AluFree c 5 1 [src 3] 0 (predOk 0 && ((3 : Int) == 3 && (0 : Int) == 0)) accA ∧
    AluFree c 5 1 [src 3, src 2] 0 (predOk 0 && fAll 2) accA ∧
    (∀ b ∈ ([0, -1, 1, 3] : List Int), AluFree c 5 1 [src 3] 0 (predOk 0 && (fAll 3 && modeOk b)) accA) ∧
    (∀ d ∈ ([5, -5] : List Int), Free c false [dst d] (predOk 0 && (0 : Int) == 0 && (0 : Int) == 0 && (0 : Int) == 0) {}) ∧
    fxBusy c = false ∧ rowSide c 5 = false ∧ rowSide c (-5) = true ∧ OneWay c 0 ∧
    Free c false [src 3] (predOk 0 && (0 : Int) == 0 && (0 : Int) == 0 && (0 : Int) == 0) {} := by decide +kernel

/-- For source kind `a` and type `ty` the hypotheses of ConvertResults hold, with registers at the end of the file. -/
abbrev CvtFree (c : Ctx) (a : CvtKind) (ty : Int) : Prop :=
  cvtLegal a (cvtDst ty) = true ∧
    AluFree c 0 (cvtDst ty).words
      ({ src 6 with n := a.words } :: (if a = .x81 ∨ cvtDst ty = .x81 then [src 3] else []))
      0 (predOk 0 && cvtB a (cvtDst ty) ⟨0, 6, if a = .x81 ∨ cvtDst ty = .x81 then 3 else 0, 0, ty⟩ && groupOk c 6 a.words &&
        groupOk c 0 (cvtDst ty).words)
      { na := match a with | .fl _ => true | _ => false }

/-- ConvertResults, and the last clause of FloatCompletion. -/
theorem witness_ConvertResults : let c := cx n9
    cvtSrc 1 = some .t27 ∧ cvtSrc 5 = some .x81 ∧ cvtSrc 9 = some (.bin 8 7) ∧ cvtSrc 4 = some (.fl .f9w) ∧ CvtFree c .t27 3 ∧ CvtFree c (.fl .f27) 0 ∧
    CvtFree c (.fl .f9n) 2 ∧ CvtFree c (.fl .f9w) 3 ∧ CvtFree c (.fl .f27) 4 ∧ CvtFree c (.bin 8 23) 3 ∧ CvtFree c (.fl .f27) 1 ∧ CvtFree c (.fl .f27) (-1) ∧ CvtFree c (.bin 11 52) 3 ∧ CvtFree c (.fl .f27) (-2) ∧
    CvtFree c .x81 3 := by decide +kernel

/-! ### Control transfers, traps of programs, clocks, system registers -/

/-- The row at word 1 with registers as given: in native code and in generation 0. -/
def r9 (v : List (Nat × Int)) (sc : List (Nat × Int)) : State := st l9 0 1 1 (fun r =>
  { r with vregs := v.foldl (fun l q => l.set q.1 (word q.2)) r.vregs, sregs := sc.foldl (fun l q => l.set q.1 (word q.2)) r.sregs })

/-- v3 of every thread holds the address of word 2 of generation 1 of slot 0; and of slot 1. -/
def j9 : State := r9 ((List.range 9).map (fun p => (27 + p, 3 ^ 24 + 2))) [(2, 3 ^ 24 + 2)]
def k9 : State := r9 ((List.range 9).map (fun p => (27 + p, 3 ^ 24 + 3 ^ 19))) []
theorem j9_issuing : Issuing j9 (cx j9) := issuing_of _ (by decide +kernel)
theorem k9_issuing : Issuing k9 (cx k9) := issuing_of _ (by decide +kernel)

/-- A thread alone, whose v3 holds an address in generation 2, whose code is freed, with and without a map of the place. -/
def g9 (rets : List (Int × Int)) : State :=
  { r9 ((List.range 9).map (fun p => (27 + p, 2 * 3 ^ 24 + 5))) [] with
    fields := { FieldSt.reset with slots := [⟨0, 2, code, [⟨2, 1, false, ⟨[], [], [], [(5, 9)]⟩, []⟩,
      ⟨1, 2, true, ⟨code, [0], [], rets⟩, []⟩]⟩] } :: List.replicate 11 FieldSt.reset
    gangs := [{ gang l9 0 1 1 id with blocks := (gang l9 0 1 1 id).blocks.map (fun b => { b with rows := b.rows.map (fun r =>
      { r with vregs := (List.range 9).foldl (fun l p => l.set (27 + p) (word (2 * 3 ^ 24 + 5))) r.vregs
               pct := [⟨⟨1, 0, 1⟩, [4], false, false, 1, 1, 2⟩] }) }) }] }
theorem g9_issuing : Issuing (g9 [(2, 9)]) (cx (g9 [(2, 9)])) := issuing_of _ (by decide +kernel)

theorem witness_BranchCallResults :
    (let c := cx t9;
      Free c true [] (predOk 0) {} ∧ c.gen0 = false ∧ Free c true [dst 0] (predOk 0) {} ∧
      (c.acting 0).length = c.act.length ∧ c.acting 0 ≠ [] ∧ t9.canEnter c.fld (c.ia.plus 1) = true ∧ t9.canEnter c.fld (c.ia.plus 0) = false ∧
      t9.canEnter c.fld (c.ia.plus (-1)) = true) ∧
    (let c := cx p9;
      c.gen0 = true ∧ Free c true [] (predOk 0) {} ∧ Free c true [dst (-121)] (predOk 0) {} ∧
      p9.atPortableSafePoint c = none ∧ p9.canEnter c.fld (c.ia.plus 0) = true) ∧
    (let c := cx j9;
      Free c true [src 3] (predOk 0 && (0 : Int) == 0 && (0 : Int) == 0) {} ∧
      Free c true [src 3, dst 5] (predOk 0 && (0 : Int) == 0 && (0 : Int) == 0) {} ∧
      Free c true [src (-3), dst (-5)] (predOk 0 && (0 : Int) == 0 && (0 : Int) == 0) {} ∧ rowSrcs c [-3] = true ∧ c.act ≠ [] ∧
      ∀ f ∈ ([3, -3] : List Int), ∀ t ∈ c.act, let a := CodeAddr.ofWord (word (rd c f t))
        a.slot = c.e.addr.slot ∧ (j9.gener? c.fld a.slot a.gen).isSome = true ∧ j9.canEnter c.fld a = true) ∧
    (let c := cx k9;
      Free c true [src 3] (predOk 0 && (0 : Int) == 0 && (0 : Int) == 0) {} ∧ c.act.Pairwise (· < ·) ∧
      (CodeAddr.ofWord (word (rd c 3 0))).slot ≠ c.e.addr.slot) ∧
    ∀ rets ∈ ([[(2, 9)], []] : List (List (Int × Int))), let s := g9 rets
      let c := cx s
      c.act = [4] ∧ Free c true [src 3] ((0 : Int) == 0 && (0 : Int) == 0) {} ∧
      (let a := CodeAddr.ofWord (word (rd c 3 4));
        a.slot = c.e.addr.slot ∧ a.gen ≠ 0 ∧ s.gener? c.fld a.slot a.gen = none ∧
        s.remap c.fld a = if rets = [] then none else some ⟨1, 0, 2⟩) ∧ s.canEnter c.fld ⟨1, 0, 2⟩ = true := by
  decide +kernel

/-- A row whose threads 0 to 3 have q0 = +, with code of a UNIF trap in reach; a row whose watch is armed. -/
def q9 : State := st l9 0 1 1 (fun r => { r with qs := List.replicate 4 (.pos :: List.replicate 8 .zero) ++ List.replicate 5 (List.replicate 9 .zero) })
theorem q9_issuing : Issuing q9 (cx q9) := issuing_of _ (by decide +kernel)

/-- In a handler, with every thread a member, or with one that is elsewhere. -/
def e9 (members : List Nat) (written : Bool) : State := st (lrec 0 (-1) 9 9 3 9 3) 0 1 1 (fun r =>
  { r with handler := ⟨true, members, word (3 ^ 24), written, 10, false, 0, 0, 0, 0, 2⟩ })
theorem e9_issuing : Issuing (e9 (List.range 9) false) (cx (e9 (List.range 9) false)) := issuing_of _ (by decide +kernel)

theorem witness_YieldExitTrapResults :
    (let c := cx t9;
      Free c false [] ((0 : Int) == 0 && (0 : Int) == 0 && (0 : Int) == 0 && (0 : Int) == 0 && (0 : Int) == 0) {} ∧
      Free c true [] (predOk 0 && (0 : Int) == 0 && (0 : Int) == 0 && (0 : Int) == 0 && (0 : Int) == 0) {} ∧
      c.r.handler.active = false ∧ c.act.filter (fun t => !(c.acting 0).contains t) = [] ∧
      c.r.pct.filter (fun e => e.addr != c.e.addr) = [] ∧ t9.rowIdle c.core c.ref c.r = true ∧ c.r.fails = [] ∧ c.r.escDue = [] ∧
      c.r.escLost = []) ∧
    (let c := cx q9;
      c.act.filter (fun t => !(c.acting (1 - 36)).contains t) ≠ [] ∧ predOk (1 - 36) = true ∧
      (¬OneWay c (1 - 36)) ∧ Free c true [] (predOk (1 - 36)) {}) ∧
    (let c := cx h9;
      Free c true [] ((0 : Int) == 0 && (0 : Int) == 0 && (0 : Int) == 0) { imm := true, p := true } ∧
      (c.acting c.mod.pred).length = c.act.length ∧ 0 ≤ c.g.lrec.hndl ∧ c.r.handler.active = false ∧
      Free c false [] ((0 : Int) == 0 && (0 : Int) == 0 && (0 : Int) == 0 && (0 : Int) == 0 && predOk 0) {}) ∧
    (∀ w ∈ [false, true], let s := e9 (List.range 9) w
      let c := cx s
      c.r.handler.active = true ∧ (∀ t ∈ c.r.handler.members, t ∈ c.act) ∧ s.canEnter c.fld (CodeAddr.ofWord c.r.handler.pc) = true ∧
      Free c true [] ((0 : Int) == 0 && (0 : Int) == 0 && (0 : Int) == 0 && (0 : Int) == 0 && (0 : Int) == 0) {}) := by
  decide +kernel

/-- A field whose addresses below 3^21 lead to the device addresses of the same number, all of them readable and writable: one
pointer, and one leaf of level 1 at tryte 1092. -/
def mapped (s : State) : State :=
  { s with
    mem := [(1092, 351)]
    fields := modAt s.fields 0 (fun x => { x with ptroot := word (-(243 + 108)) })
    dies := s.dies.map (fun d => { d with service := 2, hbm := 1 }) }

/-- Scalar registers: s0 a line address, s1 one that is not aligned, s2 a timeout, s3 = −1. -/
def w9 (f : Row → Row) : State := mapped (st l9 0 1 2 (fun r => f { r with sregs := [word 2700, word 2701, 5, word (-1), 0, 0, 0, 0, 0] }))
def w9a (trig : Bool) : State := w9 (fun r => { r with watch := ⟨true, trig, word 2700, ⟨.hbm, 2700⟩⟩ })
/-- The line of s0 is homed on die 1; every link has failed, or none. -/
def w9c (b : Bool) : State :=
  { w9 id with mem := [(1092, 351), (1094, 243)], links := (w9 id).links.map (fun p => (if b then { p.1 with state := -1 } else p.1, p.2)) }
theorem w9_issuing : Issuing (w9 id) (cx (w9 id)) := issuing_of _ (by decide +kernel)
theorem w9a_issuing : Issuing (w9a true) (cx (w9a true)) := issuing_of _ (by decide +kernel)

/-- The row of n9 with a group asleep until `u`, its watch triggered or not. -/
def z9 (trig : Bool) (u : Option Nat) : State := st l9 0 1 2 (fun r =>
  { r with watch := ⟨true, trig, word 2700, ⟨.hbm, 2700⟩⟩, sleeps := [⟨List.range 9, ⟨1, 0, 1⟩, 0, u, -5, false⟩]
           pct := [⟨⟨1, 0, 1⟩, List.range 9, false, true, 2, 1, 2⟩] })

/-- Whether the addresses translate to so many locations. -/
def okAddrs (s : State) (len : Nat) (vas : List Int) (n : Nat) : Bool :=
  match checkAddrs s (cx s) len vas with
  | .ok q => q.1.length == n
  | .error _ => false

theorem witness_SleepResults_cut : ∀ b ∈ [false, true], let c := cx (w9c b)
    Issuing (w9c b) c ∧ OneWay c 0 ∧ uniform c [-1] = true ∧ (c.acting 0).length = c.act.length ∧ rdRow c (-1) ≠ 0 ∧ rdRow c (-1) % 27 = 0 ∧
    Free c false [src (-1)] (predOk 0 && (0 : Int) == 0 && (0 : Int) == 0 && (0 : Int) == 0 && rowSrcs c [-1]) {} ∧
    (match checkAddrs (w9c b) c 27 [rdRow c (-1)] with
      | .ok ([l], t) => t.cutOff c.die l == b
      | _ => false) = true := by
  intro b hb; refine ⟨issuing_of _ ?_, ?_⟩ <;> revert b <;> decide +kernel

theorem witness_SleepResults :
    (let c := cx (w9 id);
      OneWay c 0 ∧ (∀ a ∈ ([-1, -2, -5] : List Int), uniform c [a] = true ∧
        Free c false [src a] (predOk 0 && (0 : Int) == 0 && (0 : Int) == 0 && (0 : Int) == 0 && rowSrcs c [a]) {}) ∧
      (c.acting 0).length = c.act.length ∧ rdRow c (-5) = 0 ∧ rdRow c (-2) % 27 ≠ 0 ∧ rdRow c (-1) ≠ 0 ∧ rdRow c (-1) % 27 = 0 ∧
      okAddrs (w9 id) 27 [rdRow c (-1)] 1 = true ∧
      Free c false [dst (-9), src (-3)] (predOk 0 && (0 : Int) == 0 && (0 : Int) == 0 && scaDst c (-9) && rowSrcs c [-3]) {} ∧
      c.r.watch.armed = false ∧
      Free c false [⟨-8, true, 2⟩] (predOk 0 && (0 : Int) == 0 && (0 : Int) == 0 && (0 : Int) == 0 && scaDst c (-8)) {} ∧
      Free c false [dst (-9)] (predOk 0 && (0 : Int) == 0 && (0 : Int) == 0 && (0 : Int) == 0 && scaDst c (-9)) {}) ∧
    (∀ b ∈ [false, true], let c := cx (w9a b)
      c.r.watch.armed = true ∧ rdRow c (-4) < 0 ∧ 0 ≤ rdRow c (-5) ∧ 0 ≤ rdRow c (-3) ∧ c.r.watch.trig = b ∧ (w9a b).parkedOn c.core < 243) ∧
    (∃ x, (z9 true none).row? ⟨1, 0, 0⟩ = some x ∧ x.watch.trig = true ∧ x.sleeps ≠ []) ∧
    (∃ x z, (z9 false (some 0)).row? ⟨1, 0, 0⟩ = some x ∧ x.watch.trig = false ∧ x.sleeps = [z] ∧ z.until_ = some 0 ∧
      0 ≤ (z9 false (some 0)).now ∧ z.gen0 = false ∧ isSca z.dst = true ∧ (-z.dst - 1).toNat < x.sregs.length) :=
  ⟨by decide +kernel, by decide +kernel, ⟨_, rfl, by decide +kernel⟩, ⟨_, _, rfl, by decide +kernel, rfl, rfl, by decide +kernel⟩⟩

/-- v3 of every thread holds flags to clear. -/
def c9 : State := r9 ((List.range 9).map (fun p => (27 + p, 1 + 243))) []
theorem c9_issuing : Issuing c9 (cx c9) := issuing_of _ (by decide +kernel)

theorem witness_CsrResults :
    (let c := cx n9;
      OneWay c c.mod.pred ∧ Free c false [dst (-5)] ((0 : Int) == 0 && (0 : Int) == 0 && scaDst c (-5)) { p := true } ∧
      fxBusy c = false ∧ Free c false [dst 5] ((0 : Int) == 0 && (0 : Int) == 0 && vecDst c 5) { p := true } ∧
      (c.acting c.mod.pred).length = c.act.length ∧ uniform c [-3] = true ∧
      Free c false [src (-3)] ((0 : Int) == 0 && (0 : Int) == 0 && rowSrcs c [-3]) { p := true } ∧
      Free c false [dst (-5), src (-3)] ((0 : Int) == 0 && scaDst c (-5) && rowSrcs c [-3]) { p := true } ∧
      clauseOk c false = true ∧ (∀ n ∈ ([-1, 0, 8, 12] : List Int), csrListed n = false) ∧ Named c false [src (-3)] ∧
      Legal c false [dst (-5)] ((0 : Int) == 0 && (0 : Int) == 0) { p := true } ∧
      Legal c false [src (-3)] ((0 : Int) == 0 && (0 : Int) == 0) { p := true } ∧
      Legal c false [dst (-5), src (-3)] ((0 : Int) == 0) { p := true } ∧ Named c false [dst (-5)]) ∧
    (let c := cx c9;
      (∀ p ∈ c.acting c.mod.pred, field (rd c 3 p) 6 21 = 0) ∧ Free c false [src 3] ((0 : Int) == 0 && (0 : Int) == 0) { p := true }) ∧
    (cx (e9 (List.range 9) false)).r.handler.active = true := by decide +kernel

/-- A field whose queue 0 is armed over 3 records at address 5400, with 0, 1 or 3 of them taken; a row with a LAUNCH in flight. -/
def y9 (q : Int) (tail st_ : Int) : State :=
  let s := mapped (st l9 0 1 2 (fun r =>
    { r with launches := [⟨q, word 2700, -5, 2, false, List.range 9, 0⟩], busy := [-5], flags := [0, 1] ++ List.replicate 10 0 }))
  { s with
    mem := [(1092, 351)] ++ (if tail = 0 then [] else [(5400, tryte tail)])
    fields := modAt s.fields 0 (fun x => { x with queues := x.queues.set 0 ⟨word 5400, st_, 3, 0, 1, 0, 0⟩ }) }

/-- A row that EVWAIT (a in s0, target in s2) holds, and one it does not: s3 is the target. -/
def v9 : State := mapped (st l9 0 1 2 (fun r =>
  { r with sregs := [word 2700, word 2701, 5, word (-1), 0, 0, 0, 0, 0], wait := some ⟨9, 0, 0, none⟩ }))
theorem v9_issuing : Issuing v9 (cx v9) := issuing_of _ (by decide +kernel)

/-- `evwait s5-register, a in s0, target in s2`, trit by trit; and the row of v9 standing at it. -/
def evword : Word := tw [0, -1, 0, 1, 0, 0, 0, 0, -1, 1, 1, 0, 0, 0, 0, -1, 0, 0, 0, -1, 0, 0, 0, 0, 0, 0, 0]
def v9e : State := { v9 with fields := modAt v9.fields 0 (fun x => { x with slots := x.slots.map (fun l =>
  { l with gens := l.gens.map (fun g => { g with tr := { g.tr with words := [word (3 * 3 ^ 18), evword, word (3 * 3 ^ 18)] } }) }) }) }

/-- The words of the queue that the home reads. -/
def okQueue (s : State) (n : Int) : Bool :=
  s.releaseMetAt ⟨1, 0, 0⟩ 0 &&
    (s.launchAwait 0 ⟨1, 0, 0⟩ ⟨0, word 2700, -5, 2, false, List.range 9, 0⟩).isNone && (s.fieldWord 0 5400 == some (word n)) && (s.fieldWord 0 5403 == some 0) &&
    (s.fieldWords 0 2700 18).isSome && s.canWrite 0 5427 && s.canWrite 0 5454 && s.canWrite 0 5400

/-- EVWAIT of the address in s0 reaches its word, which is below s2 and at least s3. -/
def okEvwait (s : State) (c : Ctx) : Bool :=
  match checkAddrs s c 3 [rdRow c (-1)] with
  | .ok ([l], t) =>
    !t.badLine l && !t.cutOff c.die l && c.r.loads == [] && c.r.fifo == [] && c.r.rels == [] && (t.core c.core).order == [] && t.windowRun l 3 false &&
      (t.snoopFirst false [lineOf l]).isNone && decide (l.a % 27 ≤ 24) && decide (wval (t.wordAt l) < rdRow c (-3)) &&
      decide (rdRow c (-4) ≤ wval (t.wordAt l))
  | _ => false

theorem witness_LaunchResults :
    (let c := cx (w9 id);
      Free c false [dst (-5), src (-3), src (-1)] ((0 : Int) == 0 && (0 : Int) == 0 && scaDst c (-5) && rowSrcs c [-3, -1]) { p := true } ∧
      flagFull c.r c.e.fb = false ∧ uniform c [-3, -1] = true ∧ (c.acting c.mod.pred).length = c.act.length ∧
      rdRow c (-1) % 27 = 0 ∧ okAddrs (w9 id) 27 [rdRow c (-1), wrapT 27 (rdRow c (-1) + 27)] 2 = true ∧ rdRow c (-2) % 27 ≠ 0) ∧
    (let c := cx v9;
      Free c false [dst (-5), src (-1), src (-3)] (predOk 0 && (0 : Int) == 0 && scaDst c (-5) && rowSrcs c [-1, -3]) { scope := true } ∧
      Free c false [dst (-5), src (-1), src (-4)] (predOk 0 && (0 : Int) == 0 && scaDst c (-5) && rowSrcs c [-1, -4]) { scope := true } ∧
      uniform c [-1, -3] = true ∧ (c.acting 0).length = c.act.length ∧ rdRow c (-1) % 3 = 0 ∧ rdRow c (-2) % 3 ≠ 0 ∧
      okEvwait v9 c = true) ∧
    (okQueue (y9 0 0 1) 0 && okQueue (y9 0 3 1) 3 && okQueue (y9 0 0 0) 0 && (y9 (-1) 0 1).releaseMetAt ⟨1, 0, 0⟩ 0) = true ∧
    (∃ c, v9e.ctxOf ⟨1, 0, 0⟩ = some c ∧ c.r.wait.map (·.kind) = some 9 ∧
      v9e.codeWord c.fld c.ia = some evword ∧ decode evword = .ok (.evwait ⟨-5, -1, -3, 0, 0⟩)) := by
  refine ⟨by decide +kernel, by decide +kernel, by decide +kernel, ⟨cx v9e, rfl, by decide +kernel⟩⟩

/-! ### Memory -/

def isOk {ε α : Type} (x : Except ε α) (p : α → Bool) : Bool :=
  match x with
  | .ok a => p a
  | .error _ => false

/-- The lanes of an access translate, and none faults. -/
def lanesOk (x : Checked) (n : Nat) : Bool :=
  match x with
  | .lanes xs _ => xs.length == n && xs.all (fun y => !y.faulted)
  | .trapped _ => false
  | .wait _ _ => false

/-- Thread p's v3 is 2700 + 27p, its v2 is 2701 for thread 4 and aligned elsewhere, its v1 0; s0 is 2700, s1 2701. Private lines at 5400. -/
def d9 (f : Row → Row) : State :=
  let s := mapped (st l9 0 1 2 (fun r => f { r with
    vregs := (List.range 9).foldl (fun l p => (l.set (27 + p) (word (2700 + 27 * (p : Int)))).set (18 + p)
      (word (if p = 4 then 2701 else 2700))) r.vregs
    sregs := [word 2700, word 2701, 5, word (-1), 0, 0, 0, 0, 0] }))
  { s with gangs := s.gangs.map (fun g => { g with blocks := g.blocks.map (fun b => { b with privLines := [5400, 5427, 5454] }) }) }
theorem d9_issuing : Issuing (d9 id) (cx (d9 id)) := issuing_of _ (by decide +kernel)

theorem witness_GlobalIssueResults : let c := cx (d9 id)
    (∀ w ∈ ([-1, 0, 1, 2, 3] : List Int),
      Free c false [⟨0, true, widthRegs w⟩, src 3] (predOk 0 && decide (-1 ≤ w ∧ w ≤ 3) && ordScopeOk c && vecDst c 0)
        { cache := true, scope := true, ord := [1] } ∧
      Free c false [⟨0, false, widthRegs w⟩, src 3] (predOk 0 && decide (-1 ≤ w ∧ w ≤ 3) && ordScopeOk c && dataOk c ⟨0, 3, 0, 0, w⟩)
        { cache := true, scope := true, ord := [-1] } ∧
      lanesOk (check3 (d9 id) c Need.load w false ((c.acting 0).map (fun t => (t, rd c 3 t)))) 9 = true ∧
      lanesOk (check3 (d9 id) c Need.store w (w == 3) ((c.acting 0).map (fun t => (t, rd c 3 t)))) 9 = true) ∧
    Free c false [⟨-9, true, 1⟩, src (-1)] (predOk 0 && decide (-1 ≤ 0 ∧ 0 ≤ 3) && ordScopeOk c && (scaDst c (-9) && rowSrcs c [-1]))
      { cache := true, scope := true, ord := [1] } ∧
    flagFull c.r c.e.fa = false ∧ flagFull c.r c.e.fb = false ∧ c.r.fifoFull = false ∧ uniform c [-1] = true ∧
    isOk (accessThreads c true 0) (fun ts => ts == [0]) = true ∧ isOk (accessThreads c false 0) (fun ts => ts == c.act) = true ∧
    rd c 2 4 % 3 ≠ 0 ∧ (∀ u ∈ c.act, u < 4 → rd c 2 u % 3 = 0) ∧ c.act.Pairwise (· < ·) ∧ c.act.Nodup := by decide +kernel

theorem witness_PrefetchPrivateResults : let c := cx (d9 id)
    Free c false [src 3] (predOk 0 && (3 : Int) == 3 && (0 : Int) == 0) { cache := true } ∧
    (∀ w ∈ ([-1, 0, 1, 2] : List Int),
      Free c false [⟨5, true, widthRegs w⟩, src 1] (predOk 0 && widthOk w && vecDst c 5) { cache := true } ∧
      Free c false [⟨5, false, widthRegs w⟩, src 1] (predOk 0 && widthOk w && dataOk c ⟨5, 1, 0, 0, w⟩) { cache := true } ∧
      Free c false [⟨5, true, widthRegs w⟩, src 1] (predOk 0 && widthOk w && sideOk c 5 [1]) {} ∧
      ∀ t ∈ c.acting 0, 0 ≤ rd c 1 t ∧ rd c 1 t + 3 * (widthRegs w : Int) ≤ 3 * (c.g.lrec.priv : Int) ∧
        rd c 1 t + 3 * (widthRegs w : Int) ≤ 3 * (c.g.lrec.clen : Int)) ∧
    flagFull c.r c.e.fa = false ∧ flagFull c.r c.e.fb = false ∧ c.r.fifoFull = false ∧ c.acting 0 ≠ [] ∧
    -- v3 is outside the stack and the constants at every thread; the last word inside and the first outside
    (∀ t ∈ c.acting 0, rd c 3 t % 3 = 0 ∧ 3 * (c.g.lrec.priv : Int) < rd c 3 t + 1 ∧ 3 * (c.g.lrec.clen : Int) < rd c 3 t + 1) ∧
    (∀ w ∈ ([-1, 0, 1, 2] : List Int), Free c false [⟨5, true, widthRegs w⟩, src 3] (predOk 0 && widthOk w && vecDst c 5) { cache := true } ∧
      Free c false [⟨5, false, widthRegs w⟩, src 3] (predOk 0 && widthOk w && dataOk c ⟨5, 3, 0, 0, w⟩) { cache := true } ∧
      Free c false [⟨5, true, widthRegs w⟩, src 3] (predOk 0 && widthOk w && sideOk c 5 [3]) {}) ∧
    (rd c 1 0 + 2 * 3) + 3 ≤ 3 * (c.g.lrec.priv : Int) ∧ ¬((rd c 1 0 + 3 * 3) + 3 ≤ 3 * (c.g.lrec.priv : Int)) ∧
    (∀ t ∈ c.acting 0, ∀ j < 3,
      (d9 id).badLine ⟨.hbm, c.b.privLines.getD ((9 * t + 3 * j) / 27) 0 + (9 * t + 3 * j) % 27⟩ = false ∧
      (d9 id).cutOff c.die ⟨.hbm, c.b.privLines.getD ((9 * t + 3 * j) / 27) 0 + (9 * t + 3 * j) % 27⟩ = false) ∧
    isOk (accessThreads c (rowSide c 5) 0) (fun ts => ts == c.act) = true := by decide +kernel

/-- One thread, 4, of a row whose block holds a full word 0 and an empty word 1; v1 = 0, v2 = 3, v3 = −3B. -/
def s9 (f : Row → Row) (sc : List (Nat × Word × Trit)) : State :=
  let s := st l9 0 1 2 (fun r => f { r with
    pct := [⟨⟨1, 0, 1⟩, [4], false, false, 2, 1, 2⟩]
    vregs := ((r.vregs.set (18 + 4) 3).set (27 + 4) (word (-3 * (l9.block : Int)))).set (36 + 4) 7 })
  { s with gangs := s.gangs.map (fun g => { g with blocks := g.blocks.map (fun b => { b with scratch := sc }) }) }
def sc9 : List (Nat × Word × Trit) := [(0, 5, .pos)]
def s9b : State := let s := s9 id sc9; { s with gangs := s.gangs.map (fun g => { g with blocks := g.blocks.map (fun b => { b with bad := [0] }) }) }
theorem s9b_issuing : Issuing s9b (cx s9b) := issuing_of _ (by decide +kernel)
theorem s9_issuing : Issuing (s9 id sc9) (cx (s9 id sc9)) := issuing_of _ (by decide +kernel)

/-- The row of s9 parked in LDS.WF on word 0. -/
def s9p : State := s9 (fun r => { r with
  pct := [⟨⟨1, 0, 1⟩, [4], false, true, 2, 1, 2⟩]
  parks := [⟨.wf, 0, 5, 1, false, false, [4], ⟨1, 0, 1⟩, 0, [⟨4, 0, [0], 0, []⟩], 0, [4], false⟩] }) sc9

/-- An access of one lane, thread 0, of a word at device address 2700. -/
def acc (k : AccKind) (stamp : Nat) : MemOp :=
  { kind := k, width := 0, lanes := [⟨0, word 2700, [⟨.hbm, 2700⟩], [7]⟩], dst := 5, flag := 1, perRow := false, rel := 0, acq := 0
    cache := 0, sat := false, t9 := false, gen0 := false, priv := false, who := ⟨1, 0, 0⟩, group := [0], stamp := stamp }

theorem witness_ScratchSpaceResults :
    (let c := cx (s9 id sc9);
      (∀ a ∈ ([0, 26] : List Int), |a| ≤ maxT 27 ∧ a ≤ maxT 26 ∧ a < 3 * (c.g.lrec.scr : Int)) ∧ 3 * (c.g.lrec.scr : Int) ≤ 27 ∧
      0 < c.g.lrec.blks ∧ (0 : Int) < 3 * (c.g.lrec.scr : Int) ∧ c.gen0 = false ∧ 0 < c.g.lrec.block ∧
      -3 * (c.g.lrec.block : Int) - 1 < -3 * (c.g.lrec.block : Int) ∧ (cx p9).gen0 = true ∧
      -- the gang window: outside for one bound each, then inside
      (∀ q ∈ ([(-1, 0, 0), (1, 0, 0), (0, -1, 0), (0, (c.g.lrec.blks : Int), 0), (0, 0, -1), (0, 0, 3 * (c.g.lrec.scr : Int))] : List (Int × Int × Int)),
        |q.1| ≤ 1 ∧ |q.2.1| ≤ 13 ∧ |q.2.2| ≤ maxT 22 ∧ |3 ^ 26 + q.1 * 3 ^ 25 + q.2.1 * 3 ^ 22 + q.2.2| ≤ maxT 27 ∧
        (q.1 = -1 ∨ (q.1 = 1 ∧ c.g.partner = none) ∨ q.2.1 < 0 ∨ (c.g.lrec.blks : Int) ≤ q.2.1 ∨ q.2.2 < 0 ∨ 3 * (c.g.lrec.scr : Int) ≤ q.2.2)) ∧
      (∀ o ∈ ([0, 3 * (c.g.lrec.scr : Int) - 1] : List Int), |o| ≤ maxT 22 ∧ 0 ≤ o ∧ o < 3 * (c.g.lrec.scr : Int))) ∧
    (let c := cx s9b;
      Free c false [⟨5, true, widthRegs 0⟩, src 1] (predOk 0 && widthOk 0 && sideOk c 5 [1]) {} ∧
      Free c false [⟨4, false, widthRegs (-1)⟩, src 1] (predOk 0 && widthOk (-1) && dataOk c ⟨4, 1, 0, 0, -1⟩) {} ∧
      (s9b.spoiltLane c 0 (eaList c ⟨5, 1, 0, 0, 0⟩ [4])).isSome = true ∧ (s9b.spoiltLane c (-1) (eaList c ⟨4, 1, 0, 0, -1⟩ [4])).isSome = true ∧
      s9b.scrLoadHold c = none ∧ s9b.scrStoreHold c = none) ∧
    (let c := cx (s9 id sc9);
      (∀ w ∈ ([-1, 0, 1, 2] : List Int),
        Free c false [⟨5, true, widthRegs w⟩, src 1] (predOk 0 && widthOk w && sideOk c 5 [1]) {} ∧
        Free c false [⟨5, false, widthRegs w⟩, src 1] (predOk 0 && widthOk w && dataOk c ⟨5, 1, 0, 0, w⟩) {} ∧
        isOk (scrLanes c ⟨5, 1, 0, 0, w⟩ [4]) (fun ls => !scrBusy c (ls.flatMap (·.2)) && !scrUnread c (ls.flatMap (·.2)) &&
          ls.all (fun q => q.2.all (fun x => (scrOwed c x).all (fun y => !c.r.locked.contains y)))) = true) ∧
      isOk (scrLanes c ⟨4, 1, 0, 0, 0⟩ [4]) (fun ls => ls == [(4, [.blk c.ref.blk 0 0])]) = true ∧
      isOk (scrLanes c ⟨4, 3, 0, 0, 0⟩ [4]) (fun ls => ls == [(4, [.window 0 0])]) = true ∧ c.b.retired = false ∧
      amWf ((0, .neg) : Word × Trit) c.b.scratch = true ∧ flagFull c.r c.e.fa = false ∧ flagFull c.r c.e.fb = false ∧
      isOk (accessThreads c (rowSide c 5) 0) (fun ts => ts == [4]) = true ∧
      isOk (accessThreads c (!c.gen0 && isRowKind 4 && isRowKind 1) 0) (fun ts => ts == [4]) = true ∧
      -- v1 names the full word, v2 the empty one
      isOk (syncLanes c ⟨5, 1, 0, 0, 0⟩ [4] (fun _ => [])) (fun l => l == [⟨4, 0, [0], 0, []⟩]) = true ∧
      ((s9 id sc9).scrGet c.ref 0 0).2 = .pos ∧ rowSide c 5 = false ∧
      isOk (syncLanes c ⟨5, 2, 0, 0, 0⟩ [4] (fun _ => [])) (fun l => l == [⟨4, 0, [1], 0, []⟩]) = true ∧
      ((s9 id sc9).scrGet c.ref 0 1).2 = .neg ∧ (s9 id sc9).parkedOn c.core < 243 ∧
      (s9 id sc9).laneTurn c.ref (s9 id sc9).steps ⟨4, 0, [0], 0, []⟩ = true ∧ c.b.bad = [] ∧ (s9 id sc9).spoiltLane c 0 (eaList c ⟨5, 1, 0, 0, 0⟩ [4]) = none ∧
      isOk (syncLanes c ⟨4, 2, 0, 0, 0⟩ [4] (storeWords c 4 1)) (fun l => l == [⟨4, 0, [1], 0, [word (rd c 4 4)]⟩]) = true ∧
      (s9 id sc9).laneTurn c.ref (s9 id sc9).steps ⟨4, 0, [1], 0, [word (rd c 4 4)]⟩ = true ∧
      (s9 id sc9).releaseMet c.ref (Max.max 1 (narrowScope c.core ((s9 id sc9).blk c.ref 0).core)) = true ∧
      c.r.scrOpen ((s9 id sc9).steps + 1) = false ∧ (s9 id sc9).scrLoadHold c = none ∧ (s9 id sc9).scrStoreHold c = none ∧
      Free c false [src 4, src 1] (predOk 0 && widthOk 0) {}) ∧
    -- with a store of the row not complete, a scratch store of it is held; a word of the block is named, and the release of an STS.WE waits
    (let s := s9 (fun r => { r with fifo := [acc .store 0] }) sc9
      let c := cx s
      anyBlk [.blk c.ref.blk 0 0] = true ∧ (s.scrStoreHold c).isSome = true ∧ c.r.scrOpen (s.steps + 1) = false ∧
      s.releaseMet c.ref (Max.max 1 (narrowScope c.core (s.blk c.ref 0).core)) = false) ∧
    (let s := s9 (fun r => { r with loads := [acc .load 0] }) sc9; (s.scrLoadHold (cx s)).isSome = true) ∧
    (∃ g b x, s9p.gang? 1 = some g ∧ s9p.block? ⟨1, 0, 0⟩ = some b ∧ s9p.row? ⟨1, 0, 0⟩ = some x ∧ g.status = .resident ∧
      x.parks = [⟨.wf, 0, 5, 1, false, false, [4], ⟨1, 0, 1⟩, 0, [⟨4, 0, [0], 0, []⟩], 0, [4], false⟩] ∧ x.rels = [] ∧ x.tlbis = [] ∧
      s9p.laneTurn ⟨1, 0, 0⟩ 0 ⟨4, 0, [0], 0, []⟩ = true ∧ (s9p.scrGet ⟨1, 0, 0⟩ 0 0).2 = .pos) :=
  ⟨by decide +kernel, by decide +kernel, by decide +kernel, by decide +kernel, by decide +kernel, ⟨_, _, _, rfl, rfl, rfl, by decide +kernel⟩⟩

/-- A load outstanding; a store, a fence, a reduction at the head of the FIFO; a store, an atomic in the order of the core. -/
def a9 (loads fifo order : List MemOp) : State :=
  let s := d9 (fun r => { r with loads := loads, fifo := fifo, flags := 2 :: List.replicate 11 0 })
  { s with cores := { Core.reset with order := order } :: List.replicate 960 Core.reset }

/-- What STORE_APPLY and ATOMIC_APPLY ask of entry 0 of the order. -/
def applyOk (s : State) (o : MemOp) : Bool :=
  s.mayApply 0 0 o && (s.snoopFirst true o.lines).isNone && Memory.wf s.mem &&
    o.lanes.all (fun ln => ln.locs.all (fun l => l.kind == .hbm && decide (l.a % 27 ≤ 18) && s.hbmServed l.a && s.lineOwner l == (s.fldOf o.who : Int))) &&
    o.lines.all (fun l => !s.cutOff 0 l) &&
    o.lines.all (fun l => s.partialsOf l == [] && s.hbmServed l.a && s.marks l == []) && s.pushes == [] && decide (o.lines.length ≤ 1) &&
    s.failing == [] && s.holders == []

theorem witness_MemoryOrderResults :
    (∃ x, (a9 [acc .load 0] [] []).row? ⟨1, 0, 0⟩ = some x ∧ x.loads = [acc .load 0] ∧
      (a9 [acc .load 0] [] []).loadWaits 0 x (acc .load 0) = false ∧ arHolds ((a9 [acc .load 0] [] []).core 0) x ⟨1, 0, 0⟩ (acc .load 0) = false ∧
      ((a9 [acc .load 0] [] []).snoopFirst false (acc .load 0).lines).isNone = true ∧ x.fifo = [] ∧
      ((a9 [acc .load 0] [] []).core 0).l1 = [] ∧ relHolds x (acc .load 0) = false ∧ (a9 [acc .load 0] [] []).corePartials 0 = [] ∧ ((a9 [acc .load 0] [] []).die 0).rdc = []) ∧
    (∀ k ∈ [AccKind.store, .fence, .mark, .red .min, .atom .add], let s := a9 [] [acc k 3] [acc .store 1]
      (s.row? ⟨1, 0, 0⟩).map (·.fifo) = some [acc k 3] ∧ (s.row? ⟨1, 0, 0⟩).map (·.loads) = some [] ∧ (s.row? ⟨1, 0, 0⟩).map (·.scrOpen 3) = some false ∧ s.coreOf ⟨1, 0, 0⟩ < s.cores.length ∧
      (∀ y ∈ (s.core 0).order, y.kind ≠ .fence) ∧ ∀ ln ∈ (acc k 3).lanes, s.accumType (acc k 3) ln = none) ∧
    ((a9 [] [] [acc .store 1]).core 0).order[0]? = some (acc .store 1) ∧ applyOk (a9 [] [] [acc .store 1]) (acc .store 1) = true :=
  ⟨⟨_, rfl, by decide +kernel⟩, by decide +kernel, rfl, by decide +kernel⟩

/-- The row parked on an access with no entry left; a die whose overflow entry holds the row, or a command of its slot 0. -/
def f9 (k : AccKind) (lanes : Bool) : State := d9 (fun r => { r with
  fault := some ⟨if lanes then acc k 0 else { acc k 0 with lanes := [] }, [], false, ⟨1, 0, 1⟩, 0, word 2700, [0]⟩, flags := 2 :: List.replicate 11 0 })
def v9d (n : Nat) : State := (d9 id).modDie 0 (fun d => { d with overflow := [(⟨1, 0, 0⟩, n)], freed := true })
/-- The host holds the table's line; the leaf's R and W are 0. -/
def d9h : State := (d9 id).setHostEntry { (d9 id).hostEntry ⟨.hbm, 1080⟩ with st := 2 }
def walk0 : State := { d9 id with mem := [(1092, 243)] }

/-- A table whose every index holds a live entry has no free index. -/
theorem freeIdx_none (d : DieSt)
    (h : d.waits = (List.range 729).map (fun (i : Nat) => ⟨(i : Int) - 364, 1, true, 0, 1, 0, 0⟩)) : d.freeIdx = none := by
  unfold DieSt.freeIdx
  rw [h]
  generalize List.range 729 = l
  dsimp only
  split
  · rfl
  · rename_i i hi
    have hm := List.mem_of_find?_eq_some hi
    have hp := List.find?_some hi
    simp only [List.pure_def, List.bind_eq_flatMap, List.mem_map, List.mem_flatMap, List.mem_singleton] at hm
    obtain ⟨m, ⟨k, hk, rfl⟩, rfl⟩ := hm
    simp only [List.any_map, Bool.not_eq_true', List.any_eq_false] at hp
    exact absurd (hp k hk) (by simp)
/-- A state whose die 0 has the given fault wait table. -/
def withWaits (l : List WaitEntry) : State := (d9 id).modDie 0 (fun d => { d with waits := l })
theorem withWaits_waits (l : List WaitEntry) : ((withWaits l).die 0).waits = l := rfl

theorem witness_TranslationResults :
    ((d9 id).walk 0 2700).1 = .leaf (word 351) 1 ∧
    ((d9 id).walk 0 (-1)).1 = .fault false 1 ∧
    (∀ lanes ∈ [false, true], ∀ k ∈ [AccKind.load, .store], ∃ x c, (f9 k lanes).row? ⟨1, 0, 0⟩ = some x ∧
      x.fault = some ⟨if lanes then acc k 0 else { acc k 0 with lanes := [] }, [], false, ⟨1, 0, 1⟩, 0, word 2700, [0]⟩ ∧
      (f9 k lanes).ctxAt ⟨1, 0, 0⟩ ⟨1, 0, 1⟩ = some c ∧ c.g.status = .resident ∧
      lanesOk (check3 (f9 k lanes) { c with r := { x with fault := none }.flagDown 1 } (if k = .load then Need.load else Need.store) 0 false [(0, 2700)]) 1 = true) ∧
    (∀ n ∈ [0, 1], ((v9d n).die 0).overflow = [(⟨1, 0, 0⟩, n)] ∧ ((v9d n).die 0).freed = true ∧ ((v9d n).die 0).freeIdx.isSome = true) ∧
    ((State.reset.die 0).freed = false) ∧
    -- a walk with its line ready, with it cut off from the core's die, and with it in the host's hands; a leaf that no access may use
    (((d9 id).walkLines 0 2700).all (fun l => !(d9 id).cutOff 0 l) = true ∧ ((d9 id).snoopFirst false ((d9 id).walkLines 0 2700)).isNone = true ∧
      ((w9c true).walkLines 0 2700).any (fun l => (w9c true).cutOff 1 l) = true ∧
      (d9h.walkLines 0 2700).all (fun l => !d9h.cutOff 0 l) = true ∧ (d9h.snoopFirst false (d9h.walkLines 0 2700)).isSome = true ∧
      (match (walk0.walk 0 2700).1 with | .leaf e _ => entR e != 1 && entW e != 1 | _ => false) = true ∧
      (match ((d9 id).walk 0 2700).1 with | .leaf e _ => entR e == 1 || entW e == 1 | _ => false) = true) ∧
    (State.reset.die 0).freeIdx.isSome = true ∧ ((withWaits ((List.range 729).map (fun (i : Nat) => ⟨(i : Int) - 364, 1, true, 0, 1, 0, 0⟩))).die 0).freeIdx = none := by
  refine ⟨by decide +kernel, by decide +kernel, ?_, by decide +kernel, by decide +kernel, by decide +kernel, by decide +kernel, freeIdx_none _ (withWaits_waits _)⟩
  intro lanes hl k hk
  simp only [List.mem_cons, List.mem_nil_iff, or_false] at hl hk
  rcases hl with rfl | rfl <;> rcases hk with rfl | rfl <;>
    exact ⟨_, _, rfl, rfl, rfl, by decide +kernel⟩

/-! ### Atomics, fences, barriers -/

/-- The fields of an atomic of address register a and space `ty`: for each operation of Table 20.2. -/
def atomF (o : AtomOp) (ret : Bool) (a ty : Int) : FC := ⟨if ret then 5 else 0, a, 4, if o.usesC then 4 else 0, ty⟩

def atomForms : List (AtomOp × Bool × Bool × Bool) :=
  [(.add, true, true, true), (.min, true, false, false), (.max, true, false, false), (.tmin, true, false, false),
    (.tmax, true, false, false), (.xchg, true, false, false), (.cas, true, false, false), (.fadd, true, true, false),
    (.add, false, true, false), (.min, false, false, false), (.max, false, false, false), (.tmin, false, false, false),
    (.tmax, false, false, false), (.x81, false, true, false), (.fadd, false, true, false)]

theorem witness_AtomicIssueResults : let c := cx (d9 id)
    (∀ q ∈ atomForms,
      let a : AtomForm := ⟨q.1, q.2.1, { p := true, scope := true, ord := if q.2.1 then [1, -1, 3] else [-1]
                                         nb := q.2.2.1, sat := q.2.2.2 }⟩
      let f := atomF q.1 q.2.1 3 0
      Free c false (a.uses f) (a.fields f && (!a.row c f || rowSrcs c (a.srcs f)) && ((c.mod.ord != 0) == (c.mod.scope != 0))) a.acc ∧
      isOk (accessThreads c (a.row c f) c.mod.pred) (fun ts => ts == c.act) = true ∧
      (∀ t ∈ c.act, rd c f.a t % (if a.op = .x81 then 9 else 3) = 0) ∧
      lanesOk (check3 (d9 id) c Need.both (if a.op = .x81 then 2 else 0) false (c.act.map (fun t => (t, rd c f.a t)))) 9 = true) ∧
    flagFull c.r c.e.fb = false ∧ c.r.fifoFull = false ∧ rd c 2 4 % 3 ≠ 0 ∧ (∀ u ∈ c.act, u < 4 → rd c 2 u % 3 = 0) := by
  decide +kernel

/-- The row of s9 behind a MODH of ORD .rel and SCOPE .core, with its earlier stores complete or not. -/
def rel9 (met : Bool) : State := s9 (fun r => { r with
  pfx := some ⟨⟨1, 0, 1⟩, none, some (3 ^ 12 - 3 ^ 15)⟩, fifo := if met then [] else [acc .store 0] }) sc9

theorem witness_AtomicResults :
    (∀ q ∈ atomForms, q.1 ≠ .x81 → let c := cx (s9 id sc9)
      let a : AtomForm := ⟨q.1, q.2.1, atomAcc q.2.1 (decide (q.1 = .add ∨ q.1 = .fadd)) (q.1 == .add && q.2.1)⟩
      ∀ k ∈ ([1, 3, 2] : List Int), let f := atomF q.1 q.2.1 k 1
        Free c false (a.uses f) (a.fields f && (!a.row c f || rowSrcs c (a.srcs f)) && ((c.mod.ord != 0) == (c.mod.scope != 0))) a.acc ∧
        isOk (accessThreads c (a.row c f) c.mod.pred) (fun ts => ts == [4]) = true ∧ scrAlign (rd c f.a 4) % 3 = 0) ∧
    (let c := cx (s9 id sc9);
      flagFull c.r c.e.fb = false ∧ scrWord c (rd c 1 4) = some (.blk 0 0 0) ∧ scrWord c (rd c 3 4) = some (.window 0 0) ∧
      0 ∉ ((s9 id sc9).blk c.ref 0).bad ∧ 0 ∈ (s9b.blk (cx s9b).ref 0).bad ∧ scrWord (cx s9b) (rd (cx s9b) 1 4) = some (.blk 0 0 0) ∧
      s9b.scrStoreHold (cx s9b) = none ∧ flagFull (cx s9b).r (cx s9b).e.fb = false ∧
      ¬(c.mod.ord = -1 ∨ c.mod.ord = 3) ∧ (s9 id sc9).scrStoreHold c = none ∧
      scrWord c (wval ((cx (s9 id sc9)).r.vreg 9 1 4) + 27) = none) ∧
    (∀ b ∈ [false, true], let s := rel9 b
      let c := cx s
      let a : AtomForm := ⟨.add, true, atomAcc true true true⟩
      let f := atomF .add true 1 1
      c.mod.ord = -1 ∧ c.mod.scope = 1 ∧ c.r.scrOpen (s.steps + 1) = false ∧ s.releaseMet c.ref c.mod.scope = b ∧
      flagFull c.r c.e.fb = false ∧ scrWord c (rd c 1 4) = some (.blk 0 0 0) ∧
      Free c false (a.uses f) (a.fields f && (!a.row c f || rowSrcs c (a.srcs f)) && ((c.mod.ord != 0) == (c.mod.scope != 0))) a.acc ∧
      isOk (accessThreads c (a.row c f) c.mod.pred) (fun ts => ts == [4]) = true) ∧
    ((a9 [] [] [acc (.atom .add) 1]).core 0).order[0]? = some (acc (.atom .add) 1) ∧
    applyOk (a9 [] [] [acc (.red .add) 1]) (acc (.red .add) 1) = true ∧ applyOk (a9 [] [] [acc (.atom .add) 1]) (acc (.atom .add) 1) = true ∧
    ((a9 [] [] [acc (.atom .add) 1]).row? ⟨1, 0, 0⟩).isSome = true :=
  ⟨by decide +kernel, by decide +kernel, by decide +kernel, rfl, by decide +kernel⟩

theorem witness_FenceResults : let c := cx n9
    (∀ b ∈ ([1, 6] : List Int), ∀ ty ∈ ([1, -1, 3] : List Int), Legal c false []
      (predOk 0 && (0 : Int) == 0 && (0 : Int) == 0 && decide (1 ≤ b ∧ b ≤ 6) && (ty == 1 || ty == -1 || ty == 3) && c.r.pfx.isNone) {}) ∧
    isOk (rowActs c 0) (fun a => a) = true ∧ c.r.loads = [] ∧
    -- no thread of n9 has q0 = +
    predOk (1 - 36) = true ∧ isOk (rowActs c (1 - 36)) (fun a => !a) = true := by decide +kernel

/-- A gang of one block whose row has s0 = 0, s1 = 8, s2 = 9, s3 = 19683, s4 = −1, s5 = 1, s6 = 3^18, s7 = 3^18 + 1 and waits at a level barrier or not. -/
def b9 (lv : Option LevelWait) (bs : List LevelBar) : State :=
  let s := st l9 0 1 2 (fun r => { r with
    levels := lv.toList, sregs := [0, 8, 9, 19683, word (-1), 1, word (3 ^ 18), word (3 ^ 18 + 1), 0] })
  { s with levelBars := bs }
theorem b9_issuing : Issuing (b9 none []) (cx (b9 none [])) := issuing_of _ (by decide +kernel)

/-- An arrival of the row on its way to barrier 8 of its own block, or on the partner die, or counted there. -/
def arr (stage : Nat) : Arrival := ⟨0, 8, -5, false, stage, List.range 9, 0⟩
def b9r (stage : Nat) : State := st l9 0 1 2 (fun r => { r with arrivals := [arr stage], busy := [-5] })

theorem witness_BarrierRowResults :
    (let c := cx (b9 none []);
      isOk (rowActs c 0) (fun a => a) = true ∧
      (∀ a ∈ ([-1, -2, -3, -5] : List Int), ∀ b ∈ ([-1, -4, -5, -6] : List Int), uniform c [a, b] = true ∧
        Free c false [src a, src b] (predOk 0 && (0 : Int) == 0 && (0 : Int) == 0 && rowSrcs c [a, b]) {} ∧
        Free c false [dst (-9), src a, src b] (predOk 0 && (0 : Int) == 0 && scaDst c (-9) && rowSrcs c [a, b]) {}) ∧
      -- barrier numbers 0 and 8, and 9 and −1; counts 1 and 19683, and 0; block 0, and 1 of one
      rdRow c (-1) = 0 ∧ rdRow c (-2) = 8 ∧ ¬(rdRow c (-3) ≤ 8) ∧ rdRow c (-5) < 0 ∧ 1 ≤ rdRow c (-6) ∧ rdRow c (-4) ≤ 19683 ∧
      ¬(1 ≤ rdRow c (-1)) ∧ rdRow c (-1) < c.g.lrec.blks ∧ ¬(rdRow c (-6) < c.g.lrec.blks) ∧
      wval (c.b.bar 0).ph ≠ rdRow c (-6) ∧ wval (c.b.bar 0).ph = rdRow c (-1)) ∧
    (∃ g x b, (b9r 0).gang? 1 = some g ∧ (b9r 0).row? ⟨1, 0, 0⟩ = some x ∧ (b9r 0).block? ⟨1, 0, 0⟩ = some b ∧ x.arrivals = [arr 0] ∧
      (b9r 0).releaseMetAt ⟨1, 0, 0⟩ 0 = true ∧ b.retired = false ∧ (arr 0).bar < b.bars.length) ∧
    (∃ g x, (b9r 1).gang? 1 = some g ∧ (b9r 1).row? ⟨1, 0, 0⟩ = some x ∧ x.arrivals = [arr 1] ∧ (arr 1).stage < 2 ∧
      (b9r 1).releaseMetAt ⟨1, 0, 0⟩ 0 = true) ∧
    (∃ g, (b9r 2).gang? 1 = some g ∧ g.gid = 1) ∧
    (∀ bs ∈ ([[], [⟨[0, 2, 0, 0], 3, 1, 4⟩]] : List (List LevelBar)), ∀ lv ∈ ([none, some ⟨⟨1, 0, 1⟩, -9, [0, 2, 0, 0], 3, false⟩] : List (Option LevelWait)),
      let s := b9 lv bs
      let c := cx s
      Free c false [dst (-9), src (-1), src (-6)]
        (predOk 0 && ((2 : Int) == 2 || (2 : Int) == 3 || (2 : Int) == 4) && scaDst c (-9) && rowSrcs c [-1, -6]) {} ∧
      uniform c [-1, -6] = true ∧ c.r.levels.find? (fun v => v.pos == c.e.addr && v.key.take 3 == [0, 2, 0]) = lv ∧ (s.levelBar [0, 2, 0, 0]).done_ ≠ 3 ∧ 0 ≤ rdRow c (-1) ∧ rdRow c (-2) ≤ 8 ∧ 1 ≤ rdRow c (-6) ∧ rdRow c (-7) ≤ 387420489 ∧
      ¬(rdRow c (-8) ≤ 387420489) ∧ s.releaseMet c.ref 3 = true) ∧
    ((b9 none [⟨[0, 2, 0, 0], 0, 0, 3⟩]).levelBar [0, 2, 0, 0]).done_ = 3 ∧
    (let s := b9 none []; (s.modRow ⟨1, 0, 0⟩ (fun r => { r with fifo := [acc .store 0] })).releaseMet ⟨1, 0, 0⟩ 3 = false) ∧
    (((b9 none []).levelBar [0, 2, 0, 0]).cnt = 0 ∧ ((b9 none [⟨[0, 2, 0, 0], 3, 1, 4⟩]).levelBar [0, 2, 0, 0]).cnt = 1) ∧
    (b9 none [⟨[0, 2, 0, 0], 3, 1, 4⟩]).levelBars[0]? = some ⟨[0, 2, 0, 0], 3, 1, 4⟩ :=
  ⟨by decide +kernel, ⟨_, _, _, rfl, rfl, rfl, by decide +kernel⟩, ⟨_, _, rfl, rfl, by decide +kernel⟩, ⟨_, rfl, rfl⟩, by decide +kernel,
    by decide +kernel⟩

/-! ### Tiles -/

/-- A descriptor of nine words at address 2700, one dimension; of another type; a bad one; its handle, index 5, generation 1. -/
def desc : List Word := [2700, 9, 9, 1, 1, 3, 0, 0, 0]
def descF : List Word := [2700, 9 + 3, 9, 1, 1, 3, 0, 0, 0]
def hdl : Word := word (5 * 3 ^ 16 + 3 ^ 10)

/-- Field 0 with that handle live and a leaf with T = +; the block of row ⟨1, 0, 0⟩ holds it under kind k; requests and messages. -/
def x9 (d : List Word) (k : Int) (f : Row → Row) (g : State → State) : State :=
  let s := mapped (st l9 0 1 2 (fun r => f { r with sregs := [hdl, word 2700, 0, 18, word 2701, 0, 0, 0, 0] }))
  g { s with
    mem := [(1092, 352)]
    fields := modAt s.fields 0 (fun x => { x with tiles := [⟨5, 1, 1, d⟩] })
    gangs := s.gangs.map (fun g => { g with blocks := g.blocks.map (fun b =>
      { b with tenures := if k = 0 then [] else [⟨hdl, k, false⟩] }) }) }
theorem x9_issuing : Issuing (x9 desc 0 id id) (cx (x9 desc 0 id id)) := issuing_of _ (by decide +kernel)

theorem witness_TileIssueResults : let s := x9 desc 0 id id
    let c := cx s
    isOk (rowActs c c.mod.pred) (fun a => a) = true ∧ flagFull c.r c.e.fb = false ∧
    (∀ y ∈ ([-1, -2, -5] : List Int), uniform c [y] = true ∧
      Free c false [dst (-9), src y] ((0 : Int) == 0 && scaDst c (-9) && (0 : Int) == 0 && rowSrcs c [y]) { p := true } ∧
      Free c false [src y] ((0 : Int) == 0 && (0 : Int) == 0 && (0 : Int) == 0 && (0 : Int) == 0 && rowSrcs c [y]) { p := true }) ∧
    rdRow c (-5) % 27 ≠ 0 ∧ rdRow c (-2) % 27 = 0 ∧
    lanesOk (check3 s c Need.load 3 false [(c.act.headD 0, rdRow c (-2))]) 1 = true ∧
    c.r.loads = [] ∧ c.r.rels = [] ∧ s.snoopFirst false [⟨.hbm, 2700⟩] = none ∧ c.r.fifo = [] ∧ (s.core c.core).order = [] ∧ (s.core c.core).l1 = [] ∧ (s.die c.die).rdc = [] ∧
    Free c false [dst (-6), src (-1), src (-4)] ((0 : Int) == 0 && (0 : Int) == 0 && scaDst c (-6) && rowSrcs c [-1, -4]) { p := true } ∧
    (regsOk c (-9) 2 true = false ∧ regsOk c (-6) 2 true = true ∧ usesBusy c [⟨-6, true, 2⟩] = false ∧
      ∀ r ∈ (Use.mk (-6) true 2).fields c, r ∉ c.r.locked) ∧
    (s.tileOf c.fld (word (rdRow c (-1)))).isSome = true ∧ s.tileOf c.fld (word (rdRow c (-3))) = none ∧
    s.writesOpen c.core c.fld c.r c.ref (s.tileFoot c.fld hdl) (s.tileVas c.fld hdl) = false ∧
    (let t := x9 desc 0 (fun r => { r with fifo := [acc .store 0] }) id; t.writesOpen 0 0 (cx t).r ⟨1, 0, 0⟩ (t.tileFoot 0 hdl) (t.tileVas 0 hdl) = true) := by
  decide +kernel

/-- A request of the row. -/
def req (k : TileKind) (h : Word) : TileReq := ⟨⟨1, 0, 0⟩, k, h, -9, 2, 0, 0, false, List.range 9, []⟩
def withReq (k : TileKind) (h : Word) (s : State) : State := { s with tileIn := [req k h] }

theorem witness_TileDirectoryResults :
    (descOk desc = true ∧ descOk (desc.set 8 1) = false ∧
      (x9 desc 0 id (withReq (.tnew desc) 0)).freeTiles 0 1 = [-3280] ∧ 0 < (x9 desc 0 id id).fields.length) ∧
    (let s := x9 desc 0 id (withReq (.tsplit 18) hdl);
      s.tileOf 0 0 = none ∧ (s.tileOf 0 hdl).isSome = true ∧ s.queuedAhead 0 hdl desc s.tileQ = false ∧
      (∀ z ∈ ([-1 + 18, 1 + 18, 9, 90, 18 + 729] : List Int), field z 0 2 < 0 ∨ (dRank desc : Int) ≤ field z 0 2 ∨ field z 2 4 < 2 ∨
        9 < field z 2 4 ∨ field z 6 21 ≠ 0 ∨ dExt desc (field z 0 2).toNat < field z 2 4)) ∧
    -- splits of dimension 0 into 2 and into 9 pieces; a field with one free index; and quad directories that 80 other handles fill
    (∀ n ∈ ([2, 9] : List Nat), let s := x9 desc 1 id (withReq (.tsplit (word (9 * (n : Int)))) hdl)
      field (wval (word (9 * (n : Int)))) 0 2 = 0 ∧ field (wval (word (9 * (n : Int)))) 2 4 = n ∧ field (wval (word (9 * (n : Int)))) 6 21 = 0 ∧
      0 < dRank desc ∧ (n : Int) ≤ dExt desc 0 ∧ (s.freeTiles 0 n).length = n ∧ (5 : Int) ∉ s.freeTiles 0 n ∧
      s.splitFits 0 hdl desc ((List.range n).map (splitPiece desc 0 n)) = true ∧ 0 < s.fields.length) ∧
    (∀ k ∈ ([1, 2, 3] : List Int), let s := x9 desc 0 id (withReq (.tacq k) hdl)
      let q := req (.tacq k) hdl
      s.acqRefusal q desc = none ∧ s.ownHolder q = none ∧ s.conflicting q desc = [] ∧ s.queuedAhead 0 hdl desc s.tileQ = false ∧
      s.hostHeld 0 desc = []) ∧
    (let s := x9 desc 0 id (fun s => { withReq (.tacq 1) hdl s with tileQ := [{ req (.tacq 3) hdl with stage := 1, who := ⟨2, 0, 0⟩ }] });
      s.acqRefusal (req (.tacq 1) hdl) desc = none ∧ s.queuedAhead 0 hdl desc s.tileQ = true ∧ s.conflicting (req (.tacq 1) hdl) desc = [] ∧
      s.ownHolder (req (.tacq 1) hdl) = none) ∧
    (dType descF = 3 ∧ dType descF ≠ 0 ∧ dType descF ≠ 1 ∧ dType descF ≠ -2 ∧
      dType [0, 9, 9, 1, 1, 3 ^ 25, 0, 0, 0] = 0 ∧
      ∃ l ∈ tileLines [0, 9, 9, 1, 1, 3 ^ 25, 0, 0, 0], (x9 desc 0 id id).eligible 0 1 l = false ∧ (x9 desc 0 id id).eligible 0 3 l = false) ∧
    -- another gang's block holds it for commute; the block itself holds it and asks for its release, or frees it
    (let s := x9 desc 3 id (fun s => { withReq (.tacq 2) hdl s with tileIn := [{ req (.tacq 2) hdl with who := ⟨2, 0, 0⟩ }], gangs := s.gangs ++ [{ gang l9 1 1 2 id with gid := 2 }] })
      let q := { req (.tacq 2) hdl with who := ⟨2, 0, 0⟩ }
      s.acqRefusal q desc = none ∧ s.ownHolder q = none ∧ s.conflicting q desc ≠ [] ∧ (s.conflicting q desc).all (fun h => !h.absent) = true) ∧
    (let s := x9 desc 1 id (withReq .trel hdl);
      (match s.ownHolder (req .trel hdl) with | some h => !h.absent && !s.recalling h.who h.handle | none => false) = true) ∧
    (let s := x9 desc 1 id (withReq .tfree hdl);
      (s.tileOf 0 hdl).isSome = true ∧ s.holdersOf hdl ≠ [] ∧ (s.holdersOf hdl).all (fun h => !h.absent && !s.recalling h.who h.handle) = true) ∧
    (let s := x9 desc 0 id (withReq .trel hdl); s.ownHolder (req .trel hdl) = none ∧ s.holdersOf hdl = [] ∧ s.tileQ = []) ∧
    ((x9 desc 0 id (withReq .tqry hdl)).row? ⟨1, 0, 0⟩).isSome = true ∧
    (∀ stage ∈ [1, 2], let q := { req (.tacq 2) hdl with stage := stage }
      let s := x9 desc 0 id (fun s => { s with tileQ := [q] })
      s.tileQ[0]? = some q ∧ (s.block? q.who).isSome = true ∧ s.descOf 0 hdl = desc ∧ s.queuedAhead 0 hdl desc (s.tileQ.take 0) = false ∧
      s.conflicting q desc = [] ∧ s.hostHeld 0 desc = [] ∧ s.hostHeld 0 q.desc = []) ∧
    (let q := { req (.tacq 2) hdl with stage := 1 }
      let s := x9 desc 0 id (fun s => { s with tileQ := [{ req (.tacq 3) hdl with stage := 1 }, q] })
      s.tileQ[1]? = some q ∧ s.queuedAhead 0 hdl (s.descOf 0 hdl) (s.tileQ.take 1) = true) ∧
    (∀ k ∈ ([1, 2, 3] : List Int), let m : RecallMsg := ⟨⟨1, 0, 0⟩, hdl, true, 1⟩
      let s := x9 desc k id (fun s => { s with recalls := [m] })
      s.recalls[0]? = some m ∧ (s.gang? 1).isSome = true ∧ (s.block? m.who).bind (fun b => b.tenure? hdl) = some ⟨hdl, k, false⟩ ∧
      s.blockWrites m.who m.stamp (s.tileFoot 0 hdl) = false ∧ s.flushTurn m = true ∧ (s.snoopFirst true (s.partialLines m.who (s.tileFoot 0 hdl))).isNone = true) ∧
    (x9 desc 2 (fun r => { r with fifo := [acc .store 0] }) id).blockWrites ⟨1, 0, 0⟩ 1 [⟨.hbm, 2700⟩] = true ∧
    (let s := x9 desc 1 id (fun s => { s with pushes := [⟨⟨.hbm, 2700⟩, ⟨1, 0, 0⟩, none⟩] });
      s.pushes[0]? = some ⟨⟨.hbm, 2700⟩, ⟨1, 0, 0⟩, none⟩ ∧ (s.block? ⟨1, 0, 0⟩).map (·.core) = some 0 ∧ 0 < s.cores.length ∧ (s.core 0).order = []) ∧
    (let s := x9 desc 3 id (fun s => s.modBlock ⟨1, 0, 0⟩ (fun b => { b with partials := [⟨⟨.hbm, 2700⟩, 0, List.replicate 9 1⟩] }));
      ((s.block? ⟨1, 0, 0⟩).bind (fun b => b.partials.find? (fun x => x.line == ⟨.hbm, 2700⟩))) = some ⟨⟨.hbm, 2700⟩, 0, List.replicate 9 1⟩ ∧
      Memory.wf s.mem = true ∧ s.badLine ⟨.hbm, 2700⟩ = false ∧ s.lineOwner ⟨.hbm, 2700⟩ = (0 : Nat) ∧ s.cutOff 0 ⟨.hbm, 2700⟩ = false ∧ (s.snoopFirst true (s.partialLines ⟨1, 0, 0⟩ [⟨.hbm, 2700⟩])).isNone = true) := by
  and_intros <;> decide +kernel

/-- Field 0 with every index live; and with 81 live handles that one block holds, as many as its quad's directory enters. -/
def liveTiles : List TileIdx := (List.range 6561).map (fun (i : Nat) => ⟨(i : Int) - 3280, 1, 1, desc⟩)
def allLive : State := x9 desc 0 id (fun s => { s with
  fields := modAt s.fields 0 (fun x => { x with tiles := liveTiles }) })
def hdls : List Word := (List.range 81).map (fun (i : Nat) => word ((5 + (i : Int)) * 3 ^ 16 + 3 ^ 10))
def fullDir : State := x9 desc 0 id (fun s => { s with
  fields := modAt s.fields 0 (fun x => { x with tiles := (List.range 81).map (fun (i : Nat) => ⟨5 + (i : Int), 1, 1, desc⟩) })
  gangs := s.gangs.map (fun g => { g with blocks := g.blocks.map (fun b => { b with tenures := hdls.map (fun h => ⟨h, 1, false⟩) }) }) })

theorem x9_tiles (ts : List TileIdx) : ((x9 desc 0 id (fun s => { s with
  fields := modAt s.fields 0 (fun x => { x with tiles := ts }) })).fieldSt 0).tiles = ts := rfl
theorem allLive_free (n : Nat) : allLive.freeTiles 0 n = [] := by
  have h : ∀ i ∈ List.range 6561, ((allLive.tileIdx? 0 ((i : Int) - 3280)).map (·.state)).getD 0 = 1 := by
    intro i hi
    have ht : (allLive.fieldSt 0).tiles = liveTiles := x9_tiles _
    unfold State.tileIdx?
    rw [ht, liveTiles]
    cases hf : ((List.range 6561).map (fun (i : Nat) => (⟨(i : Int) - 3280, 1, 1, desc⟩ : TileIdx))).find?
        (fun t => t.idx == (i : Int) - 3280) with
    | none =>
      have := List.find?_eq_none.1 hf ⟨(i : Int) - 3280, 1, 1, desc⟩ (List.mem_map.2 ⟨i, hi, rfl⟩)
      simp at this
    | some t =>
      obtain ⟨j, -, rfl⟩ := List.mem_map.1 (List.mem_of_find?_eq_some hf)
      rfl
  unfold State.freeTiles
  rw [List.filter_eq_nil_iff.2, List.take_nil]
  intro a ha
  obtain ⟨i, hi, rfl⟩ := List.mem_map.1 ha
  simp only [List.pure_def, List.bind_eq_flatMap, List.mem_flatMap, List.mem_singleton] at hi
  obtain ⟨k, hk, rfl⟩ := hi
  simp [h k hk]

theorem witness_TileDirectoryResults_full : allLive.freeTiles 0 1 = [] ∧ (allLive.freeTiles 0 2).length < 2 ∧
    (fullDir.freeTiles 0 2).length = 2 ∧ (fullDir.tileOf 0 hdl).isSome = true ∧
    fullDir.splitFits 0 hdl desc ((List.range 2).map (splitPiece desc 0 2)) = false :=
  ⟨allLive_free 1, by rw [allLive_free]; decide, by decide +kernel, by decide +kernel, by decide +kernel⟩

/-! ### Matrix unit -/

/-- A row of 27 threads: s0 an operand word (D group v0, A group v54, K = 27), s1 a panel at 0, s2 one that is not aligned, s3 one that
ends outside scratch, s4 scales at 0 and 27, s5 an operand word of QUANT and DEQ (v0), s6 the scale 1. -/
def mopw : Int := 54 * 3 ^ 8 + 27 * 3 ^ 16
def mx (f : Row → Row) (g : State → State) : State :=
  g (st (lrec (-1) 0 81 9 0 2187 0) 0 1 2 (fun r => f { r with
    sregs := [word mopw, 0, 1, word 5859, word (27 * 3 ^ 13), 0, 81, word (mopw - 54 * 3 ^ 8 + 21 * 3 ^ 8), 0] }))
theorem mx_issuing : Issuing (mx id id) (cx (mx id id)) := issuing_of _ (by decide +kernel)

/-- A pass: with run 7 or alone, granted or not. -/
def pass (run : Option Nat) (granted : Bool) (order : Nat) : Pass :=
  { scaled := false, ctl := 27, opw := word mopw, panel := 0, scale := 0, flag := 2, aa := 54, order := order, posted := 0
    granted := granted, aVals := List.replicate 243 1, run := run, closes := false, gen0 := false }
def run7 (open_ : Bool) : Run := ⟨7, 0, 27, 54, false, open_, none, [], 0⟩

/-- MMA's hypotheses named `sized` and `fits`, for a half pass of form .t9t9. -/
abbrev Sized (c : Ctx) (w : Word) (ctl : Int) : Prop :=
  c.w = 27 ∧ 0 ≤ opDA w ∧ 0 ≤ opAA w ∧ kOk (mxForm ctl) (opK w) = true ∧ opPB w = 0 ∧ mxHalf ctl = true ∧ field (wval w) 25 2 = 0 ∧
    groupFits c (opDA w) (mxCols ctl) = true ∧ groupFits c (opAA w) (aRegs (mxForm ctl) (opK w)) = true ∧
    (∀ d ∈ (List.range (mxCols ctl)).map (groupField c.gen0 (opDA w)),
      d ∉ aFields c.gen0 (mxForm ctl) (opK w) (opAA w) ∧ d ∉ c.r.locked ∧ d ∉ c.r.busy ∧ d ∉ c.r.unread) ∧
    ∀ a ∈ aFields c.gen0 (mxForm ctl) (opK w) (opAA w), a ∉ c.r.busy

/-- The same row with another word of scales in s4. -/
def mxs (sc : Int) : State := mx id (fun s => s.modRow ⟨1, 0, 0⟩ (fun r => { r with sregs := r.sregs.set 4 (word sc) }))
/-- SA and SB: one off a line, one that begins where scratch ends, and the last that are inside. -/
theorem witness_MatrixQuantIssue_scales :
    (∀ sc ∈ ([1, 3 ^ 13, 6561, 6561 * 3 ^ 13, 6534 + 6534 * 3 ^ 13] : List Int), let c := cx (mxs sc)
      Issuing (mxs sc) c ∧ Free c false [src (-1), src (-2), src (-5)] ((0 : Int) == 0 && (true || (0 : Int) == 0) && mmaCtlOk true 27 && rowSrcs c [-1, -2, -5])
        { p := true } ∧ Sized c (word (rdRow c (-1))) 27 ∧ trit (rdRow c (-5)) 26 = 0 ∧ uniform c [-1, -2, -5] = true ∧ rdRow c (-2) = 0) ∧
    (let a := fun (sc : Int) => scaleA (word (rdRow (cx (mxs sc)) (-5)))
      let b := fun (sc : Int) => scaleB (word (rdRow (cx (mxs sc)) (-5)))
      a 1 % 27 ≠ 0 ∧ a (3 ^ 13) % 27 = 0 ∧ b (3 ^ 13) % 27 ≠ 0 ∧ a 6561 = 6561 ∧ b 6561 = 0 ∧ a (6561 * 3 ^ 13) = 0 ∧ b (6561 * 3 ^ 13) = 6561 ∧
      a (6534 + 6534 * 3 ^ 13) = 6534 ∧ b (6534 + 6534 * 3 ^ 13) = 6534 ∧ 6534 + (opK (word mopw) : Int) ≤ 3 * 2187) := by
  refine ⟨?_, by decide +kernel⟩
  intro sc h
  refine ⟨issuing_of _ ?_, ?_⟩ <;> revert sc <;> decide +kernel

/-- 27 passes of the quad. -/
def full : State := mx (fun r => { r with passes := (List.range 27).map (fun i => { pass none false i with opw := word (27 + 54 * 3 ^ 8 + 27 * 3 ^ 16) }) }) id

theorem witness_MatrixQuantIssue :
    (let c := cx (mx id id);
      isOk (rowActs c c.mod.pred) (fun a => a) = true ∧ flagFull c.r c.e.fb = false ∧ uniform c [-1, -2, -5] = true ∧
      (∀ ctl ∈ ([27, 36] : List Int),
        Free c false [src (-1), src (-2)] ((0 : Int) == 0 && (false || (0 : Int) == 0) && mmaCtlOk false ctl && rowSrcs c [-1, -2]) { p := true } ∧
        Free c false [src (-1), src (-2), src (-5)] ((0 : Int) == 0 && (true || (0 : Int) == 0) && mmaCtlOk true ctl && rowSrcs c [-1, -2, -5])
          { p := true } ∧ Sized c (word (rdRow c (-1))) ctl) ∧
      rdRow c (-2) % 27 = 0 ∧ rdRow c (-3) % 27 ≠ 0 ∧ rdRow c (-4) % 27 = 0 ∧
      -- the last panel inside, and the first outside
      5832 + panelTrytes 0 27 = 3 * (c.g.lrec.scr : Int) ∧ ¬(rdRow c (-4) + panelTrytes 0 27 ≤ 3 * (c.g.lrec.scr : Int)) ∧
      scaleA (word (rdRow c (-5))) % 27 = 0 ∧ scaleB (word (rdRow c (-5))) = 27 ∧ trit (rdRow c (-5)) 26 = 0 ∧ c.r.openRun = none ∧
      (mx id id).quadPasses (c.core / 4) < 27 ∧
      Legal c false [] ((0 : Int) == 0 && (0 : Int) == 0 && (0 : Int) == 0 && (0 : Int) == 0 && (0 : Int) == 0) { p := true }) ∧
    (27 ≤ full.quadPasses 0 ∧ (cx full).r.passes ≠ []) ∧
    (cx n9).w ≠ 27 ∧
    (let c := cx (mx (fun r => { r with runs := [run7 true] }) id);
      c.r.openRun = some (run7 true) ∧ (run7 true).form = mxForm 27 ∧ (run7 true).k = opK (word mopw) ∧ c.w = 27 ∧
      ∀ d ∈ (List.range 27).map (groupField c.gen0 0), d ∉ aFields false 0 27 54 ∧ d ∉ c.r.locked) ∧
    (let c := cx (mx id id);
      uniform c [-6, -2, -7] = true ∧
      (∀ ctl ∈ ([0, 1, -1, 9, 27] : List Int),
        Free c false [src (-6), src (-2), src (-7)] ((0 : Int) == 0 && quantCtlOk ctl && rowSrcs c [-6, -2, -7]) { p := true } ∧
        groupFits c (qReg (word (rdRow c (-6)))) (wideRegs ctl) = true ∧ qTheta (word (rdRow c (-7))) = 0 ∧
        thetaOk (qTheta (word (rdRow c (-7)))) = true ∧ qOl (word (rdRow c (-6))) = 0 ∧
        ∀ x ∈ (List.range (wideRegs ctl)).map (groupField c.gen0 (qReg (word (rdRow c (-6))))), x ∉ c.r.locked ∧ x ∉ c.r.busy ∧ x ∉ c.r.unread) ∧
      0 ≤ qReg (word (rdRow c (-6))) ∧ field (rdRow c (-6)) 21 6 = 0 ∧ field (rdRow c (-7)) 18 9 = 0 ∧ scaleOk (qS (word (rdRow c (-7)))) = true ∧
      scaleOk (qS (word (rdRow c (-2)))) = false ∧ rdRow c (-2) % 27 = 0 ∧ rdRow c (-2) + narrowTrytes 0 ≤ 3 * (c.g.lrec.scr : Int) ∧
      ¬(6561 + narrowTrytes 0 ≤ 3 * (c.g.lrec.scr : Int)) ∧
      (∀ ctl ∈ ([0, 1, -1, 3, 2, 9, 10, 8, 12] : List Int),
        Free c false [dst (-9)] ((0 : Int) == 0 && (0 : Int) == 0 && (0 : Int) == 0 && qcntOk ctl && scaDst c (-9)) { p := true }) ∧
      c.r.passes = [] ∧ c.r.quants = [] ∧ c.r.deqs = []) := by decide +kernel

/-- A row of 27 threads with a pass that waits or has been granted, alone or with a run. -/
def mxp (run : Option Nat) (granted : Bool) (cyc : Nat) : State :=
  mx (fun r => { r with passes := [pass run granted 5], runs := if run = none then [] else [{ run7 true with holds := [0] }]
                        flags := [0, 1] ++ List.replicate 10 0, busy := (List.range 27).map (fun (n : Nat) => (n : Int)) })
    (fun s => { s with dies := s.dies.map (fun d => { d with cyc := cyc }) })
/-- QUANT or DEQ in progress with scale 1. -/
def qop (ctl : Int) : QuantOp := ⟨ctl, 0, 0, 81, 2, 5, List.replicate 729 0, false⟩

theorem witness_MatrixUnitResults :
    (mx id id).mxEntries 0 = [] ∧
    (∀ run ∈ [none, some 7], let s := mxp run false 0
      ∃ e, (s.mxEntries 0).filter (fun e => !e.pass.granted) = [e] ∧ e.staged = true ∧
        (∀ a ∈ s.arrays e.core e.pass, s.arrayFree (s.mxEntries 0) e a = true) ∧ (s.row? e.ref).isSome = true) ∧
    (∃ b x, (mxp (some 7) false 729).block? ⟨1, 0, 0⟩ = some b ∧ (mxp (some 7) false 729).row? ⟨1, 0, 0⟩ = some x ∧ x.runs ≠ []) ∧
    (∃ b x p, (mxp none true 0).block? ⟨1, 0, 0⟩ = some b ∧ (mxp none true 0).row? ⟨1, 0, 0⟩ = some x ∧
      x.passes.find? (·.granted) = some p ∧ 0 ≤ opDA p.opw ∧ 27 * ((opDA p.opw).toNat + mxCols p.ctl) ≤ x.vregs.length ∧
      formInt (mxForm p.ctl) = true ∧ p.scaled = false) ∧
    (∀ ctl ∈ ([0, 1, -1, 9] : List Int),
      let s := mx (fun r => { r with quants := [qop ctl], deqs := [{ qop ctl with stamp := 4 }], flags := [0, 1] ++ List.replicate 10 0 }) id
      ∃ b x, s.block? ⟨1, 0, 0⟩ = some b ∧ s.row? ⟨1, 0, 0⟩ = some x ∧ b.retired = false ∧ x.escpol = 0 ∧ qList ctl = false ∧
        (∀ o ∈ x.quants, 4 ≤ o.stamp) ∧ (∀ q ∈ x.deqs, x.scrPending q.stamp (q.areas 0) = false) ∧ amWf ((0, .neg) : Word × Trit) b.scratch = true ∧ 27 * wideRegs ctl ≤ x.vregs.length) ∧
    (readFl .f9w 81 = .fin 81 (-4) ∧ 0 ≤ wval (qop 0).addr ∧ wval (qop 0).addr % 27 = 0 ∧ qReg (qop 0).opw = 0) ∧
    -- an empty event queue, one of 27 earlier events, and one with an event of the same cycle and a higher row
    (∃ x, (mx id id).row? ⟨1, 0, 0⟩ = some x ∧ 0 < (mx id id).cores.length ∧ ((mx id id).core 0).escq = []) ∧
    (let s := mx id (fun s => s.modCore 0 (fun k => { k with escq := List.replicate 27 ⟨⟨1, 0, 0⟩, 0, true, 0, 4, 0⟩ }));
      (s.core 0).escq.length = 27 ∧ (∀ y ∈ (s.core 0).escq, y.cyc ≠ 5 ∨ y.row ≤ 0) ∧ (s.row? ⟨1, 0, 0⟩).map (fun x => trit (wval x.mxst) 5) = some 0) ∧
    (let d : EscEvent := ⟨⟨1, 0, 1⟩, 0, true, 0, 5, 1⟩
      let s := mx id (fun s => s.modCore 0 (fun k => { k with escq := [d] }));
      (s.core 0).escq = [] ++ [d] ∧ (s.core 0).escq.length < 27 ∧ d.cyc = 5 ∧ 0 < d.row ∧ (s.row? ⟨1, 0, 0⟩).isSome = true) := by
  refine ⟨by decide +kernel, ?_, ⟨_, _, rfl, rfl, by decide +kernel⟩, ⟨_, _, _, rfl, rfl, rfl, by decide +kernel⟩, ?_, by decide +kernel,
    ⟨_, rfl, by decide +kernel⟩, by decide +kernel, by decide +kernel⟩
  · intro run h
    simp only [List.mem_cons, List.mem_nil_iff, or_false] at h
    rcases h with rfl | rfl <;> exact ⟨_, rfl, by decide +kernel⟩
  · intro ctl h
    simp only [List.mem_cons, List.mem_nil_iff, or_false] at h
    rcases h with rfl | rfl | rfl | rfl <;> exact ⟨_, _, rfl, rfl, by decide +kernel⟩

/-! ### Engines -/

/-- Rows of 9 threads with 2187 scratch words: s0 = 2700, s1 = 0, s2 = 1, s3 = 81 (a scratch address), s4 = 531441, s5 = 0, s6 = 728, s7 = 729. -/
def en (f : Row → Row) (g : State → State) : State :=
  g (mapped (st (lrec (-1) (-1) 9 9 3 2187 3) 0 1 2 (fun r => f { r with
    sregs := [word 2700, 0, 1, 81, word 531441, 0, 728, 729, word (-1)] })))
theorem en_issuing : Issuing (en id id) (cx (en id id)) := issuing_of _ (by decide +kernel)

/-- The same with 531442 in s4. -/
def sBig : State := en id (fun s => s.modRow ⟨1, 0, 0⟩ (fun r => { r with sregs := r.sregs.set 4 (word 531442) }))
def cBig : Ctx := cx sBig

/-- A command of one line from address 2700 to 5400, started or not; and a GATH of one word whose list is scratch word 0. -/
def cmd (k : CmdKind) (started : Bool) : Cmd :=
  { kind := k, x := word 5400, y := if k = .gath then 0 else word 2700, z := 1, line := true, ssp := false, dsp := false, ctl := 1, flag := 2
    batch := 0, started := started, done_ := 0, data := [], sent := [], pend := [], held := none, spill := false, faultVa := 0, stamp := 0 }
def withSlots (l : List EngSlot) (r : Row) : Row := { r with slots := l ++ r.slots.drop l.length, flags := [0, 1] ++ List.replicate 10 0 }
/-- A slot of 81 entries, and one of a batch of 26 commands. -/
def fullSlot : EngSlot := ⟨List.replicate 81 (.cmd (cmd .cpy false)), none⟩

theorem witness_EngineIssueResults :
    (let c := cx (en id id);
      -- each count at its bounds, with and without an area in scratch
      (∀ z ∈ ([1, 531441] : List Int), isOk (cmdChecks c .cpy ⟨-1, -2, -3, -4, 1⟩ 2700 0 z) (fun _ => true) = true) ∧
      isOk (cmdChecks c .cpy ⟨-1, -2, -3, -4, 0⟩ 2700 0 531442) (fun _ => true) = false ∧
      (∀ z ∈ ([1, 2187] : List Int), isOk (cmdChecks c .cpy ⟨-1, -2, -3, -4, 3 + 9⟩ 0 0 z) (fun _ => true) = true ∧
        isOk (cmdChecks c .gath ⟨-1, -2, -3, -4, 0⟩ 2700 0 z) (fun _ => true) = true ∧
        isOk (cmdChecks c .scat ⟨-1, -2, -3, -4, 0⟩ 0 2700 z) (fun _ => true) = true) ∧
      isOk (cmdChecks c .gath ⟨-1, -2, -3, -4, 0⟩ 2700 0 2188) (fun _ => true) = false ∧
      (∀ z ∈ ([1, 729] : List Int), isOk (cmdChecks c .peer ⟨-1, -2, -3, 4, 1⟩ 2700 0 z) (fun _ => true) = true) ∧
      isOk (cmdChecks c .chain ⟨-1, 0, -3, 1, 0⟩ 81 0 531441) (fun _ => true) = true ∧
      (∀ y ∈ ([0, 728] : List Int), isOk (cmdChecks c .coll ⟨-1, -2, 0, 3, 10⟩ 2700 y 0) (fun _ => true) = true) ∧
      isOk (cmdChecks c .coll ⟨-1, -2, 0, 3, 10⟩ 2700 729 0) (fun _ => true) = false ∧
      isOk (rowActs c c.mod.pred) (fun a => a) = true ∧ flagFull c.r c.e.fb = false ∧
      (∀ k ∈ ([-4, 0] : List Int), Free c false [src (-1), src (-2), src (-3)] ((true || (0 : Int) == 0) && (true || (0 : Int) == 0) &&
        decide ((k + 4).toNat ≤ 4) && cmdCtlOk .cpy 1 && rowSrcs c [-1, -2, -3]) { p := true }) ∧
      Free c false [src (-1), src (-3)] ((false || (0 : Int) == 0) && (true || (0 : Int) == 0) && ((1 + 4 : Int).toNat == 5) && cmdCtlOk .chain 0 &&
        rowSrcs c [-1, -3]) { p := true } ∧
      Free c false [src (-1), src (-2)] ((true || (0 : Int) == 0) && (false || (0 : Int) == 0) && ((3 + 4 : Int).toNat == 7) && cmdCtlOk .coll 10 &&
        rowSrcs c [-1, -2]) { p := true } ∧
      Free c false [src (-1), src (-2), src (-3)] (((4 + 4 : Int).toNat == 8) && cmdCtlOk .peer 1 && rowSrcs c [-1, -2, -3]) { p := true } ∧
      (∀ z ∈ ([-3, -5] : List Int), Free c false [src (-1), src (-2), src z] ((true || (0 : Int) == 0) && (true || (0 : Int) == 0) &&
        decide ((-4 + 4 : Int).toNat ≤ 4) && cmdCtlOk .cpy 1 && rowSrcs c [-1, -2, z]) { p := true } ∧ uniform c [-1, -2, z] = true) ∧
      uniform c [-1, -2, -3] = true ∧ rdRow c (-5) = 531441 ∧ rdRow cBig (-5) = 531442 ∧ Issuing sBig cBig ∧ rdRow c (-2) < 1 ∧ 728 < rdRow c (-8) ∧ rdRow c (-9) < 0 ∧ (c.r.slot 0).entries.length < 81 ∧
      0 < c.r.slots.length ∧ (c.r.slot 0).openBatch = none) ∧
    (81 ≤ ((cx (en (withSlots [fullSlot]) id)).r.slot 0).entries.length) ∧
    (((cx (en (withSlots [⟨[.cmd (cmd .cpy false)], some (0, 26)⟩]) id)).r.slot 0).openBatch = some (0, 26)) := by decide +kernel

/-- A record of 18 words at scratch word 0: a sum of one word at 2700 into 5400; one of a type that does not exist. -/
def chainRec (ty : Int) : List (Nat × Word × Trit) := [(0, word 2700, .pos), (1, word 2700, .pos), (2, word 5400, .pos), (3, word ty, .pos)]
/-- A row whose slot holds a command, in a block with those scratch words and some that no code repairs. -/
def startOf (c : Cmd) (sc : List (Nat × Word × Trit)) (bad : List Nat) : State := en (withSlots [⟨[.cmd c], none⟩])
  (fun s => s.modBlock ⟨1, 0, 0⟩ (fun b => { b with scratch := sc, bad := bad }))
def startIs (s : State) (c : Cmd) (a : Option Int) : Bool :=
  match s.env? ⟨1, 0, 0⟩, s.row? ⟨1, 0, 0⟩ with
  | some e, some x => s.startBad e c == a && s.earlierDone e x c.stamp && x.headCmd 0 == some c && e.g.status == .resident
  | _, _ => false

theorem witness_EngineUnitResults_start :
    (let c := { cmd .gath false with y := 0 }; startIs (startOf c [(0, word 2700, .pos)] []) c none = true ∧ startIs (startOf c [] [0]) c (some 0) = true) ∧
    (let c := { cmd .scat false with x := 0, y := word 2700 }; startIs (startOf c [(0, word 5400, .pos)] []) c none = true ∧ startIs (startOf c [] [0]) c (some 0) = true) ∧
    (let c := { cmd .chain false with x := 0, y := 0 }; startIs (startOf c (chainRec 0) []) c none = true ∧ startIs (startOf c [] [17]) c (some 0) = true ∧
      recordOk ((List.range 18).map (fun i => ((startOf c (chainRec 0) []).scrGet ⟨1, 0, 0⟩ 0 i).1)) = true ∧
      recordOk ((List.range 18).map (fun i => ((startOf c (chainRec 729) []).scrGet ⟨1, 0, 0⟩ 0 i).1)) = false) := by decide +kernel

/-- A collective of two participants, both of this row: descriptor at 5400, sources at 2700 and 2754. -/
def coll (kind op : Int) : State := en (withSlots []) (fun s => { s with
  mem := [(1092, 351), (2700, 11), (2754, 22), (5400, 2), (5403, 1)] ++ (if op = 0 then [] else [(5406, tryte (9 * op))]) ++
    [(5427, 2700), (5430, 2727), (5433, 2754), (5436, 2781)]
  colls := [⟨⟨.hbm, 5400⟩, word 5400, 0, kind, 1, 0, [2, 1, word (9 * op), 0, 0, 0, 0, 0, 0],
    [⟨⟨1, 0, 0⟩, 0, 2700, 2727⟩, ⟨⟨1, 0, 0⟩, 1, 2754, 2781⟩]⟩] })
/-- Its sources are read and its destinations written. -/
def collGoes (s : State) : Bool :=
  match s.colls[0]? with
  | none => false
  | some x =>
    match (x.arrived.head?).bind (fun q => s.env? q.who) with
    | none => false
    | some first =>
      let d := x.desc
      let as := s.members x (recW d 0).toNat
      let n := (recW d 1).toNat * collSize (collType d)
      !s.instanceHeld x && decide (recW d 0 ≤ x.arrived.length) && collOk x.kind d &&
        (match collReads x n as s with
        | .stop _ => false
        | .ok srcs u =>
          srcs == [[11, 0, 0], [22, 0, 0]] &&
          match collChecks x (if x.kind = 3 then 2 * n else n) as u with
          | .stop _ => false
          | .ok _ v =>
            match v.unitTarget first (wrapT 27 (wval x.va + 15)) 6 with
            | .ok _ w =>
              (match collWrites x (collOut x.kind d srcs).1 as w with
              | .ok _ _ => true
              | .stop _ => false)
            | _ => false)

/-- How the units of a command end. -/
def endsIn (s : State) (c : Cmd) (done : Bool) : Bool :=
  match s.env? ⟨1, 0, 0⟩ with
  | none => false
  | some e => match runUnits e ((wval c.z).toNat - c.done_) s c with
    | (_, c', .done) => done && c'.kind == c.kind
    | (_, _, .fault _ _ _) => !done
    | _ => false

/-- The checks of the copy of one line. -/
def copyGoes (s : State) (c : Cmd) : Bool :=
  match s.env? ⟨1, 0, 0⟩ with
  | none => false
  | some e => match s.unitLoc e (wrapT 27 (wval c.y)) { Need.load with len := 27 } with
    | .ok a t => a.kind == .hbm && a.a % 27 == 0 && !t.badLine a && !t.cutOff (e.core / 80) a && (t.snoopFirst false [a]).isNone &&
      (match (t.l2Request a (e.core / 4) 0).unitLoc e (wrapT 27 (wval c.x)) { Need.store with len := 27 } with
      | .ok b u => b.kind == .hbm && b.a % 27 == 0 && !u.badWhole b && !u.cutOff (e.core / 80) b && (u.snoopFirst true [b]).isNone && u.partialsOf b == []
      | _ => false)
    | _ => false

/-- A peer's write on its way. -/
def peerOut : State := en (fun r => { r with peers := [⟨[⟨word 0, ⟨.peer, 27⟩, [1, 2, 3]⟩], 0⟩] })
  (fun s => { s with grids := [{ foreignGrid s 0 l9 with id := 0 }] })

theorem witness_EngineUnitResults :
    (let c := cx (en id id);
      isOk (rowActs c c.mod.pred) (fun a => a) = true ∧
      (∀ y ∈ ([-2, -3, -1] : List Int), uniform c [y] = true ∧
        Free c false [src y] ((0 : Int) == 0 && (0 : Int) == 0 && (0 : Int) == 0 && (0 : Int) == 0 && rowSrcs c [y]) { p := true }) ∧
      (∀ z ∈ ([-2, -4, -9, -1] : List Int), uniform c [-3, z] = true ∧
        Free c false [dst (-8), src (-3), src z] ((0 : Int) == 0 && (0 : Int) == 0 && scaDst c (-8) && rowSrcs c [-3, z]) { p := true }) ∧
      -- masks 0 and 1, and one with other trits; bounds 0 and 81, and −1
      field (rdRow c (-2)) 9 18 = 0 ∧ (∀ i < 9, trit (rdRow c (-3)) i ≠ -1) ∧ (∃ i ∈ List.range 9, trit (rdRow c (-1)) i = -1) ∧
      rdRow c (-2) = 0 ∧ rdRow c (-4) = 81 ∧ rdRow c (-9) < 0 ∧ (∀ k < 9, (c.r.slot k).entries.length < 81) ∧
      (∀ k < 9, (c.r.slot k).outstanding ≤ 0) ∧ c.r.fails = [] ∧ c.r.escDue = [] ∧ c.r.escLost = []) ∧
    (let c := cx (en (withSlots [fullSlot]) id); 81 ≤ (c.r.slot 0).entries.length ∧ 0 < (c.r.slot 0).outstanding) ∧
    (∀ k ∈ [CmdKind.cpy, .gath, .peer], let s := en (withSlots [⟨[.cmd (cmd k false)], none⟩]) id
      (s.row? ⟨1, 0, 0⟩).bind (fun x => x.headCmd 0) = some (cmd k false) ∧ (s.gang? 1).map (·.status) = some .resident ∧
      (match s.env? ⟨1, 0, 0⟩, s.row? ⟨1, 0, 0⟩ with | some e, some x => s.earlierDone e x 0 | _, _ => false) = true) ∧
    (let s := en (fun r => withSlots [⟨[.cmd { cmd .cpy false with stamp := 9 }], none⟩] { r with fifo := [acc .store 0] }) id;
      (match s.env? ⟨1, 0, 0⟩, s.row? ⟨1, 0, 0⟩ with | some e, some x => s.earlierDone e x 9 | _, _ => true) = false) ∧
    (let s := en (withSlots [⟨[.cmd (cmd .cpy true)], none⟩]) id;
      endsIn s (cmd .cpy true) true = true ∧ copyGoes s (cmd .cpy true) = true ∧ (match s.env? ⟨1, 0, 0⟩ with | some e => s.olderCopy e (cmd .cpy true) | none => true) = false ∧ Memory.wf s.mem = true) ∧
    (let s := en (withSlots [⟨[.cmd { cmd .cpy true with stamp := 9 }], none⟩, ⟨[.cmd (cmd .cpy true)], none⟩]) id;
      (match s.env? ⟨1, 0, 0⟩ with | some e => s.olderCopy e { cmd .cpy true with stamp := 9 } | none => false) = true) ∧
    endsIn (en (withSlots [⟨[.cmd { cmd .cpy true with y := word (-27) }], none⟩]) id) { cmd .cpy true with y := word (-27) } false = true ∧
    (∀ b ∈ [false, true], let s := en (withSlots [⟨[.join 3], none⟩, ⟨(if b then [.cmd (cmd .cpy false)] else []) ++ [.join 3], none⟩]) id
      (s.row? ⟨1, 0, 0⟩).map (fun x => (x.slot 0).entries) = some [.join 3] ∧
      (s.row? ⟨1, 0, 0⟩).map (fun x => x.slots.all (fun y => !y.entries.contains (.join 3) || y.entries.head? == some (.join 3))) = some (!b)) ∧
    (collGoes (coll 1 1) = true ∧ collGoes (coll 2 0) = true ∧ collGoes (coll 3 0) = true) ∧
    (peerOut.row? ⟨1, 0, 0⟩).map (·.peers) = some [⟨[⟨word 0, ⟨.peer, 27⟩, [1, 2, 3]⟩], 0⟩] ∧ Memory.wf peerOut.peerMem = true ∧
    peerOut.partialsOf ⟨.peer, 27⟩ = [] ∧ (peerOut.grids.find? (fun h => h.id == 0)).map (·.reason) = some 0 ∧
    (peerOut.gang? 1).map (·.grid) = some 0 := by decide +kernel

/-! ### Privileged instructions, contexts -/

/-- A row of the management core: s0 a die or field, s1 a token of entry 0, s2 = 12, s3 an address, s4 a token of no entry, s5 the GID of a gang
on core 0, s6 a GID of none, s7 a save line; the gang in a state given. -/
def mg (g : Gang → Gang) (f : State → State) : State :=
  let s := mapped (st l9 960 1 2 (fun r => { r with sregs := [0, 729, 12, word 2700, 2, 2, 3, 200, word (-1)] }))
  f { s with
    gangs := s.gangs ++ [g { gang l9 0 1 2 id with gid := 2 }]
    dies := s.dies.set 0 { s.die 0 with waits := [⟨0, 1, true, 0, 1, 0, 0⟩] } }
theorem mg_issuing : Issuing (mg id id) (cx (mg id id)) := issuing_of _ (by decide +kernel)

theorem witness_PrivilegedResults :
    (let c := cx n9;
      c.core ≠ 960 ∧ (∀ q ∈ ([(true, true), (false, false), (false, true), (true, false)] : List (Bool × Bool)),
        let srcs : List Int := [-1] ++ (if q.2 then [-2] else [])
        Legal c false ((if q.1 then [dst (-9)] else []) ++ srcs.map src)
          (predOk 0 && (if q.1 then scaDst c (-9) else (0 : Int) == 0) && (q.2 || (0 : Int) == 0) && rowSrcs c srcs && c.r.pfx.isNone) {})) ∧
    (let s := mg id id;
      let c := cx s
      c.core = 960 ∧ isOk (rowActs c 0) (fun a => a) = true ∧ flagFull c.r c.e.fb = false ∧
      (∀ a ∈ ([-1, -3, -9] : List Int), ∀ b ∈ ([-2, -4, -5] : List Int), uniform c [a, b] = true ∧
        Free c false [dst (-9), src a, src b] (predOk 0 && scaDst c (-9) && rowSrcs c [a, b] && c.r.pfx.isNone) {}) ∧
      rdRow c (-1) = 0 ∧ rdRow c (-3) = 12 ∧ rdRow c (-9) = -1 ∧ field (rdRow c (-2)) 9 18 = 0 ∧ field (3 ^ 9) 9 18 ≠ 0 ∧
      (s.tokenEntry 0 (rdRow c (-2))).isSome = true ∧ s.tokenEntry 0 (rdRow c (-5)) = none ∧
      s.pageEntries 0 (rdRow c (-4)) = [(0, 0)] ∧
      Free c false [src (-1)] (predOk 0 && (0 : Int) == 0 && (false || (0 : Int) == 0) && rowSrcs c [-1] && c.r.pfx.isNone) {} ∧
      Free c false [src (-1), src (-4)] (predOk 0 && (0 : Int) == 0 && (true || (0 : Int) == 0) && rowSrcs c [-1, -4] && c.r.pfx.isNone) {} ∧
      Free c false [src (-3)] (predOk 0 && (0 : Int) == 0 && (false || (0 : Int) == 0) && rowSrcs c [-3] && c.r.pfx.isNone) {} ∧ uniform c [-3] = true) := by
  decide +kernel

/-- The same row with a TLBI of field 0, of all of it or of one address, before or after its removals, its release met or not. -/
def tl (va : Option Word) (rel : Bool) (done : Option Nat) : State := mg id (fun s => s.modRow ⟨1, 0, 0⟩ (fun r => { r with
  tlbis := [⟨0, va, 2, 4, done⟩], flags := [0, 1] ++ List.replicate 10 0, fifo := if rel then [acc .mark 4] else [] }))
def tlReady (va : Option Word) (rel : Bool) (d : Option Nat) : Bool :=
  let s := tl va rel d
  (s.row? ⟨1, 0, 0⟩).map (fun x => (x.tlbis, x.parks, x.rels)) == some ([⟨0, va, 2, 4, d⟩], [], []) &&
    (s.gang? 1).map (fun g => g.absent) == some false && s.releaseMetAt ⟨1, 0, 0⟩ 4 == !rel
/-- Its removals made, and no access, or one, under an old mapping. -/
def tlOld (va : Option Word) : Bool :=
  let s := tl va false (some 9)
  let t := s.modRow ⟨1, 0, 0⟩ (fun r => { r with loads := [acc .load 5] })
  let o : TlbiOp := ⟨0, va, 2, 4, some 9⟩
  !s.usingOld 0 o.range 9 && s.movingLines 0 o.range == [] && t.usingOld 0 o.range 9 && t.releaseMetAt ⟨1, 0, 0⟩ 4
theorem witness_PrivilegedResults_tlbi :
    ([none, some (word 2700)] : List (Option Word)).all (fun va => tlOld va &&
      [false, true].all (fun rel => ([none, some 9] : List (Option Nat)).all (tlReady va rel))) = true := by decide +kernel

/-- A gang that a CTXS waits on. -/
def saving (port : Bool) (g : Gang) : Gang := { g with saveTo := some ⟨⟨1, 0, 0⟩, -9, 2, false, List.range 9⟩, saveLine := 200, portHalt := port }
def allEnded (g : Gang) : Gang := { g with blocks := g.blocks.map (fun b => { b with rows := b.rows.map (fun r => { r with ended := true }) }) }
def allHeld (g : Gang) : Gang := { g with blocks := g.blocks.map (fun b => { b with rows := b.rows.map (fun r =>
  { r with pct := r.pct.map (fun e => { e with park := true }) }) }) }

/-- The 36 words of a header of an image of gang 2 at device line 200 (5400): its device, kind and length; and the memory that holds it. -/
def imageWs (revId serial : Word) (kind : Int) : List Word := [word saveMagic, revId, serial, 2, word kind, 4, 0, 0, 0] ++ List.replicate 27 0
def imageMem (revId serial : Word) (kind : Int) : List (Nat × Tryte) :=
  (List.range' 0 108).map (fun i => (5400 + i, tryteOfWord ((imageWs revId serial kind).getD (i / 3) 0) (i % 3)))
def imaged (revId serial : Word) (kind : Int) (f : Gang → Gang) : State := mg f (fun s => { s with mem := imageMem revId serial kind })

theorem witness_ContextResults :
    (let s := mg id id;
      let c := cx s
      (∀ a ∈ ([-6, -7] : List Int), uniform c [a, -8] = true ∧
        Free c false [dst (-9), src a, src (-8)] (predOk 0 && scaDst c (-9) && rowSrcs c [a, -8] && c.r.pfx.isNone) {}) ∧
      Free c false [dst (-9), src (-8)] (predOk 0 && scaDst c (-9) && (0 : Int) == 0 && rowSrcs c [-8] && c.r.pfx.isNone) {} ∧
      s.gang? (word (rdRow c (-7))) = none ∧ (s.gang? (word (rdRow c (-6)))).map (fun g => (g.status, g.saveTo.isSome, g.rowsOver, g.lrec.gangs)) =
        some (.resident, false, false, 1) ∧
      nativeBound l9 ≤ (s.areaLines 0 (rdRow c (-8)) (nativeBound l9)).length ∧
      portableBound l9 ≤ (s.areaLines 0 (rdRow c (-8)) (portableBound l9)).length ∧ (s.areaLines 0 (rdRow c (-9)) 4).length < 4 ∧
      s.header (-1) = none ∧ ((s.header 200).map (fun q => hdrW q.2 0)) = some 0 ∧ (0 : Int) ≠ saveMagic) ∧
    (let s := imaged 0 0 1 (fun g => { g with status := .saved });
      (s.header 200).map (fun q => (hdrW q.2 0 == saveMagic, hdrKind q.2, decide (hdrW q.2 5 ≤ (portableBound (hdrRec q.2) : Int)))) = some (true, 1, true)) ∧
    (∀ port ∈ [false, true], let s := mg (fun g => (if port then allHeld else id) (saving port g)) id
      (s.gang? 2).map (fun g => (g.gid, g.status, g.saveTo.isSome, g.portReady || !g.portHalt)) = some (2, .resident, true, true)) ∧
    -- the halt of a gang that is being placed, and of rows that have ended or not
    (∀ e ∈ [false, true], let s := mg (fun g => (if e then allEnded else id) (saving false g)) id
      (s.row? ⟨2, 0, 0⟩).map (·.ended) = some e ∧ (s.gang? 2).map (fun g => (g.gid, g.status, g.saveTo.isSome, g.portHalt)) = some (2, .resident, true, false)) ∧
    ((mg (fun g => { g with status := .waking }) id).gang? 2).map (fun g => (g.status, g.saveTo.isSome, g.rowsOver)) = some (.waking, false, false) ∧
    (let s := mg (saving true) id;
      (s.gang? 2).map (fun g => (g.gid, g.status, g.saveTo.isSome, g.portHalt, g.portReady, decide (g.deadline ≤ s.gangCyc g))) =
        some (2, .resident, true, true, false, true)) ∧
    ((mg (fun g => { saving true g with deadline := 1 }) id).gang? 2).map
      (fun g => decide ((mg (fun g => { saving true g with deadline := 1 }) id).gangCyc g < g.deadline)) = some true ∧
    ((mg (fun g => allEnded { saving false g with status := .halting }) id).gang? 2).map (fun g => (g.gid, g.status, g.rowsOver, g.mgmt)) =
      some (2, .halting, true, false) ∧
    (let s := mg (fun g => { saving false g with status := .halting }) id;
      (s.gang? 2).map (fun g => (g.gid, g.status, g.rowsOver, s.gangDrained g, g.portHalt, g.mgmt, g.blocks.all (fun b => b.partials == []))) =
        some (2, .halting, false, true, false, false, true) ∧ s.hostLines = [] ∧ s.dies.all (fun d => d.fallow != 3) = true ∧ Memory.wf s.mem = true ∧
      (s.areaLines 0 200 (nativeBound l9)).head? = some 200) ∧
    (∃ x c, (st l9 0 1 2 (fun r => { r with stall := 3 ^ 21, wait := some ⟨1, 3, 0, none⟩ })).row? ⟨1, 0, 0⟩ = some x ∧
      (st l9 0 1 2 (fun r => { r with stall := 3 ^ 21, wait := some ⟨1, 3, 0, none⟩ })).ctxBy ⟨1, 0, 0⟩ stallHead = some c ∧ 3 ^ 21 ≤ x.stall ∧
      c.blocked = false) ∧
    (∃ x c, n9.row? ⟨1, 0, 0⟩ = some x ∧ n9.ctxBy ⟨1, 0, 0⟩ stallHead = some c ∧ x.stall < 3 ^ 21) := by
  and_intros
  any_goals decide +kernel
  all_goals exact ⟨_, _, rfl, rfl, by decide +kernel⟩

theorem word_of_trytes (w : Word) : wordFrom (tryteOfWord w 0) (tryteOfWord w 1) (tryteOfWord w 2) = w := by
  have h := w.isLt
  apply Fin.ext
  simp only [wordFrom, tryteOfWord, elem, field, wrapT, tval, tryte, word, wval]
  norm_num
  split <;> omega
theorem amGet_run (c : Nat) (g : Nat → Tryte) (n : Nat) : ∀ b k, b ≤ k → k < b + n →
    amGet 0 ((List.range' b n).map (fun i => (c + i, g i))) (c + k) = g k := by
  induction n with
  | zero => intro b k h1 h2; omega
  | succ n ih =>
    intro b k h1 h2
    rw [List.range'_succ, List.map_cons, amGet]
    by_cases h : b = k
    · subst h; simp
    · rw [if_neg (by omega), ih (b + 1) k (by omega) (by omega)]
theorem devLine_words (s : State) (n : Nat) : s.devLine n = (List.range 9).map (fun j => wordFrom
    (amGet 0 s.mem (27 * n + 3 * j)) (amGet 0 s.mem (27 * n + (3 * j + 1))) (amGet 0 s.mem (27 * n + (3 * j + 2)))) := by
  refine List.map_congr_left (fun j hj => ?_)
  have hj := List.mem_range.1 hj
  interval_cases j <;> rfl
theorem take_words (l : List Word) (n : Nat) (h : 9 * n + 9 ≤ l.length) :
    (List.range 9).map (fun j => l.getD (9 * n + j) 0) = (l.drop (9 * n)).take 9 := by
  apply List.ext_getElem
  · simp; omega
  · intro k h1 h2
    simp at h1
    simp [List.getElem?_eq_getElem (show 9 * n + k < l.length by omega)]
theorem mg_mem (g : Gang → Gang) (m : List (Nat × Tryte)) : (mg g (fun s => { s with mem := m })).mem = m := rfl
theorem imaged_line (a b : Word) (g : Gang → Gang) : ∀ n < 4,
    (imaged a b 0 g).devLine (200 + n) = ((imageWs a b 0).drop (9 * n)).take 9 := by
  intro n hn
  have lw := devLine_words (imaged a b 0 g) (200 + n)
  rw [show (imaged a b 0 g).mem = imageMem a b 0 from mg_mem g _] at lw
  have hw : ∀ j ∈ List.range 9, wordFrom (amGet 0 (imageMem a b 0) (27 * (200 + n) + 3 * j))
      (amGet 0 (imageMem a b 0) (27 * (200 + n) + (3 * j + 1))) (amGet 0 (imageMem a b 0) (27 * (200 + n) + (3 * j + 2))) =
      (imageWs a b 0).getD (9 * n + j) 0 := by
    intro j hj
    have hj := List.mem_range.1 hj
    have q := fun k (hk : k < 108) => amGet_run 5400 (fun i => tryteOfWord ((imageWs a b 0).getD (i / 3) 0) (i % 3)) 108 0 k (by omega) (by omega)
    have h0 := q (27 * n + 3 * j) (by omega)
    have h1 := q (27 * n + (3 * j + 1)) (by omega)
    have h2 := q (27 * n + (3 * j + 2)) (by omega)
    unfold imageMem
    rw [show 27 * (200 + n) + 3 * j = 5400 + (27 * n + 3 * j) by omega, show 27 * (200 + n) + (3 * j + 1) = 5400 + (27 * n + (3 * j + 1)) by omega,
      show 27 * (200 + n) + (3 * j + 2) = 5400 + (27 * n + (3 * j + 2)) by omega, h0, h1, h2,
      show (27 * n + 3 * j) / 3 = 9 * n + j by omega, show (27 * n + (3 * j + 1)) / 3 = 9 * n + j by omega,
      show (27 * n + (3 * j + 2)) / 3 = 9 * n + j by omega, show (27 * n + 3 * j) % 3 = 0 by omega,
      show (27 * n + (3 * j + 1)) % 3 = 1 by omega, show (27 * n + (3 * j + 2)) % 3 = 2 by omega]
    exact word_of_trytes _
  rw [lw, List.map_congr_left hw, take_words _ _ (by show 9 * n + 9 ≤ 36; omega)]
theorem imaged_header (a b : Word) (g : Gang → Gang) : (imaged a b 0 g).header 200 = some (0, imageWs a b 0) := by
  have hl := imaged_line a b g
  have h0 := hl 0 (by decide); have h1 := hl 1 (by decide); have h2 := hl 2 (by decide); have h3 := hl 3 (by decide)
  have ha : (imaged a b 0 g).areaLines 0 200 4 = [200, 201, 202, 203] := by
    have h : (imaged a b 0 g).areaLines 0 200 4 = State.reset.areaLines 0 200 4 := rfl
    rw [h]; decide +kernel
  have hg : gidField (wval (((imaged a b 0 g).devLine (200 : Int).toNat).getD 3 0)) = some 0 := by
    rw [show (200 : Int).toNat = 200 + 0 from rfl, h0]
    show gidField (wval 2) = some 0
    decide +kernel
  have hi : (imaged a b 0 g).imageWords 0 200 4 = imageWs a b 0 := by
    simp only [State.imageWords, ha, List.flatMap_cons, List.flatMap_nil]
    rw [show (200 : Nat) = 200 + 0 from rfl, show (201 : Nat) = 200 + 1 from rfl, show (202 : Nat) = 200 + 2 from rfl,
      show (203 : Nat) = 200 + 3 from rfl]
    rw [h0, h1, h2, h3]; rfl
  unfold State.header
  rw [if_pos (by decide), hg]
  show (if ((imaged a b 0 g).imageWords 0 200 4).length = 36 then some (0, (imaged a b 0 g).imageWords 0 200 4) else none) = _
  rw [hi]; rfl
/-- A native image of this device, whose gang is saved or not. -/
theorem witness_ContextResults_native (st : GangState) : let s := imaged Config.revId Config.serial 0 (fun g => { g with status := st })
    let h := imageWs Config.revId Config.serial 0
    s.header 200 = some (0, h) ∧ hdrW h 0 = saveMagic ∧ hdrKind h = 0 ∧ hdrW h 5 ≤ (nativeBound (hdrRec h) : Int) ∧
      h.getD 1 0 = Config.revId ∧ h.getD 2 0 = Config.serial ∧ (s.gang? (hdrGid h)).isSome = true ∧
      (∀ x ∈ s.gangs, x.gid = hdrGid h → x.status = st) ∧ rdRow (cx (mg id id)) (-8) = 200 := by
  refine ⟨imaged_header _ _ _, rfl, rfl, le_trans (le_of_eq (rfl : _ = (4 : Int))) (by unfold nativeBound; omega), rfl, rfl, rfl, ?_, by decide +kernel⟩
  intro x hx hg
  rcases List.mem_cons.1 hx with h | h
  · subst h; exact absurd hg (by decide +kernel)
  · rw [List.mem_singleton.1 h]

/-- A grid of field 0 with so many gangs; its queue, deps and others at their first values. -/
def gr (gangs : Int) : Grid :=
  { id := 0, fld := 0, q := 0, prio := 0, lrec := ⟨l9.words.set 4 (word gangs)⟩, recAddr := word 2700, consts := [], deps := [true, true, true]
    placed := 0, finished := 0, reason := 0, ended := false, armed := true, gridDone := false }

/-! ### Homes, the host's accesses, links, bring-up, firmware, host registers -/

/-- A state whose L2 holds line 100 (5400 / 54, at tryte 2700). -/
def lx (x : L2Line) (m : List (Nat × Tryte)) (f : State → State) : State := f { mapped State.reset with mem := m, l2 := [x] }
def l2x (dirty c : Bool) : L2Line := ⟨100, 3, dirty, c, 0, 0, 9⟩
/-- The nine words of line 100 are `a`, but for the last, which is `b`. -/
def lineMem (a b : Int) : List (Nat × Tryte) :=
  ((List.range 9).flatMap (fun k => (List.range 3).map (fun j => (2700 + 3 * k + j, tryteOfWord (word (if k = 8 then b else a)) j)))).filter
    (fun q => q.2 != 0)

theorem nearestSlice_mem (quad : Nat) : ∀ (l : List Nat) (t : Nat), nearestSlice quad l = some t → t ∈ l := by
  intro l
  induction l with
  | nil => intro t h; simp [nearestSlice] at h
  | cons x r ih =>
    intro t h
    unfold nearestSlice at h
    cases hr : nearestSlice quad r with
    | none => simp [hr] at h; simp [h]
    | some y =>
      simp only [hr] at h
      split at h
      · simp at h; simp [h]
      · simp at h; subst h; exact List.mem_cons_of_mem _ (ih _ hr)
theorem nearestSlice_some (quad x : Nat) (r : List Nat) : ∃ t, nearestSlice quad (x :: r) = some t := by
  unfold nearestSlice
  cases nearestSlice quad r with
  | none => exact ⟨_, rfl⟩
  | some y => by_cases h : Config.sliceHops (quad % 20) x ≤ Config.sliceHops (quad % 20) y <;> simp [h]

/-- Line 100 stands at a slice of group 1, of which field 0 owns none: it migrates. -/
def x16 : L2Line := ⟨100, 16, false, false, 0, 0, 9⟩
def mig (own : Int) : State := lx x16 [] (fun s => { s with groups := ⟨own, 0⟩ :: List.replicate 191 ⟨-1, 0⟩ })
theorem mig_migrates : ∃ k, (mig 0).migrateTo x16 = some k := by
  have hd : hbmDie (lineAddr 100).a = 0 := by decide +kernel
  have hs : (mig 0).slicesOf ((mig 0).lineOwner (lineAddr 100)) 0 = 0 :: (List.range 15).map (· + 1) := by decide +kernel
  obtain ⟨t, ht⟩ := nearestSlice_some 0 0 ((List.range 15).map (· + 1))
  have hne : t ≠ 16 := fun h => absurd (nearestSlice_mem 0 _ t ht) (by subst h; decide)
  have h2 : ((mig 0).marks (lineAddr 100)).isEmpty = true := by decide +kernel
  have h3 : (mig 0).pinned 100 = false := by decide +kernel
  have hf : ∀ t', (mig 0).forwardsAt 0 t' = 0 := fun _ => rfl
  refine ⟨t, ?_⟩
  simp only [State.migrateTo, show x16.line = 100 from rfl, show x16.quad = 0 from rfl, show x16.run = 9 from rfl,
    show x16.slice = 16 from rfl, hd, hs, ht, hf, h2, h3]
  simp [forwardCap, hne]

/-- The words of line 100. -/
def ws100 (a b : Int) : List Word := lineWords ((lx (l2x true true) (lineMem a b) id).lineAt (lineAddr 100))
theorem ws100_same : ws100 0 0 = List.replicate 9 0 ∧ ws100 5 5 = List.replicate 9 (word 5) := by decide +kernel
theorem ws100_near : ws100 (-9841) 9841 = List.replicate 8 (word (-9841)) ++ [word 9841] := by decide +kernel
theorem ws100_far : ws100 (-9842) 9841 = List.replicate 8 (word (-9842)) ++ [word 9841] := by decide +kernel

/-- A pinned line is never the next of its slice or set. -/
theorem pinned_stays (s : State) (x : L2Line) (h : s.pinned x.line = true) : s.mayReplace x = false := by
  have key (xs : List L2Line) : s.l2Victim xs ≠ some x := by
    intro hv
    have hm : x ∈ xs.filter (fun x => !s.pinned x.line) := by
      unfold State.l2Victim at hv
      dsimp only at hv
      split at hv
      · rename_i he; cases hv; exact List.mem_of_find?_eq_some he
      · split at hv
        · rename_i he; cases hv; exact List.mem_of_find?_eq_some he
        · exact List.mem_of_mem_head? hv
    simp [h] at hm
  simp [State.mayReplace, key]
theorem witness_HomeHostResults_stays :
    (lx (l2x true true) [] (fun s => { s with dies := s.dies.map (fun (d : DieSt) => { d with service := 1 }) })).mayReplace (l2x true true) = false :=
  pinned_stays _ _ (by decide +kernel)

/-- Its group's tag line stands in a sector that no code repairs. -/
theorem witness_HomeHostResults_lost : let s := lx (l2x true true) [] (fun s => { s with tagHits := [(groupOf 100, List.replicate 80 7)] })
    s.tagLost 3 (groupOf 100) = true ∧ s.mayReplace (l2x true true) = true ∧ (s.die (100 / dieLines)).service ≠ 1 := by decide +kernel
/-- An access that waits on the line's snoop and on no other. -/
theorem witness_HomeHostResults_waits : let w : Act × Nat := (.event (.pageWalk 0 0 0), 5)
    let s : State := { mapped State.reset with hostLines := [⟨100, 2, 1, 0, false, [w]⟩, ⟨101, 2, 1, 0, false, [(.held, 0)]⟩] }
    let e := s.hostEntry (lineAddr 100)
    e.snoop ≠ 0 ∧ e.again = false ∧ e.waiting = [w] ∧ s.hostQueue = [] ∧
      (∀ x ∈ s.hostLines, x.line ≠ 100 → x.snoop ≠ 0 → w ∉ x.waiting) := by decide +kernel

theorem witness_HomeHostResults :
    (∀ n ∈ ([0, 11999999999] : List Nat), State.reset.l2.find? (fun x => x.line == n) = none) ∧
    (∀ dc ∈ ([(true, true), (true, false), (false, true), (false, false)] : List (Bool × Bool)),
      ∀ m ∈ ([(0, 0), (5, 5), (0, 19682), (9841, -9841), (0, 19683), (-9842, 9842)] : List (Int × Int)),
      let s := lx (l2x dc.1 dc.2) (lineMem m.1 m.2) id
      s.l2.find? (fun x => x.line == 100) = some (l2x dc.1 dc.2) ∧ (s.die (100 / dieLines)).service ≠ 1 ∧
        (s.tagsAt 3 (groupOf 100)).tags.length = 81 ∧ (s.tagsAt 3 (groupOf 100)).consts.length = 3 ∧ (s.tagsAt 3 (groupOf 100)).group = groupOf 100 ∧
        hbmDie (lineAddr 100).a = 0 ∧ s.tagLost 3 (groupOf 100) = false ∧
        s.mayReplace (l2x dc.1 dc.2) = true ∧ amWf [] s.sectors = true ∧ (lineAddr 100).a ∉ s.failing) ∧
    (let ws := ws100;
      (∀ w ∈ ws 0 0, w = 0) ∧ (∀ w ∈ ws 5 5, w = word 5) ∧ word 5 ≠ 0 ∧
        ((lx (l2x true true) (lineMem 5 5) id).tagsAt 3 (groupOf 100)).slotFor (word 5) = some 0 ∧
      (∃ w ∈ ws (-9841) 9841, ∃ v ∈ ws (-9841) 9841, w ≠ v) ∧ (∀ w ∈ ws (-9841) 9841, ∀ v ∈ ws (-9841) 9841, wval w - wval v ≤ 19682) ∧
      (∃ w ∈ ws (-9842) 9841, ∃ v ∈ ws (-9842) 9841, 19682 < wval w - wval v)) ∧
    ((lx (l2x true true) [] (fun s => { s with dies := s.dies.map (fun (d : DieSt) => { d with service := 1 }) })).die (100 / dieLines)).service = 1 ∧
    (mig 1).migrateTo x16 = none ∧ (∃ k, (mig 0).l2.find? (fun x => x.line == 100) = some x16 ∧ (mig 0).migrateTo x16 = some k) := by
  obtain ⟨k, hk⟩ := mig_migrates
  refine ⟨by decide +kernel, by decide +kernel, ?_, by decide +kernel, by decide +kernel, k, by decide +kernel, hk⟩
  simp only [ws100_same.1, ws100_same.2, ws100_near, ws100_far]
  refine ⟨fun w h => List.eq_of_mem_replicate h, fun w h => List.eq_of_mem_replicate h, by decide +kernel, by decide +kernel,
    ⟨word (-9841), by simp, word 9841, by simp, by decide +kernel⟩, fun w hw v hv => ?_,
    ⟨word 9841, by simp, word (-9842), by simp, by decide +kernel⟩⟩
  have q : ∀ x ∈ List.replicate 8 (word (-9841)) ++ [word 9841], -9841 ≤ wval x ∧ wval x ≤ 9841 := by
    intro x hx
    rcases List.mem_append.1 hx with h | h
    · rw [List.eq_of_mem_replicate h]; decide +kernel
    · rw [List.mem_singleton.1 h]; decide +kernel
  have := q w hw; have := q v hv; omega

/-- Line 100 with an entry, in a mode of the host link, owned by field 0 or by none, failing or not. -/
def hx (mode : Int) (owner : Int) (bad : Bool) (e : List HostLine) : State :=
  { mapped State.reset with
    chans := List.replicate 384 ⟨owner, 0⟩, hostLines := e, failing := if bad then [2700] else []
    host := { HostRegs.reset with linkMode := word mode } }

theorem witness_HomeHostResults_host :
    (∀ want ∈ ([0, 1, 2] : List Nat), ∀ mode ∈ ([0, 1] : List Int), ∀ bad ∈ [false, true], ∀ owner ∈ ([0, -1] : List Int),
      let s := hx mode owner bad []
      s.hostWaits (.read 100 want) = false ∧ s.hubCut (lineAddr 100) = false ∧ s.needsFill (lineAddr 100) = false ∧ s.badLine (lineAddr 100) = (bad || false) ∧ s.lineOwner (lineAddr 100) = owner ∧
        (s.hostEntry (lineAddr 100)).snoop = 0 ∧ s.watched (lineAddr 100) = false) ∧
    (∀ n ∈ ([0, 11999999999] : List Nat), n < 12 * dieLines ∧ (hx 1 0 false []).hostWaits (.read n 2) = false) ∧
    (∀ bs ∈ ([hostBytes (List.replicate 27 0), List.replicate 64 0, List.replicate 64 255] : List (List Nat)), ∀ inv ∈ [false, true],
      let s := hx 1 0 false []
      bs.length = 64 ∧ (∀ b ∈ bs, b ≤ 255) ∧ s.hostWaits (.write 100 bs inv) = false ∧ s.lineOwner (lineAddr 100) ≠ -1 ∧
        s.badWhole (lineAddr 100) = false ∧ Memory.wf s.mem = true ∧ s.hubCut (lineAddr 100) = false) ∧
    -- a link to the hub that has failed cuts its centre die off
    (let s : State := { hx 1 0 false [] with links := List.replicate 72 ({ LinkEnd.reset with state := -1 }, LinkEnd.reset) };
      s.hubCut (lineAddr 100) = true ∧ s.hostWaits (.read 100 1) = false ∧ s.hostWaits (.write 100 [] true) = false) ∧
    -- a line whose group's tag line stands in HBM is read from there
    (hx 1 0 false [] |> fun s => ({ s with tags := [⟨groupOf 100, List.replicate 81 (-1), [0, 0, 0]⟩] } : State).needsFill (lineAddr 100)) = true ∧
    blockOk (hostBytes (List.replicate 27 0)) = true ∧ blockOk (List.replicate 64 255) = false ∧
    (hx 1 0 false []).hostQueue = [] ∧ ((hx 1 0 false []).hostEntry (lineAddr 100)).snoop = 0 ∧
    (∀ k ∈ ([1, 2] : List Nat), ((hx 1 0 false [⟨100, 2, k, 0, false, []⟩]).hostEntry (lineAddr 100)).snoop = k ∧
      ((hx 1 0 false [⟨100, 2, k, 0, false, []⟩]).hostEntry (lineAddr 100)).again = false) ∧
    (∀ q ∈ ([(1, 1), (1, 2), (2, 2)] : List (Nat × Nat)), ((hx 1 0 false [⟨100, q.2, q.1, 0, true, []⟩]).hostEntry (lineAddr 100)).again = true) := by
  decide +kernel

/-- A flit of a kind with a SEQ and an ACK, and one whose check is wrong. -/
def flit (kind seq ack : Nat) : List Nat :=
  let body := leBytes 6 (seq + ack * 2 ^ 12 + kind * 2 ^ 24) ++ (packLine (List.replicate 27 0)).take 54
  body ++ leBytes 4 (crc32c body)
def badFlit (seq : Nat) : List Nat := leBytes 6 (seq + 2 ^ 24) ++ List.replicate 58 0
/-- Every end in a state; `retr` retrainings; the SEQ that failed last, and how often. -/
def lk (st wid : Int) (retr badSeq badRun : Nat) (nak : Bool) : State :=
  let e : LinkEnd := { LinkEnd.reset with
    state := st, wid := wid, retr := retr, expected := 5, badSeq := badSeq, badRun := badRun, nakOut := nak
    buffer := [(0, flit 1 0 0), (1, flit 1 1 0)] }
  { State.reset with links := List.replicate 72 (e, e), coluri := List.replicate 18 e }

theorem witness_LinkResults :
    (∀ q ∈ ([(0, 0), (71, 1), (72, 0), (89, 0)] : List (Nat × Nat)),
      let s := lk 1 1 0 0 0 false
      ((q.1 < 72 ∧ q.1 < s.links.length ∧ q.2 < 2) ∨ (72 ≤ q.1 ∧ q.1 < 90 ∧ q.1 - 72 < s.coluri.length ∧ q.2 = 0)) ∧
        (s.linkEnd q.1 q.2).state = 1 ∧ (s.linkEnd q.1 q.2).expected = 5 ∧ (State.reset.linkEnd q.1 q.2).state ≠ 1) ∧
    (∀ k ∈ ([1, 2, 3] : List Nat), flitOk (flit k 5 1) = true ∧ flitKind (flit k 5 1) = k ∧ flitSeq (flit k 5 1) = 5 ∧
      flitOk (flit k 2053 1) = true ∧ flitSeq (flit k 2053 1) ≠ 5 ∧ (5 + 4096 - flitSeq (flit k 2053 1)) % 4096 ≤ 2048 ∧
      (5 + 4096 - flitSeq (flit k 4 1)) % 4096 ≤ 2048) ∧
    flitOk (flit 0 0 3) = true ∧ flitKind (flit 0 0 3) = 0 ∧
    flitOk (badFlit 5) = false ∧ flitSeq (badFlit 5) = 5 ∧ flitSeq (badFlit 6) ≠ 5 ∧ flitOk (badFlit 6) = false ∧
    ((lk 1 1 0 0 0 false).linkEnd 3 0).crce < 9841 ∧ ((lk 1 1 0 0 0 false).linkEnd 3 0).nakOut = false ∧
    ((lk 1 1 0 5 2 false).linkEnd 3 0).badSeq = 5 ∧ 2 ≤ ((lk 1 1 0 5 2 false).linkEnd 3 0).badRun ∧
    (∀ wid ∈ ([-1, 1] : List Int), ∀ l ∈ ([3, 71, 80] : List Nat),
      ((lk 0 wid 1 0 0 false).linkEnd l 0).state = 0 ∧ ((lk 0 wid 1 0 0 false).linkEnd l 0).retr ≠ 0 ∧
      ((lk 0 wid 1 0 0 false).linkEnd l 0).wid = wid) ∧
    (∀ k ∈ ([0, 243] : List Nat), ∀ q ∈ ([⟨1, 0, 7, List.replicate 27 0⟩, ⟨2, 1, 7, List.replicate 27 0⟩] : List FlitReq),
      (let s : State := { lk 1 1 0 0 0 false with links := List.replicate 72 ({ (lk 1 1 0 0 0 false).linkEnd 3 0 with queue := [q], credits := (k, k) }, LinkEnd.reset) };
        (s.linkEnd 3 0).state = 1 ∧ (s.linkEnd 3 0).nextFlit = if k = 0 then none else some q)) ∧
    ((lk 1 1 1 0 0 false).linkEnd 3 0).state ≠ 0 ∧ ((lk 0 1 0 0 0 false).linkEnd 3 0).retr = 0 := by decide +kernel

/-- Every die in a state. -/
def bu (d : DieSt) (f : State → State) : State := f { State.reset with dies := List.replicate 12 d }

theorem witness_BringupResults :
    (∀ die ∈ ([0, 11] : List Nat), die < State.reset.dies.length ∧ (State.reset.die die).service = 0 ∧ (State.reset.die die).hbm = 0 ∧
      (State.reset.die die).hot = false) ∧ State.reset.halted = false ∧ State.reset.power = false ∧
    (∀ die ∈ ([0, 11] : List Nat),
      let s : State := { lk 1 1 0 0 0 false with dies := List.replicate 12 { DieSt.reset with service := 1, hbm := 1 } };
      (s.die die).service = 1 ∧ (s.die die).hbm = 1 ∧ (∀ l ∈ dieLinks die, s.linkState l = 1)) ∧
    ((bu { DieSt.reset with service := 2, hbm := -1, hot := true } id).die 3).service ≠ 1 ∧
    ((bu { DieSt.reset with service := 1, hbm := -1, hot := true } id).die 3).hbm ≠ 1 ∧
    ((bu { DieSt.reset with service := 1, hbm := 1, hot := true } id).die 3).hot = true ∧
    (∃ l ∈ dieLinks 1, (linkDies l).2 = 12 ∧ State.reset.linkState l ≠ 1) ∧
    (bu DieSt.reset (fun s => { s with power := true })).power = true ∧ (bu DieSt.reset (fun s => { s with halted := true })).halted = true ∧
    (∀ l ∈ ([0, 71, 72, 89] : List Nat), (State.reset.linkEnd l 0).state = 0 ∧ (State.reset.linkEnd l 0).retr = 0) ∧
    (let s : State := { n9 with grids := [gr 1] };
      (∃ g ∈ s.gangs, g.grid = 0 ∧ g.absent = false) ∧ s.halted = false ∧ (s.grids.find? (fun y => y.id == 0)).isSome = true) := by
  decide +kernel

/-- Firmware in a mode, RECCTL and slot state. -/
def fws (mode recctl : Int) (torn : Bool) : State := { State.reset with fw := ⟨mode, [7], [1], [], 0, recctl, 0, none, torn⟩ }
theorem witness_FirmwareResults : State.reset.fw.mode ≠ -1 ∧ (fws (-1) 0 false).fw.mode = -1 ∧ (fws (-1) 0 false).fw.recctl ≠ 1 ∧
    (fws (-1) 1 true).fw.recctl = 1 ∧ (fws (-1) 1 true).fw.torn = true ∧ (fws 1 0 false).fw.torn = false := by decide +kernel

/-- Whether the lines that a field's words need are ready does not depend on what waits for them. -/
theorem fieldAwait_all {s : State} {f : Nat} {r w : List Int} (h : (s.fieldAwait (.event .powerTrip) f r w).isNone = true) (a : Act) :
    s.fieldAwait a f r w = none := by
  unfold State.fieldAwait at h ⊢
  dsimp only at h ⊢
  split at h <;> simp_all
theorem tablesAwait_all {s : State} {f : Nat} {l : List Int} (h : (s.tablesAwait (.event .powerTrip) f l).isNone = true) (a : Act) :
    s.tablesAwait a f l = none := by
  unfold State.tablesAwait at h ⊢
  simpa using h
/-- A field's words are ready. -/
def ready (s : State) (f : Nat) (r w : List Int) : Bool := (s.fieldAwait (.event .powerTrip) f r w).isNone

/-- Host registers changed in a mapped state. -/
def hr (f : HostRegs → HostRegs) (m : List (Nat × Tryte)) : State := { mapped State.reset with host := f HostRegs.reset, mem := m }
/-- The coordinates at KEYADR = 100. -/
def keyWords (m : List (Nat × Tryte)) : List Word :=
  let s := hr (fun h => { h with keyadr := word 100 }) m
  (s.devLine 100 ++ s.devLine 101).take 14

theorem witness_HostRegisterResults :
    (let s := hr (fun h => { h with vffield := h.vffield.set 3 2, vfon := h.vfon.set 3 true }) [];
      (4 % 8 ≠ 0 ∧ (-2 : Int) < -1 ∧ (127 : Int) < 128 ∧ s.fnField 5 = none ∧ (3 : Int) ≠ -1 ∧ 0x100 ≤ 0x100) ∧
      (∀ fn ∈ ([-1, 3] : List Int), -1 ≤ fn ∧ fn ≤ 127 ∧ (s.fnField fn).isSome = true ∧ s.host.fns.length = 129) ∧
      s.host.vfon.getD 3 false = true ∧ s.host.vfon.getD 127 false = false ∧ 127 < s.host.vffield.length ∧
      3 < s.host.vfon.length ∧ s.host.vffield.getD 3 (-1) ≠ -1 ∧ s.host.vffield.getD 4 (-1) = -1 ∧ 127 + 1 < s.host.fns.length ∧
      11 < s.fields.length ∧ (∀ f < 12, ¬∃ g ∈ s.gangs, g.fld = f) ∧ 26 < s.host.windows.length ∧ 11 < s.host.cecnt.length ∧
      71 < s.links.length) ∧
    (∃ g ∈ n9.gangs, g.fld = 0) ∧
    (∀ q ∈ ([(1, 0, 2, 1), (3, 0, 2, 3), (0, 0, 2, 0), (3 ^ 8, 8, 2, 1), (3 * 3 ^ 8, 8, 2, 3), (11, 0, 4, 11), (0, 0, 4, 0), (-1, 0, 4, -1),
        (12, 0, 4, 12), (-1 * 3 ^ 8, 8, 2, -1)] : List (Int × Nat × Nat × Int)), field (wrapT 27 q.1) q.2.1 q.2.2.1 = q.2.2.2) ∧
    (∀ x ∈ ([1, 242, 3 ^ 18, 2 ^ 40 - 1, 0, 243, -1, 3 ^ 18 + 1] : List Int), wrapT 27 x = x) ∧ trit 1 0 ≠ -1 ∧ trit (-1) 0 = -1 ∧
    (let s := hr (fun h => { h with keyadr := word 100 }) [];
      wval s.host.keyadr = ((100 : Nat) : Int) ∧ hbmExists (27 * 100) = true ∧ hbmExists (27 * (100 + 1)) = true ∧
        s.lineOwner ⟨.hbm, 27 * 100⟩ = ((0 : Nat) : Int) ∧ s.lineOwner ⟨.hbm, 27 * (100 + 1)⟩ = ((0 : Nat) : Int) ∧
        s.badLine ⟨.hbm, 27 * 100⟩ = false ∧ s.badLine ⟨.hbm, 27 * (100 + 1)⟩ = false ∧ s.hubCut ⟨.hbm, 27 * 100⟩ = false ∧
        s.hubCut ⟨.hbm, 27 * (100 + 1)⟩ = false ∧ s.snoopFirst false [⟨.hbm, 27 * 100⟩, ⟨.hbm, 27 * (100 + 1)⟩] = none ∧ s.resetAwait 3 = none) ∧
    ((value256 ((keyWords []).take 7)).isSome = true ∧ (value256 ((keyWords []).drop 7)).isSome = true ∧
      value256 ((keyWords [(2700, tryte (-1))]).take 7) = none) ∧
    (let s : State := { hr (fun h => { h with fns := h.fns.set 3 ⟨0, 1, false, 0, some (0, 4, 0)⟩ }) [] with
        fields := List.replicate 12 { FieldSt.reset with queues := List.replicate 9 ⟨27, 1, 3, 0, 0, 0, 2⟩ } };
      (s.fnRegs 2).loading = some (0, 4, 0) ∧ s.resetAwait 2 = none ∧ (∀ f < 12, ∀ q < 9, (s.queue f q).by_ = 2 ∧ (s.queue f q).st = 1)) := by decide +kernel

/-! ### Code objects and queues, the sower, placement -/

/-- Slot 4 in a state with generations, and the PF with a request in progress or not. -/
def cq (st : Nat) (gens : List Int) (ld : Option (Nat × Int × Word)) (m : List (Nat × Tryte)) : State :=
  { hr (fun h => { h with fns := h.fns.set 0 ⟨word 2700, 1, false, 0, ld⟩ }) m with
    fields := modAt (mapped State.reset).fields 0 (fun x => { x with slots := if st = 0 then [] else [⟨4, st, [], gens.map (fun g =>
      ⟨g, 1, true, ⟨[], [], [], []⟩, []⟩)⟩] }) }
/-- Every generation value. -/
def gens26 : List Int := (List.range 13).map (fun k => (k : Int) + 1) ++ (List.range 13).map (fun k => (k : Int) - 13)
/-- An object of three lines at 2700, and its leaf with X. -/
def objMem : List (Nat × Tryte) := [(1092, 360), (2709, 3)]

theorem witness_CodeQueueResults :
    (∀ fn ∈ ([-1, 127] : List Int), -1 ≤ fn ∧ (fn + 1).toNat < State.reset.host.fns.length) ∧ State.reset.fnField 127 = none ∧
    (∀ st ∈ ([0, 1, 2, 3] : List Nat), let s := cq st [0] none []
      s.fnField (-1) = some 0 ∧ 0 < s.fields.length ∧ (s.fnRegs (-1)).loading = none ∧ s.slotState 0 4 = st) ∧
    ((cq 1 [] (some (0, 4, 0)) []).fnRegs (-1)).loading.isSome = true ∧
    (∃ g ∈ n9.gangs, g.fld = 0 ∧ g.lrec.slot = 0) ∧ n9.slotState 0 0 = 2 ∧ (∀ g ∈ (cq 2 [0] none []).gangs, g.fld = 0 → g.lrec.slot ≠ 4) ∧
    (let s := cq 1 [] (some (0, 4, word 2700)) objMem;
      (s.fnRegs (-1)).loading = some (0, 4, word 2700) ∧ (s.copyObject 0 (wval (word 2700))).isSome = true ∧
        s.copyObject 0 (wval (word 2701)) = none ∧ s.snoopFirst false (s.loaderNeeds 0 (wval (word 2700))) = none ∧
        s.snoopFirst false (s.loaderNeeds 0 (wval (word 2701))) = none) ∧
    -- a SAFE word at 1 of a translation that lists it, or does not
    translationOk ⟨[0, word (4 * 3 ^ 21 + 5)], [0], [⟨5, 1, 0, []⟩], []⟩ = true ∧ translationOk ⟨[0, word (4 * 3 ^ 21 + 5)], [0], [], []⟩ = false ∧
    ((cq 0 [] none []).slot? 0 4 = none ∧ ((cq 3 [0] none []).slot? 0 4).map (·.state) = some 3) ∧
    (∀ gs ∈ ([[0], 0 :: gens26, 0 :: gens26.drop 1] : List (List Int)), ((cq 2 gs none []).slot? 0 4).map (fun sl =>
      (sl.state, sl.slot, decide (|sl.current| ≤ 13))) = some (2, 4, true)) ∧
    (∀ v ∈ gens26, v ∈ (0 :: gens26)) ∧ (1 : Int) ∉ 0 :: gens26.drop 1 ∧
    -- queues: not aligned, a header that cannot be read, one out of range, and one that is right
    (let s := cq 0 [] none [(1092, 351), (2706, 3)];
      (∀ va ∈ ([2700, 2701, 5400, 27 * 3 ^ 21] : List Int), ready s 0 [wval (word va)] [] = true) ∧ ready s 0 [] (s.disarmAddrs 0 0) = true ∧
      0 < (s.fieldSt 0).queues.length ∧ (s.queue 0 0).st ≠ 1 ∧ wval (word 2701) % 27 ≠ 0 ∧ wval (word 2700) % 27 = 0 ∧
      s.fieldWords 0 (wval (word (27 * 3 ^ 21))) 9 = none ∧ wval (word (27 * 3 ^ 21)) % 27 = 0 ∧
      s.fieldWords 0 (wval (word 2700)) 9 = some [0, 0, 3, 0, 0, 0, 0, 0, 0] ∧
      s.fieldWords 0 (wval (word 5400)) 9 = some [0, 0, 0, 0, 0, 0, 0, 0, 0]) ∧
    word 2700 ≠ 0 ∧ ((y9 0 0 1).queue 0 0).st = 1 := by decide +kernel

/-- A queue of 3 records armed at 5400 in field 0, over 3 records; TAIL is `tail`; a record of one gang stands in slot 0, whose object has one
function. The first record is at 5427. -/
def sw (tail : Int) (rec_ : List (Nat × Tryte)) (f : State → State) : State :=
  f { mapped State.reset with
    mem := [(1092, 351)] ++ (if tail = 0 then [] else [(5400, tryte tail)]) ++ rec_
    fields := modAt (mapped State.reset).fields 0 (fun x => { x with
      queues := x.queues.set 0 ⟨word 5400, 1, 3, 0, 1, 0, -1⟩
      slots := [⟨0, 2, [0, 0, 0, 0, 1], [⟨0, 0, true, ⟨[], [0], [], []⟩, []⟩]⟩] }) }
/-- HNDL −1; a row of 9 threads in one block; one vector register; one gang. -/
def recMem : List (Nat × Tryte) := [(5427, tryte (-1)), (5430, tryte (-1 + 3 + 729)), (5433, 1), (5439, 1)]
/-- A taken record with one dependence, on the word at 2700, of a target. -/
def depGrid (target : Int) (va : Int) : Grid :=
  { gr 1 with lrec := ⟨l9.words ++ [word va, word target]⟩, deps := [false, true, true] }

theorem witness_SowerResults :
    (let s := sw 1 recMem id;
      (s.queue 0 1).st ≠ 1 ∧ (s.queue 0 0).st = 1 ∧ s.fieldLine 0 (wval (s.queue 0 0).base) Need.load = some ⟨.hbm, 5400⟩ ∧
      ready s 0 [5400] [] = true ∧ ready s 0 [5427, 5454] [] = true ∧ ready s 0 [] (s.disarmAddrs 0 0) = true ∧ s.unfit 0 0 = [] ∧ wrapT 27 (wval (s.wordAt ⟨.hbm, 5400⟩) - wval (s.queue 0 0).head) = 1 ∧
      s.pendingRecords 0 0 < 27 ∧ slotVa (s.queue 0 0) (wval (s.queue 0 0).head) = 5427 ∧
      (match s.fieldWords 0 5427 18 with
        | some ws => ready s 0 (LaunchRec.constVas ⟨ws⟩) (wrapT 27 (5400 + 3) :: refusalAddrs 5427 ⟨ws⟩) &&
            (s.tablesAwait (.event .powerTrip) 0 (LaunchRec.depVas ⟨ws⟩)).isNone && s.refusal 0 ⟨ws⟩ == 0
        | none => false) = true) ∧
    (let s := sw 1 [] id;
      (match s.fieldWords 0 5427 18 with
        | some ws => ready s 0 (LaunchRec.constVas ⟨ws⟩) (wrapT 27 (5400 + 3) :: refusalAddrs 5427 ⟨ws⟩) && s.refusal 0 ⟨ws⟩ == 3
        | none => false) = true) ∧
    (∀ t ∈ ([-1, 0, 1, 3, 4] : List Int), let s := sw t [] id
      wrapT 27 (wval (s.wordAt ⟨.hbm, 5400⟩) - wval (s.queue 0 0).head) = t ∧ ready s 0 [5400] [] = true ∧ ready s 0 [] (s.disarmAddrs 0 0) = true) ∧
    27 ≤ (sw 1 [] (fun s => { s with grids := List.replicate 27 (gr 1) })).pendingRecords 0 0 ∧
    (let s := sw 1 [] (fun s => { s with failing := [5427] });
      s.fieldWords 0 5427 18 = none ∧ ready s 0 [5427, 5454] [] = true ∧ s.fieldLine 0 (wval (s.queue 0 0).base) Need.load = some ⟨.hbm, 5400⟩) ∧
    (sw 1 [] (fun s => { s with failing := [5400] })).fieldLine 0 5400 Need.load = none ∧
    ready (sw 1 [] (fun s => { s with failing := [5400] })) 0 [5400] [] = true ∧
    -- a taken record whose private words the field's pool can hold no more
    (let s := sw 1 [] (fun s => { s with grids := [{ gr 1 with recAddr := word 5427, lrec := ⟨l9.words.set 2 (word (9 + 3 ^ 12))⟩ }] });
      (s.unfit 0 0).length = 1 ∧ ready s 0 [] (s.disarmAddrs 0 0) = true) ∧
    (∀ t ∈ ([0, 1] : List Int), let s := sw 0 [] (fun s => { s with grids := [depGrid t 2700] })
      s.grids.find? (fun y => y.id == 0 && y.fld == 0) = some (depGrid t 2700) ∧ (depGrid t 2700).deps.getD 0 true = false ∧
        (depGrid t 2700).placed = 0 ∧ (depGrid t 2700).lrec.w 9 = 2700 ∧ s.fieldLine 0 2700 Need.load = some ⟨.hbm, 2700⟩ ∧
        ready s 0 [2700] [] = true ∧ wval (s.wordAt ⟨.hbm, 2700⟩) = 0 ∧ (depGrid t 2700).lrec.w 10 = t ∧
        (depGrid t 2700).deps.getD 1 true = true) ∧
    (let s := sw 0 [] (fun s => { s with grids := [depGrid 1 2700], failing := [2700] });
      s.fieldLine 0 2700 Need.load = none ∧ ready s 0 [2700] [] = true ∧ ready s 0 [] (refusalAddrs 2727 (depGrid 1 2700).lrec) = true) := by decide +kernel

/-- A grid of two gangs, the first of them placed, with 25 µs of latency tolerated and the dies in a fallow state. -/
def pl (placed : Nat) (fallow : Nat) (f : State → State) : State :=
  f { sw 0 [] id with grids := [{ gr 2 with placed := placed, lrec := ⟨l9.words.set 4 2 |>.set 2 (word (9 + 9 * 3 ^ 7))⟩ }]
                      dies := List.replicate 12 { DieSt.reset with service := 2, hbm := 1, fallow := fallow } }
/-- The sets that pass for the first candidate. -/
def plSets (s : State) (f : Nat) : List CoreSet :=
  match s.candidates f with
  | [] => []
  | c :: _ => (s.coreSets c.dieOk (s.passes c.fld c.lrec) c.lrec).filter (fun x => x.cores.all (fun k =>
    !(s.keepTarget f (s.candidates f)).barredTo c k))
/-- A saved gang that awaits its restore. -/
def plSaved : State := pl 0 0 (fun s => { s with grids := [], gangs := [{ gang l9 0 1 2 id with status := .restoring }] })

theorem witness_PlacementFallowResults :
    State.reset.candidates 0 = [] ∧
    (∀ q ∈ ([(1, 0), (1, 2), (0, 0), (0, 3)] : List (Nat × Nat)), let s := pl q.1 q.2 id
      (s.candidates 0).length = 1 ∧ (plSets s 0).head? = some ⟨[0], none⟩ ∧ (s.die (0 / 80)).fallow = q.2 ∧ 0 < s.dies.length ∧
        (match s.candidates 0 with | .launch y :: _ => y.placed == q.1 && (s.gangRanges y.fld y.lrec).isSome && (s.clearWay y.lrec [0]).isNone | _ => false) = true) ∧
    ((plSaved.candidates 0).length = 1 ∧ (plSets plSaved 0).head? = some ⟨[0], none⟩ ∧ (plSaved.die (0 / 80)).fallow = 0 ∧
      (match plSaved.candidates 0 with | .saved g :: _ => !g.portHalt && (plSaved.clearWay g.lrec [0]).isNone | _ => false) = true) ∧
    (let s := pl 0 0 (fun s => { s with grids := [{ gr 2 with lrec := ⟨l9.words.set 1 (word (-1 + 3 + 5 * 729))⟩ }] });
      (s.candidates 0).length = 1 ∧ plSets s 0 = []) ∧
    (∀ h ∈ ([⟨false, 1, 0, [0], 0, true⟩, ⟨false, 1, 0, [0], 0, false⟩] : List HeadRes), ∀ now ∈ ([80999, 81000] : List Nat),
      let s := pl 0 0 (fun s => { s with now := now, fields := modAt s.fields 0 (fun x => { x with head := some h }) })
      (s.fieldSt 0).head = some h ∧ (h.since + 81000 ≤ s.now ↔ now = 81000) ∧ h.target ≠ [] ∧ (∀ k ∈ h.target, s.usable 0 k = true) ∧
      (match s.candidates 0 with | c :: _ => !c.isHead h && decide (c.rank ≤ h.rank) && c.fld == 0 && 0 ∈ h.target | _ => false) = true) ∧
    (∀ n ∈ ([(0, 0), (1, 0), (2, 1), (39, 1), (40, 2), (1499, 2), (1500, 3)] : List (Int × Nat)),
      let s := pl 0 0 (fun s => { s with now := 81000, fields := s.fields.map (fun (x : FieldSt) => { x with fltol := word n.1 }) })
      let latency := fun (n : Nat) => if n = 1 then 2 else if n = 2 then 40 else (1500 : Int)
      (s.die 3).fallow = 0 ∧ (s.die 3).waking = false ∧ (s.die 3).service ≠ 0 ∧ s.dieBusy 3 = false ∧ (s.die 3).idleSince + 81000 ≤ s.now ∧
        s.dieOwners 3 = [0] ∧ (n.2 = 0 ∨ ∀ f ∈ s.dieOwners 3, latency n.2 ≤ wval (s.fieldSt f).fltol) ∧
        (n.2 < 3 → ∃ f ∈ s.dieOwners 3, wval (s.fieldSt f).fltol < latency (n.2 + 1))) ∧
    (let s := pl 0 1 (fun s => { s with quads := [], groups := [], chans := [], dies := s.dies.map (fun (d : DieSt) => { d with waking := true }) });
      s.dieOwners 11 = [] ∧ (s.die 11).waking = true ∧ (s.die 11).fallow ≠ 0 ∧ 11 < s.dies.length) ∧
    (let s := pl 0 0 (fun s => { s with
        sleepers := [(.held, 0)], dies := s.dies.set 11 { s.die 11 with fallow := 3, waking := true }, gangs := [{ gang l9 880 1 2 id with status := .waking }] });
      (s.die 11).waking = true ∧ s.hostQueue = [] ∧ s.gangs.all (fun g => g.status == .waking && g.saveTo == none &&
        g.blocks.all (fun b => b.core / 80 == 11 || (s.die (b.core / 80)).fallow == 0)) = true ∧ s.sleepers ≠ []) ∧
    n9.dieBusy 0 = true ∧ (n9.die 0).service = 0 := by decide +kernel

/-! ### Retirement, fields -/

/-- The gang of n9, its rows ended, its block retired or not. -/
def rt (retired : Bool) (f : Row → Row) (g : State → State) : State :=
  g { mapped n9 with gangs := [{ gang l9 0 1 2 (fun r => { f r with ended := true }) with
    blocks := (gang l9 0 1 2 (fun r => { f r with ended := true })).blocks.map (fun b => { b with retired := retired }) }] }
/-- A grid that is over: DONE at an address, its reason, DONE added or not. -/
def rg (done_ : Int) (reason : Nat) (dn : Bool) (f : State → State) : State :=
  f { mapped State.reset with grids := [{ gr 1 with lrec := ⟨(gr 1).lrec.words.set 7 (word done_)⟩, finished := 1, reason := reason, gridDone := dn }] }

theorem witness_RetireResults :
    n9.gang? 2 = none ∧ (n9.gang? 1).isSome = true ∧
    (let s := rt false id id;
      (s.gang? 1).map (fun g => (g.absent, g.blocks.all (fun b => b.rows.all (fun r => r.ended) && !b.retired && b.tenures == []),
        g.blocks.map (·.blk))) = some (false, true, [0]) ∧ s.recalls = []) ∧
    (let s := rt true (fun r => { r with peers := [⟨[], 0⟩] }) id;
      (s.gang? 1).map (fun g => g.blocks.all (fun b => b.rows.all (fun r => r.ended && r.peers.length == 1) && b.retired)) = some true) ∧
    (let s := rt true id (fun s => { s with grids := [gr 1] });
      (s.gang? 1).map (fun g => (g.blocks.all (fun b => b.rows.all (fun r => r.ended && r.peers == []) && b.retired), g.grid)) = some (true, 0) ∧
        s.colls = [] ∧ s.grids.find? (fun y => y.id == 0) = some (gr 1)) ∧
    (n9.gang? 1).map (·.absent) = some false ∧ (plSaved.gang? 1).map (·.absent) = some true ∧
    State.reset.grids.find? (fun y => y.id == 0) = none ∧
    (∀ q ∈ ([(0, false), (2700, false), (5400, false), (0, true), (2700, true)] : List (Int × Bool)), ∀ reason ∈ ([0, 12] : List Nat),
      let s := rg q.1 reason q.2 (fun s => { s with failing := [5400] })
      (s.grids.find? (fun y => y.id == 0)).map (fun x => (decide (x.lrec.gangs ≤ x.finished), x.gridDone, x.lrec.w 7, x.reason, wval x.recAddr)) =
          some (true, q.2, q.1, reason, 2700) ∧ s.gangs = [] ∧
        s.canWrite 0 5400 = false ∧ s.hostClear 0 0 2700 = none ∧ (s.eventAdd 0 2700).isSome = true ∧ s.hostClear 0 0 (wrapT 27 (2700 + 24)) = none ∧
        wval (word 2700) % 27 = 0) ∧
    ((n9.gangs.any (fun g => g.grid == 0)) = true) := by decide +kernel

/-- A request on a resource of a kind on die 0, in a phase; its owner. -/
def hd (grow : Bool) (kind : Int) (index : Nat) (owner phase : Int) (f : State → State) : State :=
  f { (mapped State.reset).setResource kind 0 index ⟨owner, phase⟩ with freq := some ⟨grow, kind, 0, index, 0⟩ }
/-- Channel `c` of die 0 leaves field 0, whose root table stands at page 0 and is empty; a load of 2700 there, or of its channel, is outstanding. -/
def vac (c : Nat) (busy : Bool) (f : State → State) : State :=
  hd false 3 c 0 1 (fun s => f { s with
    mem := [], gangs := [gang l9 0 1 2 (fun r => { r with loads := if busy then [{ acc .load 5 with lanes := [⟨0, word 2700, [⟨.hbm, 19683 * c⟩], []⟩] }] else [] })] })
/-- The last free resource of a kind. -/
def hf (kind : Int) (f : State → State) : State := f ((mapped State.reset).setResource kind 11 (perDie kind - 1) ⟨-1, 0⟩)

theorem witness_HeadlandResults :
    (hd true 1 0 (-2) 2 id).freq.isSome = true ∧ State.reset.freq = none ∧
    (∀ q ∈ ([(0, 0, 0, 0), (4, 0, 0, 0), (1, -1, 0, 0), (1, 12, 0, 0), (1, 0, 20, 0), (2, 0, 16, 0), (3, 0, 32, 0), (1, 0, -1, 0), (1, 0, 0, -1),
        (1, 0, 0, 12)] : List (Int × Int × Int × Int)),
      ¬(1 ≤ q.1 ∧ q.1 ≤ 3 ∧ 0 ≤ q.2.1 ∧ q.2.1 < 12 ∧ 0 ≤ q.2.2.1 ∧
        q.2.2.1 < (if q.1 = 1 then 20 else if q.1 = 2 then 16 else (32 : Int)) ∧ 0 ≤ q.2.2.2 ∧ q.2.2.2 ≤ 11)) ∧
    (State.reset.die 11).service ≠ 2 ∧ ((mapped State.reset).die 11).service = 2 ∧ (mapped State.reset).freq = none ∧
    ((mapped State.reset).resource 1 11 19).owner = 0 ∧ (0 : Int) ≠ -1 ∧ (0 : Int) ≠ 11 ∧
    (∀ q ∈ ([(1, 19), (2, 15), (3, 31)] : List (Int × Int)),
      (hf q.1 id).frChecks true q.1 11 q.2 11 = (if q.1 = 3 then -3 else 1) ∧ (hf q.1 id).frChecks true q.1 11 q.2 0 = 1 ∧
      (hf q.1 id).quads.length = 240 ∧ (hf q.1 id).groups.length = 192 ∧ (hf q.1 id).chans.length = 384) ∧
    (∀ q ∈ ([(1, 0), (2, 0), (3, 31)] : List (Int × Int)), (mapped State.reset).frChecks false q.1 11 q.2 0 = 1) ∧
    (∀ q ∈ ([(1, 19), (2, 15), (3, 31)] : List (Int × Nat)), ∀ grow ∈ [false, true], ∀ ph ∈ ([1, 2] : List Int),
      let s := hd grow q.1 q.2 (if ph = 1 then 0 else -2) ph id
      s.freq = some ⟨grow, q.1, 0, q.2, 0⟩ ∧ 1 ≤ q.1 ∧ q.1 ≤ 3 ∧ q.2 < perDie q.1 ∧ (s.reqRes ⟨grow, q.1, 0, q.2, 0⟩).phase = ph ∧ s.gangs = [] ∧
        s.quads.length = 240 ∧ s.groups.length = 192 ∧ s.chans.length = 384 ∧ s.hostQueue = [] ∧ s.host.conflicts = []) ∧
    ((n9.gangs.any (fun g => !g.absent && g.blocks.any (fun b => !b.retired && b.core / 4 == 20 * 0 + 0))) = true) ∧
    -- a vacate: nothing of the field in the channel, with an access to it open or not; its root table there, with a free frame or none
    (∀ b ∈ [false, true], let s := vac 5 b id
      s.moving = none ∧ (s.entries 0).all (fun t => t.run.inChan 0 5 == 0) = true ∧ s.chanBusy (32 * 0 + 5) = b) ∧
    (let s := vac 0 false id;
      s.moving = none ∧ s.freeFrame 0 = some 1 ∧ (s.nextIn 0 0 0).map (fun x => (x.isLeaf, x.level)) = some (false, 0) ∧
        (s.snoopFirst true (entryLines ((s.entries 0).filter (fun t => t.isLeaf && t.names 0)))).isNone = true) ∧
    (let s := vac 0 false (fun s => { s with chans := ⟨0, 1⟩ :: List.replicate 383 ⟨-1, 0⟩ });
      s.moving = none ∧ s.freeFrame 0 = none ∧ (s.nextIn 0 0 0).isSome = true) := by decide +kernel

/-- A page moves, an access to it open or not. -/
def pageOf : PageMove := ⟨5, 1, [(2700, word 351)], 9⟩
theorem witness_HeadlandResults_moving : (∀ b ∈ [false, true], let s := vac 5 b (fun s => { s with moving := some pageOf })
      s.moving = some pageOf ∧ s.usingOld 0 (fun va => pageOf.olds.any (fun o => unitOf 3 o.1 == unitOf 3 va)) pageOf.since = b) ∧
    (let s := vac 5 false (fun s => { s with moving := some pageOf });
      (s.snoopFirst true (frameLines pageOf.frame ++ frameLines pageOf.to_ ++ entryLines ((s.entries 0).filter (fun t => t.names pageOf.frame)))).isNone = true ∧
        s.gangs.all (fun g => g.blocks.all (fun b => b.partials == [])) = true ∧ Memory.wf s.mem = true ∧
        (s.entries 0).all (fun x => x.at_ == none) = true) := by decide +kernel

/-- Line 100 in the walk of a request on slice group 0, going to slice 20; where it stands, and its home. -/
def rh (grow : Bool) (slice : Nat) (fw : List (Nat × Nat)) (phase : Int) (walk : List (Nat × Nat)) : State :=
  hd grow 2 0 0 phase (fun s => { s with l2 := [{ x16 with slice := slice }], forwards := fw, rehash := walk })

/-- Core 0 holds a tenure, and the field's handle is live. -/
def fr : State := { mapped n9 with
  gangs := (mapped n9).gangs.map (fun g => { g with blocks := g.blocks.map (fun b => { b with tenures := [⟨word 1, 1, false⟩] }) })
  fields := modAt (mapped n9).fields 0 (fun x => { x with tiles := [⟨1, 0, 1, []⟩] }) }

theorem witness_RehashResults :
    State.reset.rehash.find? (fun q => q.1 == 100) = none ∧
    (∀ q ∈ ([(16, [], true), (3, [], true), (3, [(100, 18)], true), (16, [(100, 18)], false)] : List (Nat × List (Nat × Nat) × Bool)),
      let s := rh false q.1 q.2.1 1 [(100, 20)]
      s.rehash.find? (fun q => q.1 == 100) = some (100, 20) ∧ s.l2.find? (fun x => x.line == 100) = some { x16 with slice := q.1 } ∧
        (s.standsAt { x16 with slice := q.1 } == q.1 || s.leavingSlices.contains q.1) = q.2.2) ∧
    -- it stands at its new hash slice already
    (let s := rh false 20 [] 1 [(100, 20)]; s.standsAt { x16 with slice := 20 } = 20 ∧ s.leavingSlices.contains 20 = false) ∧
    (∀ b ∈ [false, true], (rh false (if b then 3 else 16) [] 1 []).groupHolds 0 0 = b) ∧
    (∀ ph ∈ ([1, 3] : List Int), let s := rh (ph == 3) 16 [] ph []
      s.freq = some ⟨ph == 3, 2, 0, 0, 0⟩ ∧ s.groups.length = 192 ∧ s.rehash = [] ∧ (s.reqRes ⟨ph == 3, 2, 0, 0, 0⟩).phase = ph) ∧
    (rh true 16 [] 3 [(100, 20)]).rehash ≠ [] ∧ (hd true 1 0 (-2) 2 id).freq = some ⟨true, 1, 0, 0, 0⟩ ∧ (1 : Int) ≠ 2 ∧
    ((fr.gang? 1).isSome = true ∧ (fr.block? ⟨1, 0, 0⟩).map (·.tenures) = some [⟨word 1, 1, false⟩] ∧ hFld (word 1) = ((0 : Nat) : Int) ∧
      (fr.fieldSt 0).tiles.map (·.state) = [1]) := by decide +kernel

/-! ### Steps -/

theorem witness_RoundTrip : (∀ i ∈ ([.add ⟨121, -121, 0, 40, 4⟩, .hdr ⟨5230176601⟩, .cvt 9 ⟨0, 0, 0, 0, 0⟩, .br ⟨1, -40, -21523360⟩] : List Instr),
    i.wf = true ∧ (encode i).isSome = true) ∧ decode (tw ([0, 0, 1, 0, 1, -1] ++ List.replicate 21 0)) = .ok (.add ⟨0, 0, 0, 0, 0⟩) ∧
    decode (tw ([0, 1, 1, 1, 0, 0] ++ List.replicate 20 0 ++ [1] ++ [1])) ≠ .ok (.nop ⟨0⟩) := by decide +kernel

theorem reset_memWf : State.reset.memWf := by unfold State.memWf; decide +kernel
theorem reset_scratchWf : State.reset.scratchWf := by unfold State.scratchWf; decide +kernel
/-- With nothing to do the device goes on. -/
theorem reset_goesOn : ∃ t, step { State.reset with agenda := [.event (.hostSnoop 0)] } = .next t := ⟨_, rfl⟩
theorem witness_StepKeepsMemWf : let s : State := { State.reset with agenda := [.event (.hostSnoop 0)] }
    s.memWf ∧ s.scratchWf ∧ ∃ t, step s = .next t := ⟨by unfold State.memWf; decide +kernel, by unfold State.scratchWf; decide +kernel, _, rfl⟩

/-- The row of n9 with nothing on the agenda, nothing due, and the clocks halted. -/
def idle9 : State := { n9 with halted := true }

/-- The row of n9 at word 1, a NOP, or at a word past the end of its code; its gang is halting; or the root unit of its core is busy
and the word an FDIV. -/
def at9 (idx : Int) (f : State → State) : State :=
  f (st l9 0 1 2 (fun r => { r with pct := r.pct.map (fun e => { e with addr := ⟨1, 0, idx⟩ }) }))
def halting (s : State) : State := { s with gangs := s.gangs.map (fun g => { g with status := .halting }) }
def fdivWord : Word := word (5 * 3 ^ 24 + 4 * 3 ^ 21)
def rootBusy (s : State) : State :=
  { s with
    cores := s.cores.map (fun (k : Core) => { k with units := [(2, 100), (3, 100)] })
    fields := { FieldSt.reset with slots := [⟨0, 2, [], [⟨1, 1, true, ⟨[0, fdivWord, 0], [0], [], []⟩, []⟩]⟩] } :: s.fields.drop 1 }
/-- A state has a context for the row, of which a test holds. -/
def atRow (s : State) (p : Ctx → Bool) : Bool :=
  match s.ctxOf ⟨1, 0, 0⟩ with
  | some c => p c
  | none => false
def stands (s : State) (w : Word) (blocked : Bool) (hold : Option Int) : Bool :=
  atRow s (fun c => s.codeWord c.fld c.ia == some w && c.blocked == blocked && s.sideHold c w == hold)
theorem witness_StepRunsDecoded :
    stands (at9 1 id) (word (3 ^ 22)) false none = true ∧ stands (at9 1 halting) (word (3 ^ 22)) true none = true ∧
    decode (word (3 ^ 22)) = .ok (.nop ⟨0⟩) ∧ stands (at9 1 rootBusy) fdivWord false (some 11) = true ∧
    decode fdivWord = .ok (.fdiv ⟨0, 0, 0, 0, 0⟩) ∧
    atRow (at9 7 id) (fun c => (at9 7 id).codeWord c.fld c.ia == none && !c.blocked && !c.r.acquiring && !c.gen0) = true ∧
    encode (.hostSnoop 0) = none ∧ 0 < State.reset.fields.length := by decide +kernel

/-- A row whose watchdog has run out, that generation 0 keeps waiting for a register. -/
def stalled (n : Nat) : State := { st l9 0 0 0 (fun r => { r with stall := n, busy := [5] }) with halted := true }
/-- The code of the row: a header, an FDIV, `add` of scalar registers, a header. -/
def addWord : Word := tw [0, 0, 1, 0, 1, -1, 0, 0, -1, 1, 1, 0, 0, 0, -1, 0, 0, 0, 0, -1, 1, 0, 0, 0, 0, 0, 0]
def behind (s : State) : State := { s with fields :=
  { FieldSt.reset with slots := [⟨0, 2, [], [⟨1, 1, true, ⟨[word (3 * 3 ^ 18), fdivWord, addWord, word (3 * 3 ^ 18)], [0], [], []⟩, []⟩]⟩] } :: s.fields.drop 1 }
/-- Two rows on core 0, of which the first is chosen. -/
def two9 : State :=
  { n9 with
    gangs := n9.gangs.map (fun g => { g with blocks := g.blocks.map (fun b => { b with rows := b.rows ++ b.rows.map (fun r => { r with row := 1 }) }) })
    halted := true }
theorem witness_StepTakesTurns :
    (stalled (3 ^ 21)).stallDue = some ⟨1, 0, 0⟩ ∧ (stalled 0).stallDue = none ∧ two9.stallDue = none ∧ n9.stallDue = none ∧
    (stalled (3 ^ 21)).tick.expired ⟨1, 0, 0⟩ = true ∧ (stalled 0).tick.expired ⟨1, 0, 0⟩ = false ∧
    -- the scalar side's place: the word of program order, none, or an ADD on scalar registers behind an FDIV
    ((at9 1 behind).ranOf ⟨1, 0, 0⟩ = 0 ∧ (at9 1 behind).scalarNext ⟨1, 0, 0⟩ = false ∧ ((at9 1 behind).aheadStep ⟨1, 0, 0⟩).isSome = true ∧
      (at9 2 behind).scalarNext ⟨1, 0, 0⟩ = true) ∧
    (two9.tick.turnOf ⟨1, 0, 1⟩).1 = ⟨1, 0, 0⟩ ∧ (two9.tick.turnOf ⟨1, 0, 0⟩).1 = ⟨1, 0, 0⟩ ∧
    (two9.tick.rowsOn 0).length = 2 ∧ (idle9.tick.rowsOn 0).length = 1 ∧ idle9.tick.stallDue = none ∧
    encode (.hostSnoop 0) = none ∧ State.reset.tick.chooseFrom State.reset.tick.sidesInTurn = none := by
  and_intros <;> decide +kernel

theorem firstDue_none (s : State) (l : List Instr) (h : l.map (fun i => exec i s) = l.map (fun _ => .next s)) : firstDue s l = none := by
  induction l with
  | nil => rfl
  | cons i r ih =>
    simp only [List.map_cons, List.cons.injEq] at h
    simp [firstDue, h.1, ih h.2]
set_option maxRecDepth 100000 in
theorem idle9_still : idle9.tick.pending.map (fun i => exec i idle9.tick) = idle9.tick.pending.map (fun _ => .next idle9.tick) := by rfl
theorem witness_StepTakesTurns_choice : idle9.agenda = [] ∧ firstDue idle9.tick idle9.tick.pending = none ∧ idle9.stallDue = none ∧
    idle9.tick.attempt = none ∧ ∃ u, idle9.tick.chooseFrom idle9.tick.sidesInTurn = some (1, ⟨1, 0, 0⟩, u) :=
  ⟨rfl, firstDue_none _ _ idle9_still, rfl, rfl, _, rfl⟩

/-- A recall of a gang that is gone is due. -/
def due9 : State := { State.reset with cores := [], recalls := [⟨⟨9, 0, 0⟩, 1, false, 0⟩] }
theorem witness_StepTakesTurns_due : due9.agenda = [] ∧ due9.stallDue = none ∧ ∃ t, firstDue due9.tick due9.tick.pending = some t := by
  have h : ∃ r, due9.tick.pending = Instr.recall 0 :: r := ⟨_, rfl⟩
  obtain ⟨r, h⟩ := h
  have e : ∃ t, exec (.recall 0) due9.tick = .next t ∧ t.recalls = [] := ⟨_, rfl, rfl⟩
  obtain ⟨t, e, ht⟩ := e
  refine ⟨rfl, rfl, t, ?_⟩
  have ne : t ≠ due9.tick := fun hn => by rw [hn] at ht; exact absurd ht (by decide)
  simp [h, firstDue, e, ne]
/-- The attempt of a row that waits records its wait. -/
theorem witness_StepTakesTurns_attempt : ∃ t, (stalled 0).tick.attempt = some t := by
  have e : ∃ t, (stalled 0).tick.tryRow ⟨1, 0, 0⟩ = .next t ∧ ((t.row? ⟨1, 0, 0⟩).bind (·.wait)).isSome = true := ⟨_, rfl, rfl⟩
  obtain ⟨t, e, ht⟩ := e
  have ne : sameButCaches (stalled 0).tick t = false := by
    simp only [sameButCaches, beq_eq_false_iff_ne, ne_eq]
    intro hn
    rw [hn] at ht
    have ht : (((stalled 0).tick.row? ⟨1, 0, 0⟩).bind (·.wait)).isSome = true := ht
    exact absurd ht (by decide)
  have hr : (stalled 0).tick.ready ⟨1, 0, 0⟩ = false := rfl
  have ha : ∃ q, (stalled 0).tick.allRows = [q] ∧ q.1 = ⟨1, 0, 0⟩ := ⟨_, rfl, rfl⟩
  obtain ⟨q, ha, hq⟩ := ha
  exact ⟨t, by simp [State.attempt, ha, hq, hr, e, ne]⟩

/-! ### Steps of the machine's own units -/

/-- A run of no passes that holds array 0 since cycle 0. -/
def lapse9 : State := mx (fun r => { r with runs := [{ run7 false with holds := [0] }] })
  (fun s => { s with dies := s.dies.map (fun d => { d with cyc := 729 }) })
/-- An atomic that its core's order holds, of scope .core and no order. -/
def loneAtom : MemOp := { acc (.atom .add) 1 with acq := 0 }

theorem witness_UnitStepsComplete_tile : encode (.hostSnoop 0) = none ∧
    (let q := { req (.tacq 2) hdl with stage := 1 }
      let s := x9 desc 0 id (fun s => { s with tileQ := [q] })
      s.tileQ[0]? = some q ∧ (s.block? q.who).isSome = true ∧ q.acqKind ≠ 0 ∧ q.stage = 1 ∧
      s.queuedAhead q.fld q.handle (s.descOf q.fld q.handle) (s.tileQ.take 0) = false ∧ s.conflicting q (s.descOf q.fld q.handle) = [] ∧
      s.hostHeld q.fld (s.descOf q.fld q.handle) = []) ∧
    (let m : RecallMsg := ⟨⟨1, 0, 0⟩, hdl, true, 1⟩
      let s := x9 desc 1 id (fun s => { s with recalls := [m] })
      s.recalls[0]? = some m ∧ (s.gang? 1).isSome = true ∧ (s.block? m.who).bind (fun b => b.tenure? hdl) = some ⟨hdl, 1, false⟩) ∧
    (let s := x9 desc 1 id (fun s => { s with pushes := [⟨⟨.hbm, 2700⟩, ⟨1, 0, 0⟩, none⟩] });
      s.pushes[0]? = some ⟨⟨.hbm, 2700⟩, ⟨1, 0, 0⟩, none⟩ ∧ s.pushes.take 0 = []) ∧
    (let s := x9 desc 3 id (fun s => s.modBlock ⟨1, 0, 0⟩ (fun b => { b with partials := [⟨⟨.hbm, 2700⟩, 0, List.replicate 9 1⟩] }));
      ((s.block? ⟨1, 0, 0⟩).bind (fun b => b.partials.find? (fun x => x.line == ⟨.hbm, 2700⟩))) = some ⟨⟨.hbm, 2700⟩, 0, List.replicate 9 1⟩ ∧
      (s.snoopFirst true (s.partialLines ⟨1, 0, 0⟩ [⟨.hbm, 2700⟩])).isNone = true) ∧
    (x9 desc 0 id (withReq .tqry hdl)).tileIn = [req .tqry hdl] ∧ (req .tqry hdl).kind = .tqry := by
  and_intros <;> decide +kernel

theorem witness_UnitStepsComplete_matrix :
    (∃ e, ((mxp none false 0).mxEntries 0).filter (fun e => !e.pass.granted) = [e] ∧ e.staged = true ∧
      (∀ a ∈ (mxp none false 0).arrays e.core e.pass, (mxp none false 0).arrayFree ((mxp none false 0).mxEntries 0) e a = true) ∧
      (mxp none false 0).row? e.ref = some e.row) ∧
    (∃ x p, (mxp none true 0).row? ⟨1, 0, 0⟩ = some x ∧ x.passes.find? (·.granted) = some p ∧ ((mxp none true 0).block? ⟨1, 0, 0⟩).isSome = true) ∧
    (let s := mx (fun r => { r with quants := [qop 0], deqs := [{ qop 0 with stamp := 4 }] }) id;
      (s.block? ⟨1, 0, 0⟩).isSome = true ∧ (s.row? ⟨1, 0, 0⟩).map (fun x => (x.quants, x.deqs)) = some ([qop 0], [{ qop 0 with stamp := 4 }]) ∧
      (s.row? ⟨1, 0, 0⟩).map (fun x => x.scrPending 4 ((qop 0).areas 0)) = some false ∧
      4 ≤ (qop 0).stamp) ∧
    ((lapse9.row? ⟨1, 0, 0⟩).map (fun x => (x.runs.length, x.passes)) = some (1, []) ∧ (lapse9.block? ⟨1, 0, 0⟩).isSome = true ∧
      (run7 false).last + 729 ≤ (lapse9.die 0).cyc) := by
  refine ⟨⟨_, rfl, by decide +kernel, by decide +kernel, rfl⟩, ⟨_, _, rfl, rfl, by decide +kernel⟩, by decide +kernel, by decide +kernel⟩

theorem witness_UnitStepsComplete_engine :
    (∀ k ∈ [CmdKind.cpy, .peer], let s := en (withSlots [⟨[.cmd (cmd k false)], none⟩]) id
      (s.row? ⟨1, 0, 0⟩).bind (fun x => x.headCmd 0) = some (cmd k false) ∧ (s.row? ⟨1, 0, 0⟩).map (fun x => decide (0 < x.slots.length)) = some true ∧
      (cmd k false).held = none ∧ (cmd k false).spill = false ∧
      (match s.env? ⟨1, 0, 0⟩, s.row? ⟨1, 0, 0⟩ with | some e, some x => e.g.status == .resident && s.earlierDone e x 0 | _, _ => false) = true) ∧
    (∀ k ∈ [CmdKind.cpy, .gath, .scat], let c := { cmd k true with done_ := 1 }
      let s := en (withSlots [⟨[.cmd c], none⟩]) id
      (s.row? ⟨1, 0, 0⟩).bind (fun x => x.headCmd 0) = some c ∧ (wval c.z).toNat = c.done_ ∧
      (match s.env? ⟨1, 0, 0⟩ with | some e => e.g.absent || s.olderCopy e c | none => true) = false) ∧
    (let s := en (withSlots [⟨[.join 3], none⟩, ⟨[.join 3], none⟩]) id;
      (s.row? ⟨1, 0, 0⟩).map (fun x => ((x.slot 0).entries, decide (0 < x.slots.length))) = some ([.join 3], true) ∧
      (s.row? ⟨1, 0, 0⟩).map (fun x => x.slots.all (fun y => !y.entries.contains (.join 3) || y.entries.head? == some (.join 3))) = some true) ∧
    collGoes (coll 1 1) = true ∧
    ((peerOut.row? ⟨1, 0, 0⟩).map (·.peers) = some [⟨[⟨word 0, ⟨.peer, 27⟩, [1, 2, 3]⟩], 0⟩] ∧ peerOut.partialsOf ⟨.peer, 27⟩ = []) := by
  and_intros <;> decide +kernel

theorem witness_UnitStepsComplete_sync :
    (let s := a9 [] [] [loneAtom];
      (s.core 0).order[0]? = some loneAtom ∧ loneAtom.kind = .atom .add ∧ s.mayApply 0 0 loneAtom = true ∧
      (s.snoopFirst true loneAtom.lines).isNone = true ∧ loneAtom.acq = 0 ∧ 0 < s.cores.length) ∧
    (∃ g x b, (b9r 0).gang? 1 = some g ∧ (b9r 0).row? ⟨1, 0, 0⟩ = some x ∧ (b9r 0).block? ⟨1, 0, 0⟩ = some b ∧ x.arrivals = [arr 0] ∧
      (arr 0).stage = 0 ∧ (b9r 0).releaseMetAt ⟨1, 0, 0⟩ 0 = true ∧ b.retired = false ∧
      (arr 0).bar < b.bars.length) ∧
    (∃ g, (b9r 1).gang? g.gid = some g ∧ ∀ b ∈ g.blocks, ∀ r ∈ b.rows, ∀ a ∈ r.arrivals, a.stage ≠ 2) ∧
    (b9 none [⟨[0, 2, 0, 0], 3, 3, 4⟩]).levelBars[0]? = some ⟨[0, 2, 0, 0], 3, 3, 4⟩ :=
  ⟨by decide +kernel, ⟨_, _, _, rfl, rfl, rfl, by decide +kernel⟩, ⟨(b9r 1).gangs.headD (gang l9 0 1 2 id), by decide +kernel, by decide +kernel⟩, by decide +kernel⟩
end Sys2Proof.Tests
end

section
/-!
Bring-up, trips, the thermal halt, firmware and the state after reset (01 R14, R16, R18 to R20, 03 R51, 15 R262): what the
operations of these steps change and leave as it was, and the statements BringupResults, FirmwareResults and ResetState.
-/
namespace Sys2Proof.Machine

/-! ### Lists with one entry changed -/

section
variable {α β γ : Type}

theorem modAt_eq_modify (l : List α) (i : Nat) (f : α → α) : modAt l i f = l.modify i f := by
  induction l generalizing i with
  | nil => cases i <;> rfl
  | cons x r ih =>
    cases i with
    | zero => rfl
    | succ j => simp [modAt, ih]

@[simp] theorem length_modAt (l : List α) (i : Nat) (f : α → α) : (modAt l i f).length = l.length := by
  simp [modAt_eq_modify]

theorem getD_modAt_same {l : List α} {i : Nat} (h : i < l.length) (f : α → α) (d : α) :
    (modAt l i f).getD i d = f (l.getD i d) := by
  simp [modAt_eq_modify, List.getD_eq_getElem?_getD, h]

theorem getD_modAt_other {i j : Nat} (h : j ≠ i) (l : List α) (f : α → α) (d : α) :
    (modAt l i f).getD j d = l.getD j d := by
  simp [modAt_eq_modify, List.getD_eq_getElem?_getD, h.symm]

/-- A change that keeps what `p` reads of the entry keeps it of every entry. -/
theorem getD_modAt_keeps (p : α → γ) {l : List α} {i : Nat} {f : α → α} {d : α} (h : p (f (l.getD i d)) = p (l.getD i d))
    {j : Nat} : p ((modAt l i f).getD j d) = p (l.getD j d) := by
  by_cases hj : j = i
  · subst hj
    by_cases hl : j < l.length
    · rw [getD_modAt_same hl, h]
    · rw [List.getD_eq_default _ _ (by simpa using hl), List.getD_eq_default _ _ (by simpa using hl)]
  · rw [getD_modAt_other hj]

theorem getD_replicate_self (n i : Nat) (a : α) : (List.replicate n a).getD i a = a := by
  simp [List.getD_eq_getElem?_getD]

/-- What every step of a fold keeps, the fold keeps. -/
theorem foldl_keeps {f : β → α → β} {p : β → γ} (h : ∀ b a, p (f b a) = p b) (l : List α) (b : β) :
    p (l.foldl f b) = p b := by
  induction l generalizing b with
  | nil => rfl
  | cons a r ih => exact (ih (f b a)).trans (h b a)

end

/-! ### Dies and clocks -/

theorem State.die_modDie_same {s : State} {d : Nat} (h : d < s.dies.length) (f : DieSt → DieSt) :
    (s.modDie d f).die d = f (s.die d) := getD_modAt_same h f _

theorem State.die_modDie_other {d k : Nat} (h : k ≠ d) (s : State) (f : DieSt → DieSt) :
    (s.modDie d f).die k = s.die k := getD_modAt_other h _ f _

theorem State.die_of_dies {s t : State} (h : t.dies = s.dies) (k : Nat) : t.die k = s.die k := by
  simp only [State.die, h]

theorem State.clock_of_halted {s : State} (h : s.halted = true) (die : Nat) : s.clock die = 0 := by
  simp [State.clock, h]

theorem State.clock_of_slow {s : State} {die : Nat} (h : s.halted = false)
    (hs : s.power = true ∨ (s.die die).hot = true ∨ (s.die die).service ≠ 2) : s.clock die = 350 := by
  simp [State.clock, h, or_assoc, hs]

theorem State.clock_of_full {s : State} {die : Nat} (h : s.halted = false) (hp : s.power = false)
    (hh : (s.die die).hot = false) (hv : (s.die die).service = 2) : s.clock die = 700 := by
  simp [State.clock, h, hp, hh, hv]

/-! ### The error log's counts (23 R404) -/

/-- A log record is counted once, at HEAD or as lost. -/
theorem State.log_counts (s : State) (k : Int) (g : Word) (p : Int) (pc i : Word) (l : Int) :
    (s.log k g p pc i l).host.eloghead + (s.log k g p pc i l).host.eloglost = s.host.eloghead + s.host.eloglost + 1 := by
  unfold State.log
  dsimp only
  split <;> dsimp only <;> omega

theorem State.log_signals (s : State) (k : Int) (g : Word) (p : Int) (pc i : Word) (l : Int) :
    (s.log k g p pc i l).host.signals = s.host.signals := by
  unfold State.log
  dsimp only
  split <;> rfl

/-! ### What the write-back of L2 lines leaves as it was (13 R241, R242) -/

/-- The state with the L2's records, tag lines, sectors and what the host sees as another state has them. -/
def State.withStoresOf (t s : State) : State :=
  { t with
    l2 := s.l2, tags := s.tags, tagCache := s.tagCache, tagHits := s.tagHits, sectors := s.sectors, host := s.host }

/-- The second state differs from the first at most in what a write-back changes. -/
def State.WritesBack (s t : State) : Prop := t.withStoresOf s = s

theorem State.WritesBack.trans {s t u : State} (h : s.WritesBack t) (h' : t.WritesBack u) : s.WritesBack u :=
  calc u.withStoresOf s
    _ = (u.withStoresOf t).withStoresOf s := rfl
    _ = t.withStoresOf s := congrArg (fun x => x.withStoresOf s) h'
    _ = s := h

/-- What does not read the stores is as it was. -/
theorem State.WritesBack.keeps {γ : Type} {s t : State} (h : s.WritesBack t) (p : State → γ)
    (hp : p (t.withStoresOf s) = p t) : p t = p s := hp.symm.trans (congrArg p h)

theorem State.WritesBack.foldl {α : Type} {f : State → α → State} (h : ∀ (s : State) (x : α), s.WritesBack (f s x))
    (l : List α) (s : State) : s.WritesBack (l.foldl f s) := by
  induction l generalizing s with
  | nil => rfl
  | cons x r ih => exact (h s x).trans (ih (f s x))

theorem State.log_writesBack (s : State) (k : Int) (g : Word) (p : Int) (pc i : Word) (l : Int) :
    s.WritesBack (s.log k g p pc i l) := by
  unfold State.log
  dsimp only
  split <;> rfl

theorem State.corrected_writesBack (s : State) (die : Nat) (place : Int) (unit code : Nat) (line : Int) :
    s.WritesBack (s.corrected die place unit code line) :=
  State.WritesBack.trans (t := { s with host := { s.host with cecnt := modAt s.host.cecnt die (· + 1) } }) rfl
    (State.log_writesBack _ _ _ _ _ _ _)

theorem State.fetchTags_writesBack (s : State) (key : Nat) (l : Loc) : s.WritesBack (s.fetchTags key l) := by
  have hc : s.WritesBack (s.cacheTags key (groupOf (lineNo l))) := rfl
  unfold State.fetchTags
  dsimp only
  split
  · exact hc
  · split
    · rfl
    · exact hc
    · exact hc.trans (State.corrected_writesBack _ _ _ _ _ _)

theorem State.storeTag_writesBack (s : State) (x : L2Line) : s.WritesBack (s.storeTag x) := by
  have hf := s.fetchTags_writesBack (256 * hbmDie (lineAddr x.line).a + x.slice) (lineAddr x.line)
  unfold State.storeTag
  split
  · rfl
  · dsimp only
    split <;> exact hf.trans rfl

theorem State.unpin_writesBack (s : State) (die : Nat) : s.WritesBack (s.unpin die) :=
  (State.WritesBack.foldl State.storeTag_writesBack _ s).trans rfl

theorem State.tryteAt_of_memories {s t : State} (h1 : t.mem = s.mem) (h2 : t.peerMem = s.peerMem)
    (h3 : t.hostMem = s.hostMem) (l : Loc) : t.tryteAt l = s.tryteAt l := by
  simp only [State.tryteAt, State.hostBlock, State.hostByte, h1, h2, h3]

/-! ### Seedling service (01 R18, R19) -/

theorem execSeedlingEntry_enters {s : State} {die : Nat} (hd : die < 12) (h : (s.die die).service = 0) (hh : s.halted = false) :
    execSeedlingEntry die s = .next (s.modDie die (fun d => { d with service := 1 })) := by
  simp [execSeedlingEntry, hd, h, hh]

theorem execHbmStackTrained_trains {s : State} {die : Nat} (hd : die < 12) (h : (s.die die).hbm = 0) (ok : Bool) :
    execHbmStackTrained die ok s = .next (s.modDie die (fun d => { d with hbm := if ok then 1 else -1 })) := by
  simp [execHbmStackTrained, hd, h]

theorem State.linksTrained_of_up {s : State} {die : Nat} (h : ∀ l ∈ dieLinks die, s.linkState l = 1) :
    s.linksTrained die = true := by
  simp only [State.linksTrained, List.all_eq_true]
  intro l hl
  simp [h l hl]

/-- A link of the die to the hub die that is not up keeps the die in seedling service. -/
theorem State.not_linksTrained_of_hub {s : State} {die l : Nat} (hd : die < 12) (hl : l ∈ dieLinks die)
    (hub : (linkDies l).2 = 12) (h : s.linkState l ≠ 1) : s.linksTrained die = false := by
  have hown : (linkDies l).1 = die := by
    have hends := (List.mem_filter.mp hl).2
    simp only [hub, Bool.or_eq_true, beq_iff_eq] at hends
    omega
  simp only [State.linksTrained, List.all_eq_false]
  exact ⟨l, hl, by simp [hown, hub, h]⟩

theorem execLeaveSeedling_leaves {s : State} {die : Nat} (hd : die < 12) (hv : (s.die die).service = 1)
    (hm : (s.die die).hbm = 1) (hl : s.linksTrained die = true) :
    execLeaveSeedling die s = .next ((s.unpin die).modDie die (fun d => { d with service := 2 })) := by
  simp [execLeaveSeedling, hd, hv, hm, hl]

theorem execLeaveSeedling_stays {s : State} {die : Nat}
    (h : (s.die die).service ≠ 1 ∨ (s.die die).hbm ≠ 1 ∨ s.linksTrained die = false) :
    execLeaveSeedling die s = .next s :=
  if_pos (by rcases h with h | h | h <;> simp [h])

/-! ### Links that train or fail (01 Table 1.5, 14 R250) -/

theorem State.linkEnd_of_links {s t : State} (hl : t.links = s.links) (hc : t.coluri = s.coluri) (link e : Nat) :
    t.linkEnd link e = s.linkEnd link e := by
  simp only [State.linkEnd, hl, hc]

/-- Link or Coluri port `link` is one of the device's, and listed. -/
def State.HasLink (s : State) (link : Nat) : Prop :=
  (link < 72 ∧ link < s.links.length) ∨ (72 ≤ link ∧ link < 90 ∧ link - 72 < s.coluri.length)

theorem State.linkEnd_modEnd_same {s : State} {link : Nat} (h : s.HasLink link) (f : LinkEnd → LinkEnd) :
    (s.modEnd link 0 f).linkEnd link 0 = f (s.linkEnd link 0) := by
  obtain ⟨hk, hl⟩ | ⟨hk, -, hl⟩ := h
  · simp only [State.linkEnd, State.modEnd, if_pos hk, getD_modAt_same hl, if_true]
  · simp only [State.linkEnd, State.modEnd, if_neg (not_lt.mpr hk), getD_modAt_same hl]

/-- A change of a link's end that keeps what `p` reads of that end keeps it of every end. -/
theorem State.linkEnd_modEnd_keeps {β : Type} (p : LinkEnd → β) {s : State} {link e : Nat} {f : LinkEnd → LinkEnd}
    (h : p (f (s.linkEnd link e)) = p (s.linkEnd link e)) (link' e' : Nat) :
    p ((s.modEnd link e f).linkEnd link' e') = p (s.linkEnd link' e') := by
  by_cases hk : link < 72
  · by_cases hk' : link' < 72
    · simp only [State.linkEnd, State.modEnd, if_pos hk, if_pos hk'] at h ⊢
      split
      · refine getD_modAt_keeps (fun q : LinkEnd × LinkEnd => p q.1) ?_
        split at h <;> simp_all
      · refine getD_modAt_keeps (fun q : LinkEnd × LinkEnd => p q.2) ?_
        split at h <;> simp_all
    · simp only [State.linkEnd, State.modEnd, if_pos hk, if_neg hk']
  · by_cases hk' : link' < 72
    · simp only [State.linkEnd, State.modEnd, if_neg hk, if_pos hk']
    · simp only [State.linkEnd, State.modEnd, if_neg hk, if_neg hk'] at h ⊢
      exact getD_modAt_keeps p h

theorem State.log_linkEnd (s : State) (k : Int) (g : Word) (p : Int) (pc i : Word) (l : Int) (link e : Nat) :
    (s.log k g p pc i l).linkEnd link e = s.linkEnd link e :=
  State.linkEnd_of_links (by simp) (by simp) link e

/-- A change of both ends: it meets the one end of a port twice, and so does there what it does once. -/
theorem State.linkEnd_modBoth {s : State} {link : Nat} (h : s.HasLink link) {f : LinkEnd → LinkEnd} (hf : ∀ x, f (f x) = f x) :
    ((s.modEnd link 0 f).modEnd link 1 f).linkEnd link 0 = f (s.linkEnd link 0) := by
  obtain ⟨hk, hl⟩ | ⟨hk, -, hl⟩ := h
  · have h0 : ((s.modEnd link 0 f).modEnd link 1 f).linkEnd link 0 = (s.modEnd link 0 f).linkEnd link 0 := by
      simp only [State.linkEnd, State.modEnd, if_pos hk, if_true]
      exact getD_modAt_keeps Prod.fst rfl
    rw [h0, State.linkEnd_modEnd_same (.inl ⟨hk, hl⟩)]
  · have hp (n : Nat) (t : State) (ht : link - 72 < t.coluri.length) :
        (t.modEnd link n f).linkEnd link 0 = f (t.linkEnd link 0) := by
      simp only [State.linkEnd, State.modEnd, if_neg (not_lt.mpr hk), getD_modAt_same ht]
    rw [hp 1 _ (by simpa [State.modEnd, not_lt.mpr hk] using hl), hp 0 s hl, hf]

theorem State.endStraddle_linkEnd (s : State) (d e link n : Nat) : (s.endStraddle d e).linkEnd link n = s.linkEnd link n :=
  foldl_keeps (f := fun (t : State) (g : Gang) => t.endGrid g.grid 12) (p := fun t => t.linkEnd link n) (fun _ _ => rfl) _ s

/-- The flits of a failed link are carried over, and no end changes its state of training. -/
theorem State.carryOver_linkEnd_state (s : State) (link e link' e' : Nat) :
    ((s.carryOver link e).linkEnd link' e').state = (s.linkEnd link' e').state := by
  unfold State.carryOver
  dsimp only
  split
  · exact (State.linkEnd_modEnd_keeps LinkEnd.state (by rfl) _ _).trans
      (State.linkEnd_modEnd_keeps LinkEnd.state (by simp only [LinkEnd.freeTo]) _ _)
  · exact (State.linkEnd_modEnd_keeps LinkEnd.state (by rfl) _ _).trans
      ((State.linkEnd_modEnd_keeps LinkEnd.state (by rfl) _ _).trans
        (State.linkEnd_modEnd_keeps LinkEnd.state (by simp only [LinkEnd.freeTo]) _ _))

theorem State.failLink_state {s : State} {link : Nat} (h : s.HasLink link) : ((s.failLink link).linkEnd link 0).state = -1 := by
  have hboth : ((((s.modEnd link 0 (fun x => { x with state := -1 })).modEnd link 1 (fun x => { x with state := -1 })).logLink
      link).linkEnd link 0).state = -1 := by
    rw [State.logLink, State.log_linkEnd, State.linkEnd_modBoth (f := fun x => { x with state := -1 }) h (fun _ => rfl)]
  unfold State.failLink
  dsimp only
  split
  · exact hboth
  · split
    · rwa [State.endStraddle_linkEnd]
    · rwa [State.carryOver_linkEnd_state, State.carryOver_linkEnd_state]

theorem State.upLink_linkEnd {s : State} {link : Nat} (h : s.HasLink link) (wid : Int) :
    (s.upLink link wid).linkEnd link 0 = { s.linkEnd link 0 with state := 1, wid := wid } :=
  State.linkEnd_modBoth h (fun _ => rfl)

theorem State.HasLink.endExists {s : State} {link : Nat} (h : s.HasLink link) : endExists link 0 = true := by
  obtain ⟨hk, -⟩ | ⟨-, hk, -⟩ := h <;> simp [Machine.endExists, hk]

/-- LINK_TRAINED of a link that has not trained: up at 64 or 32 lanes, or failed. -/
theorem execLinkTrained_trains {s : State} {link : Nat} (h : s.HasLink link) (hs : (s.linkEnd link 0).state = 0)
    (hw : (s.linkEnd link 0).wid = 0) (lanes : Nat) :
    execLinkTrained link lanes s = .next (if lanes = 64 then s.upLink link 1 else if lanes = 32 then s.upLink link (-1)
      else s.failLink link) := by
  simp only [execLinkTrained, h.endExists, hs, hw]
  rw [if_neg (by decide)]
  split
  · rfl
  · split <;> rfl

/-! ### The end of the resident grids (01 R14, 26 Table 26.1) -/

/-- What the end of grid n does to a gang. -/
def Gang.stopped (n : Nat) (g : Gang) : Gang :=
  if g.grid != n then g else if g.absent then g.drop else { g with status := .retiring }

/-- What the end of a grid for a reason does to its record: the earliest reason stays. -/
def Grid.endedFor (reason : Nat) (x : Grid) : Grid :=
  { x with ended := true, reason := if x.reason = 0 then reason else x.reason }

theorem State.endGrid_gangs (s : State) (n r : Nat) : (s.endGrid n r).gangs = s.gangs.map (Gang.stopped n) := rfl
theorem State.endGrid_grids (s : State) (n r : Nat) :
    (s.endGrid n r).grids = modFirst (fun g => g.id == n) (Grid.endedFor r) s.grids := rfl

theorem Gang.stopped_grid (n : Nat) (g : Gang) : (g.stopped n).grid = g.grid := by
  unfold Gang.stopped
  split
  · rfl
  · split <;> rfl

/-- A gang is retiring once its grid has ended, and stays so whatever grid ends next. -/
theorem Gang.stopped_retiring {n : Nat} {g : Gang} (h : g.grid = n ∨ g.status = .retiring) :
    (g.stopped n).status = .retiring := by
  unfold Gang.stopped
  split
  · rename_i hn
    exact h.resolve_left (by simpa using hn)
  · split <;> rfl

theorem Grid.endedFor_twice {r : Nat} (hr : r ≠ 0) (x : Grid) : (x.endedFor r).endedFor r = x.endedFor r := by
  by_cases hx : x.reason = 0 <;> simp [Grid.endedFor, hx, hr]

/-- Every gang of a grid is retiring. -/
def State.GridRetires (s : State) (n : Nat) : Prop := ∀ g ∈ s.gangs, g.grid = n → g.status = .retiring

theorem State.endGrid_retires {s : State} {n m : Nat} (r : Nat) (h : m = n ∨ s.GridRetires n) : (s.endGrid m r).GridRetires n := by
  intro g hg hn
  rw [State.endGrid_gangs, List.mem_map] at hg
  obtain ⟨g, hg, rfl⟩ := hg
  rw [Gang.stopped_grid] at hn
  exact Gang.stopped_retiring (h.imp (fun hm => hn.trans hm.symm) (fun hs => hs g hg hn))

/-- Grids that end one after another: the gangs of each of them retire. -/
theorem State.endGrids_retires {l : List Grid} {n r : Nat} {s : State} (h : (∃ x ∈ l, x.id = n) ∨ s.GridRetires n) :
    (l.foldl (fun t x => t.endGrid x.id r) s).GridRetires n := by
  induction l generalizing s with
  | nil => exact h.resolve_left (by simp)
  | cons y l ih =>
    refine ih ?_
    rcases h with ⟨x, hx, rfl⟩ | h
    · rcases List.mem_cons.mp hx with rfl | hx
      · exact .inr (State.endGrid_retires r (.inl rfl))
      · exact .inl ⟨x, hx, rfl⟩
    · exact .inr (State.endGrid_retires r (.inr h))

/-- Grids that end one after another for one reason: the record of each of them has ended, with the earliest reason. -/
theorem State.endGrids_find {l : List Grid} {n r : Nat} (hr : r ≠ 0) {s : State} {x : Grid}
    (h : s.grids.find? (fun y => y.id == n) = some x) :
    (l.foldl (fun t x => t.endGrid x.id r) s).grids.find? (fun y => y.id == n) =
      some (if ∃ y ∈ l, y.id = n then x.endedFor r else x) := by
  induction l generalizing s x with
  | nil => simpa using h
  | cons y l ih =>
    by_cases hy : y.id = n
    · have hend : (s.endGrid y.id r).grids.find? (fun y => y.id == n) = some (x.endedFor r) := by
        rw [State.endGrid_grids, hy]
        exact find_modFirst h (fun _ => rfl)
      simp only [List.foldl_cons, ih hend, Grid.endedFor_twice hr, ite_self]
      rw [if_pos ⟨y, List.mem_cons_self, hy⟩]
    · have hkeep : (s.endGrid y.id r).grids.find? (fun y => y.id == n) = some x := by
        rw [State.endGrid_grids, find_modFirst_other (f := Grid.endedFor r) (fun _ => rfl), h]
        intro z hz
        simp only [beq_iff_eq] at hz
        simpa [hz] using hy
      simp only [List.foldl_cons, ih hkeep, List.mem_cons, exists_eq_or_imp, hy, false_or]

theorem State.endGrids_keeps {γ : Type} (p : State → γ) {r : Nat} (h : ∀ (t : State) (n : Nat), p (t.endGrid n r) = p t)
    (l : List Grid) (s : State) : p (l.foldl (fun t x => t.endGrid x.id r) s) = p s :=
  foldl_keeps (fun t x => h t x.id) l s

/-- The state in which a thermal halt ends the grids: the clocks stopped, the host signalled, the halt logged. -/
def State.haltSignalled (s : State) : State :=
  { s with halted := true, host := { s.host with signals := s.host.signals + 1 } }.logTrip 0

/-- The grids with a gang that stands on cores. -/
def State.residentGrids (s : State) : List Grid :=
  s.grids.filter (fun x => s.gangs.any (fun g => g.grid == x.id && !g.absent))

theorem execThermalHalt_halts {s : State} (h : s.halted = false) :
    execThermalHalt s = .next (s.residentGrids.foldl (fun t x => t.endGrid x.id 11) s.haltSignalled) :=
  if_neg (by simp [h])

theorem State.mem_residentGrids {s : State} {n : Nat} {x : Grid} (hx : s.grids.find? (fun y => y.id == n) = some x)
    (hg : ∃ g ∈ s.gangs, g.grid = n ∧ g.absent = false) : ∃ y ∈ s.residentGrids, y.id = n := by
  have hn : x.id = n := by simpa using List.find?_some hx
  obtain ⟨g, hg, hgn, ha⟩ := hg
  refine ⟨x, List.mem_filter.mpr ⟨List.mem_of_find?_eq_some hx, ?_⟩, hn⟩
  exact List.any_eq_true.mpr ⟨g, hg, by simp [hgn, hn, ha]⟩

/-! ### Trips (01 R14) -/

theorem State.logTrip_dies (s : State) (place : Int) : (s.logTrip place).dies = s.dies := State.log_dies ..

/-- The record of a trip leaves a die's clock as it was. -/
theorem State.logTrip_clock (s : State) (place : Int) (die : Nat) : (s.logTrip place).clock die = s.clock die := by
  simp [State.clock, State.logTrip, State.die]

theorem execJunctionTrip_trips {s : State} {die : Nat} (hd : die < 12) (h : (s.die die).hot = false) :
    execJunctionTrip die s = .next ((s.modDie die (fun d => { d with hot := true })).logTrip (die : Int)) := by
  simp [execJunctionTrip, hd, h]

theorem execPowerTrip_trips {s : State} (h : s.power = false) :
    execPowerTrip s = .next ({ s with power := true }.logTrip 0) := by
  simp [execPowerTrip, h]

/-! ### Bring-up, trips and the thermal halt: the statement, part by part -/

/-- R18: SEEDLING_ENTRY of a die in no service. -/
theorem seedlingEntry_results {s : State} {die : Nat} (hd : die < 12) (hl : die < s.dies.length)
    (hv : (s.die die).service = 0) (hh : s.halted = false) :
    ∃ t : State, exec (.seedlingEntry die) s = .next t ∧ (t.die die).service = 1 ∧ t.clock die = 350 ∧
      (∀ k, k ≠ die → t.die k = s.die k) ∧ { t with dies := s.dies } = s := by
  refine ⟨_, execSeedlingEntry_enters hd hv hh, ?_, State.clock_of_slow hh (.inr (.inr ?_)),
    fun k hk => State.die_modDie_other hk s _, rfl⟩ <;>
  simp [State.die_modDie_same hl]

/-- R19: LEAVE_SEEDLING of a die whose stack and links have trained. -/
theorem leaveSeedling_results {s : State} {die : Nat} (hd : die < 12) (hl : die < s.dies.length)
    (hv : (s.die die).service = 1) (hm : (s.die die).hbm = 1) (hlinks : ∀ l ∈ dieLinks die, s.linkState l = 1) :
    ∃ t : State, exec (.leaveSeedling die) s = .next t ∧ (t.die die).service = 2 ∧ (∀ m, t.tryteAt m = s.tryteAt m) ∧
      (s.halted = false → s.power = false → (s.die die).hot = false → t.clock die = 700) ∧ t.gangs = s.gangs := by
  have hw := s.unpin_writesBack die
  have hdies : (s.unpin die).dies = s.dies := hw.keeps State.dies rfl
  have hdie := State.die_modDie_same (s := s.unpin die) (d := die) (by rwa [hdies]) (fun d => { d with service := 2 })
  rw [State.die_of_dies hdies] at hdie
  refine ⟨_, execLeaveSeedling_leaves hd hv hm (State.linksTrained_of_up hlinks), congrArg DieSt.service hdie, fun m => ?_,
    fun hh hp hot => State.clock_of_full ?_ ?_ ((congrArg DieSt.hot hdie).trans hot) (congrArg DieSt.service hdie),
    hw.keeps State.gangs rfl⟩
  · exact State.tryteAt_of_memories (hw.keeps State.mem rfl) (hw.keeps State.peerMem rfl) (hw.keeps State.hostMem rfl) m
  · exact (hw.keeps State.halted rfl).trans hh
  · exact (hw.keeps State.power rfl).trans hp

/-- R14: JUNCTION_TRIP of a die that has not tripped. -/
theorem junctionTrip_results {s : State} {die : Nat} (hd : die < 12) (hl : die < s.dies.length) (hot : (s.die die).hot = false) :
    ∃ t : State, exec (.junctionTrip die) s = .next t ∧ (s.halted = false → t.clock die = 350) ∧
      (∀ k, k ≠ die → t.die k = s.die k) ∧
      t.host.eloghead + t.host.eloglost = s.host.eloghead + s.host.eloglost + 1 := by
  refine ⟨_, execJunctionTrip_trips hd hot, fun hh => ?_, fun k hk => ?_, State.log_counts ..⟩
  · rw [State.logTrip_clock]
    exact State.clock_of_slow hh (.inr (.inl (by rw [State.die_modDie_same hl])))
  · rw [State.die_of_dies (State.logTrip_dies _ _), State.die_modDie_other hk]

/-- R14: POWER_TRIP while none is in force. -/
theorem powerTrip_results {s : State} (hp : s.power = false) :
    ∃ t : State, exec .powerTrip s = .next t ∧ t.dies = s.dies ∧ (s.halted = false → ∀ die, t.clock die = 350) ∧
      t.host.eloghead + t.host.eloglost = s.host.eloghead + s.host.eloglost + 1 := by
  refine ⟨_, execPowerTrip_trips hp, State.logTrip_dies _ _, fun hh die => ?_, State.log_counts ..⟩
  rw [State.logTrip_clock]
  exact State.clock_of_slow hh (.inl rfl)

/-- Table 1.5: LINK_TRAINED of a link that has not trained. -/
theorem linkTrained_results {s : State} {link : Nat} (h : s.HasLink link) (hs : (s.linkEnd link 0).state = 0)
    (hw : (s.linkEnd link 0).wid = 0) (lanes : Nat) :
    ∃ t : State, exec (.linkTrained link lanes) s = .next t ∧
      (lanes = 64 → (t.linkEnd link 0).state = 1 ∧ (t.linkEnd link 0).wid = 1) ∧
      (lanes = 32 → (t.linkEnd link 0).state = 1 ∧ (t.linkEnd link 0).wid = -1) ∧
      (lanes = 0 → (t.linkEnd link 0).state = -1) := by
  refine ⟨_, execLinkTrained_trains h hs hw lanes, ?_, ?_, ?_⟩ <;> rintro rfl
  · simp [State.upLink_linkEnd h]
  · simp [State.upLink_linkEnd h]
  · simpa using State.failLink_state h

/-- R14: THERMAL_HALT of a device that runs. -/
theorem thermalHalt_results {s : State} (hh : s.halted = false) :
    ∃ t : State, exec .thermalHalt s = .next t ∧ (∀ die, t.clock die = 0) ∧ t.mem = s.mem ∧
      t.host.signals = s.host.signals + 1 ∧
      t.host.eloghead + t.host.eloglost = s.host.eloghead + s.host.eloglost + 1 ∧
      ∀ n x, s.grids.find? (fun y => y.id == n) = some x → (∃ g ∈ s.gangs, g.grid = n ∧ g.absent = false) →
        (∀ g ∈ t.gangs, g.grid = n → g.status = .retiring) ∧
        ∃ y, t.grids.find? (fun y => y.id == n) = some y ∧ y.ended = true ∧ y.reason = (if x.reason = 0 then 11 else x.reason) := by
  have hhost := State.endGrids_keeps State.host (fun t n => State.endGrid_host t n 11) s.residentGrids s.haltSignalled
  have hmem := State.endGrids_keeps State.mem (fun t n => State.endGrid_mem t n 11) s.residentGrids s.haltSignalled
  have hhalted := State.endGrids_keeps State.halted (fun t n => State.endGrid_halted t n 11) s.residentGrids s.haltSignalled
  refine ⟨_, execThermalHalt_halts hh, fun die => State.clock_of_halted (hhalted.trans (State.log_halted ..)) die,
    hmem.trans (State.log_mem ..), ?_, ?_, fun n x hx hg => ?_⟩
  · rw [hhost]
    exact State.log_signals ..
  · rw [hhost]
    exact State.log_counts ..
  · have hres := State.mem_residentGrids hx hg
    have hfind : s.haltSignalled.grids.find? (fun y => y.id == n) = some x := by
      rwa [show s.haltSignalled.grids = s.grids from State.log_grids ..]
    refine ⟨State.endGrids_retires (.inl hres), x.endedFor 11, ?_, rfl, rfl⟩
    rw [State.endGrids_find (by decide) hfind, if_pos hres]

/-- Settles O43: the steps of a die, the trips, the links and the thermal halt, each by its own lemma. -/
theorem bringupResults : Obligations.BringupResults := by
  unfold Obligations.BringupResults
  intro s
  refine ⟨fun die hd hl => ⟨seedlingEntry_results hd hl, fun hv => ?_, fun ok hm => ?_, fun ok hm => ?_,
    leaveSeedling_results hd hl, fun h => ?_, fun hot => ?_, junctionTrip_results hd hl, ?_⟩, rfl,
    fun h => if_pos h, powerTrip_results, fun link h hs hw lanes => linkTrained_results h hs hw lanes,
    fun h => if_pos h, thermalHalt_results⟩
  · exact if_pos (.inr (.inl hv))
  · exact ⟨_, execHbmStackTrained_trains hd hm ok, State.die_modDie_same hl _, fun k hk => State.die_modDie_other hk s _, rfl⟩
  · exact if_pos (.inr hm)
  · refine execLeaveSeedling_stays (h.imp_right (Or.imp_right fun hhub => ?_))
    obtain ⟨l, hl, hub, hdown⟩ := hhub
    exact State.not_linksTrained_of_hub hd hl hub hdown
  · exact if_pos (.inr hot)
  · exact ⟨_, rfl, State.die_modDie_same hl _, fun k hk => State.die_modDie_other hk s _⟩

/-! ### Firmware (01 R16, 03 R51) -/

theorem Firmware.boot_keeps (f : Firmware) : f.boot.flash = f.flash ∧ f.boot.fused = f.fused := by
  unfold Firmware.boot
  split <;> exact ⟨rfl, rfl⟩

theorem imageOk_iff (fused : Nat) (image : List Nat) :
    imageOk fused image = true ↔ Config.imageSigned image = true ∧ fused ≤ Config.imageVersion image := by
  simp [imageOk]

theorem Firmware.boot_runs {f : Firmware} (ht : f.torn = false) (h : imageOk f.fused f.flash = true) :
    f.boot = { f.run f.flash with buffer := [] } := by
  simp [Firmware.boot, ht, h]

theorem Firmware.boot_recovers {f : Firmware} (h : f.torn = true ∨ ¬imageOk f.fused f.flash = true) :
    f.boot = { f with mode := -1, image := [], buffer := [], recctl := 0 } := by
  unfold Firmware.boot
  rw [if_neg]
  rcases h with h | h <;> simp [h]

theorem State.afterReset_cores_fused (s : State) : s.afterReset.cores.map (·.fused) = s.cores.map (·.fused) := by
  simp [State.afterReset]

theorem State.afterReset_cores_empty (s : State) : ∀ k ∈ s.afterReset.cores, k.l1 = [] ∧ k.order = [] ∧ k.tlb = [] := by
  simp [State.afterReset, Core.reset]

theorem execSecurityVersionAdvance_eq (v : Nat) (s : State) : execSecurityVersionAdvance v s = .next
    (if s.fw.mode = 1 then { s with fw := { s.fw with fused := Max.max s.fw.fused v } } else s) := by
  unfold execSecurityVersionAdvance
  by_cases hm : s.fw.mode = 1
  · by_cases hv : s.fw.fused < v
    · rw [if_pos ⟨hm, hv⟩, if_pos hm, Nat.max_eq_right hv.le]
    · rw [if_neg (fun h => hv h.2), if_pos hm, Nat.max_eq_left (not_lt.mp hv)]
  · rw [if_neg (fun h => hm h.1), if_neg hm]

theorem execFirmwareSlotRewrite_eq (image : List Nat) (s : State) : execFirmwareSlotRewrite image s = .next
    (if s.fw.mode = 1 then
      { s with fw := if s.fw.rewriting = some image then { s.fw with flash := image, rewriting := none, torn := false }
        else { s.fw with rewriting := some image, torn := true } }
    else s) := by
  unfold execFirmwareSlotRewrite
  by_cases hm : s.fw.mode = 1
  · by_cases hr : s.fw.rewriting = some image <;> simp [hm, hr]
  · simp [hm]

/-- RECCTL_SUBMIT in recovery, once the check of the buffered image is done. -/
theorem execRecctlSubmit_checked {s : State} (hm : s.fw.mode = -1) (hr : s.fw.recctl = 1) : execRecctlSubmit s = .next
    { s with fw := if imageOk s.fw.fused s.fw.buffer then s.fw.run s.fw.buffer
      else { s.fw with buffer := [], recctl := -1 } } := by
  unfold execRecctlSubmit
  by_cases hi : imageOk s.fw.fused s.fw.buffer = true <;> simp [hm, hr, hi]

/-- Settles O44: each clause is the equation of its step; a device reset is split by what the boot ROM finds in the slot. -/
theorem firmwareResults : Obligations.FirmwareResults := by
  unfold Obligations.FirmwareResults
  intro s vc passes
  have hpass (image : List Nat) : imageOk s.fw.fused image = true ↔ passes image := imageOk_iff _ _
  have hflash := Firmware.boot_keeps s.afterReset.fw
  refine ⟨⟨{ s.afterReset with fw := s.afterReset.fw.boot }, rfl, hflash.1, hflash.2, rfl, rfl, rfl, rfl, rfl, rfl, rfl, rfl,
    rfl, s.afterReset_cores_fused, s.afterReset_cores_empty, ?_, ?_⟩, ?_, ?_, ?_, ?_, ?_, ?_⟩
  · intro ht hp
    have hb := Firmware.boot_runs (f := s.afterReset.fw) ht ((hpass _).mpr hp)
    dsimp only
    rw [hb]
    exact ⟨rfl, rfl, rfl⟩
  · intro h
    have hb := Firmware.boot_recovers (f := s.afterReset.fw) (h.imp id (mt (hpass _).mp))
    dsimp only
    rw [hb]
    exact ⟨rfl, rfl, rfl⟩
  · intro hm
    exact if_pos hm
  · intro hm hr
    show execRecctlSubmit s = _
    simp [execRecctlSubmit, hm, hr]
  · intro hm hr
    refine ⟨_, execRecctlSubmit_checked hm hr, rfl, fun hp => ?_, fun hp => ?_⟩
    · exact if_pos ((hpass _).mpr hp)
    · exact if_neg (mt (hpass _).mp hp)
  · exact fun v => execSecurityVersionAdvance_eq v s
  · exact fun image => execFirmwareSlotRewrite_eq image s
  · intro q hq
    refine ⟨?_, fun nonce => ⟨_, rfl⟩⟩
    simp only [List.map_cons, List.map_nil, List.cons_append, List.nil_append, List.mem_cons, List.not_mem_nil, or_false] at hq
    rcases hq with rfl | rfl | rfl | rfl | rfl | rfl | rfl | rfl | rfl | rfl | rfl | rfl <;> rfl

/-! ### The state right after reset (01 R16, R20, 04 R66, 15 R263, 24 R419) -/

theorem State.reset_die (k : Nat) : State.reset.die k = DieSt.reset := getD_replicate_self _ _ _

theorem State.reset_fieldSt (f : Nat) : State.reset.fieldSt f = FieldSt.reset := getD_replicate_self _ _ _

theorem State.reset_queue (f q : Nat) : State.reset.queue f q = ⟨0, 0, 0, 0, 0, 0, -1⟩ := by
  unfold State.queue
  rw [State.reset_fieldSt]
  exact getD_replicate_self _ _ _

theorem State.reset_slotState (f : Nat) (n : Int) : State.reset.slotState f n = 0 := by
  unfold State.slotState State.slot?
  rw [State.reset_fieldSt]
  rfl

theorem State.reset_linkEnd (l e : Nat) : State.reset.linkEnd l e = LinkEnd.reset := by
  have hl : State.reset.links.getD l (LinkEnd.reset, LinkEnd.reset) = (LinkEnd.reset, LinkEnd.reset) := getD_replicate_self _ _ _
  have hc : State.reset.coluri.getD (l - 72) LinkEnd.reset = LinkEnd.reset := getD_replicate_self _ _ _
  simp only [State.linkEnd, hl, hc, ite_self]

/-- A die in no service offers nothing, and its SVC reads 0 until boot is done (log 33). -/
theorem State.reset_qavl_svc (die : Nat) : trit (State.reset.qavl die) 20 = 0 := by
  have ho (d : Nat) : State.reset.offers d = false := by simp [State.offers, State.reset_die, DieSt.reset]
  have hu (q : Nat) : State.reset.quadUsable q = false := by simp [State.quadUsable, ho]
  have hz : State.reset.qavl die = 0 := by
    have hh : State.reset.halted = false := rfl
    have hm : State.reset.fw.mode = 0 := rfl
    simp [State.qavl, ho, hu, hh, hm, State.reset_die, DieSt.reset]
  rw [hz]
  decide

/-- Field 0 owns every quad, slice group and channel (24 R419). -/
theorem State.reset_resource {k d n : Nat} (h1 : 1 ≤ k) (h3 : k ≤ 3) (hd : d < 12) (hn : n < perDie k) :
    State.reset.resource k d n = ⟨0, 0⟩ := by
  have hk : k = 1 ∨ k = 2 ∨ k = 3 := by omega
  rcases hk with rfl | rfl | rfl
  · have hn : n < 20 := hn
    exact List.getD_replicate (n := 240) (i := 20 * d + n) _ (by omega)
  · have hn : n < 16 := hn
    exact List.getD_replicate (n := 192) (i := 16 * d + n) _ (by omega)
  · have hn : n < 32 := hn
    exact List.getD_replicate (n := 384) (i := 32 * d + n) _ (by omega)

/-- Settles O52, list by list of the state after reset. -/
theorem resetState : Obligations.ResetState := by
  unfold Obligations.ResetState
  refine ⟨rfl, rfl, rfl, rfl, rfl, rfl, rfl, rfl, rfl, rfl, ?_, ?_, fun f _ n => State.reset_slotState f n,
    fun k d n h1 h3 hd hn => State.reset_resource h1 h3 hd hn, ?_, rfl, rfl, rfl, rfl, rfl, rfl, rfl, ?_,
    State.reset_memWf, State.reset_scratchWf⟩
  · intro die hd
    rw [State.reset_die]
    exact ⟨rfl, rfl, rfl, rfl, State.reset_qavl_svc die⟩
  · intro f _ q _
    rw [State.reset_queue]
    exact ⟨rfl, rfl⟩
  · intro l _ e _
    rw [State.reset_linkEnd]
    exact ⟨rfl, rfl, rfl⟩
  · intro l hl
    simp only [State.tryteAt, hl]
    rfl

end Sys2Proof.Machine
end

section
/-! ## A step keeps the canonical form of the three memories (O58)

`State.memWf` says that device, peer and host memory are in canonical form. Three operations alone write them:
`putTrytes`, `setHostByte` and `setHostBlock`, each of which keeps the form. What follows is one lemma for each
function of the model that gives a state, in the order of the definitions: an operation that writes none of the three
memories leaves `memWf` as it was (an `↔`), and an operation that may write one keeps it (an implication). Where a
function gives a state only in some cases, `NextWf`, `OkWf`, `SomeWf` and the other predicates below say that every
state it gives is in canonical form. -/
namespace Sys2Proof.Machine
/-- The canonical form of every state that a result may hold. -/
def NextWf (o : Host.Outcome State Fault Refusal) : Prop := ∀ t, o = .next t → t.memWf
/-- The canonical form of the state that an operation of a row leaves when it does not trap. -/
def OkWf (x : Except Trap State) : Prop := ∀ t, x = .ok t → t.memWf
/-- The canonical form of the state that a step that may not apply leaves. -/
def SomeWf (x : Option State) : Prop := ∀ t, x = some t → t.memWf
/-- The canonical form of the state that a page walk leaves while it waits. -/
def Walked.Wf : Walked → Prop
  | .wait _ t => t.memWf
  | _ => True

/-- The canonical form of the state that the check of an access leaves. -/
def Checked.Wf : Checked → Prop
  | .wait _ t | .trapped t | .lanes _ t => t.memWf

/-- The canonical form of the state that a try to place a gang leaves. -/
def Try.Wf : Try → Prop
  | .placed t | .other t => t.memWf
  | .no => True

/-- The canonical form of the state that a unit of an engine command leaves. -/
def UnitRes.Wf {α : Type} : UnitRes α → Prop
  | .ok _ t | .wait _ t | .fault _ _ _ t | .fail _ _ _ _ t => t.memWf

/-- The canonical form of the state that a step of a collective leaves. -/
def CollRes.Wf {α : Type} : CollRes α → Prop
  | .ok _ t | .stop t => t.memWf

@[simp] theorem nextWf_next (t : State) : NextWf (.next t) ↔ t.memWf := by simp [NextWf]
@[simp] theorem nextWf_fault (r) : NextWf (.fault r) := by simp [NextWf]
@[simp] theorem okWf_ok (t : State) : OkWf (.ok t) ↔ t.memWf := by simp [OkWf]
@[simp] theorem okWf_error (e) : OkWf (.error e) := by simp [OkWf]
@[simp] theorem someWf_some (t : State) : SomeWf (some t) ↔ t.memWf := by simp [SomeWf]
@[simp] theorem someWf_none : SomeWf none := by simp [SomeWf]
@[simp] theorem okWf_bind {α} {x : Except Trap α} {f : α → Except Trap State} :
    OkWf (x >>= f) ↔ ∀ a, x = .ok a → OkWf (f a) := by
  cases x <;> simp [Bind.bind, Except.bind]

@[simp] theorem SomeWf.getD {x : Option State} {s : State} (h : SomeWf x) (hs : s.memWf) :
    (x.getD s).memWf := by
  cases x with
  | none => exact hs
  | some t => exact h t rfl

theorem SomeWf.map {α : Type} {x : Option α} {f : α → State} (h : ∀ a, (f a).memWf) : SomeWf (x.map f) := by
  cases x <;> simp [h]

/-- The canonical form of the state that either outcome of a check of addresses leaves. -/
def EitherWf {α : Type} : Except State (α × State) → Prop
  | .error t => t.memWf
  | .ok q => q.2.memWf

@[simp] theorem memWf_ite (p : Prop) [Decidable p] (a b : State) :
    (if p then a else b).memWf ↔ if p then a.memWf else b.memWf := by
  split <;> rfl

@[simp] theorem nextWf_ite (p : Prop) [Decidable p] (a b) :
    NextWf (if p then a else b) ↔ if p then NextWf a else NextWf b := by
  split <;> rfl

@[simp] theorem okWf_ite (p : Prop) [Decidable p] (a b) :
    OkWf (if p then a else b) ↔ if p then OkWf a else OkWf b := by
  split <;> rfl

@[simp] theorem someWf_ite (p : Prop) [Decidable p] (a b) :
    SomeWf (if p then a else b) ↔ if p then SomeWf a else SomeWf b := by
  split <;> rfl

@[simp] theorem withRow_memWf {s : State} {f : Ctx → Except Trap State} (h : s.memWf) (hf : ∀ c, OkWf (f c)) :
    NextWf (withRow s f) := by
  unfold withRow
  split
  · exact nextWf_fault _
  · rename_i c _
    have hc := hf c
    have ht (e : Trap) : (takeTrap s c e).memWf := State.memWf_of_eq h (by simp) (by simp) (by simp)
    have hh (k : Int) : (s.hold c k).memWf := h
    (repeat' split) <;> simp_all

@[simp] theorem State.foldl_memWf_iff {α} {f : State → α → State}
    (hf : ∀ s x, (f s x).memWf ↔ s.memWf) (l : List α) {s : State} : (l.foldl f s).memWf ↔ s.memWf := by
  induction l generalizing s with
  | nil => rfl
  | cons x r ih => exact ih.trans (hf s x)

theorem CollRes.Wf.of_eq {α : Type} {x y : CollRes α} (h : x.Wf) (e : x = y) : y.Wf := e ▸ h
/-- Canonical form is about three fields of the state: it survives an update of any other. -/
@[simp] theorem memWf_mk {agenda steps cur now fw dies cores quadTlb walker fields gangs images grids mem
    hostMem peerMem failing l2 forwards tags tagCache tagHits sectors checks hostLines hostQueue sleepers
    links coluri host quads groups chans freq moving rehash levelBars colls tileIn tileQ pushes recalls
    power halted mgmtCyc reports turn} : State.memWf ⟨agenda, steps, cur, now, fw, dies, cores, quadTlb,
    walker, fields, gangs, images, grids, mem, hostMem, peerMem, failing, l2, forwards, tags, tagCache,
    tagHits, sectors, checks, hostLines, hostQueue, sleepers, links, coluri, host, quads, groups, chans,
    freq, moving, rehash, levelBars, colls, tileIn, tileQ, pushes, recalls, power, halted, mgmtCyc, reports,
    turn⟩ ↔ Memory.wf mem = true ∧ Memory.wf peerMem = true ∧ Memory.hostWf hostMem = true :=
  Iff.rfl

@[simp] theorem memWf_eta (s : State) :
    (Memory.wf s.mem = true ∧ Memory.wf s.peerMem = true ∧ Memory.hostWf s.hostMem = true) ↔ s.memWf :=
  Iff.rfl

@[simp] theorem State.putTrytes_memWf_of {s : State} (l : Loc) (ws : List (Nat × Tryte)) (h : s.memWf) :
    (s.putTrytes l ws).memWf := State.putTrytes_memWf l ws h
variable {s : State}

/-! ### The operations on the state: rows, gangs, traps -/

@[simp] theorem State.modField_memWf {f g} : (s.modField f g).memWf ↔ s.memWf := by simp [State.modField]
@[simp] theorem State.modCore_memWf {c g} : (s.modCore c g).memWf ↔ s.memWf := by simp [State.modCore]
@[simp] theorem State.modDie_memWf {d g} : (s.modDie d g).memWf ↔ s.memWf := by simp [State.modDie]
@[simp] theorem State.modGang_memWf {gid f} : (s.modGang gid f).memWf ↔ s.memWf := by simp [State.modGang]
@[simp] theorem State.modBlock_memWf {r f} : (s.modBlock r f).memWf ↔ s.memWf := by simp [State.modBlock]
@[simp] theorem State.modRow_memWf {r f} : (s.modRow r f).memWf ↔ s.memWf := by simp [State.modRow]
@[simp] theorem State.modGrid_memWf {i f} : (s.modGrid i f).memWf ↔ s.memWf := by simp [State.modGrid]
@[simp] theorem State.log_memWf {kind gid place pc info line} :
    (s.log kind gid place pc info line).memWf ↔ s.memWf := by
  simp [State.log]

@[simp] theorem State.logRow_memWf {kind r pc info line} : (s.logRow kind r pc info line).memWf ↔ s.memWf := by
  simp [State.logRow]

@[simp] theorem State.report_memWf {what gid} : (s.report what gid).memWf ↔ s.memWf := by simp [State.report]
@[simp] theorem State.endGrid_memWf {grid reason} : (s.endGrid grid reason).memWf ↔ s.memWf := by
  simp [State.endGrid]

@[simp] theorem State.issued_memWf {c r moves} : (s.issued c r moves).memWf ↔ s.memWf := by
  simp [State.issued]

@[simp] theorem State.finish_memWf {c r} : (s.finish c r).memWf ↔ s.memWf := by simp [State.finish]
@[simp] theorem State.hold_memWf {c kind flag slot} : (s.hold c kind flag slot).memWf ↔ s.memWf := by
  simp [State.hold]

@[simp] theorem State.trapped_memWf {c r done_ moves} : (s.trapped c r done_ moves).memWf ↔ s.memWf := by
  simp [State.trapped]

@[simp] theorem takeTrapAt_memWf {c cause info pc bk skip rem} :
    (takeTrapAt s c cause info pc bk skip rem).memWf ↔ s.memWf := by
  simp [takeTrapAt]

@[simp] theorem takeTrap_memWf {c t} : (takeTrap s c t).memWf ↔ s.memWf := by simp [takeTrap]
@[simp] theorem leaveHandler_memWf {c} : (leaveHandler s c).memWf ↔ s.memWf := by simp [leaveHandler]

/-! ### The shared step of computing instructions -/

@[simp] theorem alu_memWf {c a f} (h : s.memWf) : OkWf (alu s c a f) := by simp [alu, h]

/-! ### Reports to the host -/

@[simp] theorem State.escReported_memWf {c} : (s.escReported c).memWf ↔ s.memWf := by simp [State.escReported]
@[simp] theorem reportFails_memWf {c f} : (reportFails s c f).memWf ↔ s.memWf := by simp [reportFails]
@[simp] theorem reportEsc_memWf {c} : (reportEsc s c).memWf ↔ s.memWf := by simp [reportEsc]
@[simp] theorem reportDue_memWf {c fail esc} (h : s.memWf) : SomeWf (reportDue s c fail esc) := by
  unfold reportDue
  (repeat' split) <;> simp [h, SomeWf]

/-! ### Headers, NOP, SAFE and immediate words -/

@[simp] theorem execHdr_memWf {f} (h : s.memWf) : NextWf (execHdr f s) := by
  refine withRow_memWf h fun c => ?_
  simp only [okWf_bind]
  intros
  (repeat' split) <;> simp [h]
  exact reportDue_memWf h _ ‹_›

@[simp] theorem prefixWord_memWf {may p} (h : s.memWf) : NextWf (prefixWord s may p) := by
  simp [prefixWord, h]

@[simp] theorem execNop_memWf {f} (h : s.memWf) : NextWf (execNop f s) := by simp [execNop, h]
@[simp] theorem State.swapAt_memWf {c pt} (h : s.memWf) : SomeWf (s.swapAt c pt) := by
  unfold State.swapAt
  split <;> simp [h]

@[simp] theorem State.holdGroup_memWf {c} : (s.holdGroup c).memWf ↔ s.memWf := by simp [State.holdGroup]
@[simp] theorem State.atSafePoint_memWf {c pt} (h : s.memWf) : SomeWf (s.atSafePoint c pt) := by
  simp [State.atSafePoint, h]

@[simp] theorem execSafe_memWf {f} (h : s.memWf) : NextWf (execSafe f s) := by
  refine withRow_memWf h fun c => ?_
  simp [h]

@[simp] theorem State.atPortableSafePoint_memWf {c} (h : s.memWf) : SomeWf (s.atPortableSafePoint c) := by
  unfold State.atPortableSafePoint
  split
  · intro t ht
    obtain ⟨p, -, hp⟩ := Option.bind_eq_some_iff.mp ht
    exact State.atSafePoint_memWf h t hp
  · simp

@[simp] theorem execUnassignedOpcode_memWf {w} (h : s.memWf) : NextWf (execUnassignedOpcode w s) := by
  simp [execUnassignedOpcode, h]

/-! ### Sectors and tags -/

@[simp] theorem State.putTagLine_memWf {t} : (s.putTagLine t).memWf ↔ s.memWf := by simp [State.putTagLine]
@[simp] theorem State.cacheTags_memWf {slice g} : (s.cacheTags slice g).memWf ↔ s.memWf := by
  simp [State.cacheTags]

/-! ### The trytes of the three memories -/

@[simp] theorem State.clearFailing_memWf {line} : (s.clearFailing line).memWf ↔ s.memWf := by
  simp [State.clearFailing]

/-! ### Lines of L2: loads, write-backs, snoops -/

@[simp] theorem State.corrected_memWf {die place unit code line} :
    (s.corrected die place unit code line).memWf ↔ s.memWf := by
  simp [State.corrected]

@[simp] theorem State.fetchTags_memWf {key l} : (s.fetchTags key l).memWf ↔ s.memWf := by
  dsimp only [State.fetchTags]
  (repeat' split) <;> simp

@[simp] theorem State.storeTag_memWf {x} : (s.storeTag x).memWf ↔ s.memWf := by simp [State.storeTag]
@[simp] theorem State.dropL2_memWf {line} : (s.dropL2 line).memWf ↔ s.memWf := by simp [State.dropL2]
@[simp] theorem State.evict_memWf {x} : (s.evict x).memWf ↔ s.memWf := by simp [State.evict]
@[simp] theorem State.makeRoom_memWf {die slice line} : (s.makeRoom die slice line).memWf ↔ s.memWf := by
  dsimp only [State.makeRoom]
  (repeat' split) <;> simp

@[simp] theorem State.l2Fill_memWf {l} : (s.l2Fill l).memWf ↔ s.memWf := by simp [State.l2Fill]
@[simp] theorem State.modL2_memWf {l f} : (s.modL2 l f).memWf ↔ s.memWf := by simp [State.modL2]
@[simp] theorem State.wakeHome_memWf {l} : (s.wakeHome l).memWf ↔ s.memWf := by simp [State.wakeHome]
@[simp] theorem State.l2Request_memWf {l quad hint} : (s.l2Request l quad hint).memWf ↔ s.memWf := by
  simp [State.l2Request]

@[simp] theorem State.l2Write_memWf {l c} : (s.l2Write l c).memWf ↔ s.memWf := by simp [State.l2Write]
@[simp] theorem State.failLine_memWf {l} : (s.failLine l).memWf ↔ s.memWf := by simp [State.failLine]
@[simp] theorem State.fillLine_memWf {l} (h : s.memWf) : (s.fillLine l).memWf := by
  unfold State.fillLine
  split <;> simp [h]

@[simp] theorem State.setHostEntry_memWf {e} : (s.setHostEntry e).memWf ↔ s.memWf := by
  simp [State.setHostEntry]

@[simp] theorem State.snoop_memWf {write l} : (s.snoop write l).memWf ↔ s.memWf := by simp [State.snoop]
@[simp] theorem State.prepare_memWf {write l} (h : s.memWf) : (s.prepare write l).memWf := by
  simp [State.prepare, h]

@[simp] theorem State.snoopFirst_memWf {write ls} (h : s.memWf) : SomeWf (s.snoopFirst write ls) := by
  dsimp only [State.snoopFirst]
  split
  · simp
  · exact (someWf_some _).mpr (State.fold_memWf _ (fun _ _ hs => State.prepare_memWf hs) _ h)

@[simp] theorem State.await_memWf {a stamp ls} : (s.await a stamp ls).memWf ↔ s.memWf := by simp [State.await]
@[simp] theorem State.serveWaiting_memWf {l} : (s.serveWaiting l).memWf ↔ s.memWf := by
  simp [State.serveWaiting]

/-! ### Page walks -/

@[simp] theorem State.fillTlb_memWf {core f va e level ps} :
    (s.fillTlb core f va e level ps).memWf ↔ s.memWf := by
  simp [State.fillTlb]

@[simp] theorem State.dropTlb_memWf {core f va} : (s.dropTlb core f va).memWf ↔ s.memWf := by
  simp [State.dropTlb]

theorem State.walkAt_wf {core f va st} (h : s.memWf) : (s.walkAt core f va st).Wf := by
  dsimp only [State.walkAt]
  split
  · trivial
  · exact State.snoopFirst_memWf h _ ‹_›
  · trivial

@[simp] theorem State.xlatWalk_memWf {core f va n st} (h : s.memWf) : (s.xlatWalk core f va n st).2.memWf := by
  have hw := State.walkAt_wf (core := core) (f := f) (va := va) (st := st) h
  unfold State.xlatWalk
  split <;> simp_all [Walked.Wf]

@[simp] theorem State.xlat_memWf {core f va n} (h : s.memWf) : (s.xlat core f va n).2.memWf := by
  dsimp only [State.xlat]
  split
  · split <;> simp [h]
  · cases s.walkCached core f va with
    | none => exact State.xlatWalk_memWf h
    | some st =>
      have hs := State.xlatWalk_memWf (core := core) (f := f) (va := va) (n := n) (st := st) h
      simp only [Option.map_some]
      split
      · rename_i hx
        rwa [Option.some.inj hx] at hs
      · rename_i hx
        rwa [Option.some.inj hx] at hs
      · exact State.xlatWalk_memWf h

@[simp] theorem State.xlats_memWf {core f n vas} (h : s.memWf) : (s.xlats core f n vas).2.memWf := by
  induction vas generalizing s with
  | nil => exact h
  | cons va r ih => exact ih (State.xlat_memWf h)

/-! ### The checks of an access -/

@[simp] theorem State.xlatLanes_memWf {core f n w ls} (h : s.memWf) : (s.xlatLanes core f n w ls).2.memWf := by
  induction ls generalizing s with
  | nil => exact h
  | cons x r ih => exact ih (State.xlats_memWf h)

theorem State.faultEntry_memWf {die f va k level q} (hq : s.faultEntry die f va k level = some q) :
    q.2.memWf ↔ s.memWf := by
  dsimp only [State.faultEntry] at hq
  (repeat' split at hq) <;> cases hq <;> simp

@[simp] theorem State.faultEntries_memWf {die f xs} : (s.faultEntries die f xs).2.2.memWf ↔ s.memWf := by
  induction xs generalizing s with
  | nil => rfl
  | cons x r ih =>
    unfold State.faultEntries
    split
    · split
      · exact ih
      · exact ih.trans (State.faultEntry_memWf ‹_›)
    · exact ih

@[simp] theorem State.parkFault_memWf {c mask faults op} : (s.parkFault c mask faults op).memWf ↔ s.memWf := by
  simp [State.parkFault]

@[simp] theorem dataTrap_memWf {c va l} : (dataTrap s c va l).memWf ↔ s.memWf := by simp [dataTrap]
@[simp] theorem scrDataTrap_memWf {c ea} : (scrDataTrap s c ea).memWf ↔ s.memWf := by simp [scrDataTrap]
@[simp] theorem protTrap_memWf {c x} : (protTrap s c x).memWf ↔ s.memWf := by simp [protTrap]
theorem check3_wf {c n w whole eas} (h : s.memWf) : (check3 s c n w whole eas).Wf := by
  have hx := State.xlatLanes_memWf (core := c.core) (f := c.fld) (n := n) (w := w) (ls := eas) h
  dsimp only [check3]
  (repeat' split) <;> simpa [Checked.Wf] using hx

@[simp] theorem walkWait_memWf {c ls} : (walkWait s c ls).memWf ↔ s.memWf := by simp [walkWait]
/-- An instruction that goes on with what check 3 gives. -/
theorem check3_okWf {c n w whole eas} {k : List LaneX → State → State} (h : s.memWf)
    (hk : ∀ xs t, t.memWf → (k xs t).memWf) :
    OkWf (match check3 s c n w whole eas with
      | .wait ls t => .ok (walkWait t c ls)
      | .trapped t => .ok t
      | .lanes xs t => .ok (k xs t)) := by
  have hx := check3_wf (c := c) (n := n) (w := w) (whole := whole) (eas := eas) h
  split <;> simp_all [Checked.Wf]

/-! ### Copies of a line -/

@[simp] theorem State.dropL1_memWf {core ls} : (s.dropL1 core ls).memWf ↔ s.memWf := by simp [State.dropL1]
@[simp] theorem State.dropRdc_memWf {die ls} : (s.dropRdc die ls).memWf ↔ s.memWf := by simp [State.dropRdc]
@[simp] theorem State.dropCopies_memWf {core ls} : (s.dropCopies core ls).memWf ↔ s.memWf := by
  simp [State.dropCopies]

/-! ### The home of a line: writes and flushes -/

@[simp] theorem State.trigger_memWf {line} : (s.trigger line).memWf ↔ s.memWf := by simp [State.trigger]
@[simp] theorem State.homePut_memWf {line ws c} (h : s.memWf) : (s.homePut line ws c).memWf := by
  simp [State.homePut, h]

@[simp] theorem State.homePutWords_memWf {line ws c} (h : s.memWf) : (s.homePutWords line ws c).memWf := by
  simp [State.homePutWords, h]

@[simp] theorem State.flushOne_memWf {who line} (h : s.memWf) : (s.flushOne who line).memWf := by
  unfold State.flushOne
  split <;> simp [h]

@[simp] theorem State.flushLine_memWf {line} (h : s.memWf) : (s.flushLine line).memWf :=
  State.fold_memWf _ (fun _ _ hs => State.flushOne_memWf hs) _ h

@[simp] theorem State.flushBlock_memWf {who ls} (h : s.memWf) : (s.flushBlock who ls).memWf :=
  State.fold_memWf _ (fun _ _ hs => State.flushOne_memWf hs) _ h

@[simp] theorem State.homeWrite_memWf {line ws c src} (h : s.memWf) : (s.homeWrite line ws c src).memWf := by
  simp [State.homeWrite, h]

@[simp] theorem State.trimL1_memWf {core} : (s.trimL1 core).memWf ↔ s.memWf := by simp [State.trimL1]
@[simp] theorem State.flushRoom_memWf {core} (h : s.memWf) : (s.flushRoom core).memWf := by
  unfold State.flushRoom
  (repeat' split) <;> simp [h]

@[simp] theorem State.l1Hit_memWf {core line hint} : (s.l1Hit core line hint).memWf ↔ s.memWf := by
  simp [State.l1Hit]

@[simp] theorem State.l1Put_memWf {core x} (h : s.memWf) : (s.l1Put core x).memWf := by simp [State.l1Put, h]
@[simp] theorem State.fillCopies_memWf {core line hint} (h : s.memWf) :
    (s.fillCopies core line hint).memWf := by
  simp [State.fillCopies, h]

@[simp] theorem State.refreshCopies_memWf {core line} : (s.refreshCopies core line).memWf ↔ s.memWf := by
  simp [State.refreshCopies]

@[simp] theorem State.loadLine_memWf {core line hint} (h : s.memWf) : (s.loadLine core line hint).memWf := by
  simp [State.loadLine, h]

@[simp] theorem State.rdcUpdate_memWf {die line ws} : (s.rdcUpdate die line ws).memWf ↔ s.memWf := by
  simp [State.rdcUpdate]

@[simp] theorem State.copiesUpdate_memWf {core line ws} : (s.copiesUpdate core line ws).memWf ↔ s.memWf := by
  simp [State.copiesUpdate]

/-! ### Waits and fences -/

@[simp] theorem State.doAcquire_memWf {core scope} : (s.doAcquire core scope).memWf ↔ s.memWf := by
  simp [State.doAcquire]

@[simp] theorem State.flight_memWf {scope} : (s.flight scope).memWf ↔ s.memWf := by simp [State.flight]

/-! ### Scratch -/

@[simp] theorem State.scrMark_memWf {ref k w t} : (s.scrMark ref k w t).memWf ↔ s.memWf := by
  simp [State.scrMark]

@[simp] theorem State.scrSet_memWf {ref k w v} : (s.scrSet ref k w v).memWf ↔ s.memWf := by
  simp [State.scrSet]

@[simp] theorem scrWrite_memWf {c r w x v} : (scrWrite s c r w x v).1.memWf ↔ s.memWf := by
  cases x <;> simp [scrWrite]

@[simp] theorem State.parkGroup_memWf {c r} : (s.parkGroup c r).memWf ↔ s.memWf := by simp [State.parkGroup]
@[simp] theorem State.parkFull_memWf {c} : (s.parkFull c).memWf ↔ s.memWf := by simp [State.parkFull]
theorem State.tryLane_memWf {ref kind w ln q} (hq : s.tryLane ref kind w ln = some q) :
    q.2.memWf ↔ s.memWf := by
  cases kind <;> dsimp only [State.tryLane] at hq <;> split at hq <;> cases hq <;> simp

@[simp] theorem State.tryLanes_memWf {core ref w o may ls r} :
    (s.tryLanes core ref w o may ls r).1.memWf ↔ s.memWf := by
  induction ls generalizing s r with
  | nil => rfl
  | cons ln rest ih =>
    unfold State.tryLanes
    split
    · exact ih
    · rename_i ht
      split at ht
      · exact ih.trans (State.tryLane_memWf ht)
      · cases ht

/-! ### Loads and stores -/

@[simp] theorem issueLoad_memWf {c op xs} : (issueLoad s c op xs).memWf ↔ s.memWf := by simp [issueLoad]
@[simp] theorem loadGlobal_memWf {f row} (h : s.memWf) : NextWf (loadGlobal s f row) := by
  refine withRow_memWf h fun c => okWf_bind.mpr fun _ _ => ?_
  split
  · simp [h]
  split
  · simp [h]
  refine okWf_bind.mpr fun _ _ => okWf_bind.mpr fun ts _ => ?_
  split
  · simp [h]
  · exact okWf_bind.mpr fun _ _ => check3_okWf h fun _ _ ht => issueLoad_memWf.mpr ht

@[simp] theorem issueWrite_memWf {c r op xs} : (issueWrite s c r op xs).memWf ↔ s.memWf := by
  simp [issueWrite]

@[simp] theorem execGst_memWf {f} (h : s.memWf) : NextWf (execGst f s) := by
  refine withRow_memWf h fun c => okWf_bind.mpr fun _ _ => ?_
  (iterate 3
    split
    · simp [h])
  refine okWf_bind.mpr fun ts _ => ?_
  split
  · simp [h]
  · exact okWf_bind.mpr fun _ _ => check3_okWf h fun _ _ ht => issueWrite_memWf.mpr ht

@[simp] theorem State.prefetchOne_memWf {c ea} (h : s.memWf) : (s.prefetchOne c ea).memWf := by
  have hx := State.xlat_memWf (core := c.core) (f := c.fld) (va := ea) (n := Need.load) h
  dsimp only [State.prefetchOne]
  (repeat' split) <;> first | assumption | simp [hx]

@[simp] theorem execPrf_memWf {f} (h : s.memWf) : NextWf (execPrf f s) := by
  refine withRow_memWf h fun c => ?_
  simp only [okWf_bind, okWf_ite, okWf_ok, State.finish_memWf]
  intros
  split
  · simpa
  · exact State.fold_memWf _ (fun _ _ hs => State.prefetchOne_memWf hs) _ h

@[simp] theorem execLds_memWf {f} (h : s.memWf) : NextWf (execLds f s) := by
  refine withRow_memWf h fun c => ?_
  simp only [okWf_bind]
  intros
  (repeat' (first | split | (rw [okWf_bind]; intros))) <;> simp [h]

@[simp] theorem putScratch_memWf {c w acc ws vs} : (putScratch c w acc ws vs).1.memWf ↔ acc.1.memWf := by
  unfold putScratch
  induction ws.zip vs generalizing acc with
  | nil => rfl
  | cons q r ih => exact ih.trans scrWrite_memWf

@[simp] theorem execSts_memWf {f} (h : s.memWf) : NextWf (execSts f s) := by
  refine withRow_memWf h fun c => ?_
  have hp (w : Int) (ls : List (Nat × List ScrWord)) (d : Nat → List Word) (a : State × Row) (ha : a.1.memWf) :
      (ls.foldl (fun a q => putScratch c w a q.2 (d q.1)) a).1.memWf := by
    induction ls generalizing a with
    | nil => exact ha
    | cons q r ih => exact ih _ (putScratch_memWf.mpr ha)
  simp only [okWf_bind]
  intros
  (repeat' (first | split | (rw [okWf_bind]; intros))) <;> simp_all

theorem parkSync_memWf {t : State} {c r o left} (ht : t.memWf ↔ s.memWf) :
    (parkSync s t c r o left).memWf ↔ s.memWf := by
  unfold parkSync
  split <;> simp [ht]

@[simp] theorem issueSync_memWf {c o lanes} : (issueSync s c o lanes).memWf ↔ s.memWf := by
  have hp (t : State) (r : Row) (left : List SyncLane) (ht : t.memWf ↔ s.memWf) :=
    parkSync_memWf (c := c) (r := r) (o := o) (left := left) ht
  dsimp only [issueSync]
  (repeat' split) <;> simp [hp]

@[simp] theorem deferSync_memWf {c o lanes} : (deferSync s c o lanes).memWf ↔ s.memWf := by
  dsimp only [deferSync]
  split
  · simp
  · exact parkSync_memWf Iff.rfl

@[simp] theorem syncLoad_memWf {f kind} (h : s.memWf) : NextWf (syncLoad s f kind) := by
  refine withRow_memWf h fun c => ?_
  simp only [okWf_bind]
  intros
  (repeat' (first | split | (rw [okWf_bind]; intros))) <;> simp [h]

@[simp] theorem execStsWe_memWf {f} (h : s.memWf) : NextWf (execStsWe f s) := by
  refine withRow_memWf h fun c => ?_
  simp only [okWf_bind]
  intros
  (repeat' (first | split | (rw [okWf_bind]; intros))) <;> simp [h]

@[simp] theorem execStsSt_memWf {f} (h : s.memWf) : NextWf (execStsSt f s) := by
  refine withRow_memWf h fun c => ?_
  simp only [okWf_bind]
  intros
  (repeat' (first | split | (rw [okWf_bind]; intros))) <;> simp [h]

@[simp] theorem retryParks_memWf {r w core ops} : (retryParks r w core ops s).memWf ↔ s.memWf := by
  induction ops generalizing s with
  | nil => rfl
  | cons o rest ih =>
    unfold retryParks
    split
    · dsimp only
      rw [memWf_ite, ih, ih, State.modRow_memWf]
      (repeat' split) <;> simp
    · rfl

@[simp] theorem execLdp_memWf {f} (h : s.memWf) : NextWf (execLdp f s) := by
  unfold execLdp
  refine withRow_memWf h fun c => ?_
  simp only [okWf_bind]
  intros
  (repeat' split) <;> simp [h]

@[simp] theorem execStp_memWf {f} (h : s.memWf) : NextWf (execStp f s) := by
  refine withRow_memWf h fun c => ?_
  simp only [okWf_bind]
  intros
  (repeat' split) <;> simp [h]

@[simp] theorem State.constFill_memWf {c eas} (h : s.memWf) : (s.constFill c eas).memWf :=
  State.fold_memWf _ (fun _ _ hs => State.l1Put_memWf hs) _ h

@[simp] theorem execLdc_memWf {f} (h : s.memWf) : NextWf (execLdc f s) := by simp [execLdc, h]

/-! ### Barriers -/

@[simp] theorem execFence_memWf {f} (h : s.memWf) : NextWf (execFence f s) := by simp [execFence, h]
@[simp] theorem State.setBar_memWf {ref k n x} : (s.setBar ref k n x).memWf ↔ s.memWf := by
  simp [State.setBar]

@[simp] theorem execBara_memWf {f} (h : s.memWf) : NextWf (execBara f s) := by simp [execBara, h]
@[simp] theorem State.arrive_memWf {ref w a} : (s.arrive ref w a).memWf ↔ s.memWf := by simp [State.arrive]
@[simp] theorem execBarrierArrivalApply_memWf {r} (h : s.memWf) : NextWf (execBarrierArrivalApply r s) := by
  unfold execBarrierArrivalApply
  (repeat' split) <;> simp [h]

@[simp] theorem execBarrierRelayForward_memWf {gid blk bar} (h : s.memWf) :
    NextWf (execBarrierRelayForward gid blk bar s) := by
  unfold execBarrierRelayForward
  split <;> simp [h]

@[simp] theorem execBarw_memWf {f} (h : s.memWf) : NextWf (execBarw f s) := by simp [execBarw, h]
@[simp] theorem execBars_memWf {f} (h : s.memWf) : NextWf (execBars f s) := by simp [execBars, h]
@[simp] theorem State.setLevelBar_memWf {b} : (s.setLevelBar b).memWf ↔ s.memWf := by simp [State.setLevelBar]
@[simp] theorem levelArrive_memWf {c f key p} (h : s.memWf) : OkWf (levelArrive s c f key p) := by
  simp [levelArrive, h]

@[simp] theorem execBarl_memWf {f} (h : s.memWf) : NextWf (execBarl f s) := by
  unfold execBarl
  refine withRow_memWf h fun c => ?_
  simp only [okWf_bind]
  intros
  (repeat' split) <;> simp [h]

@[simp] theorem execBarlInstanceComplete_memWf {k} (h : s.memWf) : NextWf (execBarlInstanceComplete k s) := by
  unfold execBarlInstanceComplete
  split <;> simp [h]

/-! ### Branches, traps and rows -/

@[simp] theorem State.issuedMarked_memWf {c r moves marked} :
    (s.issuedMarked c r moves marked).memWf ↔ s.memWf := by
  simp [State.issuedMarked]

@[simp] theorem branch_memWf {f call} (h : s.memWf) : NextWf (branch s f call) := by
  refine withRow_memWf h fun c => ?_
  have hp (p : Prop) [Decidable p] : SomeWf (if p then s.atPortableSafePoint c else none) := by split <;> simp [h]
  simp only [okWf_bind]
  intros
  (repeat' (first | split | (rw [okWf_bind]; intros))) <;> simp [h]
  all_goals exact hp _ _ ‹_›

@[simp] theorem indirect_memWf {f d} (h : s.memWf) : NextWf (indirect s f d) := by
  refine withRow_memWf h fun c => ?_
  have hp (p : Prop) [Decidable p] : SomeWf (if p then s.atPortableSafePoint c else none) := by split <;> simp [h]
  simp only [okWf_bind]
  intros
  (repeat' (first | split | (rw [okWf_bind]; intros))) <;> simp [h]
  all_goals exact hp _ _ ‹_›

@[simp] theorem execYield_memWf {f} (h : s.memWf) : NextWf (execYield f s) := by simp [execYield, h]
@[simp] theorem raiseTrapi_memWf {c info bk} : (raiseTrapi s c info bk).memWf ↔ s.memWf := by
  simp [raiseTrapi]

@[simp] theorem execTrap_memWf {f} (h : s.memWf) : NextWf (execTrap f s) := by simp [execTrap, h]
@[simp] theorem execBkpt_memWf {f} (h : s.memWf) : NextWf (execBkpt f s) := by simp [execBkpt, h]
@[simp] theorem execRte_memWf {f} (h : s.memWf) : NextWf (execRte f s) := by simp [execRte, h]

/-! ### Integer instructions -/

@[simp] theorem intAB_memWf {f types a g} (h : s.memWf) : NextWf (intAB s f types a g) := by simp [intAB, h]
@[simp] theorem intA_memWf {f fields a g} (h : s.memWf) : NextWf (intA s f fields a g) := by simp [intA, h]
@[simp] theorem execMov_memWf {f} (h : s.memWf) : NextWf (execMov f s) := by simp [execMov, h]
@[simp] theorem quAlu_memWf {c qd srcs pred fields a g} (h : s.memWf) :
    OkWf (quAlu s c qd srcs pred fields a g) := by
  simp [quAlu, h]

@[simp] theorem execCmp_memWf {f} (h : s.memWf) : NextWf (execCmp f s) := by simp [execCmp, h]

/-! ### Float instructions -/

@[simp] theorem floatAB_memWf {f types g} (h : s.memWf) : NextWf (floatAB s f types g) := by simp [floatAB, h]
@[simp] theorem floatA_memWf {f fields g} (h : s.memWf) : NextWf (floatA s f fields g) := by simp [floatA, h]
@[simp] theorem execFma_memWf {f} (h : s.memWf) : NextWf (execFma f s) := by simp [execFma, h]
@[simp] theorem execFcmp_memWf {f} (h : s.memWf) : NextWf (execFcmp f s) := by simp [execFcmp, h]
@[simp] theorem execFscl_memWf {f} (h : s.memWf) : NextWf (execFscl f s) := by simp [execFscl, h]
@[simp] theorem execFlgr_memWf {f} (h : s.memWf) : NextWf (execFlgr f s) := by simp [execFlgr, h]
@[simp] theorem execFlgc_memWf {f} (h : s.memWf) : NextWf (execFlgc f s) := by simp [execFlgc, h]

/-! ### Shuffles, votes and reductions -/

@[simp] theorem shuffle_memWf {f tyOk sg u} (h : s.memWf) : NextWf (shuffle s f tyOk sg u) := by
  simp [shuffle, h]

@[simp] theorem execLred_memWf {f} (h : s.memWf) : NextWf (execLred f s) := by simp [execLred, h]
@[simp] theorem execLscan_memWf {f} (h : s.memWf) : NextWf (execLscan f s) := by simp [execLscan, h]

/-! ### Loads that complete and stores that drain -/

@[simp] theorem State.logWindow_memWf {r va} : (s.logWindow r va).memWf ↔ s.memWf := by simp [State.logWindow]
@[simp] theorem State.loadFills_memWf {core o} (h : s.memWf) : (s.loadFills core o).memWf :=
  State.fold_memWf _ (fun _ _ hs => State.loadLine_memWf hs) _ h

@[simp] theorem execLoadComplete_memWf {r} (h : s.memWf) : NextWf (execLoadComplete r s) := by
  dsimp only [execLoadComplete]
  (repeat' split) <;> simp [h]
  exact State.snoopFirst_memWf h _ ‹_›

@[simp] theorem State.l1Store_memWf {core o} : (s.l1Store core o).memWf ↔ s.memWf := by simp [State.l1Store]
@[simp] theorem State.accumulate_memWf {o ty ln} : (s.accumulate o ty ln).memWf ↔ s.memWf := by
  simp [State.accumulate]

@[simp] theorem execStoreFifoDrain_memWf {r} (h : s.memWf) : NextWf (execStoreFifoDrain r s) := by
  unfold execStoreFifoDrain
  (repeat' split) <;> simp [h]

@[simp] theorem State.applied_memWf {core k} : (s.applied core k).memWf ↔ s.memWf := by simp [State.applied]
@[simp] theorem State.completeWrite_memWf {o} : (s.completeWrite o).memWf ↔ s.memWf := by
  simp [State.completeWrite]

@[simp] theorem State.storeLine_memWf {core o line} (h : s.memWf) : (s.storeLine core o line).memWf := by
  simp [State.storeLine, h]

@[simp] theorem execStoreApply_memWf {core k} (h : s.memWf) : NextWf (execStoreApply core k s) := by
  dsimp only [execStoreApply]
  (repeat' split) <;> simp [h]
  · exact State.snoopFirst_memWf h _ ‹_›
  · exact State.fold_memWf _ (fun _ _ hs => State.storeLine_memWf hs) _ (by simp [h])

@[simp] theorem execPageWalk_memWf {core fld va} (h : s.memWf) : NextWf (execPageWalk core fld va s) := by
  have hw := State.walkAt_wf (core := core) (f := fld) (va := wval va) (st := s.walkRoot fld) h
  unfold execPageWalk
  (repeat' split) <;> simp_all [Walked.Wf]

@[simp] theorem reissue_memWf {c f} (h : s.memWf) : (reissue s c f).memWf := by
  dsimp only [reissue]
  split
  · simp [h]
  · generalize hx : check3 _ _ _ _ _ _ = x
    have hw : x.Wf := hx ▸ check3_wf h
    cases x with
    | wait | trapped => simpa [Checked.Wf] using hw
    | lanes xs t => cases f.op.kind <;> simpa [Checked.Wf] using hw

@[simp] theorem State.queueResults_memWf {r fs} : (s.queueResults r fs).memWf ↔ s.memWf := by
  simp [State.queueResults]

@[simp] theorem State.reissueRow_memWf {r} (h : s.memWf) : (s.reissueRow r).memWf := by
  unfold State.reissueRow
  (repeat' split) <;> simp [h]

@[simp] theorem execRowUnparkReissue_memWf {r} (h : s.memWf) : NextWf (execRowUnparkReissue r s) := by
  simp [execRowUnparkReissue, h]

@[simp] theorem State.offOverflow_memWf {q} (h : s.memWf) : (s.offOverflow q).memWf := by
  simp [State.offOverflow, h]

@[simp] theorem execOverflowReissue_memWf {die} (h : s.memWf) : NextWf (execOverflowReissue die s) := by
  dsimp only [execOverflowReissue]
  split
  · exact (nextWf_next _).mpr (State.fold_memWf _ (fun _ _ hs => State.offOverflow_memWf hs) _ (by simp [h]))
  · simp [h]

/-! ### Memory of a field -/

@[simp] theorem State.fieldAwait_memWf {a f reads writes} (h : s.memWf) :
    SomeWf (s.fieldAwait a f reads writes) := by
  dsimp only [State.fieldAwait]
  split <;> simp
  all_goals exact State.snoopFirst_memWf h _ ‹_›

@[simp] theorem State.tablesAwait_memWf {a f vas} (h : s.memWf) : SomeWf (s.tablesAwait a f vas) := by
  intro t ht
  obtain ⟨u, hu, rfl⟩ := Option.map_eq_some_iff.mp ht
  simpa using State.snoopFirst_memWf h u hu

@[simp] theorem State.fieldPut_memWf {f va w} (h : s.memWf) : (s.fieldPut f va w).memWf := by
  unfold State.fieldPut
  split <;> simp [h]

@[simp] theorem State.fieldPuts_memWf {f va ws} (h : s.memWf) : (s.fieldPuts f va ws).memWf :=
  State.fold_memWf _ (fun _ _ hs => State.fieldPut_memWf hs) _ h

@[simp] theorem State.modQueue_memWf {f q g} : (s.modQueue f q g).memWf ↔ s.memWf := by simp [State.modQueue]

/-! ### CSRs, events and launches -/

theorem checkAddrs_wf {c len vas} (h : s.memWf) : EitherWf (checkAddrs s c len vas) := by
  unfold checkAddrs
  have hx := State.xlats_memWf (core := c.core) (f := c.fld) (n := { Need.load with len := len }) (vas := vas) h
  generalize s.xlats c.core c.fld { Need.load with len := len } vas = y at hx
  dsimp only
  (repeat' split) <;> simp only [EitherWf, walkWait_memWf, dataTrap_memWf, State.parkFault_memWf, hx]
  all_goals
    obtain ⟨q, -, rfl⟩ := Option.map_eq_some_iff.mp ‹Option.map _ _ = some _›
    simpa

theorem checkAddrs_error {c len vas t} (h : s.memWf) (e : checkAddrs s c len vas = .error t) : t.memWf := by
  simpa [e, EitherWf] using checkAddrs_wf (c := c) (len := len) (vas := vas) h

theorem checkAddrs_ok {c len vas q} (h : s.memWf) (e : checkAddrs s c len vas = .ok q) : q.2.memWf := by
  simpa [e, EitherWf] using checkAddrs_wf (c := c) (len := len) (vas := vas) h

@[simp] theorem execWatch_memWf {f} (h : s.memWf) : NextWf (execWatch f s) := by
  refine withRow_memWf h fun c => ?_
  simp only [okWf_bind]
  intros
  (repeat' (first | split | (rw [okWf_bind]; intros))) <;> simp [h]
  · exact checkAddrs_error h ‹_›
  all_goals exact checkAddrs_ok h ‹_›

@[simp] theorem execSleep_memWf {f} (h : s.memWf) : NextWf (execSleep f s) := by simp [execSleep, h]
@[simp] theorem State.wakeGroups_memWf {r p v} : (s.wakeGroups r p v).memWf ↔ s.memWf := by
  unfold State.wakeGroups
  split <;> simp

@[simp] theorem execSleepWake_memWf {r} (h : s.memWf) : NextWf (execSleepWake r s) := by
  unfold execSleepWake
  split <;> simp [h]

@[simp] theorem execSleepTimeout_memWf {r} (h : s.memWf) : NextWf (execSleepTimeout r s) := by
  unfold execSleepTimeout
  split <;> simp [h]

@[simp] theorem clock_memWf {f n vs} (h : s.memWf) : NextWf (clock s f n vs) := by simp [clock, h]
@[simp] theorem csr_memWf {f rdD wrC} (h : s.memWf) : NextWf (csr s f rdD wrC) := by simp [csr, h]
@[simp] theorem execLaunch_memWf {f} (h : s.memWf) : NextWf (execLaunch f s) := by
  refine withRow_memWf h fun c => ?_
  simp only [okWf_bind]
  intros
  (repeat' (first | split | (rw [okWf_bind]; intros))) <;> simp [h]
  · exact checkAddrs_error h ‹_›
  · exact checkAddrs_ok h ‹_›

@[simp] theorem State.launchAt_memWf {fld r q rec_} (h : s.memWf) : (s.launchAt fld r q rec_).2.memWf := by
  dsimp only [State.launchAt]
  (repeat' split) <;> simp [h]

@[simp] theorem State.launchAwait_memWf {fld r q} (h : s.memWf) : SomeWf (s.launchAwait fld r q) := by
  dsimp only [State.launchAwait]
  (repeat' split) <;> simp [h]
  exact State.fieldAwait_memWf h _ ‹_›

@[simp] theorem execLaunchAtQueueHome_memWf {r} (h : s.memWf) : NextWf (execLaunchAtQueueHome r s) := by
  dsimp only [execLaunchAtQueueHome]
  (repeat' split) <;> simp [h]
  exact State.launchAwait_memWf h _ ‹_›

@[simp] theorem State.waitLine_memWf {c line} : (s.waitLine c line).memWf ↔ s.memWf := by
  simp [State.waitLine]

@[simp] theorem execEvwait_memWf {f} (h : s.memWf) : NextWf (execEvwait f s) := by
  refine withRow_memWf h fun c => okWf_bind.mpr fun _ _ => ?_
  split
  · simp [h]
  refine okWf_bind.mpr fun _ _ => okWf_bind.mpr fun _ _ => ?_
  split
  · simp [h]
  refine okWf_bind.mpr fun _ _ => ?_
  split
  · simpa using checkAddrs_error h ‹_›
  rename_i hx
  have ht := checkAddrs_ok h hx
  dsimp only at ht ⊢
  split
  · simpa
  split
  · simpa
  split
  · simpa using State.snoopFirst_memWf ht _ ‹_›
  · split <;> simpa

@[simp] theorem execEvwaitReread_memWf {r} (h : s.memWf) : NextWf (execEvwaitReread r s) := by
  have he (f : FA) : NextWf (execEvwait f { s with cur := some r }) := execEvwait_memWf h
  unfold execEvwaitReread
  (repeat' split) <;> simp [h, he]

/-! ### Tile instructions -/

@[simp] theorem sendTile_memWf {c kind handle d n} : (sendTile s c kind handle d n).memWf ↔ s.memWf := by
  simp [sendTile]

@[simp] theorem tileRow_memWf {f hasX hasZ ctlOk go} (h : s.memWf) (hg : ∀ c, OkWf (go c)) :
    NextWf (tileRow s f hasX hasZ ctlOk go) := by
  simp [tileRow, h, hg]

@[simp] theorem execTnew_memWf {f} (h : s.memWf) : NextWf (execTnew f s) := by
  refine tileRow_memWf h fun c => ?_
  simp only [okWf_bind]
  intros
  have hx := check3_wf (c := c) (n := Need.load) (w := 3) (whole := false) (eas := [(c.act.headD 0, rdRow c f.y)]) h
  split
  · simp_all [Checked.Wf]
  · simp_all [Checked.Wf]
  next t e =>
  have ht : t.memWf := by rw [e] at hx; exact hx
  split
  · simp [ht]
  split
  · simp [ht]
  split
  · simp [ht]
  split
  · exact (okWf_ok _).mpr (walkWait_memWf.mpr (State.snoopFirst_memWf ht _ ‹_›))
  · exact (okWf_ok _).mpr (sendTile_memWf.mpr (State.fold_memWf _ (fun _ _ hs => State.loadLine_memWf hs) _ ht))

@[simp] theorem execTsplit_memWf {f} (h : s.memWf) : NextWf (execTsplit f s) := by simp [execTsplit, h]
@[simp] theorem execTfree_memWf {f} (h : s.memWf) : NextWf (execTfree f s) := by simp [execTfree, h]
@[simp] theorem execTacq_memWf {f} (h : s.memWf) : NextWf (execTacq f s) := by simp [execTacq, h]
@[simp] theorem execTrel_memWf {f} (h : s.memWf) : NextWf (execTrel f s) := by simp [execTrel, h]
@[simp] theorem execTqry_memWf {f} (h : s.memWf) : NextWf (execTqry f s) := by simp [execTqry, h]
@[simp] theorem execRedc_memWf {f} (h : s.memWf) : NextWf (execRedc f s) := by simp [execRedc, h]
@[simp] theorem State.allocTile_memWf {f i d} : (s.allocTile f i d).2.memWf ↔ s.memWf := by
  simp [State.allocTile]

@[simp] theorem State.fallowTile_memWf {f hh} : (s.fallowTile f hh).memWf ↔ s.memWf := by
  simp [State.fallowTile]

@[simp] theorem State.sweepTiles_memWf {f} : (s.sweepTiles f).memWf ↔ s.memWf := by simp [State.sweepTiles]
@[simp] theorem State.answerTile_memWf {q vs done} : (s.answerTile q vs done).memWf ↔ s.memWf := by
  simp [State.answerTile]

@[simp] theorem State.startRecall_memWf {lost hh} : (s.startRecall lost hh).memWf ↔ s.memWf := by
  simp [State.startRecall]

@[simp] theorem State.endRecall_memWf {m} : (s.endRecall m).memWf ↔ s.memWf := by simp [State.endRecall]
@[simp] theorem execRecall_memWf {k} (h : s.memWf) : NextWf (execRecall k s) := by
  dsimp only [execRecall]
  (repeat' split) <;> simp [h]
  exact State.snoopFirst_memWf h _ ‹_›

@[simp] theorem State.tileNew_memWf {q d} : (s.tileNew q d).memWf ↔ s.memWf := by
  dsimp only [State.tileNew]
  (repeat' split) <;> simp

@[simp] theorem State.inherit_memWf {parent child} : (s.inherit parent child).memWf ↔ s.memWf := by
  simp [State.inherit]

@[simp] theorem State.dropTenures_memWf {hh} : (s.dropTenures hh).memWf ↔ s.memWf := by
  simp [State.dropTenures]

@[simp] theorem State.makeKids_memWf {f h ds} : (s.makeKids f h ds).2.memWf ↔ s.memWf := by
  induction ds generalizing s with
  | nil => rfl
  | cons d r ih => exact ih.trans (by simp)

@[simp] theorem State.tileSplit_memWf {q spec} : (s.tileSplit q spec).memWf ↔ s.memWf := by
  dsimp only [State.tileSplit]
  (repeat' split) <;> simp

@[simp] theorem State.cancelQueued_memWf {p} : (s.cancelQueued p).memWf ↔ s.memWf := by
  simp [State.cancelQueued]

@[simp] theorem State.tileFree_memWf {q} : (s.tileFree q).memWf ↔ s.memWf := by simp [State.tileFree]
@[simp] theorem State.tileRel_memWf {q} : (s.tileRel q).memWf ↔ s.memWf := by
  dsimp only [State.tileRel]
  split <;> simp

@[simp] theorem State.grant_memWf {q d} : (s.grant q d).memWf ↔ s.memWf := by simp [State.grant]
@[simp] theorem State.grantNow_memWf {q d} : (s.grantNow q d).memWf ↔ s.memWf := by simp [State.grantNow]
@[simp] theorem State.tileAcq_memWf {q} : (s.tileAcq q).memWf ↔ s.memWf := by
  unfold State.tileAcq
  (repeat' split) <;> simp

@[simp] theorem State.tileRedc_memWf {q} (h : s.memWf) : (s.tileRedc q).memWf := by
  dsimp only [State.tileRedc]
  (repeat' split) <;> simp [h]
  exact State.snoopFirst_memWf h _ ‹_›

@[simp] theorem execTileRequestAnswer_memWf  (h : s.memWf) : NextWf (execTileRequestAnswer s) := by
  unfold execTileRequestAnswer
  (repeat' split) <;> simp [h]

@[simp] theorem State.doneQueued_memWf {k q} : (s.doneQueued k q).memWf ↔ s.memWf := by
  simp [State.doneQueued]

@[simp] theorem execTacqGrant_memWf {k} (h : s.memWf) : NextWf (execTacqGrant k s) := by
  dsimp only [execTacqGrant]
  (repeat' split) <;> simp [h]
  all_goals exact State.snoopFirst_memWf h _ ‹_›

@[simp] theorem State.pushCopies_memWf {core line} : (s.pushCopies core line).memWf ↔ s.memWf := by
  simp [State.pushCopies]

@[simp] theorem execPush_memWf {k} (h : s.memWf) : NextWf (execPush k s) := by
  unfold execPush
  (repeat' split) <;> simp [h]

@[simp] theorem execFlush_memWf {r line} (h : s.memWf) : NextWf (execFlush r line s) := by
  dsimp only [execFlush]
  split <;> simp [h]
  exact State.snoopFirst_memWf h _ ‹_›

/-! ### Units of the engine commands -/

theorem UnitRes.next_wf {α β : Type} {r : UnitRes α} {f : α → State → UnitRes β} (hr : r.Wf)
    (hf : ∀ x t, t.memWf → (f x t).Wf) : (r.next f).Wf := by
  cases r with
  | ok x t => exact hf x t hr
  | wait | fault | fail => exact hr

theorem State.unitLoc_wf {e va n} (h : s.memWf) : (s.unitLoc e va n).Wf := by
  have hx := State.xlat_memWf (core := e.core) (f := e.fld) (va := va) (n := n) h
  dsimp only [State.unitLoc]
  split <;> exact hx

theorem State.unitLoad_wf {e va n} (h : s.memWf) : (s.unitLoad e va n).Wf := by
  refine UnitRes.next_wf (State.unitLoc_wf h) fun l t ht => ?_
  have hw := State.snoopFirst_memWf (write := false) (ls := [lineOf l]) ht
  (repeat' split) <;> simp_all [SomeWf, UnitRes.Wf]

theorem State.unitTarget_wf {e va n} (h : s.memWf) : (s.unitTarget e va n).Wf := by
  refine UnitRes.next_wf (State.unitLoc_wf h) fun l t ht => ?_
  have hw := State.snoopFirst_memWf (write := true) (ls := [lineOf l]) ht
  (repeat' split) <;> simp_all [SomeWf, UnitRes.Wf]

@[simp] theorem State.unitApply_memWf {e va l ts} (h : s.memWf) : (s.unitApply e va l ts).memWf := by
  simp [State.unitApply, h]

theorem State.unitStore_wf {e va ts} (h : s.memWf) : (s.unitStore e va ts).Wf :=
  UnitRes.next_wf (State.unitTarget_wf h) fun _ _ ht => State.unitApply_memWf ht

theorem State.scrTrytes_wf {e a n} (h : s.memWf) : (s.scrTrytes e a n).Wf := by
  unfold State.scrTrytes
  (repeat' split) <;> exact h

@[simp] theorem State.putScrTryte_memWf {ref k w sub v full} :
    (s.putScrTryte ref k w sub v full).memWf ↔ s.memWf := by
  simp [State.putScrTryte]

theorem State.scrStore_wf {e a ts last} (h : s.memWf) : (s.scrStore e a ts last).Wf := by
  unfold State.scrStore
  (repeat' split) <;> simp [UnitRes.Wf, h]

theorem State.readUnit_wf {e scr a n} (h : s.memWf) : (s.readUnit e scr a n).Wf := by
  unfold State.readUnit
  split
  · exact State.scrTrytes_wf h
  · exact State.unitLoad_wf h

theorem State.writeUnit_wf {e scr a ts last} (h : s.memWf) : (s.writeUnit e scr a ts last).Wf := by
  unfold State.writeUnit
  split
  · exact State.scrStore_wf h
  · exact State.unitStore_wf h

theorem State.readPieces_wf {e ps acc} (h : s.memWf) : (State.readPieces e ps acc s).Wf := by
  induction ps generalizing s acc with
  | nil => exact h
  | cons p r ih => exact UnitRes.next_wf (State.unitLoad_wf h) fun _ _ ht => ih ht

theorem State.checkPieces_wf {e ps} (h : s.memWf) : (State.checkPieces e ps s).Wf := by
  induction ps generalizing s with
  | nil => exact h
  | cons p r ih => exact UnitRes.next_wf (State.unitTarget_wf h) fun _ _ ht => ih ht

theorem State.writePieces_wf {e ps ts} (h : s.memWf) : (State.writePieces e ps ts s).Wf := by
  induction ps generalizing s ts with
  | nil => exact h
  | cons p r ih => exact UnitRes.next_wf (State.unitStore_wf h) fun _ _ ht => ih ht

/-! ### Engine commands -/

@[simp] theorem State.setPending_memWf {ref ws} : (s.setPending ref ws).memWf ↔ s.memWf := by
  simp [State.setPending]

@[simp] theorem engine_memWf {f kind} (h : s.memWf) : NextWf (engine s f kind) := by simp [engine, h]
@[simp] theorem execQfence_memWf {f} (h : s.memWf) : NextWf (execQfence f s) := by
  unfold execQfence
  refine withRow_memWf h fun c => ?_
  simp only [okWf_bind]
  intros
  (repeat' split) <;> simp [h]

@[simp] theorem execBclose_memWf {f} (h : s.memWf) : NextWf (execBclose f s) := by simp [execBclose, h]
@[simp] theorem execBwait_memWf {f} (h : s.memWf) : NextWf (execBwait f s) := by
  refine withRow_memWf h fun c => ?_
  simp only [okWf_bind]
  intros
  split
  · simp [h]
  simp only [okWf_bind]
  intros
  split
  · simp [h]
  simp only [okWf_bind]
  intros
  split
  · simp [h]
  split
  · exact (okWf_ok _).mpr (reportDue_memWf h _ ‹_›)
  · simp [h]

@[simp] theorem State.putCmd_memWf {ref k c} : (s.putCmd ref k c).memWf ↔ s.memWf := by simp [State.putCmd]
@[simp] theorem State.endCmd_memWf {ref k c} : (s.endCmd ref k c).memWf ↔ s.memWf := by simp [State.endCmd]
@[simp] theorem State.unpend_memWf {ref ws} : (s.unpend ref ws).memWf ↔ s.memWf := by simp [State.unpend]
@[simp] theorem State.failCmd_memWf {ref k c cause info kind line} :
    (s.failCmd ref k c cause info kind line).memWf ↔ s.memWf := by
  simp [State.failCmd]

@[simp] theorem State.holdCmd_memWf {e k c va kind level} :
    (s.holdCmd e k c va kind level).memWf ↔ s.memWf := by
  dsimp only [State.holdCmd]
  split
  · rename_i hf
    exact State.putCmd_memWf.trans (State.faultEntry_memWf hf)
  · simp

theorem elemCheck_wf {scr size a} (h : s.memWf) : (elemCheck s scr size a).Wf := by
  unfold elemCheck
  generalize (if scr then scrAlign a else a) = b
  split <;> exact h

theorem State.copyUnit_wf {e c size sp a dp b} (h : s.memWf) : (s.copyUnit e c size sp a dp b).Wf :=
  UnitRes.next_wf (State.readUnit_wf h) fun _ _ ht => UnitRes.next_wf (State.writeUnit_wf ht) fun _ _ hu => hu

theorem State.peerUnit_wf {e c size u} (h : s.memWf) : (s.peerUnit e c size u).Wf :=
  UnitRes.next_wf (State.readUnit_wf h) fun _ _ ht => UnitRes.next_wf (State.unitLoc_wf ht) fun _ _ hu => by
    split <;> exact hu

theorem State.chainUnit_wf {e c u} (h : s.memWf) : (s.chainUnit e c u).Wf := by
  refine UnitRes.next_wf (State.readUnit_wf h) fun _ t ht => UnitRes.next_wf ?_ fun _ _ hu =>
    UnitRes.next_wf (State.writeUnit_wf hu) fun _ _ hv => hv
  split
  · exact State.readUnit_wf ht
  · exact ht

theorem State.cmdUnit_wf {e c u} (h : s.memWf) : (s.cmdUnit e c u).Wf := by
  dsimp only [State.cmdUnit]
  split
  · exact State.copyUnit_wf h
  · exact UnitRes.next_wf (elemCheck_wf h) fun _ _ ht => State.copyUnit_wf ht
  · exact UnitRes.next_wf (elemCheck_wf h) fun _ _ ht => State.copyUnit_wf ht
  · exact State.peerUnit_wf h
  · exact State.chainUnit_wf h
  · exact h

@[simp] theorem runUnits_memWf {e n c} (h : s.memWf) : (runUnits e n s c).1.memWf := by
  induction n generalizing s c with
  | zero => exact h
  | succ n ih =>
    have hu := State.cmdUnit_wf (e := e) (c := c) (u := c.done_) h
    unfold runUnits
    split <;> simp_all [UnitRes.Wf]

@[simp] theorem State.finishCmd_memWf {e k c} : (s.finishCmd e k c).memWf ↔ s.memWf := by
  unfold State.finishCmd
  split <;> simp

@[simp] theorem execCommandComplete_memWf {r slot} (h : s.memWf) : NextWf (execCommandComplete r slot s) := by
  dsimp only [execCommandComplete]
  (repeat' split) <;> simp [h]

@[simp] theorem State.startCmd_memWf {e k c} : (s.startCmd e k c).memWf ↔ s.memWf := by
  unfold State.startCmd
  (repeat' split) <;> simp

@[simp] theorem State.collArrive_memWf {e k c line d src dst} :
    (s.collArrive e k c line d src dst).memWf ↔ s.memWf := by
  unfold State.collArrive
  split <;> simp
/-- What a COLL command's start does with one of its reads. -/
theorem collStopped_memWf {α : Type} {e : Env} {k : Nat} {c : Cmd} {r : UnitRes α} {f : α → State → State}
    (hr : r.Wf)
    (hf : ∀ x t, t.memWf → (f x t).memWf) :
    (match r with
      | .wait ls t => t.await (.event (.commandStart e.ref k)) 0 ls
      | .fault a kind level t => t.holdCmd e k c a kind level
      | .fail cause info kind line t => t.failCmd e.ref k c cause info kind line
      | .ok x t => f x t : State).memWf := by
  cases r with
  | ok x t => exact hf x t hr
  | wait | fault | fail => simpa [UnitRes.Wf] using hr

@[simp] theorem State.startColl_memWf {e k c} (h : s.memWf) : (s.startColl e k c).memWf := by
  refine collStopped_memWf (State.unitLoad_wf h) fun ts t ht => ?_
  dsimp only
  split
  · simpa
  split
  · simpa
  refine collStopped_memWf (State.readPieces_wf ht) fun xs t ht => ?_
  split
  · simpa
  · exact collStopped_memWf (State.unitLoc_wf ht) fun l t ht => by simpa

@[simp] theorem execCommandStart_memWf {r slot} (h : s.memWf) : NextWf (execCommandStart r slot s) := by
  unfold execCommandStart
  (repeat' split) <;> simp [h]

@[simp] theorem execJoinComplete_memWf {r slot} (h : s.memWf) : NextWf (execJoinComplete r slot s) := by
  unfold execJoinComplete
  (repeat' split) <;> simp [h]

@[simp] theorem State.failInstance_memWf {x cause info kind line} :
    (s.failInstance x cause info kind line).memWf ↔ s.memWf := by
  refine State.foldl_memWf_iff (fun t q => ?_) x.arrived
  split <;> simp

@[simp] theorem State.holdInstance_memWf {e va k level} : (s.holdInstance e va k level).memWf ↔ s.memWf := by
  unfold State.holdInstance
  split <;> simp

theorem collStep_wf {α : Type} {x e} {r : UnitRes α} (h : r.Wf) : (collStep x e r).Wf := by
  cases r <;> simp_all [collStep, CollRes.Wf, UnitRes.Wf]

theorem collReads_wf {x n es} (h : s.memWf) : (collReads x n es s).Wf := by
  induction es generalizing s with
  | nil => exact h
  | cons q r ih =>
    obtain ⟨e, a, b⟩ := q
    have hs := collStep_wf (x := x) (e := e) (State.readPieces_wf (e := e) (ps := pieces a n) (acc := []) h)
    unfold collReads
    split
    · simp_all [CollRes.Wf]
    · rename_i t he
      have ht : t.memWf := by simpa [he, CollRes.Wf] using hs
      have := ih ht
      split <;> simp_all [CollRes.Wf]

theorem collChecks_wf {x n es} (h : s.memWf) : (collChecks x n es s).Wf := by
  induction es generalizing s with
  | nil => exact h
  | cons q r ih =>
    obtain ⟨e, a, b⟩ := q
    have hs := collStep_wf (x := x) (e := e) (State.checkPieces_wf (e := e) (ps := pieces b n) h)
    unfold collChecks
    split <;> simp_all [CollRes.Wf]

theorem collWrites_wf {x out es} (h : s.memWf) : (collWrites x out es s).Wf := by
  induction es generalizing s with
  | nil => exact h
  | cons q r ih =>
    obtain ⟨e, a, b⟩ := q
    have hs := collStep_wf (x := x) (e := e) (State.writePieces_wf (e := e) (ps := pieces b out.length) (ts := out) h)
    unfold collWrites
    split <;> simp_all [CollRes.Wf]

@[simp] theorem State.endInstance_memWf {x first line fx} (h : s.memWf) :
    (s.endInstance x first line fx).memWf := by
  refine (State.foldl_memWf_iff (fun t q => ?_) x.arrived).mpr (State.unitApply_memWf (State.unitApply_memWf ?_))
  · split
    · simp
    · rfl
  · simpa using State.flushLine_memWf h

@[simp] theorem State.runInstance_memWf {x first} (h : s.memWf) : (s.runInstance x first).memWf := by
  dsimp only [State.runInstance]
  split
  · exact (collReads_wf h).of_eq ‹_›
  rename_i hr
  have hu := (collReads_wf h).of_eq hr
  split
  · exact (collChecks_wf hu).of_eq ‹_›
  rename_i hc
  have hv := (collChecks_wf hu).of_eq hc
  split
  · exact (collStep_wf (State.unitTarget_wf hv)).of_eq ‹_›
  rename_i ht
  have hw := (collStep_wf (State.unitTarget_wf hv)).of_eq ht
  split
  · exact (collWrites_wf hw).of_eq ‹_›
  · rename_i hy
    exact State.endInstance_memWf ((collWrites_wf hw).of_eq hy)

@[simp] theorem execCollInstanceComplete_memWf {k} (h : s.memWf) : NextWf (execCollInstanceComplete k s) := by
  unfold execCollInstanceComplete
  (repeat' split) <;> simp [h]

@[simp] theorem execFenceT_memWf {f} (h : s.memWf) : NextWf (execFenceT f s) := by simp [execFenceT, h]
@[simp] theorem execPeerDelivered_memWf {r ok} (h : s.memWf) : NextWf (execPeerDelivered r ok s) := by
  unfold execPeerDelivered
  (repeat' split) <;> simp [h]

/-! ### CVT -/

@[simp] theorem execCvt_memWf {fn f} (h : s.memWf) : NextWf (execCvt fn f s) := by simp [execCvt, h]

/-! ### Matrix passes -/

@[simp] theorem postPass_memWf {f scaled} (h : s.memWf) : NextWf (postPass s f scaled) := by
  simp [postPass, h]

@[simp] theorem execMxrel_memWf {f} (h : s.memWf) : NextWf (execMxrel f s) := by simp [execMxrel, h]
@[simp] theorem State.grantPass_memWf {e} : (s.grantPass e).memWf ↔ s.memWf := by simp [State.grantPass]
@[simp] theorem State.arbitrate_memWf {es reserved ps} : (s.arbitrate es reserved ps).memWf ↔ s.memWf := by
  induction ps generalizing reserved with
  | nil => simp [State.arbitrate]
  | cons e r ih => simp [State.arbitrate, ih]

@[simp] theorem execMatrixArbitrate_memWf {quad} (h : s.memWf) : NextWf (execMatrixArbitrate quad s) := by
  simp [execMatrixArbitrate, h]

@[simp] theorem execPassComplete_memWf {r} (h : s.memWf) : NextWf (execPassComplete r s) := by
  unfold execPassComplete
  (repeat' split) <;> simp [h]

@[simp] theorem execRunHoldLapse_memWf {r} (h : s.memWf) : NextWf (execRunHoldLapse r s) := by
  unfold execRunHoldLapse
  split <;> simp [h]

@[simp] theorem quantRow_memWf {f go} (h : s.memWf) (hg : ∀ c o y z fs, OkWf (go c o y z fs)) :
    NextWf (quantRow s f go) := by
  simp [quantRow, h, hg]

@[simp] theorem execQuant_memWf {f} (h : s.memWf) : NextWf (execQuant f s) := by simp [execQuant, h]
@[simp] theorem execDeq_memWf {f} (h : s.memWf) : NextWf (execDeq f s) := by simp [execDeq, h]
@[simp] theorem State.loseEvent_memWf {e} : (s.loseEvent e).memWf ↔ s.memWf := by simp [State.loseEvent]
@[simp] theorem State.setEvents_memWf {core q} : (s.setEvents core q).memWf ↔ s.memWf := by
  simp [State.setEvents]

@[simp] theorem State.raiseEvent_memWf {core e} : (s.raiseEvent core e).memWf ↔ s.memWf := by
  simp [State.raiseEvent]

@[simp] theorem State.escalations_memWf {r core pol q counts} :
    (s.escalations r core pol q counts).memWf ↔ s.memWf := by
  simp [State.escalations]

@[simp] theorem execQuantComplete_memWf {r} (h : s.memWf) : NextWf (execQuantComplete r s) := by
  unfold execQuantComplete
  (repeat' split) <;> simp [h]

@[simp] theorem execDeqComplete_memWf {r} (h : s.memWf) : NextWf (execDeqComplete r s) := by
  unfold execDeqComplete
  (repeat' split) <;> simp [h]

@[simp] theorem execQcnt_memWf {f} (h : s.memWf) : NextWf (execQcnt f s) := by simp [execQcnt, h]

/-! ### EXIT -/

@[simp] theorem State.withdrawColls_memWf {gid} : (s.withdrawColls gid).memWf ↔ s.memWf := by
  simp [State.withdrawColls]

@[simp] theorem State.sweepCode_memWf {f} : (s.sweepCode f).memWf ↔ s.memWf := by simp [State.sweepCode]
@[simp] theorem State.retireBlock_memWf {g b} : (s.retireBlock g b).memWf ↔ s.memWf := by
  simp [State.retireBlock]

@[simp] theorem State.retireOf_memWf {r} : (s.retireOf r).memWf ↔ s.memWf := by
  unfold State.retireOf
  split <;> simp

@[simp] theorem State.endRow_memWf {c} : (s.endRow c).memWf ↔ s.memWf := by simp [State.endRow]
@[simp] theorem execExit_memWf {f} (h : s.memWf) : NextWf (execExit f s) := by
  refine withRow_memWf h fun c => ?_
  simp only [okWf_bind]
  intros
  (repeat' split) <;> simp [h]
  exact reportDue_memWf h _ ‹_›

@[simp] theorem State.answerSave_memWf {g v} : (s.answerSave g v).memWf ↔ s.memWf := by
  unfold State.answerSave
  split <;> simp

@[simp] theorem State.cutGang_memWf {g} : (s.cutGang g).memWf ↔ s.memWf := by simp [State.cutGang]
@[simp] theorem State.removeGang_memWf {g} : (s.removeGang g).memWf ↔ s.memWf := by simp [State.removeGang]
@[simp] theorem execGangRetire_memWf {gid} (h : s.memWf) : NextWf (execGangRetire gid s) := by
  unfold execGangRetire
  split <;> simp [h]

@[simp] theorem State.hostClear_memWf {grid f va} (h : s.memWf) : SomeWf (s.hostClear grid f va) := by
  simp [State.hostClear, h]

@[simp] theorem State.statPut_memWf {f recAddr state reason} (h : s.memWf) :
    (s.statPut f recAddr state reason).memWf := by
  simp [State.statPut, h]

@[simp] theorem State.eventAdd_memWf {f va} (h : s.memWf) : SomeWf (s.eventAdd f va) := by
  unfold State.eventAdd
  split
  · simp
  · exact SomeWf.map (fun _ => by simp [h])

@[simp] theorem State.gridDoneStep_memWf {g} (h : s.memWf) : (s.gridDoneStep g).memWf := by
  dsimp only [State.gridDoneStep]
  split
  · simp [h]
  · split
    · exact State.hostClear_memWf h _ ‹_›
    · split
      · simpa using State.eventAdd_memWf h _ ‹_›
      · simp [h]

@[simp] theorem State.gridStatStep_memWf {g} (h : s.memWf) : (s.gridStatStep g).memWf := by
  have hc (p : Prop) [Decidable p] :
      SomeWf (if p then s.hostClear g.id g.fld (wrapT 27 (wval g.recAddr + 24)) else none) := by
    split <;> simp [h]
  dsimp only [State.gridStatStep]
  split
  · exact hc _ _ ‹_›
  · (repeat' split) <;> simp [h]

@[simp] theorem execGridRetire_memWf {grid} (h : s.memWf) : NextWf (execGridRetire grid s) := by
  unfold execGridRetire
  split <;> simp [h]

/-! ### Code objects -/

@[simp] theorem State.modFn_memWf {fn f} : (s.modFn fn f).memWf ↔ s.memWf := by simp [State.modFn]
@[simp] theorem State.setSlot_memWf {f x} : (s.setSlot f x).memWf ↔ s.memWf := by simp [State.setSlot]
@[simp] theorem State.clearSlot_memWf {f n} : (s.clearSlot f n).memWf ↔ s.memWf := by simp [State.clearSlot]
@[simp] theorem State.clRequest_memWf {fn go} (h : s.memWf) (hg : ∀ f, NextWf (go f)) :
    NextWf (s.clRequest fn go) := by
  unfold State.clRequest
  (repeat' split) <;> simp [h, hg]

@[simp] theorem State.clStatus_memWf {fn slot st} : (s.clStatus fn slot st).memWf ↔ s.memWf := by
  simp [State.clStatus]

@[simp] theorem execClcmdLoad_memWf {fn slot} (h : s.memWf) : NextWf (execClcmdLoad fn slot s) :=
  State.clRequest_memWf h fun f => by simp [h]

@[simp] theorem execClcmdUnload_memWf {fn slot} (h : s.memWf) : NextWf (execClcmdUnload fn slot s) := by
  refine State.clRequest_memWf h fun f => ?_
  (repeat' split) <;> simpa

@[simp] theorem execCodeObjectLoadComplete_memWf {fn} (h : s.memWf) :
    NextWf (execCodeObjectLoadComplete fn s) := by
  dsimp only [execCodeObjectLoadComplete]
  (repeat' split) <;> simp [h]
  exact State.snoopFirst_memWf h _ ‹_›

@[simp] theorem execTranslationInstall_memWf {fld slot tr} (h : s.memWf) :
    NextWf (execTranslationInstall fld slot tr s) := by
  unfold execTranslationInstall
  (repeat' split) <;> simp [h]

/-! ### Privileged instructions -/

theorem privileged_memWf {f hasD hasB go} (h : s.memWf) (hg : ∀ c, OkWf (go c)) :
    NextWf (privileged s f hasD hasB go) := by
  simp [privileged, h, hg]

@[simp] theorem State.privDone_memWf {c d v} : (s.privDone c d v).memWf ↔ s.memWf := by simp [State.privDone]
@[simp] theorem State.modRows_memWf {f} : (s.modRows f).memWf ↔ s.memWf := by simp [State.modRows]
@[simp] theorem State.freeEntry_memWf {die idx} : (s.freeEntry die idx).memWf ↔ s.memWf := by
  simp [State.freeEntry]

@[simp] theorem State.replayEntry_memWf {die idx} : (s.replayEntry die idx).memWf ↔ s.memWf := by
  simp [State.replayEntry]

@[simp] theorem execReplayTok_memWf {f} (h : s.memWf) : NextWf (execReplayTok f s) := by
  refine privileged_memWf h fun c => ?_
  simp only [okWf_bind, okWf_ok]
  intros
  split <;> simp [h]

@[simp] theorem execReplayPage_memWf {f} (h : s.memWf) : NextWf (execReplayPage f s) :=
  privileged_memWf h fun c => by simp [h]

@[simp] theorem State.failRow_memWf {ref} : (s.failRow ref).memWf ↔ s.memWf := by
  unfold State.failRow
  (repeat' split) <;> simp

@[simp] theorem State.failHeld_memWf {q} : (s.failHeld q).memWf ↔ s.memWf := by
  unfold State.failHeld
  split <;> simp

@[simp] theorem State.failEntry_memWf {die idx} : (s.failEntry die idx).memWf ↔ s.memWf := by
  simp [State.failEntry]

@[simp] theorem execReplayFail_memWf {f} (h : s.memWf) : NextWf (execReplayFail f s) := by
  refine privileged_memWf h fun c => ?_
  simp only [okWf_bind, okWf_ok]
  intros
  split <;> simp [h]

@[simp] theorem tlbi_memWf {f hasB va} (h : s.memWf) : NextWf (tlbi s f hasB va) :=
  privileged_memWf h fun c => by simp [h]

@[simp] theorem execStallWatchdogExpiry_memWf {r} (h : s.memWf) : NextWf (execStallWatchdogExpiry r s) := by
  unfold execStallWatchdogExpiry
  split <;> simp [h]

/-! ### Context saves -/

@[simp] theorem State.putDevLine_memWf {m ws} (h : s.memWf) : (s.putDevLine m ws).memWf := by
  simp [State.putDevLine, h]

@[simp] theorem State.putRun_memWf {ms ws} (h : s.memWf) : (s.putRun ms ws).memWf := by
  induction ms generalizing s ws with
  | nil => exact h
  | cons m r ih => exact ih (State.putDevLine_memWf h)

@[simp] theorem ctxs_memWf {f port} (h : s.memWf) : NextWf (ctxs s f port) := by
  refine privileged_memWf h fun c => ?_
  (repeat' split) <;> simp [h]

@[simp] theorem State.haltGang_memWf {g f} : (s.haltGang g f).memWf ↔ s.memWf := by simp [State.haltGang]
@[simp] theorem State.leaveSave_memWf {g area} : (s.leaveSave g area).memWf ↔ s.memWf := by
  simp [State.leaveSave]

@[simp] theorem State.freeArea_memWf {g} : (s.freeArea g).memWf ↔ s.memWf := by simp [State.freeArea]
@[simp] theorem execPreemptHalt_memWf {gid} (h : s.memWf) : NextWf (execPreemptHalt gid s) := by
  dsimp only [execPreemptHalt]
  (repeat' split) <;> simp [h]
  cases s.leaveArea _ <;> simp [h]

@[simp] theorem execPortableHaltTimeout_memWf {gid} (h : s.memWf) : NextWf (execPortableHaltTimeout gid s) := by
  unfold execPortableHaltTimeout
  split <;> simp [h]

@[simp] theorem State.dropForSave_memWf {g} : (s.dropForSave g).memWf ↔ s.memWf := by simp [State.dropForSave]
@[simp] theorem State.takeEvents_memWf {g} : (s.takeEvents g).memWf ↔ s.memWf := by simp [State.takeEvents]
@[simp] theorem State.storeGang_memWf {gid} : (s.storeGang gid).memWf ↔ s.memWf := by simp [State.storeGang]
@[simp] theorem State.keepImage_memWf {port hh} : (s.keepImage port hh).memWf ↔ s.memWf := by
  unfold State.keepImage
  split <;> simp

@[simp] theorem State.saveGang_memWf {g} (h : s.memWf) : (s.saveGang g).memWf := by simp [State.saveGang, h]
@[simp] theorem execContextSaveComplete_memWf {gid} (h : s.memWf) : NextWf (execContextSaveComplete gid s) := by
  have hb (ls : List Loc) (bs : List Block) : (bs.foldl (fun s b => s.flushBlock ⟨gid, b.blk, 0⟩ ls) s).memWf :=
    State.fold_memWf _ (fun _ _ hs => State.flushBlock_memWf hs) _ h
  dsimp only [execContextSaveComplete]
  (repeat' split) <;> simp [h]
  · exact State.snoopFirst_memWf h _ ‹_›
  · exact SomeWf.getD (SomeWf.map fun _ => State.saveGang_memWf (hb _ _)) (hb _ _)

/-! ### Context restores -/

@[simp] theorem State.restorePortable_memWf {f m hh mask} :
    (s.restorePortable f m hh mask).memWf ↔ s.memWf := by
  unfold State.restorePortable
  split <;> simp

@[simp] theorem State.restore_memWf {f m hh mask} : (s.restore f m hh mask).memWf ↔ s.memWf := by
  unfold State.restore
  (repeat' split) <;> simp

@[simp] theorem State.dropSaved_memWf {f hh} : (s.dropSaved f hh).memWf ↔ s.memWf := by simp [State.dropSaved]
@[simp] theorem ctxr_memWf {f drop} (h : s.memWf) : NextWf (ctxr s f drop) := by
  refine privileged_memWf h fun c => ?_
  dsimp only
  split
  · simp [h]
  · (repeat' split) <;> simp [h]

/-! ### Placing gangs -/

@[simp] theorem State.wakeSet_memWf {cores} : (s.wakeSet cores).memWf ↔ s.memWf := by simp [State.wakeSet]
@[simp] theorem State.purge_memWf {ls} : (s.purge ls).memWf ↔ s.memWf := by simp [State.purge]
@[simp] theorem State.clearRanges_memWf {ranges} (h : s.memWf) : (s.clearRanges ranges).memWf := by
  simp only [State.clearRanges, State.purge_memWf]
  exact State.fold_memWf _ (fun _ _ hs => State.homeWrite_memWf hs) _ h

@[simp] theorem State.shrinkL1_memWf {cores} : (s.shrinkL1 cores).memWf ↔ s.memWf := by simp [State.shrinkL1]
@[simp] theorem State.clearWay_memWf {l cores} (h : s.memWf) : SomeWf (s.clearWay l cores) := by
  unfold State.clearWay
  split <;> simp [h]

@[simp] theorem State.placeGang_memWf {x c ranges} (h : s.memWf) : (s.placeGang x c ranges).memWf := by
  simp [State.placeGang, h]

@[simp] theorem State.remakeEntry_memWf {core who t} : (s.remakeEntry core who t).memWf ↔ s.memWf := by
  simp [State.remakeEntry]

@[simp] theorem State.enterEvent_memWf {e} : (s.enterEvent e).memWf ↔ s.memWf := by simp [State.enterEvent]
@[simp] theorem State.fillPrivate_memWf {lines ws} (h : s.memWf) : (s.fillPrivate lines ws).memWf := by
  simp [State.fillPrivate, h]

@[simp] theorem State.newPrivate_memWf {g ranges} (h : s.memWf) : (s.newPrivate g ranges).memWf := by
  simp only [State.newPrivate, State.purge_memWf, State.modField_memWf]
  exact State.fold_memWf _ (fun _ _ hs => State.fillPrivate_memWf hs) _ h

@[simp] theorem State.restoreGang_memWf {g c ranges} (h : s.memWf) : (s.restoreGang g c ranges).memWf := by
  simp [State.restoreGang, h]

/-! ### The sower -/

@[simp] theorem State.bumpDone_memWf {f va} (h : s.memWf) : (s.bumpDone f va).memWf := by
  simp [State.bumpDone, h]

@[simp] theorem State.refuseRecord_memWf {f recAddr l reason} (h : s.memWf) :
    (s.refuseRecord f recAddr l reason).memWf := by
  simp [State.refuseRecord, h]

@[simp] theorem State.refuseGrid_memWf {x reason} (h : s.memWf) : (s.refuseGrid x reason).memWf := by
  simp [State.refuseGrid, h]

@[simp] theorem State.endArming_memWf {f q} (h : s.memWf) : (s.endArming f q).memWf := by
  have hf : ((s.unfit f q).foldl (fun s x => s.refuseGrid x 10) s).memWf :=
    State.fold_memWf _ (fun _ _ hs => State.refuseGrid_memWf hs) _ h
  dsimp only [State.endArming]
  (repeat' split) <;> simp [h, hf]

@[simp] theorem State.disarm_memWf {f q} (h : s.memWf) : (s.disarm f q).memWf := by simp [State.disarm, h]
@[simp] theorem faultQueue_memWf {f q cause} (h : s.memWf) : (faultQueue s f q cause).memWf := by
  simp [faultQueue, h]

@[simp] theorem State.armQueue_memWf {fn f q base} (h : s.memWf) : (s.armQueue fn f q base).memWf := by
  dsimp only [State.armQueue]
  (repeat' split) <;> simp [h]

@[simp] theorem execLqbaseArm_memWf {fn q base} (h : s.memWf) : NextWf (execLqbaseArm fn q base s) := by
  dsimp only [execLqbaseArm]
  (repeat' split) <;> simp [h]
  exact State.fieldAwait_memWf h _ ‹_›

@[simp] theorem execLqbaseDisarm_memWf {fn q} (h : s.memWf) : NextWf (execLqbaseDisarm fn q s) := by
  dsimp only [execLqbaseDisarm]
  (repeat' split) <;> simp [h]
  exact State.fieldAwait_memWf h _ ‹_›

@[simp] theorem State.advanceHead_memWf {f q} (h : s.memWf) : (s.advanceHead f q).memWf := by
  simp [State.advanceHead, h]

@[simp] theorem State.takeRecord_memWf {f q} (h : s.memWf) : (s.takeRecord f q).memWf := by
  dsimp only [State.takeRecord]
  split
  · exact State.fieldAwait_memWf h _ ‹_›
  · exact SomeWf.getD (State.fieldAwait_memWf h) (faultQueue_memWf h)
  · split
    · exact State.fieldAwait_memWf h _ ‹_›
    · exact State.tablesAwait_memWf h _ ‹_›
    · split
      · exact State.advanceHead_memWf (State.statPut_memWf h)
      · exact State.bumpDone_memWf (State.advanceHead_memWf (State.statPut_memWf h))

@[simp] theorem execSowerTakeRecords_memWf {fld q} (h : s.memWf) : NextWf (execSowerTakeRecords fld q s) := by
  dsimp only [execSowerTakeRecords]
  (repeat' split) <;> simp [h]
  exact State.fieldAwait_memWf h _ ‹_›

@[simp] theorem execDependenceMet_memWf {fld k d} (h : s.memWf) : NextWf (execDependenceMet fld k d s) := by
  dsimp only [execDependenceMet]
  (repeat' split) <;> simp [h]
  exact State.fieldAwait_memWf h _ ‹_›

@[simp] theorem State.keepTarget_memWf {f cs} : (s.keepTarget f cs).memWf ↔ s.memWf := by
  unfold State.keepTarget
  (repeat' split) <;> simp

@[simp] theorem State.setHead_memWf {f c} : (s.setHead f c).memWf ↔ s.memWf := by
  unfold State.setHead
  (repeat' split) <;> simp

@[simp] theorem execHeadReservationBar_memWf {fld} (h : s.memWf) : NextWf (execHeadReservationBar fld s) := by
  unfold execHeadReservationBar
  split <;> simp [h]

theorem State.placeFirst_wf {x c ranges} (h : s.memWf) : (s.placeFirst x c ranges).Wf := by
  dsimp only [State.placeFirst]
  (repeat' split) <;> simp [Try.Wf, h]
  exact State.fieldAwait_memWf h _ ‹_›

theorem State.tryPlace_wf {c} (h : s.memWf) : (s.tryPlace c).Wf := by
  dsimp only [State.tryPlace]
  (repeat' split) <;> simp [Try.Wf, h]
  · exact State.snoopFirst_memWf h _ ‹_›
  · exact State.clearWay_memWf h _ ‹_›
  · exact State.placeFirst_wf h

@[simp] theorem State.afterPlace_memWf {c} : (s.afterPlace c).memWf ↔ s.memWf := by simp [State.afterPlace]
@[simp] theorem tryAll_memWf {f cs found} (h : s.memWf) : (tryAll f cs found s).memWf := by
  induction cs generalizing s found with
  | nil => simp [tryAll, h]
  | cons c r ih =>
    have ht := State.tryPlace_wf (c := c) h
    unfold tryAll
    split <;> simp_all [Try.Wf]

@[simp] theorem execSowerSchedule_memWf {fld} (h : s.memWf) : NextWf (execSowerSchedule fld s) := by
  simp [execSowerSchedule, h]

@[simp] theorem execFallowEntry_memWf {die} (h : s.memWf) : NextWf (execFallowEntry die s) := by
  simp [execFallowEntry, h]

/-! ### Host memory -/

@[simp] theorem State.grantHost_memWf {l want} : (s.grantHost l want).memWf ↔ s.memWf := by
  simp [State.grantHost]

@[simp] theorem State.answerRead_memWf {l bs poison} : (s.answerRead l bs poison).memWf ↔ s.memWf := by
  simp [State.answerRead]

@[simp] theorem State.hostStore_memWf {l bs} (h : s.memWf) : (s.hostStore l bs).memWf := by
  simp [State.hostStore, h]

@[simp] theorem State.logCut_memWf {l} : (s.logCut l).memWf ↔ s.memWf := by simp [State.logCut]
@[simp] theorem State.doRead_memWf {l want} (h : s.memWf) : (s.doRead l want).memWf := by
  simp [State.doRead, h]

@[simp] theorem State.doWrite_memWf {l bs inv} (h : s.memWf) : (s.doWrite l bs inv).memWf := by
  simp [State.doWrite, h]

@[simp] theorem State.hostDo_memWf {a} (h : s.memWf) : (s.hostDo a).memWf := by
  unfold State.hostDo
  split <;> simp [h]

@[simp] theorem State.hostPrep_memWf {a} : (s.hostPrep a).memWf ↔ s.memWf := by
  dsimp only [State.hostPrep]
  split <;> simp

@[simp] theorem State.hostAccess_memWf {a} (h : s.memWf) : (s.hostAccess a).memWf := by
  simp [State.hostAccess, h]

@[simp] theorem State.ackConflicts_memWf  : (s.ackConflicts).memWf ↔ s.memWf := by simp [State.ackConflicts]
@[simp] theorem State.serveHeld_memWf (h : s.memWf) : s.serveHeld.memWf := by
  simp only [State.serveHeld, State.ackConflicts_memWf]
  exact State.fold_memWf _ (fun _ _ hs => State.hostAccess_memWf hs) _ (by simp [h])

@[simp] theorem execFallowExit_memWf {die} (h : s.memWf) : NextWf (execFallowExit die s) := by
  simp [execFallowExit, h]

@[simp] theorem execHostLineRead_memWf {line want} (h : s.memWf) : NextWf (execHostLineRead line want s) := by
  simp [execHostLineRead, h]

@[simp] theorem execHostLineWrite_memWf {line bytes inv} (h : s.memWf) :
    NextWf (execHostLineWrite line bytes inv s) := by
  simp [execHostLineWrite, h]

@[simp] theorem execBackInvalidateSnoopResponse_memWf {line} (h : s.memWf) :
    NextWf (execBackInvalidateSnoopResponse line s) := by
  simp [execBackInvalidateSnoopResponse, h]

@[simp] theorem execHostBiconflict_memWf {line} (h : s.memWf) : NextWf (execHostBiconflict line s) := by
  simp [execHostBiconflict, h]

@[simp] theorem execHostSnoop_memWf {line} (h : s.memWf) : NextWf (execHostSnoop line s) := by
  simp [execHostSnoop, h]

/-! ### Host accesses of lines -/

@[simp] theorem execL2WriteBack_memWf {line} (h : s.memWf) : NextWf (execL2WriteBack line s) := by
  unfold execL2WriteBack
  split <;> simp [h]

@[simp] theorem State.moveLine_memWf {line target} : (s.moveLine line target).memWf ↔ s.memWf := by
  simp [State.moveLine]

@[simp] theorem execLineMigrate_memWf {line} (h : s.memWf) : NextWf (execLineMigrate line s) := by
  unfold execLineMigrate
  (repeat' split) <;> simp [h]

/-! ### Fields of the die -/

@[simp] theorem State.setResource_memWf {kind die index o} :
    (s.setResource kind die index o).memWf ↔ s.memWf := by
  simp [State.setResource]

@[simp] theorem State.setReq_memWf {q o} : (s.setReq q o).memWf ↔ s.memWf := by simp [State.setReq]
@[simp] theorem State.frDone_memWf {st} : (s.frDone st).memWf ↔ s.memWf := by simp [State.frDone]
@[simp] theorem execRehashLineMove_memWf {line} (h : s.memWf) : NextWf (execRehashLineMove line s) := by
  unfold execRehashLineMove
  (repeat' split) <;> simp [h]

@[simp] theorem State.frStart_memWf {q} : (s.frStart q).memWf ↔ s.memWf := by simp [State.frStart]
@[simp] theorem State.frcmd_memWf {grow kind die index fld} :
    (s.frcmd grow kind die index fld).memWf ↔ s.memWf := by
  simp [State.frcmd]

@[simp] theorem execFrcmdGrow_memWf {kind die index fld} (h : s.memWf) :
    NextWf (execFrcmdGrow kind die index fld s) := by
  simp [execFrcmdGrow, h]

@[simp] theorem execFrcmdShrink_memWf {kind die index fld} (h : s.memWf) :
    NextWf (execFrcmdShrink kind die index fld s) := by
  simp [execFrcmdShrink, h]

@[simp] theorem State.toScrub_memWf {q} : (s.toScrub q).memWf ↔ s.memWf := by simp [State.toScrub]
@[simp] theorem State.frEnd_memWf {q} : (s.frEnd q).memWf ↔ s.memWf := by simp [State.frEnd]
@[simp] theorem execQuadLeaveEnd_memWf  (h : s.memWf) : NextWf (execQuadLeaveEnd s) := by
  unfold execQuadLeaveEnd
  split <;> simp [h]

@[simp] theorem State.dropTagLines_memWf {die g} : (s.dropTagLines die g).memWf ↔ s.memWf := by
  simp [State.dropTagLines]

@[simp] theorem execRehashComplete_memWf  (h : s.memWf) : NextWf (execRehashComplete s) := by
  unfold execRehashComplete
  split <;> simp [h]

@[simp] theorem State.scrubQuad_memWf {quad} : (s.scrubQuad quad).memWf ↔ s.memWf := by simp [State.scrubQuad]
@[simp] theorem State.scrubGroup_memWf {die g} : (s.scrubGroup die g).memWf ↔ s.memWf := by
  simp [State.scrubGroup]

@[simp] theorem State.scrubChan_memWf {k} (h : s.memWf) : (s.scrubChan k).memWf :=
  ⟨amWf_filter _ _ h.1, h.2⟩

@[simp] theorem State.scrub_memWf {q} (h : s.memWf) : (s.scrub q).memWf := by
  simp [State.scrub, h]

@[simp] theorem State.join_memWf {q} : (s.join q).memWf ↔ s.memWf := by simp [State.join]
@[simp] theorem execScrubEnd_memWf  (h : s.memWf) : NextWf (execScrubEnd s) := by
  unfold execScrubEnd
  split <;> simp [h]

@[simp] theorem State.loseTenure_memWf {hh} (h : s.memWf) : (s.loseTenure hh).memWf := by
  simp [State.loseTenure, h]

@[simp] theorem State.resetTiles_memWf {f} (h : s.memWf) : (s.resetTiles f).memWf := by
  have hf (t : State) (l : List Holder) (ht : t.memWf) : (l.foldl (fun s h => s.loseTenure h) t).memWf :=
    State.fold_memWf _ (fun _ _ hs => State.loseTenure_memWf hs) _ ht
  simp [State.resetTiles, hf, h]

@[simp] theorem execFieldReset_memWf {fld} (h : s.memWf) : NextWf (execFieldReset fld s) := by
  simp [execFieldReset, h]

/-! ### Links -/

@[simp] theorem State.modEnd_memWf {link e f} : (s.modEnd link e f).memWf ↔ s.memWf := by simp [State.modEnd]
@[simp] theorem State.logLink_memWf {link} : (s.logLink link).memWf ↔ s.memWf := by simp [State.logLink]
@[simp] theorem State.resendFrom_memWf {link e a} : (s.resendFrom link e a).memWf ↔ s.memWf := by
  simp [State.resendFrom]

@[simp] theorem State.retrain_memWf {link} : (s.retrain link).memWf ↔ s.memWf := by simp [State.retrain]
@[simp] theorem State.logPayload_memWf {bs} : (s.logPayload bs).memWf ↔ s.memWf := by simp [State.logPayload]
@[simp] theorem execFlitReceive_memWf {link e bytes} (h : s.memWf) :
    NextWf (execFlitReceive link e bytes s) := by
  simp [execFlitReceive, h]

@[simp] theorem execNakReceive_memWf {link e ack} (h : s.memWf) : NextWf (execNakReceive link e ack s) := by
  simp [execNakReceive, h]

@[simp] theorem execNullFlitSend_memWf {link e} (h : s.memWf) : NextWf (execNullFlitSend link e s) := by
  simp [execNullFlitSend, h]

@[simp] theorem State.flitFrom_memWf {die dst n q} : (s.flitFrom die dst n q).memWf ↔ s.memWf := by
  unfold State.flitFrom
  (repeat' split) <;> simp

@[simp] theorem State.flitToPod_memWf {dst n q} : (s.flitToPod dst n q).memWf ↔ s.memWf := by
  unfold State.flitToPod
  (repeat' split) <;> simp

@[simp] theorem State.exchange_memWf {link} : (s.exchange link).memWf ↔ s.memWf := by simp [State.exchange]
@[simp] theorem State.carryOver_memWf {link e} : (s.carryOver link e).memWf ↔ s.memWf := by
  unfold State.carryOver
  split <;> simp

@[simp] theorem State.endStraddle_memWf {d e} : (s.endStraddle d e).memWf ↔ s.memWf := by
  simp [State.endStraddle]

@[simp] theorem State.failLink_memWf {link} : (s.failLink link).memWf ↔ s.memWf := by simp [State.failLink]
@[simp] theorem State.upLink_memWf {link wid} : (s.upLink link wid).memWf ↔ s.memWf := by simp [State.upLink]
@[simp] theorem execRetrainComplete_memWf {link wide narrow} (h : s.memWf) :
    NextWf (execRetrainComplete link wide narrow s) := by
  simp [execRetrainComplete, h]

/-! ### Bring-up -/

@[simp] theorem State.afterReset_memWf (h : s.memWf) : s.afterReset.memWf :=
  ⟨rfl, h.2⟩

@[simp] theorem execDeviceReset_memWf (h : s.memWf) : NextWf (execDeviceReset s) := by
  simp [execDeviceReset, h]

@[simp] theorem execRecctlSubmit_memWf  (h : s.memWf) : NextWf (execRecctlSubmit s) := by
  simp [execRecctlSubmit, h]

@[simp] theorem execSecurityVersionAdvance_memWf {v} (h : s.memWf) :
    NextWf (execSecurityVersionAdvance v s) := by
  simp [execSecurityVersionAdvance, h]

@[simp] theorem execFirmwareSlotRewrite_memWf {image} (h : s.memWf) :
    NextWf (execFirmwareSlotRewrite image s) := by
  simp [execFirmwareSlotRewrite, h]

@[simp] theorem execSeedlingEntry_memWf {die} (h : s.memWf) : NextWf (execSeedlingEntry die s) := by
  simp [execSeedlingEntry, h]

@[simp] theorem execLinkTrained_memWf {link lanes} (h : s.memWf) : NextWf (execLinkTrained link lanes s) := by
  simp [execLinkTrained, h]

@[simp] theorem execHbmStackTrained_memWf {die ok} (h : s.memWf) : NextWf (execHbmStackTrained die ok s) := by
  simp [execHbmStackTrained, h]

@[simp] theorem State.unpin_memWf {die} : (s.unpin die).memWf ↔ s.memWf := by simp [State.unpin]
@[simp] theorem execLeaveSeedling_memWf {die} (h : s.memWf) : NextWf (execLeaveSeedling die s) := by
  simp [execLeaveSeedling, h]

@[simp] theorem State.logTrip_memWf {place} : (s.logTrip place).memWf ↔ s.memWf := by simp [State.logTrip]
@[simp] theorem execJunctionTrip_memWf {die} (h : s.memWf) : NextWf (execJunctionTrip die s) := by
  simp [execJunctionTrip, h]

@[simp] theorem execPowerTrip_memWf  (h : s.memWf) : NextWf (execPowerTrip s) := by simp [execPowerTrip, h]
@[simp] theorem execTripRelease_memWf {die} (h : s.memWf) : NextWf (execTripRelease die s) := by
  unfold execTripRelease
  split <;> simp [h]

@[simp] theorem execThermalHalt_memWf  (h : s.memWf) : NextWf (execThermalHalt s) := by
  simp [execThermalHalt, h]

@[simp] theorem State.spdmAnswer_memWf {code body} : (s.spdmAnswer code body).memWf ↔ s.memWf := by
  simp [State.spdmAnswer]

@[simp] theorem execGetVersion_memWf (h : s.memWf) : NextWf (execGetVersion s) := by simp [execGetVersion, h]
@[simp] theorem execGetCapabilities_memWf (h : s.memWf) : NextWf (execGetCapabilities s) := by
  simp [execGetCapabilities, h]

@[simp] theorem execNegotiateAlgorithms_memWf (h : s.memWf) : NextWf (execNegotiateAlgorithms s) := by
  simp [execNegotiateAlgorithms, h]

@[simp] theorem execGetDigests_memWf (h : s.memWf) : NextWf (execGetDigests s) := by simp [execGetDigests, h]
@[simp] theorem execGetCertificate_memWf {slot} (h : s.memWf) : NextWf (execGetCertificate slot s) := by
  simp [execGetCertificate, h]

@[simp] theorem execChallenge_memWf {nonce} (h : s.memWf) : NextWf (execChallenge nonce s) := by
  simp [execChallenge, h]

@[simp] theorem execGetMeasurements_memWf {index} (h : s.memWf) : NextWf (execGetMeasurements index s) := by
  unfold execGetMeasurements
  split <;> simp [h]

/-! ### Host registers -/

@[simp] theorem State.setKey_memWf {f key ws} : (s.setKey f key ws).memWf ↔ s.memWf := by simp [State.setKey]
@[simp] theorem State.keycmdIs_memWf {fld key op} : (s.keycmdIs fld key op).memWf ↔ s.memWf := by
  simp [State.keycmdIs]

@[simp] theorem execKeycmdErase_memWf {fld key} (h : s.memWf) : NextWf (execKeycmdErase fld key s) := by
  simp [execKeycmdErase, h]

@[simp] theorem execKeycmdInstall_memWf {fld key} (h : s.memWf) : NextWf (execKeycmdInstall fld key s) := by
  dsimp only [execKeycmdInstall]
  (repeat' split) <;> simp [h]
  exact State.snoopFirst_memWf h _ ‹_›

@[simp] theorem execSriovVfEnable_memWf {vf on} (h : s.memWf) : NextWf (execSriovVfEnable vf on s) := by
  simp [execSriovVfEnable, h]

@[simp] theorem State.disarmBy_memWf {f fn} (h : s.memWf) : (s.disarmBy f fn).memWf := by
  refine State.fold_memWf _ (fun t q ht => ?_) _ h
  simp [ht]

@[simp] theorem State.resetAwait_memWf {vf} (h : s.memWf) : SomeWf (s.resetAwait vf) := by
  intro t ht
  obtain ⟨f, -, hf⟩ := List.exists_of_findSome?_eq_some ht
  exact State.fieldAwait_memWf h t hf

@[simp] theorem execFunctionLevelReset_memWf {vf} (h : s.memWf) : NextWf (execFunctionLevelReset vf s) := by
  dsimp only [execFunctionLevelReset]
  split
  · simpa
  split
  · simpa using State.resetAwait_memWf h _ ‹_›
  · refine (nextWf_next _).mpr (State.fold_memWf _ (fun _ _ hs => State.disarmBy_memWf hs) _ (State.modFn_memWf.mpr ?_))
    split <;> simpa

@[simp] theorem execHostLinkRetrain_memWf (h : s.memWf) : NextWf (execHostLinkRetrain s) := by
  simp [execHostLinkRetrain, h]

@[simp] theorem nextOf_memWf {o} (h : s.memWf) (ho : NextWf o) : (nextOf s o).memWf := by
  unfold nextOf
  split
  · exact ho _ rfl
  · exact h

@[simp] theorem State.writeClcmd_memWf {fn v} (h : s.memWf) : (s.writeClcmd fn v).memWf := by
  dsimp only [State.writeClcmd]
  split
  · exact h
  split
  · exact nextOf_memWf h (execClcmdLoad_memWf h)
  split
  · exact nextOf_memWf h (execClcmdUnload_memWf h)
  · exact nextOf_memWf h (State.clRequest_memWf h fun _ => by simpa)

@[simp] theorem State.writeFn_memWf {fn off v} (h : s.memWf) : (s.writeFn fn off v).memWf := by
  simp [State.writeFn, h]

@[simp] theorem State.modHost_memWf {f} : (s.modHost f).memWf ↔ s.memWf := by simp [State.modHost]
@[simp] theorem State.hostIf_memWf {ok f} : (s.hostIf ok f).memWf ↔ s.memWf := by simp [State.hostIf]
@[simp] theorem State.writePool_memWf {f base v} : (s.writePool f base v).memWf ↔ s.memWf := by
  simp [State.writePool]

@[simp] theorem State.writeKeycmd_memWf {v} (h : s.memWf) : (s.writeKeycmd v).memWf := by
  simp [State.writeKeycmd, h]

@[simp] theorem State.writeFrcmd_memWf {v} : (s.writeFrcmd v).memWf ↔ s.memWf := by simp [State.writeFrcmd]
@[simp] theorem State.writeDev_memWf {off v} (h : s.memWf) : (s.writeDev off v).memWf := by
  simp [State.writeDev, h]

@[simp] theorem State.writeArr_memWf {off v} : (s.writeArr off v).memWf ↔ s.memWf := by simp [State.writeArr]
@[simp] theorem State.writeBuffer_memWf {off size v} : (s.writeBuffer off size v).memWf ↔ s.memWf := by
  simp [State.writeBuffer]

@[simp] theorem execHostRegisterWrite_memWf {fn offset value} (h : s.memWf) :
    NextWf (execHostRegisterWrite fn offset value s) := by
  simp [execHostRegisterWrite, h]

@[simp] theorem State.hostWrite_memWf {fn off size v} (h : s.memWf) : (s.hostWrite fn off size v).memWf := by
  simp [State.hostWrite, h]

/-! ### TLBI -/

@[simp] theorem State.dropEntries_memWf {p} : (s.dropEntries p).memWf ↔ s.memWf := by simp [State.dropEntries]
@[simp] theorem State.settleMoving_memWf {f p ls} (h : s.memWf) : (s.settleMoving f p ls).memWf := by
  have hf : (ls.foldl State.flushLine s).memWf := State.fold_memWf _ (fun _ _ hs => State.flushLine_memWf hs) _ h
  simp [State.settleMoving, hf]

@[simp] theorem State.tlbiStep_memWf {r} (h : s.memWf) : (s.tlbiStep r).memWf := by
  dsimp only [State.tlbiStep]
  (repeat' split) <;> simp [h]
  exact State.snoopFirst_memWf h _ ‹_›

/-! ### Atomics -/

@[simp] theorem scrAtom_memWf {ref o ln} : (scrAtom s ref o ln).2.1.memWf ↔ s.memWf := by
  simp [scrAtom]

@[simp] theorem ScrRel.perform_memWf {o : ScrRel} {w ref r} : (o.perform w s ref r).1.memWf ↔ s.memWf := by
  unfold ScrRel.perform
  induction o.lanes generalizing s r with
  | nil => rfl
  | cons ln rest ih => exact ih.trans scrAtom_memWf

@[simp] theorem ScrRel.acquired_memWf {o core} : (ScrRel.acquired o core s).memWf ↔ s.memWf := by
  simp [ScrRel.acquired]

@[simp] theorem atomScratch_memWf {c a f row ts} (h : s.memWf) : OkWf (atomScratch s c a f row ts) := by
  dsimp only [atomScratch]
  split
  · simp
  · simp only [okWf_bind]
    intros
    (repeat' split) <;> simp [h]

@[simp] theorem performRels_memWf {ref w core rels} : (performRels ref w core rels s).memWf ↔ s.memWf := by
  induction rels generalizing s with
  | nil => rfl
  | cons o rest ih =>
    unfold performRels
    (repeat' split) <;> simp [ih]

@[simp] theorem execWaitFullRetry_memWf {r} (h : s.memWf) : NextWf (execWaitFullRetry r s) := by
  unfold execWaitFullRetry
  split <;> simp [h]

@[simp] theorem atomGlobal_memWf {c a f row ts} (h : s.memWf) : OkWf (atomGlobal s c a f row ts) :=
  okWf_bind.mpr fun _ _ => check3_okWf h fun _ _ ht => issueWrite_memWf.mpr ht

@[simp] theorem atomic_memWf {f a} (h : s.memWf) : NextWf (atomic s f a) := by simp [atomic, h]
@[simp] theorem State.applyLane_memWf {o a returns ln} (h : s.memWf) : (s.applyLane o a returns ln).memWf := by
  simp [State.applyLane, h]

theorem State.applyLanes_memWf {o a returns} {ls : List Lane} (h : s.memWf) :
    (ls.foldl (fun t ln => t.applyLane o a returns ln) s).memWf :=
  State.fold_memWf _ (fun _ _ hs => State.applyLane_memWf hs) _ h

@[simp] theorem execAtomicApply_memWf {core k} (h : s.memWf) : NextWf (execAtomicApply core k s) := by
  dsimp only [execAtomicApply]
  (repeat' split) <;> simp [h, State.applyLanes_memWf]
  all_goals exact State.snoopFirst_memWf h _ ‹_›

/-! ### Events from outside -/

@[simp] theorem State.firmwareWindow_memWf {v} : (s.firmwareWindow v).memWf ↔ s.memWf := by
  simp [State.firmwareWindow]

@[simp] theorem State.peerRefuse_memWf {a} : (s.peerRefuse a).memWf ↔ s.memWf := by simp [State.peerRefuse]
@[simp] theorem State.peerDo_memWf {a l} (h : s.memWf) : (s.peerDo a l).memWf := by
  unfold State.peerDo
  split <;> simp [h]

@[simp] theorem State.peerAccess_memWf {a} (h : s.memWf) : (s.peerAccess a).memWf := by
  dsimp only [State.peerAccess]
  (repeat' split) <;> simp [h]
  all_goals exact State.snoopFirst_memWf h _ ‹_›

@[simp] theorem State.fromOutside_memWf {a__internal_hyg0} (h : s.memWf) :
    (s.fromOutside a__internal_hyg0).memWf := by
  unfold State.fromOutside
  split <;> simp [h]

/-! ### Immediate forms -/

@[simp] theorem immForm_memWf {f useA fields a g} (h : s.memWf) : NextWf (immForm s f useA fields a g) := by
  simp [immForm, h]

@[simp] theorem execCmpi_memWf {f} (h : s.memWf) : NextWf (execCmpi f s) := by simp [execCmpi, h]
@[simp] theorem execTins_memWf {f} (h : s.memWf) : NextWf (execTins f s) := by simp [execTins, h]
@[simp] theorem three_memWf {f fields a g} (h : s.memWf) : NextWf (three s f fields a g) := by simp [three, h]
@[simp] theorem leaForm_memWf {f g} (h : s.memWf) : NextWf (leaForm s f g) := by simp [leaForm, h]

/-! ### Predicates -/

@[simp] theorem execQmin_memWf {f} (h : s.memWf) : NextWf (execQmin f s) := by simp [execQmin, h]
@[simp] theorem execQmax_memWf {f} (h : s.memWf) : NextWf (execQmax f s) := by simp [execQmax, h]
@[simp] theorem execQnot_memWf {f} (h : s.memWf) : NextWf (execQnot f s) := by simp [execQnot, h]
@[simp] theorem execQmov_memWf {f} (h : s.memWf) : NextWf (execQmov f s) := by simp [execQmov, h]
@[simp] theorem execSel_memWf {f} (h : s.memWf) : NextWf (execSel f s) := by simp [execSel, h]
@[simp] theorem gather_memWf {c d srcs rows pred fields v} (h : s.memWf) :
    OkWf (gather s c d srcs rows pred fields v) := by
  simp [gather, h]

@[simp] theorem execMovqToRegister_memWf {f} (h : s.memWf) : NextWf (execMovqToRegister f s) := by
  simp [execMovqToRegister, h]

@[simp] theorem execMovqToPredicate_memWf {f} (h : s.memWf) : NextWf (execMovqToPredicate f s) := by
  simp [execMovqToPredicate, h]

@[simp] theorem execMovqBallot_memWf {f} (h : s.memWf) : NextWf (execMovqBallot f s) := by
  simp [execMovqBallot, h]

@[simp] theorem vote_memWf {c f v} (h : s.memWf) : OkWf (vote s c f v) := by
  have hg :=
    gather_memWf (c := c) (d := f.dst) (srcs := []) (rows := []) (pred := f.pred) (fields := voteFields f) (v := v) h
  unfold vote
  cases hx : gather s c f.dst [] [] f.pred (voteFields f) v <;> simp_all [Except.map]

@[simp] theorem execVoteAll_memWf {f} (h : s.memWf) : NextWf (execVoteAll f s) := by simp [execVoteAll, h]
@[simp] theorem execVoteAny_memWf {f} (h : s.memWf) : NextWf (execVoteAny f s) := by simp [execVoteAny, h]
@[simp] theorem execVoteCnt_memWf {f} (h : s.memWf) : NextWf (execVoteCnt f s) := by simp [execVoteCnt, h]
@[simp] theorem execMovs_memWf {f} (h : s.memWf) : NextWf (execMovs f s) := by simp [execMovs, h]
@[simp] theorem execLane_memWf {f} (h : s.memWf) : NextWf (execLane f s) := by simp [execLane, h]

/-! ### Vacating and rehashing -/

@[simp] theorem State.putEntry_memWf {f at_ e} (h : s.memWf) : (s.putEntry f at_ e).memWf := by
  unfold State.putEntry
  split <;> simp [h]

@[simp] theorem State.dropField_memWf {f} : (s.dropField f).memWf ↔ s.memWf := by simp [State.dropField]
@[simp] theorem State.moveBegin_memWf {f frame to_} (h : s.memWf) : (s.moveBegin f frame to_).memWf := by
  dsimp only [State.moveBegin]
  split
  · simpa using State.snoopFirst_memWf h _ ‹_›
  · have hf (l : List TabEntry) : (l.foldl (fun t x => t.putEntry f x.at_ (loweredLeaf x.e)) s).memWf :=
      State.fold_memWf _ (fun _ _ hs => State.putEntry_memWf hs) _ h
    simp [hf]

@[simp] theorem State.copyLine_memWf {c a b} (h : s.memWf) : (s.copyLine c a b).memWf := by
  simp [State.copyLine, h]

@[simp] theorem State.moveEnd_memWf {f m} (h : s.memWf) : (s.moveEnd f m).memWf := by
  dsimp only [State.moveEnd]
  split
  · exact h
  split
  · simpa using State.snoopFirst_memWf h _ ‹_›
  · have hcopied := State.fold_memWf (fun t q => t.copyLine (m.olds.any fun q => entC q.2 == 1) q.1 q.2)
      (fun _ _ ht => State.copyLine_memWf ht) ((frameLines m.frame).zip (frameLines m.to_))
      (State.settleMoving_memWf (f := f) (p := fun va => m.olds.any fun q => unitOf 3 q.1 == unitOf 3 va)
        (ls := frameLines m.frame) h)
    have hput := State.fold_memWf (fun t x => t.putEntry f (m.place x) (m.entry x)) (fun _ _ ht => State.putEntry_memWf ht)
      ((s.entries f).filter (fun t => t.names m.frame))
      (State.purge_memWf (ls := frameLines m.frame ++ frameLines m.to_).mpr hcopied)
    simpa using hput

@[simp] theorem State.splitLeaf_memWf {f n x} (h : s.memWf) : (s.splitLeaf f n x).memWf := by
  dsimp only [State.splitLeaf]
  split
  · simpa using State.snoopFirst_memWf h _ ‹_›
  · exact State.putEntry_memWf (State.fold_memWf _ (fun _ _ hs => State.homeWrite_memWf hs) _ h)

@[simp] theorem execVacateEnd_memWf  (h : s.memWf) : NextWf (execVacateEnd s) := by
  unfold execVacateEnd
  (repeat' split) <;> simp [h]

/-! ### The dispatch -/

/-- Every instruction and every event of the model keeps the canonical form, by its form. -/
theorem exec_memWf {i} (h : s.memWf) : NextWf (exec i s) :=
  match i with
  | .hdr _ => execHdr_memWf h
  | .imm f => show NextWf (execImm f s) from prefixWord_memWf h
  | .modh f => show NextWf (execModh f s) from prefixWord_memWf h
  | .nop _ => execNop_memWf h
  | .safe _ => execSafe_memWf h
  | .mov _ => execMov_memWf h
  | .add f => show NextWf (execAdd f s) from intAB_memWf h
  | .sub f => show NextWf (execSub f s) from intAB_memWf h
  | .mul f => show NextWf (execMul f s) from intAB_memWf h
  | .mulh f => show NextWf (execMulh f s) from intAB_memWf h
  | .div f => show NextWf (execDiv f s) from intAB_memWf h
  | .mod f => show NextWf (execMod f s) from intAB_memWf h
  | .divt f => show NextWf (execDivt f s) from intAB_memWf h
  | .modt f => show NextWf (execModt f s) from intAB_memWf h
  | .min f => show NextWf (execMin f s) from intAB_memWf h
  | .max f => show NextWf (execMax f s) from intAB_memWf h
  | .abs f => show NextWf (execAbs f s) from intA_memWf h
  | .sgn f => show NextWf (execSgn f s) from intA_memWf h
  | .shl f => show NextWf (execShl f s) from intAB_memWf h
  | .shr f => show NextWf (execShr f s) from intAB_memWf h
  | .rot f => show NextWf (execRot f s) from intAB_memWf h
  | .tcnt f => show NextWf (execTcnt f s) from intA_memWf h
  | .tmin f => show NextWf (execTmin f s) from intAB_memWf h
  | .tmax f => show NextWf (execTmax f s) from intAB_memWf h
  | .tnot f => show NextWf (execTnot f s) from intA_memWf h
  | .tsum f => show NextWf (execTsum f s) from intAB_memWf h
  | .tmul f => show NextWf (execTmul f s) from intAB_memWf h
  | .tcons f => show NextWf (execTcons f s) from intAB_memWf h
  | .pack9 f => show NextWf (execPack9 f s) from intAB_memWf h
  | .unp9 f => show NextWf (execUnp9 f s) from intA_memWf h
  | .cmp _ => execCmp_memWf h
  | .movi f => show NextWf (execMovi f s) from immForm_memWf h
  | .addi f => show NextWf (execAddi f s) from immForm_memWf h
  | .muli f => show NextWf (execMuli f s) from immForm_memWf h
  | .shli f => show NextWf (execShli f s) from immForm_memWf h
  | .shri f => show NextWf (execShri f s) from immForm_memWf h
  | .cmpi _ => execCmpi_memWf h
  | .text f => show NextWf (execText f s) from immForm_memWf h
  | .tins _ => execTins_memWf h
  | .mad f => show NextWf (execMad f s) from three_memWf h
  | .clamp f => show NextWf (execClamp f s) from three_memWf h
  | .tsel f => show NextWf (execTsel f s) from three_memWf h
  | .lea f => show NextWf (execLea f s) from leaForm_memWf h
  | .lead f => show NextWf (execLead f s) from leaForm_memWf h
  | .qmin _ => execQmin_memWf h
  | .qmax _ => execQmax_memWf h
  | .qnot _ => execQnot_memWf h
  | .qmov _ => execQmov_memWf h
  | .sel _ => execSel_memWf h
  | .voteAll _ => execVoteAll_memWf h
  | .voteAny _ => execVoteAny_memWf h
  | .voteCnt _ => execVoteCnt_memWf h
  | .movqToRegister _ => execMovqToRegister_memWf h
  | .movqToPredicate _ => execMovqToPredicate_memWf h
  | .movqBallot _ => execMovqBallot_memWf h
  | .movs _ => execMovs_memWf h
  | .lane _ => execLane_memWf h
  | .fadd f => show NextWf (execFadd f s) from floatAB_memWf h
  | .fsub f => show NextWf (execFsub f s) from floatAB_memWf h
  | .fmul f => show NextWf (execFmul f s) from floatAB_memWf h
  | .fdiv f => show NextWf (execFdiv f s) from floatAB_memWf h
  | .fsqrt f => show NextWf (execFsqrt f s) from floatA_memWf h
  | .frcp f => show NextWf (execFrcp f s) from floatA_memWf h
  | .frsq f => show NextWf (execFrsq f s) from floatA_memWf h
  | .fmin f => show NextWf (execFmin f s) from floatAB_memWf h
  | .fmax f => show NextWf (execFmax f s) from floatAB_memWf h
  | .fabs f => show NextWf (execFabs f s) from floatA_memWf h
  | .fcmp _ => execFcmp_memWf h
  | .fcls f => show NextWf (execFcls f s) from floatA_memWf h
  | .fscl _ => execFscl_memWf h
  | .fexn f => show NextWf (execFexn f s) from floatA_memWf h
  | .frnd f => show NextWf (execFrnd f s) from floatA_memWf h
  | .fexp f => show NextWf (execFexp f s) from floatA_memWf h
  | .flog f => show NextWf (execFlog f s) from floatA_memWf h
  | .fsint f => show NextWf (execFsint f s) from floatA_memWf h
  | .fcost f => show NextWf (execFcost f s) from floatA_memWf h
  | .flgr _ => execFlgr_memWf h
  | .flgc _ => execFlgc_memWf h
  | .fma _ => execFma_memWf h
  | .cvt _ _ => execCvt_memWf h
  | .xlnAt f => show NextWf (execXlnAt f s) from shuffle_memWf h
  | .xlnBk f => show NextWf (execXlnBk f s) from shuffle_memWf h
  | .xlnFw f => show NextWf (execXlnFw f s) from shuffle_memWf h
  | .xlnTri f => show NextWf (execXlnTri f s) from shuffle_memWf h
  | .lred _ => execLred_memWf h
  | .lscan _ => execLscan_memWf h
  | .br f => show NextWf (execBr f s) from branch_memWf h
  | .call f => show NextWf (execCall f s) from branch_memWf h
  | .jmpr f => show NextWf (execJmpr f s) from indirect_memWf h
  | .callr f => show NextWf (execCallr f s) from indirect_memWf h
  | .ret f => show NextWf (execRet f s) from indirect_memWf h
  | .exit _ => execExit_memWf h
  | .yield _ => execYield_memWf h
  | .trap _ => execTrap_memWf h
  | .rte _ => execRte_memWf h
  | .bkpt _ => execBkpt_memWf h
  | .watch _ => execWatch_memWf h
  | .sleep _ => execSleep_memWf h
  | .time f => show NextWf (execTime f s) from clock_memWf h
  | .cyc f => show NextWf (execCyc f s) from clock_memWf h
  | .csrr f => show NextWf (execCsrr f s) from csr_memWf h
  | .csrw f => show NextWf (execCsrw f s) from csr_memWf h
  | .csrx f => show NextWf (execCsrx f s) from csr_memWf h
  | .launch _ => execLaunch_memWf h
  | .launchAtQueueHome _ => execLaunchAtQueueHome_memWf h
  | .evwait _ => execEvwait_memWf h
  | .evwaitReread _ => execEvwaitReread_memWf h
  | .gld f => show NextWf (execGld f s) from loadGlobal_memWf h
  | .gst _ => execGst_memWf h
  | .glds f => show NextWf (execGlds f s) from loadGlobal_memWf h
  | .prf _ => execPrf_memWf h
  | .lds _ => execLds_memWf h
  | .sts _ => execSts_memWf h
  | .ldsWf f => show NextWf (execLdsWf f s) from syncLoad_memWf h
  | .ldsWfe f => show NextWf (execLdsWfe f s) from syncLoad_memWf h
  | .stsWe _ => execStsWe_memWf h
  | .stsSt _ => execStsSt_memWf h
  | .waitFullRetry _ => execWaitFullRetry_memWf h
  | .ldp _ => execLdp_memWf h
  | .stp _ => execStp_memWf h
  | .ldc _ => execLdc_memWf h
  | .tnew _ => execTnew_memWf h
  | .tsplit _ => execTsplit_memWf h
  | .tfree _ => execTfree_memWf h
  | .tacq _ => execTacq_memWf h
  | .tacqGrant _ => execTacqGrant_memWf h
  | .trel _ => execTrel_memWf h
  | .tqry _ => execTqry_memWf h
  | .fenceT _ => execFenceT_memWf h
  | .redc _ => execRedc_memWf h
  | .recall _ => execRecall_memWf h
  | .push _ => execPush_memWf h
  | .flush _ _ => execFlush_memWf h
  | .mma f => show NextWf (execMma f s) from postPass_memWf h
  | .mmas f => show NextWf (execMmas f s) from postPass_memWf h
  | .mxrel _ => execMxrel_memWf h
  | .quant _ => execQuant_memWf h
  | .deq _ => execDeq_memWf h
  | .qcnt _ => execQcnt_memWf h
  | .matrixArbitrate _ => execMatrixArbitrate_memWf h
  | .passComplete _ => execPassComplete_memWf h
  | .quantComplete _ => execQuantComplete_memWf h
  | .deqComplete _ => execDeqComplete_memWf h
  | .runHoldLapse _ => execRunHoldLapse_memWf h
  | .cpy f => show NextWf (execCpy f s) from engine_memWf h
  | .gath f => show NextWf (execGath f s) from engine_memWf h
  | .scat f => show NextWf (execScat f s) from engine_memWf h
  | .peer f => show NextWf (execPeer f s) from engine_memWf h
  | .chain f => show NextWf (execChain f s) from engine_memWf h
  | .coll f => show NextWf (execColl f s) from engine_memWf h
  | .qfence _ => execQfence_memWf h
  | .bclose _ => execBclose_memWf h
  | .bwait _ => execBwait_memWf h
  | .commandStart _ _ => execCommandStart_memWf h
  | .commandComplete _ _ => execCommandComplete_memWf h
  | .joinComplete _ _ => execJoinComplete_memWf h
  | .collInstanceComplete _ => execCollInstanceComplete_memWf h
  | .peerDelivered _ _ => execPeerDelivered_memWf h
  | .atomAdd f => show NextWf (execAtomAdd f s) from atomic_memWf h
  | .atomMin f => show NextWf (execAtomMin f s) from atomic_memWf h
  | .atomMax f => show NextWf (execAtomMax f s) from atomic_memWf h
  | .atomTmin f => show NextWf (execAtomTmin f s) from atomic_memWf h
  | .atomTmax f => show NextWf (execAtomTmax f s) from atomic_memWf h
  | .atomXchg f => show NextWf (execAtomXchg f s) from atomic_memWf h
  | .atomCas f => show NextWf (execAtomCas f s) from atomic_memWf h
  | .atomFadd f => show NextWf (execAtomFadd f s) from atomic_memWf h
  | .redAdd f => show NextWf (execRedAdd f s) from atomic_memWf h
  | .redMin f => show NextWf (execRedMin f s) from atomic_memWf h
  | .redMax f => show NextWf (execRedMax f s) from atomic_memWf h
  | .redTmin f => show NextWf (execRedTmin f s) from atomic_memWf h
  | .redTmax f => show NextWf (execRedTmax f s) from atomic_memWf h
  | .redX81 f => show NextWf (execRedX81 f s) from atomic_memWf h
  | .redFadd f => show NextWf (execRedFadd f s) from atomic_memWf h
  | .atomicApply _ _ => execAtomicApply_memWf h
  | .fence _ => execFence_memWf h
  | .bara _ => execBara_memWf h
  | .barw _ => execBarw_memWf h
  | .bars _ => execBars_memWf h
  | .barrierArrivalApply _ => execBarrierArrivalApply_memWf h
  | .barrierRelayForward _ _ _ => execBarrierRelayForward_memWf h
  | .barl _ => execBarl_memWf h
  | .barlInstanceComplete _ => execBarlInstanceComplete_memWf h
  | .replayTok _ => execReplayTok_memWf h
  | .replayPage _ => execReplayPage_memWf h
  | .replayFail _ => execReplayFail_memWf h
  | .tlbiFld f => show NextWf (execTlbiFld f s) from tlbi_memWf h
  | .tlbiVa f => show NextWf (execTlbiVa f s) from tlbi_memWf h
  | .ctxs f => show NextWf (execCtxs f s) from ctxs_memWf h
  | .ctxsPort f => show NextWf (execCtxsPort f s) from ctxs_memWf h
  | .ctxr f => show NextWf (execCtxr f s) from ctxr_memWf h
  | .ctxrDrop f => show NextWf (execCtxrDrop f s) from ctxr_memWf h
  | .preemptHalt _ => execPreemptHalt_memWf h
  | .contextSaveComplete _ => execContextSaveComplete_memWf h
  | .portableHaltTimeout _ => execPortableHaltTimeout_memWf h
  | .stallWatchdogExpiry _ => execStallWatchdogExpiry_memWf h
  | .sleepWake _ => execSleepWake_memWf h
  | .sleepTimeout _ => execSleepTimeout_memWf h
  | .loadComplete _ => execLoadComplete_memWf h
  | .storeFifoDrain _ => execStoreFifoDrain_memWf h
  | .storeApply _ _ => execStoreApply_memWf h
  | .pageWalk _ _ _ => execPageWalk_memWf h
  | .rowUnparkReissue _ => execRowUnparkReissue_memWf h
  | .overflowReissue _ => execOverflowReissue_memWf h
  | .l2WriteBack _ => execL2WriteBack_memWf h
  | .lineMigrate _ => execLineMigrate_memWf h
  | .backInvalidateSnoopResponse _ => execBackInvalidateSnoopResponse_memWf h
  | .hostLineRead _ _ => execHostLineRead_memWf h
  | .hostLineWrite _ _ _ => execHostLineWrite_memWf h
  | .hostBiconflict _ => execHostBiconflict_memWf h
  | .hostSnoop _ => execHostSnoop_memWf h
  | .flitReceive _ _ _ => execFlitReceive_memWf h
  | .nakReceive _ _ _ => execNakReceive_memWf h
  | .nullFlitSend _ _ => execNullFlitSend_memWf h
  | .retrainComplete _ _ _ => execRetrainComplete_memWf h
  | .seedlingEntry _ => execSeedlingEntry_memWf h
  | .linkTrained _ _ => execLinkTrained_memWf h
  | .hbmStackTrained _ _ => execHbmStackTrained_memWf h
  | .leaveSeedling _ => execLeaveSeedling_memWf h
  | .junctionTrip _ => execJunctionTrip_memWf h
  | .tripRelease _ => execTripRelease_memWf h
  | .clcmdLoad _ _ => execClcmdLoad_memWf h
  | .clcmdUnload _ _ => execClcmdUnload_memWf h
  | .codeObjectLoadComplete _ => execCodeObjectLoadComplete_memWf h
  | .lqbaseArm _ _ _ => execLqbaseArm_memWf h
  | .lqbaseDisarm _ _ => execLqbaseDisarm_memWf h
  | .sowerTakeRecords _ _ => execSowerTakeRecords_memWf h
  | .dependenceMet _ _ _ => execDependenceMet_memWf h
  | .sowerSchedule _ => execSowerSchedule_memWf h
  | .headReservationBar _ => execHeadReservationBar_memWf h
  | .fallowEntry _ => execFallowEntry_memWf h
  | .fallowExit _ => execFallowExit_memWf h
  | .gangRetire _ => execGangRetire_memWf h
  | .gridRetire _ => execGridRetire_memWf h
  | .frcmdGrow _ _ _ _ => execFrcmdGrow_memWf h
  | .frcmdShrink _ _ _ _ => execFrcmdShrink_memWf h
  | .rehashLineMove _ => execRehashLineMove_memWf h
  | .hostRegisterWrite _ _ _ => execHostRegisterWrite_memWf h
  | .unassignedOpcode w => execUnassignedOpcode_memWf (w := w) h
  | .getVersion => execGetVersion_memWf h
  | .getCapabilities => execGetCapabilities_memWf h
  | .negotiateAlgorithms => execNegotiateAlgorithms_memWf h
  | .getDigests => execGetDigests_memWf h
  | .deviceReset => execDeviceReset_memWf h
  | .recctlSubmit => execRecctlSubmit_memWf h
  | .powerTrip => execPowerTrip_memWf h
  | .thermalHalt => execThermalHalt_memWf h
  | .quadLeaveEnd => execQuadLeaveEnd_memWf h
  | .scrubEnd => execScrubEnd_memWf h
  | .rehashComplete => execRehashComplete_memWf h
  | .vacateEnd => execVacateEnd_memWf h
  | .tileRequestAnswer => execTileRequestAnswer_memWf h
  | .hostLinkRetrain => execHostLinkRetrain_memWf h
  | .sriovVfEnable _ _ => execSriovVfEnable_memWf h
  | .fieldReset _ => execFieldReset_memWf h
  | .securityVersionAdvance _ => execSecurityVersionAdvance_memWf h
  | .firmwareSlotRewrite _ => execFirmwareSlotRewrite_memWf h
  | .translationInstall _ _ _ => execTranslationInstall_memWf h
  | .challenge _ => execChallenge_memWf h
  | .getCertificate _ => execGetCertificate_memWf h
  | .getMeasurements _ => execGetMeasurements_memWf h
  | .functionLevelReset _ => execFunctionLevelReset_memWf h
  | .keycmdErase _ _ => execKeycmdErase_memWf h
  | .keycmdInstall _ _ => execKeycmdInstall_memWf h

/-! ### Issue, retirement and side rows -/

@[simp] theorem State.issuing_memWf {r} : (s.issuing r).memWf ↔ s.memWf := by simp [State.issuing]
@[simp] theorem reservedWord_memWf {e} (h : s.memWf) : NextWf (reservedWord e s) := by
  refine withRow_memWf h fun c => ?_
  cases gate c false (reservedUses e) false {} <;> simp [Except.map, h]

@[simp] theorem issueRow_memWf {r} (h : s.memWf) : NextWf (issueRow r s) := by
  have hi : (s.issuing r).memWf := State.issuing_memWf.mpr h
  dsimp only [issueRow]
  split
  · exact (nextWf_next _).mpr hi
  split
  · exact withRow_memWf hi fun _ => okWf_error _
  split
  · exact exec_memWf hi
  · exact reservedWord_memWf hi

@[simp] theorem State.useUnit_memWf {core u} : (s.useUnit core u).memWf ↔ s.memWf := by simp [State.useUnit]
@[simp] theorem State.leftCode_memWf {c r} : (s.leftCode c r).memWf ↔ s.memWf := by simp [State.leftCode]
@[simp] theorem State.settled_memWf {c w fresh} : (s.settled c w fresh).memWf ↔ s.memWf := by
  unfold State.settled
  (repeat' split) <;> simp

@[simp] theorem issueStep_memWf {rr} (h : s.memWf) : NextWf (issueStep rr s) := by
  have hi := issueRow_memWf (r := rr) h
  unfold issueStep
  (repeat' split) <;> simp_all

@[simp] theorem State.aheadStep_memWf {rr} (h : s.memWf) : SomeWf (s.aheadStep rr) := by
  unfold State.aheadStep
  (repeat' split) <;> simp [h]

@[simp] theorem retireStep_memWf {rr} (h : s.memWf) : (retireStep rr s).memWf := by
  have hi := issueRow_memWf (r := rr) h
  unfold retireStep
  (repeat' split) <;> simp_all

@[simp] theorem vectorStep_memWf {rr n} (h : s.memWf) : NextWf (vectorStep rr n s) := by
  induction n generalizing s with
  | zero => exact issueStep_memWf h
  | succ n ih =>
    dsimp only [vectorStep]
    (repeat' split) <;> simp [h, ih]

@[simp] theorem State.sideStep_memWf {scalar rr} (h : s.memWf) : NextWf (s.sideStep scalar rr) := by
  unfold State.sideStep
  (repeat' split) <;> simp [h]
  exact State.aheadStep_memWf h _ ‹_›

/-! ### Upsets -/

@[simp] theorem State.upsetL1_memWf {core line trits} : (s.upsetL1 core line trits).memWf ↔ s.memWf := by
  simp [State.upsetL1]

@[simp] theorem State.upsetRdc_memWf {die line trits} : (s.upsetRdc die line trits).memWf ↔ s.memWf := by
  simp [State.upsetRdc]

@[simp] theorem State.upsetL2_memWf {line trits} (h : s.memWf) : (s.upsetL2 line trits).memWf := by
  dsimp only [State.upsetL2]
  (repeat' split) <;> simp [h]

@[simp] theorem State.upsetScratch_memWf {who at_ trits} : (s.upsetScratch who at_ trits).memWf ↔ s.memWf := by
  unfold State.upsetScratch
  split <;> simp

@[simp] theorem State.upsetSector_memWf {line bytes} : (s.upsetSector line bytes).memWf ↔ s.memWf := by
  simp [State.upsetSector]

@[simp] theorem State.upsetTag_memWf {group bytes} : (s.upsetTag group bytes).memWf ↔ s.memWf := by
  simp [State.upsetTag]

@[simp] theorem State.struck_memWf {a__internal_hyg0} (h : s.memWf) : (s.struck a__internal_hyg0).memWf := by
  unfold State.struck
  split <;> simp [h]

/-! ### The schedule -/

@[simp] theorem State.tick_memWf  : (s.tick).memWf ↔ s.memWf := by simp [State.tick]
@[simp] theorem State.countWaits_memWf {scalar ready pick} :
    (s.countWaits scalar ready pick).memWf ↔ s.memWf := by
  simp [State.countWaits]

theorem State.chooseRow_memWf {core scalar q} (h : s.memWf) (hq : s.chooseRow core scalar = some q) :
    q.2.memWf := by
  obtain ⟨r, -, rfl⟩ := Option.map_eq_some_iff.mp hq
  simpa using h

theorem State.chooseFrom_memWf {us q} (h : s.memWf) (hq : s.chooseFrom us = some q) : q.2.2.memWf := by
  induction us with
  | nil => cases hq
  | cons u us ih =>
    unfold State.chooseFrom at hq
    split at hq
    · exact ih hq
    · cases hq
      exact State.chooseRow_memWf h ‹_›

@[simp] theorem State.turnOf_memWf {r} (h : s.memWf) : (s.turnOf r).2.memWf := by
  dsimp only [State.turnOf]
  split
  · exact h
  · cases hc : s.chooseRow _ _ with
    | none => exact h
    | some q => exact State.chooseRow_memWf h hc

@[simp] theorem takeTurn_memWf {r} (h : s.memWf) : NextWf (takeTurn r s) := by simp [takeTurn, h]
@[simp] theorem firstDue_memWf {is} (h : s.memWf) : SomeWf (firstDue s is) := by
  induction is with
  | nil => simp [firstDue]
  | cons i r ih =>
    unfold firstDue
    (repeat' split)
    · exact ih
    · simpa using exec_memWf h _ ‹_›
    · exact ih

@[simp] theorem State.tryRow_memWf {r} (h : s.memWf) : NextWf (s.tryRow r) := by simp [State.tryRow, h]
@[simp] theorem expiry_memWf {r} (h : s.memWf) : NextWf (expiry r s) := by
  unfold expiry
  split
  · exact exec_memWf (by simpa)
  · simpa

@[simp] theorem State.attempt_memWf (h : s.memWf) : SomeWf s.attempt := by
  intro t ht
  obtain ⟨q, -, hq⟩ := List.exists_of_findSome?_eq_some ht
  split at hq
  · cases hq
  · split at hq
    · split at hq
      · cases hq
      · cases hq
        exact State.tryRow_memWf h _ ‹_›
    · cases hq

@[simp] theorem act_memWf {a} (h : s.memWf) : NextWf (act a s) := by
  unfold act
  split <;> simp [h]
  exact fun _ => exec_memWf h

@[simp] theorem idleAct_memWf (h : s.memWf) : NextWf (idleAct s) := by
  unfold idleAct
  split
  · simpa using firstDue_memWf h _ ‹_›
  split
  · simpa using State.attempt_memWf h _ ‹_›
  split
  · simpa
  · exact State.sideStep_memWf (State.chooseFrom_memWf h ‹_› :)

theorem State.advance_memWf (h : s.memWf) : NextWf s.advance := by
  unfold State.advance
  (repeat' split) <;> simp [h]
/-- Settles O58: a step is `State.advance`, which keeps the form whatever is on the agenda. -/
theorem stepKeepsMemWf : Obligations.StepKeepsMemWf :=
  fun _ t h e => State.advance_memWf h t e

end Sys2Proof.Machine
end

section
/-! ## Floating-point arithmetic (O15)

Balanced remainders and the words built of elements; the formats and their negation; `roundT`, which rounds a value that
terminates, by the number of its trits; `roundG`, which rounds a positive real that it sees as floors of its sixfold;
the quotients and roots that it is given; Table 2.8; the instructions. -/
namespace Sys2Proof.Machine

/-! ### Balanced ternary -/

theorem two_mul_maxT_add_one (n : Nat) : 2 * maxT n + 1 = (3 : Int) ^ n := by
  have h : 3 ^ n % 2 = 1 := Nat.odd_iff.mp ((by decide : Odd 3).pow)
  have e : ((3 ^ n : Nat) : Int) = 3 ^ n := by push_cast; rfl
  unfold maxT
  omega

theorem maxT_nonneg (n : Nat) : 0 ≤ maxT n := Int.natCast_nonneg _

theorem wrapT_eq (n : Nat) (x : Int) : wrapT n x = (x + maxT n) % 3 ^ n - maxT n := by
  simp [wrapT, maxT]

/-- `wrapT` is the balanced remainder. -/
theorem abs_wrapT_le (n : Nat) (x : Int) : |wrapT n x| ≤ maxT n := by
  have h := two_mul_maxT_add_one n
  have h0 := Int.emod_nonneg (x + maxT n) (show (3 : Int) ^ n ≠ 0 by positivity)
  have h1 := Int.emod_lt_of_pos (x + maxT n) (show (0 : Int) < 3 ^ n by positivity)
  rw [wrapT_eq, abs_le]
  omega

theorem dvd_sub_wrapT (n : Nat) (x : Int) : (3 : Int) ^ n ∣ x - wrapT n x := by
  have h := dvd_sub_comm.mp (Int.dvd_sub_self_of_emod_eq (a := x + maxT n) (b := 3 ^ n) rfl)
  rwa [wrapT_eq, show x - ((x + maxT n) % 3 ^ n - maxT n) = x + maxT n - (x + maxT n) % 3 ^ n by ring]

/-- Numbers of at most n trits that agree modulo 3^n are one. -/
theorem eq_of_dvd_of_abs_le {n : Nat} {a b : Int} (ha : |a| ≤ maxT n) (hb : |b| ≤ maxT n)
    (h : (3 : Int) ^ n ∣ a - b) :
    a = b := by
  have := two_mul_maxT_add_one n
  have hlt : |a - b| < 3 ^ n := by
    rw [abs_le] at ha hb
    rw [abs_lt]
    omega
  exact sub_eq_zero.mp (Int.eq_zero_of_abs_lt_dvd h hlt)

theorem wrapT_eq_of_dvd {n : Nat} {x r : Int} (hr : |r| ≤ maxT n) (h : (3 : Int) ^ n ∣ x - r) : wrapT n x = r :=
  eq_of_dvd_of_abs_le (abs_wrapT_le n x) hr (by simpa using dvd_sub h (dvd_sub_wrapT n x))

theorem wrapT_of_abs_le {n : Nat} {x : Int} (h : |x| ≤ maxT n) : wrapT n x = x :=
  wrapT_eq_of_dvd h (by simp)

@[simp] theorem wrapT_add_mul (n : Nat) (a b : Int) : wrapT n (a + 3 ^ n * b) = wrapT n a :=
  wrapT_eq_of_dvd (abs_wrapT_le n a) (by
    rw [show a + 3 ^ n * b - wrapT n a = a - wrapT n a + 3 ^ n * b by ring]
    exact dvd_add (dvd_sub_wrapT n a) (dvd_mul_right _ _))

@[simp] theorem wrapT_zero_left (x : Int) : wrapT 0 x = 0 := by simp [wrapT]

theorem field_zero (x : Int) (n : Nat) : field x 0 n = wrapT n x := by simp [field]

theorem abs_field_le (x : Int) (lo n : Nat) : |field x lo n| ≤ maxT n := abs_wrapT_le _ _

/-- The trits above a number of at most lo trits. -/
theorem field_add_mul {lo : Nat} {a : Int} (n : Nat) (b : Int) (ha : |a| ≤ maxT lo) :
    field (a + 3 ^ lo * b) lo n = wrapT n b := by
  unfold field
  rw [wrapT_add_mul, wrapT_of_abs_le ha]
  congr 1
  push_cast
  rw [add_sub_cancel_left]
  exact Int.mul_ediv_cancel_left _ (by positivity)

/-- A number is its low trits and the rest. -/
theorem wrapT_add_dropT (x : Int) (n : Nat) : wrapT n x + 3 ^ n * dropT x n = x := by
  rw [dropT, Int.mul_ediv_cancel' (dvd_sub_wrapT n x)]
  ring

theorem field_eq_wrapT_dropT (x : Int) (lo n : Nat) : field x lo n = wrapT n (dropT x lo) := by
  simp [field, dropT]

/-! ### Words of elements -/

theorem maxT_9 : maxT 9 = 9841 := by decide
theorem maxT_27 : maxT 27 = 3812798742493 := by decide

/-- A word that is built of elements within their width has them as its elements (08 R130). -/
theorem isWord_perElem {w : Nat} {f : Nat → Int × Fx} (hf : ∀ j < elems w, |(f j).1| ≤ maxT w) :
    IsWord w (perElem w f).1 (fun j => (f j).1) := by
  intro j hj
  by_cases h9 : w = 9
  · subst h9
    have h0 := hf 0 (by decide)
    have h1 := hf 1 (by decide)
    have h2 := hf 2 (by decide)
    rw [maxT_9, abs_le] at h0 h1 h2
    have hb : (perElem 9 f).1 = (f 0).1 + (f 1).1 * 3 ^ 9 + (f 2).1 * 3 ^ 18 := by
      simp [perElem, build, elems, List.range_succ]
    rw [hb]
    have : j < 3 := hj
    interval_cases j
    all_goals simp only [field, wrapT]; norm_num; omega
  · have hj : j = 0 := by simpa [elems, h9] using hj
    subst hj
    have hb : (perElem w f).1 = (f 0).1 := by simp [perElem, build, elems, h9]
    rw [hb, Nat.mul_zero, field_zero]
    exact wrapT_of_abs_le (hf 0 (by simp [elems, h9]))

theorem perElem_snd (w : Nat) (f : Nat → Int × Fx) :
    (perElem w f).2 = Fx.unions (elems w) (fun j => (f j).2) := by
  suffices h : ∀ (l : List Nat) (a : Int × Fx),
      (l.foldl (fun acc j => (acc.1 + (f j).1 * 3 ^ (w * j), acc.2.union (f j).2)) a).2 =
        l.foldl (fun a j => a.union (f j).2) a.2 from h _ _
  intro l
  induction l with
  | nil => intro a; rfl
  | cons x r ih => intro a; exact ih _
/-! ### The formats (02 R27 to R32) -/

@[simp] theorem FKind.sig_add_exp (k : FKind) : k.sig + k.exp = k.width := by cases k <;> rfl

/-- A word of an exponent and a significand of a format fits its width. -/
theorem abs_mkFl_le {k : FKind} {e sg : Int} (he : |e| ≤ k.top) (hs : |sg| ≤ maxT k.sig) :
    |mkFl k e sg| ≤ maxT k.width := by
  have h1 := two_mul_maxT_add_one k.sig
  have h2 := two_mul_maxT_add_one k.exp
  have h3 := two_mul_maxT_add_one k.width
  rw [← k.sig_add_exp, pow_add, ← h1, ← h2] at h3
  have he' : |e| * (2 * maxT k.sig + 1) ≤ k.top * (2 * maxT k.sig + 1) :=
    mul_le_mul_of_nonneg_right he (by have := maxT_nonneg k.sig; omega)
  calc |mkFl k e sg| ≤ |e * 3 ^ k.sig| + |sg| := abs_add_le _ _
    _ = |e| * (2 * maxT k.sig + 1) + |sg| := by rw [abs_mul, ← h1, abs_of_nonneg (a := 2 * maxT k.sig + 1) (by have := maxT_nonneg k.sig; omega)]
    _ ≤ maxT k.width := by
      unfold FKind.top at he'
      rw [k.sig_add_exp] at h3
      linarith

theorem FKind.top_nonneg (k : FKind) : 0 ≤ k.top := maxT_nonneg _

theorem sig_unit_le (k : FKind) : (3 : Int) ^ (k.sig - 1) ≤ maxT k.sig := by cases k <;> decide

theorem abs_infWord_le (k : FKind) (b : Bool) : |infWord k b| ≤ maxT k.width := by
  refine abs_mkFl_le (abs_of_nonneg k.top_nonneg).le ?_
  have h : |(3 : Int) ^ (k.sig - 1)| ≤ maxT k.sig := (abs_of_nonneg (by positivity)).trans_le (sig_unit_le k)
  split
  · rwa [abs_neg]
  · exact h

theorem abs_nanWord_le (k : FKind) : |nanWord k| ≤ maxT k.width :=
  abs_mkFl_le (abs_of_nonneg k.top_nonneg).le (by simpa using maxT_nonneg _)

theorem abs_zeroWord_le (k : FKind) : |zeroWord k| ≤ maxT k.width :=
  abs_mkFl_le (by rw [abs_neg, abs_of_nonneg k.top_nonneg]) (by simpa using maxT_nonneg _)

/-- Trit 19 of a word may be set to + without leaving the word. -/
theorem abs_quietNaN_le {x : Int} (h : |x| ≤ maxT 27) : |quietNaN x| ≤ maxT 27 := by
  rw [maxT_27, abs_le] at *
  unfold quietNaN
  split
  · exact h
  · simp only [trit, field, wrapT]
    norm_num
    omega

/-! ### Negation (02 R29) -/

/-- The value that negation gives. -/
def Fl.neg : Fl → Fl
  | .nan b r => .nan b r
  | .inf b => .inf (!b)
  | .fin m e => .fin (-m) e

/-- Inverting the low trits leaves the trits above them … -/
theorem field_negate_low (x : Int) (lo n : Nat) : field (x - 2 * wrapT lo x) lo n = field x lo n := by
  have h : x - 2 * wrapT lo x = -wrapT lo x + 3 ^ lo * dropT x lo := by
    nth_rw 1 [← wrapT_add_dropT x lo]; ring
  rw [h, field_add_mul n _ ((abs_neg _).trans_le (abs_wrapT_le lo x)), field_eq_wrapT_dropT]

/-- … and inverts the low ones. -/
theorem wrapT_negate_low (x : Int) (lo : Nat) : wrapT lo (x - 2 * wrapT lo x) = -wrapT lo x := by
  refine wrapT_eq_of_dvd ((abs_neg _).trans_le (abs_wrapT_le lo x)) ?_
  rw [show x - 2 * wrapT lo x - -wrapT lo x = x - wrapT lo x by ring]
  exact dvd_sub_wrapT lo x

theorem abs_readFl_fin {k : FKind} {x m e : Int} (h : readFl k x = .fin m e) :
    |m| ≤ maxT k.sig ∧ (e = 0 ∧ m = 0 ∨ |e + (k.sig - 1 : Nat)| ≤ k.top) := by
  unfold readFl at h
  dsimp only at h
  split at h
  · split at h
    · cases h
    split at h
    · cases h
    · cases h
  split at h
  · cases h
    exact ⟨by simpa using maxT_nonneg _, .inl ⟨rfl, rfl⟩⟩
  · cases h
    refine ⟨abs_field_le _ _ _, .inr ?_⟩
    rw [sub_add_cancel]
    exact abs_field_le _ _ _

theorem readFl_nan_raw {k : FKind} {x r : Int} {b : Bool} (h : readFl k x = .nan b r) : r = x := by
  unfold readFl at h
  dsimp only at h
  split at h
  · split at h
    · cases h
    split at h
    · cases h
    · cases h; rfl
  split at h <;> cases h

/-- Reading a negated element reads the negated value. -/
theorem readFl_negFl (k : FKind) (x : Int) : readFl k (negFl k x) = (readFl k x).neg := by
  unfold negFl
  split
  next h => rw [h]; rfl
  next h =>
  rw [field_zero]
  have h1 : field (x - 2 * wrapT k.sig x) k.sig k.exp = field x k.sig k.exp := field_negate_low _ _ _
  have h2 : field (x - 2 * wrapT k.sig x) 0 k.sig = -field x 0 k.sig := by
    rw [field_zero, field_zero, wrapT_negate_low]
  have hp : (0 : Int) < 3 ^ (k.sig - 1) := by positivity
  unfold readFl at *
  simp only [h1, h2] at *
  by_cases ht : field x k.sig k.exp = k.top
  · simp only [ht, if_true] at *
    by_cases hpos : field x 0 k.sig = 3 ^ (k.sig - 1)
    · have : -(3 : Int) ^ (k.sig - 1) ≠ 3 ^ (k.sig - 1) := by omega
      simp [hpos, this, Fl.neg]
    · by_cases hneg : field x 0 k.sig = -3 ^ (k.sig - 1)
      · have : -(3 : Int) ^ (k.sig - 1) ≠ 3 ^ (k.sig - 1) := by omega
        simp [hneg, this, Fl.neg]
      · exact (h _ _ (by rw [if_neg hpos, if_neg hneg])).elim
  · simp only [ht, if_false]
    split <;> simp [Fl.neg]

/-! ### The length of a significand -/

/-- The quotient 100000/158497 is below log 2 / log 3 … -/
theorem pow3_le_pow2 (l : Nat) : 3 ^ (l * 100000 / 158497) ≤ 2 ^ l := by
  have h : 485 * (l * 100000 / 158497) ≤ 306 * l := by omega
  refine (Nat.pow_le_pow_iff_left (n := 306) (by norm_num)).mp ?_
  calc (3 ^ (l * 100000 / 158497)) ^ 306 = (3 ^ 306) ^ (l * 100000 / 158497) := by
        rw [← pow_mul, ← pow_mul, Nat.mul_comm]
    _ ≤ (2 ^ 485) ^ (l * 100000 / 158497) := Nat.pow_le_pow_left (by decide +kernel) _
    _ = 2 ^ (485 * (l * 100000 / 158497)) := (pow_mul _ _ _).symm
    _ ≤ 2 ^ (306 * l) := Nat.pow_le_pow_right (by norm_num) h
    _ = (2 ^ l) ^ 306 := by rw [← pow_mul, Nat.mul_comm]

/-- … and near to it: below 50000 bits the length it gives is at most two trits short. -/
theorem pow2_le_pow3 {l : Nat} (hl : l < 50000) : 2 ^ (l + 1) ≤ 3 ^ (l * 100000 / 158497 + 3) := by
  have h : 53 * (l + 1) ≤ 84 * (l * 100000 / 158497 + 3) := by omega
  refine (Nat.pow_le_pow_iff_left (n := 84) (by norm_num)).mp ?_
  calc (2 ^ (l + 1)) ^ 84 = (2 ^ 84) ^ (l + 1) := by rw [← pow_mul, ← pow_mul, Nat.mul_comm]
    _ ≤ (3 ^ 53) ^ (l + 1) := Nat.pow_le_pow_left (by norm_num) _
    _ = 3 ^ (53 * (l + 1)) := (pow_mul _ _ _).symm
    _ ≤ 3 ^ (84 * (l * 100000 / 158497 + 3)) := Nat.pow_le_pow_right (by norm_num) h
    _ = (3 ^ (l * 100000 / 158497 + 3)) ^ 84 := by rw [← pow_mul, Nat.mul_comm]

/-- A number below a power of three that a computation with exponents of the formats reaches. -/
def Short (m : Int) : Prop := ∃ n ≤ 30000, |m| < 3 ^ n

theorem Short.log2_lt {m : Int} (hm : m ≠ 0) (h : Short m) : Nat.log2 (2 * m.natAbs) < 50000 := by
  obtain ⟨n, hn, h⟩ := h
  have h' : m.natAbs < 3 ^ n := by zify; exact h
  rw [Nat.log2_lt (by omega)]
  have hk (k : Nat) : 3 ^ (5 * k) ≤ 2 ^ (8 * k) := by
    rw [pow_mul, pow_mul]
    exact Nat.pow_le_pow_left (by norm_num) k
  have e : 3 ^ n ≤ 2 ^ 49999 :=
    calc 3 ^ n ≤ 3 ^ (5 * (n / 5 + 1)) := Nat.pow_le_pow_right (by norm_num) (by omega)
      _ ≤ 2 ^ (8 * (n / 5 + 1)) := hk _
      _ ≤ 2 ^ 49999 := Nat.pow_le_pow_right (by norm_num) (by omega)
  calc 2 * m.natAbs < 2 * 2 ^ 49999 := by omega
    _ = 2 ^ 50000 := by rw [← pow_succ']

/-- The number of trits of a nonzero significand. -/
theorem tlen_spec {m : Int} (hm : m ≠ 0) (h : Short m) :
    ∃ n, tlen m = n + 1 ∧ 3 ^ n < 2 * |m| ∧ 2 * |m| < 3 ^ (n + 1) := by
  have hl := h.log2_lt hm
  set y := 2 * m.natAbs with hy
  have hy0 : y ≠ 0 := by omega
  have hodd (n : Nat) : 3 ^ n ≠ y := fun e => by
    have := two_mul_maxT_add_one n
    have e' : (3 : Int) ^ n = y := by exact_mod_cast e
    omega
  have hlo : 3 ^ (Nat.log2 y * 100000 / 158497) ≤ y := (pow3_le_pow2 _).trans (Nat.log2_self_le hy0)
  have hhi : y < 3 ^ (Nat.log2 y * 100000 / 158497 + 3) := Nat.lt_log2_self.trans_le (pow2_le_pow3 hl)
  have main : ∃ n, tlen m = n + 1 ∧ 3 ^ n ≤ y ∧ y < 3 ^ (n + 1) := by
    unfold tlen
    simp only [hm, if_false, ← hy]
    generalize Nat.log2 y * 100000 / 158497 = a at hlo hhi
    rw [if_neg hlo.not_gt]
    by_cases h1 : y < 3 ^ (a + 1)
    · simp only [h1, if_true]
      exact ⟨a, rfl, hlo, h1⟩
    · by_cases h2 : y < 3 ^ (a + 1 + 1)
      · simp only [h1, h2, if_true, if_false]
        exact ⟨a + 1, rfl, not_lt.mp h1, h2⟩
      · simp only [h1, h2, if_false]
        exact ⟨a + 2, rfl, not_lt.mp h2, hhi⟩
  obtain ⟨n, hn, h1, h2⟩ := main
  refine ⟨n, hn, ?_, ?_⟩
  · have : 3 ^ n < y := lt_of_le_of_ne h1 (hodd n)
    rw [hy] at this
    zify at this
    exact this
  · rw [hy] at h2
    zify at h2
    exact h2

/-! ### Dropping trits -/

/-- Dropping trits rounds to the nearest integer; there is no tie (00 R7). -/
theorem two_mul_abs_dropT_sub_lt (m : Int) (d : Nat) : 2 * |dropT m d * 3 ^ d - m| < 3 ^ d := by
  have h := wrapT_add_dropT m d
  have h1 := abs_wrapT_le d m
  have h2 := two_mul_maxT_add_one d
  rw [show dropT m d * 3 ^ d - m = -wrapT d m by linarith, abs_neg]
  omega

theorem lowT_iff (m : Int) (d : Nat) : lowT m d = true ↔ dropT m d * 3 ^ d ≠ m := by
  have h := wrapT_add_dropT m d
  rw [lowT, decide_eq_true_iff]
  constructor <;> intro h' e <;> apply h' <;> linarith

/-- The trits that stay. -/
theorem abs_dropT_le {m : Int} {n d : Nat} (h : 2 * |m| < 3 ^ (n + d)) : |dropT m d| ≤ maxT n := by
  have h1 := two_mul_abs_dropT_sub_lt m d
  have h2 := two_mul_maxT_add_one n
  have hp : (0 : Int) < 3 ^ d := by positivity
  have h3 : |dropT m d| * 3 ^ d ≤ |dropT m d * 3 ^ d - m| + |m| := by
    calc |dropT m d| * 3 ^ d = |dropT m d * 3 ^ d| := by rw [abs_mul, abs_of_pos hp]
      _ = |(dropT m d * 3 ^ d - m) + m| := by rw [sub_add_cancel]
      _ ≤ _ := abs_add_le _ _
  rw [pow_add] at h
  have : 2 * |dropT m d| * 3 ^ d < (3 ^ n + 1) * 3 ^ d := by nlinarith
  have := lt_of_mul_lt_mul_right this hp.le
  omega

/-- `scaleT` rounds m × 3^e to the nearest integer, exactly when e ≥ 0. -/
theorem scaleT_nearest (m e : Int) : 2 * |(scaleT m e : Rat) - m * (3 : Rat) ^ e| < 1 := by
  unfold scaleT
  split
  next h =>
    obtain ⟨n, rfl⟩ := Int.eq_ofNat_of_zero_le h
    simp
  next h =>
    obtain ⟨n, hn⟩ := Int.eq_ofNat_of_zero_le (show 0 ≤ -e by omega)
    obtain rfl : e = -n := by omega
    rw [neg_neg, Int.toNat_natCast]
    have h1 := two_mul_abs_dropT_sub_lt m n
    have hp : (0 : Rat) < 3 ^ n := by positivity
    have h2 : 2 * |(dropT m n : Rat) * 3 ^ n - m| < 3 ^ n := by exact_mod_cast h1
    rw [zpow_neg, zpow_natCast]
    have e : ((dropT m n : Rat) - m * (3 ^ n)⁻¹) = (dropT m n * 3 ^ n - m) / 3 ^ n := by field_simp
    rw [e, abs_div, abs_of_pos hp, ← mul_div_assoc, div_lt_one hp]
    exact h2

/-- Whether it dropped anything. -/
theorem scaleT_exact_iff (m e : Int) :
    (decide (e < 0) && lowT m (-e).toNat) = decide ((scaleT m e : Rat) ≠ m * (3 : Rat) ^ e) := by
  unfold scaleT
  split
  next h =>
    obtain ⟨n, rfl⟩ := Int.eq_ofNat_of_zero_le h
    simp
  next h =>
    obtain ⟨n, hn⟩ := Int.eq_ofNat_of_zero_le (show 0 ≤ -e by omega)
    obtain rfl : e = -n := by omega
    have hp : (0 : Rat) < 3 ^ n := by positivity
    rw [neg_neg, Int.toNat_natCast, Bool.eq_iff_iff, Bool.and_eq_true, lowT_iff, decide_eq_true_iff, decide_eq_true_iff,
      and_iff_right (not_le.mp h), zpow_neg, zpow_natCast, ← div_eq_mul_inv, ne_eq, ne_eq, eq_div_iff hp.ne']
    norm_cast

/-! ### Rounding a terminating value (02 R24, R25, R31) -/

/-- The exponent of a value is between two powers of three of which only one pair fits. -/
theorem zpow_bracket_unique {x : Rat} {a b : Int} (ha : (3 : Rat) ^ a < x) (ha' : x < (3 : Rat) ^ (a + 1))
    (hb : (3 : Rat) ^ b < x) (hb' : x < (3 : Rat) ^ (b + 1)) : a = b := by
  have h1 := (zpow_lt_zpow_iff_right₀ (by norm_num : (1 : Rat) < 3)).mp (ha.trans hb')
  have h2 := (zpow_lt_zpow_iff_right₀ (by norm_num : (1 : Rat) < 3)).mp (hb.trans ha')
  omega

theorem two_mul_abs_mul_zpow (m e : Int) :
    2 * |(m : Rat) * (3 : Rat) ^ e| = ((2 * |m| : Int) : Rat) * (3 : Rat) ^ e := by
  rw [abs_mul, abs_of_pos (show (0 : Rat) < (3 : Rat) ^ e by positivity)]
  push_cast
  ring

/-- The exponent that `roundT` takes is the exponent of the value. -/
theorem tlen_bracket {m : Int} (e : Int) (hm : m ≠ 0) (h : Short m) :
    (3 : Rat) ^ (e + tlen m - 1) < 2 * |(m : Rat) * (3 : Rat) ^ e| ∧
      2 * |(m : Rat) * (3 : Rat) ^ e| < (3 : Rat) ^ (e + tlen m - 1 + 1) := by
  obtain ⟨n, hn, h1, h2⟩ := tlen_spec hm h
  have hp : (0 : Rat) < (3 : Rat) ^ e := by positivity
  have h1' : ((3 : Rat) ^ n) < ((2 * |m| : Int) : Rat) := by exact_mod_cast h1
  have h2' : ((2 * |m| : Int) : Rat) < (3 : Rat) ^ (n + 1) := by exact_mod_cast h2
  rw [two_mul_abs_mul_zpow, hn, show e + ((n + 1 : Nat) : Int) - 1 + 1 = ((n + 1 : Nat) : Int) + e by ring,
    show e + ((n + 1 : Nat) : Int) - 1 = (n : Int) + e by push_cast; ring, zpow_add₀ (by norm_num), zpow_add₀ (by norm_num),
    zpow_natCast, zpow_natCast]
  exact ⟨mul_lt_mul_of_pos_right h1' hp, mul_lt_mul_of_pos_right h2' hp⟩

/-- A value in units of 3^u, rounded to the nearest integer. -/
theorem scaleT_unit (m e u : Int) :
    2 * |(scaleT m (e - u) : Rat) * (3 : Rat) ^ u - m * (3 : Rat) ^ e| < (3 : Rat) ^ u := by
  have hp : (0 : Rat) < (3 : Rat) ^ u := by positivity
  have h := scaleT_nearest m (e - u)
  have e1 : (scaleT m (e - u) : Rat) * (3 : Rat) ^ u - m * (3 : Rat) ^ e =
      (scaleT m (e - u) - m * (3 : Rat) ^ (e - u)) * (3 : Rat) ^ u := by
    rw [sub_mul, mul_assoc, ← zpow_add₀ (by norm_num), sub_add_cancel]
  rw [e1, abs_mul, abs_of_pos hp, ← mul_assoc]
  exact mul_lt_of_lt_one_left hp h

theorem scaleT_unit_exact (m e u : Int) :
    (decide (e - u < 0) && lowT m (-(e - u)).toNat) =
      decide ((scaleT m (e - u) : Rat) * (3 : Rat) ^ u ≠ m * (3 : Rat) ^ e) := by
  have hp : (3 : Rat) ^ u ≠ 0 := by positivity
  rw [scaleT_exact_iff, decide_eq_decide, ne_eq, ne_eq, ← mul_left_inj' hp, mul_assoc, ← zpow_add₀ (by norm_num),
    sub_add_cancel]

/-- The nearest integer to a value of at most n trits has at most n. -/
theorem abs_scaleT_le {m e : Int} {n : Nat} (h : 2 * |(m : Rat) * (3 : Rat) ^ e| < (3 : Rat) ^ n) :
    |scaleT m e| ≤ maxT n := by
  have h1 := scaleT_nearest m e
  have h2 := two_mul_maxT_add_one n
  have h3 : |(scaleT m e : Rat)| ≤ |(scaleT m e : Rat) - m * (3 : Rat) ^ e| + |(m : Rat) * (3 : Rat) ^ e| := by
    simpa using abs_add_le ((scaleT m e : Rat) - m * (3 : Rat) ^ e) (m * (3 : Rat) ^ e)
  have h4 : ((2 * |scaleT m e| : Int) : Rat) < ((3 ^ n + 1 : Int) : Rat) := by
    push_cast
    linarith
  have := Int.cast_lt.mp h4
  omega

theorem abs_scaleT_le_of_short {m e : Int} {n : Nat} (hm : m ≠ 0) (h : Short m) (hn : e + tlen m ≤ n) :
    |scaleT m e| ≤ maxT n := by
  refine abs_scaleT_le ((tlen_bracket e hm h).2.trans_le ?_)
  rw [sub_add_cancel, ← zpow_natCast]
  exact zpow_le_zpow_right₀ (by norm_num) hn

/-- What `roundT` gives by the exponent of the value. -/
theorem roundT_of_overflow {k : FKind} {m e : Int} (hm : m ≠ 0) (h : k.top ≤ e + tlen m - 1) :
    roundT k m e = (infWord k (decide (m < 0)), Fx.OFNX) := by
  simp [roundT, hm, h]

theorem roundT_of_normal {k : FKind} {m e : Int} (hm : m ≠ 0) (h : e + tlen m - 1 < k.top)
    (h' : -k.top < e + tlen m - 1 ∨ k = .f27 ∧ e + tlen m - 1 = -k.top) :
    roundT k m e = (mkFl k (e + tlen m - 1) (scaleT m ((k.sig : Int) - tlen m)),
      Fx.cond (decide ((k.sig : Int) - tlen m < 0) && lowT m (-((k.sig : Int) - tlen m)).toNat) Fx.NX) := by
  have hd : (-((k.sig : Int) - tlen m)).toNat = tlen m - k.sig := by omega
  have hl : decide ((k.sig : Int) - tlen m < 0) = decide (k.sig < tlen m) := decide_eq_decide.mpr (by omega)
  rw [hd, hl]
  simp only [roundT, hm, if_false, not_le.mpr h]
  by_cases hk : k = .f27
  · have : ¬ e + tlen m - 1 < -k.top := by rcases h' with h' | h' <;> omega
    subst hk
    simp only [this, if_true, if_false]
  · have : ¬ e + tlen m - 1 ≤ -k.top := by rcases h' with h' | h' <;> simp_all
    simp only [hk, this, if_false]

theorem roundT_of_subnormal {m e : Int} (hm : m ≠ 0) (h : e + tlen m - 1 < -364) :
    roundT .f27 m e = (mkFl .f27 (-364) (scaleT m (e - -384)),
      Fx.cond (decide (e - -384 < 0) && lowT m (-(e - -384)).toNat) Fx.UFNX) := by
  have ht : FKind.f27.top = 364 := rfl
  have h1 : ¬ (364 ≤ e + tlen m - 1) := by omega
  have hd : decide (e - -384 < 0) = decide (0 < -384 - e) := decide_eq_decide.mpr (by omega)
  rw [hd, show -(e - -384) = -384 - e by ring]
  simp only [roundT, hm, if_false, ht, ge_iff_le, h1, h, if_true]
  rw [show e - -384 = -(-384 - e) by ring]

theorem roundT_of_underflow {k : FKind} {m e : Int} (hm : m ≠ 0) (hk : k ≠ .f27) (h : e + tlen m - 1 ≤ -k.top) :
    roundT k m e = (zeroWord k, Fx.UFNX) := by
  have h1 : ¬ (k.top ≤ e + tlen m - 1) := by
    have : 0 < k.top := by cases k <;> decide
    omega
  simp [roundT, hm, hk, h, h1]

/-- `roundT` rounds a terminating value. -/
theorem rounded_roundT {m : Int} (k : FKind) (e : Int) (h : Short m) :
    Rounded k (m * (3 : Rat) ^ e) (roundT k m e) := by
  have hp : (0 : Rat) < (3 : Rat) ^ e := by positivity
  by_cases hm : m = 0
  · subst hm
    refine ⟨fun _ => by simp [roundT], fun a h1 h2 => absurd h1 ?_⟩
    simpa using (show (0 : Rat) < (3 : Rat) ^ a by positivity).le
  refine ⟨fun h0 => absurd h0 (mul_ne_zero (by exact_mod_cast hm) hp.ne'), fun a h1 h2 => ?_⟩
  obtain ⟨b1, b2⟩ := tlen_bracket e hm h
  obtain rfl := zpow_bracket_unique b1 b2 h1 h2
  have hneg : decide ((m : Rat) * (3 : Rat) ^ e < 0) = decide (m < 0) :=
    decide_eq_decide.mpr (by simp [mul_neg_iff, hp, hp.not_gt])
  refine ⟨fun ho => ?_, fun ho hu => ⟨scaleT m ((k.sig : Int) - tlen m), ?_⟩, fun hk hu => ⟨scaleT m (e - -384), ?_⟩,
    fun hk hu => roundT_of_underflow hm hk hu⟩
  · rw [roundT_of_overflow hm ho, hneg]
  · have hs : 0 < k.sig := by cases k <;> decide
    have e1 : (k.sig : Int) - tlen m = e - (e + tlen m - 1 - (k.sig - 1 : Nat)) := by omega
    rw [roundT_of_normal hm ho hu]
    refine ⟨rfl, abs_scaleT_le_of_short hm h (by omega), ?_⟩
    rw [e1]
    exact ⟨scaleT_unit _ _ _, by rw [scaleT_unit_exact]⟩
  · subst hk
    rw [roundT_of_subnormal hm hu]
    exact ⟨rfl, scaleT_unit _ _ _, by rw [scaleT_unit_exact]⟩

/-- What `roundT` gives fits its format. -/
theorem abs_roundT_le {m : Int} (k : FKind) (e : Int) (h : Short m) : |(roundT k m e).1| ≤ maxT k.width := by
  by_cases hm : m = 0
  · subst hm; simpa [roundT] using abs_zeroWord_le k
  have ht := k.top_nonneg
  rcases le_or_gt k.top (e + tlen m - 1) with ho | ho
  · rw [roundT_of_overflow hm ho]
    exact abs_infWord_le _ _
  by_cases hu : -k.top < e + tlen m - 1 ∨ k = .f27 ∧ e + tlen m - 1 = -k.top
  · rw [roundT_of_normal hm ho hu]
    refine abs_mkFl_le (abs_le.mpr ?_) (abs_scaleT_le_of_short hm h (by omega))
    rcases hu with hu | hu <;> omega
  by_cases hk : k = .f27
  · subst hk
    have ht' : FKind.f27.top = 364 := rfl
    have hu : e + tlen m - 1 < -364 := by
      rw [ht'] at hu
      simp only [true_and, not_or] at hu
      omega
    rw [roundT_of_subnormal hm hu]
    exact abs_mkFl_le (by decide) (abs_scaleT_le_of_short hm h (by change e - -384 + (tlen m : Int) ≤ 21; omega))
  · rw [roundT_of_underflow hm hk (by omega)]
    exact abs_zeroWord_le _

/-! ### Rounding a positive real (02 R24, R26) -/

/-- The pair is ⌊x⌋ with whether x is an integer. -/
def IsFloor (x : Real) (f : Int × Bool) : Prop := (f.1 : Real) ≤ x ∧ x < f.1 + 1 ∧ (f.2 = true ↔ x = f.1)

/-- `g` sees the positive real v at every unit that `roundG` may ask for. -/
def Sees (g : Int → Int × Bool) (v : Real) : Prop := ∀ u :
    Int, v < (3 : Real) ^ (u + 29) → IsFloor (6 * (v / (3 : Real) ^ u)) (g u)

theorem IsFloor.lt_iff {x : Real} {f : Int × Bool} (h : IsFloor x f) (n : Int) : f.1 < n ↔ x < n := by
  obtain ⟨h1, h2, -⟩ := h
  refine ⟨fun hn => h2.trans_le ?_, fun hn => ?_⟩
  · exact_mod_cast Int.add_one_le_iff.mpr hn
  · exact_mod_cast h1.trans_lt hn

theorem IsFloor.eq_iff {x : Real} {f : Int × Bool} (h : IsFloor x f) (n : Int) :
    f.1 = n ∧ f.2 = true ↔ x = n := by
  obtain ⟨h1, h2, h3⟩ := h
  rw [h3]
  refine ⟨fun ⟨a, b⟩ => a ▸ b, fun hx => ?_⟩
  have : f.1 = n := by
    have a : f.1 ≤ n := by rw [hx] at h1; exact_mod_cast h1
    have b : n < f.1 + 1 := by rw [hx] at h2; exact_mod_cast h2
    omega
  exact ⟨this, this ▸ hx⟩

/-- The nearest integer to a sixth of x; of two the smaller. -/
theorem nearest6_spec {x : Real} {f : Int × Bool} (h : IsFloor x f) :
    6 * (nearest6 f : Real) - 3 < x ∧ x ≤ 6 * nearest6 f + 3 := by
  obtain ⟨h1, h2, h3⟩ := h
  unfold nearest6
  split
  next he =>
    have e := h3.mp he
    have a : 6 * ((f.1 + 2) / 6) - 3 < f.1 := by omega
    have b : f.1 ≤ 6 * ((f.1 + 2) / 6) + 3 := by omega
    rw [e]
    exact ⟨by exact_mod_cast a, by exact_mod_cast b⟩
  next he =>
    have hlt : (f.1 : Real) < x := lt_of_le_of_ne h1 (fun e => he (h3.mpr e.symm))
    have a : 6 * ((f.1 + 3) / 6) - 3 ≤ f.1 := by omega
    have b : f.1 + 1 ≤ 6 * ((f.1 + 3) / 6) + 3 := by omega
    exact ⟨lt_of_le_of_lt (by exact_mod_cast a) hlt, h2.le.trans (by exact_mod_cast b)⟩

/-- It is x ÷ 6 exactly when x is six times an integer. -/
theorem nearest6_exact {x : Real} {f : Int × Bool} (h : IsFloor x f) :
    (f.2 && f.1 % 6 == 0) = true ↔ x = 6 * (nearest6 f : Real) := by
  obtain ⟨h1, h2, h3⟩ := h
  rw [Bool.and_eq_true, beq_iff_eq]
  constructor
  · rintro ⟨he, h6⟩
    have : f.1 = 6 * nearest6 f := by simp only [nearest6, he, if_true]; omega
    rw [h3.mp he]
    exact_mod_cast this
  · intro hx
    have : f.1 = 6 * nearest6 f ∧ f.2 = true := (IsFloor.eq_iff ⟨h1, h2, h3⟩ _).mpr (by push_cast; exact hx)
    exact ⟨this.2, by omega⟩

/-- The exponent of a real, as `roundG` takes it. -/
def HasExp (v : Real) (e : Int) : Prop := (3 : Real) ^ e ≤ 2 * v ∧ 2 * v < (3 : Real) ^ (e + 1)

theorem exists_hasExp {v : Real} (hv : 0 < v) : ∃ e, HasExp v e :=
  exists_mem_Ico_zpow (by linarith) (by norm_num)

theorem three_zpow_le {a b : Int} :
    (3 : Real) ^ a ≤ (3 : Real) ^ b ↔ a ≤ b := zpow_le_zpow_iff_right₀ (by norm_num)
theorem three_zpow_lt {a b : Int} :
    (3 : Real) ^ a < (3 : Real) ^ b ↔ a < b := zpow_lt_zpow_iff_right₀ (by norm_num)

theorem HasExp.lt_iff {v : Real} {e : Int} (h : HasExp v e) (a : Int) : 2 * v < (3 : Real) ^ a ↔ e < a := by
  obtain ⟨h1, h2⟩ := h
  exact ⟨fun ha => three_zpow_lt.mp (h1.trans_lt ha), fun ha => h2.trans_le (three_zpow_le.mpr ha)⟩

/-- A value in units of 3^(a − 20), six times. -/
theorem six_mul_div_lt_iff (v : Real) (u : Int) (n : Nat) :
    6 * (v / (3 : Real) ^ u) < (3 : Real) ^ (n + 1) ↔ 2 * v < (3 : Real) ^ (u + n) := by
  have hp : (0 : Real) < (3 : Real) ^ u := by positivity
  rw [zpow_add₀ (by norm_num), zpow_natCast, ← mul_div_assoc, div_lt_iff₀ hp, pow_succ]
  constructor <;> intro h <;> nlinarith

theorem Sees.findExp_eq {g : Int → Int × Bool} {v : Real} {e : Int} (hg : Sees g v) (h : HasExp v e) :
    ∀ (n : Nat) (a : Int), |a - e| ≤ n → e - 3 ≤ a → findExp g n a = e := by
  intro n
  induction n with
  | zero =>
    intro a ha _
    have : a - e = 0 := by simpa using ha
    exact sub_eq_zero.mp this
  | succ n ih =>
    intro a ha hlo
    rw [abs_le] at ha
    push_cast at ha
    have hv : v < (3 : Real) ^ (a - 20 + 29) := by
      have h1 := h.2
      have hp : (0 : Real) < (3 : Real) ^ e := by positivity
      have h2 : (3 : Real) ^ (e + 1) ≤ (3 : Real) ^ (a - 20 + 29) := three_zpow_le.mpr (by omega)
      have h3 := hp.trans_le h.1
      linarith
    have hf := hg _ hv
    have hlow : (g (a - 20)).1 < 3 ^ 21 ↔ e < a := by
      rw [hf.lt_iff, ← h.lt_iff, Int.cast_pow, Int.cast_ofNat, six_mul_div_lt_iff,
        show a - 20 + ((20 : Nat) : Int) = a by push_cast; ring]
    have hhigh : (g (a - 20)).1 < 3 ^ 22 ↔ e < a + 1 := by
      rw [hf.lt_iff, ← h.lt_iff, Int.cast_pow, Int.cast_ofNat, six_mul_div_lt_iff,
        show a - 20 + ((21 : Nat) : Int) = a + 1 by push_cast; ring]
    unfold findExp
    simp only [hlow, ge_iff_le, ← not_lt, hhigh]
    split
    · exact ih _ (by rw [abs_le]; omega) (by omega)
    split
    · exact ih _ (by rw [abs_le]; omega) (by omega)
    · omega
/-! #### The nearest significand -/

theorem maxT_21 : maxT 21 = 5230176601 := by decide

theorem NearestTo.neg {n : Nat} {q : Real} {v : Rat} (h : NearestTo n q v) : NearestTo n (-q) (-v) := by
  obtain ⟨⟨m, e, hm, hv⟩, hn⟩ := h
  refine ⟨⟨-m, e, by rwa [abs_neg], by rw [hv]; push_cast; ring⟩, fun m' e' hm' w hw => ?_⟩
  have := hn (-m') e' (by rwa [abs_neg]) (-w) (by rw [hw]; push_cast; ring)
  have e1 (a : Rat) : |((-a : Rat) : Real) - -q| = |(a : Real) - q| := by
    push_cast
    rw [← abs_neg]
    congr 1
    ring
  have e2 : |((-w : Rat) : Real) - q| = |(w : Real) - -q| := by
    push_cast
    rw [← abs_neg]
    congr 1
    ring
  rw [e1, ← e2, abs_neg]
  rwa [abs_neg] at this

/-- A value of at most 21 trits, in units of 3^u: a whole number of units,
    or less than a third of 3^21 units. -/
theorem unit_cases {m f : Int} (u : Int) (hm : |m| ≤ maxT 21) :
    (∃ k : Int, (m : Rat) * (3 : Rat) ^ f = k * (3 : Rat) ^ u) ∨
      6 * |(m : Rat) * (3 : Rat) ^ f| ≤ (3 ^ 21 - 1) * (3 : Rat) ^ u := by
  rcases le_or_gt u f with h | h
  · obtain ⟨d, hd⟩ := Int.eq_ofNat_of_zero_le (show 0 ≤ f - u by omega)
    refine .inl ⟨m * 3 ^ d, ?_⟩
    rw [show f = (d : Int) + u by omega, zpow_add₀ (by norm_num), zpow_natCast]
    push_cast
    ring
  · refine .inr ?_
    have h1 : (3 : Rat) ^ f * 3 ≤ (3 : Rat) ^ u := by
      rw [← zpow_add_one₀ (by norm_num)]
      exact zpow_le_zpow_right₀ (by norm_num) (by omega)
    have h2 : |(m : Rat)| ≤ 5230176601 := by
      rw [maxT_21] at hm
      exact_mod_cast hm
    have hp : (0 : Rat) < (3 : Rat) ^ f := by positivity
    rw [abs_mul, abs_of_pos hp]
    calc 6 * (|(m : Rat)| * (3 : Rat) ^ f) = 2 * |(m : Rat)| * ((3 : Rat) ^ f * 3) := by ring
      _ ≤ 2 * 5230176601 * (3 : Rat) ^ u := by
        apply mul_le_mul _ h1 (by positivity) (by positivity)
        linarith
      _ = (3 ^ 21 - 1) * (3 : Rat) ^ u := by norm_num

/-- Nearness may be measured in units. -/
theorem abs_unit_sub {U w a : Real} (hU : 0 < U) : |a * U - w * U| = U * |a - w| := by
  rw [← sub_mul, abs_mul, abs_of_pos hU, mul_comm]

/-- `a` is nearer to w than `b`, or as near and not greater in magnitude. -/
def Beats (w a b : Real) : Prop := |a - w| ≤ |b - w| ∧ (|a - w| = |b - w| → |a| ≤ |b|)

/-- What must be compared: whole numbers of units, and the values below the binade. -/
theorem nearestTo_of_beats {w : Real} {u m e : Int} {a : Rat} (hm : |m| ≤ maxT 21)
    (ha : (m : Rat) * (3 : Rat) ^ e = a * (3 : Rat) ^ u)
    (hk : ∀ k : Int, Beats w a k) (hb : ∀ b : Real, 6 * |b| ≤ 3 ^ 21 - 1 → Beats w a b) :
    NearestTo 21 (w * (3 : Real) ^ u) (m * (3 : Rat) ^ e) := by
  refine ⟨⟨m, e, hm, rfl⟩, fun m' e' hm' x hx => ?_⟩
  have hU : (0 : Real) < (3 : Real) ^ u := by positivity
  have hU' : (0 : Rat) < (3 : Rat) ^ u := by positivity
  have hB : ∃ b : Rat, x = b * (3 : Rat) ^ u ∧ Beats w a b := by
    rcases unit_cases (f := e') u hm' with ⟨k, hk'⟩ | hlow
    · exact ⟨k, hx.trans hk', by simpa using hk k⟩
    · refine ⟨x / (3 : Rat) ^ u, (div_mul_cancel₀ _ hU'.ne').symm, hb _ ?_⟩
      have : 6 * |x / (3 : Rat) ^ u| ≤ 3 ^ 21 - 1 := by
        rw [abs_div, abs_of_pos hU', ← mul_div_assoc, div_le_iff₀ hU', hx]
        exact hlow
      exact_mod_cast this
  obtain ⟨b, rfl, h1, h2⟩ := hB
  rw [ha]
  push_cast
  rw [abs_unit_sub hU, abs_unit_sub hU, abs_mul, abs_mul]
  refine ⟨mul_le_mul_of_nonneg_left h1 hU.le, fun heq => mul_le_mul_of_nonneg_right ?_ (abs_nonneg _)⟩
  exact_mod_cast h2 (mul_left_cancel₀ hU.ne' heq)

/-- The nearest integer, a tie to the smaller, beats every other. -/
theorem beats_int {w : Real} {n : Int} (hn : 0 ≤ n) (h1 : 6 * (n : Real) - 3 < 6 * w)
    (h2 : 6 * w ≤ 6 * n + 3) (k : Int) :
    Beats w n k := by
  have hd : |(n : Real) - w| ≤ 1 / 2 := abs_le.mpr ⟨by linarith, by linarith⟩
  rcases lt_trichotomy k n with h | h | h
  · have hk : (k : Real) + 1 ≤ n := by exact_mod_cast h
    have : |(n : Real) - w| < |(k : Real) - w| := by
      rw [abs_sub_comm (k : Real)]
      exact hd.trans_lt (lt_of_lt_of_le (by linarith) (le_abs_self _))
    exact ⟨this.le, fun e => absurd e this.ne⟩
  · subst h
    exact ⟨le_rfl, fun _ => le_rfl⟩
  · have hk : (n : Real) + 1 ≤ k := by exact_mod_cast h
    have h3 : (k : Real) - w ≤ |(k : Real) - w| := le_abs_self _
    refine ⟨by linarith, fun _ => ?_⟩
    have hn' : (0 : Real) ≤ n := by exact_mod_cast hn
    rw [abs_of_nonneg hn', abs_of_nonneg (by linarith)]
    linarith
/-- Above the edge of the binade the nearest integer beats every value below the binade. -/
theorem beats_below {w : Real} {n : Int} (h1 : 6 * (n : Real) - 3 < 6 * w) (h2 : 6 * w ≤ 6 * n + 3)
    (hw : (3 : Real) ^ 21 + 1 < 6 * w) {b : Real} (hb : 6 * |b| ≤ 3 ^ 21 - 1) : Beats w n b := by
  have hbw : w - b ≤ |b - w| := by rw [abs_sub_comm]; exact le_abs_self _
  have hb' := le_abs_self b
  have h : |(n : Real) - w| < |b - w| := by
    rw [abs_lt]
    refine ⟨?_, ?_⟩
    · have : (3486784401 : Real) < 2 * n := by
        have : (3486784401 : Int) < 2 * n := by
          have : (3 : Real) ^ 21 + 1 < ((6 * n + 3 : Int) : Real) := by push_cast; linarith
          have : (3 : Int) ^ 21 + 1 < 6 * n + 3 := by exact_mod_cast this
          omega
        exact_mod_cast this
      linarith
    · rcases le_or_gt (2 * n) (3486784401 + 1) with hn | hn
      · have : 2 * (n : Real) ≤ 3486784401 + 1 := by exact_mod_cast hn
        linarith
      · have : (3486784401 + 3 : Real) ≤ 2 * n := by
          have : (3486784401 + 3 : Int) ≤ 2 * n := by omega
          exact_mod_cast this
        linarith
  exact ⟨h.le, fun e => absurd e h.ne⟩

/-- At the edge the greatest value below the binade beats the whole numbers of units and every other value
    below. -/
theorem edge_beats_int {w : Real} (h1 : (3 : Real) ^ 21 ≤ 6 * w) (h2 : 6 * w ≤ 3 ^ 21 + 1) (k : Int) :
    Beats w ((3 ^ 21 - 1) / 6) k := by
  have hd : |((3 : Real) ^ 21 - 1) / 6 - w| = w - (3 ^ 21 - 1) / 6 := by
    rw [abs_sub_comm, abs_of_nonneg (by linarith)]
  rcases le_or_gt (2 * k) 3486784401 with h | h
  · have hk : 2 * (k : Real) ≤ 3486784401 - 1 := by
      have : 2 * k ≤ 3486784401 - 1 := by omega
      exact_mod_cast this
    have hkw : w - k ≤ |(k : Real) - w| := by rw [abs_sub_comm]; exact le_abs_self _
    have : |((3 : Real) ^ 21 - 1) / 6 - w| < |(k : Real) - w| := by linarith
    exact ⟨this.le, fun e => absurd e this.ne⟩
  · have hk : (3486784401 : Real) + 1 ≤ 2 * k := by
      have : 3486784401 + 1 ≤ 2 * k := by omega
      exact_mod_cast this
    have hkw : k - w ≤ |(k : Real) - w| := le_abs_self _
    refine ⟨by linarith, fun _ => ?_⟩
    rw [abs_of_nonneg (by norm_num), abs_of_nonneg (by linarith)]
    linarith

theorem edge_beats_below {w : Real} (h1 : (3 : Real) ^ 21 ≤ 6 * w) {b : Real}
    (hb : 6 * |b| ≤ 3 ^ 21 - 1) : Beats w ((3 ^ 21 - 1) / 6) b := by
  have hd : |((3 : Real) ^ 21 - 1) / 6 - w| = w - (3 ^ 21 - 1) / 6 := by
    rw [abs_sub_comm, abs_of_nonneg (by linarith)]
  have hbw : w - b ≤ |b - w| := by rw [abs_sub_comm]; exact le_abs_self _
  have hb' := le_abs_self b
  refine ⟨by linarith, fun e => ?_⟩
  rw [abs_of_nonneg (a := ((3 : Real) ^ 21 - 1) / 6) (by norm_num)]
  linarith

/-! #### What `roundG` decides -/

/-- The significand and exponent that `roundG` chooses for v of exponent e: above the edge the nearest
    integer to v in
units of 3^(e − 20), at the edge the greatest significand of the binade below. -/
structure Chosen (g : Int → Int × Bool) (v : Real) (e n a : Int) : Prop where
  short : n ≤ maxT 21
  long : 3 ^ 20 < 2 * n
  near : NearestTo 21 v (n * (3 : Rat) ^ (a - 20))
  exp_le : a ≤ e ∧ e ≤ a + 1
  shape : (6 * (v / (3 : Real) ^ (e - 20)) ≤ 3 ^ 21 + 1 ∧ a = e - 1 ∧ n = maxT 21) ∨
    (3 ^ 21 + 1 < 6 * (v / (3 : Real) ^ (e - 20)) ∧ a = e ∧ n = nearest6 (g (e - 20)))

theorem HasExp.units {v : Real} {e : Int} (h : HasExp v e) :
    (3 : Real) ^ 21 ≤ 6 * (v / (3 : Real) ^ (e - 20)) ∧ 6 * (v / (3 : Real) ^ (e - 20)) < 3 ^ 22 := by
  rw [← not_lt, six_mul_div_lt_iff, six_mul_div_lt_iff, not_lt, show e - 20 + ((20 : Nat) : Int) = e by push_cast; ring,
    show e - 20 + ((21 : Nat) : Int) = e + 1 by push_cast; ring]
  exact h

theorem Sees.at_exp {g : Int → Int × Bool} {v : Real} {e : Int} (hv : 0 < v) (hg : Sees g v) (h : HasExp v e) :
    IsFloor (6 * (v / (3 : Real) ^ (e - 20))) (g (e - 20)) := by
  refine hg _ ?_
  have h1 : (3 : Real) ^ (e + 1) ≤ (3 : Real) ^ (e - 20 + 29) := three_zpow_le.mpr (by omega)
  have := h.2
  linarith

/-- At the edge. -/
theorem chosen_edge {g : Int → Int × Bool} {v : Real} {e : Int} (h : HasExp v e)
    (hl : 6 * (v / (3 : Real) ^ (e - 20)) ≤ 3 ^ 21 + 1) : Chosen g v e (maxT 21) (e - 1) := by
  have hU : (0 : Real) < (3 : Real) ^ (e - 20) := by positivity
  refine ⟨le_rfl, by decide, ?_, ⟨by omega, by omega⟩, .inl ⟨hl, rfl, rfl⟩⟩
  rw [← div_mul_cancel₀ v hU.ne']
  refine nearestTo_of_beats (a := (3 ^ 21 - 1) / 6) (by decide) ?_ (fun k => ?_) (fun b hb => ?_)
  · rw [maxT_21, show e - 20 = (e - 1 - 20) + 1 by ring, zpow_add_one₀ (by norm_num)]
    push_cast
    ring
  · simpa using edge_beats_int h.units.1 hl k
  · simpa using edge_beats_below h.units.1 hb

/-- Above it. -/
theorem chosen_inner {g : Int → Int × Bool} {v : Real} {e : Int} (hv : 0 < v) (hg : Sees g v) (h : HasExp v e)
    (hl : 3 ^ 21 + 1 < 6 * (v / (3 : Real) ^ (e - 20))) : Chosen g v e (nearest6 (g (e - 20))) e := by
  have hU : (0 : Real) < (3 : Real) ^ (e - 20) := by positivity
  obtain ⟨h1, h2⟩ := nearest6_spec (hg.at_exp hv h)
  have hlo : 3 ^ 20 < 2 * nearest6 (g (e - 20)) := by
    have : (3 : Real) ^ 21 + 1 < ((6 * nearest6 (g (e - 20)) + 3 : Int) : Real) := by push_cast; linarith
    have : (3 : Int) ^ 21 + 1 < 6 * nearest6 (g (e - 20)) + 3 := by exact_mod_cast this
    omega
  have hhi : nearest6 (g (e - 20)) ≤ maxT 21 := by
    have h3 := h.units.2
    have : ((6 * nearest6 (g (e - 20)) - 3 : Int) : Real) < (3 : Real) ^ 22 := by push_cast; linarith
    have : 6 * nearest6 (g (e - 20)) - 3 < (3 : Int) ^ 22 := by exact_mod_cast this
    rw [maxT_21]
    omega
  refine ⟨hhi, hlo, ?_, ⟨le_rfl, by omega⟩, .inr ⟨hl, rfl, rfl⟩⟩
  nth_rw 1 [← div_mul_cancel₀ v hU.ne']
  refine nearestTo_of_beats (a := nearest6 (g (e - 20))) (by rw [abs_of_nonneg (by omega)]; exact hhi) rfl
    (fun k => ?_) (fun b hb => ?_)
  · simpa using beats_int (by omega) h1 h2 k
  · simpa using beats_below h1 h2 hl hb

/-- A number or its negative. -/
def signed (neg : Bool) (x : Int) : Int := if neg then -x else x

theorem abs_signed (neg : Bool) (x : Int) : |signed neg x| = |x| := by cases neg <;> simp [signed]

/-- `roundG` by the significand n and the exponent a that it chooses. -/
theorem roundG_eq {g : Int → Int × Bool} {v : Real} {e guess : Int} (neg : Bool) (hv : 0 < v) (hg : Sees g v)
    (h : HasExp v e) (hguess : |guess - e| ≤ 3) :
    ∃ (n a : Int) (b : Bool), Chosen g v e n a ∧ (b = true ↔ v = n * (3 : Real) ^ (a - 20)) ∧
      roundG neg guess g =
        if 363 < a then (infWord .f27 neg, Fx.OFNX)
        else if a < -364 then
          (mkFl .f27 (-364) (signed neg (nearest6 (g (-384)))),
            Fx.cond (!((g (-384)).2 && (g (-384)).1 % 6 == 0)) Fx.UFNX)
        else (mkFl .f27 a (signed neg n), Fx.cond (!b) Fx.NX) := by
  have hU : (0 : Real) < (3 : Real) ^ (e - 20) := by positivity
  have he : findExp g 8 guess = e := hg.findExp_eq h 8 guess (hguess.trans (by norm_num)) (by
    have := neg_le_of_abs_le hguess
    omega)
  have hf := hg.at_exp hv h
  have hlow : (decide ((g (e - 20)).1 < 3 ^ 21 + 1) || ((g (e - 20)).1 == 3 ^ 21 + 1 && (g (e - 20)).2)) =
      decide (6 * (v / (3 : Real) ^ (e - 20)) ≤ 3 ^ 21 + 1) := by
    have h1 := hf.lt_iff (3 ^ 21 + 1)
    have h2 := hf.eq_iff (3 ^ 21 + 1)
    rw [Bool.eq_iff_iff, Bool.or_eq_true, decide_eq_true_iff, Bool.and_eq_true, beq_iff_eq, decide_eq_true_iff, h1, h2,
      le_iff_lt_or_eq, show ((3 ^ 21 + 1 : Int) : Real) = 3 ^ 21 + 1 by norm_num]
  by_cases hl : 6 * (v / (3 : Real) ^ (e - 20)) ≤ 3 ^ 21 + 1
  · refine ⟨maxT 21, e - 1, false, chosen_edge h hl, iff_of_false (by simp) fun hv' => ?_, ?_⟩
    · have h1 := h.units.1
      rw [hv', maxT_21, show e - 20 = (e - 1 - 20) + 1 by ring, zpow_add_one₀ (by norm_num)] at h1
      have hp : (0 : Real) < (3 : Real) ^ (e - 1 - 20) := by positivity
      have : ((5230176601 : Int) : Real) * (3 : Real) ^ (e - 1 - 20) / ((3 : Real) ^ (e - 1 - 20) * 3) = 5230176601 / 3 := by
        field_simp
        push_cast
        rfl
      rw [this] at h1
      norm_num at h1
    · unfold roundG
      simp only [he, hlow, hl, decide_true, if_true, gt_iff_lt]
      rfl
  · have hw := nearest6_exact hf
    refine ⟨nearest6 (g (e - 20)), e, (g (e - 20)).2 && (g (e - 20)).1 % 6 == 0,
      chosen_inner hv hg h (not_le.mp hl), ?_, ?_⟩
    · rw [hw, ← div_eq_iff hU.ne']
      constructor <;> intro hx <;> linarith
    · unfold roundG
      simp only [he, hlow, hl, decide_false, gt_iff_lt]
      rfl

/-- What is below the range is less than 3^(−364). -/
theorem Chosen.lt_of_lt {g : Int → Int × Bool} {v : Real} {e n a : Int}
    (h : HasExp v e) (c : Chosen g v e n a) (ha : a < -364) :
    v < (3 : Real) ^ (-384 + 29 : Int) := by
  have h1 : (3 : Real) ^ (e + 1) ≤ (3 : Real) ^ (-384 + 29 : Int) := three_zpow_le.mpr (by have := c.exp_le; omega)
  have hp : (0 : Real) < (3 : Real) ^ e := by positivity
  have := h.1
  have := h.2
  linarith

theorem Chosen.six_mul_le {g : Int → Int × Bool} {v : Real} {e n a : Int}
    (h : HasExp v e) (c : Chosen g v e n a)
    (ha : a < -364) : 6 * (v / (3 : Real) ^ (-384 : Int)) ≤ 3 ^ 21 + 1 := by
  rcases lt_or_ge e (-364) with he | he
  · have h1 : 2 * v < (3 : Real) ^ (-384 + ((20 : Nat) : Int)) := (h.lt_iff _).mpr (by push_cast; omega)
    have := (six_mul_div_lt_iff v (-384) 20).mpr h1
    linarith
  · rcases c.shape with ⟨h1, h2, -⟩ | ⟨-, h2, -⟩
    · obtain rfl : e = -364 := by omega
      exact h1
    · omega

/-- A signed nearest multiple of 3^−384 is nearest to the signed value. -/
theorem nearest_subnormal {v : Real} {f : Int × Bool} (neg : Bool) (hv : 0 < v)
    (hf : IsFloor (6 * (v / (3 : Real) ^ (-384 : Int))) f) (n' : Int) :
    |((signed neg (nearest6 f) * (3 : Rat) ^ (-384 : Int) : Rat) : Real) - (if neg then -v else v)| ≤
        |((n' * (3 : Rat) ^ (-384 : Int) : Rat) : Real) - (if neg then -v else v)| ∧
      (|((signed neg (nearest6 f) * (3 : Rat) ^ (-384 : Int) : Rat) : Real) - (if neg then -v else v)| =
          |((n' * (3 : Rat) ^ (-384 : Int) : Rat) : Real) - (if neg then -v else v)| → |signed neg (nearest6 f)| ≤ |n'|) := by
  have hU : (0 : Real) < (3 : Real) ^ (-384 : Int) := by positivity
  set w := v / (3 : Real) ^ (-384 : Int) with hw
  have hvw : v = w * (3 : Real) ^ (-384 : Int) := by rw [hw, div_mul_cancel₀ v hU.ne']
  obtain ⟨h1, h2⟩ := nearest6_spec hf
  have hn : 0 ≤ nearest6 f := by
    have hw0 : 0 < w := div_pos hv hU
    have : (-1 : Real) < nearest6 f := by linarith
    have : (-1 : Int) < nearest6 f := by exact_mod_cast this
    omega
  have key (x : Int) : |((x * (3 : Rat) ^ (-384 : Int) : Rat) : Real) - (if neg then -v else v)| =
      (3 : Real) ^ (-384 : Int) * |((signed neg x : Int) : Real) - w| := by
    rw [hvw, ← abs_unit_sub hU]
    cases neg
    · simp [signed]
    · simp only [signed, if_true]
      rw [← abs_neg]
      congr 1
      simp only [Rat.cast_mul, Rat.cast_intCast, Rat.cast_zpow, Rat.cast_ofNat, Int.cast_neg]
      ring
  have hss : signed neg (signed neg (nearest6 f)) = nearest6 f := by cases neg <;> simp [signed]
  obtain ⟨b1, b2⟩ := beats_int hn h1 h2 (signed neg n')
  rw [key, key, hss]
  refine ⟨mul_le_mul_of_nonneg_left b1 hU.le, fun e => ?_⟩
  have := b2 (mul_left_cancel₀ hU.ne' e)
  rw [abs_signed, ← abs_signed neg n']
  exact_mod_cast this

/-- `roundG` rounds ±v. -/
theorem roundedTo_roundG {g : Int → Int × Bool} {v : Real} {e guess : Int} (neg : Bool) (hv : 0 < v)
    (hg : Sees g v)
    (h : HasExp v e) (hguess : |guess - e| ≤ 3) : RoundedTo (if neg then -v else v) (roundG neg guess g) := by
  obtain ⟨n, a, b, c, hb, heq⟩ := roundG_eq neg hv hg h hguess
  have hn := c.long
  have hn' := c.short
  have hneg : decide (signed neg n < 0) = neg := by cases neg <;> simp [signed] <;> omega
  have hsg (x : Int) (u : Int) : (((signed neg x : Int) * (3 : Rat) ^ u : Rat) : Real) ≠ (if neg then -v else v) ↔
      ¬ v = x * (3 : Real) ^ u := by
    cases neg
    · simp [signed, eq_comm]
    · simp [signed, eq_comm]
  rw [heq]
  refine ⟨signed neg n, a, by rw [abs_signed, abs_of_nonneg (by omega)]; exact hn,
    by rw [abs_signed, abs_of_nonneg (by omega)]; exact hn', ?_, fun ha => ?_, fun ha ha' => ⟨!b, ?_, ?_⟩, fun ha => ?_⟩
  · have hc := c.near
    cases neg
    · exact hc
    · simpa [signed] using hc.neg
  · rw [if_pos (by omega), hneg]
  · rw [if_neg (by omega), if_neg (by omega)]
  · rw [hsg, ← hb]
    simp
  · have hf := hg (-384) (c.lt_of_lt h ha)
    refine ⟨signed neg (nearest6 (g (-384))), _, by rw [if_neg (by omega), if_pos ha], ?_, nearest_subnormal neg hv hf⟩
    have h6 := nearest6_exact hf
    have hU : (0 : Real) < (3 : Real) ^ (-384 : Int) := by positivity
    rw [hsg, ← div_eq_iff hU.ne', Bool.not_eq_true', ← Bool.not_eq_true, h6]
    apply not_congr
    constructor <;> intro hx <;> linarith

/-- What `roundG` gives is a word. -/
theorem abs_roundG_le {g : Int → Int × Bool} {v : Real} {e guess : Int} (neg : Bool) (hv : 0 < v)
    (hg : Sees g v)
    (h : HasExp v e) (hguess : |guess - e| ≤ 3) : |(roundG neg guess g).1| ≤ maxT 27 := by
  obtain ⟨n, a, b, c, hb, heq⟩ := roundG_eq neg hv hg h hguess
  have hn := c.long
  have hn' := c.short
  have htop : FKind.f27.top = 364 := rfl
  rw [heq]
  split
  · exact abs_infWord_le .f27 _
  split
  next ha =>
    refine abs_mkFl_le (k := .f27) (by decide) ?_
    obtain ⟨h1, h2⟩ := nearest6_spec (hg (-384) (c.lt_of_lt h ha))
    have hw := c.six_mul_le h ha
    have hw0 : 0 < v / (3 : Real) ^ (-384 : Int) := div_pos hv (by positivity)
    have h3 : (-1 : Real) < nearest6 (g (-384)) := by linarith
    have h4 : ((6 * nearest6 (g (-384)) - 3 : Int) : Real) < ((3 ^ 21 + 1 : Int) : Real) := by push_cast; linarith
    have h3' : -1 < nearest6 (g (-384)) := by exact_mod_cast h3
    have h4' := Int.cast_lt.mp h4
    have : FKind.f27.sig = 21 := rfl
    rw [abs_signed, abs_of_nonneg (by omega), this, maxT_21]
    omega
  next ha ha' =>
    refine abs_mkFl_le (k := .f27) (abs_le.mpr ⟨by omega, by omega⟩) ?_
    rw [abs_signed, abs_of_nonneg (by omega)]
    exact hn'

/-! ### The views of a quotient and of a root (09 R160) -/

/-- `floorScaled` is the floor of a scaled quotient, with whether it is exact. -/
theorem isFloor_floorScaled {num den : Nat} (hd : 0 < den) (k : Int) :
    IsFloor ((num : Real) / den * (3 : Real) ^ k) (((floorScaled num den k).1 : Int), (floorScaled num den k).2) := by
  have key (a b : Nat) (hb : 0 < b) : IsFloor ((a : Real) / b) (((a / b : Nat) : Int), a % b == 0) := by
    have hb' : (0 : Real) < b := by exact_mod_cast hb
    have h := Nat.div_add_mod a b
    have hm := Nat.mod_lt a hb
    have e : (a : Real) = b * ((a / b : Nat) : Real) + ((a % b : Nat) : Real) := by exact_mod_cast h.symm
    have hm' : ((a % b : Nat) : Real) < b := by exact_mod_cast hm
    have hm0 : (0 : Real) ≤ ((a % b : Nat) : Real) := Nat.cast_nonneg _
    refine ⟨?_, ?_, ?_⟩
    · rw [le_div_iff₀ hb', Int.cast_natCast]
      linarith
    · rw [div_lt_iff₀ hb', Int.cast_natCast]
      linarith
    · rw [div_eq_iff hb'.ne', beq_iff_eq, Int.cast_natCast, ← Nat.cast_eq_zero (R := Real)]
      constructor <;> intro hx <;> linarith
  have hd' : (den : Real) ≠ 0 := by exact_mod_cast hd.ne'
  unfold floorScaled
  by_cases hk : 0 ≤ k
  · obtain ⟨n, rfl⟩ := Int.eq_ofNat_of_zero_le hk
    simp only [hk, if_true, Int.toNat_natCast]
    have e : (num : Real) / den * (3 : Real) ^ (n : Int) = ((num * 3 ^ n : Nat) : Real) / den := by
      rw [zpow_natCast]; push_cast; ring
    rw [e]
    exact key _ _ hd
  · obtain ⟨n, hn⟩ := Int.eq_ofNat_of_zero_le (show 0 ≤ -k by omega)
    obtain rfl : k = -n := by omega
    simp only [hk, if_false, hn, Int.toNat_natCast]
    have e : (num : Real) / den * (3 : Real) ^ (-(n : Int)) = (num : Real) / ((den * 3 ^ n : Nat) : Real) := by
      rw [zpow_neg, zpow_natCast]; push_cast; field_simp
    rw [e]
    exact key _ _ (by positivity)

theorem sees_viewRat {num den : Nat} (hd : 0 < den) (e : Int) :
    Sees (viewRat num den e) ((num : Real) / den * (3 : Real) ^ e) := by
  intro u _
  have h := isFloor_floorScaled (num := 6 * num) hd (e - u)
  have e1 : 6 * ((num : Real) / den * (3 : Real) ^ e / (3 : Real) ^ u) = ((6 * num : Nat) : Real) / den * (3 : Real) ^ (e - u) := by
    rw [zpow_sub₀ (by norm_num)]
    push_cast
    ring
  rw [e1]
  exact h

/-- A step of Newton's never falls below the root … -/
theorem sqrt_le_newton {n x : Nat} (hx : 0 < x) : Nat.sqrt n ≤ (x + n / x) / 2 := by
  have h1 : Nat.sqrt n * Nat.sqrt n ≤ n := Nat.sqrt_le n
  rw [Nat.le_div_iff_mul_le (by norm_num)]
  rcases le_or_gt (Nat.sqrt n * 2) x with h | h
  · exact h.trans (Nat.le_add_right _ _)
  · have : Nat.sqrt n * 2 - x ≤ n / x := by
      rw [Nat.le_div_iff_mul_le hx]
      refine le_trans ?_ h1
      zify [h.le]
      nlinarith [sq_nonneg ((Nat.sqrt n : Int) - x)]
    omega

/-- … and from above at least halves the distance to it. -/
theorem newton_sub_le {n x : Nat} (hx : Nat.sqrt n < x) :
    (x + n / x) / 2 < x ∧ 2 * ((x + n / x) / 2 - Nat.sqrt n) ≤ x - Nat.sqrt n := by
  have h2 : n < (Nat.sqrt n + 1) * (Nat.sqrt n + 1) := Nat.lt_succ_sqrt n
  have hq : n / x < Nat.sqrt n + 1 := by
    rw [Nat.div_lt_iff_lt_mul (by omega)]
    exact h2.trans_le (Nat.mul_le_mul_left _ hx)
  generalize n / x = q at hq ⊢
  omega

theorem isqrtFrom_eq {n : Nat} :
    ∀ (fuel x : Nat), Nat.sqrt n ≤ x → x - Nat.sqrt n < 2 ^ fuel → isqrtFrom n fuel x = Nat.sqrt n := by
  intro fuel
  induction fuel with
  | zero =>
    intro x h1 h2
    unfold isqrtFrom
    omega
  | succ k ih =>
    intro x h1 h2
    unfold isqrtFrom
    rcases h1.lt_or_eq with h | h
    · obtain ⟨hlt, hc⟩ := newton_sub_le h
      simp only [hlt, if_true]
      refine ih _ (sqrt_le_newton (by omega)) ?_
      rw [pow_succ] at h2
      generalize (x + n / x) / 2 = y at hc ⊢
      omega
    · have hge : ¬ (x + n / x) / 2 < x := by
        rcases x.eq_zero_or_pos with h0 | h0
        · rw [h0]
          exact Nat.not_lt_zero _
        · exact (h.symm.trans_le (sqrt_le_newton h0)).not_gt
      simp only [hge, if_false, h]

theorem isqrt_eq {n : Nat} (h : n < 2 ^ 126) : isqrt n = Nat.sqrt n := by
  unfold isqrt
  split
  next h0 => subst h0; rfl
  next h0 =>
  have hl : Nat.log2 n < 126 := (Nat.log2_lt h0).mpr h
  have h1 : n < 2 ^ (Nat.log2 n + 1) := Nat.lt_log2_self
  have hp : 2 ^ (Nat.log2 n / 2 + 1) ≤ 2 ^ 63 := Nat.pow_le_pow_right (by norm_num) (by omega)
  refine isqrtFrom_eq 64 _ ?_ (by omega)
  have h2 : Nat.log2 n + 1 ≤ 2 * (Nat.log2 n / 2 + 1) := by omega
  have h3 : n < 2 ^ (Nat.log2 n / 2 + 1) * 2 ^ (Nat.log2 n / 2 + 1) := by
    rw [← pow_add, ← two_mul]
    exact h1.trans_le (Nat.pow_le_pow_right (by norm_num) h2)
  exact (Nat.sqrt_lt.mpr h3).le

/-- The floor of a root, and when it is the root. -/
theorem IsFloor.sqrt {x : Real} {f : Nat × Bool} (h : IsFloor (x ^ 2) ((f.1 : Int), f.2)) (hx : 0 ≤ x) :
    IsFloor x ((Nat.sqrt f.1 : Int), f.2 && Nat.sqrt f.1 * Nat.sqrt f.1 == f.1) := by
  obtain ⟨h1, h2, h3⟩ := h
  simp only [Int.cast_natCast] at h1 h2 h3
  have hs1 : ((Nat.sqrt f.1 : Nat) : Real) * (Nat.sqrt f.1 : Nat) ≤ f.1 := by exact_mod_cast Nat.sqrt_le f.1
  have hs2 : (f.1 : Real) + 1 ≤ ((Nat.sqrt f.1 : Nat) + 1) * ((Nat.sqrt f.1 : Nat) + 1) := by
    exact_mod_cast Nat.lt_succ_sqrt f.1
  have hs0 : (0 : Real) ≤ (Nat.sqrt f.1 : Nat) := Nat.cast_nonneg _
  refine ⟨?_, ?_, ?_⟩
  · simp only [Int.cast_natCast]
    exact abs_le_of_sq_le_sq' (by nlinarith) hx |>.2
  · simp only [Int.cast_natCast]
    nlinarith
  · simp only [Int.cast_natCast, Bool.and_eq_true, h3, beq_iff_eq]
    constructor
    · rintro ⟨a, b⟩
      have b' : ((Nat.sqrt f.1 : Nat) : Real) * (Nat.sqrt f.1 : Nat) = f.1 := by exact_mod_cast b
      exact (pow_left_inj₀ hx hs0 two_ne_zero).mp (by rw [a, ← b', sq])
    · intro e
      have hle : ((Nat.sqrt f.1 : Nat) : Real) * (Nat.sqrt f.1 : Nat) = x ^ 2 := by rw [e, sq]
      have hlt : ((Nat.sqrt f.1 * Nat.sqrt f.1 : Nat) : Real) < ((f.1 + 1 : Nat) : Real) := by push_cast; linarith
      have hge : ((f.1 : Nat) : Real) ≤ ((Nat.sqrt f.1 * Nat.sqrt f.1 : Nat) : Real) := by push_cast; linarith
      have a1 := Nat.cast_lt.mp hlt
      have a2 := Nat.cast_le.mp hge
      have heq : Nat.sqrt f.1 * Nat.sqrt f.1 = f.1 := by omega
      refine ⟨?_, heq⟩
      rw [← hle]
      exact_mod_cast heq

theorem sees_viewSqrt {num den : Nat} (hd : 0 < den) (e : Int) :
    Sees (viewSqrt num den e) (Real.sqrt ((num : Real) / den * (3 : Real) ^ e)) := by
  intro u hu
  set q : Real := (num : Real) / den * (3 : Real) ^ e with hq
  have hq0 : 0 ≤ q := by positivity
  have hU : (0 : Real) < (3 : Real) ^ u := by positivity
  have h := isFloor_floorScaled (num := 36 * num) hd (e - 2 * u)
  have e1 : ((36 * num : Nat) : Real) / den * (3 : Real) ^ (e - 2 * u) = (6 * (Real.sqrt q / (3 : Real) ^ u)) ^ 2 := by
    rw [mul_pow, div_pow, Real.sq_sqrt hq0, hq, ← zpow_natCast ((3 : Real) ^ u), ← zpow_mul, zpow_sub₀ (by norm_num),
      mul_comm u]
    push_cast
    ring
  rw [e1] at h
  have hw : 0 ≤ 6 * (Real.sqrt q / (3 : Real) ^ u) := by positivity
  have hlt : (floorScaled (36 * num) den (e - 2 * u)).1 < 2 ^ 126 := by
    have h1 := h.1
    have h2 : Real.sqrt q / (3 : Real) ^ u < 3 ^ 29 := by
      rw [div_lt_iff₀ hU]
      rwa [zpow_add₀ (by norm_num), mul_comm] at hu
    have h3 : (6 * (Real.sqrt q / (3 : Real) ^ u)) ^ 2 < (6 * 3 ^ 29) ^ 2 := by
      refine pow_lt_pow_left₀ (by linarith) hw two_ne_zero
    have h4 : ((floorScaled (36 * num) den (e - 2 * u)).1 : Real) < ((2 ^ 126 : Nat) : Real) := by
      refine lt_of_le_of_lt (by exact_mod_cast h1) (h3.trans ?_)
      norm_num
    exact_mod_cast h4
  have := h.sqrt hw
  unfold viewSqrt
  simp only [isqrt_eq hlt]
  exact this
/-! ### A quotient and a root, rounded -/

/-- The exponents of a quotient. -/
theorem quotient_bracket {num den : Nat} (e : Int) (hn : num ≠ 0)
    (hd : den ≠ 0) (sn : Short num) (sd : Short den) :
    (3 : Real) ^ (e + tlen num - tlen den - 1) < (num : Real) / den * (3 : Real) ^ e ∧
      (num : Real) / den * (3 : Real) ^ e < (3 : Real) ^ (e + tlen num - tlen den + 1) := by
  obtain ⟨a, ha, a1, a2⟩ := tlen_spec (m := num) (by exact_mod_cast hn) sn
  obtain ⟨b, hb, b1, b2⟩ := tlen_spec (m := den) (by exact_mod_cast hd) sd
  rw [Nat.abs_cast] at a1 a2 b1 b2
  have a1' : (3 : Real) ^ a < 2 * num := by exact_mod_cast a1
  have a2' : 2 * (num : Real) < 3 ^ (a + 1) := by exact_mod_cast a2
  have b1' : (3 : Real) ^ b < 2 * den := by exact_mod_cast b1
  have b2' : 2 * (den : Real) < 3 ^ (b + 1) := by exact_mod_cast b2
  have hd' : (0 : Real) < 2 * den := by positivity
  have hp : (0 : Real) < (3 : Real) ^ e := by positivity
  have hq : (num : Real) / den = 2 * num / (2 * den) := by
    rw [mul_div_mul_left _ _ (two_ne_zero)]
  have key (x y : Nat) : (3 : Real) ^ x / (3 : Real) ^ y * (3 : Real) ^ e = (3 : Real) ^ (e + x - y) := by
    rw [zpow_sub₀ (by norm_num), zpow_add₀ (by norm_num), zpow_natCast, zpow_natCast]
    ring
  rw [hq, ha, hb, show e + ((a + 1 : Nat) : Int) - ((b + 1 : Nat) : Int) - 1 = e + a - ((b + 1 : Nat) : Int) by push_cast; ring,
    show e + ((a + 1 : Nat) : Int) - ((b + 1 : Nat) : Int) + 1 = e + ((a + 1 : Nat) : Int) - b by push_cast; ring, ← key, ← key]
  refine ⟨mul_lt_mul_of_pos_right ?_ hp, mul_lt_mul_of_pos_right ?_ hp⟩
  · exact div_lt_div₀ a1' b2'.le (by positivity) hd'
  · exact div_lt_div₀' a2'.le b1' (by positivity) (by positivity)

/-- A guess within a factor of nine of the value is near its exponent. -/
theorem HasExp.near {v : Real} {e g : Int} (h : HasExp v e) (h1 : (3 : Real) ^ (g - 1) < v)
    (h2 : v < (3 : Real) ^ (g + 1)) :
    |g - e| ≤ 3 := by
  have hp : (0 : Real) < (3 : Real) ^ (g - 1) := by positivity
  have l1 : (3 : Real) ^ (g - 1) < (3 : Real) ^ (e + 1) := by
    have := h.2
    linarith
  have l2 : (3 : Real) ^ e < (3 : Real) ^ (g + 1 + 1) := by
    have := h.1
    rw [zpow_add_one₀ (by norm_num : (3 : Real) ≠ 0) (g + 1)]
    linarith
  have := three_zpow_lt.mp l1
  have := three_zpow_lt.mp l2
  rw [abs_le]
  omega

/-- `roundRat` rounds a quotient. -/
theorem roundRat_spec {num den : Nat} (neg : Bool) (e : Int) (hn : num ≠ 0)
    (hd : den ≠ 0) (sn : Short num) (sd : Short den) :
    RoundedTo (if neg then -((num : Real) / den * (3 : Real) ^ e) else (num : Real) / den * (3 : Real) ^ e)
        (roundRat neg num den e) ∧ |(roundRat neg num den e).1| ≤ maxT 27 := by
  have hv : 0 < (num : Real) / den * (3 : Real) ^ e := by positivity
  obtain ⟨x, hx⟩ := exists_hasExp hv
  obtain ⟨b1, b2⟩ := quotient_bracket e hn hd sn sd
  have hg := sees_viewRat (num := num) (Nat.pos_of_ne_zero hd) e
  exact ⟨roundedTo_roundG neg hv hg hx (hx.near b1 b2), abs_roundG_le neg hv hg hx (hx.near b1 b2)⟩

/-- `roundSqrt` rounds the root of a quotient. -/
theorem roundSqrt_spec {num den : Nat} (e : Int) (hn : num ≠ 0)
    (hd : den ≠ 0) (sn : Short num) (sd : Short den) :
    RoundedTo (Real.sqrt ((num : Real) / den * (3 : Real) ^ e)) (roundSqrt num den e) ∧
      |(roundSqrt num den e).1| ≤ maxT 27 := by
  have hq : 0 < (num : Real) / den * (3 : Real) ^ e := by positivity
  have hv : 0 < Real.sqrt ((num : Real) / den * (3 : Real) ^ e) := Real.sqrt_pos.mpr hq
  obtain ⟨x, hx⟩ := exists_hasExp hv
  obtain ⟨b1, b2⟩ := quotient_bracket e hn hd sn sd
  have hg := sees_viewSqrt (num := num) (Nat.pos_of_ne_zero hd) e
  set g := (e + tlen num - tlen den) / 2 with hgd
  have sq_zpow (a : Int) : ((3 : Real) ^ a) ^ 2 = (3 : Real) ^ (2 * a) := by
    rw [← zpow_natCast, ← zpow_mul, mul_comm]; rfl
  have l1 : (3 : Real) ^ (g - 1) < Real.sqrt ((num : Real) / den * (3 : Real) ^ e) := by
    rw [Real.lt_sqrt (by positivity), sq_zpow]
    exact (three_zpow_le.mpr (by omega)).trans_lt b1
  have l2 : Real.sqrt ((num : Real) / den * (3 : Real) ^ e) < (3 : Real) ^ (g + 1) := by
    rw [Real.sqrt_lt' (by positivity), sq_zpow]
    exact b2.trans_le (three_zpow_le.mpr (by omega))
  exact ⟨roundedTo_roundG false hv hg hx (hx.near l1 l2), abs_roundG_le false hv hg hx (hx.near l1 l2)⟩

/-! ### Table 2.8 -/

/-- The word of a NaN operand. -/
def Fl.raw? : Fl → Option Int
  | .nan _ r => some r
  | _ => none

/-- The operand is a signalling NaN. -/
def Fl.signals : Fl → Bool
  | .nan b _ => b
  | _ => false

theorem Fl.raw?_eq_none {x : Fl} : x.raw? = none ↔ x.isNan = false := by cases x <;> simp [raw?, isNan]
theorem Fl.raw?_eq_some {x : Fl} {r : Int} : x.raw? = some r ↔ ∃ b, x = .nan b r := by cases x <;> simp [raw?]
theorem Fl.signals_iff {x : Fl} : x.signals = true ↔ ∃ r, x = .nan true r := by cases x <;> simp [signals]

/-- What the NaN rows write for the first NaN's word. -/
def nanResult (k : FKind) (ops : List Fl) (r : Int) : Int × Fx :=
  (if k = .f27 then (if ops.any Fl.signals then quietNaN r else r) else nanWord k, Fx.cond (ops.any Fl.signals) Fx.IV)

theorem nanCase_eq (k : FKind) (ops : List Fl) :
    nanCase k ops = (ops.findSome? Fl.raw?).map (nanResult k ops) := by
  have h : nanCase k ops = match ops.findSome? Fl.raw? with
      | none => none
      | some r => some (nanResult k ops r) := rfl
  rw [h]
  cases ops.findSome? Fl.raw? <;> rfl

theorem table28_of_no_nan {k : FKind} {ops : List Fl} (r : Int × Fx) (h : ∀ o ∈ ops, o.isNan = false) :
    table28 k ops r = r := by
  have hf : ops.findSome? Fl.raw? = none := by
    rw [List.findSome?_eq_none_iff]
    exact fun o ho => Fl.raw?_eq_none.mpr (h o ho)
  simp [table28, nanCase_eq, hf]

/-- The NaN rows. -/
theorem nanRow_table28 (k : FKind) (ops : List Fl) (r : Int × Fx) : NanRow k ops (table28 k ops r) := by
  intro pre post b x hops hpre
  have hf : ops.findSome? Fl.raw? = some x := by
    rw [hops, List.findSome?_append, List.findSome?_eq_none_iff.mpr fun o ho => Fl.raw?_eq_none.mpr (hpre o ho)]
    rfl
  have hs : ops.any Fl.signals = true ↔ ∃ r', Fl.nan true r' ∈ ops := by
    rw [List.any_eq_true]
    constructor
    · rintro ⟨o, ho, ht⟩
      obtain ⟨r', rfl⟩ := Fl.signals_iff.mp ht
      exact ⟨r', ho⟩
    · rintro ⟨r', hr⟩
      exact ⟨_, hr, rfl⟩
  rw [table28, nanCase_eq, hf, Option.map_some, Option.getD_some, nanResult]
  refine ⟨fun h => ?_, fun h => ?_⟩
  · rw [hs.mpr h]
    simp [Fx.cond]
  · rw [Bool.eq_false_iff.mpr fun e => (hs.mp e).elim h]
    simp [Fx.cond]

theorem nanCase_some_le {k : FKind} {ops : List Fl} {z : Int × Fx}
    (h : ∀ b r, Fl.nan b r ∈ ops → |r| ≤ maxT k.width)
    (hz : nanCase k ops = some z) : |z.1| ≤ maxT k.width := by
  rw [nanCase_eq] at hz
  obtain ⟨r, hr, rfl⟩ := Option.map_eq_some_iff.mp hz
  obtain ⟨o, ho, hor⟩ := List.exists_of_findSome?_eq_some hr
  obtain ⟨b, rfl⟩ := Fl.raw?_eq_some.mp hor
  have hrk := h b r ho
  dsimp only [nanResult]
  split
  next hk =>
    subst hk
    split
    · exact abs_quietNaN_le hrk
    · exact hrk
  · exact abs_nanWord_le k

theorem abs_table28_le {k : FKind} {ops : List Fl} {r : Int × Fx}
    (h : ∀ b r, Fl.nan b r ∈ ops → |r| ≤ maxT k.width)
    (hr : |r.1| ≤ maxT k.width) : |(table28 k ops r).1| ≤ maxT k.width := by
  unfold table28
  cases hz : nanCase k ops with
  | none => exact hr
  | some z => exact nanCase_some_le h hz

theorem nanCase_neg_right (k : FKind) (a b : Fl) : nanCase k [a, b.neg] = nanCase k [a, b] := by
  cases b <;> rfl

/-! ### Exact sums and products (09 R159) -/

/-- An operand as an element of a format holds it. -/
def Fl.Read (k : FKind) : Fl → Prop
  | .nan _ r => |r| ≤ maxT k.width
  | .inf _ => True
  | .fin m e => |m| < 3 ^ 21 ∧ |e| ≤ 400

theorem maxT_lt_pow (n : Nat) : maxT n < 3 ^ n := by
  have := two_mul_maxT_add_one n
  have := maxT_nonneg n
  omega

theorem readFl_read {k : FKind} {x : Int} (h : |x| ≤ maxT k.width) : (readFl k x).Read k := by
  cases hx : readFl k x with
  | nan b r => rw [readFl_nan_raw hx]; exact h
  | inf b => trivial
  | fin m e =>
    obtain ⟨h1, h2⟩ := abs_readFl_fin hx
    have hs : k.sig ≤ 21 ∧ k.top ≤ 364 := by cases k <;> decide
    refine ⟨h1.trans_lt ((maxT_lt_pow _).trans_le (pow_le_pow_right₀ (by norm_num) hs.1)), ?_⟩
    rcases h2 with ⟨rfl, -⟩ | h2
    · norm_num
    · rw [abs_le] at *
      omega

theorem Fl.Read.neg {k : FKind} {x : Fl} (h : x.Read k) : x.neg.Read k := by
  cases x with
  | nan b r => exact h
  | inf b => trivial
  | fin m e => exact ⟨(abs_neg m).trans_lt h.1, h.2⟩

theorem Short.of_lt {m : Int} {n : Nat} (h : |m| < 3 ^ n) (hn : n ≤ 30000) : Short m := ⟨n, hn, h⟩

/-- The exact sum of two values, and its length. -/
theorem Ex.add_val (m e n f : Int) {a d : Nat} (hm : |m| < 3 ^ a) (hn : |n| < 3 ^ a) (hd : |e - f| ≤ d) :
    ∃ s g, (Ex.val m e).add (.val n f) = .val s g ∧ |s| < 3 ^ (a + d + 1) ∧
      (s : Rat) * (3 : Rat) ^ g = m * (3 : Rat) ^ e + n * (3 : Rat) ^ f := by
  have hpow (i : Nat) (hi : (i : Int) ≤ d) : (3 : Int) ^ i ≤ 3 ^ d := pow_le_pow_right₀ (by norm_num) (by exact_mod_cast hi)
  have hbig : (3 : Int) ^ (a + d + 1) = 3 * (3 ^ a * 3 ^ d) := by rw [pow_succ, pow_add]; ring
  have ha : (0 : Int) < 3 ^ a := by positivity
  have hd1 : (1 : Int) ≤ 3 ^ d := one_le_pow₀ (by norm_num)
  have hmul : (3 : Int) ^ a ≤ 3 ^ a * 3 ^ d := le_mul_of_one_le_right ha.le hd1
  have hscale (x : Int) (i : Nat) (hx : |x| < 3 ^ a) (hi : (i : Int) ≤ d) : |x * 3 ^ i| ≤ 3 ^ a * 3 ^ d := by
    rw [abs_mul, abs_of_pos (show (0 : Int) < 3 ^ i by positivity)]
    exact mul_le_mul hx.le (hpow i hi) (by positivity) ha.le
  have hz (x y : Int) (i : Nat) (hxy : x = y + i) : (3 : Rat) ^ x = (3 : Rat) ^ i * (3 : Rat) ^ y := by
    rw [hxy, zpow_add₀ (by norm_num), zpow_natCast, mul_comm]
  rw [abs_le] at hd
  unfold Ex.add
  by_cases h1 : m = 0
  · exact ⟨n, f, by simp [h1], by omega, by simp [h1]⟩
  by_cases h2 : n = 0
  · exact ⟨m, e, by simp [h1, h2], by omega, by simp [h2]⟩
  by_cases h3 : e ≤ f
  · obtain ⟨i, hi⟩ := Int.eq_ofNat_of_zero_le (show 0 ≤ f - e by omega)
    refine ⟨m + n * 3 ^ i, e, by simp [h1, h2, h3, hi], ?_, ?_⟩
    · have := hscale n i hn (by omega)
      have := abs_add_le m (n * 3 ^ i)
      omega
    · rw [hz f e i (by omega)]
      push_cast
      ring
  · obtain ⟨i, hi⟩ := Int.eq_ofNat_of_zero_le (show 0 ≤ e - f by omega)
    refine ⟨m * 3 ^ i + n, f, by simp [h1, h2, h3, hi], ?_, ?_⟩
    · have := hscale m i hm (by omega)
      have := abs_add_le (m * 3 ^ i) n
      omega
    · rw [hz e f i (by omega)]
      push_cast
      ring

theorem rat_eq_zero_iff {m e : Int} : (Fl.fin m e).rat = 0 ↔ m = 0 := by
  have hp : (3 : Rat) ^ e ≠ 0 := by positivity
  simp [Fl.rat, hp]

theorem rat_neg_iff {m e : Int} : (Fl.fin m e).rat < 0 ↔ m < 0 := by
  have hp : (0 : Rat) < (3 : Rat) ^ e := by positivity
  simp [Fl.rat, mul_neg_iff, hp, hp.not_gt]

theorem exists_of_isFin {x : Fl} (h : x.isFin = true) : ∃ m e, x = .fin m e := by
  cases x with
  | fin m e => exact ⟨m, e, rfl⟩
  | nan => cases h
  | inf => cases h

theorem isNan_of_isFin {x : Fl} (h : x.isFin = true) : x.isNan = false := by
  obtain ⟨m, e, rfl⟩ := exists_of_isFin h
  rfl

/-- An infinite product. -/
theorem mul_of_infProduct {x y : Fl} {neg : Bool} (h : InfProduct x y neg) :
    x.toEx.mul y.toEx = .inf neg ∧ x.isNan = false ∧ y.isNan = false := by
  rcases h with ⟨a, b, rfl, rfl, rfl⟩ | ⟨a, rfl, hy, h0, rfl⟩ | ⟨b, rfl, hx, h0, rfl⟩
  · exact ⟨rfl, rfl, rfl⟩
  · obtain ⟨m, e, rfl⟩ := exists_of_isFin hy
    have hm : m ≠ 0 := fun h => h0 (rat_eq_zero_iff.mpr h)
    exact ⟨by simp [Fl.toEx, Ex.mul, hm, rat_neg_iff], rfl, rfl⟩
  · obtain ⟨m, e, rfl⟩ := exists_of_isFin hx
    have hm : m ≠ 0 := fun h => h0 (rat_eq_zero_iff.mpr h)
    exact ⟨by simp [Fl.toEx, Ex.mul, hm, rat_neg_iff, Bool.xor_comm], rfl, rfl⟩

/-- An invalid product. -/
theorem mul_of_badProduct {x y : Fl} (h : BadProduct x y) :
    x.toEx.mul y.toEx = .bad ∧ x.isNan = false ∧ y.isNan = false := by
  obtain ⟨a, ⟨rfl, hy, h0⟩ | ⟨rfl, hx, h0⟩⟩ := h
  · obtain ⟨m, e, rfl⟩ := exists_of_isFin hy
    exact ⟨by simp [Fl.toEx, Ex.mul, rat_eq_zero_iff.mp h0], rfl, rfl⟩
  · obtain ⟨m, e, rfl⟩ := exists_of_isFin hx
    exact ⟨by simp [Fl.toEx, Ex.mul, rat_eq_zero_iff.mp h0], rfl, rfl⟩

/-- Writing an exact result stays in the format. -/
theorem abs_write_le (k : FKind) {x : Ex} (h : ∀ m e, x = .val m e → Short m) :
    |(x.write k).1| ≤ maxT k.width := by
  cases x with
  | bad => exact abs_nanWord_le k
  | inf b => exact abs_infWord_le k b
  | val m e => exact abs_roundT_le k e (h m e rfl)

/-- An exact value with a significand of at most a trits and an exponent of at most d in magnitude. -/
def Ex.Within (a d : Nat) : Ex → Prop
  | .val m e => |m| < 3 ^ a ∧ |e| ≤ d
  | _ => True

theorem Fl.Read.within {k : FKind} {x : Fl} (h : x.Read k) : x.toEx.Within 21 400 := by
  cases x with
  | fin m e => exact h
  | _ => trivial

theorem Ex.Within.mul {a b d f : Nat} {x y : Ex} (hx : x.Within a d) (hy : y.Within b f) :
    (x.mul y).Within (a + b) (d + f) := by
  cases x with
  | bad => trivial
  | inf i =>
    cases y with
    | val n g =>
      change Within _ _ (if n = 0 then bad else inf (i != decide (n < 0)))
      split <;> trivial
    | _ => trivial
  | val m e =>
    cases y with
    | bad => trivial
    | inf i =>
      change Within _ _ (if m = 0 then bad else inf (decide (m < 0) != i))
      split <;> trivial
    | val n g =>
      refine ⟨?_, ?_⟩
      · rw [abs_mul, pow_add]
        exact mul_lt_mul'' hx.1 hy.1 (abs_nonneg _) (abs_nonneg _)
      · push_cast
        exact (abs_add_le _ _).trans (add_le_add hx.2 hy.2)

theorem Ex.Within.mono {a b d : Nat} {x : Ex} (h : x.Within a d) {f : Nat} (hab : a ≤ b) (hdf : d ≤ f) :
    x.Within b f := by
  cases x with
  | val m e =>
    exact ⟨h.1.trans_le (pow_le_pow_right₀ (by norm_num) hab), h.2.trans (by exact_mod_cast hdf)⟩
  | _ => trivial

/-- The exact sum of two values, one of them of at most a trits and an exponent of at most d. -/
theorem Ex.Within.add_val {a d : Nat} {m e n f : Int} (hx : (Ex.val m e).Within a d)
    (hy : (Ex.val n f).Within a d)
    (hs : a + (d + d) + 1 ≤ 30000) :
    ∃ s g, (Ex.val m e).add (.val n f) = .val s g ∧ Short s ∧
      (s : Rat) * (3 : Rat) ^ g = m * (3 : Rat) ^ e + n * (3 : Rat) ^ f := by
  have hd : |e - f| ≤ ((d + d : Nat) : Int) := by
    push_cast
    exact (abs_sub _ _).trans (add_le_add hx.2 hy.2)
  obtain ⟨s, g, h1, h2, h3⟩ := Ex.add_val m e n f hx.1 hy.1 hd
  exact ⟨s, g, h1, .of_lt h2 hs, h3⟩

theorem Ex.Within.short_add {a d : Nat} {x y : Ex} (hx : x.Within a d) (hy : y.Within a d)
    (hs : a + (d + d) + 1 ≤ 30000) {m e : Int} (h : x.add y = .val m e) : Short m := by
  cases x with
  | bad => cases h
  | inf i =>
    cases y with
    | bad => cases h
    | inf j =>
      change (if i = j then Ex.inf i else .bad) = _ at h
      split at h <;> cases h
    | val n f => cases h
  | val n f =>
    cases y with
    | bad => cases h
    | inf j => cases h
    | val p g =>
      obtain ⟨s, r, h1, h2, -⟩ := hx.add_val hy hs
      cases h1.symm.trans h
      exact h2

/-! ### The results of Table 2.8 by operation -/

/-- A sum, rounded once. -/
def sumFl (k : FKind) (x y : Fl) : Int × Fx := table28 k [x, y] ((x.toEx.add y.toEx).write k)
/-- A product, rounded once. -/
def mulFl (k : FKind) (x y : Fl) : Int × Fx := table28 k [x, y] ((x.toEx.mul y.toEx).write k)
/-- A product-sum, rounded once. -/
def fmaFl (k : FKind) (x y w : Fl) : Int × Fx := table28 k [x, y, w] (((x.toEx.mul y.toEx).add w.toEx).write k)

theorem flAdd_eq (k : FKind) (x y : Int) : flAdd k x y = sumFl k (readFl k x) (readFl k y) := rfl
section
variable {k : FKind} {x y w : Fl}

theorem sumFl_of_not_nan (hx : x.isNan = false) (hy : y.isNan = false) :
    sumFl k x y = (x.toEx.add y.toEx).write k :=
  table28_of_no_nan _ (by simp [hx, hy])

theorem mulFl_of_not_nan (hx : x.isNan = false) (hy : y.isNan = false) :
    mulFl k x y = (x.toEx.mul y.toEx).write k :=
  table28_of_no_nan _ (by simp [hx, hy])

theorem fmaFl_of_not_nan (hx : x.isNan = false) (hy : y.isNan = false) (hw : w.isNan = false) :
    fmaFl k x y w = ((x.toEx.mul y.toEx).add w.toEx).write k :=
  table28_of_no_nan _ (by simp [hx, hy, hw])

theorem rounded_sumFl (hx : x.Read k) (hy : y.Read k) (fx : x.isFin = true) (fy : y.isFin = true) :
    Rounded k (x.rat + y.rat) (sumFl k x y) := by
  rw [sumFl_of_not_nan (isNan_of_isFin fx) (isNan_of_isFin fy)]
  obtain ⟨m, e, rfl⟩ := exists_of_isFin fx
  obtain ⟨n, f, rfl⟩ := exists_of_isFin fy
  obtain ⟨s, g, h1, h2, h3⟩ := Ex.Within.add_val (m := m) (e := e) (n := n) (f := f) hx.within hy.within (by norm_num)
  have h4 : (Fl.fin m e).toEx.add (Fl.fin n f).toEx = .val s g := h1
  rw [h4]
  have h5 : (Fl.fin m e).rat + (Fl.fin n f).rat = s * (3 : Rat) ^ g := h3.symm
  rw [h5]
  exact rounded_roundT k g h2

/-- A sum with an infinity. -/
theorem sumFl_inf_fin {a : Bool} (fy : y.isFin = true) : sumFl k (.inf a) y = (infWord k a, Fx.clear) := by
  rw [sumFl_of_not_nan rfl (isNan_of_isFin fy)]
  obtain ⟨n, f, rfl⟩ := exists_of_isFin fy
  rfl

theorem sumFl_fin_inf {b : Bool} (fx : x.isFin = true) : sumFl k x (.inf b) = (infWord k b, Fx.clear) := by
  rw [sumFl_of_not_nan (isNan_of_isFin fx) rfl]
  obtain ⟨n, f, rfl⟩ := exists_of_isFin fx
  rfl

theorem sumFl_inf_inf {a b : Bool} :
    sumFl k (.inf a) (.inf b) = if a = b then (infWord k a, Fx.clear) else (nanWord k, Fx.IV) := by
  rw [sumFl_of_not_nan rfl rfl]
  by_cases h : a = b <;> simp [Fl.toEx, Ex.add, Ex.write, h]

theorem rounded_mulFl (hx : x.Read k) (hy : y.Read k) (fx : x.isFin = true) (fy : y.isFin = true) :
    Rounded k (x.rat * y.rat) (mulFl k x y) := by
  rw [mulFl_of_not_nan (isNan_of_isFin fx) (isNan_of_isFin fy)]
  have hs := hx.within.mul hy.within
  obtain ⟨m, e, rfl⟩ := exists_of_isFin fx
  obtain ⟨n, f, rfl⟩ := exists_of_isFin fy
  have h5 : (Fl.fin m e).rat * (Fl.fin n f).rat = (m * n : Int) * (3 : Rat) ^ (e + f) := by
    rw [zpow_add₀ (by norm_num)]
    simp only [Fl.rat]
    push_cast
    ring
  rw [h5]
  exact rounded_roundT k (e + f) (.of_lt hs.1 (by norm_num))

theorem mulFl_of_infProduct {neg : Bool} (h : InfProduct x y neg) :
    mulFl k x y = (infWord k neg, Fx.clear) := by
  obtain ⟨h1, h2, h3⟩ := mul_of_infProduct h
  rw [mulFl_of_not_nan h2 h3, h1]
  rfl

theorem mulFl_of_badProduct (h : BadProduct x y) : mulFl k x y = (nanWord k, Fx.IV) := by
  obtain ⟨h1, h2, h3⟩ := mul_of_badProduct h
  rw [mulFl_of_not_nan h2 h3, h1]
  rfl

theorem rounded_fmaFl (hx : x.Read k) (hy : y.Read k)
    (hw : w.Read k) (fx : x.isFin = true) (fy : y.isFin = true)
    (fw : w.isFin = true) : Rounded k (x.rat * y.rat + w.rat) (fmaFl k x y w) := by
  rw [fmaFl_of_not_nan (isNan_of_isFin fx) (isNan_of_isFin fy) (isNan_of_isFin fw)]
  have hs := hx.within.mul hy.within
  have hw' := hw.within.mono (b := 42) (f := 800) (by norm_num) (by norm_num)
  obtain ⟨m, e, rfl⟩ := exists_of_isFin fx
  obtain ⟨n, f, rfl⟩ := exists_of_isFin fy
  obtain ⟨p, g, rfl⟩ := exists_of_isFin fw
  obtain ⟨s, r, h1, h2, h3⟩ := Ex.Within.add_val (m := m * n) (e := e + f) (n := p) (f := g) hs hw' (by norm_num)
  have h4 : ((Fl.fin m e).toEx.mul (Fl.fin n f).toEx).add (Fl.fin p g).toEx = .val s r := h1
  rw [h4]
  have h5 : (Fl.fin m e).rat * (Fl.fin n f).rat + (Fl.fin p g).rat = s * (3 : Rat) ^ r := by
    rw [h3, zpow_add₀ (by norm_num)]
    simp only [Fl.rat]
    push_cast
    ring
  rw [h5]
  exact rounded_roundT k r h2

/-- A finite product plus an infinity. -/
theorem fmaFl_fin_inf {a : Bool} (fx : x.isFin = true) (fy : y.isFin = true) :
    fmaFl k x y (.inf a) = (infWord k a, Fx.clear) := by
  rw [fmaFl_of_not_nan (isNan_of_isFin fx) (isNan_of_isFin fy) rfl]
  obtain ⟨m, e, rfl⟩ := exists_of_isFin fx
  obtain ⟨n, f, rfl⟩ := exists_of_isFin fy
  rfl

theorem fmaFl_of_infProduct_fin {neg : Bool} (h : InfProduct x y neg) (fw : w.isFin = true) :
    fmaFl k x y w = (infWord k neg, Fx.clear) := by
  obtain ⟨h1, h2, h3⟩ := mul_of_infProduct h
  rw [fmaFl_of_not_nan h2 h3 (isNan_of_isFin fw), h1]
  obtain ⟨n, f, rfl⟩ := exists_of_isFin fw
  rfl

theorem fmaFl_of_infProduct_inf {neg b : Bool} (h : InfProduct x y neg) :
    fmaFl k x y (.inf b) = if b = neg then (infWord k neg, Fx.clear) else (nanWord k, Fx.IV) := by
  obtain ⟨h1, h2, h3⟩ := mul_of_infProduct h
  rw [fmaFl_of_not_nan h2 h3 rfl, h1]
  by_cases hb : b = neg
  · simp [Fl.toEx, Ex.add, Ex.write, hb]
  · simp [Fl.toEx, Ex.add, Ex.write, hb, Ne.symm hb]

theorem fmaFl_of_badProduct (h : BadProduct x y) (hw : w.isNan = false) :
    fmaFl k x y w = (nanWord k, Fx.IV) := by
  obtain ⟨h1, h2, h3⟩ := mul_of_badProduct h
  rw [fmaFl_of_not_nan h2 h3 hw, h1]
  rfl

theorem abs_sumFl_le (hx : x.Read k) (hy : y.Read k) : |(sumFl k x y).1| ≤ maxT k.width := by
  refine abs_table28_le (fun b r h => ?_) (abs_write_le k fun m e h => hx.within.short_add hy.within (by norm_num) h)
  simp only [List.mem_cons, List.not_mem_nil, or_false] at h
  rcases h with rfl | rfl
  · exact hx
  · exact hy

theorem abs_mulFl_le (hx : x.Read k) (hy : y.Read k) : |(mulFl k x y).1| ≤ maxT k.width := by
  refine abs_table28_le (fun b r h => ?_) (abs_write_le k fun m e h => ?_)
  · simp only [List.mem_cons, List.not_mem_nil, or_false] at h
    rcases h with rfl | rfl
    · exact hx
    · exact hy
  · have := hx.within.mul hy.within
    rw [h] at this
    exact .of_lt this.1 (by norm_num)

theorem abs_fmaFl_le (hx : x.Read k) (hy : y.Read k) (hw : w.Read k) : |(fmaFl k x y w).1| ≤ maxT k.width := by
  refine abs_table28_le (fun b r h => ?_) (abs_write_le k fun m e h =>
    (hx.within.mul hy.within).short_add (hw.within.mono (by norm_num) (by norm_num)) (by norm_num) h)
  simp only [List.mem_cons, List.not_mem_nil, or_false] at h
  rcases h with rfl | rfl | rfl
  · exact hx
  · exact hy
  · exact hw
end

/-! ### Quotients and roots of F27 (09 R160) -/

section
variable {x y m n e f : Int}

/-- A quotient of two values, as a signed quotient of magnitudes. -/
theorem ratio_eq_signed (hm : m ≠ 0) (hn : n ≠ 0) :
    (((Fl.fin m e).rat / (Fl.fin n f).rat : Rat) : Real) =
      if (decide (m < 0) != decide (n < 0)) = true then -((m.natAbs : Real) / n.natAbs * (3 : Real) ^ (e - f))
      else (m.natAbs : Real) / n.natAbs * (3 : Real) ^ (e - f) := by
  have h : (((Fl.fin m e).rat / (Fl.fin n f).rat : Rat) : Real) = (m : Real) / n * (3 : Real) ^ (e - f) := by
    simp only [Fl.rat]
    push_cast
    rw [zpow_sub₀ (by norm_num)]
    ring
  have ha (i : Int) : (i.natAbs : Real) = |(i : Real)| := by rw [Nat.cast_natAbs, Int.cast_abs]
  have hc : (decide (m < 0) != decide (n < 0)) = true ↔ (m : Real) / n < 0 := by
    rw [div_neg_iff, Int.cast_pos, Int.cast_pos, Int.cast_lt_zero, Int.cast_lt_zero, bne_iff_ne, ne_eq, decide_eq_decide]
    omega
  rw [h, ha, ha, ← abs_div]
  split
  next hs => rw [abs_of_neg (hc.mp hs)]; ring
  next hs => rw [abs_of_nonneg (not_lt.mp (mt hc.mpr hs))]

theorem short_natAbs (h : |m| < 3 ^ 21) : Short (m.natAbs : Int) :=
  .of_lt (n := 21) (by rwa [Nat.abs_cast, Int.natCast_natAbs]) (by norm_num)

theorem short_one : Short ((1 : Nat) : Int) := .of_lt (n := 1) (by norm_num) (by norm_num)

/-- FDIV of two finite values that are not zero. -/
theorem flDiv_fin (hx : readFl .f27 x = .fin m e) (hy : readFl .f27 y = .fin n f) (hm : m ≠ 0) (hn : n ≠ 0) :
    flDiv .f27 x y = roundRat (decide (m < 0) != decide (n < 0)) m.natAbs n.natAbs (e - f) := by
  simp only [flDiv, hx, hy]
  rw [table28_of_no_nan _ (by simp [Fl.isNan])]
  simp [hm, hn]

theorem flDiv_zero_zero (hx : readFl .f27 x = .fin 0 e) (hy : readFl .f27 y = .fin 0 f) :
    flDiv .f27 x y = (nanWord .f27, Fx.IV) := by
  simp only [flDiv, hx, hy]
  rw [table28_of_no_nan _ (by simp [Fl.isNan])]
  simp

theorem flDiv_zero_fin (hx : readFl .f27 x = .fin 0 e) (hy : readFl .f27 y = .fin n f) (hn : n ≠ 0) :
    flDiv .f27 x y = (zeroWord .f27, Fx.clear) := by
  simp only [flDiv, hx, hy]
  rw [table28_of_no_nan _ (by simp [Fl.isNan])]
  simp [hn]

theorem flDiv_fin_zero (hx : readFl .f27 x = .fin m e) (hy : readFl .f27 y = .fin 0 f) (hm : m ≠ 0) :
    flDiv .f27 x y = (infWord .f27 (decide (m < 0)), Fx.DZ) := by
  simp only [flDiv, hx, hy]
  rw [table28_of_no_nan _ (by simp [Fl.isNan])]
  simp [hm]

theorem flDiv_inf_fin {a : Bool} (hx : readFl .f27 x = .inf a) (hy : readFl .f27 y = .fin n f) :
    flDiv .f27 x y = (infWord .f27 (a != decide (n < 0)), Fx.clear) := by
  simp only [flDiv, hx, hy]
  rw [table28_of_no_nan _ (by simp [Fl.isNan])]

theorem flDiv_fin_inf {a : Bool} (hx : readFl .f27 x = .fin m e) (hy : readFl .f27 y = .inf a) :
    flDiv .f27 x y = (zeroWord .f27, Fx.clear) := by
  simp only [flDiv, hx, hy]
  rw [table28_of_no_nan _ (by simp [Fl.isNan])]

theorem flDiv_inf_inf {a b : Bool} (hx : readFl .f27 x = .inf a) (hy : readFl .f27 y = .inf b) :
    flDiv .f27 x y = (nanWord .f27, Fx.IV) := by
  simp only [flDiv, hx, hy]
  rw [table28_of_no_nan _ (by simp [Fl.isNan])]

/-- A quotient of values that are not zero is rounded, and fits. -/
theorem flDiv_fin_spec (rx : (Fl.fin m e).Read .f27) (ry : (Fl.fin n f).Read .f27)
    (hx : readFl .f27 x = .fin m e)
    (hy : readFl .f27 y = .fin n f) (hm : m ≠ 0) (hn : n ≠ 0) :
    RoundedTo (((Fl.fin m e).rat / (Fl.fin n f).rat : Rat) : Real) (flDiv .f27 x y) ∧ |(flDiv .f27 x y).1| ≤ maxT 27 := by
  rw [flDiv_fin hx hy hm hn, ratio_eq_signed hm hn]
  exact roundRat_spec _ _ (Int.natAbs_ne_zero.mpr hm) (Int.natAbs_ne_zero.mpr hn) (short_natAbs rx.1) (short_natAbs ry.1)

/-- What FDIV gives fits. -/
theorem abs_flDiv_le (hx : |x| ≤ maxT 27) (hy : |y| ≤ maxT 27) : |(flDiv .f27 x y).1| ≤ maxT 27 := by
  have rx : (readFl .f27 x).Read .f27 := readFl_read hx
  have ry : (readFl .f27 y).Read .f27 := readFl_read hy
  refine abs_table28_le (k := .f27) (fun b r h => ?_) ?_
  · simp only [List.mem_cons, List.not_mem_nil, or_false] at h
    rcases h with h | h
    · rw [← h] at rx; exact rx
    · rw [← h] at ry; exact ry
  · split
    · exact abs_nanWord_le .f27
    · exact abs_infWord_le .f27 _
    · exact abs_zeroWord_le .f27
    next m e n f hm hn =>
      rw [hm] at rx
      rw [hn] at ry
      split
      · exact abs_nanWord_le .f27
      split
      · exact abs_infWord_le .f27 _
      split
      · exact abs_zeroWord_le .f27
      next h1 h2 h3 =>
        exact (roundRat_spec _ _ (Int.natAbs_ne_zero.mpr h3) (Int.natAbs_ne_zero.mpr h2) (short_natAbs rx.1)
          (short_natAbs ry.1)).2
    · exact abs_nanWord_le .f27

/-! #### The functions of one operand -/

theorem flSqrt_fin (hx : readFl .f27 x = .fin m e) :
    flSqrt .f27 x = if m < 0 then (nanWord .f27, Fx.IV) else if m = 0 then (zeroWord .f27, Fx.clear) else roundSqrt m.natAbs 1 e := by
  simp only [flSqrt, hx]
  rw [table28_of_no_nan _ (by simp [Fl.isNan])]

theorem flSqrt_inf {a : Bool} (hx : readFl .f27 x = .inf a) :
    flSqrt .f27 x = if a then (nanWord .f27, Fx.IV) else (infWord .f27 false, Fx.clear) := by
  simp only [flSqrt, hx]
  rw [table28_of_no_nan _ (by simp [Fl.isNan])]

theorem flRcp_fin (hx : readFl .f27 x = .fin m e) :
    flRcp .f27 x = if m = 0 then (infWord .f27 false, Fx.DZ) else roundRat (decide (m < 0)) 1 m.natAbs (-e) := by
  simp only [flRcp, hx]
  rw [table28_of_no_nan _ (by simp [Fl.isNan])]

theorem flRcp_inf {a : Bool} (hx : readFl .f27 x = .inf a) : flRcp .f27 x = (zeroWord .f27, Fx.clear) := by
  simp only [flRcp, hx]
  rw [table28_of_no_nan _ (by simp [Fl.isNan])]

theorem flRsq_fin (hx : readFl .f27 x = .fin m e) :
    flRsq .f27 x = if m < 0 then (nanWord .f27, Fx.IV) else if m = 0 then (infWord .f27 false, Fx.DZ) else roundSqrt 1 m.natAbs (-e) := by
  simp only [flRsq, hx]
  rw [table28_of_no_nan _ (by simp [Fl.isNan])]

theorem flRsq_inf {a : Bool} (hx : readFl .f27 x = .inf a) :
    flRsq .f27 x = if a then (nanWord .f27, Fx.IV) else (zeroWord .f27, Fx.clear) := by
  simp only [flRsq, hx]
  rw [table28_of_no_nan _ (by simp [Fl.isNan])]

theorem roundSqrt_fin_spec (rx : (Fl.fin m e).Read .f27) (hm : 0 < m) :
    RoundedTo (Real.sqrt (Fl.fin m e).rat) (roundSqrt m.natAbs 1 e) ∧ |(roundSqrt m.natAbs 1 e).1| ≤ maxT 27 := by
  have h := roundSqrt_spec e (Int.natAbs_ne_zero.mpr hm.ne') one_ne_zero (short_natAbs rx.1) short_one
  have hq : (m.natAbs : Real) / (1 : Nat) * (3 : Real) ^ e = ((Fl.fin m e).rat : Rat) := by
    rw [Nat.cast_natAbs, abs_of_pos hm]
    simp [Fl.rat]
  rwa [hq] at h

theorem roundRat_rcp_spec (rx : (Fl.fin m e).Read .f27) (hm : m ≠ 0) :
    RoundedTo ((1 / (Fl.fin m e).rat : Rat) : Real) (roundRat (decide (m < 0)) 1 m.natAbs (-e)) ∧
      |(roundRat (decide (m < 0)) 1 m.natAbs (-e)).1| ≤ maxT 27 := by
  have h := ratio_eq_signed (m := 1) (e := 0) (f := e) one_ne_zero hm
  have h1 : (Fl.fin 1 0).rat = 1 := by simp [Fl.rat]
  rw [h1, zero_sub] at h
  rw [h]
  simpa using roundRat_spec (decide (m < 0)) (-e) one_ne_zero (Int.natAbs_ne_zero.mpr hm) short_one (short_natAbs rx.1)

theorem roundSqrt_rsq_spec (rx : (Fl.fin m e).Read .f27) (hm : 0 < m) :
    RoundedTo (1 / Real.sqrt (Fl.fin m e).rat) (roundSqrt 1 m.natAbs (-e)) ∧ |(roundSqrt 1 m.natAbs (-e)).1| ≤ maxT 27 := by
  have h := roundSqrt_spec (-e) one_ne_zero (Int.natAbs_ne_zero.mpr hm.ne') short_one (short_natAbs rx.1)
  have hq : ((1 : Nat) : Real) / m.natAbs * (3 : Real) ^ (-e) = (((Fl.fin m e).rat : Rat) : Real)⁻¹ := by
    rw [Nat.cast_natAbs, abs_of_pos hm, zpow_neg]
    simp [Fl.rat, mul_comm]
  rw [hq, Real.sqrt_inv, ← one_div] at h
  exact h

theorem read_of_mem_one (hx : |x| ≤ maxT 27) :
    ∀ b r, Fl.nan b r ∈ [readFl .f27 x] → |r| ≤ maxT FKind.f27.width := by
  have rx : (readFl .f27 x).Read .f27 := readFl_read hx
  intro b r h
  rw [List.mem_singleton] at h
  rw [← h] at rx
  exact rx

/-- What the functions of one operand give fits. -/
theorem abs_flSqrt_le (hx : |x| ≤ maxT 27) : |(flSqrt .f27 x).1| ≤ maxT 27 := by
  have rx : (readFl .f27 x).Read .f27 := readFl_read hx
  refine abs_table28_le (k := .f27) (read_of_mem_one hx) ?_
  split
  · split
    · exact abs_nanWord_le .f27
    · exact abs_infWord_le .f27 _
  next m e hm =>
    rw [hm] at rx
    split
    · exact abs_nanWord_le .f27
    split
    · exact abs_zeroWord_le .f27
    · exact (roundSqrt_fin_spec rx (by omega)).2
  · exact abs_nanWord_le .f27

theorem abs_flRcp_le (hx : |x| ≤ maxT 27) : |(flRcp .f27 x).1| ≤ maxT 27 := by
  have rx : (readFl .f27 x).Read .f27 := readFl_read hx
  refine abs_table28_le (k := .f27) (read_of_mem_one hx) ?_
  split
  · exact abs_zeroWord_le .f27
  next m e hm =>
    rw [hm] at rx
    split
    · exact abs_infWord_le .f27 _
    next h0 => exact (roundRat_rcp_spec rx h0).2
  · exact abs_nanWord_le .f27

theorem abs_flRsq_le (hx : |x| ≤ maxT 27) : |(flRsq .f27 x).1| ≤ maxT 27 := by
  have rx : (readFl .f27 x).Read .f27 := readFl_read hx
  refine abs_table28_le (k := .f27) (read_of_mem_one hx) ?_
  split
  · split
    · exact abs_nanWord_le .f27
    · exact abs_zeroWord_le .f27
  next m e hm =>
    rw [hm] at rx
    split
    · exact abs_nanWord_le .f27
    split
    · exact abs_infWord_le .f27 _
    · exact (roundSqrt_rsq_spec rx (by omega)).2
  · exact abs_nanWord_le .f27

end

/-! ### Floating-point instructions (09 R155, R159, R160) -/

/-- Negation stays in the element. -/
theorem abs_negFl_le {k : FKind} {x : Int} (h : |x| ≤ maxT k.width) : |negFl k x| ≤ maxT k.width := by
  unfold negFl
  split
  · exact h
  · have h2 := two_mul_maxT_add_one k.width
    have hd : |dropT x k.sig| ≤ k.top := abs_dropT_le (by rw [add_comm, k.sig_add_exp]; omega)
    have e : x - 2 * field x 0 k.sig = mkFl k (dropT x k.sig) (-wrapT k.sig x) := by
      rw [field_zero, mkFl]
      nth_rw 1 [← wrapT_add_dropT x k.sig]
      ring
    rw [e]
    exact abs_mkFl_le hd ((abs_neg _).trans_le (abs_wrapT_le _ _))

theorem abs_negEl_le {k : FKind} {n x : Int} (h : |x| ≤ maxT k.width) : |negEl k n x| ≤ maxT k.width := by
  unfold negEl
  split
  · exact abs_negFl_le h
  · exact h

/-- The element that an instruction reads, after negation. -/
def Ctx.el (c : Ctx) (k : FKind) (n f : Int) (p j : Nat) : Int := negEl k n (flElem k (rd c f p) j)

theorem abs_el_le (c : Ctx) (k : FKind) (n f : Int) (p j : Nat) : |c.el k n f p j| ≤ maxT k.width :=
  abs_negEl_le (abs_field_le _ _ _)

theorem fl_read (c : Ctx) (k : FKind) (n f : Int) (p j : Nat) :
    (c.fl k n f p j).Read k := readFl_read (abs_el_le c k n f p j)

section
variable {s : State} {c : Ctx} {d pred : Int}

/-- An instruction that writes the elements g gives, each within its width, has them as its result. -/
theorem floatResult_of_exec {i : Instr} {k : FKind} {g : Nat → Nat → Int × Fx}
    (he : exec i s = .next (s.computed c d pred (fun p => ([(perFl k (g p)).1], (perFl k (g p)).2))))
    (hg : ∀ p, ∀ j < elems k.width, |(g p j).1| ≤ maxT k.width) : FloatResult s c i d pred k g := by
  refine ⟨fun p => (perFl k (g p)).1, ?_, fun p => isWord_perElem (hg p)⟩
  rw [he]
  simp only [perFl, perElem_snd]

variable {f : FA}

/-- An instruction of sources a and b. -/
theorem floatResult_AB {i : Instr} {types : Bool} {g : FKind → Int → Int → Int × Fx} (hi : Issuing s c)
    (h : AluFree c f.dst 1 [src f.a, src f.b] f.pred (predOk f.pred && types) accAB) (he : exec i s = floatAB s f types g)
    (hg : ∀ x y, |x| ≤ maxT (fkindA f.ty).width → |y| ≤ maxT (fkindA f.ty).width →
      |(g (fkindA f.ty) x y).1| ≤ maxT (fkindA f.ty).width) :
    FloatResult s c i f.dst f.pred (fkindA f.ty)
      (fun p j => g (fkindA f.ty) (c.el (fkindA f.ty) c.mod.na f.a p j) (c.el (fkindA f.ty) c.mod.nb f.b p j)) :=
  floatResult_of_exec (he.trans (withRow_ok hi (alu_ok (a := ⟨f.dst, 1, _, f.pred, _, accAB⟩) h)))
    fun _ _ _ => hg _ _ (abs_el_le ..) (abs_el_le ..)

/-- An instruction of source a. -/
theorem floatResult_A {i : Instr} {fields : Bool} {g : FKind → Int → Int × Fx} (hi : Issuing s c)
    (h : AluFree c f.dst 1 [src f.a] f.pred (predOk f.pred && fields) accA) (he : exec i s = floatA s f fields g)
    (hg : ∀ x, |x| ≤ maxT (fkindA f.ty).width → |(g (fkindA f.ty) x).1| ≤ maxT (fkindA f.ty).width) :
    FloatResult s c i f.dst f.pred (fkindA f.ty) (fun p j => g (fkindA f.ty) (c.el (fkindA f.ty) c.mod.na f.a p j)) :=
  floatResult_of_exec (he.trans (withRow_ok hi (alu_ok (a := ⟨f.dst, 1, _, f.pred, _, accA⟩) h)))
    fun _ _ _ => hg _ (abs_el_le ..)

end

theorem execFsub_eq (f : FA) (s : State) :
    exec (.fsub f) s = floatAB s f (fAll f.ty) (fun k x y => flAdd k x (negFl k y)) := rfl
theorem isFin_neg (x : Fl) : x.neg.isFin = x.isFin := by cases x <;> rfl
theorem rat_neg (x : Fl) : x.neg.rat = -x.rat := by cases x <;> simp [Fl.neg, Fl.rat]

/-- A difference is a sum with the negated operand. -/
def diffFl (k : FKind) (x y : Fl) : Int × Fx := sumFl k x y.neg

theorem nanRow_diffFl (k : FKind) (x y : Fl) : NanRow k [x, y] (diffFl k x y) := by
  have h : diffFl k x y = table28 k [x, y] ((x.toEx.add y.neg.toEx).write k) := by
    rw [diffFl, sumFl, table28, table28, nanCase_neg_right]
  rw [h]
  exact nanRow_table28 _ _ _

/-- The sums of FADD and FSUB. -/
theorem add_clauses {k : FKind} {x y : Fl} (hx : x.Read k) (hy : y.Read k) :
    (x.isFin = true → y.isFin = true → Rounded k (x.rat + y.rat) (sumFl k x y)) ∧
    (∀ a, x = .inf a → y.isFin = true → sumFl k x y = (infWord k a, Fx.clear)) ∧
    (∀ b, x.isFin = true → y = .inf b → sumFl k x y = (infWord k (b != false), Fx.clear)) ∧
    (∀ a b, x = .inf a → y = .inf b →
      sumFl k x y = if a = (b != false) then (infWord k a, Fx.clear) else (nanWord k, Fx.IV)) ∧
    NanRow k [x, y] (sumFl k x y) := by
  refine ⟨rounded_sumFl hx hy, ?_, ?_, ?_, nanRow_table28 _ _ _⟩
  · rintro a rfl fy
    exact sumFl_inf_fin fy
  · rintro b fx rfl
    rw [Bool.bne_false]
    exact sumFl_fin_inf fx
  · rintro a b rfl rfl
    rw [Bool.bne_false]
    exact sumFl_inf_inf

theorem sub_clauses {k : FKind} {x y : Fl} (hx : x.Read k) (hy : y.Read k) :
    (x.isFin = true → y.isFin = true → Rounded k (x.rat - y.rat) (diffFl k x y)) ∧
    (∀ a, x = .inf a → y.isFin = true → diffFl k x y = (infWord k a, Fx.clear)) ∧
    (∀ b, x.isFin = true → y = .inf b → diffFl k x y = (infWord k (b != true), Fx.clear)) ∧
    (∀ a b, x = .inf a → y = .inf b →
      diffFl k x y = if a = (b != true) then (infWord k a, Fx.clear) else (nanWord k, Fx.IV)) ∧
    NanRow k [x, y] (diffFl k x y) := by
  refine ⟨fun fx fy => ?_, ?_, ?_, ?_, nanRow_diffFl _ _ _⟩
  · rw [sub_eq_add_neg, ← rat_neg]
    exact rounded_sumFl hx hy.neg fx (by rwa [isFin_neg])
  · rintro a rfl fy
    exact sumFl_inf_fin (by rwa [isFin_neg])
  · rintro b fx rfl
    rw [Bool.bne_true]
    exact sumFl_fin_inf fx
  · rintro a b rfl rfl
    rw [Bool.bne_true]
    exact sumFl_inf_inf

/-! ### The statement -/

section
variable {s : State} {c : Ctx}

/-- The clauses of FMUL. -/
theorem mul_clauses {k : FKind} {x y : Fl} (hx : x.Read k) (hy : y.Read k) :
    (x.isFin = true → y.isFin = true → Rounded k (x.rat * y.rat) (mulFl k x y)) ∧
    (∀ neg, InfProduct x y neg → mulFl k x y = (infWord k neg, Fx.clear)) ∧
    (BadProduct x y → mulFl k x y = (nanWord k, Fx.IV)) ∧ NanRow k [x, y] (mulFl k x y) :=
  ⟨rounded_mulFl hx hy, fun _ => mulFl_of_infProduct, mulFl_of_badProduct, nanRow_table28 _ _ _⟩

/-- The clauses of FMA. -/
theorem fma_clauses {k : FKind} {x y w : Fl} (hx : x.Read k) (hy : y.Read k) (hw : w.Read k) :
    (x.isFin = true → y.isFin = true → w.isFin = true → Rounded k (x.rat * y.rat + w.rat) (fmaFl k x y w)) ∧
    (∀ a, x.isFin = true → y.isFin = true → w = .inf a → fmaFl k x y w = (infWord k a, Fx.clear)) ∧
    (∀ neg, InfProduct x y neg →
      (w.isFin = true → fmaFl k x y w = (infWord k neg, Fx.clear)) ∧
      (∀ b, w = .inf b → fmaFl k x y w = if b = neg then (infWord k neg, Fx.clear) else (nanWord k, Fx.IV))) ∧
    (BadProduct x y → w.isNan = false → fmaFl k x y w = (nanWord k, Fx.IV)) ∧ NanRow k [x, y, w] (fmaFl k x y w) := by
  refine ⟨rounded_fmaFl hx hy hw, ?_, fun neg h => ⟨fmaFl_of_infProduct_fin h, ?_⟩, fmaFl_of_badProduct, nanRow_table28 _ _ _⟩
  · rintro a fx fy rfl
    exact fmaFl_fin_inf fx fy
  · rintro b rfl
    exact fmaFl_of_infProduct_inf h

/-- The type of an instruction that takes F27 alone. -/
theorem ty_of_f27 {f : FA} {d pred : Int} {n : Nat} {srcs : List Use} {q r : Bool} {acc : Accept}
    (h : AluFree c d n srcs pred (q && (f.ty == 3 && r)) acc) : fkindA f.ty = .f27 := by
  obtain ⟨⟨⟨-, hf, -⟩, -⟩, -⟩ := h
  simp only [Bool.and_eq_true, beq_iff_eq] at hf
  simp [hf.1.2.1, fkindA]

/-- The clauses of FDIV. -/
theorem div_clauses (n m a b : Int) (p : Nat) :
    let x := c.fl .f27 n a p 0
    let y := c.fl .f27 m b p 0
    let z := flDiv .f27 (c.el .f27 n a p 0) (c.el .f27 m b p 0)
    NanRow .f27 [x, y] z ∧
    (x.isFin = true → x.rat = 0 → y.isFin = true → y.rat = 0 → z = (nanWord .f27, Fx.IV)) ∧
    (x.isFin = true → x.rat = 0 → y.isFin = true → y.rat ≠ 0 → z = (zeroWord .f27, Fx.clear)) ∧
    (x.isFin = true → x.rat ≠ 0 → y.isFin = true → y.rat = 0 → z = (infWord .f27 (decide (x.rat < 0)), Fx.DZ)) ∧
    (∀ a, x = .inf a → y.isFin = true → z = (infWord .f27 (a != decide (y.rat < 0)), Fx.clear)) ∧
    (∀ a, y = .inf a → x.isFin = true → z = (zeroWord .f27, Fx.clear)) ∧
    (∀ a b, x = .inf a → y = .inf b → z = (nanWord .f27, Fx.IV)) ∧
    (x.isFin = true → y.isFin = true → x.rat ≠ 0 → y.rat ≠ 0 → RoundedTo ((x.rat / y.rat : Rat) : Real) z) := by
  intro x y z
  have rx : x.Read .f27 := fl_read _ _ _ _ _ _
  have ry : y.Read .f27 := fl_read _ _ _ _ _ _
  have hx : readFl .f27 (c.el .f27 n a p 0) = x := rfl
  have hy : readFl .f27 (c.el .f27 m b p 0) = y := rfl
  clear_value x y
  refine ⟨?_, fun fx h0 fy h1 => ?_, fun fx h0 fy h1 => ?_, fun fx h0 fy h1 => ?_, fun i h0 fy => ?_, fun i h0 fx => ?_,
    fun i j h0 h1 => flDiv_inf_inf (hx.trans h0) (hy.trans h1), fun fx fy h0 h1 => ?_⟩
  · rw [← hx, ← hy]
    exact nanRow_table28 _ _ _
  · obtain ⟨i, e, rfl⟩ := exists_of_isFin fx
    obtain ⟨j, f, rfl⟩ := exists_of_isFin fy
    obtain rfl := rat_eq_zero_iff.mp h0
    obtain rfl := rat_eq_zero_iff.mp h1
    exact flDiv_zero_zero hx hy
  · obtain ⟨i, e, rfl⟩ := exists_of_isFin fx
    obtain ⟨j, f, rfl⟩ := exists_of_isFin fy
    obtain rfl := rat_eq_zero_iff.mp h0
    exact flDiv_zero_fin hx hy (mt rat_eq_zero_iff.mpr h1)
  · obtain ⟨i, e, rfl⟩ := exists_of_isFin fx
    obtain ⟨j, f, rfl⟩ := exists_of_isFin fy
    obtain rfl := rat_eq_zero_iff.mp h1
    rw [decide_eq_decide.mpr rat_neg_iff]
    exact flDiv_fin_zero hx hy (mt rat_eq_zero_iff.mpr h0)
  · obtain ⟨j, f, rfl⟩ := exists_of_isFin fy
    rw [decide_eq_decide.mpr rat_neg_iff]
    exact flDiv_inf_fin (hx.trans h0) hy
  · obtain ⟨i, e, rfl⟩ := exists_of_isFin fx
    exact flDiv_fin_inf hx (hy.trans h0)
  · obtain ⟨i, e, rfl⟩ := exists_of_isFin fx
    obtain ⟨j, f, rfl⟩ := exists_of_isFin fy
    exact (flDiv_fin_spec rx ry hx hy (mt rat_eq_zero_iff.mpr h0) (mt rat_eq_zero_iff.mpr h1)).1

/-- The clauses of FSQRT, FRCP and FRSQ. -/
theorem root_clauses (n a : Int) (p : Nat) :
    let x := c.fl .f27 n a p 0
    let zq := flSqrt .f27 (c.el .f27 n a p 0)
    let zr := flRcp .f27 (c.el .f27 n a p 0)
    let zs := flRsq .f27 (c.el .f27 n a p 0)
    (x.isFin = true → x.rat = 0 →
      zq = (zeroWord .f27, Fx.clear) ∧ zr = (infWord .f27 false, Fx.DZ) ∧ zs = (infWord .f27 false, Fx.DZ)) ∧
    (NanRow .f27 [x] zq ∧ NanRow .f27 [x] zr ∧ NanRow .f27 [x] zs) ∧
    (x = .inf true → zq = (nanWord .f27, Fx.IV) ∧ zr = (zeroWord .f27, Fx.clear) ∧ zs = (nanWord .f27, Fx.IV)) ∧
    (x = .inf false →
      zq = (infWord .f27 false, Fx.clear) ∧ zr = (zeroWord .f27, Fx.clear) ∧ zs = (zeroWord .f27, Fx.clear)) ∧
    (x.isFin = true → x.rat < 0 → zq = (nanWord .f27, Fx.IV) ∧ zs = (nanWord .f27, Fx.IV)) ∧
    (x.isFin = true → x.rat ≠ 0 → RoundedTo ((1 / x.rat : Rat) : Real) zr) ∧
    (x.isFin = true → 0 < x.rat → RoundedTo (Real.sqrt x.rat) zq ∧ RoundedTo (1 / Real.sqrt x.rat) zs) := by
  intro x zq zr zs
  have rx : x.Read .f27 := fl_read _ _ _ _ _ _
  have hx : readFl .f27 (c.el .f27 n a p 0) = x := rfl
  clear_value x
  refine ⟨fun fx h0 => ?_, ⟨?_, ?_, ?_⟩, fun h0 => ?_, fun h0 => ?_, fun fx h0 => ?_, fun fx h0 => ?_, fun fx h0 => ?_⟩
  · obtain ⟨m, e, rfl⟩ := exists_of_isFin fx
    obtain rfl := rat_eq_zero_iff.mp h0
    exact ⟨flSqrt_fin hx, flRcp_fin hx, flRsq_fin hx⟩
  · rw [← hx]
    exact nanRow_table28 _ _ _
  · rw [← hx]
    exact nanRow_table28 _ _ _
  · rw [← hx]
    exact nanRow_table28 _ _ _
  · exact ⟨flSqrt_inf (hx.trans h0), flRcp_inf (hx.trans h0), flRsq_inf (hx.trans h0)⟩
  · exact ⟨flSqrt_inf (hx.trans h0), flRcp_inf (hx.trans h0), flRsq_inf (hx.trans h0)⟩
  · obtain ⟨m, e, rfl⟩ := exists_of_isFin fx
    have hm := rat_neg_iff.mp h0
    exact ⟨(flSqrt_fin hx).trans (if_pos hm), (flRsq_fin hx).trans (if_pos hm)⟩
  · obtain ⟨m, e, rfl⟩ := exists_of_isFin fx
    have hm : m ≠ 0 := mt rat_eq_zero_iff.mpr h0
    have hz : zr = _ := (flRcp_fin hx).trans (if_neg hm)
    rw [hz]
    exact (roundRat_rcp_spec rx hm).1
  · obtain ⟨m, e, rfl⟩ := exists_of_isFin fx
    have h1 : ¬ m < 0 := mt rat_neg_iff.mpr h0.not_gt
    have h2 : m ≠ 0 := mt rat_eq_zero_iff.mpr h0.ne'
    have hq : zq = _ := (flSqrt_fin hx).trans ((if_neg h1).trans (if_neg h2))
    have hs : zs = _ := (flRsq_fin hx).trans ((if_neg h1).trans (if_neg h2))
    rw [hq, hs]
    exact ⟨(roundSqrt_fin_spec rx (by omega)).1, (roundSqrt_rsq_spec rx (by omega)).1⟩

/-- FADD and FSUB. -/
theorem addSub_results {f : FA} (hi : Issuing s c)
    (h : AluFree c f.dst 1 [src f.a, src f.b] f.pred (predOk f.pred && fAll f.ty) accAB) :
    let k := fkindA f.ty
    ∀ q ∈ ([(.fadd f, (fun x y => x + y), false), (.fsub f, (fun x y => x - y), true)] : List (Instr × (Rat → Rat → Rat) × Bool)),
      ∃ z : Nat → Nat → Int × Fx, FloatResult s c q.1 f.dst f.pred k z ∧
        ∀ p, ∀ j < elems k.width,
          let x := c.fl k c.mod.na f.a p j
          let y := c.fl k c.mod.nb f.b p j
          (x.isFin = true → y.isFin = true → Rounded k (q.2.1 x.rat y.rat) (z p j)) ∧
          (∀ a, x = .inf a → y.isFin = true → z p j = (infWord k a, Fx.clear)) ∧
          (∀ b, x.isFin = true → y = .inf b → z p j = (infWord k (b != q.2.2), Fx.clear)) ∧
          (∀ a b, x = .inf a → y = .inf b →
            z p j = if a = (b != q.2.2) then (infWord k a, Fx.clear) else (nanWord k, Fx.IV)) ∧
          NanRow k [x, y] (z p j) := by
  intro k q hq
  simp only [List.mem_cons, List.not_mem_nil, or_false] at hq
  rcases hq with rfl | rfl
  · exact ⟨_, floatResult_AB hi h rfl fun x y hx hy => abs_sumFl_le (readFl_read hx) (readFl_read hy),
      fun p j _ => add_clauses (fl_read ..) (fl_read ..)⟩
  · have e (x y : Int) : flAdd k x (negFl k y) = diffFl k (readFl k x) (readFl k y) := by
      rw [flAdd_eq, readFl_negFl]; rfl
    refine ⟨_, floatResult_AB hi h (execFsub_eq f s) fun x y hx hy => ?_, fun p j _ => ?_⟩
    · rw [e]
      exact abs_sumFl_le (readFl_read hx) (readFl_read hy).neg
    · rw [e]
      exact sub_clauses (fl_read ..) (fl_read ..)

end

/-- Settles O15: sums,
    products and product-sums are exact values that `roundT` rounds; quotients and roots are positive
reals that `roundG` sees through their floors, with the sign put back. -/
theorem floatArithmeticResults : Obligations.FloatArithmeticResults := by
  refine ⟨fun s c hi => ⟨fun f h => ⟨addSub_results hi h, ?_⟩, fun f h => ?_⟩, fun s c f hi => ⟨fun h => ?_, fun h => ?_⟩⟩
  · exact ⟨_, floatResult_AB hi h rfl fun x y hx hy => abs_mulFl_le (readFl_read hx) (readFl_read hy),
      fun p j _ => mul_clauses (fl_read ..) (fl_read ..)⟩
  · refine ⟨_, floatResult_of_exec (g := fun p j => flFma (fkindC f.ty) (c.el _ c.mod.na f.a p j) (c.el _ c.mod.nb f.b p j)
      (c.el _ c.mod.nc f.c p j)) (withRow_ok hi (alu_ok (a := ⟨f.dst, 1, _, c.mod.pred, _, _⟩) h)) fun p j _ =>
        abs_fmaFl_le (fl_read ..) (fl_read ..) (fl_read ..), fun p j _ => fma_clauses (fl_read ..) (fl_read ..) (fl_read ..)⟩
  · have hk : fkindA f.ty = .f27 := ty_of_f27 (r := true) (by simpa using h)
    have := floatResult_AB (i := .fdiv f) (g := flDiv) hi h rfl (by rw [hk]; exact fun x y => abs_flDiv_le)
    rw [hk] at this
    exact ⟨_, this, fun p => div_clauses _ _ _ _ p⟩
  · have hk : fkindA f.ty = .f27 := ty_of_f27 h
    have hq := floatResult_A (i := .fsqrt f) (g := flSqrt) hi h rfl (by rw [hk]; exact fun x => abs_flSqrt_le)
    have hr := floatResult_A (i := .frcp f) (g := flRcp) hi h rfl (by rw [hk]; exact fun x => abs_flRcp_le)
    have hs := floatResult_A (i := .frsq f) (g := flRsq) hi h rfl (by rw [hk]; exact fun x => abs_flRsq_le)
    rw [hk] at hq hr hs
    exact ⟨_, _, _, hq, hr, hs, fun p => root_clauses _ _ p⟩

end Sys2Proof.Machine
end

section
/-! ## Conversions (O17)

The operand of CVT as its elements; the integers of floats by mode; numbers of several words; X81 cells; the binary
interchange patterns, whose magnitudes rise strictly, so that the pattern nearest to a value is found between its
neighbours; the clauses by the legal pair of kinds. -/
namespace Sys2Proof.Machine

/-! ### Operands of CVT (09 R168) -/

theorem abs_wval_le (w : Word) : |wval w| ≤ maxT 27 := by
  have h := w.isLt
  rw [maxT_27, abs_le]
  unfold wval
  split <;> omega

/-- What an instruction reads is a word. -/
theorem abs_rd_le (c : Ctx) (f : Int) (p : Nat) : |rd c f p| ≤ maxT 27 := by
  unfold rd
  split
  · exact abs_wval_le _
  split
  · exact abs_wval_le _
  split
  · exact abs_wval_le _
  · exact abs_wrapT_le _ _

theorem succReg_zero (b : Bool) (f : Int) : succReg b f 0 = f := by
  simp [succReg]

theorem rdGroup_eq (c : Ctx) (f : Int) (n p : Nat) : rdGroup c f n p = groupValue c f n p := by
  unfold rdGroup groupValue
  rw [List.sum_eq_foldl, List.foldl_map]

theorem groupValue_one (c : Ctx) (f : Int) (p : Nat) : groupValue c f 1 p = rd c f p := by
  simp [groupValue, succReg_zero]

theorem abs_groupValue_three_le (c : Ctx) (f : Int) (p : Nat) : |groupValue c f 3 p| < 3 ^ 82 := by
  have h0 := abs_rd_le c (succReg c.gen0 f 0) p
  have h1 := abs_rd_le c (succReg c.gen0 f 1) p
  have h2 := abs_rd_le c (succReg c.gen0 f 2) p
  have e : groupValue c f 3 p = rd c (succReg c.gen0 f 0) p + rd c (succReg c.gen0 f 1) p * 3 ^ 27 +
      rd c (succReg c.gen0 f 2) p * 3 ^ 54 := by
    simp [groupValue, List.range_succ, add_assoc]
  rw [maxT_27, abs_le] at h0 h1 h2
  rw [e, abs_lt]
  omega

/-- MODH may negate the operand of a float format alone. -/
def CvtKind.negates : CvtKind → Bool
  | .fl _ => true
  | _ => false

/-- CVT completes with what `cvtOne` gives of its operand (09 R169). -/
theorem exec_cvt {s : State} {c : Ctx} {f : FA} {fn : Int} {a : CvtKind} (hi : Issuing s c)
    (hs : cvtSrc fn = some a)
    (hl : cvtLegal a (cvtDst f.ty) = true)
    (h : AluFree c f.dst (cvtDst f.ty).words
      ({ src f.a with n := a.words } :: (if a = .x81 ∨ cvtDst f.ty = .x81 then [src f.b] else []))
      f.pred (predOk f.pred && cvtB a (cvtDst f.ty) f && groupOk c f.a a.words && groupOk c f.dst (cvtDst f.ty).words)
      { na := a.negates }) :
    exec (.cvt fn f) s = .next (s.computed c f.dst f.pred (fun p => cvtOne a (cvtDst f.ty) f.b (rd c f.b p)
      (if c.mod.na = 1 then cvtNeg a (groupValue c f.a a.words p) else groupValue c f.a a.words p))) := by
  refine withRow_ok hi ?_
  simp only [hs, Option.getD_some, Option.isSome_some, hl, Bool.and_true, Bool.true_and, if_true, decide_eq_true_eq, rdGroup_eq]
  exact alu_ok (a := ⟨f.dst, (cvtDst f.ty).words, _, f.pred, _, _⟩) h

theorem width_f9 {k : FKind} (h : k ≠ .f27) : k.width = 9 := by
  cases k
  · exact absurd rfl h
  · rfl
  · rfl

/-- The operand of a conversion from a float format, after negation, element by element. -/
theorem readFl_cvt_operand (c : Ctx) (k : FKind) (f : Int) (p : Nat) {i : Nat} (hi : i < elems k.width) :
    readFl k (elem (if c.mod.na = 1 then cvtNeg (.fl k) (groupValue c f 1 p) else groupValue c f 1 p) k.width i) =
      cvtFl c k f p i := by
  rw [groupValue_one, cvtFl]
  split
  · congr 1
    by_cases hk : k = .f27
    · subst hk
      obtain rfl : i = 0 := Nat.lt_one_iff.mp hi
      have h := abs_rd_le c f p
      have e (x : Int) (hx : |x| ≤ maxT 27) : elem x FKind.f27.width 0 = x := by
        rw [elem, Nat.mul_zero, field_zero]
        exact wrapT_of_abs_le hx
      rw [e _ h]
      exact e _ (abs_negFl_le (k := .f27) h)
    · have hw := width_f9 hk
      have hc (x : Int) : cvtNeg (.fl k) x = (perElem 9 (fun j => (negFl k (elem x 9 j), Fx.clear))).1 := by
        cases k
        · exact absurd rfl hk
        · rfl
        · rfl
      rw [hw] at hi ⊢
      rw [hc]
      exact isWord_perElem (f := fun j => (negFl k (elem (rd c f p) 9 j), Fx.clear))
        (fun j _ => by simpa [hw] using abs_negFl_le (k := k) (x := elem (rd c f p) 9 j) (by rw [hw]; exact abs_field_le _ _ _)) i hi
  · rfl

/-! ### Integers of floats (02 R36, Table 2.11) -/

/-- n is the integer that a mode of 02 Table 2.11 makes of q. -/
def IntOf (mode : Int) (q : Rat) (n : Int) : Prop :=
  (mode = 0 → 2 * |(n : Rat) - q| < 1) ∧ (mode = -1 → n = Int.floor q) ∧ (mode = 1 → n = Int.ceil q) ∧
    (mode = 3 → |(n : Rat)| ≤ |q| ∧ |(n : Rat) - q| < 1 ∧ 0 ≤ n * q)

theorem intOf_self (mode n : Int) : IntOf mode n n := by
  refine ⟨fun _ => by simp, fun _ => by simp, fun _ => by simp, fun _ => ⟨le_rfl, by simp, ?_⟩⟩
  exact mul_self_nonneg _

theorem floor_div_pow (m : Int) (d : Nat) : Int.floor ((m : Rat) / 3 ^ d) = m / 3 ^ d := by
  have h := Rat.floor_intCast_div_natCast m (3 ^ d)
  push_cast at h
  exact h

theorem ceil_div_pow (m : Int) (d : Nat) : Int.ceil ((m : Rat) / 3 ^ d) = -((-m) / 3 ^ d) := by
  have h := floor_div_pow (-m) d
  push_cast at h
  rw [← h, neg_div, Int.floor_neg, neg_neg]

/-- Dropping the fraction goes towards zero by less than one. -/
theorem trunc_spec (m : Int) (d : Nat) :
    |(Int.tdiv m (3 ^ d) : Rat)| ≤ |(m : Rat) / 3 ^ d| ∧ |(Int.tdiv m (3 ^ d) : Rat) - (m : Rat) / 3 ^ d| < 1 ∧
      (0 : Rat) ≤ Int.tdiv m (3 ^ d) * ((m : Rat) / 3 ^ d) := by
  have key (x : Int) (hx : 0 ≤ x) : (0 : Rat) ≤ ((x / 3 ^ d : Int) : Rat) ∧ ((x / 3 ^ d : Int) : Rat) ≤ (x : Rat) / 3 ^ d ∧
      (x : Rat) / 3 ^ d < ((x / 3 ^ d : Int) : Rat) + 1 := by
    have hx' : (0 : Rat) ≤ x := by exact_mod_cast hx
    rw [← floor_div_pow]
    exact ⟨Int.cast_nonneg (Int.floor_nonneg.mpr (div_nonneg hx' (by positivity))), Int.floor_le _, Int.lt_floor_add_one _⟩
  rcases le_or_gt 0 m with hm | hm
  · obtain ⟨h0, h1, h2⟩ := key m hm
    rw [Int.tdiv_eq_ediv_of_nonneg hm, abs_of_nonneg h0, abs_of_nonneg (h0.trans h1), abs_sub_comm, abs_lt]
    exact ⟨h1, ⟨by linarith, by linarith⟩, mul_nonneg h0 (h0.trans h1)⟩
  · obtain ⟨h0, h1, h2⟩ := key (-m) (by omega)
    have e : Int.tdiv m (3 ^ d) = -((-m) / 3 ^ d) := by
      rw [← Int.tdiv_eq_ediv_of_nonneg (by omega), Int.neg_tdiv, neg_neg]
    have e2 : (m : Rat) / 3 ^ d = -(((-m : Int) : Rat) / 3 ^ d) := by push_cast; ring
    rw [e, e2]
    generalize ((-m : Int) : Rat) / 3 ^ d = q at *
    push_cast
    rw [abs_neg, abs_neg, abs_of_nonneg h0, abs_of_nonneg (h0.trans h1), abs_lt]
    refine ⟨h1, ⟨by linarith, by linarith⟩, ?_⟩
    rw [neg_mul_neg]
    exact mul_nonneg h0 (h0.trans h1)

/-- `roundInt` makes the integer of its mode, and says whether it is inexact. -/
theorem roundInt_spec (mode m e : Int) : IntOf mode (m * (3 : Rat) ^ e) (roundInt mode m e).1 ∧
    (roundInt mode m e).2 = decide (((roundInt mode m e).1 : Rat) ≠ m * (3 : Rat) ^ e) := by
  unfold roundInt
  split
  next h =>
    obtain ⟨d, rfl⟩ := Int.eq_ofNat_of_zero_le h
    have e1 : (m : Rat) * (3 : Rat) ^ (d : Int) = ((m * 3 ^ d : Int) : Rat) := by push_cast; rw [zpow_natCast]
    rw [e1, Int.toNat_natCast]
    exact ⟨intOf_self _ _, by simp⟩
  next h =>
    obtain ⟨d, hd⟩ := Int.eq_ofNat_of_zero_le (show 0 ≤ -e by omega)
    have e1 : (m : Rat) * (3 : Rat) ^ e = (m : Rat) / 3 ^ d := by
      rw [show e = -(d : Int) by omega, zpow_neg, zpow_natCast, div_eq_mul_inv]
    have hp : (0 : Rat) < 3 ^ d := by positivity
    have hp' : (3 : Int) ^ d ≠ 0 := by positivity
    rw [e1, hd, Int.toNat_natCast]
    dsimp only
    have hex (n : Int) : (n : Rat) = (m : Rat) / 3 ^ d ↔ n * 3 ^ d = m := by
      rw [eq_div_iff hp.ne']
      exact_mod_cast Iff.rfl
    refine ⟨⟨fun h0 => ?_, fun h1 => ?_, fun h1 => ?_, fun h3 => ?_⟩, decide_eq_decide.mpr (not_congr ?_)⟩
    · have h2 := scaleT_nearest m (-(d : Int))
      rw [zpow_neg, zpow_natCast, ← div_eq_mul_inv] at h2
      have e2 : scaleT m (-(d : Int)) = dropT m d := by
        rcases d with _ | d
        · simp [scaleT, dropT]
        · rw [scaleT, if_neg (by omega), neg_neg, Int.toNat_natCast]
      rw [e2] at h2
      simpa [h0] using h2
    · simp [h1, floor_div_pow]
    · simp [h1, ceil_div_pow]
    · simpa [h3] using trunc_spec m d
    · rw [hex]
      constructor
      · intro hm
        obtain ⟨n, rfl⟩ := Int.dvd_of_emod_eq_zero hm
        have w0 : wrapT d (3 ^ d * n) = 0 := wrapT_eq_of_dvd (by simpa using maxT_nonneg d) (by simp)
        split
        · have := wrapT_add_dropT (3 ^ d * n) d
          rw [w0] at this
          linarith
        split
        · rw [Int.mul_ediv_cancel_left _ hp', mul_comm]
        split
        · rw [← mul_neg, Int.mul_ediv_cancel_left _ hp', neg_neg, mul_comm]
        · rw [Int.mul_tdiv_cancel_left _ hp', mul_comm]
      · intro hm
        rw [← hm]
        exact Int.mul_emod_left _ _

theorem satT_of_abs_le {x b : Int} (h : |x| ≤ b) : satT x (-b) b = x := by
  rw [abs_le] at h
  simp [satT, h.1.not_gt, h.2.not_gt]

theorem satT_of_lt_abs {x b : Int} (hb : 0 ≤ b) (h : b < |x|) : satT x (-b) b = if x < 0 then -b else b := by
  unfold satT
  rcases lt_abs.mp h with h | h
  · rw [if_neg (by omega), if_pos (by omega), if_neg (by omega)]
  · rw [if_pos (by omega), if_pos (by omega)]

/-- The integer of a finite value, saturated. -/
theorem toT27_fin {k : FKind} {x m e : Int} (mode : Int) (hx : readFl k x = .fin m e) : ∃ n : Int,
    (|n| ≤ maxT 27 → toT27 k mode x = (n, Fx.cond (decide ((n : Rat) ≠ (Fl.fin m e).rat)) Fx.NX)) ∧
    (maxT 27 < |n| → toT27 k mode x = (if n < 0 then -(maxT 27) else maxT 27, Fx.IV)) ∧ IntOf mode (Fl.fin m e).rat n := by
  have hz (r : Int × Bool) (hr : roundInt mode m (min e 60) = r) :
      (|r.1| ≤ maxT 27 → toT27 k mode x = (r.1, Fx.cond r.2 Fx.NX)) ∧
      (maxT 27 < |r.1| → toT27 k mode x = (if r.1 < 0 then -(maxT 27) else maxT 27, Fx.IV)) := by
    unfold toT27
    simp only [hx, hr]
    refine ⟨fun h => ?_, fun h => ?_⟩
    · rw [if_pos (satT_of_abs_le h)]
    · have hs := satT_of_lt_abs (maxT_nonneg 27) h
      rw [if_neg, hs]
      rw [hs]
      intro e
      rw [← e] at h
      have := maxT_nonneg 27
      split at h
      · rw [abs_neg, abs_of_nonneg this] at h
        exact h.ne rfl
      · rw [abs_of_nonneg this] at h
        exact h.ne rfl
  rcases le_or_gt e 60 with he | he
  · obtain ⟨h1, h2⟩ := hz _ rfl
    rw [min_eq_left he] at h1 h2
    obtain ⟨i1, i2⟩ := roundInt_spec mode m e
    refine ⟨_, fun h => ?_, h2, i1⟩
    rw [h1 h, i2]
    rfl
  · obtain ⟨d, hd⟩ := Int.eq_ofNat_of_zero_le (show 0 ≤ e - 60 by omega)
    obtain ⟨h1, h2⟩ := hz (m * 3 ^ 60, false) (by rw [min_eq_right he.le]; rfl)
    have e1 : (Fl.fin m e).rat = ((m * 3 ^ 60 * 3 ^ d : Int) : Rat) := by
      simp only [Fl.rat]
      rw [show e = ((60 + d : Nat) : Int) by push_cast; omega, zpow_natCast, pow_add]
      push_cast
      ring
    rw [e1]
    have hp : (0 : Int) < 3 ^ d := by positivity
    have hlt : (m * 3 ^ 60 * 3 ^ d < 0) = (m * 3 ^ 60 < 0) := propext (by rw [mul_neg_iff]; omega)
    have hbig (hm : m ≠ 0) : maxT 27 < |m * 3 ^ 60| := by
      rw [abs_mul, maxT_27]
      have := Int.one_le_abs hm
      norm_num
      omega
    refine ⟨m * 3 ^ 60 * 3 ^ d, fun h => ?_, fun h => ?_, intOf_self _ _⟩
    · have hm : m = 0 := by
        by_contra hm
        rw [abs_mul, abs_of_pos hp] at h
        exact ((hbig hm).trans_le (le_mul_of_one_le_right (abs_nonneg _) hp)).not_ge h
      rw [h1 (by simp [hm, maxT_nonneg])]
      simp [hm]
    · simp only [hlt]
      exact h2 (hbig (by rintro rfl; simp [(maxT_nonneg 27).not_gt] at h))
/-! ### Words of a number of several (00 R5) -/

theorem abs_add_mul_pow_le {a b : Int} {n m : Nat} (ha : |a| ≤ maxT n) (hb : |b| ≤ maxT m) :
    |a + 3 ^ n * b| ≤ maxT (n + m) := by
  have h1 := two_mul_maxT_add_one n
  have h2 := two_mul_maxT_add_one m
  have h3 := two_mul_maxT_add_one (n + m)
  have hp : (0 : Int) < 3 ^ n := by positivity
  have : |b| * 3 ^ n ≤ maxT m * 3 ^ n := mul_le_mul_of_nonneg_right hb hp.le
  have h4 : |a + 3 ^ n * b| ≤ |a| + |b| * 3 ^ n := by
    calc |a + 3 ^ n * b| ≤ |a| + |3 ^ n * b| := abs_add_le _ _
      _ = |a| + |b| * 3 ^ n := by rw [abs_mul, abs_of_pos hp, mul_comm]
  rw [pow_add] at h3
  nlinarith

/-- The low trits, and the next. -/
theorem wrapT_add_field (n m : Nat) (x : Int) : wrapT n x + 3 ^ n * field x n m = wrapT (n + m) x := by
  rw [field_eq_wrapT_dropT]
  refine (wrapT_eq_of_dvd (abs_add_mul_pow_le (abs_wrapT_le _ _) (abs_wrapT_le _ _)) ?_).symm
  have h : x - (wrapT n x + 3 ^ n * wrapT m (dropT x n)) = 3 ^ n * (dropT x n - wrapT m (dropT x n)) := by
    nth_rw 1 [← wrapT_add_dropT x n]
    ring
  rw [h, pow_add]
  exact mul_dvd_mul_left _ (dvd_sub_wrapT _ _)

theorem wordOf_zero (x : Int) : wordOf x 0 = wrapT 27 x := field_zero x 27

/-- A number of two words. -/
theorem wordOf_two {x : Int} (h : |x| ≤ maxT 54) : wordOf x 0 + wordOf x 1 * 3 ^ 27 = x := by
  have := wrapT_add_field 27 27 x
  rw [wordOf_zero, mul_comm, wordOf, this]
  exact wrapT_of_abs_le h

/-- A number of three words. -/
theorem wordOf_three {x : Int} (h : |x| ≤ maxT 81) :
    wordOf x 0 + wordOf x 1 * 3 ^ 27 + wordOf x 2 * 3 ^ 54 = x := by
  have h1 := wrapT_add_field 27 27 x
  have h2 := wrapT_add_field 54 27 x
  rw [wordOf_zero, mul_comm (wordOf x 1), mul_comm (wordOf x 2), wordOf, wordOf, h1, h2]
  exact wrapT_of_abs_le h

/-! ### X81 cells (02 R40, R41) -/

/-- A value beyond the range rounds to an infinity. -/
theorem rounded_of_large {q : Rat} (h : (3 : Rat) ^ (364 : Int) ≤ 2 * |q|) :
    Rounded .f27 q (infWord .f27 (decide (q < 0)), Fx.OFNX) := by
  have hp : (0 : Rat) < (3 : Rat) ^ (364 : Int) := by positivity
  have hlt (e : Int) (he : 2 * |q| < (3 : Rat) ^ (e + 1)) : 364 ≤ e := by
    have := (zpow_lt_zpow_iff_right₀ (by norm_num : (1 : Rat) < 3)).mp (h.trans_lt he)
    omega
  have ht : FKind.f27.top = 364 := rfl
  refine ⟨fun h0 => ?_, fun e _ he => ⟨fun _ => rfl, fun h1 _ => ?_, fun _ h1 => ?_, fun h1 => absurd rfl h1⟩⟩
  · rw [h0, abs_zero, mul_zero] at h
    exact absurd h hp.not_ge
  · have := hlt e he
    omega
  · have := hlt e he
    omega

/-- A value below half the least unit rounds to zero. -/
theorem rounded_of_small {q : Rat} (h0 : q ≠ 0) (h : 2 * |q| < (3 : Rat) ^ (-384 : Int)) :
    Rounded .f27 q (mkFl .f27 (-364) 0, Fx.UFNX) := by
  have hlt (e : Int) (he : (3 : Rat) ^ e < 2 * |q|) : e < -384 :=
    (zpow_lt_zpow_iff_right₀ (by norm_num : (1 : Rat) < 3)).mp (he.trans h)
  have ht : FKind.f27.top = 364 := rfl
  refine ⟨fun h1 => absurd h1 h0, fun e he _ => ⟨fun h1 => ?_, fun _ h1 => ?_, fun _ _ => ⟨0, rfl, by simpa using h, ?_⟩,
    fun h1 => absurd rfl h1⟩⟩
  · have := hlt e he
    omega
  · have := hlt e he
    rcases h1 with h1 | ⟨-, h1⟩ <;> omega
  · simp [h0.symm, Fx.cond]

/-- F27 of a cell and a scale, however great the scale is. -/
theorem rounded_x81 {x : Int} (hx : |x| < 3 ^ 82) (k : Int) :
    Rounded .f27 (x * (3 : Rat) ^ k) (roundT .f27 x (satT k (-3000) 3000)) := by
  have hs : Short x := .of_lt hx (by norm_num)
  by_cases h0 : x = 0
  · subst h0
    have e : roundT .f27 0 (satT k (-3000) 3000) = roundT .f27 0 k := by simp [roundT]
    rw [e]
    exact rounded_roundT .f27 k hs
  obtain ⟨n, hn, hn1, hn2⟩ := tlen_spec h0 hs
  have hn82 : n < 83 := by
    have : (3 : Int) ^ n < 3 ^ 83 := by
      rw [pow_succ 3 82]
      omega
    exact (pow_lt_pow_iff_right₀ (by norm_num)).mp this
  obtain ⟨b1, b2⟩ := tlen_bracket k h0 hs
  have hp : (0 : Rat) < (3 : Rat) ^ k := by positivity
  have hneg : decide ((x : Rat) * (3 : Rat) ^ k < 0) = decide (x < 0) :=
    decide_eq_decide.mpr (by simp [mul_neg_iff, hp, hp.not_gt])
  unfold satT
  split
  next hk =>
    have hu : (-3000 : Int) + tlen x - 1 < -364 := by omega
    have hsc : scaleT x (-3000 - -384) = 0 := by
      have := abs_scaleT_le_of_short (n := 0) h0 hs (e := -3000 - -384) (by push_cast; omega)
      simpa [maxT] using this
    rw [roundT_of_subnormal h0 hu, scaleT_unit_exact, hsc]
    have hne : (x : Rat) * (3 : Rat) ^ (-3000 : Int) ≠ 0 := mul_ne_zero (by exact_mod_cast h0) (by positivity)
    rw [decide_eq_true (by simpa using hne.symm)]
    refine rounded_of_small (mul_ne_zero (by exact_mod_cast h0) hp.ne') (b2.trans_le ?_)
    exact zpow_le_zpow_right₀ (by norm_num) (by omega)
  split
  next hk =>
    have ho : FKind.f27.top ≤ (3000 : Int) + tlen x - 1 := by
      have : FKind.f27.top = 364 := rfl
      omega
    rw [roundT_of_overflow h0 ho, ← hneg]
    exact rounded_of_large ((zpow_le_zpow_right₀ (by norm_num) (by omega)).trans b1.le)
  · exact rounded_roundT .f27 k hs

theorem scaleT_zero (u : Int) : scaleT 0 u = 0 := by
  have hw (d : Nat) : wrapT d 0 = 0 := wrapT_of_abs_le (by simpa using maxT_nonneg d)
  simp [scaleT, dropT, hw]

/-- A significand of 21 trits is less than half a unit after 22 trits are dropped. -/
theorem two_mul_lt_one_of_small {m u : Int} (hm : |m| < 3 ^ 21) (hu : u ≤ -22) :
    2 * |(m : Rat) * (3 : Rat) ^ u| < 1 := by
  have h1 : (3 : Rat) ^ u ≤ (3 : Rat) ^ (-22 : Int) := zpow_le_zpow_right₀ (by norm_num) hu
  have h2 : ((2 * |m| : Int) : Rat) ≤ 3 ^ 22 - 1 := by
    have : 2 * |m| ≤ 3 ^ 22 - 1 := by omega
    exact_mod_cast this
  have hp : (0 : Rat) < (3 : Rat) ^ u := by positivity
  rw [two_mul_abs_mul_zpow]
  calc ((2 * |m| : Int) : Rat) * (3 : Rat) ^ u ≤ (3 ^ 22 - 1) * (3 : Rat) ^ (-22 : Int) :=
        mul_le_mul h2 h1 hp.le (by norm_num)
    _ < 1 := by norm_num

/-- The cell of a finite value: its nearest integer in units of 3^k. -/
theorem toX81_fin {x m e : Int} (k : Int) (hx : readFl .f27 x = .fin m e) (hm : |m| < 3 ^ 21) : ∃ n : Int,
    2 * |(n : Rat) - (Fl.fin m e).rat / (3 : Rat) ^ k| < 1 ∧
      toX81 k x = (wrapT 81 n, (Fx.cond (decide ((n : Rat) ≠ (Fl.fin m e).rat / (3 : Rat) ^ k)) Fx.NX).union
        (Fx.cond (decide (maxT 81 < |n|)) { Fx.clear with of := true })) := by
  have hq : (Fl.fin m e).rat / (3 : Rat) ^ k = m * (3 : Rat) ^ (e - k) := by
    rw [Fl.rat, zpow_sub₀ (by norm_num), mul_div_assoc]
  have hz : toX81 k x = (wrapT 81 (scaleT m (satT (e - k) (-200) 200)),
      (Fx.cond (decide ((scaleT m (satT (e - k) (-200) 200) : Rat) ≠ m * (3 : Rat) ^ (satT (e - k) (-200) 200))) Fx.NX).union
        (Fx.cond (decide (maxT 81 < |scaleT m (satT (e - k) (-200) 200)|)) { Fx.clear with of := true })) := by
    unfold toX81
    simp only [hx, scaleT_exact_iff, Int.natCast_natAbs, gt_iff_lt]
  rw [hq, hz]
  by_cases h0 : m = 0
  · subst h0
    exact ⟨0, by simp, by simp [scaleT_zero]⟩
  have hm1 := Int.one_le_abs h0
  unfold satT
  split
  next hlo =>
    have hne (u : Int) : ((0 : Int) : Rat) ≠ m * (3 : Rat) ^ u := by
      rw [Int.cast_zero]
      exact (mul_ne_zero (by exact_mod_cast h0) (by positivity)).symm
    have hsc : scaleT m (-200) = 0 := by
      have := abs_scaleT_le (n := 0) ((two_mul_lt_one_of_small hm (by norm_num : (-200 : Int) ≤ -22)).trans_eq (pow_zero _).symm)
      simpa [maxT] using this
    refine ⟨0, ?_, by rw [hsc, decide_eq_true (hne _), decide_eq_true (hne _)]⟩
    rw [Int.cast_zero, zero_sub, abs_neg]
    exact two_mul_lt_one_of_small hm (by omega)
  split
  next hhi =>
    obtain ⟨d, hd⟩ := Int.eq_ofNat_of_zero_le (show 0 ≤ e - k - 200 by omega)
    have hsc : scaleT m 200 = m * 3 ^ 200 := by simp [scaleT]
    have hq2 : (m : Rat) * (3 : Rat) ^ (e - k) = ((m * 3 ^ (200 + d) : Int) : Rat) := by
      rw [show e - k = ((200 + d : Nat) : Int) by push_cast; omega, zpow_natCast]
      push_cast
      rfl
    have hw (i : Nat) : wrapT 81 (m * 3 ^ (81 + i)) = 0 := wrapT_eq_of_dvd (by simpa using maxT_nonneg 81) (by
      rw [sub_zero, pow_add, mul_left_comm]
      exact dvd_mul_right _ _)
    have hof (i : Nat) : maxT 81 < |m * 3 ^ (81 + i)| := by
      have h1 : (0 : Int) < 3 ^ i := by positivity
      rw [abs_mul, abs_of_pos (show (0 : Int) < 3 ^ (81 + i) by positivity), pow_add]
      calc maxT 81 < 3 ^ 81 := maxT_lt_pow 81
        _ ≤ 3 ^ 81 * 3 ^ i := le_mul_of_one_le_right (by norm_num) h1
        _ ≤ |m| * (3 ^ 81 * 3 ^ i) := le_mul_of_one_le_left (by positivity) hm1
    have hex : ¬ ((m * 3 ^ 200 : Int) : Rat) ≠ m * (3 : Rat) ^ (200 : Int) :=
      not_not.mpr (by rw [Int.cast_mul, Int.cast_pow, Int.cast_ofNat]; rfl)
    refine ⟨m * 3 ^ (200 + d), by rw [hq2, sub_self, abs_zero, mul_zero]; exact one_pos, ?_⟩
    rw [hsc, hq2, show 200 + d = 81 + (119 + d) by omega, hw, decide_eq_true (hof _), decide_eq_false (not_not.mpr rfl)]
    have hw0 := hw 119
    have hof0 := hof 119
    rw [show 81 + 119 = 200 from rfl] at hw0 hof0
    rw [hw0, decide_eq_true hof0, decide_eq_false hex]
  · exact ⟨scaleT m (e - k), scaleT_nearest _ _, rfl⟩

/-! ### Binary interchange patterns (02 R37 to R39) -/

/-- The exponent bias of a binary format. -/
def binBias (eb : Nat) : Nat := 2 ^ (eb - 1) - 1

/-- The unit of the binade whose patterns lie between e + 1 and e + 2 fractions. -/
def binUnit (eb fb e : Nat) : Rat := (2 : Rat) ^ ((e : Int) + 1 - binBias eb - fb)

theorem binUnit_pos (eb fb e : Nat) : 0 < binUnit eb fb e := by unfold binUnit; positivity

/-- The magnitude of a pattern of a binade: below and at its end, one formula. -/
theorem binMag_eq {eb fb e r : Nat} (hr : e = 0 ∨ 2 ^ fb ≤ r) (hr' : r ≤ 2 ^ (fb + 1)) :
    binMag eb fb (e * 2 ^ fb + r) = r * binUnit eb fb e := by
  have hp : 0 < 2 ^ fb := by positivity
  have hdiv (x : Nat) : (e * 2 ^ fb + x) / 2 ^ fb = e + x / 2 ^ fb := by
    rw [add_comm, Nat.add_mul_div_right _ _ hp, add_comm]
  have hmod (x : Nat) : (e * 2 ^ fb + x) % 2 ^ fb = x % 2 ^ fb := by
    rw [add_comm, Nat.add_mul_mod_self_right]
  unfold binMag binUnit
  simp only [hdiv, hmod]
  change _ * (2 : Rat) ^ (_ - (binBias eb : Int) - _) = _
  rcases lt_or_ge r (2 ^ fb) with h1 | h1
  · obtain rfl : e = 0 := hr.resolve_right (by omega)
    simp [Nat.div_eq_of_lt h1, Nat.mod_eq_of_lt h1]
  rcases lt_or_ge r (2 ^ (fb + 1)) with h2 | h2
  · have hq : r / 2 ^ fb = 1 := Nat.div_eq_of_lt_le (by omega) (by rw [pow_succ] at h2; omega)
    have hm : 2 ^ fb + r % 2 ^ fb = r := by
      have := Nat.div_add_mod r (2 ^ fb)
      rw [hq] at this
      omega
    simp [hq, hm]
  · obtain rfl : r = 2 ^ (fb + 1) := by omega
    have hq : 2 ^ (fb + 1) / 2 ^ fb = 2 := by rw [pow_succ, Nat.mul_div_cancel_left _ hp]
    have hm : 2 ^ (fb + 1) % 2 ^ fb = 0 := by rw [pow_succ, Nat.mul_mod_right]
    simp only [hq, hm]
    have h3 : ((e : Int) + 2 - binBias eb - fb) = ((e : Int) + 1 - binBias eb - fb) + 1 := by ring
    simp only [Nat.add_eq_zero_iff, OfNat.ofNat_ne_zero, and_false, if_false, add_zero]
    push_cast
    rw [h3, zpow_add_one₀ (by norm_num), pow_succ]
    ring

/-- A pattern's binade and its place in it. -/
theorem exists_binade (fb u : Nat) : ∃ e r, u = e * 2 ^ fb + r ∧ (e = 0 ∨ 2 ^ fb ≤ r) ∧ r < 2 ^ (fb + 1) := by
  have hp : 0 < 2 ^ fb := by positivity
  have h := Nat.div_add_mod u (2 ^ fb)
  have hm := Nat.mod_lt u hp
  have e2 : 2 ^ (fb + 1) = 2 * 2 ^ fb := by rw [pow_succ']
  rcases h0 : u / 2 ^ fb with _ | q
  · refine ⟨0, u, by simp, .inl rfl, ?_⟩
    rw [h0] at h
    omega
  · refine ⟨q, 2 ^ fb + u % 2 ^ fb, ?_, .inr (by omega), by omega⟩
    rw [h0, Nat.mul_add, mul_one] at h
    rw [mul_comm q]
    omega

theorem binMag_strictMono (eb fb : Nat) : StrictMono (binMag eb fb) := by
  refine strictMono_nat_of_lt_succ fun u => ?_
  obtain ⟨e, r, rfl, h1, h2⟩ := exists_binade fb u
  rw [add_assoc, binMag_eq h1 h2.le, binMag_eq (by omega) (by omega)]
  exact mul_lt_mul_of_pos_right (by push_cast; linarith) (binUnit_pos _ _ _)

/-! #### From a pattern -/

/-- The parts of a pattern with its sign. -/
theorem pattern_parts {eb fb u : Nat} (neg : Bool) (hu : u < 2 ^ (eb + fb)) :
    let v := (if neg then 2 ^ (eb + fb) else 0) + u
    (v / 2 ^ (eb + fb) == 1) = neg ∧ v / 2 ^ fb % 2 ^ eb = u / 2 ^ fb ∧ v % 2 ^ fb = u % 2 ^ fb := by
  have hp : 0 < 2 ^ fb := by positivity
  have hE : u / 2 ^ fb < 2 ^ eb := by
    rw [Nat.div_lt_iff_lt_mul hp, ← pow_add]
    exact hu
  cases neg with
  | false => simp [Nat.div_eq_of_lt hu, Nat.mod_eq_of_lt hE]
  | true =>
    have h1 : (2 ^ (eb + fb) + u) / 2 ^ (eb + fb) = 1 := Nat.div_eq_of_lt_le (by omega) (by omega)
    have h2 : (2 ^ (eb + fb) + u) / 2 ^ fb = 2 ^ eb + u / 2 ^ fb := by
      rw [pow_add, add_comm, Nat.add_mul_div_right _ _ hp, add_comm]
    have h3 : (2 ^ (eb + fb) + u) % 2 ^ fb = u % 2 ^ fb := by
      rw [pow_add, add_comm, Nat.add_mul_mod_self_right]
    simp [h1, h2, h3, Nat.mod_eq_of_lt hE]

/-- A binary format of at most 11 exponent bits and 52 fraction bits. -/
abbrev BinFormat (eb fb : Nat) : Prop := 2 ≤ eb ∧ eb ≤ 11 ∧ 1 ≤ fb ∧ fb ≤ 52

theorem short_pow2 {x n : Nat} (h : x < 2 ^ n) (hn : n ≤ 30000) : Short (x : Int) := by
  refine .of_lt (n := n) ?_ hn
  rw [Nat.abs_cast]
  exact_mod_cast h.trans_le (Nat.pow_le_pow_left (by norm_num) n)

/-- A fraction of powers of two, as `fromBin` gives it to `roundRat`. -/
theorem roundRat_pow2 {m n : Nat} (neg : Bool) (q : Int) (hm : m ≠ 0) (hmn : m < 2 ^ n) (hn : n ≤ 60)
    (hq : |q| ≤ 3000) :
    RoundedTo ((if neg then -((m : Rat) * 2 ^ q) else (m : Rat) * 2 ^ q : Rat) : Real)
      (roundRat neg (if 0 ≤ q then m * 2 ^ q.toNat else m) (if 0 ≤ q then 1 else 2 ^ (-q).toNat) 0) := by
  rw [abs_le] at hq
  have hval : ((if neg then -((m : Rat) * 2 ^ q) else (m : Rat) * 2 ^ q : Rat) : Real) =
      if neg then -((m : Real) * (2 : Real) ^ q) else (m : Real) * (2 : Real) ^ q := by split <;> push_cast <;> rfl
  rw [hval]
  by_cases h : 0 ≤ q
  · obtain ⟨d, rfl⟩ := Int.eq_ofNat_of_zero_le h
    simp only [h, if_true, Int.toNat_natCast]
    have hs : Short ((m * 2 ^ d : Nat) : Int) := by
      refine short_pow2 (n := n + d) ?_ (by omega)
      rw [pow_add]
      exact Nat.mul_lt_mul_of_pos_right hmn (by positivity)
    have := (roundRat_spec neg 0 (Nat.mul_ne_zero hm (by positivity)) one_ne_zero hs short_one).1
    simpa using this
  · obtain ⟨d, hd⟩ := Int.eq_ofNat_of_zero_le (show 0 ≤ -q by omega)
    obtain rfl : q = -d := by omega
    simp only [h, if_false, neg_neg, Int.toNat_natCast]
    have hs : Short ((2 ^ d : Nat) : Int) := short_pow2 (n := d + 1) (Nat.pow_lt_pow_right (by norm_num) (by omega)) (by omega)
    have := (roundRat_spec neg 0 hm (by positivity) (short_pow2 hmn (by omega)) hs).1
    simpa [div_eq_mul_inv] using this

/-- `fromBin` converts a pattern. -/
theorem fromBinary_fromBin {eb fb : Nat} (hb : BinFormat eb fb) (n : Int) :
    FromBinary eb fb n (fromBin eb fb n) := by
  obtain ⟨he2, he11, hf1, hf52⟩ := hb
  refine ⟨fun h => by simp [fromBin, h], fun neg u hu hn => ?_⟩
  obtain ⟨p1, p2, p3⟩ := pattern_parts neg hu
  have hv : n.toNat = (if neg then 2 ^ (eb + fb) else 0) + u := by
    have : ((if neg then 2 ^ (eb + fb) else 0 : Nat) : Int) = if neg then 2 ^ (eb + fb) else 0 := by split <;> simp
    rw [hn, ← this]
    omega
  have hin : ¬ (n < 0 ∨ n ≥ 2 ^ (eb + fb + 1)) := by
    rw [hn, pow_succ]
    have : (u : Int) < 2 ^ (eb + fb) := by exact_mod_cast hu
    have : (0 : Int) < 2 ^ (eb + fb) := by positivity
    split <;> omega
  have hp : 0 < 2 ^ fb := by positivity
  have hq : 1 < 2 ^ eb := Nat.one_lt_two_pow (by omega)
  have hdm := Nat.div_add_mod u (2 ^ fb)
  have hm := Nat.mod_lt u hp
  have heq : fromBin eb fb n =
      if u / 2 ^ fb = 2 ^ eb - 1 then
        (if u % 2 ^ fb = 0 then (infWord .f27 neg, Fx.clear)
          else (nanWord .f27, Fx.cond (decide (u % 2 ^ fb < 2 ^ (fb - 1))) Fx.IV))
      else if u / 2 ^ fb = 0 ∧ u % 2 ^ fb = 0 then (zeroWord .f27, Fx.clear)
      else
        let m := if u / 2 ^ fb = 0 then u % 2 ^ fb else u % 2 ^ fb + 2 ^ fb
        let q : Int := (if u / 2 ^ fb = 0 then 1 else ((u / 2 ^ fb : Nat) : Int)) - (2 ^ (eb - 1) - 1 : Nat) - fb
        roundRat neg (if 0 ≤ q then m * 2 ^ q.toNat else m) (if 0 ≤ q then 1 else 2 ^ (-q).toNat) 0 := by
    unfold fromBin
    rw [if_neg hin]
    simp only [hv, p1, p2, p3]
  rw [heq]
  refine ⟨fun h0 => ?_, fun h0 ht => ?_, fun ht => ?_, fun ht => ?_⟩
  · subst h0
    rw [Nat.zero_div, Nat.zero_mod, if_neg (by omega), if_pos ⟨rfl, rfl⟩]
  · have hE : u / 2 ^ fb < 2 ^ eb - 1 := by rwa [Nat.div_lt_iff_lt_mul hp]
    have h11 : 2 ^ eb ≤ 2 ^ 11 := Nat.pow_le_pow_right (by norm_num) he11
    have h10 : 2 ^ (eb - 1) ≤ 2 ^ 10 := Nat.pow_le_pow_right (by norm_num) (by omega)
    have hne : ¬ (u / 2 ^ fb = 0 ∧ u % 2 ^ fb = 0) := by
      rintro ⟨h1, h2⟩
      rw [h1, h2] at hdm
      omega
    have hsz : u % 2 ^ fb + 2 ^ fb < 2 ^ (fb + 1) := by rw [pow_succ]; omega
    rw [if_neg hE.ne, if_neg hne, binMag]
    dsimp only
    rw [Nat.add_comm (2 ^ fb)]
    refine roundRat_pow2 (n := fb + 1) neg _ ?_ ?_ (by omega) ?_
    · split <;> omega
    · split <;> omega
    · rw [abs_le]
      split <;> omega
  · have hE : u / 2 ^ fb = 2 ^ eb - 1 := by rw [ht, Nat.mul_div_cancel _ hp]
    have hF : u % 2 ^ fb = 0 := by rw [ht, Nat.mul_mod_left]
    rw [if_pos hE, if_pos hF]
  · have hE : u / 2 ^ fb = 2 ^ eb - 1 := by
      have h1 : u / 2 ^ fb < 2 ^ eb := by
        rw [Nat.div_lt_iff_lt_mul hp, ← pow_add]
        exact hu
      have h2 : 2 ^ eb - 1 ≤ u / 2 ^ fb := by
        rw [Nat.le_div_iff_mul_le hp]
        exact ht.le
      omega
    have hF : u % 2 ^ fb ≠ 0 := by
      intro h0
      rw [hE, h0, add_zero, mul_comm] at hdm
      omega
    rw [if_pos hE, if_neg hF]

/-! #### To a pattern -/

/-- `overPow2` divides a fraction by a power of two. -/
theorem overPow2_div {num den : Nat} (hd : den ≠ 0) (q : Int) :
    ((overPow2 num den q).1 : Rat) / (overPow2 num den q).2 = (num : Rat) / den / (2 : Rat) ^ q ∧ (overPow2 num den q).2 ≠ 0 := by
  have hd' : (den : Rat) ≠ 0 := by exact_mod_cast hd
  unfold overPow2
  split
  next h =>
    obtain ⟨n, rfl⟩ := Int.eq_ofNat_of_zero_le h
    refine ⟨?_, by positivity⟩
    rw [zpow_natCast, Int.toNat_natCast]
    push_cast
    rw [div_div]
  next h =>
    obtain ⟨n, hn⟩ := Int.eq_ofNat_of_zero_le (show 0 ≤ -q by omega)
    obtain rfl : q = -n := by omega
    refine ⟨?_, hd⟩
    rw [neg_neg, Int.toNat_natCast, zpow_neg, zpow_natCast, div_inv_eq_mul]
    push_cast
    ring

/-- `floorLog2` is the exponent of a fraction. -/
theorem floorLog2_spec {num den : Nat} (hn : num ≠ 0) (hd : den ≠ 0) :
    (2 : Rat) ^ floorLog2 num den ≤ (num : Rat) / den ∧ (num : Rat) / den < (2 : Rat) ^ (floorLog2 num den + 1) := by
  have hd' : (0 : Rat) < den := by exact_mod_cast Nat.pos_of_ne_zero hd
  have n1 : (2 : Rat) ^ Nat.log2 num ≤ num := by exact_mod_cast Nat.log2_self_le hn
  have n2 : (num : Rat) < 2 ^ (Nat.log2 num + 1) := by exact_mod_cast Nat.lt_log2_self (n := num)
  have d1 : (2 : Rat) ^ Nat.log2 den ≤ den := by exact_mod_cast Nat.log2_self_le hd
  have d2 : (den : Rat) < 2 ^ (Nat.log2 den + 1) := by exact_mod_cast Nat.lt_log2_self (n := den)
  set g : Int := (Nat.log2 num : Int) - Nat.log2 den with hg
  have hz (a b : Nat) : (2 : Rat) ^ ((a : Int) - b) = 2 ^ a / 2 ^ b := by
    rw [zpow_sub₀ (by norm_num), zpow_natCast, zpow_natCast]
  have hup : (num : Rat) / den < (2 : Rat) ^ (g + 1) := by
    rw [show g + 1 = ((Nat.log2 num + 1 : Nat) : Int) - Nat.log2 den by rw [hg]; push_cast; ring, hz]
    exact div_lt_div₀ n2 d1 (by positivity) (by positivity)
  have hlo : (2 : Rat) ^ (g - 1) < (num : Rat) / den := by
    rw [show g - 1 = (Nat.log2 num : Int) - ((Nat.log2 den + 1 : Nat) : Int) by rw [hg]; push_cast; ring, hz]
    exact div_lt_div₀' n1 d2 (by positivity) hd'
  have hp : (0 : Rat) < (2 : Rat) ^ g := by positivity
  obtain ⟨e, e0⟩ := overPow2_div (num := num) hd g
  have e0' : (0 : Rat) < ((overPow2 num den g).2 : Rat) := by exact_mod_cast Nat.pos_of_ne_zero e0
  have hle : (overPow2 num den g).2 ≤ (overPow2 num den g).1 ↔ (2 : Rat) ^ g ≤ (num : Rat) / den := by
    rw [← Nat.cast_le (α := Rat), ← one_le_div e0', e, one_le_div hp]
  unfold floorLog2
  simp only [← hg, hle]
  split
  next h => exact ⟨h, hup⟩
  next h => exact ⟨hlo.le, by rw [sub_add_cancel]; exact not_le.mp h⟩

/-- `nearEven` is the nearest integer, of two the even one, with whether it is inexact. -/
theorem nearEven_spec {num den : Nat} (hd : den ≠ 0) :
    2 * ((nearEven num den).1 : Rat) - 1 ≤ 2 * ((num : Rat) / den) ∧ 2 * ((num : Rat) / den) ≤ 2 * ((nearEven num den).1 : Rat) + 1 ∧
      (2 * ((num : Rat) / den) = 2 * ((nearEven num den).1 : Rat) - 1 ∨ 2 * ((num : Rat) / den) = 2 * ((nearEven num den).1 : Rat) + 1 →
        (nearEven num den).1 % 2 = 0) ∧
      (nearEven num den).2 = decide (((nearEven num den).1 : Rat) ≠ (num : Rat) / den) := by
  have hd' : (0 : Rat) < den := by exact_mod_cast Nat.pos_of_ne_zero hd
  have ht : (num : Rat) / den = (num / den : Nat) + ((num % den : Nat) : Rat) / den := by
    have h : ((den * (num / den) + num % den : Nat) : Rat) = num := by rw [Nat.div_add_mod]
    rw [← h, Nat.cast_add, Nat.cast_mul, add_div, mul_div_cancel_left₀ _ hd'.ne']
  have h0 : (0 : Rat) ≤ ((num % den : Nat) : Rat) / den := by positivity
  have h1 : ((num % den : Nat) : Rat) / den < 1 := by
    rw [div_lt_one hd']
    exact_mod_cast Nat.mod_lt num (Nat.pos_of_ne_zero hd)
  have hlt : 2 * (num % den) < den ↔ 2 * (((num % den : Nat) : Rat) / den) < 1 := by
    rw [← mul_div_assoc, div_lt_one hd']
    exact_mod_cast Iff.rfl
  have hgt : den < 2 * (num % den) ↔ 1 < 2 * (((num % den : Nat) : Rat) / den) := by
    rw [← mul_div_assoc, one_lt_div hd']
    exact_mod_cast Iff.rfl
  have hz : num % den = 0 ↔ ((num % den : Nat) : Rat) / den = 0 := by
    rw [div_eq_zero_iff, or_iff_left hd'.ne', Nat.cast_eq_zero]
  have hr : (num % den != 0) = decide (((num % den : Nat) : Rat) / den ≠ 0) := by
    rw [Bool.eq_iff_iff, bne_iff_ne, decide_eq_true_iff]
    exact not_congr hz
  unfold nearEven
  simp only [hlt, gt_iff_lt, hgt, hr, ht]
  generalize ((num % den : Nat) : Rat) / den = t at *
  generalize num / den = q at *
  split
  · refine ⟨by linarith, by linarith, fun h => by rcases h with h | h <;> linarith, ?_⟩
    exact decide_eq_decide.mpr (not_congr ⟨fun h => by linarith, fun h => by linarith⟩)
  have hne : t ≠ 0 := by rintro rfl; linarith
  split
  · push_cast
    refine ⟨by linarith, by linarith, fun h => by rcases h with h | h <;> linarith, ?_⟩
    exact decide_eq_decide.mpr (iff_of_true hne fun h => by linarith)
  have ht2 : 2 * t = 1 := by linarith
  split
  · refine ⟨by linarith, by linarith, fun _ => by assumption, ?_⟩
    exact decide_eq_decide.mpr (iff_of_true hne fun h => by linarith)
  · push_cast
    refine ⟨by linarith, by linarith, fun _ => by omega, ?_⟩
    exact decide_eq_decide.mpr (iff_of_true hne fun h => by linarith)

/-- u is the pattern nearest to y among all, of two equally near the even one. -/
def NearestPattern (eb fb : Nat) (y : Rat) (u : Nat) : Prop :=
  ∀ w, |binMag eb fb u - y| ≤ |binMag eb fb w - y| ∧ (w ≠ u → |binMag eb fb u - y| = |binMag eb fb w - y| → u % 2 = 0)

/-- It is enough to compare with the two neighbours. -/
theorem nearestPattern_of_neighbours {eb fb u : Nat} {y : Rat}
    (hup : |binMag eb fb u - y| ≤ binMag eb fb (u + 1) - y ∧ (|binMag eb fb u - y| = binMag eb fb (u + 1) - y → u % 2 = 0))
    (hlo : ∀ w, w + 1 = u → |binMag eb fb u - y| ≤ y - binMag eb fb w ∧ (|binMag eb fb u - y| = y - binMag eb fb w → u % 2 = 0)) :
    NearestPattern eb fb y u := by
  have hm := binMag_strictMono eb fb
  intro w
  rcases lt_trichotomy w u with h | rfl | h
  · obtain ⟨x, rfl⟩ : ∃ x, x + 1 = u := ⟨u - 1, by omega⟩
    obtain ⟨h1, h2⟩ := hlo x rfl
    have h3 : binMag eb fb w ≤ binMag eb fb x := hm.monotone (by omega)
    have h4 : y - binMag eb fb w ≤ |binMag eb fb w - y| := by rw [abs_sub_comm]; exact le_abs_self _
    exact ⟨by linarith, fun _ e => h2 (by linarith)⟩
  · exact ⟨le_rfl, fun h => absurd rfl h⟩
  · obtain ⟨h1, h2⟩ := hup
    have h3 : binMag eb fb (u + 1) ≤ binMag eb fb w := hm.monotone (by omega)
    have h4 : binMag eb fb w - y ≤ |binMag eb fb w - y| := le_abs_self _
    exact ⟨by linarith, fun _ e => h2 (by linarith)⟩

/-- A nearest integer stays in its binade, or becomes its end. -/
theorem binade_low {fb e r : Nat} {t : Rat} (h2 : 2 * t ≤ 2 * r + 1) (hlo : e = 0 ∨ (2 : Rat) ^ fb ≤ t) :
    e = 0 ∨ 2 ^ fb ≤ r :=
  hlo.imp_right fun h => by
    have h3 : ((2 ^ fb : Nat) : Rat) < ((r + 1 : Nat) : Rat) := by push_cast; linarith
    exact Nat.lt_succ_iff.mp (Nat.cast_lt.mp h3)

theorem binade_high {fb r : Nat} {t : Rat} (h1 : 2 * (r : Rat) - 1 ≤ 2 * t) (hhi : t < 2 ^ (fb + 1)) :
    r ≤ 2 ^ (fb + 1) := by
  have h3 : ((r : Nat) : Rat) < ((2 ^ (fb + 1) + 1 : Nat) : Rat) := by push_cast; linarith
  exact Nat.lt_succ_iff.mp (Nat.cast_lt.mp h3)

theorem pred_of_add_one {w e r : Nat} (hw : w + 1 = e + r) (hr : 0 < r) : w = e + (r - 1) := by omega

/-- The nearest integer in units of a binade, a tie to the even one, is the nearest pattern. -/
theorem nearestPattern_binade {eb fb e r : Nat} {t : Rat} (hf : 1 ≤ fb) (h1 : 2 * (r : Rat) - 1 ≤ 2 * t)
    (h2 : 2 * t ≤ 2 * r + 1)
    (he : 2 * t = 2 * r - 1 ∨ 2 * t = 2 * r + 1 → r % 2 = 0) (hlo : e = 0 ∨ (2 : Rat) ^ fb ≤ t) (hhi : t < 2 ^ (fb + 1)) :
    NearestPattern eb fb (t * binUnit eb fb e) (e * 2 ^ fb + r) := by
  have hS := binUnit_pos eb fb e
  have hr1 := binade_low h2 hlo
  have hr2 := binade_high h1 hhi
  have heven : 2 ^ fb % 2 = 0 := by
    obtain ⟨i, rfl⟩ : ∃ i, fb = i + 1 := ⟨fb - 1, by omega⟩
    rw [pow_succ, Nat.mul_mod_left]
  have hpar : (e * 2 ^ fb + r) % 2 = r % 2 := by rw [Nat.add_mod, Nat.mul_mod, heven]; simp
  have hdist : |binMag eb fb (e * 2 ^ fb + r) - t * binUnit eb fb e| = binUnit eb fb e * |(r : Rat) - t| := by
    rw [binMag_eq hr1 hr2, ← sub_mul, abs_mul, abs_of_pos hS, mul_comm]
  have habs : 2 * |(r : Rat) - t| ≤ 1 := by
    have : |(r : Rat) - t| ≤ 1 / 2 := abs_le.mpr ⟨by linarith, by linarith⟩
    linarith
  have htie : 2 * |(r : Rat) - t| = 1 → (e * 2 ^ fb + r) % 2 = 0 := fun h => by
    rw [hpar]
    rcases abs_cases ((r : Rat) - t) with ⟨h3, -⟩ | ⟨h3, -⟩
    · exact he (.inl (by linarith))
    · exact he (.inr (by linarith))
  -- a neighbour at v units, at least half a unit away
  have hnb (v : Rat) (hv : 1 ≤ 2 * v) :
      |binMag eb fb (e * 2 ^ fb + r) - t * binUnit eb fb e| ≤ binUnit eb fb e * v ∧
        (|binMag eb fb (e * 2 ^ fb + r) - t * binUnit eb fb e| = binUnit eb fb e * v → (e * 2 ^ fb + r) % 2 = 0) := by
    rw [hdist]
    refine ⟨mul_le_mul_of_nonneg_left (by linarith) hS.le, fun h => htie ?_⟩
    have := mul_left_cancel₀ hS.ne' h
    linarith
  refine nearestPattern_of_neighbours ?_ fun w hw => ?_
  · rcases hr2.lt_or_eq with h | h
    · have e1 : binMag eb fb (e * 2 ^ fb + r + 1) - t * binUnit eb fb e = binUnit eb fb e * (r + 1 - t) := by
        rw [add_assoc, binMag_eq (by omega) (by omega)]
        push_cast
        ring
      rw [e1]
      exact hnb _ (by linarith)
    · have hlt := binMag_strictMono eb fb (Nat.lt_succ_self (e * 2 ^ fb + r))
      have hrt : t < r := by
        have : (r : Rat) = 2 ^ (fb + 1) := by rw [h]; push_cast; rfl
        rw [this]
        exact hhi
      have h3 : |binMag eb fb (e * 2 ^ fb + r) - t * binUnit eb fb e| < binMag eb fb (e * 2 ^ fb + r + 1) - t * binUnit eb fb e := by
        rw [abs_of_nonneg]
        · exact sub_lt_sub_right hlt _
        · rw [binMag_eq hr1 hr2, ← sub_mul]
          exact mul_nonneg (by linarith) hS.le
      exact ⟨h3.le, fun e => absurd e h3.ne⟩
  · by_cases hin : 0 < r ∧ (e = 0 ∨ 2 ^ fb ≤ r - 1)
    · obtain ⟨h0, hin⟩ := hin
      have e1 : t * binUnit eb fb e - binMag eb fb w = binUnit eb fb e * (t - (r - 1)) := by
        rw [pred_of_add_one hw h0, binMag_eq hin ((Nat.sub_le _ _).trans hr2), Nat.cast_sub h0]
        push_cast
        ring
      rw [e1]
      exact hnb _ (by linarith)
    · have he0 : e ≠ 0 := by
        rintro rfl
        have h0 : r = 0 := by
          by_contra h0
          exact hin ⟨Nat.pos_of_ne_zero h0, .inl rfl⟩
        rw [h0, Nat.zero_mul] at hw
        exact Nat.succ_ne_zero w hw
      obtain ⟨i, rfl⟩ := Nat.exists_eq_succ_of_ne_zero he0
      have hrf : r = 2 ^ fb := by omega
      have hwi : w = i * 2 ^ fb + (2 ^ (fb + 1) - 1) := by
        rw [Nat.succ_mul, add_assoc, hrf, ← two_mul, ← pow_succ'] at hw
        exact pred_of_add_one hw (by positivity)
      have hU : binUnit eb fb (i + 1) = 2 * binUnit eb fb i := by
        unfold binUnit
        rw [← zpow_one_add₀ (by norm_num)]
        congr 1
        push_cast
        ring
      have hge : (2 : Rat) ^ fb ≤ t := hlo.resolve_left (by omega)
      have e1 : t * binUnit eb fb (i + 1) - binMag eb fb w = binUnit eb fb (i + 1) * (t - 2 ^ fb + 1 / 2) := by
        rw [hwi, binMag_eq (.inr (Nat.le_sub_one_of_lt (Nat.pow_lt_pow_right (by norm_num) (by omega)))) (Nat.sub_le _ _),
          Nat.cast_sub Nat.one_le_two_pow, hU]
        push_cast
        rw [pow_succ]
        ring
      rw [e1]
      exact hnb _ (by linarith)
/-- Of the patterns up to a greatest one the nearest is the nearest of all, cut to it. -/
theorem NearestPattern.cut {eb fb u top : Nat} {y : Rat} (h : NearestPattern eb fb y u) (w : Nat)
    (hw : w ≤ top) :
    |binMag eb fb (min u top) - y| ≤ |binMag eb fb w - y| ∧
      (w ≠ min u top → |binMag eb fb (min u top) - y| = |binMag eb fb w - y| → min u top % 2 = 0) := by
  have hm := binMag_strictMono eb fb
  rcases le_or_gt u top with hu | hu
  · rw [min_eq_left hu]
    exact h w
  · rw [min_eq_right hu.le]
    have h1 := (h top).1
    have h2 : binMag eb fb top < binMag eb fb u := hm hu
    have h3 : binMag eb fb top < y := by
      by_contra hc
      rw [abs_of_nonneg (by linarith), abs_of_nonneg (by linarith)] at h1
      linarith
    have h4 : binMag eb fb w ≤ binMag eb fb top := hm.monotone hw
    have hd (x : Rat) (hx : x < y) : |x - y| = y - x := by rw [abs_sub_comm, abs_of_pos (by linarith)]
    rw [hd _ h3, hd _ (h4.trans_lt h3)]
    refine ⟨by linarith, fun hne e => absurd (hm.injective (show binMag eb fb w = binMag eb fb top by linarith)) hne⟩

/-- The magnitude num ÷ den in units of the binade of exponent q, rounded, with whether it is inexact. -/
def binSig (fb num den : Nat) (q : Int) : Nat × Bool :=
  nearEven (overPow2 num den (q - fb)).1 (overPow2 num den (q - fb)).2

/-- The exponent that `toBin` takes: that of the magnitude, or the least. -/
def binExp (eb num den : Nat) : Int :=
  if floorLog2 num den < 1 - (binBias eb : Int) then 1 - (binBias eb : Int) else floorLog2 num den

/-- The pattern that `toBin` writes for a magnitude num ÷ den, before it is cut to the greatest. -/
def binPattern (eb fb num den : Nat) : Int :=
  if floorLog2 num den < 1 - (binBias eb : Int) then ((binSig fb num den (binExp eb num den)).1 : Int)
  else (binExp eb num den + binBias eb - 1) * (2 ^ fb : Nat) + (binSig fb num den (binExp eb num den)).1

theorem binMag_least (eb fb : Nat) : binMag eb fb (2 ^ fb) = (2 : Rat) ^ (1 - (binBias eb : Int)) := by
  have h := binMag_eq (eb := eb) (fb := fb) (e := 0) (r := 2 ^ fb) (.inl rfl) (Nat.pow_le_pow_right (by norm_num) (by omega))
  rw [Nat.zero_mul, Nat.zero_add] at h
  rw [h, binUnit]
  push_cast
  rw [← zpow_natCast, ← zpow_add₀ (by norm_num)]
  congr 1
  ring

section
variable {eb fb num den : Nat}

/-- The magnitude rounded in the binade of pattern exponent e is the nearest pattern. -/
theorem binSig_spec {q : Int} {e : Nat} (hf : 1 ≤ fb) (hn : num ≠ 0) (hd : den ≠ 0)
    (he : (e : Int) = q + binBias eb - 1)
    (hlo : e = 0 ∨ q = floorLog2 num den) (hhi : floorLog2 num den ≤ q) :
    NearestPattern eb fb ((num : Rat) / den) (e * 2 ^ fb + (binSig fb num den q).1) ∧
      (binSig fb num den q).2 = decide (binMag eb fb (e * 2 ^ fb + (binSig fb num den q).1) ≠ (num : Rat) / den) := by
  obtain ⟨l1, l2⟩ := floorLog2_spec hn hd
  obtain ⟨o1, o2⟩ := overPow2_div (num := num) hd (q - fb)
  obtain ⟨n1, n2, n3, n4⟩ := nearEven_spec (num := (overPow2 num den (q - fb)).1) o2
  have hS : binUnit eb fb e = (2 : Rat) ^ (q - fb) := by
    unfold binUnit
    congr 1
    omega
  have hp : (0 : Rat) < (2 : Rat) ^ (q - fb) := by positivity
  change _ ∧ (nearEven _ _).2 = _
  rw [o1] at n1 n2 n3 n4
  rw [n4]
  change 2 * ((binSig fb num den q).1 : Rat) - 1 ≤ _ at n1
  change _ ≤ 2 * ((binSig fb num den q).1 : Rat) + 1 at n2
  change _ = 2 * ((binSig fb num den q).1 : Rat) - 1 ∨ _ = 2 * ((binSig fb num den q).1 : Rat) + 1 → (binSig fb num den q).1 % 2 = 0 at n3
  change _ ∧ decide (((binSig fb num den q).1 : Rat) ≠ _) = _
  generalize (binSig fb num den q).1 = r at *
  have hy : (num : Rat) / den = (num : Rat) / den / (2 : Rat) ^ (q - fb) * binUnit eb fb e := by
    rw [hS, div_mul_cancel₀ _ hp.ne']
  have hlo' : e = 0 ∨ (2 : Rat) ^ fb ≤ (num : Rat) / den / (2 : Rat) ^ (q - fb) := hlo.imp_right fun h => by
    rw [le_div_iff₀ hp, ← zpow_natCast, ← zpow_add₀ (by norm_num), add_sub_cancel, h]
    exact l1
  have hhi' : (num : Rat) / den / (2 : Rat) ^ (q - fb) < 2 ^ (fb + 1) := by
    rw [div_lt_iff₀ hp, ← zpow_natCast, ← zpow_add₀ (by norm_num)]
    refine l2.trans_le (zpow_le_zpow_right₀ (by norm_num) ?_)
    push_cast
    omega
  have hu := nearestPattern_binade (eb := eb) hf n1 n2 n3 hlo' hhi'
  rw [← hy] at hu
  refine ⟨hu, ?_⟩
  rw [binMag_eq (binade_low n2 hlo') (binade_high n1 hhi'), hS]
  exact decide_eq_decide.mpr (not_congr (eq_div_iff hp.ne'))

/-- `binPattern` is the nearest pattern; whether it is below the normal ones, and whether it is exact. -/
theorem binPattern_spec (hf : 1 ≤ fb) (hn : num ≠ 0) (hd : den ≠ 0) :
    ∃ u : Nat, binPattern eb fb num den = u ∧ NearestPattern eb fb ((num : Rat) / den) u ∧
      (floorLog2 num den < 1 - (binBias eb : Int) ↔ (num : Rat) / den < binMag eb fb (2 ^ fb)) ∧
      (binSig fb num den (binExp eb num den)).2 = decide (binMag eb fb u ≠ (num : Rat) / den) := by
  obtain ⟨l1, l2⟩ := floorLog2_spec hn hd
  have hq : (floorLog2 num den < 1 - (binBias eb : Int) ↔ (num : Rat) / den < binMag eb fb (2 ^ fb)) := by
    rw [binMag_least]
    refine ⟨fun h => l2.trans_le (zpow_le_zpow_right₀ (by norm_num) (by omega)), fun h => ?_⟩
    exact (zpow_lt_zpow_iff_right₀ (by norm_num : (1 : Rat) < 2)).mp (l1.trans_lt h)
  by_cases hsub : floorLog2 num den < 1 - (binBias eb : Int)
  · obtain ⟨h1, h2⟩ := binSig_spec (eb := eb) (q := 1 - (binBias eb : Int)) (e := 0) hf hn hd (by push_cast; ring) (.inl rfl) hsub.le
    rw [Nat.zero_mul, Nat.zero_add] at h1 h2
    have he : binExp eb num den = 1 - (binBias eb : Int) := if_pos hsub
    rw [← he] at h1 h2
    exact ⟨_, if_pos hsub, h1, hq, h2⟩
  · have he : binExp eb num den = floorLog2 num den := if_neg hsub
    obtain ⟨e, hE⟩ := Int.eq_ofNat_of_zero_le (show 0 ≤ floorLog2 num den + binBias eb - 1 by omega)
    obtain ⟨h1, h2⟩ := binSig_spec (eb := eb) (q := floorLog2 num den) hf hn hd hE.symm (.inr rfl) le_rfl
    rw [← he] at h1 h2 hE
    refine ⟨_, (if_neg hsub).trans ?_, h1, hq, h2⟩
    rw [hE]
    push_cast
    rfl

end

/-- The greatest pattern, that of ∞. -/
def binTop (eb fb : Nat) : Nat := (2 ^ eb - 1) * 2 ^ fb

theorem binTop_lt (eb fb : Nat) : binTop eb fb + 2 ^ fb = 2 ^ (eb + fb) := by
  have h : 1 ≤ 2 ^ eb := Nat.one_le_two_pow
  rw [binTop, pow_add, ← Nat.succ_mul, Nat.succ_eq_add_one, Nat.sub_add_cancel h]

/-- The magnitude of m × 3^e as a fraction. -/
def finNum (m e : Int) : Nat := if 0 ≤ e then m.natAbs * 3 ^ e.toNat else m.natAbs
def finDen (e : Int) : Nat := if 0 ≤ e then 1 else 3 ^ (-e).toNat

theorem finNum_ne_zero {m : Int} (e : Int) (h : m ≠ 0) : finNum m e ≠ 0 := by
  unfold finNum
  split
  · exact Nat.mul_ne_zero (Int.natAbs_ne_zero.mpr h) (by positivity)
  · exact Int.natAbs_ne_zero.mpr h

theorem finDen_ne_zero (e : Int) : finDen e ≠ 0 := by
  unfold finDen
  split
  · exact one_ne_zero
  · positivity

theorem finNum_div_finDen (m e : Int) : (finNum m e : Rat) / finDen e = |(Fl.fin m e).rat| := by
  have hp : (0 : Rat) < (3 : Rat) ^ e := by positivity
  rw [Fl.rat, abs_mul, abs_of_pos hp]
  unfold finNum finDen
  split
  next h =>
    obtain ⟨n, rfl⟩ := Int.eq_ofNat_of_zero_le h
    simp
  next h =>
    obtain ⟨n, hn⟩ := Int.eq_ofNat_of_zero_le (show 0 ≤ -e by omega)
    obtain rfl : e = -n := by omega
    simp [div_eq_mul_inv]

/-- `toBin` by `binPattern`. -/
theorem toBin_fin {eb fb : Nat} {x m e : Int} (hx : readFl .f27 x = .fin m e) (hm : m ≠ 0) :
    toBin eb fb x =
      if binPattern eb fb (finNum m e) (finDen e) ≥ (binTop eb fb : Int) then
        ((if decide (m < 0) then 2 ^ (eb + fb) else 0) + (binTop eb fb : Int), Fx.OFNX)
      else ((if decide (m < 0) then 2 ^ (eb + fb) else 0) + binPattern eb fb (finNum m e) (finDen e),
        Fx.cond (binSig fb (finNum m e) (finDen e) (binExp eb (finNum m e) (finDen e))).2
          (if floorLog2 (finNum m e) (finDen e) < 1 - (binBias eb : Int) then Fx.UFNX else Fx.NX)) := by
  unfold toBin
  simp only [hx, hm, if_false]
  rfl

/-- `toBin` converts an operand. -/
theorem toBinary_toBin {eb fb : Nat} (hf : 1 ≤ fb) (x : Int) :
    ToBinary eb fb (readFl .f27 x) (toBin eb fb x).1 (toBin eb fb x).2 := by
  have htop : ((2 ^ eb - 1) * 2 ^ fb : Nat) = binTop eb fb := rfl
  refine ⟨fun b r hx => ?_, fun b hx => ?_, fun fx h0 => ?_, fun fx h0 y hy => ?_⟩
  · unfold toBin
    simp only [hx]
    exact ⟨by push_cast; rfl, trivial⟩
  · unfold toBin
    simp only [hx]
    exact ⟨trivial, trivial⟩
  · obtain ⟨m, e, hx⟩ := exists_of_isFin fx
    rw [hx] at h0
    unfold toBin
    simp [hx, rat_eq_zero_iff.mp h0]
  · obtain ⟨m, e, hx⟩ := exists_of_isFin fx
    rw [hx] at h0 hy ⊢
    have hm : m ≠ 0 := mt rat_eq_zero_iff.mpr h0
    obtain ⟨u, p1, p2, p3, p4⟩ := binPattern_spec (eb := eb) hf (finNum_ne_zero e hm) (finDen_ne_zero e)
    rw [finNum_div_finDen, ← hy] at p2 p3 p4
    refine ⟨min u (binTop eb fb), min_le_right _ _, ?_, fun w hw => p2.cut w hw, ?_⟩
    · rw [toBin_fin hx hm, p1]
      simp only [rat_neg_iff, decide_eq_true_eq, ge_iff_le, Nat.cast_le]
      split
      next h => rw [min_eq_right h]
      next h => rw [min_eq_left (by omega)]
    · rw [toBin_fin hx hm, p1, p4]
      simp only [p3, ge_iff_le, Nat.cast_le]
      rw [htop]
      by_cases h : binTop eb fb ≤ u
      · simp only [h, if_true, min_eq_right]
      · have : u ≠ binTop eb fb := by omega
        simp only [h, if_false, min_eq_left (not_le.mp h).le, this]

theorem toBin_range {eb fb : Nat} (hf : 1 ≤ fb) (x : Int) :
    0 ≤ (toBin eb fb x).1 ∧ (toBin eb fb x).1 < 2 * 2 ^ (eb + fb) := by
  have ht : (binTop eb fb : Int) + 2 ^ fb = 2 ^ (eb + fb) := by exact_mod_cast binTop_lt eb fb
  have hp : (0 : Int) < 2 ^ fb := by positivity
  have h0 : (0 : Int) ≤ binTop eb fb := Int.natCast_nonneg _
  cases hx : readFl .f27 x with
  | nan b r =>
    have hlt : (2 : Int) ^ (fb - 1) < 2 ^ fb := pow_lt_pow_right₀ (by norm_num) (by omega)
    have hq : (0 : Int) < 2 ^ (fb - 1) := by positivity
    have e : (toBin eb fb x).1 = binTop eb fb + 2 ^ (fb - 1) := by
      unfold toBin
      simp only [hx]
      push_cast
      rfl
    omega
  | inf b =>
    have e : (toBin eb fb x).1 = (if b then 2 ^ (eb + fb) else 0) + binTop eb fb := by
      unfold toBin
      simp only [hx]
      rfl
    rw [e]
    split <;> omega
  | fin m e =>
    by_cases hm : m = 0
    · have e : (toBin eb fb x).1 = 0 := by unfold toBin; simp [hx, hm]
      omega
    · obtain ⟨u, hu, -⟩ := binPattern_spec (eb := eb) hf (finNum_ne_zero e hm) (finDen_ne_zero e)
      rw [toBin_fin hx hm, hu]
      split
      · dsimp only
        split <;> omega
      · dsimp only
        split <;> omega

/-! ### The statement -/

/-- The binary formats that a type names. -/
theorem binFormat_of_cvtDst {ty : Int} {e r : Nat} (h : cvtDst ty = .bin e r) :
    BinFormat e r ∧ (e = 11 → r = 52) ∧ e + r ≤ 63 := by
  unfold cvtDst at h
  (repeat' split at h) <;> cases h <;> exact ⟨by decide, by decide, by decide⟩

theorem binFormat_of_cvtSrc {fn : Int} {e r : Nat} (h : cvtSrc fn = some (.bin e r)) : BinFormat e r := by
  unfold cvtSrc at h
  (repeat' split at h) <;> cases h <;> decide

/-- The words of a binary format. -/
theorem words_bin {e r : Nat} (h : e = 11 → r = 52) : (CvtKind.bin e r).words = if e = 11 then 2 else 1 := by
  by_cases he : e = 11
  · rw [he, h he]
    rfl
  · unfold CvtKind.words
    split
    next heq => cases heq
    next heq => exact absurd (CvtKind.bin.inj heq).1 he
    · rw [if_neg he]

/-- A conversion between float formats. -/
theorem flToFl_clauses {j k : FKind} {x : Int} (hx : |x| ≤ maxT j.width) :
    (∀ b r, readFl j x = .nan b r → flToFl j k x = (nanWord k, Fx.cond b Fx.IV)) ∧
    (∀ b, readFl j x = .inf b → flToFl j k x = (infWord k b, Fx.clear)) ∧
    ((readFl j x).isFin = true → Rounded k (readFl j x).rat (flToFl j k x)) := by
  refine ⟨fun b r h => by simp only [flToFl, h], fun b h => by simp only [flToFl, h], fun h => ?_⟩
  have hr : (readFl j x).Read j := readFl_read hx
  obtain ⟨m, e, he⟩ := exists_of_isFin h
  rw [he] at hr ⊢
  have : flToFl j k x = roundT k m e := by simp only [flToFl, he]
  rw [this]
  exact rounded_roundT k e (.of_lt hr.1 (by norm_num))

theorem abs_flToFl_le {j k : FKind} {x : Int} (hx : |x| ≤ maxT j.width) :
    |(flToFl j k x).1| ≤ maxT k.width := by
  have hr : (readFl j x).Read j := readFl_read hx
  unfold flToFl
  split
  · exact abs_nanWord_le k
  · exact abs_infWord_le k _
  next m e he =>
    rw [he] at hr
    exact abs_roundT_le k e (.of_lt hr.1 (by norm_num))

/-- The first element of an F27 word is the word. -/
theorem elem_word {x : Int} (h : |x| ≤ maxT 27) : elem x FKind.f27.width 0 = x := by
  rw [elem, Nat.mul_zero, field_zero]
  exact wrapT_of_abs_le h

/-- The operand of a float format, after negation. -/
def Ctx.cvtOperand (c : Ctx) (a : CvtKind) (f : Int) (p : Nat) : Int :=
  if c.mod.na = 1 then cvtNeg a (groupValue c f a.words p) else groupValue c f a.words p

theorem cvtOperand_f27_le (c : Ctx) (f : Int) (p : Nat) : |c.cvtOperand (.fl .f27) f p| ≤ maxT 27 := by
  have h : |groupValue c f (CvtKind.fl .f27).words p| ≤ maxT 27 := by
    change |groupValue c f 1 p| ≤ _
    rw [groupValue_one]
    exact abs_rd_le c f p
  unfold Ctx.cvtOperand
  split
  · exact abs_negFl_le (k := .f27) h
  · exact h

theorem readFl_cvtOperand (c : Ctx) (k : FKind) (f : Int) (p : Nat) {i : Nat} (hi : i < elems k.width) :
    readFl k (elem (c.cvtOperand (.fl k) f p) k.width i) = cvtFl c k f p i := readFl_cvt_operand c k f p hi

/-- The only element of an F27 operand. -/
theorem readFl_cvtOperand_f27 (c : Ctx) (f : Int) (p : Nat) :
    readFl .f27 (c.cvtOperand (.fl .f27) f p) = cvtFl c .f27 f p 0 := by
  have h := readFl_cvtOperand c .f27 f p (i := 0) (by decide)
  rwa [elem_word (cvtOperand_f27_le c f p)] at h

/-- An operand of no float format is not negated. -/
theorem cvtOperand_of_not_fl {c : Ctx} {a : CvtKind} (f : Int) (p : Nat) (h : ∀ k, a ≠ .fl k) :
    c.cvtOperand a f p = groupValue c f a.words p := by
  have hn (x : Int) : cvtNeg a x = x := by
    cases a with
    | fl k => exact absurd rfl (h k)
    | _ => rfl
  unfold Ctx.cvtOperand
  rw [hn, ite_self]

/-- The words that CVT writes for thread p. -/
def Ctx.cvtWords (c : Ctx) (a b : CvtKind) (f : FA) (p : Nat) : List Int × Fx :=
  cvtOne a b f.b (rd c f.b p) (c.cvtOperand a f.a p)

section
variable (c : Ctx) (f : FA) (p : Nat)

/-- A float of an integer. -/
theorem cvt_t27_fl (k : FKind) :
    ∃ z, c.cvtWords .t27 (.fl k) f p = ([z.1], z.2) ∧ Rounded k (rd c f.a p : Int) z := by
  refine ⟨roundT k (rd c f.a p) 0, ?_, ?_⟩
  · unfold Ctx.cvtWords
    rw [cvtOperand_of_not_fl _ _ (by simp)]
    change cvtOne .t27 (.fl k) f.b (rd c f.b p) (groupValue c f.a 1 p) = _
    rw [groupValue_one]
    cases k <;> rfl
  · have h := rounded_roundT k 0 (.of_lt ((abs_rd_le c f.a p).trans_lt (maxT_lt_pow 27)) (by norm_num))
    rwa [zpow_zero, mul_one] at h

/-- An integer of a float. -/
theorem cvt_fl_t27 (k : FKind) :
    let x := cvtFl c k f.a p 0
    let v := c.cvtWords (.fl k) .t27 f p
    (x.isNan = true → v = ([0], Fx.IV)) ∧
    (∀ n, x = .inf n → v = ([if n then -(maxT 27) else maxT 27], Fx.IV)) ∧
    (x.isFin = true → ∃ n : Int,
      (|n| ≤ maxT 27 → v = ([n], Fx.cond (decide ((n : Rat) ≠ x.rat)) Fx.NX)) ∧
      (maxT 27 < |n| → v = ([if n < 0 then -(maxT 27) else maxT 27], Fx.IV)) ∧ IntOf f.b x.rat n) := by
  intro x v
  have hv : v = ([(toT27 k f.b (elem (c.cvtOperand (.fl k) f.a p) k.width 0)).1],
      (toT27 k f.b (elem (c.cvtOperand (.fl k) f.a p) k.width 0)).2) := by
    by_cases hk : k = .f27
    · subst hk
      rw [elem_word (cvtOperand_f27_le c f.a p)]
      rfl
    · rw [width_f9 hk]
      cases k
      · exact absurd rfl hk
      · rfl
      · rfl
  have hx : readFl k (elem (c.cvtOperand (.fl k) f.a p) k.width 0) = x := readFl_cvtOperand c k f.a p (by cases k <;> decide)
  rw [hv]
  clear_value x
  refine ⟨fun h => ?_, fun n h => ?_, fun h => ?_⟩
  · cases x with
    | nan b r => simp only [toT27, hx]
    | inf b => cases h
    | fin m e => cases h
  · simp only [toT27, hx, h]
  · obtain ⟨m, e, rfl⟩ := exists_of_isFin h
    obtain ⟨n, h1, h2, h3⟩ := toT27_fin f.b hx
    exact ⟨n, fun h => by rw [h1 h], fun h => by rw [h2 h], h3⟩

/-- A float of another format. -/
theorem cvt_fl_fl {j k : FKind} (hjk : j ≠ k) :
    ∃ (w : Int) (z : Nat → Int × Fx), let n := if j = .f27 ∨ k = .f27 then 1 else 3
      c.cvtWords (.fl j) (.fl k) f p = ([w], Fx.unions n (fun i => (z i).2)) ∧ (n = 1 → w = (z 0).1) ∧
      (n = 3 → IsWord 9 w (fun i => (z i).1)) ∧
      ∀ i < n, let x := cvtFl c j f.a p i
        (∀ b r, x = .nan b r → z i = (nanWord k, Fx.cond b Fx.IV)) ∧
        (∀ b, x = .inf b → z i = (infWord k b, Fx.clear)) ∧ (x.isFin = true → Rounded k x.rat (z i)) := by
  set X := c.cvtOperand (.fl j) f.a p with hX
  have hone (z : Int × Fx) : Fx.unions 1 (fun _ => z.2) = z.2 := by simp [Fx.unions, Fx.union, Fx.clear]
  have hz (i : Nat) (hi : i < elems j.width) :
      let x := cvtFl c j f.a p i
      (∀ b r, x = .nan b r → flToFl j k (elem X j.width i) = (nanWord k, Fx.cond b Fx.IV)) ∧
      (∀ b, x = .inf b → flToFl j k (elem X j.width i) = (infWord k b, Fx.clear)) ∧
      (x.isFin = true → Rounded k x.rat (flToFl j k (elem X j.width i))) := by
    rw [← readFl_cvtOperand c j f.a p hi]
    exact flToFl_clauses (abs_field_le _ _ _)
  by_cases h1 : j = .f27 ∨ k = .f27
  · refine ⟨(flToFl j k (elem X j.width 0)).1, fun _ => flToFl j k (elem X j.width 0), ?_⟩
    simp only [h1, if_true, hone]
    refine ⟨?_, fun _ => trivial, fun h => absurd h (by decide), fun i hi => ?_⟩
    · rcases h1 with rfl | rfl
      · rw [elem_word (cvtOperand_f27_le c f.a p)]
        cases k
        · exact absurd rfl hjk
        · rfl
        · rfl
      · rw [width_f9 hjk]
        cases j
        · exact absurd rfl hjk
        · rfl
        · rfl
    · obtain rfl : i = 0 := Nat.lt_one_iff.mp hi
      exact hz 0 (by cases j <;> decide)
  · obtain ⟨hj, hk⟩ := not_or.mp h1
    refine ⟨(perElem 9 (fun i => flToFl j k (elem X j.width i))).1, fun i => flToFl j k (elem X j.width i), ?_⟩
    simp only [h1, if_false]
    refine ⟨?_, fun h => absurd h (by decide), fun _ => ?_, fun i hi => hz i (by rwa [width_f9 hj])⟩
    · have hs : Fx.unions 3 (fun i => (flToFl j k (elem X j.width i)).2) = (perElem 9 (fun i => flToFl j k (elem X j.width i))).2 :=
        (perElem_snd 9 _).symm
      rw [hs, width_f9 hj]
      cases j
      · exact absurd rfl hj
      all_goals
        cases k
        · exact absurd rfl hk
        · rfl
        · rfl
    · have hb := isWord_perElem (w := 9) (f := fun i => flToFl j k (elem X j.width i)) fun i _ => by
        rw [← width_f9 hk]
        exact abs_flToFl_le (abs_field_le _ _ _)
      exact hb

/-- F27 of a binary pattern. -/
theorem cvt_bin_f27 {e r : Nat} (hb : BinFormat e r) :
    ∃ z, c.cvtWords (.bin e r) (.fl .f27) f p = ([z.1], z.2) ∧ FromBinary e r (groupValue c f.a (CvtKind.bin e r).words p) z := by
  refine ⟨fromBin e r (groupValue c f.a (CvtKind.bin e r).words p), ?_, fromBinary_fromBin hb _⟩
  unfold Ctx.cvtWords
  rw [cvtOperand_of_not_fl _ _ (by simp)]
  rfl

/-- A binary pattern of F27. -/
theorem cvt_f27_bin {e r : Nat} (hf : 1 ≤ r) (hw : e + r ≤ 63) :
    ∃ n fx, ToBinary e r (cvtFl c .f27 f.a p 0) n fx ∧ (c.cvtWords (.fl .f27) (.bin e r) f p).2 = fx ∧
      ((c.cvtWords (.fl .f27) (.bin e r) f p).1.getD 0 0) + ((c.cvtWords (.fl .f27) (.bin e r) f p).1.getD 1 0) * 3 ^ 27 = n := by
  set X := c.cvtOperand (.fl .f27) f.a p with hX
  have hr := toBin_range (eb := e) hf X
  refine ⟨(toBin e r X).1, (toBin e r X).2, ?_, rfl, ?_⟩
  · rw [← readFl_cvtOperand_f27]
    exact toBinary_toBin hf _
  · have hv : (c.cvtWords (.fl .f27) (.bin e r) f p).1 =
        if e = 11 then [wordOf (toBin e r X).1 0, wordOf (toBin e r X).1 1] else [(toBin e r X).1] := rfl
    rw [hv]
    split
    · refine wordOf_two ?_
      have h63 : (2 : Int) ^ (e + r) ≤ 2 ^ 63 := pow_le_pow_right₀ (by norm_num) hw
      rw [abs_of_nonneg hr.1, show maxT 54 = 29074868501520029845195084 by decide]
      omega
    · simp

/-- A cell of F27. -/
theorem cvt_f27_x81 :
    let x := cvtFl c .f27 f.a p 0
    let v := c.cvtWords (.fl .f27) .x81 f p
    ∃ u w y : Int, v.1 = [u, w, y] ∧
      (x.isFin = false → u = 0 ∧ w = 0 ∧ y = 0 ∧ v.2 = Fx.IV) ∧
      (x.isFin = true → ∃ n : Int, 2 * |(n : Rat) - x.rat / (3 : Rat) ^ (rd c f.b p)| < 1 ∧
        u + w * 3 ^ 27 + y * 3 ^ 54 = wrapT 81 n ∧
        v.2 = (Fx.cond (decide ((n : Rat) ≠ x.rat / (3 : Rat) ^ (rd c f.b p))) Fx.NX).union
          (Fx.cond (decide (maxT 81 < |n|)) { Fx.clear with of := true })) := by
  intro x v
  set X := c.cvtOperand (.fl .f27) f.a p with hX
  have hx : readFl .f27 X = x := readFl_cvtOperand_f27 c f.a p
  have hr : x.Read .f27 := hx ▸ readFl_read (k := .f27) (cvtOperand_f27_le c f.a p)
  set z := toX81 (rd c f.b p) X with hz
  have hv : v = ([wordOf z.1 0, wordOf z.1 1, wordOf z.1 2], z.2) := rfl
  clear_value x
  rw [hv]
  refine ⟨_, _, _, rfl, fun h => ?_, fun h => ?_⟩
  · have hz0 : z = (0, Fx.IV) := by
      rw [hz]
      cases x with
      | nan b r => simp only [toX81, hx]
      | inf b => simp only [toX81, hx]
      | fin m e => cases h
    rw [hz0]
    exact ⟨by decide, by decide, by decide, rfl⟩
  · obtain ⟨m, e, rfl⟩ := exists_of_isFin h
    obtain ⟨n, h1, h2⟩ := toX81_fin (rd c f.b p) hx hr.1
    refine ⟨n, h1, ?_, by rw [hz, h2]⟩
    rw [hz, h2]
    exact wordOf_three (abs_wrapT_le 81 n)

/-- F27 of a cell. -/
theorem cvt_x81_f27 :
    ∃ z, c.cvtWords .x81 (.fl .f27) f p = ([z.1], z.2) ∧ Rounded .f27 (groupValue c f.a 3 p * (3 : Rat) ^ (rd c f.b p)) z := by
  refine ⟨roundT .f27 (groupValue c f.a 3 p) (satT (rd c f.b p) (-3000) 3000), ?_, rounded_x81 (abs_groupValue_three_le c f.a p) _⟩
  unfold Ctx.cvtWords
  rw [cvtOperand_of_not_fl _ _ (by simp)]
  rfl

/-- CVT writes the words of its destination kind. -/
theorem length_cvtWords {a b : CvtKind} (hl : cvtLegal a b = true)
    (hb : ∀ e r, b = .bin e r → (e = 11 → r = 52)) :
    (c.cvtWords a b f p).1.length = b.words := by
  unfold Ctx.cvtWords
  generalize c.cvtOperand a f.a p = X
  cases a with
  | t27 =>
    cases b with
    | fl k => cases k <;> rfl
    | _ => cases hl
  | fl j =>
    cases b with
    | t27 => cases j <;> rfl
    | fl k => cases j <;> cases k <;> rfl
    | x81 =>
      cases j
      · rfl
      · cases hl
      · cases hl
    | bin e r =>
      cases j
      · rw [words_bin (hb e r rfl)]
        change (if e = 11 then [wordOf (toBin e r X).1 0, wordOf (toBin e r X).1 1] else [(toBin e r X).1]).length = _
        split <;> rfl
      · cases hl
      · cases hl
  | x81 =>
    cases b with
    | fl k => cases k <;> rfl
    | _ => cases hl
  | bin e r =>
    cases b with
    | fl k => cases k <;> rfl
    | _ => cases hl
end

/-- Settles O17: the words of CVT, by the legal pair of kinds. -/
theorem convertResults : Obligations.ConvertResults := by
  intro s c f fn a hi hs hl h
  refine ⟨c.cvtWords a (cvtDst f.ty) f, exec_cvt hi hs hl h, fun p => ?_⟩
  refine ⟨length_cvtWords c f p hl fun e r hb => (binFormat_of_cvtDst hb).2.1, ?_, ?_, ?_, ?_, ?_, ?_, ?_⟩
  · rintro k rfl hk
    rw [hk]
    exact cvt_t27_fl c f p k
  · rintro k rfl hk
    rw [hk]
    exact cvt_fl_t27 c f p k
  · rintro j k rfl hk
    rw [hk] at hl ⊢
    exact cvt_fl_fl c f p (by rintro rfl; simp [cvtLegal] at hl)
  · rintro e r rfl hk
    rw [hk]
    exact cvt_bin_f27 c f p (binFormat_of_cvtSrc hs)
  · rintro e r rfl hk
    obtain ⟨hb, -, hw⟩ := binFormat_of_cvtDst hk
    rw [hk]
    exact cvt_f27_bin c f p hb.2.2.1 hw
  · rintro rfl hk
    rw [hk]
    exact cvt_f27_x81 c f p
  · rintro rfl hk
    rw [hk]
    exact cvt_x81_f27 c f p

end Sys2Proof.Machine
end

section
/-!
## Two host-state entries of one line (15 R258): what refutes O41

`State.setHostEntry` keeps one entry for a line, and every step that adds one goes through it. The statement is about every state,
so also about one that lists a line twice: there the response to the snoop takes the first entry off the list, and the second, in
state A, is what the home then reads.
-/
namespace Sys2Proof.Machine

/-- Line 0 in state A, with a snoop that one device access waits for. -/
def snoopedEntry : HostLine := ⟨0, 2, 1, 0, false, [(.held, 0)]⟩
/-- A second entry of line 0, in state A, with nothing outstanding. -/
def repeatedEntry : HostLine := ⟨0, 2, 0, 0, false, []⟩
/-- The state at reset, but with both entries of line 0. -/
def listedTwice : State := { State.reset with hostLines := [snoopedEntry, repeatedEntry] }

/-- The home reads the first entry of a line. -/
theorem hostEntry_listedTwice : listedTwice.hostEntry (lineAddr 0) = snoopedEntry := by decide +kernel

/-- The answered entry, with its waiting access served, leaves the list, and only the repeated entry stays. -/
theorem serveWaiting_listedTwice_hostLines :
    ((listedTwice.setHostEntry (answeredEntry snoopedEntry)).serveWaiting (lineAddr 0)).hostLines = [repeatedEntry] := by
  decide +kernel

/-- The response ends the snoop and serves what waited. -/
theorem exec_backInvalidateSnoopResponse_listedTwice :
    exec (.backInvalidateSnoopResponse 0) listedTwice =
      .next ((listedTwice.setHostEntry (answeredEntry snoopedEntry)).serveWaiting (lineAddr 0)) := by
  change execBackInvalidateSnoopResponse 0 listedTwice = _
  unfold execBackInvalidateSnoopResponse
  rw [hostEntry_listedTwice]
  rfl

/-- A state that lists only the repeated entry reads line 0 in state A. -/
theorem hostEntry_st_of_repeated {t : State} (h : t.hostLines = [repeatedEntry]) : (t.hostEntry (lineAddr 0)).st = 2 := by
  have hkind : (lineAddr 0).kind = .hbm := rfl
  have hfind : [repeatedEntry].find? (fun x => x.line == lineNo (lineAddr 0)) = some repeatedEntry := by decide
  simp only [State.hostEntry, if_pos hkind, h, hfind]
  rfl

/-- Refutes O41: in a state that lists a line twice among the host-state entries, the response to the line's snoop leaves it in state
A. The state is none that steps reach, since `State.setHostEntry` replaces a line's entry; the statement does not shut it out. -/
theorem not_homeHostResults : ¬ Obligations.HomeHostResults := by
  unfold Obligations.HomeHostResults
  rintro ⟨-, -, -, hsnoop, -⟩
  obtain ⟨-, hanswer, -⟩ := hsnoop listedTwice 0 (by decide) rfl
  rw [hostEntry_listedTwice] at hanswer
  obtain ⟨t, ht, hst, -⟩ := hanswer (by decide) rfl
  rw [exec_backInvalidateSnoopResponse_listedTwice] at ht
  cases ht
  rw [hostEntry_st_of_repeated serveWaiting_listedTwice_hostLines] at hst
  exact absurd hst (by decide)

end Sys2Proof.Machine
end

section
/-!
## Hint words (O10)

HDR, IMM, MODH and SAFE (06 R100 to R104, R106, 03 R57): which check of each fails, and what each does when none does.
-/
namespace Sys2Proof.Machine

section
variable {s : State} {c : Ctx} {f : FH}

/-! ### HDR (06 R100, R101) -/

theorem hdrWait_succ (p : Int) (i : Nat) : hdrWait p (i + 1) = trit p (6 + i) :=
  congrArg (trit p) (by omega)

theorem hdrOk_iff (p : Int) : hdrOk p = true ↔ 0 < field p 18 3 ∧ (∀ i ∈ List.range 12, trit p (6 + i) ≠ -1) ∧
    0 ≤ field p 3 3 ∧ field p 3 3 ≤ 12 ∧ 0 ≤ field p 0 3 ∧ field p 0 3 ≤ 12 := by
  simp only [hdrOk, Bool.and_eq_true, decide_eq_true_eq, List.all_map, List.all_eq_true, Function.comp_apply, hdrWait_succ,
    bne_iff_ne, and_assoc]
  rfl

theorem mem_hdrWaits {p : Int} {n : Nat} : n ∈ hdrWaits p ↔ ∃ i ∈ List.range 12, trit p (6 + i) = 1 ∧ i + 1 = n := by
  simp only [hdrWaits, List.mem_filter, List.mem_map, beq_iff_eq]
  constructor
  · rintro ⟨⟨i, hi, rfl⟩, hw⟩
    exact ⟨i, hi, (hdrWait_succ p i).symm.trans hw, rfl⟩
  · rintro ⟨i, hi, hw, rfl⟩
    exact ⟨⟨i, hi, rfl⟩, (hdrWait_succ p i).trans hw⟩

/-- Inside a handler, or with nothing unreported, no report falls due (23 R400). -/
theorem reportDue_eq_none (h : c.r.handler.active = true ∨ (c.r.fails = [] ∧ c.r.escDue = [] ∧ c.r.escLost = []))
    (fail : CmdFail → Bool) (esc : Nat → Bool) : reportDue s c fail esc = none := by
  unfold reportDue
  rcases h with h | ⟨hf, hd, hl⟩
  · rw [if_pos h]
  · simp [hf, hd, hl]

theorem execHdr_illop (h : Issuing s c) (hp : c.gen0 = true ∨ c.e.rem ≠ 0 ∨ field f.pay 18 3 = 0) :
    execHdr f s = .next (takeTrap s c Trap.illop) := by
  refine withRow_error h ?_
  have hb : (!c.gen0 && c.e.rem == 0 && hdrLen f.pay != 0) = false := by
    rcases hp with hp | hp | hp <;> simp [hp, hdrLen]
  rw [hb, need_false, bind_error]

/-- A header where it may stand (06 R101). -/
theorem need_header (hg : c.gen0 = false) (hr : c.e.rem = 0) (hl : field f.pay 18 3 ≠ 0) :
    need (!c.gen0 && c.e.rem == 0 && hdrLen f.pay != 0) Trap.illop = .ok () := by
  have hb : (!c.gen0 && c.e.rem == 0 && hdrLen f.pay != 0) = true := by
    simpa [hg, hr] using show hdrLen f.pay ≠ 0 from hl
  rw [hb, need_true]

theorem execHdr_illmod (h : Issuing s c) (hg : c.gen0 = false) (hr : c.e.rem = 0) (hl : field f.pay 18 3 ≠ 0)
    (hok : hdrOk f.pay = false) : execHdr f s = .next (takeTrap s c Trap.illmod) := by
  refine withRow_error h ?_
  rw [need_header hg hr hl, hok]
  rfl

/-- A header whose fields are right waits for the first of its flags that counts something. -/
theorem execHdr_hold (h : Issuing s c) (hg : c.gen0 = false) (hr : c.e.rem = 0) (hok : hdrOk f.pay = true) {i : Nat}
    (hw : (hdrWaits f.pay).find? (fun i => c.r.flag i != 0) = some i) : execHdr f s = .next (s.hold c 1 i) := by
  refine withRow_ok h ?_
  rw [need_header hg hr ((hdrOk_iff _).mp hok).1.ne', hok, need_true, bind_ok, bind_ok, hw]

/-- With every flag it waits for at 0 and nothing to report, it opens its clause. -/
theorem execHdr_open (h : Issuing s c) (hg : c.gen0 = false) (hr : c.e.rem = 0) (hok : hdrOk f.pay = true)
    (hw : (hdrWaits f.pay).find? (fun i => c.r.flag i != 0) = none)
    (hd : c.r.handler.active = true ∨ (c.r.fails = [] ∧ c.r.escDue = [] ∧ c.r.escLost = [])) :
    execHdr f s = .next (s.issued c c.r [c.opened f.pay]) := by
  refine withRow_ok h ?_
  rw [need_header hg hr ((hdrOk_iff _).mp hok).1.ne', hok, need_true, bind_ok, bind_ok, hw]
  dsimp only
  rw [reportDue_eq_none hd]

/-! ### Prefixes (06 R102 to R104) -/

theorem prefixWord_kept {may : Option Prefix → Bool} {p : CodeAddr → Option Prefix → Prefix} (h : Issuing s c)
    (hc : clauseOk c false = true) (hm : may c.r.pfx = true) (hr : c.gen0 = true ∨ 1 < c.rem) :
    prefixWord s may p = .next (s.modRow c.ref
      (fun r => { r with pfx := some (p c.e.addr r.pfx), wait := none, stall := 0 })) :=
  withRow_ok h (by
    have hb : (may c.r.pfx && (c.gen0 || decide (1 < c.rem))) = true := by simpa [hm] using hr
    rw [hc, need_true, bind_ok, hb, need_true, bind_ok])

theorem prefixWord_illmod {may : Option Prefix → Bool} {p : CodeAddr → Option Prefix → Prefix} (h : Issuing s c)
    (hc : clauseOk c false = true) (hm : may c.r.pfx = false ∨ (c.gen0 = false ∧ c.rem ≤ 1)) :
    prefixWord s may p = .next (takeTrap s c Trap.illmod) := by
  refine withRow_error h ?_
  have hb : (may c.r.pfx && (c.gen0 || decide (1 < c.rem))) = false := by
    rcases hm with hm | ⟨hg, hr⟩
    · simp [hm]
    · simp [hg, hr]
  rw [hc, need_true, bind_ok, hb, need_false, bind_error]

theorem execImm_kept (h : Issuing s c) (hc : clauseOk c false = true) (hp : c.r.pfx = none)
    (hr : c.gen0 = true ∨ 1 < c.rem) : execImm f s = .next (s.modRow c.ref
      (fun r => { r with pfx := some ⟨c.e.addr, some f.pay, none⟩, wait := none, stall := 0 })) :=
  prefixWord_kept h hc (Option.isNone_iff_eq_none.mpr hp) hr

theorem execImm_illmod (h : Issuing s c) (hc : clauseOk c false = true)
    (hp : c.r.pfx ≠ none ∨ (c.gen0 = false ∧ c.rem ≤ 1)) : execImm f s = .next (takeTrap s c Trap.illmod) :=
  prefixWord_illmod h hc (hp.imp_left fun hp => Option.isNone_eq_false_iff.mpr (Option.isSome_iff_ne_none.mpr hp))

theorem execModh_kept (h : Issuing s c) (hc : clauseOk c false = true) (hp : ∀ q, c.r.pfx = some q → q.modh = none)
    (hr : c.gen0 = true ∨ 1 < c.rem) : execModh f s = .next (s.modRow c.ref
      (fun r => { r with pfx := some ⟨c.e.addr, r.pfx.bind (·.imm), some f.pay⟩, wait := none, stall := 0 })) := by
  refine prefixWord_kept h hc ?_ hr
  cases hq : c.r.pfx with
  | none => rfl
  | some q => exact Option.isNone_iff_eq_none.mpr (hp q hq)

theorem execModh_illmod (h : Issuing s c) (hc : clauseOk c false = true)
    (hp : (∃ q, c.r.pfx = some q ∧ q.modh ≠ none) ∨ (c.gen0 = false ∧ c.rem ≤ 1)) :
    execModh f s = .next (takeTrap s c Trap.illmod) := by
  refine prefixWord_illmod h hc (hp.imp_left ?_)
  rintro ⟨q, hq, hm⟩
  simpa [hq] using Option.isSome_iff_ne_none.mpr hm

/-! ### SAFE (06 R106, 03 R57) -/

theorem execSafe_illop (h : Issuing s c) (hg : c.gen0 = true) : execSafe f s = .next (takeTrap s c Trap.illop) :=
  withRow_error h (by simp [hg])

theorem execSafe_illmod (h : Issuing s c) (hc : clauseOk c false = true) (hg : c.gen0 = false)
    (hp : f.pay < 0 ∨ c.r.pfx ≠ none) : execSafe f s = .next (takeTrap s c Trap.illmod) := by
  refine withRow_error h ?_
  have hb : (decide (0 ≤ f.pay) && c.r.pfx.isNone) = false := by
    rcases hp with hp | hp
    · simp [hp]
    · simp [Option.isNone_eq_false_iff.mpr (Option.isSome_iff_ne_none.mpr hp)]
  rw [hg, hc, hb]
  rfl

/-- A SAFE that traps nothing does what its safe point asks, and goes on where that asks nothing. -/
theorem execSafe_ok (h : Issuing s c) (hc : clauseOk c false = true) (hg : c.gen0 = false) (hp : 0 ≤ f.pay)
    (hx : c.r.pfx = none) : execSafe f s = .next ((s.atSafePoint c f.pay).getD (s.finish c c.r)) :=
  withRow_ok h (by simp [hc, hg, hp, hx])

/-- With no portable halt, the swap alone is asked for. -/
theorem State.atSafePoint_of_running (hh : c.g.portHalt = false) (pt : Int) : s.atSafePoint c pt = s.swapAt c pt :=
  if_neg (by simp [hh])

theorem State.swapAt_eq_none {pt : Int} (h : s.swapTarget c pt = none) : s.swapAt c pt = none := by
  simp only [State.swapAt, h]

theorem State.swapAt_eq_some {pt gen : Int} {new : SafePoint} (h : s.swapTarget c pt = some (gen, new)) :
    s.swapAt c pt = some (if swapBusy c (s.ownMap c new) new then s.hold c 11
      else s.issued c { movePlaces c (s.ownMap c new) new with ahead := none }
        [c.goto c.act ⟨gen, c.e.addr.slot, new.idx⟩]) := by
  simp only [State.swapAt, h]

/-! ### The statement -/

/-- R100, R101: what a header in order does. -/
theorem hdr_results (h : Issuing s c) (hg : c.gen0 = false) (hr : c.e.rem = 0) (hok : hdrOk f.pay = true) :
    ((∃ i ∈ List.range 12, trit f.pay (6 + i) = 1 ∧ c.r.flag (i + 1) ≠ 0) →
      ∃ i, exec (.hdr f) s = .next (s.hold c 1 i) ∧ c.r.flag i ≠ 0) ∧
    ((∀ i ∈ List.range 12, trit f.pay (6 + i) = 1 → c.r.flag (i + 1) = 0) →
      (c.r.handler.active = true ∨ (c.r.fails = [] ∧ c.r.escDue = [] ∧ c.r.escLost = [])) →
      exec (.hdr f) s = .next (s.issued c c.r [c.opened f.pay])) := by
  constructor
  · rintro ⟨i, hi, hw, hf⟩
    have hsome : ((hdrWaits f.pay).find? (fun i => c.r.flag i != 0)).isSome = true :=
      List.find?_isSome.mpr ⟨i + 1, mem_hdrWaits.mpr ⟨i, hi, hw, rfl⟩, by simpa using hf⟩
    obtain ⟨j, hj⟩ := Option.isSome_iff_exists.mp hsome
    exact ⟨j, execHdr_hold h hg hr hok hj, by simpa using List.find?_some hj⟩
  · intro hw hd
    refine execHdr_open h hg hr hok (List.find?_eq_none.mpr fun n hn => ?_) hd
    obtain ⟨i, hi, hwi, rfl⟩ := mem_hdrWaits.mp hn
    simp [hw i hi hwi]

/-- R106, R57: what a SAFE in order does where no portable halt stands. -/
theorem safe_results (h : Issuing s c) (hc : clauseOk c false = true) (hg : c.gen0 = false) (hp : 0 ≤ f.pay)
    (hx : c.r.pfx = none) (hh : c.g.portHalt = false) :
    (s.swapTarget c f.pay = none → exec (.safe f) s = .next (s.finish c c.r)) ∧
    (∀ gen new, s.swapTarget c f.pay = some (gen, new) →
      (swapBusy c (s.ownMap c new) new = true → exec (.safe f) s = .next (s.hold c 11)) ∧
      (swapBusy c (s.ownMap c new) new = false →
        exec (.safe f) s = .next (s.issued c { movePlaces c (s.ownMap c new) new with ahead := none }
          [c.goto c.act ⟨gen, c.e.addr.slot, new.idx⟩]))) := by
  have hs : exec (.safe f) s = .next ((s.swapAt c f.pay).getD (s.finish c c.r)) := by
    rw [← State.atSafePoint_of_running hh]
    exact execSafe_ok h hc hg hp hx
  refine ⟨fun ht => ?_, fun gen new ht => ⟨fun hb => ?_, fun hb => ?_⟩⟩
  · rw [hs, State.swapAt_eq_none ht, Option.getD_none]
  · rw [hs, State.swapAt_eq_some ht, if_pos hb, Option.getD_some]
  · rw [hs, State.swapAt_eq_some ht, if_neg (by simp [hb]), Option.getD_some]

end

/-- Settles O10: each hint word by its own lemmas, a header and a SAFE in order by `hdr_results` and `safe_results`. -/
theorem hintResults : Obligations.HintResults := by
  unfold Obligations.HintResults
  intro s c f h
  refine ⟨execHdr_illop h, fun hg hr => ⟨fun hl hbad => ?_, fun hl hw hab => ?_⟩, fun hc hr => ⟨fun hp => ?_, fun hp => ?_⟩,
    fun hc hp => ?_, fun hc hp => ?_, execSafe_illop h, fun hc hg => ⟨execSafe_illmod h hc hg, fun hp hx hh => ?_⟩⟩
  · refine execHdr_illmod h hg hr hl (Bool.eq_false_iff.mpr fun hok => ?_)
    obtain ⟨hlen, hwait, ha, ha', hb, hb'⟩ := (hdrOk_iff _).mp hok
    rcases hbad with hbad | ⟨i, hi, hbad⟩ | hbad
    · omega
    · exact hwait i hi hbad
    · omega
  · exact hdr_results h hg hr ((hdrOk_iff _).mpr ⟨hl, hw, hab⟩)
  · exact execImm_kept h hc hp hr
  · exact execModh_kept h hc hp hr
  · exact execImm_illmod h hc hp
  · exact execModh_illmod h hc hp
  · exact safe_results h hc hg hp hx hh

end Sys2Proof.Machine
end

section
/-!
## Code objects and queues (O46)

Requests of the code object registers, loads, unloads and translations (03 R52, R53, R55), and the arming and disarming of launch
queues (04 R64, R66).
-/
namespace Sys2Proof.Machine

/-! ### Registers of a function, slots of a field -/

section
variable {s : State} {fn : Int} {f : Nat} {n : Int}

theorem State.fnRegs_modFn (h : (fn + 1).toNat < s.host.fns.length) (g : FnRegs → FnRegs) :
    (s.modFn fn g).fnRegs fn = g (s.fnRegs fn) := getD_modAt_same h g _

/-- A second change of the same registers. -/
theorem State.fnRegs_modFn_modFn (h : (fn + 1).toNat < s.host.fns.length) (g k : FnRegs → FnRegs) :
    ((s.modFn fn g).modFn fn k).fnRegs fn = k (g (s.fnRegs fn)) := by
  rw [State.fnRegs_modFn (by simpa [State.modFn] using h), State.fnRegs_modFn h]

theorem State.fieldSt_modField_same (h : f < s.fields.length) (g : FieldSt → FieldSt) :
    (s.modField f g).fieldSt f = g (s.fieldSt f) := getD_modAt_same h g _

theorem State.fieldSt_modField_other {k : Nat} (h : k ≠ f) (s : State) (g : FieldSt → FieldSt) :
    (s.modField f g).fieldSt k = s.fieldSt k := getD_modAt_other h _ g _

/-- A change of a field that keeps what `p` reads of it keeps that of every field. -/
theorem State.fieldSt_modField_keeps {γ : Type} (p : FieldSt → γ) {g : FieldSt → FieldSt} (h : ∀ x, p (g x) = p x) (k : Nat) :
    p ((s.modField f g).fieldSt k) = p (s.fieldSt k) := getD_modAt_keeps p (h _)

theorem State.slot_of_slot? {sl : Slot} (h : s.slot? f n = some sl) : sl.slot = n := by
  simpa using List.find?_some h

theorem State.slotState_of_slot? {sl : Slot} (h : s.slot? f n = some sl) : s.slotState f n = sl.state := by
  simp only [State.slotState, h, Option.map_some, Option.getD_some]

theorem State.slotState_of_none (h : s.slot? f n = none) : s.slotState f n = 0 := by
  simp only [State.slotState, h, Option.map_none, Option.getD_none]

theorem State.exists_slot_of_slotState {k : Nat} (h : s.slotState f n = k) (hk : k ≠ 0) :
    ∃ sl, s.slot? f n = some sl ∧ sl.state = k := by
  cases hs : s.slot? f n with
  | none => exact absurd ((State.slotState_of_none hs).symm.trans h) hk.symm
  | some sl => exact ⟨sl, rfl, (State.slotState_of_slot? hs).symm.trans h⟩

theorem State.slot?_setSlot_same (h : f < s.fields.length) (x : Slot) : (s.setSlot f x).slot? f x.slot = some x := by
  unfold State.slot? State.setSlot
  rw [State.fieldSt_modField_same h]
  have hold : ((s.fieldSt f).slots.filter (fun z => z.slot != x.slot)).find? (fun z => z.slot == x.slot) = none := by
    simp [List.find?_eq_none]
  simp [List.find?_append, hold]

theorem State.slot?_setSlot_other {g : Nat} {x : Slot} (h : (g, n) ≠ (f, x.slot)) : (s.setSlot f x).slot? g n = s.slot? g n := by
  unfold State.slot? State.setSlot
  by_cases hg : g = f
  · subst hg
    have hn : n ≠ x.slot := fun hn => h (by rw [hn])
    refine getD_modAt_keeps (fun y : FieldSt => y.slots.find? (fun z => z.slot == n)) ?_
    simp only [List.find?_append, List.find?_filter]
    have hx : [x].find? (fun z => z.slot == n) = none := by simpa using hn.symm
    rw [hx, Option.or_none]
    congr 1
    funext z
    by_cases hz : z.slot = n <;> simp [hz, hn]
  · rw [State.fieldSt_modField_other hg]

theorem State.slot?_clearSlot (h : f < s.fields.length) (n : Int) : (s.clearSlot f n).slot? f n = none := by
  unfold State.slot? State.clearSlot
  rw [State.fieldSt_modField_same h]
  simp [List.find?_filter]

end

/-! ### What the loader and the sower read does not depend on the registers (03 R53, 04 R66) -/

/-- The state with other fields and other registers of functions. -/
def State.withRegisters (s : State) (fs : List FieldSt) (fns : List FnRegs) : State :=
  { s with fields := fs, host := { s.host with fns := fns } }

section
variable {s : State} {fs : List FieldSt} {fns : List FnRegs} {f : Nat}

theorem State.hbmRead_withRegisters (k n : Nat) (d : List Tryte) : (s.withRegisters fs fns).hbmRead k n d = s.hbmRead k n d := rfl
theorem State.sliceKey_withRegisters (l : Loc) : (s.withRegisters fs fns).sliceKey l = s.sliceKey l := rfl
theorem State.lineAt_withRegisters (l : Loc) : (s.withRegisters fs fns).lineAt l = s.lineAt l := rfl
theorem State.hbmServed_withRegisters (a : Nat) : (s.withRegisters fs fns).hbmServed a = s.hbmServed a := rfl
theorem State.needsFill_withRegisters (l : Loc) : (s.withRegisters fs fns).needsFill l = s.needsFill l := rfl
theorem State.hostBlock_withRegisters (o : Nat) : (s.withRegisters fs fns).hostBlock o = s.hostBlock o := rfl
theorem State.hubCut_withRegisters : (s.withRegisters fs fns).hubCut = s.hubCut := rfl

theorem State.badLine_withRegisters (l : Loc) : (s.withRegisters fs fns).badLine l = s.badLine l := by
  simp only [State.badLine, State.readHbm, State.hbmRead_withRegisters, State.sliceKey_withRegisters, State.lineAt_withRegisters,
    State.hbmServed_withRegisters, State.needsFill_withRegisters, State.hostBlock_withRegisters]
  rfl

theorem State.malformed_withRegisters (g : Nat) (e : Word) (k : Nat) :
    (s.withRegisters fs fns).malformed g e k = s.malformed g e k := rfl
theorem State.hbmWord_withRegisters (a : Nat) : (s.withRegisters fs fns).hbmWord a = s.hbmWord a := rfl

theorem State.walkFrom_withRegisters (va : Int) (n level : Nat) (e : Word) (ps : List (Nat × Word)) :
    (s.withRegisters fs fns).walkFrom f va n level e ps = s.walkFrom f va n level e ps := by
  induction n generalizing level e ps with
  | zero => rfl
  | succ n ih => 
    simp only [State.walkFrom, State.malformed_withRegisters, State.hbmWord_withRegisters, ih]
    rfl

theorem State.walkLinesFrom_withRegisters (va : Int) (n level : Nat) (e : Word) :
    (s.withRegisters fs fns).walkLinesFrom f va n level e = s.walkLinesFrom f va n level e := by
  induction n generalizing level e with
  | zero => rfl
  | succ n ih => simp only [State.walkLinesFrom, State.malformed_withRegisters, State.hbmWord_withRegisters, ih]

-- The field's tables begin where they did.
variable (hp : ((s.withRegisters fs fns).fieldSt f).ptroot = (s.fieldSt f).ptroot)
include hp

theorem State.xlatTables_withRegisters (va : Int) (n : Need) :
    (s.withRegisters fs fns).xlatTables f va n = s.xlatTables f va n := by
  unfold State.xlatTables State.walk
  simp only [State.walkFrom_withRegisters, hp]
  rfl

theorem State.walkLines_withRegisters (va : Int) : (s.withRegisters fs fns).walkLines f va = s.walkLines f va := by
  simp only [State.walkLines, State.walkLinesFrom_withRegisters, hp]

theorem State.loaderLine_withRegisters (va : Int) : (s.withRegisters fs fns).loaderLine f va = s.loaderLine f va := by
  unfold State.loaderLine State.loaderLoc
  simp only [State.xlatTables_withRegisters hp, State.walkLines_withRegisters hp,
    State.badLine_withRegisters, State.hubCut_withRegisters, State.lineAt_withRegisters]

theorem State.loaderLines_withRegisters (n : Nat) (va : Int) :
    (s.withRegisters fs fns).loaderLines f n va = s.loaderLines f n va := by
  induction n generalizing va with
  | zero => rfl
  | succ n ih =>
    unfold State.loaderLines
    simp only [State.loaderLine_withRegisters hp, ih]

theorem State.copyObject_withRegisters (base : Int) : (s.withRegisters fs fns).copyObject f base = s.copyObject f base := by
  simp only [State.copyObject, State.loaderLine_withRegisters hp, State.loaderLines_withRegisters hp]

theorem State.fieldLine_withRegisters (va : Int) (n : Need) : (s.withRegisters fs fns).fieldLine f va n = s.fieldLine f va n := by
  unfold State.fieldLine
  simp only [State.xlatTables_withRegisters hp, State.walkLines_withRegisters hp, State.badLine_withRegisters,
    State.hubCut_withRegisters]

theorem State.fieldWords_withRegisters (va : Int) (n : Nat) : (s.withRegisters fs fns).fieldWords f va n = s.fieldWords f va n := by
  simp only [State.fieldWords, State.fieldWord, State.fieldLine_withRegisters hp]
  rfl

end

theorem State.copyObject_modFn (s : State) (fn : Int) (g : FnRegs → FnRegs) (f : Nat) (base : Int) :
    (s.modFn fn g).copyObject f base = s.copyObject f base :=
  State.copyObject_withRegisters (s := s) (fs := s.fields) (fns := modAt s.host.fns (fn + 1).toNat g) (f := f) rfl base

theorem State.fieldWords_modQueue (s : State) (f q : Nat) (g : Queue → Queue) (va : Int) (n : Nat) :
    (s.modQueue f q g).fieldWords f va n = s.fieldWords f va n := by
  have hp : ((s.modQueue f q g).fieldSt f).ptroot = (s.fieldSt f).ptroot :=
    State.fieldSt_modField_keeps FieldSt.ptroot (fun _ => by rfl) f
  exact State.fieldWords_withRegisters (s := s) (fs := (s.modQueue f q g).fields) (fns := s.host.fns) hp va n

/-! ### Requests (03 R53) -/

section
variable {s : State} {fn slot : Int} {f : Nat} {go : Nat → Host.Outcome State Fault Refusal}

theorem State.clRequest_of_no_field (h : s.fnField fn = none) : s.clRequest fn go = .next s := by
  simp only [State.clRequest, h]

theorem State.clRequest_of_busy (h : s.fnField fn = some f) (hb : (s.fnRegs fn).loading.isSome = true) :
    s.clRequest fn go = .next (s.modFn fn (fun x => { x with ovr := true })) := by
  simp only [State.clRequest, h, hb, if_true]

theorem State.clRequest_of_free (h : s.fnField fn = some f) (hb : (s.fnRegs fn).loading = none) :
    s.clRequest fn go = go f := by
  simp only [State.clRequest, h, hb, Option.isSome_none, Bool.false_eq_true, if_false]

theorem execClcmdLoad_refused (h : s.fnField fn = some f) (hb : (s.fnRegs fn).loading = none) (hs : s.slotState f slot ≠ 0) :
    execClcmdLoad fn slot s = .next (s.clStatus fn slot (-6)) :=
  (State.clRequest_of_free h hb).trans (if_pos hs)

theorem execClcmdLoad_begins (h : s.fnField fn = some f) (hb : (s.fnRegs fn).loading = none) (hs : s.slotState f slot = 0) :
    execClcmdLoad fn slot s = .next (((s.setSlot f ⟨slot, 1, [], []⟩).clStatus fn slot 1).modFn fn
      (fun x => { x with loading := some (f, slot, x.clbase) })) :=
  (State.clRequest_of_free h hb).trans (if_neg (not_not.mpr hs))

theorem execClcmdUnload_refused (h : s.fnField fn = some f) (hb : (s.fnRegs fn).loading = none) (hs : s.slotState f slot ≠ 2) :
    execClcmdUnload fn slot s = .next (s.clStatus fn slot (-7)) := by
  refine (State.clRequest_of_free h hb).trans ?_
  cases hsl : s.slot? f slot with
  | none => rfl
  | some sl =>
    rw [State.slotState_of_slot? hsl] at hs
    exact if_pos hs

/-- An unload while a gang of the slot is left (23 R414). -/
theorem execClcmdUnload_defers {sl : Slot} (h : s.fnField fn = some f) (hb : (s.fnRegs fn).loading = none)
    (hsl : s.slot? f slot = some sl) (hs : sl.state = 2) (hg : ∃ g ∈ s.gangs, g.fld = f ∧ g.lrec.slot = slot) :
    execClcmdUnload fn slot s = .next ((s.setSlot f { sl with state := 3 }).clStatus fn slot 4) := by
  have hany : s.gangs.any (fun g => g.fld == f && g.lrec.slot == slot) = true := by simpa using hg
  refine (State.clRequest_of_free h hb).trans ?_
  simp only [hsl]
  rw [if_neg (not_not.mpr hs), if_pos hany]

theorem execClcmdUnload_empties {sl : Slot} (h : s.fnField fn = some f) (hb : (s.fnRegs fn).loading = none)
    (hsl : s.slot? f slot = some sl) (hs : sl.state = 2) (hg : ∀ g ∈ s.gangs, g.fld = f → g.lrec.slot ≠ slot) :
    execClcmdUnload fn slot s = .next ((s.clearSlot f slot).clStatus fn slot 3) := by
  have hany : s.gangs.any (fun g => g.fld == f && g.lrec.slot == slot) = false := by simpa using hg
  refine (State.clRequest_of_free h hb).trans ?_
  simp only [hsl]
  rw [if_neg (not_not.mpr hs), if_neg (by simp [hany])]

end

/-- R53: CLCMD while no request of its function is in progress. -/
theorem clcmd_results {s : State} {fn slot : Int} {f : Nat} (hfn : (fn + 1).toNat < s.host.fns.length)
    (h : s.fnField fn = some f) (hf : f < s.fields.length) (hb : (s.fnRegs fn).loading = none) :
    (s.slotState f slot ≠ 0 → ∃ t : State, exec (.clcmdLoad fn slot) s = .next t ∧ t.fields = s.fields ∧
      (t.fnRegs fn).st = -6 ∧ (t.fnRegs fn).slot = slot) ∧
    (s.slotState f slot = 0 → ∃ t : State, exec (.clcmdLoad fn slot) s = .next t ∧ t.slotState f slot = 1 ∧
      t.fnRegs fn = { s.fnRegs fn with st := 1, slot := slot, loading := some (f, slot, (s.fnRegs fn).clbase) } ∧
      (∀ g n, (g, n) ≠ (f, slot) → t.slot? g n = s.slot? g n)) ∧
    (s.slotState f slot ≠ 2 → ∃ t : State, exec (.clcmdUnload fn slot) s = .next t ∧ t.fields = s.fields ∧
      (t.fnRegs fn).st = -7) ∧
    (s.slotState f slot = 2 → (∃ g ∈ s.gangs, g.fld = f ∧ g.lrec.slot = slot) →
      ∃ t : State, exec (.clcmdUnload fn slot) s = .next t ∧ t.slotState f slot = 3 ∧ (t.fnRegs fn).st = 4) ∧
    (s.slotState f slot = 2 → (∀ g ∈ s.gangs, g.fld = f → g.lrec.slot ≠ slot) →
      ∃ t : State, exec (.clcmdUnload fn slot) s = .next t ∧ t.slot? f slot = none ∧ (t.fnRegs fn).st = 3) := by
  refine ⟨fun hs => ?_, fun hs => ?_, fun hs => ?_, fun hs hg => ?_, fun hs hg => ?_⟩
  · have hr := State.fnRegs_modFn hfn (fun x => { x with st := -6, slot := slot })
    exact ⟨_, execClcmdLoad_refused h hb hs, rfl, congrArg FnRegs.st hr, congrArg FnRegs.slot hr⟩
  · have hset := State.slot?_setSlot_same hf ⟨slot, 1, [], []⟩
    exact ⟨_, execClcmdLoad_begins h hb hs, State.slotState_of_slot? hset,
      State.fnRegs_modFn_modFn (s := s.setSlot f ⟨slot, 1, [], []⟩) hfn _ _,
      fun g n hn => State.slot?_setSlot_other (s := s) (x := ⟨slot, 1, [], []⟩) hn⟩
  · have hr := State.fnRegs_modFn hfn (fun x => { x with st := -7, slot := slot })
    exact ⟨_, execClcmdUnload_refused h hb hs, rfl, congrArg FnRegs.st hr⟩
  · obtain ⟨sl, hsl, hst⟩ := State.exists_slot_of_slotState hs (by decide)
    have hset := State.slot?_setSlot_same hf { sl with state := 3 }
    have hstate : (s.setSlot f { sl with state := 3 }).slotState f slot = 3 := by
      rw [← State.slot_of_slot? hsl]
      exact State.slotState_of_slot? hset
    exact ⟨_, execClcmdUnload_defers h hb hsl hst hg, hstate,
      congrArg FnRegs.st (State.fnRegs_modFn (s := s.setSlot f { sl with state := 3 }) hfn _)⟩
  · obtain ⟨sl, hsl, hst⟩ := State.exists_slot_of_slotState hs (by decide)
    exact ⟨_, execClcmdUnload_empties h hb hsl hst hg, State.slot?_clearSlot hf slot,
      congrArg FnRegs.st (State.fnRegs_modFn (s := s.clearSlot f slot) hfn _)⟩

/-! ### The end of a load (03 R53, Table 3.4) -/

/-- The status of a copied object is the first of −1 to −5 whose check fails, else +2. -/
theorem objStatus_eq (x : FieldSt) (vc : Int) (ws : List Word) : objStatus x vc ws =
    (if objW ws 0 ≠ 2859599056870 then -1
      else if ¬(1 ≤ objW ws 1 ∧ vc - 4 ≤ objW ws 1 ∧ objW ws 1 ≤ vc) then -2
      else if objW ws 2 < wval x.minver then -3
      else if objSigned x ws = false then -4
      else if objFormed ws = false then -5
      else 2) := by
  have hv : (objW ws 1 < vc - 4 ∨ vc < objW ws 1 ∨ objW ws 1 < 1) ↔
      ¬(1 ≤ objW ws 1 ∧ vc - 4 ≤ objW ws 1 ∧ objW ws 1 ≤ vc) := by omega
  simp only [objStatus, objMagic, hv, Bool.not_eq_true']

/-- A load in progress ends: the state with the status and the slot as its checks leave them. -/
def State.loadEnds (s : State) (fn : Int) (f : Nat) (slot : Int) (base : Word) : State :=
  let u := s.modFn fn (fun x => { x with loading := none })
  match s.copyObject f (wval base) with
  | none => (u.clearSlot f slot).clStatus fn slot (-8)
  | some ws =>
    let st := objStatus (s.fieldSt f) s.portableVersion ws
    if st = 2 then (u.setSlot f ⟨slot, 2, ws, [portableGen ws]⟩).clStatus fn slot 2 else (u.clearSlot f slot).clStatus fn slot st

theorem execCodeObjectLoadComplete_ends {s : State} {fn slot : Int} {f : Nat} {base : Word}
    (hl : (s.fnRegs fn).loading = some (f, slot, base)) (hn : s.snoopFirst false (s.loaderNeeds f (wval base)) = none) :
    execCodeObjectLoadComplete fn s = .next (s.loadEnds fn f slot base) := by
  unfold execCodeObjectLoadComplete State.loadEnds
  simp only [hl, hn, State.copyObject_modFn]
  cases s.copyObject f (wval base) with
  | none => rfl
  | some ws => exact (apply_ite Host.Outcome.next _ _ _).symm

/-- Registers after a load has ended with a status, whatever its slot has become. -/
theorem State.fnRegs_after_load {s u : State} {fn : Int} (h : (fn + 1).toNat < s.host.fns.length)
    (hu : u.host = (s.modFn fn (fun x => { x with loading := none })).host) (slot st : Int) :
    (u.clStatus fn slot st).fnRegs fn = { s.fnRegs fn with st := st, slot := slot, loading := none } := by
  have hs := State.fnRegs_modFn_modFn h (fun x => { x with loading := none }) (fun x => { x with st := st, slot := slot })
  rw [← hs]
  simp only [State.clStatus, State.fnRegs, State.modFn, hu]

section
variable {s : State} {fn slot : Int} {f : Nat} {base : Word} (hfn : (fn + 1).toNat < s.host.fns.length)
  (hf : f < s.fields.length)
include hfn hf

theorem State.loadEnds_unreadable (hc : s.copyObject f (wval base) = none) :
    ((s.loadEnds fn f slot base).fnRegs fn).st = -8 ∧ (s.loadEnds fn f slot base).slot? f slot = none := by
  simp only [State.loadEnds, hc]
  exact ⟨congrArg FnRegs.st (State.fnRegs_after_load hfn rfl slot (-8)),
    State.slot?_clearSlot (s := s.modFn fn (fun x => { x with loading := none })) hf slot⟩

theorem State.loadEnds_copied {ws : List Word} (hc : s.copyObject f (wval base) = some ws) :
    ((s.loadEnds fn f slot base).fnRegs fn).st = objStatus (s.fieldSt f) s.portableVersion ws ∧
    (objStatus (s.fieldSt f) s.portableVersion ws ≠ 2 → (s.loadEnds fn f slot base).slot? f slot = none) ∧
    (objStatus (s.fieldSt f) s.portableVersion ws = 2 →
      (s.loadEnds fn f slot base).slot? f slot = some ⟨slot, 2, ws, [portableGen ws]⟩) := by
  have hclear := State.slot?_clearSlot (s := s.modFn fn (fun x => { x with loading := none })) hf slot
  have hset := State.slot?_setSlot_same (s := s.modFn fn (fun x => { x with loading := none })) hf
    ⟨slot, 2, ws, [portableGen ws]⟩
  by_cases h2 : objStatus (s.fieldSt f) s.portableVersion ws = 2
  · simp only [State.loadEnds, hc, if_pos h2]
    exact ⟨(congrArg FnRegs.st (State.fnRegs_after_load hfn rfl slot 2)).trans h2.symm, fun h => absurd h2 h, fun _ => hset⟩
  · simp only [State.loadEnds, hc, if_neg h2]
    exact ⟨congrArg FnRegs.st (State.fnRegs_after_load hfn rfl slot _), fun _ => hclear, fun h => absurd h h2⟩

omit hf in
theorem State.loadEnds_ended : ((s.loadEnds fn f slot base).fnRegs fn).loading = none ∧
    ((s.loadEnds fn f slot base).fnRegs fn).slot = slot ∧ (s.loadEnds fn f slot base).mem = s.mem ∧
    (s.loadEnds fn f slot base).gangs = s.gangs := by
  have hends (u : State) (st : Int) (hu : u.host = (s.modFn fn (fun x => { x with loading := none })).host)
      (hm : u.mem = s.mem) (hg : u.gangs = s.gangs) :
      ((u.clStatus fn slot st).fnRegs fn).loading = none ∧ ((u.clStatus fn slot st).fnRegs fn).slot = slot ∧
        (u.clStatus fn slot st).mem = s.mem ∧ (u.clStatus fn slot st).gangs = s.gangs := by
    rw [State.fnRegs_after_load hfn hu slot st]
    exact ⟨rfl, rfl, hm, hg⟩
  unfold State.loadEnds
  dsimp only
  split
  · exact hends _ _ rfl rfl rfl
  · split
    · exact hends _ _ rfl rfl rfl
    · exact hends _ _ rfl rfl rfl

end

/-- R53, Table 3.4: the end of a load whose lines are ready. -/
theorem codeObjectLoadComplete_results {s : State} {fn slot : Int} {f : Nat} {base : Word}
    (hfn : (fn + 1).toNat < s.host.fns.length) (hf : f < s.fields.length)
    (hl : (s.fnRegs fn).loading = some (f, slot, base)) (hn : s.snoopFirst false (s.loaderNeeds f (wval base)) = none) :
    ∃ t : State, exec (.codeObjectLoadComplete fn) s = .next t ∧ (t.fnRegs fn).loading = none ∧ (t.fnRegs fn).slot = slot ∧
      t.mem = s.mem ∧ t.gangs = s.gangs ∧
      (s.copyObject f (wval base) = none → (t.fnRegs fn).st = -8 ∧ t.slot? f slot = none) ∧
      ∀ ws, s.copyObject f (wval base) = some ws →
        (t.fnRegs fn).st = objStatus (s.fieldSt f) s.fw.vc ws ∧
        ((t.fnRegs fn).st ≠ 2 → t.slot? f slot = none) ∧
        ((t.fnRegs fn).st = 2 → ∃ sl g, t.slot? f slot = some sl ∧ sl.state = 2 ∧ sl.words = ws ∧ sl.gens = [g] ∧ g.gen = 0 ∧
          g.tr.words = ws ∧ g.tr.funcs = objFuncs ws) := by
  obtain ⟨hload, hslot, hmem, hgangs⟩ := State.loadEnds_ended hfn (f := f) (slot := slot) (base := base)
  refine ⟨_, execCodeObjectLoadComplete_ends hl hn, hload, hslot, hmem, hgangs, State.loadEnds_unreadable hfn hf,
    fun ws hc => ?_⟩
  obtain ⟨hst, hfails, hloads⟩ := State.loadEnds_copied hfn hf hc (slot := slot)
  rw [hst]
  exact ⟨rfl, hfails, fun h2 => ⟨_, portableGen ws, hloads h2, rfl, rfl, rfl, rfl, rfl, rfl⟩⟩

/-! ### Generations (03 R55) -/

/-- The cycle has the 26 values +1 to +13 and −13 to −1. -/
theorem nextGen13_range {g : Int} (h : |g| ≤ 13) : nextGen13 g ≠ 0 ∧ |nextGen13 g| ≤ 13 := by
  rw [abs_le] at h ⊢
  unfold nextGen13
  split
  · omega
  · split <;> omega

theorem freeGen_eq_none {held : List Int} (hheld : ∀ v : Int, v ≠ 0 → |v| ≤ 13 → v ∈ held) (n : Nat) {g : Int} (h : |g| ≤ 13) :
    freeGen held n g = none := by
  induction n generalizing g with
  | zero => rfl
  | succ n ih =>
    obtain ⟨hne, hle⟩ := nextGen13_range h
    rw [freeGen, if_pos (by simpa using hheld _ hne hle), ih hle]

theorem freeGen_spec {held : List Int} {n : Nat} {g v : Int} (h : |g| ≤ 13) (hv : freeGen held n g = some v) :
    v ∉ held ∧ v ≠ 0 ∧ |v| ≤ 13 := by
  induction n generalizing g with
  | zero => cases hv
  | succ n ih =>
    rw [freeGen] at hv
    split at hv
    · exact ih (nextGen13_range h).2 hv
    · rename_i hheld
      cases hv
      exact ⟨by simpa using hheld, nextGen13_range h⟩

/-- The place of a value in the cycle, which begins behind 0: +1 to +13 at 1 to 13, −13 to −1 at 14 to 26. -/
def genPlace (g : Int) : Int := if 0 ≤ g then g else g + 27
/-- How many values of the cycle stand between two of them. -/
def genGap (g v : Int) : Int := (genPlace v - genPlace g - 1) % 26

theorem genGap_lt (g v : Int) : genGap g v < 26 := Int.emod_lt_of_pos _ (by decide)

/-- Each step of the cycle comes nearer to a value until it meets it. -/
theorem genGap_nextGen13 {g v : Int} (h : |g| ≤ 13) (hv0 : v ≠ 0) (hv : |v| ≤ 13) (hne : nextGen13 g ≠ v) :
    0 < genGap g v ∧ genGap (nextGen13 g) v = genGap g v - 1 := by
  rw [abs_le] at h hv
  unfold genGap genPlace nextGen13 at *
  omega

/-- The search meets a value that nothing holds. -/
theorem freeGen_ne_none {held : List Int} {v : Int} (hv0 : v ≠ 0) (hv : |v| ≤ 13) (hheld : v ∉ held) {n : Nat} {g : Int}
    (h : |g| ≤ 13) (hn : genGap g v < n) : freeGen held n g ≠ none := by
  induction n generalizing g with
  | zero => exact absurd hn (not_lt.mpr (Int.emod_nonneg _ (by decide)))
  | succ n ih =>
    rw [freeGen]
    split
    · rename_i hc
      have hne : nextGen13 g ≠ v := fun he => hheld (by simpa [he] using hc)
      obtain ⟨-, hgap⟩ := genGap_nextGen13 h hv0 hv hne
      exact ih (nextGen13_range h).2 (by omega)
    · exact Option.some_ne_none _

/-! ### What the release of code leaves of a new generation (23 R414, R415) -/

/-- The newest generation of a slot stays, and the generations before it stay or go. -/
theorem sweepSlot_newest (gids : List Word) (refs : List (Int × Int)) {sl : Slot} {old : List Gener} {g : Gener}
    (hgens : sl.gens = old ++ [g]) (hheld : g.held = true) :
    ∃ kept, (sweepSlot gids refs sl).gens = kept ++ [g] ∧ ∀ x ∈ kept, x.gen ∈ old.map (·.gen) := by
  have hcur : sl.current = g.gen := by simp [Slot.current, hgens]
  unfold sweepSlot
  dsimp only
  rw [hgens, List.map_append, List.filter_append, hcur]
  simp only [List.map_cons, List.map_nil, ne_eq, not_true_eq_false, false_and, and_false, if_false, List.filter_cons, hheld,
    Bool.true_or, if_true, List.filter_nil]
  refine ⟨_, rfl, fun x hx => ?_⟩
  obtain ⟨y, hy, rfl⟩ := List.mem_map.mp (List.mem_of_mem_filter hx)
  exact List.mem_map.mpr ⟨y, hy, by split <;> rfl⟩

theorem find_filter_map {α : Type} {p q : α → Bool} {k : α → α} {l : List α} {a : α} (h : l.find? q = some a)
    (hk : ∀ x, q (k x) = q x) (hp : p (k a) = true) : ((l.map k).filter p).find? q = some (k a) := by
  induction l with
  | nil => cases h
  | cons x r ih =>
    rw [List.find?_cons] at h
    rw [List.map_cons, List.filter_cons]
    cases hq : q x with
    | true =>
      rw [hq] at h
      cases h
      rw [if_pos hp, List.find?_cons, hk, hq]
    | false =>
      rw [hq] at h
      split
      · rw [List.find?_cons, hk, hq]
        exact ih h
      · exact ih h

/-- A loaded slot is swept, and not freed. -/
theorem State.slot?_sweepCode {s : State} {f : Nat} {n : Int} {sl : Slot} (hf : f < s.fields.length)
    (h : s.slot? f n = some sl) (hs : sl.state = 2) :
    ∃ gids refs, (s.sweepCode f).slot? f n = some (sweepSlot gids refs sl) := by
  refine ⟨(s.gangs.filter (fun g => g.fld == f)).map (·.gid), (s.gangs.filter (fun g => g.fld == f)).flatMap (·.codeRefs), ?_⟩
  unfold State.slot? State.sweepCode
  dsimp only
  rw [State.fieldSt_modField_same hf]
  exact find_filter_map h (fun _ => rfl) (by simp [sweepSlot, hs])

/-! ### Translations (03 R55) -/

section
variable {s : State} {f : Nat} {slot : Int} {tr : Translation}

theorem execTranslationInstall_refused (h : translationOk tr = false ∨ ∀ sl, s.slot? f slot = some sl → sl.state ≠ 2) :
    execTranslationInstall f slot tr s = .next s := by
  unfold execTranslationInstall
  split
  · rfl
  · rename_i sl hsl
    exact if_pos (h.elim (fun h => .inr (by simp [h])) fun h => .inl (h sl hsl))

theorem execTranslationInstall_waits {sl : Slot} (hsl : s.slot? f slot = some sl)
    (hg : freeGen (sl.gens.map (·.gen)) 26 sl.current = none) : execTranslationInstall f slot tr s = .next s := by
  unfold execTranslationInstall
  simp only [hsl, hg]
  split <;> rfl

/-- A slot with a generation more, the newest. -/
def Slot.withGen (sl : Slot) (g : Gener) : Slot := { sl with gens := sl.gens ++ [g] }

theorem State.issueCount_setSlot (s : State) (f k : Nat) (x : Slot) :
    ((s.setSlot f x).fieldSt k).issueCount = (s.fieldSt k).issueCount :=
  State.fieldSt_modField_keeps FieldSt.issueCount (fun _ => by rfl) k

theorem State.issueCount_sweepCode (s : State) (f k : Nat) : ((s.sweepCode f).fieldSt k).issueCount = (s.fieldSt k).issueCount :=
  State.fieldSt_modField_keeps FieldSt.issueCount (fun _ => by rfl) k

/-- The field after a generation has been installed in one of its slots. -/
def State.installed (s : State) (f : Nat) (sl : Slot) (g : Gener) : State :=
  ((s.modField f (fun x => { x with issueCount := g.count })).setSlot f (sl.withGen g)).sweepCode f

theorem execTranslationInstall_installs {sl : Slot} {g : Int} (hok : translationOk tr = true) (hsl : s.slot? f slot = some sl)
    (hs : sl.state = 2) (hg : freeGen (sl.gens.map (·.gen)) 26 sl.current = some g) :
    execTranslationInstall f slot tr s = .next (s.installed f sl ⟨g, (s.fieldSt f).issueCount + 1, true, tr, []⟩) := by
  unfold execTranslationInstall
  simp only [hsl, hg]
  exact if_neg (by simp [hs, hok])

/-- A new generation is the slot's newest, found under its value, and the field counts it. -/
theorem State.installed_results {sl : Slot} {g : Gener} (hf : f < s.fields.length) (hs : sl.state = 2) (hheld : g.held = true)
    (hnew : g.gen ∉ sl.gens.map (·.gen)) :
    ∃ d, (s.installed f sl g).slot? f sl.slot = some d ∧ d.current = g.gen ∧
      (s.installed f sl g).gener? f sl.slot g.gen = some g ∧ ((s.installed f sl g).fieldSt f).issueCount = g.count := by
  have hf' : f < (s.modField f (fun x => { x with issueCount := g.count })).fields.length := by simpa [State.modField] using hf
  have hf'' : f < ((s.modField f (fun x => { x with issueCount := g.count })).setSlot f (sl.withGen g)).fields.length := by
    simpa [State.setSlot, State.modField] using hf
  have hset := State.slot?_setSlot_same hf' (sl.withGen g)
  obtain ⟨gids, refs, hd⟩ := State.slot?_sweepCode hf'' hset hs
  obtain ⟨kept, hgens, hkept⟩ := sweepSlot_newest gids refs (sl := sl.withGen g) rfl hheld
  have hold : kept.find? (fun x => x.gen == g.gen && x.held) = none := by
    refine List.find?_eq_none.mpr fun x hx => ?_
    have hne : x.gen ≠ g.gen := fun he => hnew (he ▸ hkept x hx)
    simp [hne]
  refine ⟨_, hd, ?_, ?_, ?_⟩
  · simp [Slot.current, hgens]
  · unfold State.gener?
    rw [show (s.installed f sl g).slot? f sl.slot = _ from hd]
    simp [hgens, List.find?_append, hold, hheld]
  · rw [State.installed, State.issueCount_sweepCode, State.issueCount_setSlot, State.fieldSt_modField_same hf]

end

/-- R55: a translation for a loaded slot under a value that is free. -/
theorem translationInstall_results {s : State} {f : Nat} {slot v : Int} {tr : Translation} {sl : Slot} (hf : f < s.fields.length)
    (hsl : s.slot? f slot = some sl) (hs : sl.state = 2) (hslot : sl.slot = slot) (hcur : |sl.current| ≤ 13)
    (hok : translationOk tr = true) (hv0 : v ≠ 0) (hv : |v| ≤ 13) (hfree : v ∉ sl.gens.map (·.gen)) :
    ∃ (t : State) (d : Slot) (g : Gener), exec (.translationInstall f slot tr) s = .next t ∧ t.slot? f slot = some d ∧
      d.current = g.gen ∧ t.gener? f slot g.gen = some g ∧ g.tr = tr ∧ g.gen ≠ 0 ∧ |g.gen| ≤ 13 ∧
      g.gen ∉ sl.gens.map (·.gen) ∧ g.count = (s.fieldSt f).issueCount + 1 ∧ (t.fieldSt f).issueCount = g.count ∧
      t.gangs = s.gangs ∧ t.mem = s.mem := by
  subst hslot
  obtain ⟨g, hg⟩ := Option.ne_none_iff_exists'.mp (freeGen_ne_none hv0 hv hfree hcur (genGap_lt sl.current v))
  obtain ⟨hnew, hne, hle⟩ := freeGen_spec hcur hg
  obtain ⟨d, hd, hdcur, hgen, hcount⟩ := State.installed_results (s := s)
    (g := ⟨g, (s.fieldSt f).issueCount + 1, true, tr, []⟩) hf hs rfl hnew
  exact ⟨_, d, _, execTranslationInstall_installs hok hsl hs hg, hd, hdcur, hgen, rfl, hne, hle, hnew, rfl, hcount, rfl, rfl⟩

/-! ### Queues of a field (04 R66) -/

section
variable {s : State} {f q : Nat}

/-- The field has the queue. -/
def State.HasQueue (s : State) (f q : Nat) : Prop := f < s.fields.length ∧ q < (s.fieldSt f).queues.length

theorem State.queue_of_fields {s t : State} (h : t.fields = s.fields) (f q : Nat) : t.queue f q = s.queue f q := by
  simp only [State.queue, State.fieldSt, h]

theorem State.queue_modQueue_same (h : s.HasQueue f q) (g : Queue → Queue) : (s.modQueue f q g).queue f q = g (s.queue f q) := by
  unfold State.queue State.modQueue
  rw [State.fieldSt_modField_same h.1]
  exact getD_modAt_same h.2 g _

theorem State.queue_modQueue_other {k j : Nat} (h : (k, j) ≠ (f, q)) (s : State) (g : Queue → Queue) :
    (s.modQueue f q g).queue k j = s.queue k j := by
  unfold State.queue State.modQueue
  by_cases hk : k = f
  · subst hk
    have hj : j ≠ q := fun hj => h (by rw [hj])
    exact getD_modAt_keeps (fun x : FieldSt => x.queues.getD j ⟨0, 0, 0, 0, 0, 0, -1⟩) (getD_modAt_other hj _ g _)
  · rw [State.fieldSt_modField_other hk]

/-- A change of a field that leaves its queues leaves every queue. -/
theorem State.queue_modField {g : FieldSt → FieldSt} (h : ∀ x, (g x).queues = x.queues) (k j : Nat) :
    (s.modField f g).queue k j = s.queue k j := by
  simp only [State.queue, State.fieldSt_modField_keeps FieldSt.queues h]

theorem State.HasQueue.of_fields {s t : State} (h : s.HasQueue f q) (ht : t.fields = s.fields) : t.HasQueue f q := by
  simpa only [State.HasQueue, State.fieldSt, ht] using h

theorem State.HasQueue.modField (h : s.HasQueue f q) {k : Nat} {g : FieldSt → FieldSt} (hg : ∀ x, (g x).queues = x.queues) :
    (s.modField k g).HasQueue f q :=
  ⟨by simpa [State.modField] using h.1, by simpa only [State.fieldSt_modField_keeps FieldSt.queues hg] using h.2⟩

theorem State.HasQueue.modQueue (h : s.HasQueue f q) (k j : Nat) (g : Queue → Queue) : (s.modQueue k j g).HasQueue f q := by
  refine ⟨by simpa [State.modQueue, State.modField] using h.1, ?_⟩
  have hl : ((s.modQueue k j g).fieldSt f).queues.length = (s.fieldSt f).queues.length :=
    State.fieldSt_modField_keeps (fun x => x.queues.length) (fun _ => by simp) f
  rw [hl]
  exact h.2

/-! ### Arming (04 R66) -/

/-- The end of an arming that is none changes nothing. -/
theorem State.endArming_of_not_armed (h : (s.queue f q).st ≠ 1) : s.endArming f q = s := if_pos h

theorem State.disarmAddrs_of_not_armed (h : (s.queue f q).st ≠ 1) : s.disarmAddrs f q = [] := by
  unfold State.disarmAddrs State.unfit
  rw [if_pos h, List.flatMap_nil]

/-- What an attempt to arm leaves as it was in every case, and the queue's new address. -/
structure State.Rebased (s t : State) (fn : Int) (f q : Nat) (base : Word) : Prop where
  base_eq : (t.queue f q).base = base
  by_eq : (t.queue f q).by_ = fn
  grids : t.grids = s.grids
  mem : t.mem = s.mem
  others : ∀ g k, (g, k) ≠ (f, q) → t.queue g k = s.queue g k

/-- The queue is faulted, with its cause. -/
def State.Faulted (t : State) (f q : Nat) (cause : Int) : Prop :=
  (t.queue f q).st = -1 ∧ (t.fieldSt f).fcause = cause ∧ (t.fieldSt f).fq = (q : Int)

/-- A queue disarmed and given an address by a function, before its header is checked. -/
def State.rebase (s : State) (fn : Int) (f q : Nat) (base : Word) : State :=
  (s.disarm f q).modQueue f q (fun x => { x with base := base, by_ := fn })

theorem State.rebase_of_not_armed (h : (s.queue f q).st ≠ 1) (fn : Int) (base : Word) : s.rebase fn f q base =
    (s.modQueue f q (fun x => { x with base := 0, st := 0 })).modQueue f q (fun x => { x with base := base, by_ := fn }) := by
  rw [State.rebase, State.disarm, State.endArming_of_not_armed h]

theorem State.HasQueue.rebase (hq : s.HasQueue f q) (h : (s.queue f q).st ≠ 1) (fn : Int) (base : Word) :
    (s.rebase fn f q base).HasQueue f q := by
  rw [State.rebase_of_not_armed h]
  exact (hq.modQueue f q _).modQueue f q _

theorem State.queue_rebase (hq : s.HasQueue f q) (h : (s.queue f q).st ≠ 1) (fn : Int) (base : Word) :
    (s.rebase fn f q base).queue f q = { s.queue f q with base := base, st := 0, by_ := fn } := by
  rw [State.rebase_of_not_armed h, State.queue_modQueue_same (hq.modQueue f q _), State.queue_modQueue_same hq]

theorem State.rebase_rebased (hq : s.HasQueue f q) (h : (s.queue f q).st ≠ 1) (fn : Int) (base : Word) :
    s.Rebased (s.rebase fn f q base) fn f q base where
  base_eq := by rw [State.queue_rebase hq h]
  by_eq := by rw [State.queue_rebase hq h]
  grids := by rw [State.rebase_of_not_armed h]; rfl
  mem := by rw [State.rebase_of_not_armed h]; rfl
  others g k hk := by
    rw [State.rebase_of_not_armed h, State.queue_modQueue_other hk, State.queue_modQueue_other hk]

/-- A later change of the queue keeps its address. -/
theorem State.Rebased.modQueue {t : State} {fn : Int} {base : Word} (h : s.Rebased t fn f q base) (hq : t.HasQueue f q)
    {g : Queue → Queue} (hg : ∀ x, (g x).base = x.base ∧ (g x).by_ = x.by_) : s.Rebased (t.modQueue f q g) fn f q base where
  base_eq := by rw [State.queue_modQueue_same hq, (hg _).1, h.base_eq]
  by_eq := by rw [State.queue_modQueue_same hq, (hg _).2, h.by_eq]
  grids := h.grids
  mem := h.mem
  others g k hk := by rw [State.queue_modQueue_other hk, h.others g k hk]

theorem State.Rebased.modField {t : State} {fn : Int} {base : Word} (h : s.Rebased t fn f q base)
    {g : FieldSt → FieldSt} (hg : ∀ x, (g x).queues = x.queues) : s.Rebased (t.modField f g) fn f q base where
  base_eq := by rw [State.queue_modField hg, h.base_eq]
  by_eq := by rw [State.queue_modField hg, h.by_eq]
  grids := h.grids
  mem := h.mem
  others g k hk := by rw [State.queue_modField hg, h.others g k hk]

/-- A fault of a queue that is not armed. -/
theorem faultQueue_results {t : State} {fn : Int} {base : Word} (h : s.Rebased t fn f q base) (hq : t.HasQueue f q)
    (ht : (t.queue f q).st ≠ 1) (cause : Int) :
    s.Rebased (faultQueue t f q cause) fn f q base ∧ (faultQueue t f q cause).Faulted f q cause := by
  have hkeep : ∀ x : FieldSt, ({ x with fcause := cause, fq := (q : Int) } : FieldSt).queues = x.queues := fun _ => rfl
  have hq' := hq.modField (k := f) hkeep
  have hfield := State.fieldSt_modField_same hq.1 (fun x => { x with fcause := cause, fq := (q : Int) })
  unfold faultQueue
  rw [State.endArming_of_not_armed ht]
  refine ⟨(h.modField hkeep).modQueue hq' (fun _ => ⟨rfl, rfl⟩), ?_, ?_, ?_⟩
  · rw [State.queue_modQueue_same hq']
  · exact (State.fieldSt_modField_keeps FieldSt.fcause (fun _ => by rfl) f).trans (congrArg FieldSt.fcause hfield)
  · exact (State.fieldSt_modField_keeps FieldSt.fq (fun _ => by rfl) f).trans (congrArg FieldSt.fq hfield)

theorem headerOk_iff (ws : List Word) : headerOk ws = true ↔
    1 ≤ wval (ws.getD 2 0) ∧ wval (ws.getD 2 0) ≤ 729 ∧ -1 ≤ wval (ws.getD 3 0) ∧ wval (ws.getD 3 0) ≤ 1 ∧
      (wval (ws.getD 4 0) = 0 ∨ wval (ws.getD 4 0) = 1) ∧ wval (ws.getD 5 0) = 0 ∧ wval (ws.getD 6 0) = 0 ∧
      wval (ws.getD 7 0) = 0 ∧ wval (ws.getD 8 0) = 0 := by
  simp [headerOk, List.range_succ, and_assoc]

/-- The queue is armed as its header says. -/
def State.ArmedBy (t : State) (f q : Nat) (ws : List Word) : Prop :=
  (t.queue f q).st = 1 ∧ ((t.queue f q).cap : Int) = wval (ws.getD 2 0) ∧ (t.queue f q).prio = wval (ws.getD 3 0) ∧
    (t.queue f q).mode = wval (ws.getD 4 0) ∧ (t.queue f q).head = ws.getD 1 0

section
variable {fn : Int} {base : Word} (hq : s.HasQueue f q) (h : (s.queue f q).st ≠ 1)
include h

omit h in
theorem State.armQueue_unaligned (ha : wval base % 27 ≠ 0) :
    s.armQueue fn f q base = faultQueue (s.rebase fn f q base) f q 3 := if_pos ha

theorem State.fieldWords_rebase (n : Nat) : (s.rebase fn f q base).fieldWords f (wval base) n = s.fieldWords f (wval base) n := by
  rw [State.rebase_of_not_armed h, State.fieldWords_modQueue, State.fieldWords_modQueue]

theorem State.armQueue_unreadable (ha : wval base % 27 = 0) (hw : s.fieldWords f (wval base) 9 = none) :
    s.armQueue fn f q base = faultQueue (s.rebase fn f q base) f q 2 := by
  have hw' := (State.fieldWords_rebase h (fn := fn) 9).trans hw
  refine (if_neg (not_not.mpr ha)).trans ?_
  simp only [State.rebase] at hw'
  simp only [hw', State.rebase]

/-- What a header that is read makes of the queue. -/
theorem State.armQueue_read (ha : wval base % 27 = 0) {ws : List Word} (hw : s.fieldWords f (wval base) 9 = some ws) :
    s.armQueue fn f q base = if headerOk ws then
        (s.rebase fn f q base).modQueue f q (fun x => { x with
          st := 1, cap := (wval (ws.getD 2 0)).toNat, prio := wval (ws.getD 3 0), mode := wval (ws.getD 4 0), head := ws.getD 1 0 })
      else faultQueue (s.rebase fn f q base) f q 1 := by
  have hw' := (State.fieldWords_rebase h (fn := fn) 9).trans hw
  refine (if_neg (not_not.mpr ha)).trans ?_
  simp only [State.rebase] at hw'
  simp only [hw', State.rebase]

include hq

/-- A fault that arming meets. -/
theorem State.faultQueue_rebase (cause : Int) : s.Rebased (faultQueue (s.rebase fn f q base) f q cause) fn f q base ∧
    (faultQueue (s.rebase fn f q base) f q cause).Faulted f q cause :=
  faultQueue_results (State.rebase_rebased hq h fn base) (hq.rebase h fn base)
    (by rw [State.queue_rebase hq h]; exact zero_ne_one) cause

/-- R66: a queue that is not armed, and a write of an address to its register. -/
theorem State.armQueue_results : s.Rebased (s.armQueue fn f q base) fn f q base ∧
    (wval base % 27 ≠ 0 → (s.armQueue fn f q base).Faulted f q 3) ∧
    (wval base % 27 = 0 → s.fieldWords f (wval base) 9 = none → (s.armQueue fn f q base).Faulted f q 2) ∧
    ∀ ws, wval base % 27 = 0 → s.fieldWords f (wval base) 9 = some ws →
      (headerOk ws = false → (s.armQueue fn f q base).Faulted f q 1) ∧
      (headerOk ws = true → (s.armQueue fn f q base).ArmedBy f q ws) := by
  have hfault := State.faultQueue_rebase hq h (fn := fn) (base := base)
  by_cases ha : wval base % 27 = 0
  · cases hw : s.fieldWords f (wval base) 9 with
    | none =>
      rw [State.armQueue_unreadable h ha hw]
      exact ⟨(hfault 2).1, fun hn => absurd ha hn, fun _ _ => (hfault 2).2, fun ws _ hc => nomatch hc⟩
    | some ws =>
      rw [State.armQueue_read h ha hw]
      by_cases hok : headerOk ws = true
      · rw [if_pos hok]
        have hq' := hq.rebase h fn base
        refine ⟨(State.rebase_rebased hq h fn base).modQueue hq' (fun _ => ⟨rfl, rfl⟩), fun hn => absurd ha hn,
          fun _ hc => (nomatch hc), fun ws' _ hc => ?_⟩
        cases hc
        obtain ⟨hcap, -⟩ := (headerOk_iff ws).mp hok
        refine ⟨fun hn => absurd hok (by simp [hn]), fun _ => ?_⟩
        unfold State.ArmedBy
        rw [State.queue_modQueue_same hq']
        exact ⟨rfl, Int.toNat_of_nonneg (by omega), rfl, rfl, rfl⟩
      · rw [if_neg hok]
        refine ⟨(hfault 1).1, fun hn => absurd ha hn, fun _ hc => (nomatch hc), fun ws' _ hc => ?_⟩
        cases hc
        exact ⟨fun _ => (hfault 1).2, fun hc => absurd hc hok⟩
  · rw [State.armQueue_unaligned ha]
    exact ⟨(hfault 3).1, fun _ => (hfault 3).2, fun hc => absurd hc ha, fun ws hc => absurd hc ha⟩

end

end

/-! ### What a write of a word of memory leaves as it was -/

/-- The fields, the records taken and the identifiers of the gangs: what no write of memory changes. -/
def State.sowerView (s : State) : List FieldSt × List Grid × List Word := (s.fields, s.grids, s.gangs.map (·.gid))

theorem map_modFirst {α β : Type} {p : α → Bool} {g : α → α} {k : α → β} (h : ∀ x, k (g x) = k x) (l : List α) :
    (modFirst p g l).map k = l.map k := by
  induction l with
  | nil => rfl
  | cons x r ih =>
    unfold modFirst
    split
    · simp [h]
    · simp [ih]

section
variable (s : State)

theorem State.log_sowerView (k : Int) (g : Word) (p : Int) (pc i : Word) (l : Int) :
    (s.log k g p pc i l).sowerView = s.sowerView := (s.log_writesBack k g p pc i l).keeps State.sowerView rfl

theorem State.modBlock_sowerView (r : RowRef) (g : Block → Block) : (s.modBlock r g).sowerView = s.sowerView := by
  have hgid : (modFirst (fun x => x.gid == r.gid) (fun x => x.modBlock r.blk g) s.gangs).map (·.gid) = s.gangs.map (·.gid) :=
    map_modFirst (fun _ => by rfl) _
  exact congrArg (fun x => (s.fields, s.grids, x)) hgid

theorem State.setHostByte_sowerView (a v : Nat) : (s.setHostByte a v).sowerView = s.sowerView := rfl

theorem State.setHostBlock_sowerView (o : Nat) (bs : List Nat) : (s.setHostBlock o bs).sowerView = s.sowerView := by
  unfold State.setHostBlock
  exact foldl_keeps (p := State.sowerView) (fun t i => t.setHostByte_sowerView _ _) _ s

theorem State.putTrytes_sowerView (l : Loc) (ws : List (Nat × Tryte)) : (s.putTrytes l ws).sowerView = s.sowerView := by
  unfold State.putTrytes
  split
  · rfl
  · rfl
  · exact foldl_keeps (p := State.sowerView) (fun t w => t.setHostByte_sowerView _ _) ws s
  · exact s.setHostBlock_sowerView _ _
  · rfl

theorem State.evict_sowerView (x : L2Line) : (s.evict x).sowerView = s.sowerView :=
  (s.storeTag_writesBack x).keeps State.sowerView rfl

theorem State.makeRoom_sowerView (die slice line : Nat) : (s.makeRoom die slice line).sowerView = s.sowerView := by
  unfold State.makeRoom
  dsimp only
  split
  · rfl
  · split
    · rfl
    · split
      · rfl
      · exact s.evict_sowerView _

theorem State.l2Fill_sowerView (l : Loc) : (s.l2Fill l).sowerView = s.sowerView := by
  unfold State.l2Fill
  split
  · rfl
  · exact s.makeRoom_sowerView _ _ _

theorem State.l2Write_sowerView (l : Loc) (c : Bool) : (s.l2Write l c).sowerView = s.sowerView := s.l2Fill_sowerView l

theorem State.trigger_sowerView (line : Loc) : (s.trigger line).sowerView = s.sowerView := by
  simp [State.sowerView, State.trigger, Function.comp_def]

theorem State.homePut_sowerView (line : Loc) (ws : List (Nat × Tryte)) (c : Bool) :
    (s.homePut line ws c).sowerView = s.sowerView := by
  unfold State.homePut
  rw [State.trigger_sowerView, State.l2Write_sowerView, State.putTrytes_sowerView]

theorem State.flushOne_sowerView (who : RowRef) (line : Loc) : (s.flushOne who line).sowerView = s.sowerView := by
  unfold State.flushOne
  split
  · rfl
  · dsimp only
    split
    · rw [State.modBlock_sowerView, State.log_sowerView]
    · split
      · rw [State.modBlock_sowerView, State.log_sowerView]
      · rw [State.modBlock_sowerView]
        exact s.homePut_sowerView _ _ _

theorem State.flushLine_sowerView (line : Loc) : (s.flushLine line).sowerView = s.sowerView :=
  foldl_keeps (p := State.sowerView) (fun t w => t.flushOne_sowerView w line) _ s

theorem State.clearFailing_sowerView (line : Loc) : (s.clearFailing line).sowerView = s.sowerView := by
  unfold State.clearFailing
  split <;> rfl

theorem State.homeWrite_sowerView (line : Loc) (ws : List (Nat × Tryte)) (c : Bool) (src : Option (RowRef × Nat × Nat)) :
    (s.homeWrite line ws c src).sowerView = s.sowerView := by
  have hput : ((s.flushLine line).homePut line ws c).sowerView = s.sowerView := by
    rw [State.homePut_sowerView, State.flushLine_sowerView]
  unfold State.homeWrite
  dsimp only
  split
  · exact (State.clearFailing_sowerView _ line).trans hput
  · exact hput

theorem State.fieldPut_sowerView (f : Nat) (va : Int) (w : Word) : (s.fieldPut f va w).sowerView = s.sowerView := by
  unfold State.fieldPut
  split
  · rfl
  · exact s.homeWrite_sowerView _ _ _ _

theorem State.statPut_sowerView (f : Nat) (recAddr state reason : Int) :
    (s.statPut f recAddr state reason).sowerView = s.sowerView := by
  unfold State.statPut
  dsimp only
  split
  · exact s.fieldPut_sowerView _ _ _
  · exact s.log_sowerView _ _ _ _ _ _

theorem State.eventAdd_sowerView {t : State} (f : Nat) (va : Int) (h : s.eventAdd f va = some t) : t.sowerView = s.sowerView := by
  unfold State.eventAdd at h
  split at h
  · cases h
  · rename_i l _
    obtain ⟨v, -, rfl⟩ := Option.map_eq_some_iff.mp h
    rw [State.fieldPut_sowerView, State.flushLine_sowerView]

theorem State.bumpDone_sowerView (f : Nat) (va : Int) : (s.bumpDone f va).sowerView = s.sowerView := by
  unfold State.bumpDone
  split
  · rfl
  · cases h : s.eventAdd f va with
    | none => rfl
    | some t => exact s.eventAdd_sowerView f va h

theorem State.refuseRecord_sowerView (f : Nat) (recAddr : Int) (l : LaunchRec) (reason : Int) :
    (s.refuseRecord f recAddr l reason).sowerView = s.sowerView := by
  unfold State.refuseRecord
  rw [State.bumpDone_sowerView, State.statPut_sowerView]

end

/-! ### The end of an arming (04 R64, R66, R67) -/

/-- A refused record alone leaves the sower's records. -/
theorem State.refuseGrid_sowerView (s : State) (x : Grid) (reason : Int) : (s.refuseGrid x reason).sowerView =
    (s.fields, s.grids.filter (fun y => y.id != x.id), s.gangs.map (·.gid)) := by
  have hv := s.refuseRecord_sowerView x.fld (wval x.recAddr) x.lrec reason
  exact congrArg (fun v : List FieldSt × List Grid × List Word => (v.1, v.2.1.filter (fun y => y.id != x.id), v.2.2)) hv

/-- So do records refused one after another. -/
theorem State.refuseGrids_sowerView (l : List Grid) (reason : Int) (s : State) :
    (l.foldl (fun t x => t.refuseGrid x reason) s).sowerView =
      (s.fields, s.grids.filter (fun y => l.all (fun x => y.id != x.id)), s.gangs.map (·.gid)) := by
  induction l generalizing s with
  | nil => simp [State.sowerView]
  | cons x r ih =>
    have hx := s.refuseGrid_sowerView x reason
    simp only [State.sowerView, Prod.mk.injEq] at hx
    obtain ⟨hfields, hgrids, hgids⟩ := hx
    rw [List.foldl_cons, ih, hfields, hgrids, hgids, List.filter_filter]
    simp only [List.all_cons, Bool.and_comm]

section
variable {s : State} {f q : Nat}

/-- A record of the queue is armed no more. -/
def Grid.disarmedIn (f q : Nat) (x : Grid) : Grid := if x.fld = f ∧ x.q = q then { x with armed := false } else x

theorem Grid.disarmedIn_id (x : Grid) : (x.disarmedIn f q).id = x.id := by
  unfold Grid.disarmedIn
  split <;> rfl

theorem Grid.disarmedIn_armed {x : Grid} (hf : (x.disarmedIn f q).fld = f) (hq : (x.disarmedIn f q).q = q) :
    (x.disarmedIn f q).armed = false := by
  unfold Grid.disarmedIn at hf hq ⊢
  split
  · rfl
  · rename_i hne
    rw [if_neg hne] at hf hq
    exact absurd ⟨hf, hq⟩ hne

/-- The records of an arming that ends: those that now fit no cores are refused, and the others are armed no more. -/
def State.recordsDisarmed (s : State) (f q : Nat) : State :=
  let t := (s.unfit f q).foldl (fun t x => t.refuseGrid x 10) s
  { t with grids := t.grids.map (Grid.disarmedIn f q) }

theorem State.recordsDisarmed_view (s : State) (f q : Nat) : (s.recordsDisarmed f q).fields = s.fields ∧
    (s.recordsDisarmed f q).grids = (s.grids.filter (fun y => (s.unfit f q).all (fun x => y.id != x.id))).map (Grid.disarmedIn f q) ∧
    (s.recordsDisarmed f q).gangs.map (·.gid) = s.gangs.map (·.gid) := by
  have hv := State.refuseGrids_sowerView (s.unfit f q) 10 s
  simp only [State.sowerView, Prod.mk.injEq] at hv
  obtain ⟨hfields, hgrids, hgids⟩ := hv
  exact ⟨hfields, congrArg (List.map (Grid.disarmedIn f q)) hgrids, hgids⟩

/-- Beyond its records, the end of an arming touches the field's reservation alone (05 R89). -/
theorem State.endArming_eq (h : (s.queue f q).st = 1) : ∃ headOut : Bool, s.endArming f q =
    if headOut then (s.recordsDisarmed f q).modField f (fun x => { x with head := none }) else s.recordsDisarmed f q :=
  ⟨_, if_neg (not_not.mpr h)⟩

/-- The end of an arming keeps the queues and the gangs, refuses the records that now fit no cores, and disarms the queue's
others. -/
theorem State.endArming_armed (h : (s.queue f q).st = 1) :
    (∀ k j, (s.endArming f q).queue k j = s.queue k j) ∧ (s.endArming f q).gangs.map (·.gid) = s.gangs.map (·.gid) ∧
    (s.endArming f q).grids = (s.grids.filter (fun y => (s.unfit f q).all (fun x => y.id != x.id))).map (Grid.disarmedIn f q) ∧
    (s.HasQueue f q → (s.endArming f q).HasQueue f q) := by
  obtain ⟨hfields, hgrids, hgids⟩ := State.recordsDisarmed_view s f q
  obtain ⟨headOut, he⟩ := State.endArming_eq h
  have hkeep : ∀ x : FieldSt, ({ x with head := none } : FieldSt).queues = x.queues := fun _ => rfl
  rw [he]
  cases headOut with
  | false => exact ⟨fun k j => State.queue_of_fields hfields k j, hgids, hgrids, fun hq => hq.of_fields hfields⟩
  | true => exact ⟨fun k j => (State.queue_modField hkeep k j).trans (State.queue_of_fields hfields k j), hgids, hgrids,
      fun hq => (hq.of_fields hfields).modField hkeep⟩

/-- R66, R64: a queue that is disarmed. -/
theorem State.disarm_results (hq : s.HasQueue f q) : ((s.disarm f q).queue f q).st = 0 ∧ ((s.disarm f q).queue f q).base = 0 ∧
    (∀ x ∈ (s.disarm f q).grids, x.fld = f → x.q = q → (s.queue f q).st = 1 → x.armed = false) ∧
    (∀ x ∈ s.unfit f q, ∀ y ∈ (s.disarm f q).grids, y.id ≠ x.id) ∧
    (∀ g k, (g, k) ≠ (f, q) → (s.disarm f q).queue g k = s.queue g k) ∧
    (s.disarm f q).gangs.map (·.gid) = s.gangs.map (·.gid) := by
  by_cases h : (s.queue f q).st = 1
  · obtain ⟨hqueue, hgids, hgrids, hkeep⟩ := State.endArming_armed h
    have hset := State.queue_modQueue_same (hkeep hq) (fun x => { x with base := 0, st := 0 })
    refine ⟨congrArg Queue.st hset, congrArg Queue.base hset, fun x hx hf hq' _ => ?_, fun x hx y hy => ?_,
      fun g k hk => (State.queue_modQueue_other hk _ _).trans (hqueue g k), hgids⟩
    · obtain ⟨y, -, rfl⟩ := List.mem_map.mp (hgrids ▸ hx : x ∈ _)
      exact Grid.disarmedIn_armed hf hq'
    · obtain ⟨z, hz, rfl⟩ := List.mem_map.mp (hgrids ▸ hy : y ∈ _)
      have hall := (List.mem_filter.mp hz).2
      rw [Grid.disarmedIn_id]
      simpa using List.all_eq_true.mp hall x hx
  · have hset := State.queue_modQueue_same hq (fun x => { x with base := 0, st := 0 })
    have hunfit : s.unfit f q = [] := if_pos h
    rw [State.disarm, State.endArming_of_not_armed h, hunfit]
    exact ⟨congrArg Queue.st hset, congrArg Queue.base hset, fun _ _ _ _ hc => absurd hc h, fun _ hx => absurd hx (List.not_mem_nil),
      fun g k hk => State.queue_modQueue_other hk s _, rfl⟩

end

/-! ### Writes of LQBASE -/

section
variable {s : State} {fn : Int} {f q : Nat}

/-- Both ways to write 0 disarm the queue, once the lines that this writes are ready. -/
theorem exec_lqbase_zero (h : s.fnField fn = some f) (hq : q < 9) (ha : ∀ a, s.fieldAwait a f [] (s.disarmAddrs f q) = none) :
    ∀ i ∈ [Instr.lqbaseDisarm fn q, .lqbaseArm fn q 0], exec i s = .next (s.disarm f q) := by
  have hdisarm : execLqbaseDisarm fn q s = .next (s.disarm f q) := by
    simp only [execLqbaseDisarm, h, if_neg (not_le.mpr hq), ha]
  have harm : execLqbaseArm fn q 0 s = .next (s.disarm f q) := by
    simp only [execLqbaseArm, h, if_neg (not_le.mpr hq), if_true, ha]
  simp only [List.mem_cons, List.not_mem_nil, or_false, forall_eq_or_imp, forall_eq]
  exact ⟨hdisarm, harm⟩

theorem execLqbaseArm_arms (h : s.fnField fn = some f) (hq : q < 9) {base : Word} (hb : base ≠ 0) (hst : (s.queue f q).st ≠ 1)
    (ha : ∀ a, s.fieldAwait a f [wval base] [] = none) : execLqbaseArm fn q base s = .next (s.armQueue fn f q base) := by
  simp only [execLqbaseArm, h, if_neg (not_le.mpr hq), if_neg hb, State.disarmAddrs_of_not_armed hst, ha]

theorem execLqbaseDisarm_out_of_range (h : 9 ≤ q) : execLqbaseDisarm fn q s = .next s := by
  unfold execLqbaseDisarm
  split
  · rfl
  · exact if_pos h

end

/-! ### The statement -/

/-- Settles O46: requests by `clcmd_results` and `codeObjectLoadComplete_results`, translations by
`translationInstall_results`, queues by `State.disarm_results` and `State.armQueue_results`. -/
theorem codeQueueResults : Obligations.CodeQueueResults := by
  unfold Obligations.CodeQueueResults
  refine ⟨fun s fn _ hfn => ⟨fun slot => ⟨fun h => ?_, fun f h hf => ⟨fun hb => ?_, clcmd_results hfn h hf⟩⟩, fun hl => ?_,
    fun f slot base hl hf hn => ?_, fun f slot tr hf => ⟨fun hok => ?_, fun hs => ?_, fun sl hsl hs hslot hcur => ⟨fun hall => ?_,
      fun v hok hv0 hv hfree => translationInstall_results hf hsl hs hslot hcur hok hv0 hv hfree⟩⟩⟩,
    fun s fn q f hq9 h hf hq => ⟨fun ha i hi => ?_, fun base hb hst ha => ?_, fun k hk => ?_⟩⟩
  · exact ⟨State.clRequest_of_no_field h, State.clRequest_of_no_field h⟩
  · simp only [List.mem_cons, List.not_mem_nil, or_false, forall_eq_or_imp, forall_eq]
    have hr := State.fnRegs_modFn hfn (fun x => { x with ovr := true })
    exact ⟨⟨_, State.clRequest_of_busy h hb, hr, rfl⟩, _, State.clRequest_of_busy h hb, hr, rfl⟩
  · show execCodeObjectLoadComplete fn s = _
    simp only [execCodeObjectLoadComplete, hl]
  · simp only [← objStatus_eq]
    exact codeObjectLoadComplete_results hfn hf hl hn
  · exact execTranslationInstall_refused (.inl hok)
  · exact execTranslationInstall_refused (.inr hs)
  · exact execTranslationInstall_waits hsl (freeGen_eq_none hall 26 hcur)
  · exact ⟨_, exec_lqbase_zero h hq9 ha i hi, State.disarm_results ⟨hf, hq⟩⟩
  · obtain ⟨hre, hunaligned, hunreadable, hread⟩ := State.armQueue_results ⟨hf, hq⟩ hst (fn := fn) (base := base)
    refine ⟨_, execLqbaseArm_arms h hq9 hb hst ha, hre.base_eq, hre.by_eq, hre.grids, hre.mem, hre.others, hunaligned,
      hunreadable, fun ws hal hws => ?_⟩
    obtain ⟨hbad, hgood⟩ := hread ws hal hws
    rw [Bool.eq_false_iff, ne_eq, headerOk_iff] at hbad
    exact ⟨hbad, fun hok => hgood ((headerOk_iff ws).mpr hok)⟩
  · exact execLqbaseDisarm_out_of_range hk

end Sys2Proof.Machine
end

section
/-!
## LAUNCH and EVWAIT (O23)

LAUNCH at the row and at the queue's home (10 R189, 04 R72), EVWAIT and its second reading (10 R188, 15 R259).
-/
namespace Sys2Proof.Machine

/-! ### The issuing row in its state -/

theorem State.ctxOf_ref {s : State} {r : RowRef} {c : Ctx} (h : s.ctxOf r = some c) :
    c.ref = r ∧ s.block? r = some c.b ∧ s.row? r = some c.r := by
  unfold State.ctxOf State.ctxBy at h
  split at h
  · cases h
  · rename_i g hg
    split at h
    · cases h
    · rename_i b hb
      split at h
      · cases h
      · rename_i x hx
        split at h
        · cases h
        · cases h
          simp [State.block?, State.row?, hg, hb, hx]

theorem Issuing.block_row {s : State} {c : Ctx} (h : Issuing s c) : s.block? c.ref = some c.b ∧ s.row? c.ref = some c.r := by
  obtain ⟨r, -, hr⟩ := Option.bind_eq_some_iff.mp h.1
  obtain ⟨rfl, hb, hx⟩ := State.ctxOf_ref hr
  exact ⟨hb, hx⟩

theorem rowActs_all {c : Ctx} {p : Int} (h : (c.acting p).length = c.act.length) : rowActs c p = .ok true := if_pos h

/-! ### LAUNCH issues (10 R189) -/

section
variable {s t : State} {c : Ctx} {f : FF}

/-- What the checks of a LAUNCH that acts have passed, before those of its record's address. -/
def LaunchActs (c : Ctx) (f : FF) : Prop :=
  Free c false [dst f.x, src f.y, src f.z] (f.slot == 0 && f.ctl == 0 && scaDst c f.x && rowSrcs c [f.y, f.z])
    { p := true } ∧ flagFull c.r c.e.fb = false ∧ uniform c [f.y, f.z] = true ∧
    (c.acting c.mod.pred).length = c.act.length

/-- The row once its LAUNCH is on the way to the queue's home. -/
def State.launchedRow (s : State) (c : Ctx) (f : FF) : Row :=
  (({ s.marked c c.r 4 with launches := c.r.launches ++
      [⟨rdRow c f.y, word (rdRow c f.z), f.x, c.e.fb, c.gen0, c.act, s.steps⟩] } : Row).owe [f.x]).flagUp c.e.fb

theorem execLaunch_leaves (h : Issuing s c) (hf : LaunchActs c f) (hz : rdRow c f.z % 27 = 0) {ls : List Loc}
    (hk : checkAddrs s c 27 [rdRow c f.z, wrapT 27 (rdRow c f.z + 27)] = .ok (ls, t)) :
    execLaunch f s = .next (t.finish c (s.launchedRow c f)) := by
  obtain ⟨hfree, hfull, hu, ha⟩ := hf
  have hwait : flagWait c c.mod.pred c.e.fb = false := by simp [flagWait, hfull]
  refine withRow_ok h ?_
  simp only [gate_ok hfree.1, hfree.2, hwait, hu, rowActs_all ha, hz, hk, bind_ok, need_true, beq_self_eq_true]
  rfl

theorem execLaunch_misaligned (h : Issuing s c) (hf : LaunchActs c f) (hz : rdRow c f.z % 27 ≠ 0) :
    execLaunch f s = .next (takeTrap s c ⟨.align, some (rdRow c f.z), none⟩) := by
  obtain ⟨hfree, hfull, hu, ha⟩ := hf
  have hwait : flagWait c c.mod.pred c.e.fb = false := by simp [flagWait, hfull]
  refine withRow_error h ?_
  simp only [gate_ok hfree.1, hfree.2, hwait, hu, rowActs_all ha, beq_eq_false_iff_ne.mpr hz, bind_ok, need_true, need_false]
  rfl

end

/-! ### What a translation leaves as it was (12 R222) -/

theorem State.xlatWalk_gangs {s : State} {core f : Nat} {va : Int} {n : Need} {st : WalkStart}
    (h : (s.xlatWalk core f va n st).1.waits? = none) : (s.xlatWalk core f va n st).2.gangs = s.gangs := by
  unfold State.xlatWalk at h ⊢
  split
  · rfl
  · rename_i hw
    rw [hw] at h
    cases h
  · rfl
  · dsimp only
    split <;> rfl

/-- A translation that waits for nothing leaves every gang as it was. -/
theorem State.xlat_gangs {s : State} {core f : Nat} {va : Int} {n : Need} (h : (s.xlat core f va n).1.waits? = none) :
    (s.xlat core f va n).2.gangs = s.gangs := by
  generalize hy : s.xlat core f va n = y at h ⊢
  unfold State.xlat at hy
  dsimp only at hy
  split at hy
  · split at hy
    · subst hy
      rfl
    · subst hy
      exact State.xlatWalk_gangs h
  · split at hy
    · rename_i hw
      obtain ⟨st, -, hst⟩ := Option.map_eq_some_iff.mp hw
      have hg := State.xlatWalk_gangs (s := s) (core := core) (f := f) (va := va) (n := n) (st := st) (by rw [hst]; rfl)
      rw [hst] at hg
      subst hy
      exact hg
    · subst hy
      cases h
    · subst hy
      exact State.xlatWalk_gangs h

/-- So does the check of one address that passes. -/
theorem checkAddrs_gangs {s t : State} {c : Ctx} {len : Nat} {va : Int} {ls : List Loc}
    (h : checkAddrs s c len [va] = .ok (ls, t)) : t.gangs = s.gangs := by
  unfold checkAddrs at h
  dsimp only at h
  split at h
  · cases h
  · cases h
  · cases h
  · rename_i hw _ _
    have hn : (s.xlat c.core c.fld va { Need.load with len := len }).1.waits? = none := by
      simpa [State.xlats] using hw
    split at h
    · cases h
    · split at h
      · cases h
      · cases h
        exact State.xlat_gangs hn

theorem State.block?_of_gangs {s t : State} (h : t.gangs = s.gangs) (r : RowRef) : t.block? r = s.block? r := by
  simp only [State.block?, State.gang?, h]

theorem State.row?_of_gangs {s t : State} (h : t.gangs = s.gangs) (r : RowRef) : t.row? r = s.row? r := by
  simp only [State.row?, State.block?_of_gangs h]

/-! ### The word that EVWAIT reads (10 R188) -/

theorem State.overOrder_nil {s : State} {core : Nat} (h : (s.core core).order = []) (line : Loc) (d : List Tryte) :
    s.overOrder core line d = d := by
  simp only [State.overOrder, h, List.foldl_nil]

theorem seenTryte_nil (stamp : Nat) (d : List Tryte) (l : Loc) : seenTryte [] stamp d l = d.getD (l.a % 27) 0 := rfl

/-- A tryte of a line, by its place in the line. -/
theorem State.lineAt_getD (s : State) (l : Loc) {k : Nat} (hk : l.a % 27 + k < 27) :
    (s.lineAt (lineOf l)).getD ((locAt l k).a % 27) 0 = s.tryteAt (locAt l k) := by
  have hplace : (l.a + k) % 27 = l.a % 27 + k := by omega
  have haddr : 27 * (l.a / 27) + (l.a % 27 + k) = l.a + k := by omega
  simp [State.lineAt, locAt, lineOf, hplace, haddr, List.getD_eq_getElem?_getD, hk]

/-- With no store in the FIFO the row sees the word as its home holds it. -/
theorem State.wordFrom_seen (s : State) (stamp : Nat) {l : Loc} (hl : l.a % 27 ≤ 24) :
    wordFrom (seenTryte [] stamp (s.lineAt (lineOf l)) l) (seenTryte [] stamp (s.lineAt (lineOf l)) (locAt l 1))
      (seenTryte [] stamp (s.lineAt (lineOf l)) (locAt l 2)) = s.wordAt l := by
  simp only [seenTryte_nil, State.wordAt, s.lineAt_getD l (k := 1) (by omega), s.lineAt_getD l (k := 2) (by omega)]
  exact congrArg (wordFrom · _ _) (s.lineAt_getD l (k := 0) (by omega))

/-! ### EVWAIT -/

section
variable {s t : State} {c : Ctx} {f : FA}

/-- What the checks of an EVWAIT that acts have passed, before that of its address. -/
def EvwaitActs (c : Ctx) (f : FA) : Prop :=
  Free c false [dst f.dst, src f.a, src f.b] (predOk f.pred && f.ty == 0 && scaDst c f.dst && rowSrcs c [f.a, f.b])
    { scope := true } ∧ uniform c [f.a, f.b] = true ∧ (c.acting f.pred).length = c.act.length

theorem execEvwait_misaligned (h : Issuing s c) (hf : EvwaitActs c f) (ha : rdRow c f.a % 3 ≠ 0) :
    execEvwait f s = .next (takeTrap s c ⟨.align, some (rdRow c f.a), none⟩) := by
  obtain ⟨hfree, hu, hacts⟩ := hf
  refine withRow_error h ?_
  simp only [gate_ok hfree.1, hfree.2, hu, rowActs_all hacts, beq_eq_false_iff_ne.mpr ha, bind_ok, need_true, need_false]
  rfl

/-- The word's line is there and can be read. -/
def EvwaitReads (s : State) (c : Ctx) (f : FA) (l : Loc) (t : State) : Prop :=
  rdRow c f.a % 3 = 0 ∧ checkAddrs s c 3 [rdRow c f.a] = .ok ([l], t) ∧ t.badLine l = false ∧ t.cutOff c.die l = false

theorem execEvwait_loads (h : Issuing s c) (hf : EvwaitActs c f) {l : Loc} (hr : EvwaitReads s c f l t)
    (hl : c.r.loads ≠ []) : execEvwait f s = .next (t.hold c 9) := by
  obtain ⟨hfree, hu, hacts⟩ := hf
  obtain ⟨ha, hk, hbad, hcut⟩ := hr
  refine withRow_ok h ?_
  simp [gate_ok hfree.1, hfree.2, hu, rowActs_all hacts, ha, hk, hbad, hcut, hl]

/-- With nothing of the row or its core to wait for, the word decides. -/
theorem execEvwait_reads (h : Issuing s c) (hf : EvwaitActs c f) {l : Loc} (hr : EvwaitReads s c f l t)
    (hl : c.r.loads = []) (hfifo : c.r.fifo = []) (hrels : c.r.rels = []) (horder : (t.core c.core).order = [])
    (hw : t.windowRun l 3 false = true) (hsnoop : t.snoopFirst false [lineOf l] = none) (hplace : l.a % 27 ≤ 24) :
    execEvwait f s = .next (if wval (t.wordAt l) < rdRow c f.b then t.waitLine c (lineOf l) else
      (((t.l2Request (lineOf l) (c.core / 4) 0).refreshCopies c.core (lineOf l)).doAcquire c.core
        (if c.mod.scope = 0 then 6 else c.mod.scope)).finish c (wrRow c.gen0 c.w c.r c.act f.dst (wval (t.wordAt l)))) := by
  obtain ⟨hfree, hu, hacts⟩ := hf
  obtain ⟨ha, hk, hbad, hcut⟩ := hr
  have hgangs := checkAddrs_gangs hk
  have hwaits (o : MemOp) : t.loadWaits c.core c.r o = false := by simp [State.loadWaits, hfifo, horder]
  have hholds (o : MemOp) : relHolds c.r o = false := by simp [relHolds, hrels]
  have hopen : t.arOpen c.ref (s.steps + 1) = false := by
    obtain ⟨hb, hx⟩ := h.block_row
    have horder' : (t.core c.b.core).order = [] := horder
    simp [State.arOpen, State.block?_of_gangs hgangs, State.row?_of_gangs hgangs, hb, hx, hfifo, horder']
  refine withRow_ok h ?_
  simp only [gate_ok hfree.1, hfree.2, hu, rowActs_all hacts, ha, hk, hbad, hcut, hl, hwaits, hholds, hopen, hsnoop, hfifo,
    State.overOrder_nil horder, hw, bind_ok, need_true, beq_self_eq_true, List.headD_cons, State.wordFrom_seen t s.steps hplace]
  exact (apply_ite Except.ok _ _ _).symm

end

/-! ### The queue's home (04 R72) -/

/-- The state at another time of the always-on counter. -/
def State.atTime (s : State) (n : Nat) : State := { s with now := n }

section
variable {s : State} {n f : Nat}

theorem State.walkFrom_atTime (va : Int) (k level : Nat) (e : Word) (ps : List (Nat × Word)) :
    (s.atTime n).walkFrom f va k level e ps = s.walkFrom f va k level e ps := by
  induction k generalizing level e ps with
  | zero => rfl
  | succ k ih =>
    have hm (w : Word) (l : Nat) : (s.atTime n).malformed f w l = s.malformed f w l := rfl
    have hw (a : Nat) : (s.atTime n).hbmWord a = s.hbmWord a := rfl
    simp only [State.walkFrom, hm, hw, ih]

theorem State.walkLinesFrom_atTime (va : Int) (k level : Nat) (e : Word) :
    (s.atTime n).walkLinesFrom f va k level e = s.walkLinesFrom f va k level e := by
  induction k generalizing level e with
  | zero => rfl
  | succ k ih =>
    have hm (w : Word) (l : Nat) : (s.atTime n).malformed f w l = s.malformed f w l := rfl
    have hw (a : Nat) : (s.atTime n).hbmWord a = s.hbmWord a := rfl
    simp only [State.walkLinesFrom, hm, hw, ih]

/-- A translation does not read the time. -/
theorem State.fieldLine_atTime (va : Int) (k : Need) : (s.atTime n).fieldLine f va k = s.fieldLine f va k := by
  have hx (k : Need) : (s.atTime n).xlatTables f va k = s.xlatTables f va k := by
    unfold State.xlatTables State.walk
    rw [State.walkFrom_atTime]
    rfl
  have hl : (s.atTime n).walkLines f va = s.walkLines f va := State.walkLinesFrom_atTime va 3 0 _
  unfold State.fieldLine
  rw [hx, hl]
  rfl

theorem State.fieldWord_atTime (va : Int) : (s.atTime n).fieldWord f va = s.fieldWord f va := by
  simp only [State.fieldWord, State.fieldLine_atTime]
  rfl

theorem State.fieldWords_atTime (va : Int) (k : Nat) : (s.atTime n).fieldWords f va k = s.fieldWords f va k := by
  simp only [State.fieldWords, State.fieldWord_atTime]

theorem State.canWrite_atTime (va : Int) : (s.atTime n).canWrite f va = s.canWrite f va := by
  simp only [State.canWrite, State.fieldLine_atTime]

end

section
variable {s : State} {f : Nat} {r : RowRef} {q rec_ : Int}

theorem State.launchAt_no_queue (h : q < 0 ∨ 8 < q) : s.launchAt f r q rec_ = (-1, s) := if_pos h

variable (h0 : 0 ≤ q) (h8 : q ≤ 8) {tail head : Word} (ht : s.fieldWord f (wval (s.queue f q.toNat).base) = some tail)
  (hh : s.fieldWord f (wrapT 27 (wval (s.queue f q.toNat).base + 3)) = some head)
include h0 h8 ht hh

/-- A queue that is not armed for LAUNCH answers −1. -/
theorem State.launchAt_unarmed (h : (s.queue f q.toNat).st ≠ 1 ∨ (s.queue f q.toNat).mode ≠ 1) :
    s.launchAt f r q rec_ = (-1, s) := by
  unfold State.launchAt
  rw [if_neg (by omega)]
  simp only [ht, hh, if_pos h]

/-- A full queue answers 0. -/
theorem State.launchAt_full (hst : (s.queue f q.toNat).st = 1) (hm : (s.queue f q.toNat).mode = 1)
    (hcap : ((s.queue f q.toNat).cap : Int) ≤ wrapT 27 (wval tail - wval head)) : s.launchAt f r q rec_ = (0, s) := by
  unfold State.launchAt
  rw [if_neg (by omega)]
  simp [ht, hh, hst, hm, hcap]

/-- A queue with room takes the record into the slot of TAIL and answers +1. -/
theorem State.launchAt_takes (hst : (s.queue f q.toNat).st = 1) (hm : (s.queue f q.toNat).mode = 1)
    (hcap : wrapT 27 (wval tail - wval head) < ((s.queue f q.toNat).cap : Int)) {ws : List Word}
    (hws : s.fieldWords f rec_ 18 = some ws) {va : Int} (hva : slotVa (s.queue f q.toNat) (wval tail) = va)
    (h1 : s.canWrite f va = true) (h2 : s.canWrite f (wrapT 27 (va + 27)) = true)
    (h3 : s.canWrite f (wval (s.queue f q.toNat).base) = true) :
    s.launchAt f r q rec_ = (1, (s.fieldPuts f va (ws.set 8 0)).fieldPut f (wval (s.queue f q.toNat).base) (word (wval tail + 1))) := by
  subst hva
  unfold State.launchAt
  rw [if_neg (by omega)]
  simp [ht, hh, hst, hm, not_le.mpr hcap, hws, h1, h2, h3]

end

/-- What the answer of the queue's home does to the row: the status is written, and the request is gone. -/
def Row.answered (x : Row) (w : Nat) (q : LaunchReq) (rest : List LaunchReq) (v : Int) : Row :=
  ((wrRow q.gen0 w { x with launches := rest } q.group q.dst v).paid [q.dst]).flagDown q.flag

theorem execLaunchAtQueueHome_answers {s t : State} {r : RowRef} {g : Gang} {x : Row} {q : LaunchReq} {rest : List LaunchReq}
    {v : Int} (hg : s.gang? r.gid = some g) (hx : s.row? r = some x) (hl : x.launches = q :: rest)
    (hm : s.releaseMetAt r q.stamp = true) (hw : s.launchAwait g.fld r q = none)
    (ha : (s.flight 4).launchAt g.fld r q.q (wval q.rec_) = (v, t)) :
    execLaunchAtQueueHome r s = .next (t.modRow r (fun x => x.answered g.lrec.width q rest v)) := by
  simp only [execLaunchAtQueueHome, hg, hx, hl, hm, hw, ha]
  rfl

theorem State.launchAwait_no_queue {s : State} {r : RowRef} {q : LaunchReq} (f : Nat) (h : q.q < 0 ∨ 8 < q.q) :
    s.launchAwait f r q = none := if_pos h

/-- 04 R72: what the queue's home answers. -/
theorem launchAtQueueHome_results {s : State} {r : RowRef} {g : Gang} {x : Row} {q : LaunchReq} {rest : List LaunchReq}
    (hg : s.gang? r.gid = some g) (hx : s.row? r = some x) (hl : x.launches = q :: rest)
    (hm : s.releaseMetAt r q.stamp = true) :
    let y := s.queue g.fld q.q.toNat
    let answer := fun (u : State) (v : Int) => (Host.Outcome.next (u.modRow r (fun x => x.answered g.lrec.width q rest v)) :
      Host.Outcome State Fault Refusal)
    let u := s.flight 4
    (q.q < 0 ∨ 8 < q.q → exec (.launchAtQueueHome r) s = answer u (-1)) ∧
    (∀ tail head, 0 ≤ q.q → q.q ≤ 8 → s.launchAwait g.fld r q = none → s.fieldWord g.fld (wval y.base) = some tail →
      s.fieldWord g.fld (wrapT 27 (wval y.base + 3)) = some head →
      (y.st ≠ 1 ∨ y.mode ≠ 1 → exec (.launchAtQueueHome r) s = answer u (-1)) ∧
      (y.st = 1 → y.mode = 1 → (y.cap : Int) ≤ wrapT 27 (wval tail - wval head) →
        exec (.launchAtQueueHome r) s = answer u 0) ∧
      (∀ ws, y.st = 1 → y.mode = 1 → wrapT 27 (wval tail - wval head) < (y.cap : Int) →
        s.fieldWords g.fld (wval q.rec_) 18 = some ws →
        let va := slotVa y (wval tail)
        s.canWrite g.fld va = true → s.canWrite g.fld (wrapT 27 (va + 27)) = true →
        s.canWrite g.fld (wval y.base) = true →
        exec (.launchAtQueueHome r) s =
          answer ((u.fieldPuts g.fld va (ws.set 8 0)).fieldPut g.fld (wval y.base) (word (wval tail + 1))) 1)) := by
  intro y answer u
  have hu : u = s.atTime (s.now + 40) := rfl
  refine ⟨fun hq => ?_, fun tail head h0 h8 hw ht hh => ?_⟩
  · exact execLaunchAtQueueHome_answers hg hx hl hm (State.launchAwait_no_queue _ hq) (State.launchAt_no_queue hq)
  · have ht' : u.fieldWord g.fld (wval (u.queue g.fld q.q.toNat).base) = some tail := (State.fieldWord_atTime _).trans ht
    have hh' : u.fieldWord g.fld (wrapT 27 (wval (u.queue g.fld q.q.toNat).base + 3)) = some head :=
      (State.fieldWord_atTime _).trans hh
    refine ⟨fun h => ?_, fun hst hmode hcap => ?_, fun ws hst hmode hcap hws => ?_⟩
    · exact execLaunchAtQueueHome_answers hg hx hl hm hw (State.launchAt_unarmed h0 h8 ht' hh' h)
    · exact execLaunchAtQueueHome_answers hg hx hl hm hw (State.launchAt_full h0 h8 ht' hh' hst hmode hcap)
    · intro va h1 h2 h3
      exact execLaunchAtQueueHome_answers hg hx hl hm hw (State.launchAt_takes h0 h8 ht' hh' hst hmode hcap
        ((State.fieldWords_atTime _ _).trans hws) rfl ((State.canWrite_atTime _).trans h1)
        ((State.canWrite_atTime _).trans h2) ((State.canWrite_atTime _).trans h3))

/-! ### EVWAIT reads its word again -/

theorem execEvwaitReread_reads {s : State} {r : RowRef} {c : Ctx} {f : FA} {w : Word} (hc : s.ctxOf r = some c)
    (hw : c.r.wait.map (·.kind) = some 9) (hk : s.codeWord c.fld c.ia = some w) (hd : decode w = .ok (.evwait f)) :
    execEvwaitReread r s = execEvwait f { s with cur := some r } := by
  simp [execEvwaitReread, hc, hw, hk, hd]

theorem execEvwait_goes {s : State} {r : RowRef} {c : Ctx} (f : FA) (hc : s.ctxOf r = some c) :
    ∃ t, execEvwait f { s with cur := some r } = .next t := by
  have hctx : ({ s with cur := some r } : State).ctx? = some c := hc
  exact withRow_goes _ (by rw [hctx]; rfl)

/-! ### The statement -/

/-- Settles O23: LAUNCH and EVWAIT by the lemmas of their cases, the queue's home by `launchAtQueueHome_results`. -/
theorem launchResults : Obligations.LaunchResults := by
  unfold Obligations.LaunchResults
  refine ⟨fun s c h => ⟨fun f ls t hf hfull hu ha => ⟨fun hz hk => execLaunch_leaves h ⟨hf, hfull, hu, ha⟩ hz hk,
      execLaunch_misaligned h ⟨hf, hfull, hu, ha⟩⟩,
    fun f l t hf hu ha => ⟨execEvwait_misaligned h ⟨hf, hu, ha⟩, fun hal hk hbad hcut => ?_⟩⟩,
    fun s r g x q rest hg hx hl hm => launchAtQueueHome_results hg hx hl hm,
    fun s r c f w hc hw hk hd => ?_⟩
  · have hreads : EvwaitReads s c f l t := ⟨hal, hk, hbad, hcut⟩
    refine ⟨execEvwait_loads h ⟨hf, hu, ha⟩ hreads, fun hl hfifo hrels horder hwin hsnoop hplace => ?_⟩
    have hword := execEvwait_reads h ⟨hf, hu, ha⟩ hreads hl hfifo hrels horder hwin hsnoop hplace
    exact ⟨fun hlt => hword.trans (by rw [if_pos hlt]), fun hle => hword.trans (by rw [if_neg (not_lt.mpr hle)])⟩
  · have hre := execEvwaitReread_reads hc hw hk hd
    obtain ⟨t, ht⟩ := execEvwait_goes f hc
    exact ⟨hre, t, hre.trans ht⟩

end Sys2Proof.Machine
end

section
/-!
## The sower (O47)

Records taken and refused, queues that a fault disarms, and dependences (04 R64, R67, R69).
-/
namespace Sys2Proof.Machine

section
variable {s : State} {f q : Nat}

/-! ### Faults of an armed queue (04 R66, Table 4.7) -/

/-- Only a queue that its field has is ever armed or faulted. -/
theorem State.hasQueue_of_st (h : (s.queue f q).st ≠ 0) : s.HasQueue f q := by
  unfold State.HasQueue
  by_contra hn
  apply h
  rw [not_and_or, not_lt, not_lt] at hn
  rcases hn with hf | hq
  · have hreset : s.fieldSt f = FieldSt.reset := List.getD_eq_default _ _ hf
    simp only [State.queue, hreset, FieldSt.reset, List.getD_eq_getElem?_getD, List.getElem?_replicate]
    split <;> rfl
  · rw [State.queue, List.getD_eq_default _ _ hq]

theorem State.HasQueue.faulted (hq : s.HasQueue f q) (cause : Int) :
    ((s.modField f (fun x => { x with fcause := cause, fq := (q : Int) })).modQueue f q (fun x => { x with st := -1 })).Faulted
      f q cause := by
  have hkeep : ∀ x : FieldSt, ({ x with fcause := cause, fq := (q : Int) } : FieldSt).queues = x.queues := fun _ => rfl
  have hfield := State.fieldSt_modField_same hq.1 (fun x => { x with fcause := cause, fq := (q : Int) })
  refine ⟨?_, ?_, ?_⟩
  · rw [State.queue_modQueue_same (hq.modField hkeep)]
  · exact (State.fieldSt_modField_keeps FieldSt.fcause (fun _ => by rfl) f).trans (congrArg FieldSt.fcause hfield)
  · exact (State.fieldSt_modField_keeps FieldSt.fq (fun _ => by rfl) f).trans (congrArg FieldSt.fq hfield)

theorem faultQueue_faulted (h : (s.queue f q).st = 1) (cause : Int) : (faultQueue s f q cause).Faulted f q cause :=
  ((State.endArming_armed h).2.2.2 (State.hasQueue_of_st (by omega))).faulted cause

theorem faultQueue_grids (h : (s.queue f q).st = 1) (cause : Int) : (faultQueue s f q cause).grids =
    (s.grids.filter (fun y => (s.unfit f q).all (fun x => y.id != x.id))).map (Grid.disarmedIn f q) :=
  (State.endArming_armed h).2.2.1

/-- The records of the queue that now fit no cores are gone. -/
theorem faultQueue_refuses (h : (s.queue f q).st = 1) (cause : Int) :
    ∀ y ∈ s.unfit f q, ∀ z ∈ (faultQueue s f q cause).grids, z.id ≠ y.id := by
  intro y hy z hz
  rw [faultQueue_grids h, List.mem_map] at hz
  obtain ⟨x, hx, rfl⟩ := hz
  rw [Grid.disarmedIn_id]
  simpa using List.all_eq_true.mp (List.mem_filter.mp hx).2 y hy

/-- With no such record nothing is written to memory, and every record stays. -/
theorem faultQueue_of_all_fit (h : (s.queue f q).st = 1) (hu : s.unfit f q = []) (cause : Int) :
    (faultQueue s f q cause).mem = s.mem ∧ (faultQueue s f q cause).grids = s.grids.map (Grid.disarmedIn f q) := by
  constructor
  · have hrec : (s.recordsDisarmed f q).mem = s.mem := by simp [State.recordsDisarmed, hu]
    obtain ⟨headOut, he⟩ := State.endArming_eq h
    have hend : (s.endArming f q).mem = s.mem := by
      rw [he]
      cases headOut <;> exact hrec
    exact hend
  · simp [faultQueue_grids h, hu]

/-! ### The next record (04 R67) -/

theorem execSowerTakeRecords_unarmed (h : (s.queue f q).st ≠ 1) : execSowerTakeRecords f q s = .next s := if_pos h

section
variable (hbase : ∀ a, s.fieldAwait a f [wval (s.queue f q).base] [] = none)
include hbase

theorem execSowerTakeRecords_unreadable (hl : s.fieldLine f (wval (s.queue f q).base) Need.load = none) :
    execSowerTakeRecords f q s = .next s := by
  simp [execSowerTakeRecords, hbase, hl]

variable (h : (s.queue f q).st = 1) {line : Loc} (hl : s.fieldLine f (wval (s.queue f q).base) Need.load = some line)
include h hl

/-- A header that is read gives the queue's occupancy, which decides. -/
theorem execSowerTakeRecords_read : execSowerTakeRecords f q s =
    let occ := wrapT 27 (wval (s.wordAt line) - wval (s.queue f q).head)
    if occ < 0 ∨ ((s.queue f q).cap : Int) < occ then
      .next ((s.fieldAwait (.event (.sowerTakeRecords f q)) f [] (s.disarmAddrs f q)).getD (faultQueue s f q 4))
    else if occ = 0 ∨ 27 ≤ s.pendingRecords f q then .next s
    else .next (s.takeRecord f q) := by
  unfold execSowerTakeRecords
  simp only [h, hbase, hl, ne_eq, not_true_eq_false, if_false]

end

/-- What the sower does with a record that it reads: it is known from now on, or refused with its reason. -/
def State.recordTaken (s : State) (f q : Nat) (va : Int) (l : LaunchRec) : State :=
  if s.refusal f l = 0 then ({ s with grids := s.grids ++ [s.newGrid f q l va] }.statPut f va 1 0).advanceHead f q
  else ((s.statPut f va (-1) (s.refusal f l)).advanceHead f q).bumpDone f (l.w 7)

theorem State.takeRecord_unreadable {va : Int} (hva : slotVa (s.queue f q) (wval (s.queue f q).head) = va)
    (ha : ∀ a, s.fieldAwait a f [va, wrapT 27 (va + 27)] [] = none) (hw : s.fieldWords f va 18 = none)
    (hfree : ∀ a, s.fieldAwait a f [] (s.disarmAddrs f q) = none) : s.takeRecord f q = faultQueue s f q 5 := by
  subst hva
  simp only [State.takeRecord, ha, hw, hfree, Option.getD_none]

theorem State.takeRecord_read {va : Int} (hva : slotVa (s.queue f q) (wval (s.queue f q).head) = va)
    (ha : ∀ a, s.fieldAwait a f [va, wrapT 27 (va + 27)] [] = none) {ws : List Word} (hw : s.fieldWords f va 18 = some ws)
    (hc : ∀ a, s.fieldAwait a f (LaunchRec.constVas ⟨ws⟩) (wrapT 27 (wval (s.queue f q).base + 3) :: refusalAddrs va ⟨ws⟩) = none)
    (hd : ∀ a, s.tablesAwait a f (LaunchRec.depVas ⟨ws⟩) = none) : s.takeRecord f q = s.recordTaken f q va ⟨ws⟩ := by
  subst hva
  simp only [State.takeRecord, ha, hw, hc, hd, State.recordTaken]

theorem State.advanceHead_head_grids (hq : s.HasQueue f q) : ((s.advanceHead f q).queue f q).head = word (wval (s.queue f q).head + 1) ∧
    (s.advanceHead f q).grids = s.grids := by
  have hv := s.fieldPut_sowerView f (wrapT 27 (wval (s.queue f q).base + 3)) (word (wval (s.queue f q).head + 1))
  simp only [State.sowerView, Prod.mk.injEq] at hv
  obtain ⟨hfields, hgrids, -⟩ := hv
  refine ⟨?_, hgrids⟩
  unfold State.advanceHead
  rw [State.queue_modQueue_same (hq.of_fields hfields)]

/-- STAT is written and HEAD advances; the records are those that stood before. -/
theorem State.statPut_advanceHead (hq : s.HasQueue f q) (va state reason : Int) :
    let t := (s.statPut f va state reason).advanceHead f q
    (t.queue f q).head = word (wval (s.queue f q).head + 1) ∧ t.grids = s.grids := by
  have hv := s.statPut_sowerView f va state reason
  simp only [State.sowerView, Prod.mk.injEq] at hv
  obtain ⟨hfields, hgrids, -⟩ := hv
  obtain ⟨hhead, hkept⟩ := State.advanceHead_head_grids (hq.of_fields hfields)
  rw [State.queue_of_fields hfields] at hhead
  exact ⟨hhead, hkept.trans hgrids⟩

theorem State.bumpDone_grids (s : State) (f : Nat) (va : Int) : (s.bumpDone f va).grids = s.grids :=
  congrArg (fun v => v.2.1) (s.bumpDone_sowerView f va)

theorem State.bumpDone_fields (s : State) (f : Nat) (va : Int) : (s.bumpDone f va).fields = s.fields :=
  congrArg (fun v => v.1) (s.bumpDone_sowerView f va)

/-- The name of a new record is above that of every record the sower knows. -/
theorem State.newGrid_id (s : State) (f q : Nat) (l : LaunchRec) (va : Int) : ∀ y ∈ s.grids, y.id < (s.newGrid f q l va).id := by
  have hmax (xs : List Grid) (n : Nat) : n ≤ xs.foldl (fun n x => Max.max n (x.id + 1)) n ∧
      ∀ y ∈ xs, y.id < xs.foldl (fun n x => Max.max n (x.id + 1)) n := by
    induction xs generalizing n with
    | nil => simp
    | cons x r ih =>
      obtain ⟨hle, hlt⟩ := ih (Max.max n (x.id + 1))
      simp only [List.foldl_cons, List.mem_cons, forall_eq_or_imp]
      exact ⟨by omega, by omega, hlt⟩
  exact (hmax s.grids 1).2

/-- R67: a record that the sower has read. -/
theorem State.recordTaken_results (hq : s.HasQueue f q) (va : Int) (l : LaunchRec) :
    let t := s.recordTaken f q va l
    (t.queue f q).head = word (wval (s.queue f q).head + 1) ∧ (s.slotState f l.slot ≠ 2 → s.refusal f l = 1) ∧
    (s.refusal f l ≠ 0 → t.grids = s.grids ∧
      t = ((s.statPut f va (-1) (s.refusal f l)).advanceHead f q).bumpDone f (l.w 7)) ∧
    (s.refusal f l = 0 → ∃ g : Grid, t.grids = s.grids ++ [g] ∧ g.lrec = l ∧ g.fld = f ∧ g.q = q ∧
      g.prio = (s.queue f q).prio ∧ g.recAddr = word va ∧ g.placed = 0 ∧ g.finished = 0 ∧ g.ended = false ∧ g.armed = true ∧
      g.deps = [9, 11, 13].map (fun k => l.w k == 0) ∧ (∀ y ∈ s.grids, y.id < g.id) ∧
      t = (({ s with grids := s.grids ++ [g] } : State).statPut f va 1 0).advanceHead f q) := by
  have hslot : s.slotState f l.slot ≠ 2 → s.refusal f l = 1 := fun h => if_pos h
  intro t
  by_cases hr : s.refusal f l = 0
  · have ht : t = ({ s with grids := s.grids ++ [s.newGrid f q l va] }.statPut f va 1 0).advanceHead f q := if_pos hr
    have hq' : ({ s with grids := s.grids ++ [s.newGrid f q l va] } : State).HasQueue f q := hq
    obtain ⟨hhead, hgrids⟩ := State.statPut_advanceHead hq' va 1 0
    rw [ht]
    exact ⟨hhead, hslot, fun hn => absurd hr hn, fun _ => ⟨s.newGrid f q l va, hgrids, rfl, rfl, rfl, rfl, rfl, rfl, rfl, rfl, rfl,
      rfl, s.newGrid_id f q l va, rfl⟩⟩
  · have ht : t = ((s.statPut f va (-1) (s.refusal f l)).advanceHead f q).bumpDone f (l.w 7) := if_neg hr
    obtain ⟨hhead, hgrids⟩ := State.statPut_advanceHead hq va (-1) (s.refusal f l)
    refine ⟨?_, hslot, fun _ => ⟨?_, ht⟩, fun h => absurd h hr⟩
    · rw [ht, State.queue_of_fields (State.bumpDone_fields _ _ _), hhead]
    · rw [ht, State.bumpDone_grids, hgrids]

/-! ### Dependences (04 R69) -/

section
variable {k d : Nat} {x : Grid} (hx : s.grids.find? (fun y => y.id == k && y.fld == f) = some x)
include hx

theorem execDependenceMet_done (h : x.deps.getD d true = true ∨ x.placed ≠ 0) : execDependenceMet f k d s = .next s := by
  have hc : (x.deps.getD d true || x.placed != 0) = true := by simpa using h
  simp only [execDependenceMet, hx, hc, if_true]

variable (hd : x.deps.getD d true = false) (hp : x.placed = 0) (ha : ∀ a, s.fieldAwait a f [x.lrec.w (9 + 2 * d)] [] = none)
include hd hp ha

/-- An event word that is read meets its target, or leaves everything as it was. -/
theorem execDependenceMet_read {line : Loc} (hl : s.fieldLine f (x.lrec.w (9 + 2 * d)) Need.load = some line) :
    execDependenceMet f k d s = .next
      (if x.lrec.w (10 + 2 * d) ≤ wval (s.wordAt (locAt line (x.lrec.w (9 + 2 * d) % 27).toNat)) then
        s.modGrid k (fun y => { y with deps := y.deps.set d true }) else s) := by
  have hc : (x.deps.getD d true || x.placed != 0) = false := by rw [hd, hp]; rfl
  simp only [execDependenceMet, hx, hc, ha, hl]
  exact (apply_ite Host.Outcome.next _ _ _).symm

theorem execDependenceMet_unreadable (hl : s.fieldLine f (x.lrec.w (9 + 2 * d)) Need.load = none)
    (hr : ∀ a, s.fieldAwait a f [] (refusalAddrs (wval x.recAddr) x.lrec) = none) :
    execDependenceMet f k d s = .next (s.refuseGrid x 8) := by
  have hc : (x.deps.getD d true || x.placed != 0) = false := by rw [hd, hp]; rfl
  simp only [execDependenceMet, hx, hc, ha, hl, hr]
  rfl

end

theorem State.refuseGrid_gone (s : State) (x : Grid) (reason : Int) : ∀ y ∈ (s.refuseGrid x reason).grids, y.id ≠ x.id := by
  intro y hy
  simpa using (List.mem_filter.mp hy).2

/-! ### The statement -/

/-- R64, R66: what a fault of an armed queue does. -/
theorem faultQueue_results_armed (h : (s.queue f q).st = 1) (cause : Int) :
    let t := faultQueue s f q cause
    (t.queue f q).st = -1 ∧ (t.fieldSt f).fcause = cause ∧ (t.fieldSt f).fq = (q : Int) ∧
      (∀ y ∈ s.unfit f q, ∀ z ∈ t.grids, z.id ≠ y.id) ∧
      (s.unfit f q = [] → t.mem = s.mem ∧
        t.grids = s.grids.map (fun (y : Grid) => if y.fld = f ∧ y.q = q then { y with armed := false } else y)) := by
  obtain ⟨hst, hcause, hfq⟩ := faultQueue_faulted h cause
  exact ⟨hst, hcause, hfq, faultQueue_refuses h cause, fun hu => faultQueue_of_all_fit h hu cause⟩

end

/-- Settles O47: faults by `faultQueue_results_armed`, a record that is read by `State.recordTaken_results`, and dependences by the
lemmas of their cases. -/
theorem sowerResults : Obligations.SowerResults := by
  unfold Obligations.SowerResults
  refine ⟨fun s f q => ⟨execSowerTakeRecords_unarmed, fun hb hl => execSowerTakeRecords_unreadable hb hl,
    fun line hst hl hb => ?_⟩, fun s f k d x hx => ⟨execDependenceMet_done hx, fun hd hp => ?_⟩⟩
  · have hread := execSowerTakeRecords_read hb hst hl
    intro occ failed free
    refine ⟨fun ho hfree => ?_, fun h0 hge hle => ?_, fun hpos hle hpend => ?_⟩
    · exact ⟨_, hread.trans (by rw [if_pos ho, hfree, Option.getD_none]), faultQueue_results_armed hst 4⟩
    · exact hread.trans (by rw [if_neg (by omega), if_pos h0])
    · have htake : execSowerTakeRecords f q s = .next (s.takeRecord f q) :=
        hread.trans (by rw [if_neg (by omega), if_neg (by omega)])
      intro va hva
      refine ⟨fun hw hfree => ?_, fun ws hw hc hd => ?_⟩
      · refine ⟨_, htake, ?_⟩
        rw [State.takeRecord_unreadable rfl hva hw hfree]
        exact faultQueue_results_armed hst 5
      · refine ⟨_, htake, ?_⟩
        rw [State.takeRecord_read rfl hva hw hc hd]
        exact State.recordTaken_results (State.hasQueue_of_st (by omega)) va ⟨ws⟩
  · intro va ha
    refine ⟨fun line hl => ?_, fun hl hr => ⟨execDependenceMet_unreadable hx hd hp ha hl hr, State.refuseGrid_gone s x 8⟩⟩
    have hread := execDependenceMet_read hx hd hp ha hl
    exact ⟨fun hlt => hread.trans (by rw [if_neg (not_le.mpr hlt)]), fun hle => hread.trans (by rw [if_pos hle])⟩

end Sys2Proof.Machine
end

section
/-!
## What a write at a line's home leaves as it was (04 R64, 11 R212, 13 R235, R242, 16 R287)

Beside the memories such a write touches the L2 and what stands behind it, the error log, the pushes on their way, and of the gangs
their partial lines and watches. `State.withoutMemory` is what is left when all of that is put aside.
-/
namespace Sys2Proof.Machine

/-- The state without what a write at a line's home may change. -/
def State.withoutMemory (s : State) : State :=
  { s with
    mem := [], peerMem := [], hostMem := [], failing := [], l2 := [], forwards := [], tags := [], tagCache := [], tagHits := []
    sectors := [], checks := [], pushes := [], gangs := []
    host := { s.host with eloghead := 0, eloglost := 0, log := [], cecnt := [] } }

section
variable (s : State)

theorem State.log_withoutMemory (k : Int) (g : Word) (p : Int) (pc i : Word) (l : Int) :
    (s.log k g p pc i l).withoutMemory = s.withoutMemory := by
  unfold State.log
  dsimp only
  split <;> rfl

theorem State.corrected_withoutMemory (die : Nat) (place : Int) (unit code : Nat) (line : Int) :
    (s.corrected die place unit code line).withoutMemory = s.withoutMemory := by
  unfold State.corrected
  rw [State.log_withoutMemory]
  rfl

theorem State.fetchTags_withoutMemory (key : Nat) (l : Loc) : (s.fetchTags key l).withoutMemory = s.withoutMemory := by
  have hc : (s.cacheTags key (groupOf (lineNo l))).withoutMemory = s.withoutMemory := rfl
  unfold State.fetchTags
  dsimp only
  split
  · exact hc
  · split
    · rfl
    · exact hc
    · rw [State.corrected_withoutMemory, hc]

theorem State.storeTag_withoutMemory (x : L2Line) : (s.storeTag x).withoutMemory = s.withoutMemory := by
  have hf := s.fetchTags_withoutMemory (256 * hbmDie (lineAddr x.line).a + x.slice) (lineAddr x.line)
  unfold State.storeTag
  split
  · rfl
  · dsimp only
    split <;> exact hf

theorem State.makeRoom_withoutMemory (die slice line : Nat) : (s.makeRoom die slice line).withoutMemory = s.withoutMemory := by
  unfold State.makeRoom
  dsimp only
  split
  · rfl
  · split
    · rfl
    · split
      · rfl
      · exact s.storeTag_withoutMemory _

theorem State.l2Fill_withoutMemory (l : Loc) : (s.l2Fill l).withoutMemory = s.withoutMemory := by
  unfold State.l2Fill
  split
  · rfl
  · exact s.makeRoom_withoutMemory _ _ _

theorem State.modBlock_withoutMemory (r : RowRef) (g : Block → Block) : (s.modBlock r g).withoutMemory = s.withoutMemory := rfl
theorem State.trigger_withoutMemory (line : Loc) : (s.trigger line).withoutMemory = s.withoutMemory := rfl
theorem State.setHostByte_withoutMemory (a v : Nat) : (s.setHostByte a v).withoutMemory = s.withoutMemory := rfl

theorem State.l2Write_withoutMemory (l : Loc) (c : Bool) : (s.l2Write l c).withoutMemory = s.withoutMemory :=
  s.l2Fill_withoutMemory l

theorem State.setHostBlock_withoutMemory (o : Nat) (bs : List Nat) : (s.setHostBlock o bs).withoutMemory = s.withoutMemory := by
  unfold State.setHostBlock
  exact foldl_keeps (p := State.withoutMemory) (fun t i => t.setHostByte_withoutMemory _ _) _ s

theorem State.putTrytes_withoutMemory (l : Loc) (ws : List (Nat × Tryte)) : (s.putTrytes l ws).withoutMemory = s.withoutMemory := by
  unfold State.putTrytes
  split
  · rfl
  · rfl
  · exact foldl_keeps (p := State.withoutMemory) (fun t w => t.setHostByte_withoutMemory _ _) ws s
  · exact s.setHostBlock_withoutMemory _ _
  · rfl

theorem State.homePut_withoutMemory (line : Loc) (ws : List (Nat × Tryte)) (c : Bool) :
    (s.homePut line ws c).withoutMemory = s.withoutMemory := by
  unfold State.homePut
  rw [State.trigger_withoutMemory, State.l2Write_withoutMemory, State.putTrytes_withoutMemory]

theorem State.pushes_withoutMemory (ps : List PushMsg) : ({ s with pushes := ps } : State).withoutMemory = s.withoutMemory := rfl

theorem State.flushOne_withoutMemory (who : RowRef) (line : Loc) : (s.flushOne who line).withoutMemory = s.withoutMemory := by
  unfold State.flushOne
  split
  · rfl
  · dsimp only
    split
    · rw [State.modBlock_withoutMemory, State.log_withoutMemory]
    · split
      · rw [State.modBlock_withoutMemory, State.log_withoutMemory]
      · rw [State.modBlock_withoutMemory, State.pushes_withoutMemory]
        exact s.homePut_withoutMemory line _ _

theorem State.flushLine_withoutMemory (line : Loc) : (s.flushLine line).withoutMemory = s.withoutMemory :=
  foldl_keeps (p := State.withoutMemory) (fun t w => t.flushOne_withoutMemory w line) _ s

theorem State.homeWrite_withoutMemory (line : Loc) (ws : List (Nat × Tryte)) (c : Bool) (src : Option (RowRef × Nat × Nat)) :
    (s.homeWrite line ws c src).withoutMemory = s.withoutMemory := by
  have hput : ((s.flushLine line).homePut line ws c).withoutMemory = s.withoutMemory := by
    rw [State.homePut_withoutMemory, State.flushLine_withoutMemory]
  unfold State.homeWrite State.clearFailing
  dsimp only
  split
  · split <;> exact hput
  · exact hput

theorem State.fieldPut_withoutMemory (f : Nat) (va : Int) (w : Word) : (s.fieldPut f va w).withoutMemory = s.withoutMemory := by
  unfold State.fieldPut
  split
  · rfl
  · exact s.homeWrite_withoutMemory _ _ _ _

/-! ### The words that the sower writes (04 R64, R67) -/

theorem State.statPut_withoutMemory (f : Nat) (recAddr state reason : Int) :
    (s.statPut f recAddr state reason).withoutMemory = s.withoutMemory := by
  unfold State.statPut
  dsimp only
  split
  · exact s.fieldPut_withoutMemory _ _ _
  · exact s.log_withoutMemory _ _ _ _ _ _

theorem State.bumpDone_withoutMemory (f : Nat) (va : Int) : (s.bumpDone f va).withoutMemory = s.withoutMemory := by
  unfold State.bumpDone State.eventAdd
  split
  · rfl
  · split
    · rfl
    · rename_i l _
      cases ((s.flushLine l).fieldWord f va) with
      | none => rfl
      | some v => exact ((s.flushLine l).fieldPut_withoutMemory _ _ _).trans (s.flushLine_withoutMemory l)

theorem State.refuseRecord_withoutMemory (f : Nat) (recAddr : Int) (l : LaunchRec) (reason : Int) :
    (s.refuseRecord f recAddr l reason).withoutMemory = s.withoutMemory := by
  unfold State.refuseRecord
  rw [State.bumpDone_withoutMemory, State.statPut_withoutMemory]

end

/-- The registers of the functions are no part of the memory. -/
theorem State.fns_of_withoutMemory {s t : State} (h : t.withoutMemory = s.withoutMemory) : t.host.fns = s.host.fns :=
  show t.withoutMemory.host.fns = s.withoutMemory.host.fns by rw [h]

theorem State.refuseGrid_fns (s : State) (x : Grid) (reason : Int) : (s.refuseGrid x reason).host.fns = s.host.fns :=
  State.fns_of_withoutMemory (t := s.refuseRecord x.fld (wval x.recAddr) x.lrec reason) (s.refuseRecord_withoutMemory _ _ _ _)

theorem State.endArming_fns (s : State) (f q : Nat) : (s.endArming f q).host.fns = s.host.fns := by
  by_cases h : (s.queue f q).st = 1
  · have hrec : (s.recordsDisarmed f q).host.fns = s.host.fns :=
      foldl_keeps (f := fun (t : State) x => t.refuseGrid x 10) (p := fun t => t.host.fns)
        (fun t x => t.refuseGrid_fns x 10) (s.unfit f q) s
    obtain ⟨headOut, he⟩ := State.endArming_eq h
    rw [he]
    cases headOut <;> exact hrec
  · rw [State.endArming_of_not_armed h]

end Sys2Proof.Machine
end

section
/-!
## Host registers, keys and functions (O45)

Writes and reads of the registers (15 R253, R261, R263), keys (15 R261), VFs (04 R73) and the function-level reset (15 R261).
-/
namespace Sys2Proof.Machine

/-! ### Values of words -/

theorem wval_word {x : Int} (h : |x| ≤ maxT 27) : wval (word x) = x := by
  rw [maxT_27, abs_le] at h
  have hmod : (word x).val = (x % 7625597484987).toNat := rfl
  unfold wval
  split <;> omega

theorem wval_word_wrapT (x : Int) : wval (word (wrapT 27 x)) = wrapT 27 x := wval_word (abs_wrapT_le 27 x)

theorem wval_word_field (x : Int) {lo n : Nat} (h : n ≤ 27) : wval (word (field x lo n)) = field x lo n := by
  refine wval_word ((abs_field_le x lo n).trans ?_)
  unfold maxT
  exact_mod_cast Nat.div_le_div_right (Nat.pow_le_pow_right (by decide) h)

/-! ### Which write a register takes (15 R263) -/

section
variable {s : State} {fn : Int} {off : Nat} {x : Int}

theorem execHostRegisterWrite_ignored
    (h : off % 8 ≠ 0 ∨ fn < -1 ∨ 127 < fn ∨ s.fnField fn = none ∨ (fn ≠ -1 ∧ 0x100 ≤ off)) :
    execHostRegisterWrite fn off x s = .next s := by
  by_cases hbad : off % 8 ≠ 0 ∨ fn < -1 ∨ 127 < fn ∨ (s.fnField fn).isNone = true
  · exact if_pos hbad
  · have hout : fn ≠ -1 ∧ 0x100 ≤ off := by
      rw [Option.isNone_iff_eq_none] at hbad
      tauto
    unfold execHostRegisterWrite
    dsimp only
    rw [if_neg hbad, if_neg (by omega), if_pos hout.1]

theorem execHostRegisterWrite_fn (h0 : -1 ≤ fn) (h1 : fn ≤ 127) (hf : (s.fnField fn).isSome = true) (h8 : off % 8 = 0)
    (ho : off < 0x100) : execHostRegisterWrite fn off x s = .next (s.writeFn fn off (wrapT 27 x)) := by
  have hn : (s.fnField fn).isNone = false := by simpa using hf
  unfold execHostRegisterWrite
  dsimp only
  rw [if_neg (by simp only [hn, Bool.false_eq_true, or_false]; omega), if_pos ho]

theorem execHostRegisterWrite_dev (h8 : off % 8 = 0) (h0 : 0x100 ≤ off) (h1 : off < 0x200) :
    execHostRegisterWrite (-1) off x s = .next (s.writeDev off (wrapT 27 x)) := by
  have hn : (s.fnField (-1)).isNone = false := rfl
  have hb : ¬bar4 ≤ off := by unfold bar4; omega
  unfold execHostRegisterWrite
  dsimp only
  rw [if_neg (by simp only [hn, Bool.false_eq_true, or_false]; omega), if_neg (by omega), if_neg (by simp), if_neg hb, if_pos h1]

theorem execHostRegisterWrite_arr (h8 : off % 8 = 0) (h0 : 0x200 ≤ off) (h1 : off < bar4) :
    execHostRegisterWrite (-1) off x s = .next (s.writeArr off (wrapT 27 x)) := by
  have hn : (s.fnField (-1)).isNone = false := rfl
  unfold execHostRegisterWrite
  dsimp only
  rw [if_neg (by simp only [hn, Bool.false_eq_true, or_false]; omega), if_neg (by omega), if_neg (by simp), if_neg (by omega), if_neg (by omega)]

theorem State.hostRegister_dev (h8 : off % 8 = 0) (h0 : 0x100 ≤ off) (h1 : off < 0x200) :
    s.hostRegister (-1) off = s.readDev off := by
  have hf : s.fnField (-1) = some s.host.pffield := rfl
  simp only [State.hostRegister, hf]
  rw [if_neg (by omega), if_neg (by omega), if_neg (by simp), if_pos h1]

theorem State.hostRegister_arr (h8 : off % 8 = 0) (h0 : 0x200 ≤ off) : s.hostRegister (-1) off = s.readArr off := by
  have hf : s.fnField (-1) = some s.host.pffield := rfl
  simp only [State.hostRegister, hf]
  rw [if_neg (by omega), if_neg (by omega), if_neg (by simp), if_neg (by omega)]

/-- A register that is read back after a write, which changes no memory and no gang. -/
def State.ReadsBack (s : State) (x : Int) (off : Nat) (y : Int) : Prop :=
  ∃ t : State, exec (.hostRegisterWrite (-1) off x) s = .next t ∧ t.hostRegister (-1) off = y ∧ t.mem = s.mem ∧ t.gangs = s.gangs

theorem State.readsBack_dev {y : Int} {t : State} (h8 : off % 8 = 0) (h0 : 0x100 ≤ off) (h1 : off < 0x200)
    (hw : s.writeDev off (wrapT 27 x) = t) (hr : t.readDev off = y) (hm : t.mem = s.mem) (hg : t.gangs = s.gangs) :
    s.ReadsBack x off y :=
  ⟨t, hw ▸ execHostRegisterWrite_dev h8 h0 h1, (State.hostRegister_dev h8 h0 h1).trans hr, hm, hg⟩

theorem State.readsBack_arr {y : Int} {t : State} (h8 : off % 8 = 0) (h0 : 0x200 ≤ off) (h1 : off < bar4)
    (hw : s.writeArr off (wrapT 27 x) = t) (hr : t.readArr off = y) (hm : t.mem = s.mem) (hg : t.gangs = s.gangs) :
    s.ReadsBack x off y :=
  ⟨t, hw ▸ execHostRegisterWrite_arr h8 h0 h1, (State.hostRegister_arr h8 h0).trans hr, hm, hg⟩

end

/-! ### Commands that a write performs -/

theorem next_nextOf (s : State) {o : Host.Outcome State Fault Refusal} (h : ∃ t, o = .next t) : .next (nextOf s o) = o := by
  obtain ⟨t, rfl⟩ := h
  rfl

section
variable {s : State}

theorem execLqbaseArm_goes (fn : Int) (q : Nat) (base : Word) : ∃ t, execLqbaseArm fn q base s = .next t := by
  unfold execLqbaseArm
  split
  · exact ⟨_, rfl⟩
  · split
    · exact ⟨_, rfl⟩
    · split <;> exact ⟨_, rfl⟩

theorem State.clRequest_goes (fn : Int) {go : Nat → Host.Outcome State Fault Refusal} (h : ∀ f, ∃ t, go f = .next t) :
    ∃ t, s.clRequest fn go = .next t := by
  unfold State.clRequest
  split
  · exact ⟨_, rfl⟩
  · split
    · exact ⟨_, rfl⟩
    · exact h _

theorem execClcmdLoad_goes (fn slot : Int) : ∃ t, execClcmdLoad fn slot s = .next t := by
  refine State.clRequest_goes fn fun f => ?_
  split <;> exact ⟨_, rfl⟩

theorem execClcmdUnload_goes (fn slot : Int) : ∃ t, execClcmdUnload fn slot s = .next t := by
  refine State.clRequest_goes fn fun f => ?_
  split
  · split
    · exact ⟨_, rfl⟩
    · split <;> exact ⟨_, rfl⟩
  · exact ⟨_, rfl⟩

theorem execRecctlSubmit_goes : ∃ t, execRecctlSubmit s = .next t := by
  unfold execRecctlSubmit
  split
  · exact ⟨_, rfl⟩
  · split
    · exact ⟨_, rfl⟩
    · split <;> exact ⟨_, rfl⟩

theorem execKeycmdErase_goes (f k : Int) : ∃ t, execKeycmdErase f k s = .next t := by
  unfold execKeycmdErase
  split <;> exact ⟨_, rfl⟩

theorem execKeycmdInstall_goes (f k : Int) : ∃ t, execKeycmdInstall f k s = .next t := by
  unfold execKeycmdInstall
  dsimp only
  split
  · exact ⟨_, rfl⟩
  · split
    · exact ⟨_, rfl⟩
    · split <;> exact ⟨_, rfl⟩

end

/-! ### The function block (15 Table 15.3) -/

section
variable {s : State} {fn : Int} (h0 : -1 ≤ fn) (h1 : fn ≤ 127) (hf : (s.fnField fn).isSome = true) (x : Int)
include h0 h1 hf

/-- A write of CLBASE is read back. -/
theorem hostRegisterWrite_clbase (hl : s.host.fns.length = 129) :
    ∃ t : State, exec (.hostRegisterWrite fn 0x50 x) s = .next t ∧ t.hostRegister fn 0x50 = wrapT 27 x := by
  refine ⟨_, execHostRegisterWrite_fn h0 h1 hf (by decide) (by decide), ?_⟩
  obtain ⟨f, hff⟩ := Option.isSome_iff_exists.mp hf
  have hw : s.writeFn fn 0x50 (wrapT 27 x) = s.modFn fn (fun y => { y with clbase := word (wrapT 27 x) }) := rfl
  have hff' : (s.modFn fn (fun y => { y with clbase := word (wrapT 27 x) })).fnField fn = some f := hff
  have hregs := State.fnRegs_modFn (s := s) (fn := fn) (by omega) (fun y => { y with clbase := word (wrapT 27 x) })
  have hread : (s.modFn fn (fun y => { y with clbase := word (wrapT 27 x) })).hostRegister fn 0x50 =
      wval ((s.modFn fn (fun y => { y with clbase := word (wrapT 27 x) })).fnRegs fn).clbase := by
    simp only [State.hostRegister, hff']
    rfl
  rw [hw, hread, hregs]
  exact wval_word_wrapT x

/-- A write of LQBASE arms or disarms the queue. -/
theorem hostRegisterWrite_lqbase {q : Nat} (hq : q < 9) :
    exec (.hostRegisterWrite fn (8 * q) x) s = exec (.lqbaseArm fn q (word (wrapT 27 x))) s := by
  have hw : s.writeFn fn (8 * q) (wrapT 27 x) = nextOf s (execLqbaseArm fn q (word (wrapT 27 x)) s) := by
    have hdiv : 8 * q / 8 = q := by omega
    rw [State.writeFn, if_pos (by omega), hdiv]
  exact (execHostRegisterWrite_fn h0 h1 hf (by omega) (by omega)).trans
    (hw ▸ next_nextOf s (execLqbaseArm_goes fn q _))

/-- A write of CLCMD performs the request that its field OP names (03 R53). -/
theorem hostRegisterWrite_clcmd :
    (field (wrapT 27 x) 0 2 = 1 → exec (.hostRegisterWrite fn 0x58 x) s = exec (.clcmdLoad fn (field (wrapT 27 x) 2 5)) s) ∧
    (field (wrapT 27 x) 0 2 = 3 → exec (.hostRegisterWrite fn 0x58 x) s = exec (.clcmdUnload fn (field (wrapT 27 x) 2 5)) s) ∧
    (field (wrapT 27 x) 0 2 = 0 → exec (.hostRegisterWrite fn 0x58 x) s = .next s) := by
  have hw : execHostRegisterWrite fn 0x58 x s = .next (s.writeClcmd fn (wrapT 27 x)) :=
    execHostRegisterWrite_fn h0 h1 hf (by decide) (by decide)
  refine ⟨fun ho => hw.trans ?_, fun ho => hw.trans ?_, fun ho => hw.trans ?_⟩
  · simp only [State.writeClcmd, ho]
    exact next_nextOf s (execClcmdLoad_goes fn _)
  · simp only [State.writeClcmd, ho]
    exact next_nextOf s (execClcmdUnload_goes fn _)
  · simp only [State.writeClcmd, ho, if_true]

end

/-! ### The device block (15 Table 15.4) -/

section
variable {s : State} {x : Int}

theorem State.hostIf_true {ok : Bool} (h : ok = true) (g : HostRegs → HostRegs) : s.hostIf ok g = s.modHost g := if_pos h

theorem State.hostIf_false {ok : Bool} (h : ok = false) (g : HostRegs → HostRegs) : s.hostIf ok g = s := if_neg (by simp [h])

/-- A value that the register does not take changes nothing. -/
theorem hostRegisterWrite_dev_out {off : Nat} (h8 : off % 8 = 0) (h0 : 0x100 ≤ off) (h1 : off < 0x200)
    (hw : s.writeDev off (wrapT 27 x) = s) : exec (.hostRegisterWrite (-1) off x) s = .next s :=
  (execHostRegisterWrite_dev h8 h0 h1).trans (congrArg Host.Outcome.next hw)

theorem hostRegisterWrite_pffield (h0 : 0 ≤ field (wrapT 27 x) 0 4) (h1 : field (wrapT 27 x) 0 4 ≤ 11) :
    s.ReadsBack x 0x100 (field (wrapT 27 x) 0 4) :=
  State.readsBack_dev (by decide) (by decide) (by decide) (State.hostIf_true (by simp [h0, h1]) _) (Int.toNat_of_nonneg h0) rfl rfl

theorem hostRegisterWrite_pffield_out (h : field (wrapT 27 x) 0 4 < 0 ∨ 11 < field (wrapT 27 x) 0 4) :
    exec (.hostRegisterWrite (-1) 0x100 x) s = .next s :=
  hostRegisterWrite_dev_out (by decide) (by decide) (by decide) (State.hostIf_false (decide_eq_false (by omega)) _)

theorem hostRegisterWrite_hlmode (h : trit (wrapT 27 x) 0 ≠ -1) : s.ReadsBack x 0x118 (trit (wrapT 27 x) 0) :=
  State.readsBack_dev (by decide) (by decide) (by decide) (State.hostIf_true (by simp [h]) _)
    (wval_word_field _ (by decide)) rfl rfl

theorem hostRegisterWrite_hlmode_out (h : trit (wrapT 27 x) 0 = -1) : exec (.hostRegisterWrite (-1) 0x118 x) s = .next s :=
  hostRegisterWrite_dev_out (by decide) (by decide) (by decide) (State.hostIf_false (by simp [h]) _)

theorem hostRegisterWrite_ratecap (h0 : 1 ≤ wrapT 27 x) (h1 : wrapT 27 x ≤ 242) : s.ReadsBack x 0x120 (wrapT 27 x) :=
  State.readsBack_dev (by decide) (by decide) (by decide) (State.hostIf_true (by simp [h0, h1]) _)
    (wval_word_wrapT x) rfl rfl

theorem hostRegisterWrite_ratecap_out (h : wrapT 27 x < 1 ∨ 242 < wrapT 27 x) :
    exec (.hostRegisterWrite (-1) 0x120 x) s = .next s :=
  hostRegisterWrite_dev_out (by decide) (by decide) (by decide) (State.hostIf_false (decide_eq_false (by omega)) _)

theorem hostRegisterWrite_keyadr : s.ReadsBack x 0x138 (wrapT 27 x) :=
  State.readsBack_dev (by decide) (by decide) (by decide) rfl (wval_word_wrapT x) rfl rfl

theorem hostRegisterWrite_elogtail : s.ReadsBack x 0x168 (wrapT 27 x) :=
  State.readsBack_dev (by decide) (by decide) (by decide) rfl (wval_word_wrapT x) rfl rfl

theorem hostRegisterWrite_recctl (h : wrapT 27 x = 1) : exec (.hostRegisterWrite (-1) 0x110 x) s = exec .recctlSubmit s := by
  have hw : s.writeDev 0x110 (wrapT 27 x) = nextOf s (execRecctlSubmit s) := if_pos h
  exact (execHostRegisterWrite_dev (by decide) (by decide) (by decide)).trans (hw ▸ next_nextOf s execRecctlSubmit_goes)

/-- A write of FRCMD requests what its field OP names (24 Table 24.1). -/
theorem hostRegisterWrite_frcmd (v : Int) (hv : wrapT 27 x = v) :
    (field v 0 2 = 1 → exec (.hostRegisterWrite (-1) 0x140 x) s =
      exec (.frcmdGrow (field v 2 2) (field v 4 4) (field v 8 5) (field v 13 4)) s) ∧
    (field v 0 2 = 3 → exec (.hostRegisterWrite (-1) 0x140 x) s =
      exec (.frcmdShrink (field v 2 2) (field v 4 4) (field v 8 5) (field v 13 4)) s) := by
  subst hv
  have hw : execHostRegisterWrite (-1) 0x140 x s = .next (s.writeFrcmd (wrapT 27 x)) :=
    execHostRegisterWrite_dev (by decide) (by decide) (by decide)
  refine ⟨fun ho => hw.trans ?_, fun ho => hw.trans ?_⟩ <;>
  · simp only [State.writeFrcmd, ho]
    rfl

/-- A write of KEYCMD performs the command that its field OP names (15 R261). -/
theorem hostRegisterWrite_keycmd (v : Int) (hv : wrapT 27 x = v) :
    (field v 8 2 = 1 → exec (.hostRegisterWrite (-1) 0x130 x) s = exec (.keycmdInstall (field v 0 4) (field v 4 4)) s) ∧
    (field v 8 2 = 3 → exec (.hostRegisterWrite (-1) 0x130 x) s = exec (.keycmdErase (field v 0 4) (field v 4 4)) s) := by
  subst hv
  have hw : execHostRegisterWrite (-1) 0x130 x s = .next (s.writeKeycmd (wrapT 27 x)) :=
    execHostRegisterWrite_dev (by decide) (by decide) (by decide)
  refine ⟨fun ho => hw.trans ?_, fun ho => hw.trans ?_⟩
  · simp only [State.writeKeycmd, ho]
    exact next_nextOf s (execKeycmdInstall_goes _ _)
  · simp only [State.writeKeycmd, ho]
    exact next_nextOf s (execKeycmdErase_goes _ _)

/-! ### The arrays of the device block (15 Table 15.4) -/

section
variable {f k : Nat}

theorem State.writeArr_fltol (hf : f < 12) (v : Int) : s.writeArr (0x200 + 8 * f) v =
    if 0 ≤ v ∧ v ≤ 3 ^ 18 then s.modField f (fun y => { y with fltol := word v }) else s := by
  have hi : (0x200 + 8 * f - 0x200) / 8 = f := by omega
  unfold State.writeArr
  dsimp only
  rw [if_pos (by omega), hi]

theorem State.readArr_fltol (hf : f < 12) : s.readArr (0x200 + 8 * f) = wval (s.fieldSt f).fltol := by
  have hi : (0x200 + 8 * f - 0x200) / 8 = f := by omega
  unfold State.readArr
  dsimp only
  rw [if_pos (by omega), hi]

theorem State.writeArr_minver (hf : f < 12) (v : Int) : s.writeArr (0x280 + 8 * f) v =
    s.modField f (fun y => { y with minver := word v }) := by
  have hi : (0x280 + 8 * f - 0x280) / 8 = f := by omega
  unfold State.writeArr
  dsimp only
  rw [if_neg (by omega), if_pos (by omega), hi]

theorem State.readArr_minver (hf : f < 12) : s.readArr (0x280 + 8 * f) = wval (s.fieldSt f).minver := by
  have hi : (0x280 + 8 * f - 0x280) / 8 = f := by omega
  unfold State.readArr
  dsimp only
  rw [if_neg (by omega), if_pos (by omega), hi]

theorem State.writeArr_ppbase (hf : f < 12) (v : Int) : s.writeArr (0x300 + 8 * f) v = s.writePool f true v := by
  have hi : (0x300 + 8 * f - 0x300) / 8 = f := by omega
  unfold State.writeArr
  dsimp only
  rw [if_neg (by omega), if_neg (by omega), if_pos (by omega), hi]

theorem State.writeArr_ppsize (hf : f < 12) (v : Int) : s.writeArr (0x380 + 8 * f) v = s.writePool f false v := by
  have hi : (0x380 + 8 * f - 0x380) / 8 = f := by omega
  unfold State.writeArr
  dsimp only
  rw [if_neg (by omega), if_neg (by omega), if_neg (by omega), if_pos (by omega), hi]

theorem State.writeArr_vffield (hk : k < 128) (v : Int) : s.writeArr (0x400 + 8 * k) v =
    s.hostIf (decide (-1 ≤ field v 0 4 ∧ field v 0 4 ≤ 11) && !s.host.vfon.getD k false)
      (fun h => { h with vffield := h.vffield.set k (field v 0 4) }) := by
  have hi : (0x400 + 8 * k - 0x400) / 8 = k := by omega
  unfold State.writeArr
  dsimp only
  rw [if_neg (by omega), if_neg (by omega), if_neg (by omega), if_neg (by omega), if_pos (by omega), hi]

theorem State.readArr_vffield (hk : k < 128) : s.readArr (0x400 + 8 * k) = s.host.vffield.getD k 0 := by
  have hi : (0x400 + 8 * k - 0x400) / 8 = k := by omega
  unfold State.readArr
  dsimp only
  rw [if_neg (by omega), if_neg (by omega), if_neg (by omega), if_neg (by omega), if_pos (by omega), hi]

/-- Word `j` of window `k`. -/
theorem State.writeArr_window {j : Nat} (hk : k < 27) (hj : j < 3) (v : Int) : s.writeArr (0x800 + 24 * k + 8 * j) v =
    s.modHost (fun h => { h with windows := modAt h.windows k (fun w => w.write j v) }) := by
  have hi : (0x800 + 24 * k + 8 * j - 0x800) / 8 / 3 = k := by omega
  have hw : (0x800 + 24 * k + 8 * j - 0x800) / 8 % 3 = j := by omega
  unfold State.writeArr
  dsimp only
  rw [if_neg (by omega), if_neg (by omega), if_neg (by omega), if_neg (by omega), if_neg (by omega), if_pos (by omega), hi, hw]

theorem State.readArr_window {j : Nat} (hk : k < 27) (hj : j < 3) : s.readArr (0x800 + 24 * k + 8 * j) =
    let w := s.host.windows.getD k ⟨0, 0, 0⟩
    wval (if j = 0 then w.base else if j = 1 then w.lim else w.ctl) := by
  have hi : (0x800 + 24 * k + 8 * j - 0x800) / 8 / 3 = k := by omega
  have hw : (0x800 + 24 * k + 8 * j - 0x800) / 8 % 3 = j := by omega
  unfold State.readArr
  dsimp only
  rw [if_neg (by omega), if_neg (by omega), if_neg (by omega), if_neg (by omega), if_neg (by omega), if_pos (by omega), hi, hw]

theorem State.writeArr_cecnt (hk : k < 12) (v : Int) : s.writeArr (0xC00 + 8 * k) v =
    s.hostIf (v == 0) (fun h => { h with cecnt := h.cecnt.set k 0 }) := by
  have hi : (0xC00 + 8 * k - 0xC00) / 8 = k := by omega
  unfold State.writeArr
  dsimp only
  rw [if_neg (by omega), if_neg (by omega), if_neg (by omega), if_neg (by omega), if_neg (by omega), if_neg (by omega),
    if_neg (by omega), if_pos (by omega), hi]

theorem State.readArr_cecnt (hk : k < 12) : s.readArr (0xC00 + 8 * k) = ((s.host.cecnt.getD k 0 : Nat) : Int) := by
  have hi : (0xC00 + 8 * k - 0xC00) / 8 = k := by omega
  unfold State.readArr
  dsimp only
  rw [if_neg (by omega), if_neg (by omega), if_neg (by omega), if_neg (by omega), if_neg (by omega), if_neg (by omega),
    if_neg (by omega), if_pos (by omega), hi]

theorem State.writeArr_link {l e : Nat} (hl : l < 72) (he : e < 2) (v : Int) : s.writeArr (0x1000 + 16 * l + 8 * e) v =
    s.modEnd l e (fun y => y.write v) := by
  have hi : (0x1000 + 16 * l + 8 * e - 0x1000) / 8 / 2 = l := by omega
  have hw : (0x1000 + 16 * l + 8 * e - 0x1000) / 8 % 2 = e := by omega
  unfold State.writeArr
  dsimp only
  rw [if_neg (by omega), if_neg (by omega), if_neg (by omega), if_neg (by omega), if_neg (by omega), if_neg (by omega),
    if_neg (by omega), if_neg (by omega), if_pos (by omega), hi, hw]

theorem State.linkEnd_modEnd_die {l e : Nat} (hl : l < 72) (hs : l < s.links.length) (g : LinkEnd → LinkEnd) :
    (s.modEnd l e g).linkEnd l e = g (s.linkEnd l e) := by
  simp only [State.linkEnd, State.modEnd, if_pos hl, getD_modAt_same hs]
  split <;> rfl

theorem LinkEnd.write_zero (y : LinkEnd) : y.write 0 = { y with crce := 0, rply := 0, retr := 0 } := rfl

theorem getD_set_same {α : Type} {l : List α} {i : Nat} (h : i < l.length) (a d : α) : (l.set i a).getD i d = a := by
  simp [List.getD_eq_getElem?_getD, h]

/-- R263: the registers of each field. -/
theorem hostRegisterWrite_field (hf : f < 12) (hl : f < s.fields.length) :
    (0 ≤ wrapT 27 x → wrapT 27 x ≤ 3 ^ 18 → s.ReadsBack x (0x200 + 8 * f) (wrapT 27 x)) ∧
    (wrapT 27 x < 0 ∨ 3 ^ 18 < wrapT 27 x → exec (.hostRegisterWrite (-1) (0x200 + 8 * f) x) s = .next s) ∧
    s.ReadsBack x (0x280 + 8 * f) (wrapT 27 x) ∧
    ((∃ g ∈ s.gangs, g.fld = f) → exec (.hostRegisterWrite (-1) (0x300 + 8 * f) x) s = .next s ∧
      exec (.hostRegisterWrite (-1) (0x380 + 8 * f) x) s = .next s) := by
  have hb : 0x3E0 < bar4 := by decide
  have hw (off : Nat) (h8 : off % 8 = 0) (h0 : 0x200 ≤ off) (h1 : off < 0x3E0) :
      exec (.hostRegisterWrite (-1) off x) s = .next (s.writeArr off (wrapT 27 x)) :=
    execHostRegisterWrite_arr h8 h0 (by omega)
  refine ⟨fun h0 h1 => ?_, fun h => ?_, ?_, fun ⟨g, hg, hgf⟩ => ?_⟩
  · refine State.readsBack_arr (by omega) (by omega) (by omega) ((State.writeArr_fltol hf _).trans (if_pos ⟨h0, h1⟩)) ?_ rfl rfl
    rw [State.readArr_fltol hf, State.fieldSt_modField_same hl]
    exact wval_word_wrapT x
  · rw [hw _ (by omega) (by omega) (by omega), State.writeArr_fltol hf, if_neg (by omega)]
  · refine State.readsBack_arr (by omega) (by omega) (by omega) (State.writeArr_minver hf _) ?_ rfl rfl
    rw [State.readArr_minver hf, State.fieldSt_modField_same hl]
    exact wval_word_wrapT x
  · have hgang : s.hasGang f = true := List.any_eq_true.mpr ⟨g, hg, by simpa using hgf⟩
    have hpool (base : Bool) (v : Int) : s.writePool f base v = s := if_pos hgang
    rw [hw _ (by omega) (by omega) (by omega), hw _ (by omega) (by omega) (by omega), State.writeArr_ppbase hf,
      State.writeArr_ppsize hf, hpool, hpool]
    exact ⟨rfl, rfl⟩

theorem hostRegisterWrite_vffield (hk : k < 128) (hl : k < s.host.vffield.length) (hon : s.host.vfon.getD k false = false)
    (h0 : -1 ≤ field (wrapT 27 x) 0 4) (h1 : field (wrapT 27 x) 0 4 ≤ 11) :
    s.ReadsBack x (0x400 + 8 * k) (field (wrapT 27 x) 0 4) := by
  have hb : 0x800 < bar4 := by decide
  refine State.readsBack_arr (by omega) (by omega) (by omega)
    ((State.writeArr_vffield hk _).trans (State.hostIf_true (by rw [hon]; simp [h0, h1]) _)) ?_ rfl rfl
  rw [State.readArr_vffield hk]
  exact getD_set_same hl _ _

/-- A VF that is enabled keeps its field. -/
theorem hostRegisterWrite_vffield_enabled (hk : k < 128) (hon : s.host.vfon.getD k false = true) :
    exec (.hostRegisterWrite (-1) (0x400 + 8 * k) x) s = .next s := by
  have hb : 0x800 < bar4 := by decide
  refine (execHostRegisterWrite_arr (by omega) (by omega) (by omega)).trans (congrArg Host.Outcome.next ?_)
  rw [State.writeArr_vffield hk, hon, Bool.not_true, Bool.and_false, State.hostIf_false rfl]

theorem Window.write_bound {w : Window} {j : Nat} {v : Int} (hj : j < 2) (h0 : 0 ≤ v) (h1 : v < 2 ^ 40) :
    w.write j v = if j = 0 then { w with base := word v } else { w with lim := word v } := by
  unfold Window.write
  rw [if_neg (by omega), if_neg (by omega)]

/-- R256: base (word 0) and limit (word 1) of a window. -/
theorem hostRegisterWrite_window {j : Nat} (hk : k < 27) (hl : k < s.host.windows.length) (hj : j < 2) {off : Nat}
    (ho : off = 0x800 + 24 * k + 8 * j) (h0 : 0 ≤ wrapT 27 x) (h1 : wrapT 27 x < 2 ^ 40) : s.ReadsBack x off (wrapT 27 x) := by
  subst ho
  have hb : 0x800 + 24 * 27 < bar4 := by decide
  refine State.readsBack_arr (by omega) (by omega) (by omega) (State.writeArr_window hk (by omega) _) ?_ rfl rfl
  rw [State.readArr_window hk (by omega)]
  have hwin : (s.modHost (fun h => { h with windows := modAt h.windows k (fun w => w.write j (wrapT 27 x)) })).host.windows.getD k
      ⟨0, 0, 0⟩ = (s.host.windows.getD k ⟨0, 0, 0⟩).write j (wrapT 27 x) := getD_modAt_same hl _ _
  dsimp only
  rw [hwin, Window.write_bound hj h0 h1]
  interval_cases j <;> exact wval_word_wrapT x

theorem hostRegisterWrite_cecnt (hk : k < 12) (hl : k < s.host.cecnt.length) (h : wrapT 27 x = 0) :
    s.ReadsBack x (0xC00 + 8 * k) 0 := by
  have hb : 0xC60 < bar4 := by decide
  refine State.readsBack_arr (by omega) (by omega) (by omega)
    ((State.writeArr_cecnt hk _).trans (State.hostIf_true (by simp [h]) _)) ?_ rfl rfl
  rw [State.readArr_cecnt hk]
  exact congrArg Nat.cast (getD_set_same hl 0 0)

theorem hostRegisterWrite_link {l e : Nat} (hl : l < 72) (hs : l < s.links.length) (he : e < 2) (h : wrapT 27 x = 0) :
    ∃ t : State, exec (.hostRegisterWrite (-1) (0x1000 + 16 * l + 8 * e) x) s = .next t ∧
      t.linkEnd l e = { s.linkEnd l e with crce := 0, rply := 0, retr := 0 } := by
  have hb : 0x1480 < bar4 := by decide
  refine ⟨_, execHostRegisterWrite_arr (by omega) (by omega) (by omega), ?_⟩
  rw [State.writeArr_link hl he, State.linkEnd_modEnd_die hl hs, h, LinkEnd.write_zero]

end

end

/-! ### Keys (15 R261) -/

/-- The key table of the field has the words, or none, at the key; other keys, other fields and the memory are as they were. -/
def State.KeyedAs (s t : State) (f k : Nat) (ws : Option (List Word)) : Prop :=
  (t.fieldSt f).keys.find? (fun q => q.1 == k) = ws.map (fun w => (k, w)) ∧
    (∀ j, j ≠ k → (t.fieldSt f).keys.find? (fun q => q.1 == j) = (s.fieldSt f).keys.find? (fun q => q.1 == j)) ∧
    (∀ g, g ≠ f → t.fieldSt g = s.fieldSt g) ∧ t.mem = s.mem

section
variable {s : State} {f k : Nat}

theorem State.setKey_keyed (hf : f < s.fields.length) (k : Nat) (ws : Option (List Word)) : s.KeyedAs (s.setKey f k ws) f k ws := by
  refine ⟨?_, fun j hj => ?_, fun g hg => State.fieldSt_modField_other hg s _, rfl⟩
  · have hold : ((s.fieldSt f).keys.filter (fun q => q.1 != k)).find? (fun q => q.1 == k) = none := by
      simp [List.find?_eq_none]
    rw [State.setKey, State.fieldSt_modField_same hf, List.find?_append, hold]
    cases ws <;> simp
  · have hrest : ((s.fieldSt f).keys.filter (fun q => q.1 != k)).find? (fun q => q.1 == j) =
        (s.fieldSt f).keys.find? (fun q => q.1 == j) := by
      rw [List.find?_filter]
      congr 1
      funext q
      by_cases hq : q.1 = j <;> simp [hq, hj]
    rw [State.setKey, State.fieldSt_modField_same hf, List.find?_append, hrest]
    cases ws <;> simp [hj.symm]

/-- Only the fields and the memory matter. -/
theorem State.KeyedAs.of_fields {t u : State} {ws : Option (List Word)} (h : s.KeyedAs t f k ws) (hf : u.fields = t.fields)
    (hm : u.mem = t.mem) : s.KeyedAs u f k ws := by
  simpa only [State.KeyedAs, State.fieldSt, hf, hm] using h

theorem State.keycmdIs_setKey_keyed (hl : f < s.fields.length) (op : Int) (ws : Option (List Word)) :
    s.KeyedAs ((s.keycmdIs f k op).setKey f k ws) f k ws :=
  (State.setKey_keyed hl k ws).of_fields rfl rfl

/-- What a command leaves in KEYCMD changes no field and no count of the log. -/
theorem State.keycmdIs_log (s : State) (a b op kind : Int) (gid : Word) (place : Int) (pc info : Word) (line : Int) :
    let t := (s.keycmdIs a b op).log kind gid place pc info line
    t.fields = s.fields ∧ t.host.eloghead + t.host.eloglost = s.host.eloghead + s.host.eloglost + 1 :=
  ⟨State.log_fields .., State.log_counts ..⟩

theorem keySel_of (hf : f < 12) (hk : k ≤ 26) : keySel (f : Int) (k : Int) = true :=
  decide_eq_true (by omega)

theorem execKeycmdErase_erases (hf : f < 12) (hk : k ≤ 26) :
    execKeycmdErase f k s = .next ((s.setKey f k none).keycmdIs f k 3) := by
  rw [execKeycmdErase, if_pos (keySel_of hf hk), Int.toNat_natCast, Int.toNat_natCast]

theorem keycmdErase_results (hf : f < 12) (hk : k ≤ 26) (hl : f < s.fields.length) :
    ∃ t : State, exec (.keycmdErase f k) s = .next t ∧ s.KeyedAs t f k none :=
  ⟨_, execKeycmdErase_erases hf hk, (State.setKey_keyed hl k none).of_fields rfl rfl⟩

/-- A device line that a field's key may be read from. -/
theorem State.keyLine_of {m : Nat} (he : hbmExists (27 * m) = true) (ho : s.lineOwner ⟨.hbm, 27 * m⟩ = (f : Int))
    (hb : s.badLine ⟨.hbm, 27 * m⟩ = false) (hc : s.hubCut ⟨.hbm, 27 * m⟩ = false) : s.keyLine f m = true := by
  simp [State.keyLine, he, ho, hb, hc]

section
variable {m : Nat} (hm : wval s.host.keyadr = (m : Int)) (h0 : s.keyLine f m = true) (h1 : s.keyLine f (m + 1 : Nat) = true)
include hm h0 h1

theorem State.keyLines_of : s.keyLines f = [⟨.hbm, 27 * m⟩, ⟨.hbm, 27 * (m + 1)⟩] := by
  push_cast at h1
  simp [State.keyLines, hm, h0, h1]

theorem State.keyAt_of {ws : List Word} (hws : (s.devLine m ++ s.devLine (m + 1)).take 14 = ws) : s.keyAt f =
    if (value256 (ws.take 7)).isSome && (value256 (ws.drop 7)).isSome then some ws else none := by
  push_cast at h1
  subst hws
  simp only [State.keyAt, hm, h0, h1, Bool.and_self, if_true, Int.toNat_natCast]

variable (hf : f < 12) (hk : k ≤ 26)
  (hn : s.snoopFirst false [⟨.hbm, 27 * m⟩, ⟨.hbm, 27 * (m + 1)⟩] = none)
include hf hk hn

/-- A command that finds its lines installs the key, or is refused with a log record. -/
theorem execKeycmdInstall_read : execKeycmdInstall f k s = .next
    (match s.keyAt f with
      | some ws => (s.keycmdIs f k 1).setKey f k (some ws)
      | none => (s.keycmdIs f k 1).log 16 0 0 0 s.host.keyadr (wval s.host.keyadr)) := by
  rw [← State.keyLines_of hm h0 h1] at hn
  unfold execKeycmdInstall
  simp only [keySel_of hf hk, Bool.not_true, Bool.false_eq_true, if_false, Int.toNat_natCast, hn]
  cases s.keyAt f <;> rfl

theorem keycmdInstall_results (hl : f < s.fields.length) :
    let ws := (s.devLine m ++ s.devLine (m + 1)).take 14
    ((value256 (ws.take 7)).isSome = true → (value256 (ws.drop 7)).isSome = true →
      ∃ t : State, exec (.keycmdInstall f k) s = .next t ∧ s.KeyedAs t f k (some ws)) ∧
    (value256 (ws.take 7) = none ∨ value256 (ws.drop 7) = none →
      ∃ t : State, exec (.keycmdInstall f k) s = .next t ∧ t.fields = s.fields ∧
        t.host.eloghead + t.host.eloglost = s.host.eloghead + s.host.eloglost + 1) := by
  intro ws
  have hread := execKeycmdInstall_read hm h0 h1 hf hk hn
  have hat := State.keyAt_of hm h0 h1 (ws := ws) rfl
  refine ⟨fun hx hy => ?_, fun h => ?_⟩
  · rw [hat, hx, hy, Bool.and_self, if_pos rfl] at hread
    exact ⟨_, hread, State.keycmdIs_setKey_keyed hl 1 (some ws)⟩
  · have hnone : s.keyAt f = none := by
      rw [hat]
      rcases h with h | h <;> simp [h]
    rw [hnone] at hread
    obtain ⟨hfields, hcounts⟩ := s.keycmdIs_log f k 1 16 0 0 0 s.host.keyadr (wval s.host.keyadr)
    exact ⟨_, hread, hfields, hcounts⟩

end

end

/-! ### VFs (04 R73) -/

theorem execSriovVfEnable_unbound {s : State} {vf : Nat} (h : s.host.vffield.getD vf (-1) = -1) :
    execSriovVfEnable vf true s = .next s :=
  if_pos (by rw [h]; rfl)

theorem execSriovVfEnable_sets {s : State} {vf : Nat} {on : Bool} (h : on = true → s.host.vffield.getD vf (-1) ≠ -1) :
    execSriovVfEnable vf on s = .next { s with host := { s.host with vfon := s.host.vfon.set vf on } } := by
  refine if_neg ?_
  cases on with
  | false => simp
  | true => simpa only [Bool.true_and, beq_iff_eq] using h rfl

/-! ### The function-level reset (15 R261) -/

/-- What every step of a fold keeps, and the step at `j` turns into `Q`, which every step keeps, ends in `Q`. -/
theorem foldl_reaches {α β : Type} {g : β → α → β} {P Q : β → Prop} {j : α} (hP : ∀ b a, a ≠ j → P b → P (g b a))
    (hj : ∀ b, P b → Q (g b j)) (hQ : ∀ b a, Q b → Q (g b a)) {l : List α} {b : β} (h : Q b ∨ (P b ∧ j ∈ l)) :
    Q (l.foldl g b) := by
  induction l generalizing b with
  | nil => exact h.resolve_right (by simp)
  | cons a r ih =>
    refine ih ?_
    rcases h with h | ⟨hp, hm⟩
    · exact .inl (hQ b a h)
    · by_cases ha : a = j
      · subst ha
        exact .inl (hj b hp)
      · exact .inr ⟨hP b a ha hp, (List.mem_cons.mp hm).resolve_left (fun e => ha e.symm)⟩

section
variable {s : State} {f q : Nat} {fn : Int}

/-- The registers of the functions, and the slots of every field. -/
def State.fnView (s : State) : List FnRegs × List (List Slot) := (s.host.fns, s.fields.map (·.slots))

theorem map_modAt_keeps {α β : Type} {p : α → β} {g : α → α} (h : ∀ x, p (g x) = p x) (l : List α) (i : Nat) :
    (modAt l i g).map p = l.map p := by
  induction l generalizing i with
  | nil => cases i <;> rfl
  | cons x r ih => cases i <;> simp [modAt, h, ih]

theorem State.modField_fnView {g : FieldSt → FieldSt} (h : ∀ x, (g x).slots = x.slots) (f : Nat) :
    (s.modField f g).fnView = s.fnView :=
  congrArg (Prod.mk s.host.fns) (map_modAt_keeps h s.fields f)

theorem State.endArming_fnView (s : State) (f q : Nat) : (s.endArming f q).fnView = s.fnView := by
  refine Prod.ext (s.endArming_fns f q) ?_
  by_cases h : (s.queue f q).st = 1
  · obtain ⟨headOut, he⟩ := State.endArming_eq h
    obtain ⟨hfields, -, -⟩ := State.recordsDisarmed_view s f q
    have hrec : (s.recordsDisarmed f q).fields.map (·.slots) = s.fields.map (·.slots) := by rw [hfields]
    rw [he]
    cases headOut with
    | false => exact hrec
    | true => exact (map_modAt_keeps (p := FieldSt.slots) (g := fun x => { x with head := none }) (fun _ => rfl) _ f).trans hrec
  · rw [State.endArming_of_not_armed h]

theorem State.disarm_fnView (s : State) (f q : Nat) : (s.disarm f q).fnView = s.fnView :=
  (State.modField_fnView (fun _ => by rfl) f).trans (s.endArming_fnView f q)

theorem State.fnRegs_of_fnView {t : State} (h : t.fnView = s.fnView) (fn : Int) : t.fnRegs fn = s.fnRegs fn := by
  have hf : t.host.fns = s.host.fns := congrArg Prod.fst h
  simp only [State.fnRegs, hf]

theorem State.slot?_eq_fnView (s : State) (f : Nat) (n : Int) : s.slot? f n = (s.fnView.2.getD f []).find? (fun x => x.slot == n) := by
  have hmap : s.fnView.2.getD f [] = (s.fieldSt f).slots :=
    (List.getD_map (f := FieldSt.slots) (d := FieldSt.reset) ..)
  rw [hmap]
  rfl

/-- One queue of a function's reset: disarmed if the function armed it. -/
def State.disarmOwn (fn : Int) (f : Nat) (s : State) (q : Nat) : State :=
  if (s.queue f q).by_ = fn ∧ (s.queue f q).st = 1 then s.disarm f q else s

theorem State.disarmBy_eq (s : State) (f : Nat) (fn : Int) : s.disarmBy f fn = (List.range 9).foldl (State.disarmOwn fn f) s := rfl

theorem State.disarmOwn_fnView (s : State) (q : Nat) : (s.disarmOwn fn f q).fnView = s.fnView := by
  unfold State.disarmOwn
  split
  · exact s.disarm_fnView f q
  · rfl

theorem State.disarmOwn_queue_other {k j : Nat} (h : (k, j) ≠ (f, q)) : (s.disarmOwn fn f q).queue k j = s.queue k j := by
  unfold State.disarmOwn
  split
  · rename_i hq
    obtain ⟨-, -, -, -, hother, -⟩ := State.disarm_results (s := s) (f := f) (q := q) (State.hasQueue_of_st (by omega))
    exact hother k j h
  · rfl

/-- The queue is disarmed and has no address. -/
def State.Disarmed (s : State) (f q : Nat) : Prop := (s.queue f q).st = 0 ∧ (s.queue f q).base = 0

theorem State.disarmOwn_disarms (hb : (s.queue f q).by_ = fn) (hs : (s.queue f q).st = 1) : (s.disarmOwn fn f q).Disarmed f q := by
  obtain ⟨hst, hbase, -⟩ := State.disarm_results (s := s) (f := f) (q := q) (State.hasQueue_of_st (by omega))
  rw [State.disarmOwn, if_pos ⟨hb, hs⟩]
  exact ⟨hst, hbase⟩

theorem State.Disarmed.disarmOwn (h : s.Disarmed f q) (g j : Nat) : (s.disarmOwn fn g j).Disarmed f q := by
  by_cases hk : (f, q) = (g, j)
  · cases hk
    rwa [State.disarmOwn, if_neg (by rw [h.1]; omega)]
  · simpa only [State.Disarmed, State.disarmOwn_queue_other hk] using h

theorem State.Disarmed.disarmBy (h : s.Disarmed f q) (g : Nat) : (s.disarmBy g fn).Disarmed f q := by
  rw [State.disarmBy_eq]
  generalize List.range 9 = l
  induction l generalizing s with
  | nil => exact h
  | cons j r ih => exact ih (h.disarmOwn g j)

theorem State.disarmBy_queue_other {g : Nat} (h : g ≠ f) : (s.disarmBy g fn).queue f q = s.queue f q :=
  foldl_keeps (f := State.disarmOwn fn g) (p := fun t => t.queue f q)
    (fun _ _ => State.disarmOwn_queue_other (fun e => h (Prod.mk.inj e).1.symm)) _ s

/-- Every queue of the field that the function armed. -/
theorem State.disarmBy_disarms (hq : q < 9) (hb : (s.queue f q).by_ = fn) (hs : (s.queue f q).st = 1) :
    (s.disarmBy f fn).Disarmed f q := by
  rw [State.disarmBy_eq]
  refine foldl_reaches (P := fun (t : State) => (t.queue f q).by_ = fn ∧ (t.queue f q).st = 1) (Q := fun t => t.Disarmed f q) (j := q)
    (fun t j hj h => ?_) (fun t h => State.disarmOwn_disarms h.1 h.2) (fun t j h => h.disarmOwn f j)
    (.inr ⟨⟨hb, hs⟩, List.mem_range.mpr hq⟩)
  rwa [State.disarmOwn_queue_other (fun e => hj (Prod.mk.inj e).2.symm)]

/-- The queues of every field that the function armed. -/
def State.disarmAll (s : State) (fn : Int) : State := (List.range 12).foldl (fun t f => t.disarmBy f fn) s

theorem State.disarmAll_fnView (s : State) (fn : Int) : (s.disarmAll fn).fnView = s.fnView :=
  foldl_keeps (p := State.fnView) (fun t _ => foldl_keeps (p := State.fnView) (fun u q => u.disarmOwn_fnView q) _ t) _ s

theorem State.disarmAll_disarms (hf : f < 12) (hq : q < 9) (hb : (s.queue f q).by_ = fn) (hs : (s.queue f q).st = 1) :
    (s.disarmAll fn).Disarmed f q := by
  refine foldl_reaches (g := fun (t : State) f => t.disarmBy f fn) (P := fun (t : State) => (t.queue f q).by_ = fn ∧ (t.queue f q).st = 1)
    (Q := fun t => t.Disarmed f q) (j := f) (fun t g hg h => ?_) (fun t h => State.disarmBy_disarms hq h.1 h.2)
    (fun t g h => h.disarmBy g) (.inr ⟨⟨hb, hs⟩, List.mem_range.mpr hf⟩)
  rwa [State.disarmBy_queue_other hg]

/-- The load in progress is given up: its slot is empty (log 54). -/
def State.endLoad (s : State) (fn : Int) : State :=
  match (s.fnRegs fn).loading with
  | some (f, slot, _) => s.clearSlot f slot
  | none => s

theorem State.endLoad_host (s : State) (fn : Int) : (s.endLoad fn).host = s.host := by
  unfold State.endLoad
  split <;> rfl

theorem State.endLoad_queue (s : State) (fn : Int) (f q : Nat) : (s.endLoad fn).queue f q = s.queue f q := by
  unfold State.endLoad
  split
  · exact State.queue_modField (fun _ => by rfl) f q
  · rfl

/-- The slot that the load was to fill is empty. -/
theorem State.endLoad_slot {slot : Int} {base : Word} (h : (s.fnRegs fn).loading = some (f, slot, base)) :
    (s.endLoad fn).slot? f slot = none := by
  simp only [State.endLoad, h]
  by_cases hf : f < s.fields.length
  · exact State.slot?_clearSlot hf slot
  · have hreset : (s.clearSlot f slot).fieldSt f = FieldSt.reset :=
      List.getD_eq_default _ _ (by simpa [State.clearSlot] using hf)
    rw [State.slot?, hreset]
    rfl

theorem execFunctionLevelReset_resets {vf : Nat} (hv : vf < 128) (h : s.resetAwait vf = none) :
    execFunctionLevelReset vf s = .next
      (((s.endLoad (vf : Int)).modFn (vf : Int) (fun _ => ⟨0, 0, false, 0, none⟩)).disarmAll (vf : Int)) := by
  unfold execFunctionLevelReset
  rw [if_neg (by omega), h]
  rfl

/-- R261: the reset of a function. -/
theorem functionLevelReset_results {vf : Nat} (hv : vf < 128) (hl : vf + 1 < s.host.fns.length) (h : s.resetAwait vf = none) :
    ∃ t : State, exec (.functionLevelReset vf) s = .next t ∧ t.fnRegs vf = ⟨0, 0, false, 0, none⟩ ∧
      (∀ g, g ≠ (vf : Int) → -1 ≤ g → t.fnRegs g = s.fnRegs g) ∧
      (∀ f < 12, ∀ q < 9, (s.queue f q).by_ = (vf : Int) → (s.queue f q).st = 1 → (t.queue f q).st = 0 ∧ (t.queue f q).base = 0) ∧
      ∀ f slot base, (s.fnRegs vf).loading = some (f, slot, base) → t.slot? f slot = none := by
  have hview := State.disarmAll_fnView ((s.endLoad (vf : Int)).modFn (vf : Int) (fun _ => ⟨0, 0, false, 0, none⟩)) (vf : Int)
  have hhost := s.endLoad_host (vf : Int)
  refine ⟨_, execFunctionLevelReset_resets hv h, ?_, fun g hg h0 => ?_, fun f hf q hq hb hs => ?_, fun f slot base hload => ?_⟩
  · rw [State.fnRegs_of_fnView hview, State.fnRegs_modFn (by rw [hhost]; omega)]
  · rw [State.fnRegs_of_fnView hview]
    have hother : ((s.endLoad (vf : Int)).modFn (vf : Int) (fun _ => ⟨0, 0, false, 0, none⟩)).fnRegs g =
        (s.endLoad (vf : Int)).fnRegs g := getD_modAt_other (by omega) _ _ _
    rw [hother, State.fnRegs, hhost]
    rfl
  · have hq' := s.endLoad_queue (vf : Int) f q
    exact State.disarmAll_disarms hf hq ((congrArg Queue.by_ hq').trans hb) ((congrArg Queue.st hq').trans hs)
  · rw [State.slot?_eq_fnView, hview, ← State.slot?_eq_fnView]
    exact State.endLoad_slot hload

end

/-! ### Accesses of 8 and of 4 bytes (15 R263) -/

theorem State.hostRead_register {s : State} {fn : Int} {off : Nat} (hb : off < bar4) (h8 : off % 8 = 0) :
    s.hostRead fn off 8 = (s.hostRegister fn off % 2 ^ 64).toNat ∧ s.hostRead fn off 4 = s.hostRead fn off 8 % 2 ^ 32 ∧
      s.hostRead fn (off + 4) 4 = s.hostRead fn off 8 / 2 ^ 32 := by
  have hhigh : ¬bar4 ≤ off + 4 := by
    have hmod : bar4 % 8 = 0 := by decide
    omega
  have hbase : off / 8 * 8 = off := by omega
  have hbase4 : (off + 4) / 8 * 8 = off := by omega
  have h4 : (off + 4) % 8 = 4 := by omega
  have hread8 : s.hostRead fn off 8 = (s.hostRegister fn off % 2 ^ 64).toNat := by
    simp [State.hostRead, not_le.mpr hb, h8, hbase]
  refine ⟨hread8, ?_, ?_⟩
  · rw [hread8]
    simp [State.hostRead, not_le.mpr hb, h8, hbase]
  · rw [hread8]
    simp [State.hostRead, hhigh, h4, hbase4]

theorem State.hostWrite_narrow {s : State} {off size : Nat} (hb : off < bar4) (hs : size ≠ 8) (fn x : Int) :
    s.hostWrite fn off size x = s := by
  rw [State.hostWrite, if_neg (not_le.mpr hb), if_neg hs]

/-! ### The statement -/

/-- Settles O45: each register by its own lemma, keys by `keycmdErase_results` and `keycmdInstall_results`, the reset by
`functionLevelReset_results`. -/
theorem hostRegisterResults : Obligations.HostRegisterResults := by
  unfold Obligations.HostRegisterResults
  refine fun s => ⟨fun fn off x => ⟨execHostRegisterWrite_ignored, fun h0 h1 hf hl => ⟨hostRegisterWrite_clbase h0 h1 hf x hl,
      fun q hq => hostRegisterWrite_lqbase h0 h1 hf x hq, hostRegisterWrite_clcmd h0 h1 hf x⟩⟩, fun x => ?_,
    fun f k hf hk hl => ⟨keycmdErase_results hf hk hl, fun m hm he0 he1 ho0 ho1 hb0 hb1 hc0 hc1 hn =>
      keycmdInstall_results hm (State.keyLine_of he0 ho0 hb0 hc0) (State.keyLine_of he1 ho1 hb1 hc1) hf hk hn hl⟩,
    fun vf hv _ => ⟨execSriovVfEnable_unbound, fun on hon => execSriovVfEnable_sets hon,
      fun hl h => functionLevelReset_results hv hl h⟩,
    fun fn off hb h8 => State.hostRead_register hb h8, fun fn off size x hb hs => State.hostWrite_narrow hb hs fn x, rfl⟩
  obtain ⟨hgrow, hshrink⟩ := hostRegisterWrite_frcmd (s := s) (x := x) _ rfl
  obtain ⟨hinstall, herase⟩ := hostRegisterWrite_keycmd (s := s) (x := x) _ rfl
  exact ⟨hostRegisterWrite_recctl, hgrow, hshrink, hinstall, herase, hostRegisterWrite_pffield, hostRegisterWrite_pffield_out,
    hostRegisterWrite_hlmode, hostRegisterWrite_hlmode_out, hostRegisterWrite_ratecap, hostRegisterWrite_ratecap_out,
    hostRegisterWrite_keyadr, hostRegisterWrite_elogtail, fun f hf hl => hostRegisterWrite_field hf hl,
    fun k hk hl hon h0 h1 => hostRegisterWrite_vffield hk hl hon h0 h1, fun k hk hon => hostRegisterWrite_vffield_enabled hk hon,
    fun k hk hl h0 h1 => ⟨hostRegisterWrite_window (j := 0) hk hl (by decide) rfl h0 h1,
      hostRegisterWrite_window (j := 1) hk hl (by decide) (by omega) h0 h1⟩,
    fun k hk hl h => hostRegisterWrite_cecnt hk hl h, fun l hl hs e he h => hostRegisterWrite_link hl hs he h⟩

end Sys2Proof.Machine
end

section
/-!
## Placement, reservations and fallow states (O48)

The choice of a candidate and of a set (04 R71, R89), a placed and a restored gang (05 R85, R87, 23 R412, R413), and the fallow
states of a die (04 R74, R75, 05 R88).
-/
namespace Sys2Proof.Machine

/-! ### The head of a field (04 R89)

A reservation is read by `barredTo` alone: to every other test of a placement the field's head is nothing. -/

/-- The state with another head of a field. -/
def State.withHead (s : State) (f : Nat) (h : Option HeadRes) : State := s.modField f (fun x => { x with head := h })

theorem modAt_id {α : Type} {g : α → α} {l : List α} {i : Nat} {d : α} (h : g (l.getD i d) = l.getD i d) : modAt l i g = l := by
  induction l generalizing i with
  | nil => cases i <;> rfl
  | cons x r ih =>
    cases i with
    | zero => exact congrArg (· :: r) h
    | succ j => exact congrArg (x :: ·) (ih h)

theorem State.withHead_self (s : State) (f : Nat) : s.withHead f (s.fieldSt f).head = s :=
  congrArg (fun l => ({ s with fields := l } : State)) (modAt_id (d := FieldSt.reset) rfl)

theorem State.keepTarget_withHead (s : State) (f : Nat) (cs : List Cand) : ∃ h, s.keepTarget f cs = s.withHead f h := by
  have hself : ∃ h, s = s.withHead f h := ⟨_, (s.withHead_self f).symm⟩
  unfold State.keepTarget
  split
  · exact hself
  · split
    · exact hself
    · split
      · exact hself
      · exact ⟨_, rfl⟩

theorem State.keepTarget_nil (s : State) (f : Nat) : s.keepTarget f [] = s := by
  unfold State.keepTarget
  split
  · rfl
  · split <;> rfl

/-- A target all of whose cores are usable is kept. -/
theorem State.keepTarget_usable {s : State} {f : Nat} (cs : List Cand)
    (h : ∀ h, (s.fieldSt f).head = some h → h.target ≠ [] ∧ ∀ k ∈ h.target, s.usable f k = true) : s.keepTarget f cs = s := by
  unfold State.keepTarget
  cases hh : (s.fieldSt f).head with
  | none => rfl
  | some x =>
    obtain ⟨hne, hall⟩ := h x hh
    refine if_pos ?_
    simpa [hne] using hall

section
variable (s : State) (f : Nat) (h : Option HeadRes)

/-- What does not read the head. -/
theorem State.withHead_keeps {γ : Type} {p : FieldSt → γ} (hp : ∀ x : FieldSt, p { x with head := h } = p x) (k : Nat) :
    p ((s.withHead f h).fieldSt k) = p (s.fieldSt k) :=
  State.fieldSt_modField_keeps (g := fun x => { x with head := h }) p hp k

theorem State.withHead_pool (k : Nat) : ((s.withHead f h).fieldSt k).pool = (s.fieldSt k).pool :=
  s.withHead_keeps f h (p := (·.pool)) (fun _ => rfl) k
theorem State.withHead_ppbase (k : Nat) : ((s.withHead f h).fieldSt k).ppbase = (s.fieldSt k).ppbase :=
  s.withHead_keeps f h (p := (·.ppbase)) (fun _ => rfl) k
theorem State.withHead_ppsize (k : Nat) : ((s.withHead f h).fieldSt k).ppsize = (s.fieldSt k).ppsize :=
  s.withHead_keeps f h (p := (·.ppsize)) (fun _ => rfl) k
theorem State.withHead_slots (k : Nat) : ((s.withHead f h).fieldSt k).slots = (s.fieldSt k).slots :=
  s.withHead_keeps f h (p := (·.slots)) (fun _ => rfl) k

theorem State.withHead_slot? (k : Nat) (n : Int) : (s.withHead f h).slot? k n = s.slot? k n := by
  rw [State.slot?, State.withHead_slots, State.slot?]
theorem State.withHead_gener? (k : Nat) (n g : Int) : (s.withHead f h).gener? k n g = s.gener? k n g := by
  rw [State.gener?, State.withHead_slot?, State.gener?]
theorem State.withHead_entryPoint (k : Nat) (l : LaunchRec) : (s.withHead f h).entryPoint k l = s.entryPoint k l := by
  simp only [State.entryPoint, State.startGen, State.withHead_gener?, State.withHead_slot?]

theorem State.withHead_poolRange (k n : Nat) (taken : List Nat) : (s.withHead f h).poolRange k n taken = s.poolRange k n taken := by
  simp only [State.poolRange, State.withHead_ppbase, State.withHead_ppsize]
  rfl
theorem State.withHead_poolRanges (k n m : Nat) (taken : List Nat) :
    (s.withHead f h).poolRanges k n m taken = s.poolRanges k n m taken := by
  induction m generalizing taken with
  | zero => rfl
  | succ m ih => simp only [State.poolRanges, State.withHead_poolRange, ih]
theorem State.withHead_gangRanges (k : Nat) (l : LaunchRec) : (s.withHead f h).gangRanges k l = s.gangRanges k l := by
  simp only [State.gangRanges, State.poolTaken, State.withHead_poolRanges, State.withHead_pool]

theorem State.withHead_passes (k : Nat) (l : LaunchRec) : (s.withHead f h).passes k l = s.passes k l := rfl
theorem State.withHead_notReady (write : Bool) : (s.withHead f h).notReady write = s.notReady write := rfl
theorem State.withHead_coreSets (ok p : Nat → Bool) (l : LaunchRec) : (s.withHead f h).coreSets ok p l = s.coreSets ok p l := rfl

/-- What must be waited for, if anything, is asked of other parts of the state. -/
theorem State.withHead_snoopFirst {write : Bool} {ls : List Loc} (hn : s.snoopFirst write ls = none) :
    (s.withHead f h).snoopFirst write ls = none := by
  unfold State.snoopFirst at hn ⊢
  dsimp only at hn ⊢
  rw [State.withHead_notReady]
  split at hn
  · exact if_pos ‹_›
  · cases hn

theorem State.clearWay_none {s : State} {l : LaunchRec} {cores : List Nat} : s.clearWay l cores = none ↔
    cores.find? (fun k => decide (s.l1After l k < (s.corePartials k).length)) = none ∧
      cores.any (fun k => s.storesTo k (s.takenLines l k)) = false := by
  unfold State.clearWay
  cases cores.find? (fun k => decide (s.l1After l k < (s.corePartials k).length)) with
  | some k => simp
  | none => cases cores.any (fun k => s.storesTo k (s.takenLines l k)) <;> simp

theorem State.withHead_clearWay {l : LaunchRec} {cores : List Nat} (hn : s.clearWay l cores = none) :
    (s.withHead f h).clearWay l cores = none := 
  State.clearWay_none.mpr (State.clearWay_none (s := s).mp hn)

end

/-! ### The choice of a set (04 R71, R89, 05 R79, R87) -/

section
variable {s : State} {f : Nat} {c : Cand}

/-- The sets that pass and of which the head bars no core, in search order. -/
def State.openSets (s : State) (c : Cand) : List CoreSet :=
  (s.coreSets c.dieOk (s.passes c.fld c.lrec) c.lrec).filter (fun x => x.cores.all (fun k => !s.barredTo c k))

/-- Every core of a set of one or two quads satisfies the test. -/
theorem singleSet_test {p : Nat → Bool} {n q : Nat} {x : CoreSet} (h : singleSet p n q = some x) : ∀ k ∈ x.cores, p k = true := by
  unfold singleSet at h
  dsimp only at h
  split at h
  · cases h
    exact fun k hk => (List.mem_filter.mp (List.mem_of_mem_take hk)).2
  · cases h

theorem doubleSet_test {p : Nat → Bool} {n q r : Nat} {x : CoreSet} (h : doubleSet p n q r = some x) :
    ∀ k ∈ x.cores, p k = true := by
  unfold doubleSet at h
  dsimp only at h
  split at h
  · cases h
    intro k hk
    rcases List.mem_append.mp hk with hk | hk <;> exact (List.mem_filter.mp (List.mem_of_mem_take hk)).2
  · cases h

theorem State.coreSets_test {ok p : Nat → Bool} {l : LaunchRec} {x : CoreSet} (h : x ∈ s.coreSets ok p l) :
    ∀ k ∈ x.cores, p k = true := by
  obtain ⟨d, -, hd⟩ := List.mem_flatMap.mp h
  obtain ⟨q, -, hq⟩ := List.mem_flatMap.mp hd
  rcases List.mem_append.mp hq with hx | hx
  · exact singleSet_test (Option.mem_toList.mp hx)
  · obtain ⟨r, -, hr⟩ := List.mem_filterMap.mp hx
    exact doubleSet_test hr

theorem State.openSets_passes {x : CoreSet} (h : x ∈ s.openSets c) : ∀ k ∈ x.cores, s.passes c.fld c.lrec k = true :=
  State.coreSets_test (List.mem_of_mem_filter h)

theorem State.tryPlace_no (h : s.openSets c = []) : s.tryPlace c = .no := by
  unfold State.tryPlace
  dsimp only
  rw [show (s.coreSets c.dieOk (fun k => s.passes c.fld c.lrec k) c.lrec).filter
    (fun x => x.cores.all (fun k => !s.barredTo c k)) = [] from h]

section
variable {x : CoreSet} {xs : List CoreSet}

theorem State.tryPlace_launch {y : Grid} {rs : List (List Nat)} (h : s.openSets (.launch y) = x :: xs)
    (hr : s.gangRanges y.fld y.lrec = some rs) (hn : s.snoopFirst true (rangeLocs rs) = none)
    (hw : s.clearWay y.lrec x.cores = none) (hp : y.placed ≠ 0) :
    s.tryPlace (.launch y) = .placed (s.placeGang y x rs) := by
  unfold State.tryPlace
  dsimp only
  rw [show (s.coreSets (Cand.launch y).dieOk (fun k => s.passes (Cand.launch y).fld (Cand.launch y).lrec k) (Cand.launch y).lrec).filter
    (fun x => x.cores.all (fun k => !s.barredTo (.launch y) k)) = x :: xs from h]
  simp only [Cand.fld, Cand.lrec, hr, hn, hw, hp, if_false]

theorem State.tryPlace_saved {g : Gang} (h : s.openSets (.saved g) = x :: xs) (hg : g.portHalt = false)
    (hw : s.clearWay g.lrec x.cores = none) : s.tryPlace (.saved g) = .placed (s.restoreGang g x []) := by
  unfold State.tryPlace
  dsimp only
  rw [show (s.coreSets (Cand.saved g).dieOk (fun k => s.passes (Cand.saved g).fld (Cand.saved g).lrec k) (Cand.saved g).lrec).filter
    (fun x => x.cores.all (fun k => !s.barredTo (.saved g) k)) = x :: xs from h]
  have hn : s.snoopFirst true (rangeLocs []) = none := rfl
  simp only [Cand.fld, Cand.lrec, hg, Bool.false_eq_true, if_false, hn, hw]

end

theorem execSowerSchedule_none (h : s.candidates f = []) : execSowerSchedule f s = .next (s.withHead f none) := by
  unfold execSowerSchedule
  rw [h, State.keepTarget_nil]
  rfl

variable {rest : List Cand} (h : s.candidates f = c :: rest)
include h

theorem execSowerSchedule_placed {t : State} (hp : (s.keepTarget f (s.candidates f)).tryPlace c = .placed t) :
    execSowerSchedule f s = .next (t.afterPlace c) := by
  unfold execSowerSchedule
  rw [h] at hp ⊢
  rw [tryAll, hp]

/-- The only candidate fits nowhere. -/
theorem execSowerSchedule_no (hr : rest = []) (hp : (s.keepTarget f (s.candidates f)).tryPlace c = .no) :
    execSowerSchedule f s = .next ((s.keepTarget f (s.candidates f)).setHead f (some c)) := by
  unfold execSowerSchedule
  rw [h] at hp ⊢
  rw [tryAll, hp, hr]
  rfl

end

/-- A core that the head's reservation bars after 81 µs. -/
theorem State.barredTo_of_target {s : State} {c : Cand} {x : HeadRes} {k : Nat} (hh : (s.fieldSt c.fld).head = some x)
    (hc : c.isHead x = false) (hr : c.rank ≤ x.rank) (ht : x.since + 81000 ≤ s.now) (hk : k ∈ x.target) :
    s.barredTo c k = true := by
  simp [State.barredTo, hh, HeadRes.bars, ht, hc, hr, hk]

theorem execHeadReservationBar_kept {s : State} {f : Nat} {x : HeadRes} (hh : (s.fieldSt f).head = some x)
    (h : x.barred = true ∨ s.now < x.since + 81000) : execHeadReservationBar f s = .next s := by
  rw [execHeadReservationBar, hh]
  exact if_pos (by simpa using h)

theorem execHeadReservationBar_bars {s : State} {f : Nat} {x : HeadRes} (hh : (s.fieldSt f).head = some x)
    (hb : x.barred = false) (ht : x.since + 81000 ≤ s.now) :
    execHeadReservationBar f s = .next (s.withHead f (some { x with barred := true })) := by
  rw [execHeadReservationBar, hh]
  exact if_neg (by simp [hb, ht])

/-! ### What the clearing of a private range writes (11 R212, 16 R287) -/

/-- The second memory differs from the first within one line at most, and keeps the canonical form. -/
def LineWrite (n : Nat) (m m' : List (Nat × Tryte)) : Prop :=
  Memory.wf m = true → Memory.wf m' = true ∧ ∀ k, k / 27 ≠ n → amGet 0 m' k = amGet 0 m k

theorem LineWrite.refl (n : Nat) (m : List (Nat × Tryte)) : LineWrite n m m := fun h => ⟨h, fun _ _ => rfl⟩

theorem LineWrite.trans {n : Nat} {m m' m'' : List (Nat × Tryte)} (h : LineWrite n m m') (h' : LineWrite n m' m'') :
    LineWrite n m m'' := fun hm => by
  obtain ⟨hw, hk⟩ := h hm
  obtain ⟨hw', hk'⟩ := h' hw
  exact ⟨hw', fun k hne => (hk' k hne).trans (hk k hne)⟩

/-- Trytes written at places of a line. -/
theorem LineWrite.puts {n : Nat} {ws : List (Nat × Tryte)} (h : ∀ w ∈ ws, w.1 < 27) (m : List (Nat × Tryte)) :
    LineWrite n m (ws.foldl (fun m w => amSet 0 m (27 * n + w.1) w.2) m) := by
  induction ws generalizing m with
  | nil => exact .refl n m
  | cons w r ih =>
    have hw := h w List.mem_cons_self
    have hset : LineWrite n m (amSet 0 m (27 * n + w.1) w.2) := fun hm =>
      ⟨amSet_wf 0 _ _ hm, fun k hk => amGet_amSet_other 0 m w.2 (by omega)⟩
    exact hset.trans (ih (fun x hx => h x (List.mem_cons_of_mem _ hx)) _)

/-- Zeros in every place of a line. -/
theorem amGet_zeros {m : List (Nat × Tryte)} (hm : Memory.wf m = true) (a : Nat) {n : Nat} (hn : n < 27) :
    amGet 0 (((List.range 27).map (fun k => (k, (0 : Tryte)))).foldl (fun m w => amSet 0 m (a + w.1) w.2) m) (a + n) = 0 := by
  rw [List.foldl_map]
  refine (foldl_reaches (P := fun m => Memory.wf m = true) (Q := fun m => Memory.wf m = true ∧ amGet 0 m (a + n) = 0) (j := n)
    (fun b i _ hb => amSet_wf 0 _ _ hb) (fun b hb => ⟨amSet_wf 0 _ _ hb, amGet_amSet_same (lo := none) 0 _ _ hb⟩)
    (fun b i hb => ⟨amSet_wf 0 _ _ hb.1, ?_⟩) (.inr ⟨hm, List.mem_range.mpr hn⟩)).2
  obtain ⟨hw, hz⟩ := hb
  by_cases hi : i = n
  · subst hi
    exact amGet_amSet_same (lo := none) 0 _ _ hw
  · rw [amGet_amSet_other 0 b 0 (by omega), hz]

section
variable {s : State}

theorem State.makeRoom_mem (s : State) (die slice line : Nat) : (s.makeRoom die slice line).mem = s.mem := by
  unfold State.makeRoom
  dsimp only
  split
  · rfl
  · split
    · rfl
    · split
      · rfl
      · exact (s.storeTag_writesBack _).keeps State.mem rfl

theorem State.l2Write_mem (s : State) (l : Loc) (c : Bool) : (s.l2Write l c).mem = s.mem := by
  show (s.l2Fill l).mem = s.mem
  unfold State.l2Fill
  split
  · rfl
  · exact s.makeRoom_mem _ _ _

theorem State.homePut_mem (s : State) (n : Nat) (ws : List (Nat × Tryte)) (c : Bool) :
    (s.homePut ⟨.hbm, 27 * n⟩ ws c).mem = ws.foldl (fun m w => amSet 0 m (27 * n + w.1) w.2) s.mem :=
  (s.putTrytes ⟨.hbm, 27 * n⟩ ws).l2Write_mem ⟨.hbm, 27 * n⟩ c

theorem addPartial_length (ty : Int) {old : List Word} (h : old.length ≤ 9) (add : List Word) : (addPartial ty old add).length ≤ 9 := by
  unfold addPartial
  split
  · simp only [List.length_map, List.length_zip]
    omega
  · split
    · simp
    · simp only [List.length_map, List.length_zip]
      omega

theorem wordTrytes_place {ws : List Word} (h : ws.length ≤ 9) :
    ∀ w ∈ ws.zipIdx.flatMap (fun q => wordTrytes (3 * q.2) q.1), w.1 < 27 := by
  intro w hw
  obtain ⟨q, hq, hw⟩ := List.mem_flatMap.mp hw
  have hlt := List.snd_lt_of_mem_zipIdx hq
  simp only [wordTrytes, List.mem_cons, List.not_mem_nil, or_false] at hw
  rcases hw with rfl | rfl | rfl <;> dsimp only <;> omega

theorem State.flushOne_mem (s : State) (who : RowRef) (n : Nat) : LineWrite n s.mem (s.flushOne who ⟨.hbm, 27 * n⟩).mem := by
  unfold State.flushOne
  split
  · exact .refl n _
  · rename_i p _
    dsimp only
    have hgone (k : Int) (g : Word) (pl : Int) (x : Int) (f : Block → Block) :
        LineWrite n s.mem ((s.log k g pl 0 0 x).modBlock who f).mem := by
      rw [show ((s.log k g pl 0 0 x).modBlock who f).mem = s.mem from (s.log_writesBack k g pl 0 0 x).keeps State.mem rfl]
      exact .refl n _
    split
    · exact hgone _ _ _ _ _
    · split
      · exact hgone _ _ _ _ _
      · have hput := State.homePut_mem s n ((addPartial p.ty (lineWords (s.lineAt ⟨.hbm, 27 * n⟩)) p.words).zipIdx.flatMap
          (fun q => wordTrytes (3 * q.2) q.1)) (((s.l2Find ⟨.hbm, 27 * n⟩).map (·.c)).getD false)
        exact hput ▸ LineWrite.puts (wordTrytes_place (addPartial_length _ (by simp [lineWords]) _)) s.mem

theorem State.flushLine_mem (s : State) (n : Nat) : LineWrite n s.mem (s.flushLine ⟨.hbm, 27 * n⟩).mem := by
  unfold State.flushLine
  generalize s.partialsOf ⟨.hbm, 27 * n⟩ = ws
  induction ws generalizing s with
  | nil => exact .refl n _
  | cons w r ih => exact (s.flushOne_mem w n).trans (ih _)

/-- The write that clears a line. -/
def State.zeroLine (s : State) (n : Nat) : State :=
  s.homeWrite ⟨.hbm, 27 * n⟩ ((List.range 27).map (fun k => (k, 0))) false none

theorem State.homeWrite_mem (s : State) (n : Nat) (ws : List (Nat × Tryte)) (c : Bool) (src : Option (RowRef × Nat × Nat)) :
    (s.homeWrite ⟨.hbm, 27 * n⟩ ws c src).mem =
      ws.foldl (fun m w => amSet 0 m (27 * n + w.1) w.2) (s.flushLine ⟨.hbm, 27 * n⟩).mem := by
  rw [← State.homePut_mem]
  unfold State.homeWrite State.clearFailing
  dsimp only
  split <;> rfl

theorem State.zeroLine_mem (s : State) (n : Nat) : LineWrite n s.mem (s.zeroLine n).mem := by
  rw [State.zeroLine, State.homeWrite_mem]
  refine (s.flushLine_mem n).trans (LineWrite.puts (fun w hw => ?_) _)
  obtain ⟨k, hk, rfl⟩ := List.mem_map.mp hw
  exact List.mem_range.mp hk

theorem State.zeroLine_zero (h : Memory.wf s.mem = true) {n k : Nat} (hk : k < 27) : amGet 0 (s.zeroLine n).mem (27 * n + k) = 0 := by
  rw [State.zeroLine, State.homeWrite_mem]
  exact amGet_zeros (s.flushLine_mem n h).1 _ hk

/-- Every line that is cleared is zero at the end. -/
theorem State.zeroLines_zero (h : Memory.wf s.mem = true) {ns : List Nat} {n k : Nat} (hn : n ∈ ns) (hk : k < 27) :
    amGet 0 (ns.foldl State.zeroLine s).mem (27 * n + k) = 0 := by
  refine (foldl_reaches (P := fun (t : State) => Memory.wf t.mem = true)
    (Q := fun t => Memory.wf t.mem = true ∧ amGet 0 t.mem (27 * n + k) = 0) (j := n)
    (fun t m _ ht => (t.zeroLine_mem m ht).1) (fun t ht => ⟨(t.zeroLine_mem n ht).1, State.zeroLine_zero ht hk⟩)
    (fun t m ht => ⟨(t.zeroLine_mem m ht.1).1, ?_⟩) (.inr ⟨h, hn⟩)).2
  obtain ⟨hw, hz⟩ := ht
  by_cases hm : m = n
  · subst hm
    exact State.zeroLine_zero hw hk
  · rw [(t.zeroLine_mem m hw).2 _ (by omega), hz]

/-! ### The clearing of a new gang's ranges (05 R85, 11 R212) -/

theorem rangeLocs_eq (rs : List (List Nat)) : rangeLocs rs = rs.flatten.map (fun m => ⟨.hbm, 27 * m⟩) := by
  simp [rangeLocs, List.flatMap_def, List.map_flatten]

theorem State.clearRanges_eq (s : State) (rs : List (List Nat)) :
    s.clearRanges rs = (rs.flatten.foldl State.zeroLine s).purge (rangeLocs rs) := by
  unfold State.clearRanges
  conv_lhs => rw [rangeLocs_eq, List.foldl_map]
  rw [← rangeLocs_eq]
  rfl

theorem State.clearRanges_zero (h : Memory.wf s.mem = true) {rs : List (List Nat)} {l : Loc} (hl : l ∈ rangeLocs rs) {n : Nat}
    (hn : n < 27) : (s.clearRanges rs).tryteAt (locAt l n) = 0 := by
  rw [rangeLocs_eq] at hl
  obtain ⟨m, hm, rfl⟩ := List.mem_map.mp hl
  rw [State.clearRanges_eq]
  exact State.zeroLines_zero h hm hn

theorem State.clearRanges_nil (s : State) {rs : List (List Nat)} (h : rangeLocs rs = []) : s.clearRanges rs = s.purge [] := by
  rw [State.clearRanges, h]
  rfl

theorem State.clearRanges_sowerView (s : State) (rs : List (List Nat)) : (s.clearRanges rs).sowerView = s.sowerView := by
  rw [State.clearRanges_eq]
  exact foldl_keeps (p := State.sowerView) (fun t n => t.homeWrite_sowerView _ _ _ _) rs.flatten s

theorem State.zeroLines_withoutMemory (s : State) (ns : List Nat) : (ns.foldl State.zeroLine s).withoutMemory = s.withoutMemory :=
  foldl_keeps (p := State.withoutMemory) (fun t _ => t.homeWrite_withoutMemory _ _ _ _) ns s

theorem State.clearRanges_reports (s : State) (rs : List (List Nat)) : (s.clearRanges rs).reports = s.reports := by
  rw [State.clearRanges_eq]
  show (rs.flatten.foldl State.zeroLine s).withoutMemory.reports = s.withoutMemory.reports
  rw [State.zeroLines_withoutMemory]

/-- The RDC apart, the dies are as they were. -/
theorem State.clearRanges_dies (s : State) (rs : List (List Nat)) :
    (s.clearRanges rs).dies.map (fun (d : DieSt) => { d with rdc := [] }) = s.dies.map (fun (d : DieSt) => { d with rdc := [] }) := by
  have hd : (rs.flatten.foldl State.zeroLine s).dies = s.dies :=
    show (rs.flatten.foldl State.zeroLine s).withoutMemory.dies = s.withoutMemory.dies by rw [State.zeroLines_withoutMemory]
  rw [State.clearRanges_eq]
  unfold State.purge
  dsimp only
  rw [hd, List.map_map]
  refine List.map_congr_left (fun d _ => ?_)
  dsimp only [Function.comp]
  split <;> rfl

end

/-! ### Taking a set (05 R84 to R88) -/

theorem State.shrinkL1_eq (s : State) (cores : List Nat) : ∃ ks, s.shrinkL1 cores = { s with cores := ks } := by
  unfold State.shrinkL1
  induction cores generalizing s with
  | nil => exact ⟨_, rfl⟩
  | cons k r ih =>
    obtain ⟨ks, hk⟩ := ih (s.trimL1 k)
    exact ⟨ks, hk⟩

/-- A die of the set starts to wake. -/
def State.wake (s : State) (d : Nat) : State := s.modDie d (fun (y : DieSt) => { y with waking := true })

theorem State.wakeSet_eq (s : State) (cores : List Nat) : ∃ ds, s.wakeSet cores = { s with dies := ds } := by
  unfold State.wakeSet
  generalize s.fallowOf cores = l
  induction l generalizing s with
  | nil => exact ⟨_, rfl⟩
  | cons d r ih =>
    obtain ⟨ds, hd⟩ := ih (s.wake d)
    exact ⟨ds, hd⟩

theorem State.wake_wakes {s : State} {d : Nat} (h : d < s.dies.length) : ((s.wake d).die d).waking = true := by
  rw [State.wake, State.die_modDie_same h]

theorem State.wake_keeps {s : State} {d : Nat} (e : Nat) (h : (s.die d).waking = true) : ((s.wake e).die d).waking = true := by
  rw [State.wake]
  by_cases hd : d = e
  · subst hd
    by_cases hl : d < s.dies.length
    · rw [State.die_modDie_same hl]
    · rw [State.die, State.modDie, List.getD_eq_default _ _ (by simpa using hl)]
      rw [State.die, List.getD_eq_default _ _ (by simpa using hl)] at h
      exact h
  · rwa [State.die_modDie_other hd]

theorem State.wake_length (s : State) (e : Nat) : (s.wake e).dies.length = s.dies.length := length_modAt _ _ _

/-- A fallow die of the set is woken. -/
theorem State.wakeSet_wakes {s : State} {cores : List Nat} {k : Nat} (hk : k ∈ cores) (hl : k / 80 < s.dies.length)
    (hf : (s.die (k / 80)).fallow ≠ 0) : ((s.wakeSet cores).die (k / 80)).waking = true := by
  have hm : k / 80 ∈ s.fallowOf cores := List.mem_filter.mpr ⟨List.mem_map_of_mem hk, by simpa using hf⟩
  exact foldl_reaches (g := State.wake) (P := fun (t : State) => k / 80 < t.dies.length)
    (Q := fun t => (t.die (k / 80)).waking = true) (fun t e _ ht => by rwa [State.wake_length]) (fun t ht => State.wake_wakes ht)
    (fun t e ht => State.wake_keeps e ht) (.inr ⟨hl, hm⟩)

/-- A gang on a set of active dies is ready at once. -/
theorem State.placedAs_eq (s : State) (cores : List Nat) :
    s.placedAs cores = if ∀ k ∈ cores, (s.die (k / 80)).fallow = 0 then .resident else .waking := by
  simp [State.placedAs, State.fallowOf, List.filter_eq_nil_iff]

/-- The fallow states, where at most the copies that dies hold changed. -/
theorem State.fallow_of_dies {s t : State}
    (h : t.dies.map (fun (d : DieSt) => { d with rdc := [] }) = s.dies.map (fun (d : DieSt) => { d with rdc := [] })) (k : Nat) :
    (t.die k).fallow = (s.die k).fallow := by
  have hread (u : State) : (u.die k).fallow =
      ((u.dies.map (fun (d : DieSt) => { d with rdc := [] })).getD k DieSt.reset).fallow := by
    simp only [State.die, List.getD_eq_getElem?_getD, List.getElem?_map]
    cases u.dies[k]? <;> rfl
  rw [hread, hread, h]

/-! ### A new gang (05 R85, R87) -/

section
variable (s : State) (y : Grid) (x : CoreSet) (rs : List (List Nat))

/-- The gang that a placement makes. -/
def State.newGang : Gang :=
  let l := y.lrec
  { gid := word ((y.fld : Int) * 3 ^ 24 + s.nextSerial y.fld), grid := y.id, index := y.placed, fld := y.fld, lrec := l
    consts := y.consts, partner := x.partner, status := s.placedAs x.cores, saveLine := 0, dieMask := 0, saveOrder := 0
    saveTo := none, events := [], portHalt := false, deadline := 0, mgmt := false
    blocks := x.cores.zipIdx.map (fun q => newBlock l q.2 q.1 (s.entryPoint y.fld l) ((rs.getD q.2 []).map (27 * ·))) }

/-- The gang's serial number and pool ranges are taken, and its grid counts it. -/
def State.booked : State :=
  (s.modField y.fld (fun f => { f with
      serial := s.nextSerial y.fld + 1
      pool := f.pool ++ poolAllocs (word ((y.fld : Int) * 3 ^ 24 + s.nextSerial y.fld)) rs })).modGrid y.id
    (fun z => { z with placed := z.placed + 1 })

/-- The state in which a new gang's ranges are clear. -/
def State.roomFor : State := (s.booked y rs).clearRanges rs

theorem State.placeGang_def : s.placeGang y x rs =
    (({ s.roomFor y rs with gangs := (s.roomFor y rs).gangs ++ [s.newGang y x rs] }.shrinkL1 x.cores).wakeSet x.cores).report 1
      (s.newGang y x rs).gid := rfl

theorem State.roomFor_fallow (k : Nat) : ((s.roomFor y rs).die k).fallow = (s.die k).fallow :=
  State.fallow_of_dies (State.clearRanges_dies (s.booked y rs) rs) k

theorem State.roomFor_length : (s.roomFor y rs).dies.length = s.dies.length :=
  show ((s.booked y rs).clearRanges rs).dies.length = (s.booked y rs).dies.length by
    simpa using congrArg List.length (State.clearRanges_dies (s.booked y rs) rs)

/-- A placement adds the gang and its report; the dies it needs wake. -/
theorem State.placeGang_eq (c : Cand) : ∃ ks ds fs, (s.placeGang y x rs).afterPlace c =
      { s.roomFor y rs with
        gangs := (s.roomFor y rs).gangs ++ [s.newGang y x rs], cores := ks, dies := ds, fields := fs
        reports := (s.roomFor y rs).reports ++ [(1, (s.newGang y x rs).gid)] } ∧
    ∀ k ∈ x.cores, k / 80 < s.dies.length → (s.die (k / 80)).fallow ≠ 0 → (ds.getD (k / 80) DieSt.reset).waking = true := by
  rw [State.placeGang_def]
  obtain ⟨ks, hks⟩ := State.shrinkL1_eq { s.roomFor y rs with gangs := (s.roomFor y rs).gangs ++ [s.newGang y x rs] } x.cores
  rw [hks]
  obtain ⟨ds, hds⟩ := State.wakeSet_eq
    { s.roomFor y rs with gangs := (s.roomFor y rs).gangs ++ [s.newGang y x rs], cores := ks } x.cores
  refine ⟨ks, ds, _, by rw [hds]; rfl, fun k hk hl hf => ?_⟩
  have hwakes := State.wakeSet_wakes
    (s := { s.roomFor y rs with gangs := (s.roomFor y rs).gangs ++ [s.newGang y x rs], cores := ks }) hk
    (lt_of_lt_of_eq hl (s.roomFor_length y rs).symm) (fun e => hf ((s.roomFor_fallow y rs _).symm.trans e))
  rwa [hds] at hwakes

theorem State.roomFor_view : (s.roomFor y rs).sowerView = (s.booked y rs).sowerView := State.clearRanges_sowerView _ rs

theorem State.roomFor_grids : (s.roomFor y rs).grids =
    modFirst (fun z => z.id == y.id) (fun (z : Grid) => { z with placed := z.placed + 1 }) s.grids :=
  show (s.roomFor y rs).sowerView.2.1 = (s.booked y rs).sowerView.2.1 by rw [State.roomFor_view]

theorem State.roomFor_gids : (s.roomFor y rs).gangs.map (·.gid) = s.gangs.map (·.gid) :=
  show (s.roomFor y rs).sowerView.2.2 = (s.booked y rs).sowerView.2.2 by rw [State.roomFor_view]

/-- The blocks of a new gang stand on the set, block 0 first. -/
theorem State.newGang_cores : (s.newGang y x rs).blocks.map (·.core) = x.cores := by
  simp only [State.newGang, List.map_map]
  exact List.zipIdx_map_fst 0 x.cores

end

/-- Nothing is left of an earlier block or row (05 R85). -/
theorem newBlock_fresh (l : LaunchRec) (n core : Nat) (e : CodeAddr) (priv : List Nat) :
    let b := newBlock l n core e priv
    b.scratch = [] ∧ b.rows.length = l.rows ∧ (∀ n < 9, b.bars[n]? = some ⟨l.rows * l.blks, 0, 0⟩) ∧
      ∀ r ∈ b.rows, r.pct.map (fun e => (e.addr, e.threads)) = [(e, List.range l.width)] ∧ (∀ w ∈ r.sregs ++ r.vregs, w = 0) ∧
        r.ended = false := by
  refine ⟨rfl, by simp [newBlock], fun k hk => List.getElem?_replicate_of_lt hk, fun r hr => ?_⟩
  obtain ⟨k, -, rfl⟩ := List.mem_map.mp hr
  refine ⟨rfl, fun w hw => ?_, rfl⟩
  rcases List.mem_append.mp hw with hw | hw <;> exact List.eq_of_mem_replicate hw

/-- What the placement of a record's next gang does. -/
theorem State.placeGang_results (s : State) (y : Grid) (x : CoreSet) (rs : List (List Nat)) (c : Cand)
    (hm : Memory.wf s.mem = true) :
    let t := (s.placeGang y x rs).afterPlace c
    let g := s.newGang y x rs
    t.gangs.map (·.gid) = s.gangs.map (·.gid) ++ [g.gid] ∧ g ∈ t.gangs ∧
      (rangeLocs rs = [] → t.gangs = s.gangs ++ [g] ∧ t.mem = s.mem) ∧
      (∀ l ∈ rangeLocs rs, ∀ n < 27, t.tryteAt (locAt l n) = 0) ∧ t.reports = s.reports ++ [(1, g.gid)] ∧
      (∀ k ∈ x.cores, k / 80 < s.dies.length → (s.die (k / 80)).fallow ≠ 0 → (t.die (k / 80)).waking = true) ∧
      ∀ z, s.grids.find? (fun z => z.id == y.id) = some z →
        ∃ z', t.grids.find? (fun z => z.id == y.id) = some z' ∧ z'.placed = z.placed + 1 := by
  obtain ⟨ks, ds, fs, heq, hwakes⟩ := s.placeGang_eq y x rs c
  intro t g
  have ht : t = _ := heq
  clear_value t
  subst ht
  refine ⟨?_, List.mem_append_right _ List.mem_cons_self, fun hr => ?_, fun l hl n hn => ?_, ?_, hwakes, fun z hz => ?_⟩
  · simp only [List.map_append, State.roomFor_gids, List.map_cons, List.map_nil]
    rfl
  · have hroom : s.roomFor y rs = (s.booked y rs).purge [] := State.clearRanges_nil _ hr
    dsimp only
    rw [hroom]
    exact ⟨rfl, rfl⟩
  · rw [rangeLocs_eq] at hl
    obtain ⟨m, hmem, rfl⟩ := List.mem_map.mp hl
    exact State.clearRanges_zero (s := s.booked y rs) hm (rangeLocs_eq rs ▸ List.mem_map_of_mem hmem) hn
  · dsimp only
    rw [show (s.roomFor y rs).reports = s.reports from State.clearRanges_reports (s := s.booked y rs) rs]
  · exact ⟨_, (congrArg (List.find? _) (s.roomFor_grids y rs)).trans (find_modFirst hz (fun _ => rfl)), rfl⟩

/-! ### A restored gang (23 R412, R413) -/

/-- What a restore keeps of a row: its registers and its PCs. -/
def Row.kept (r : Row) : List Word × List Word × List PcEntry := (r.sregs, r.vregs, r.pct)
/-- Where a block stands, and its rows. -/
def Block.standing (b : Block) : Nat × List (List Word × List Word × List PcEntry) := (b.core, b.rows.map Row.kept)
/-- A gang's state, and where its blocks stand. -/
def Gang.standing (g : Gang) : Word × GangState × List (Nat × List (List Word × List Word × List PcEntry)) :=
  (g.gid, g.status, g.blocks.map Block.standing)
/-- Where every gang stands, and what the management core was told. -/
def State.standing (s : State) :
    List (Word × GangState × List (Nat × List (List Word × List Word × List PcEntry))) × List (Int × Word) :=
  (s.gangs.map Gang.standing, s.reports)

section
variable (s : State)

theorem State.shrinkL1_standing (cores : List Nat) : (s.shrinkL1 cores).standing = s.standing := by
  obtain ⟨ks, hks⟩ := s.shrinkL1_eq cores
  rw [hks]
  rfl

theorem State.wakeSet_standing (cores : List Nat) : (s.wakeSet cores).standing = s.standing := by
  obtain ⟨ds, hds⟩ := s.wakeSet_eq cores
  rw [hds]
  rfl

theorem State.doAcquire_standing (core : Nat) (scope : Int) : (s.doAcquire core scope).standing = s.standing := by
  unfold State.doAcquire
  dsimp only
  split <;> split <;> split <;> rfl

theorem State.modBlock_standing {f : Block → Block} (h : ∀ b, (f b).standing = b.standing) (r : RowRef) :
    (s.modBlock r f).standing = s.standing := by
  refine congrArg (fun l => (l, s.reports)) (map_modFirst (fun g => ?_) s.gangs)
  exact congrArg (fun l => (g.gid, g.status, l)) (map_modFirst h g.blocks)

theorem State.modRow_standing {f : Row → Row} (h : ∀ r, (f r).kept = r.kept) (r : RowRef) : (s.modRow r f).standing = s.standing :=
  s.modBlock_standing (fun b => by simp only [Block.standing, Block.modRow, map_modFirst h]) r

theorem State.remakeEntry_standing (core : Nat) (who : RowRef) (t : Tenure) : (s.remakeEntry core who t).standing = s.standing := by
  refine s.modBlock_standing (fun b => ?_) who
  split
  · rfl
  · unfold Block.setTenure
    dsimp only
    split <;> rfl

theorem State.loseEvent_standing (e : EscEvent) : (s.loseEvent e).standing = s.standing := by
  refine s.modRow_standing (fun r => ?_) e.who
  rfl

theorem State.enterEvent_standing (e : EscEvent) : (s.enterEvent e).standing = s.standing :=
  foldl_keeps (f := fun (t : State) x => t.loseEvent x) (p := State.standing) (fun t x => t.loseEvent_standing x) _ _

end

section
variable (s : State) (g : Gang) (x : CoreSet)

/-- A saved gang on a set of cores. -/
def Gang.standingOn (g : Gang) (st : GangState) (cores : List Nat) :
    Word × GangState × List (Nat × List (List Word × List Word × List PcEntry)) :=
  (g.gid, st, g.blocks.zipIdx.map (fun q => (cores.getD q.2 0, q.1.rows.map Row.kept)))

/-- The management core's area for the gang, if it has one, is free again. -/
def State.areaFreed : State := if g.mgmt then s.freeArea g else s

theorem State.areaFreed_eq : ∃ fs, s.areaFreed g = { s with fields := fs } := by
  unfold State.areaFreed
  split
  · exact ⟨_, rfl⟩
  · exact ⟨s.fields, rfl⟩

/-- The posting orders of a gang's matrix passes. -/
def Gang.orders (g : Gang) : List (Nat × Nat) := g.blocks.flatMap (fun b => b.rows.flatMap (fun r => r.passes.map (·.order)))

/-- A native saved gang as it stands on a set. -/
def State.savedOn : Gang :=
  { g with
    status := s.placedAs x.cores, partner := x.partner, portHalt := false, events := [], mgmt := false
    blocks := g.blocks.zipIdx.map (fun q =>
      { q.1 with
        core := x.cores.getD q.2 0, tenures := []
        rows := q.1.rows.map (s.restoreRow g.fld (s.cycOf (x.cores.getD q.2 0)) g.orders) }) }

/-- A row of the block has asked for an acquire wider than its package. -/
def Block.wide (b : Block) : Bool := b.rows.any (fun r => r.levels.any (fun v => v.key.getD 1 0 == 4))

/-- What follows once the gang stands: the acquires of its rows, its tenures, its escalation events, and the dies it needs. -/
def State.resettled (bs : List Block) : State :=
  let s := bs.foldl (fun s b => s.doAcquire b.core (if b.wide then 5 else 4)) s
  let s := g.blocks.zipIdx.foldl (fun s q =>
    q.1.tenures.foldl (fun s t => s.remakeEntry (x.cores.getD q.2 0) ⟨g.gid, q.1.blk, 0⟩ t) s) s
  (g.events.foldl (fun s e => s.enterEvent e) s).wakeSet x.cores

/-- The saved gang gives way to the gang that stands. -/
def State.unsaved : State :=
  let s := s.areaFreed g
  { s with gangs := s.gangs.filter (fun d => d.gid != g.gid) ++ [s.savedOn g x] }

theorem State.restoreGang_def (hg : g.portHalt = false) : s.restoreGang g x [] =
    (((s.unsaved g x).shrinkL1 x.cores).resettled g x ((s.areaFreed g).savedOn g x).blocks).report 2 g.gid := by
  simp only [State.restoreGang, hg, Bool.false_eq_true, if_false]
  rfl

theorem State.resettled_standing (bs : List Block) : (s.resettled g x bs).standing = s.standing := by
  have hacquire (u : State) : (bs.foldl (fun s b => s.doAcquire b.core (if b.wide then 5 else 4)) u).standing = u.standing :=
    foldl_keeps (p := State.standing) (fun t b => t.doAcquire_standing b.core _) bs u
  have htenures (q : Block × Nat) (u : State) : (q.1.tenures.foldl
      (fun s t => s.remakeEntry (x.cores.getD q.2 0) ⟨g.gid, q.1.blk, 0⟩ t) u).standing = u.standing :=
    foldl_keeps (p := State.standing) (fun t e => t.remakeEntry_standing _ _ e) q.1.tenures u
  have hblocks (u : State) : (g.blocks.zipIdx.foldl (fun s q =>
      q.1.tenures.foldl (fun s t => s.remakeEntry (x.cores.getD q.2 0) ⟨g.gid, q.1.blk, 0⟩ t) s) u).standing = u.standing :=
    foldl_keeps (p := State.standing) (fun t q => htenures q t) g.blocks.zipIdx u
  have hevents (u : State) : (g.events.foldl (fun s e => s.enterEvent e) u).standing = u.standing :=
    foldl_keeps (p := State.standing) (fun t e => t.enterEvent_standing e) g.events u
  rw [State.resettled, State.wakeSet_standing, hevents, hblocks, hacquire]

theorem State.savedOn_standing : (s.savedOn g x).standing = g.standingOn (s.placedAs x.cores) x.cores := by
  simp only [Gang.standing, Gang.standingOn, State.savedOn, List.map_map]
  refine congrArg (fun l => (g.gid, s.placedAs x.cores, l)) (List.map_congr_left (fun q _ => ?_))
  simp only [Function.comp, Block.standing, List.map_map]
  rfl

theorem State.unsaved_standing : (s.unsaved g x).standing =
    ((s.gangs.filter (fun d => d.gid != g.gid)).map Gang.standing ++ [g.standingOn (s.placedAs x.cores) x.cores], s.reports) := by
  obtain ⟨fs, hfs⟩ := s.areaFreed_eq g
  have hlast := State.savedOn_standing ({ s with fields := fs } : State) g x
  unfold State.unsaved
  rw [hfs]
  simp only [State.standing, List.map_append, List.map_cons, List.map_nil, hlast]
  rfl

variable {g}

/-- A native gang is put back on its set; the other gangs stand where they stood. -/
theorem State.restoreGang_standing (hg : g.portHalt = false) : (s.restoreGang g x []).standing =
    ((s.gangs.filter (fun d => d.gid != g.gid)).map Gang.standing ++ [g.standingOn (s.placedAs x.cores) x.cores],
      s.reports ++ [(2, g.gid)]) := by
  have hstands : (((s.unsaved g x).shrinkL1 x.cores).resettled g x ((s.areaFreed g).savedOn g x).blocks).standing = _ :=
    (State.resettled_standing _ g x _).trans ((State.shrinkL1_standing _ _).trans (s.unsaved_standing g x))
  rw [s.restoreGang_def g x hg]
  exact congrArg (fun v => (v.1, v.2 ++ [(2, g.gid)])) hstands

end

/-- The gang of a view that stands behind no other of its name. -/
theorem State.gang?_of_standing {t : State} {gid : Word} {l : List Gang}
    {v : Word × GangState × List (Nat × List (List Word × List Word × List PcEntry))} (hv : v.1 = gid)
    (ht : t.gangs.map Gang.standing = (l.filter (fun d => d.gid != gid)).map Gang.standing ++ [v]) :
    ∃ d, t.gang? gid = some d ∧ d.standing = v := by
  have hfind : (t.gangs.map Gang.standing).find? (fun w => w.1 == gid) = some v := by
    have hnone : ((l.filter (fun d => d.gid != gid)).map Gang.standing).find? (fun w => w.1 == gid) = none := by
      simp [List.find?_eq_none, Gang.standing]
    rw [ht, List.find?_append, hnone]
    simp [hv]
  rw [List.find?_map] at hfind
  exact Option.map_eq_some_iff.mp hfind

/-- Where the blocks of a restored gang stand, and what their rows are. -/
theorem Gang.block_of_standing {d g : Gang} {st : GangState} {cores : List Nat} (h : d.standing = g.standingOn st cores) {n : Nat}
    {b b0 : Block} (hb : d.blocks[n]? = some b) (hb0 : g.blocks[n]? = some b0) :
    b.core = cores.getD n 0 ∧ b.rows.map Row.kept = b0.rows.map Row.kept := by
  have hn := congrArg (fun v => v.2.2[n]?) h
  simp only [Gang.standing, Gang.standingOn, List.getElem?_map, List.getElem?_zipIdx, hb, hb0, Option.map_some, Option.some.injEq,
    Block.standing, Prod.mk.injEq, zero_add] at hn
  exact hn

/-- A restored gang is ready once its dies are, and stands on the set as it was saved. -/
theorem State.restoreGang_results (s : State) {g : Gang} (x : CoreSet) (c : Cand) (hg : g.portHalt = false) :
    let t := (s.restoreGang g x []).afterPlace c
    ∃ d, t.gang? g.gid = some d ∧ d.status = s.placedAs x.cores ∧ t.reports = s.reports ++ [(2, g.gid)] ∧
      ∀ n b b0, d.blocks[n]? = some b → g.blocks[n]? = some b0 → b.core = x.cores.getD n 0 ∧
        b.rows.map (fun r => (r.sregs, r.vregs, r.pct)) = b0.rows.map (fun r => (r.sregs, r.vregs, r.pct)) := by
  intro t
  have ht : t.standing = _ := s.restoreGang_standing x hg
  obtain ⟨d, hd, hstand⟩ := State.gang?_of_standing (t := t) (l := s.gangs) (v := g.standingOn (s.placedAs x.cores) x.cores) rfl
    (congrArg Prod.fst ht)
  exact ⟨d, hd, congrArg (fun v => v.2.1) hstand, congrArg Prod.snd ht, fun n b b0 hb hb0 => Gang.block_of_standing hstand hb hb0⟩

/-! ### Fallow states (04 R74, R75) -/

/-- The lesser of a tolerance, if there is one yet, and the next. -/
def leastOf (a : Option Int) (x : Int) : Option Int :=
  match a with
  | none => some x
  | some y => some (Min.min x y)

theorem foldl_leastOf (l : List Int) (a : Int) : ∃ m, l.foldl leastOf (some a) = some m ∧ m ∈ a :: l ∧ ∀ x ∈ a :: l, m ≤ x := by
  induction l generalizing a with
  | nil => exact ⟨a, rfl, List.mem_cons_self, fun x hx => (List.mem_singleton.mp hx).ge⟩
  | cons y r ih =>
    obtain ⟨m, hm, hmem, hle⟩ := ih (min y a)
    have hmin : m ≤ min y a := hle _ List.mem_cons_self
    refine ⟨m, hm, ?_, fun x hx => ?_⟩
    · rcases List.mem_cons.mp hmem with h | h
      · rcases min_choice y a with hc | hc <;> simp [h, hc]
      · exact List.mem_cons_of_mem _ (List.mem_cons_of_mem _ h)
    · rcases List.mem_cons.mp hx with rfl | hx
      · exact hmin.trans (min_le_right y x)
      · rcases List.mem_cons.mp hx with rfl | hx
        · exact hmin.trans (min_le_left x a)
        · exact hle x (List.mem_cons_of_mem _ hx)

section
variable {s : State} {die : Nat}

theorem State.tolerance_eq (s : State) (die : Nat) :
    s.tolerance die = ((s.dieOwners die).map (fun f => wval (s.fieldSt f).fltol)).foldl leastOf none := rfl

/-- A die that has an owner tolerates what its least tolerant owner does. -/
theorem State.tolerance_least (h : s.dieOwners die ≠ []) : ∃ m, s.tolerance die = some m ∧
    (∃ f ∈ s.dieOwners die, wval (s.fieldSt f).fltol = m) ∧ ∀ f ∈ s.dieOwners die, m ≤ wval (s.fieldSt f).fltol := by
  rw [State.tolerance_eq]
  obtain ⟨f, r, hr⟩ := List.exists_cons_of_ne_nil h
  rw [hr]
  obtain ⟨m, hm, hmem, hle⟩ := foldl_leastOf (r.map (fun f => wval (s.fieldSt f).fltol)) (wval (s.fieldSt f).fltol)
  rw [← List.map_cons (f := fun f => wval (s.fieldSt f).fltol)] at hmem hle
  exact ⟨m, hm, List.mem_map.mp hmem, fun k hk => hle _ (List.mem_map_of_mem hk)⟩

/-- The exit latency of a fallow state in µs (Table 4.10). -/
def exitLatency (n : Nat) : Int := if n = 1 then 2 else if n = 2 then 40 else 1500

theorem deepest_eq {m : Int} {n : Nat} (hn : n ≤ 3) (hle : n = 0 ∨ exitLatency n ≤ m) (hlt : n < 3 → m < exitLatency (n + 1)) :
    deepest m = n := by
  unfold deepest
  unfold exitLatency at hle hlt
  interval_cases n <;> norm_num at hle hlt
  · rw [if_neg (by omega), if_neg (by omega), if_neg (by omega)]
  · rw [if_neg (by omega), if_neg (by omega), if_pos hle]
  · rw [if_neg (by omega), if_pos hle]
  · rw [if_pos hle]

/-- The fallow state that a die's owners let it enter. -/
def State.entryDepth (s : State) (die : Nat) : Nat := ((s.tolerance die).map deepest).getD 0

theorem State.entryDepth_eq {n : Nat} (ho : s.dieOwners die ≠ []) (hn : n ≤ 3)
    (hle : n = 0 ∨ ∀ f ∈ s.dieOwners die, exitLatency n ≤ wval (s.fieldSt f).fltol)
    (hlt : n < 3 → ∃ f ∈ s.dieOwners die, wval (s.fieldSt f).fltol < exitLatency (n + 1)) : s.entryDepth die = n := by
  obtain ⟨m, hm, ⟨g, hg, hgm⟩, hleast⟩ := State.tolerance_least ho
  rw [State.entryDepth, hm]
  refine deepest_eq hn (hle.imp_right (fun h => hgm ▸ h g hg)) (fun h => ?_)
  obtain ⟨f, hf, hfl⟩ := hlt h
  exact (hleast f hf).trans_lt hfl

theorem execFallowEntry_kept (h : (s.die die).fallow ≠ 0 ∨ (s.die die).waking = true ∨ (s.die die).service = 0 ∨
    s.dieBusy die = true ∨ s.now < (s.die die).idleSince + 81000) : execFallowEntry die s = .next s := by
  refine if_pos (.inr ?_)
  rcases h with h | h | h | h | h <;> simp [h]

theorem execFallowEntry_shallow (h : s.entryDepth die = 0) : execFallowEntry die s = .next s :=
  if_pos (.inr (.inr (.inr (.inr (.inr (.inr h))))))

theorem execFallowEntry_enters (hd : die < 12) (hf : (s.die die).fallow = 0) (hw : (s.die die).waking = false)
    (hs : (s.die die).service ≠ 0) (hb : s.dieBusy die = false) (hi : (s.die die).idleSince + 81000 ≤ s.now)
    (hn : s.entryDepth die ≠ 0) :
    execFallowEntry die s = .next (s.modDie die (fun x => { x with fallow := s.entryDepth die })) := by
  refine if_neg ?_
  rintro (h | h | h | h | h | h | h)
  · omega
  · exact h hf
  · rw [hw] at h; cases h
  · exact hs h
  · rw [hb] at h; cases h
  · omega
  · exact hn h

/-! ### A die that is woken (04 R75, 05 R88) -/

/-- The die is active again. -/
def State.dieUp (s : State) (die : Nat) : State :=
  s.modDie die (fun x => { x with fallow := 0, waking := false, idleSince := s.now })

/-- A gang that waits for no die more is ready. -/
def State.risen (s : State) (g : Gang) : Gang :=
  if g.status = GangState.waking ∧ (s.fallowOf (g.blocks.map (fun (b : Block) => b.core))).isEmpty
  then { g with status := GangState.resident, deadline := if g.saveTo.isSome then s.gangCyc g + 3 ^ 21 else g.deadline } else g

/-- The state in which the die and its gangs are active. -/
def State.woken (s : State) (die : Nat) : State :=
  { s.dieUp die with gangs := s.gangs.map (s.dieUp die).risen }

theorem execFallowExit_asleep (h : (s.die die).waking = false) : execFallowExit die s = .next s := by
  unfold execFallowExit
  rw [h]
  rfl

theorem execFallowExit_wakes (h : (s.die die).waking = true) : execFallowExit die s =
    .next { (s.woken die).serveHeld with
      sleepers := [], agenda := s.sleepers.map (s.woken die).resumed ++ (s.woken die).serveHeld.agenda } := by
  unfold execFallowExit
  rw [if_pos h]
  rfl

/-- No host access waits: only the acknowledgements of conflicts are sent. -/
theorem State.serveHeld_idle (h : s.hostQueue = []) : s.serveHeld = s.ackConflicts := by
  unfold State.serveHeld
  rw [h]
  have hself : ({ s with hostQueue := [] } : State) = s := by rw [← h]
  exact congrArg State.ackConflicts hself

theorem State.ackConflicts_none (h : s.host.conflicts = []) : s.ackConflicts = s := by
  unfold State.ackConflicts
  rw [h]
  simp only [List.filter_nil, List.append_nil]
  rw [← h]

theorem State.woken_quiet (h : ∀ g ∈ s.gangs, g.status ≠ .waking) : s.woken die = s.dieUp die := by
  have hg : s.gangs.map (s.dieUp die).risen = s.gangs :=
    (List.map_congr_left (g := id) (fun g hg => if_neg (fun hc => h g hg hc.1))).trans (List.map_id _)
  unfold State.woken
  rw [hg]
  rfl

theorem State.risen_ready {g : Gang} (hd : die < s.dies.length) (hs : g.status = .waking) (hn : g.saveTo = none)
    (hb : ∀ b ∈ g.blocks, b.core / 80 = die ∨ (s.die (b.core / 80)).fallow = 0) :
    (s.dieUp die).risen g = { g with status := .resident } := by
  have hempty : (s.dieUp die).fallowOf (g.blocks.map (fun (b : Block) => b.core)) = [] := by
    refine List.filter_eq_nil_iff.mpr (fun d hm => ?_)
    obtain ⟨k, hk, rfl⟩ := List.mem_map.mp hm
    obtain ⟨b, hbm, rfl⟩ := List.mem_map.mp hk
    have hzero : ((s.dieUp die).die (b.core / 80)).fallow = 0 := by
      unfold State.dieUp
      by_cases he : b.core / 80 = die
      · rw [he, State.die_modDie_same hd]
      · rw [State.die_modDie_other he, (hb b hbm).resolve_left he]
    simp [hzero]
  rw [State.risen, if_pos ⟨hs, by rw [hempty]; rfl⟩, hn]
  rfl

end

/-- FALLOW_ENTRY of a die (04 R75). -/
theorem fallowEntry_results (s : State) {die : Nat} (hd : die < 12) (hl : die < s.dies.length) :
    let d := s.die die
    (d.fallow ≠ 0 ∨ d.waking = true ∨ d.service = 0 ∨ s.dieBusy die = true ∨ s.now < d.idleSince + 81000 →
      exec (.fallowEntry die) s = .next s) ∧
    (s.dieOwners die = [] → exec (.fallowEntry die) s = .next s) ∧
    (d.fallow = 0 → d.waking = false → d.service ≠ 0 → s.dieBusy die = false → d.idleSince + 81000 ≤ s.now → s.dieOwners die ≠ [] →
      ∀ n ≤ 3, (n = 0 ∨ ∀ f ∈ s.dieOwners die, exitLatency n ≤ wval (s.fieldSt f).fltol) →
        (n < 3 → ∃ f ∈ s.dieOwners die, wval (s.fieldSt f).fltol < exitLatency (n + 1)) →
        (n = 0 → exec (.fallowEntry die) s = .next s) ∧
        (n ≠ 0 → ∃ t : State, exec (.fallowEntry die) s = .next t ∧ t.die die = { d with fallow := n } ∧
          (∀ k, k ≠ die → t.die k = s.die k) ∧ { t with dies := s.dies } = s)) := by
  intro d
  refine ⟨execFallowEntry_kept, fun ho => execFallowEntry_shallow ?_, fun hf hw hs hb hi ho n hn hle hlt => ?_⟩
  · rw [State.entryDepth, State.tolerance_eq, ho]
    rfl
  · have hdepth := State.entryDepth_eq ho hn hle hlt
    refine ⟨fun h0 => execFallowEntry_shallow (hdepth.trans h0), fun h0 => ?_⟩
    refine ⟨_, execFallowEntry_enters hd hf hw hs hb hi (by rwa [hdepth]), ?_, fun k hk => State.die_modDie_other hk s _, rfl⟩
    rw [State.die_modDie_same hl, hdepth]

/-- FALLOW_EXIT of a die that wakes (04 R75, 05 R88). -/
theorem fallowExit_results {s : State} {die : Nat} (hl : die < s.dies.length) (hw : (s.die die).waking = true)
    (hq : s.hostQueue = []) :
    ((∀ g ∈ s.gangs, g.status ≠ .waking) → s.host.conflicts = [] →
      ∃ t : State, exec (.fallowExit die) s = .next t ∧
        t.die die = { s.die die with fallow := 0, waking := false, idleSince := s.now } ∧
        (∀ k, k ≠ die → t.die k = s.die k) ∧ { t with dies := s.dies, sleepers := s.sleepers, agenda := s.agenda } = s ∧
        t.sleepers = [] ∧ t.agenda = s.sleepers.map s.resumed ++ s.agenda) ∧
    ∃ t : State, exec (.fallowExit die) s = .next t ∧ (t.die die).fallow = 0 ∧
      ∀ g ∈ s.gangs, g.status = .waking → g.saveTo = none → (∀ b ∈ g.blocks, b.core / 80 = die ∨ (s.die (b.core / 80)).fallow = 0) →
        { g with status := .resident } ∈ t.gangs := by
  have hsame : (s.dieUp die).die die = { s.die die with fallow := 0, waking := false, idleSince := s.now } :=
    State.die_modDie_same hl _
  have hexec := execFallowExit_wakes hw
  have hserve : (s.woken die).serveHeld = (s.woken die).ackConflicts := State.serveHeld_idle hq
  refine ⟨fun hg hc => ?_, _, hexec, ?_, fun g hg hs hn hb => ?_⟩
  · rw [hserve, State.woken_quiet hg, State.ackConflicts_none (s := s.dieUp die) hc] at hexec
    exact ⟨_, hexec, hsame, fun k hk => State.die_modDie_other hk s _, rfl, rfl, rfl⟩
  · rw [hserve]
    exact congrArg DieSt.fallow hsame
  · rw [hserve, ← State.risen_ready hl hs hn hb]
    exact List.mem_map_of_mem hg

/-! ### SOWER_SCHEDULE (04 R71) -/

/-- The state in which a gang that is placed on a set starts. -/
def State.startsAs (s : State) (cores : List Nat) : GangState :=
  if ∀ k ∈ cores, (s.die (k / 80)).fallow = 0 then .resident else .waking

section
variable {s : State} {f : Nat} {rest : List Cand} {x : CoreSet} {xs : List CoreSet}

/-- The next gang of a record's grid is placed. -/
theorem sowerSchedule_launch {y : Grid} {rs : List (List Nat)} (hc : s.candidates f = .launch y :: rest)
    (hs : (s.keepTarget f (s.candidates f)).openSets (.launch y) = x :: xs) (hw : s.clearWay y.lrec x.cores = none)
    (hr : s.gangRanges y.fld y.lrec = some rs) (hn : s.snoopFirst true (rangeLocs rs) = none) (hp : y.placed ≠ 0)
    (hm : Memory.wf s.mem = true) :
    ∃ (t : State) (g : Gang), exec (.sowerSchedule f) s = .next t ∧ t.gangs.map (·.gid) = s.gangs.map (·.gid) ++ [g.gid] ∧
      g ∈ t.gangs ∧ (rangeLocs rs = [] → t.gangs = s.gangs ++ [g] ∧ t.mem = s.mem) ∧
      (∀ l ∈ rangeLocs rs, ∀ n < 27, t.tryteAt (locAt l n) = 0) ∧ g.fld = y.fld ∧
      g.grid = y.id ∧ g.index = y.placed ∧ g.lrec = y.lrec ∧ g.consts = y.consts ∧ g.status = s.startsAs x.cores ∧
      g.blocks.map (·.core) = x.cores ∧ t.reports = s.reports ++ [(1, g.gid)] ∧
      (∀ k ∈ x.cores, k / 80 < s.dies.length → (s.die (k / 80)).fallow ≠ 0 → (t.die (k / 80)).waking = true) ∧
      (∀ z, s.grids.find? (fun z => z.id == y.id) = some z →
        ∃ z', t.grids.find? (fun z => z.id == y.id) = some z' ∧ z'.placed = z.placed + 1) ∧
      ∀ b ∈ g.blocks, b.scratch = [] ∧ b.rows.length = y.lrec.rows ∧
        (∀ n < 9, b.bars[n]? = some ⟨y.lrec.rows * y.lrec.blks, 0, 0⟩) ∧
        ∀ r ∈ b.rows, r.pct.map (fun e => (e.addr, e.threads)) = [(s.entryPoint y.fld y.lrec, List.range y.lrec.width)] ∧
          (∀ w ∈ r.sregs ++ r.vregs, w = 0) ∧ r.ended = false := by
  obtain ⟨hd, hu⟩ := s.keepTarget_withHead f (s.candidates f)
  have htry : (s.keepTarget f (s.candidates f)).tryPlace (.launch y) = .placed ((s.withHead f hd).placeGang y x rs) := by
    rw [hu] at hs ⊢
    exact State.tryPlace_launch hs ((s.withHead_gangRanges f hd y.fld y.lrec).trans hr) (s.withHead_snoopFirst f hd hn)
      (s.withHead_clearWay f hd hw) hp
  have hexec := execSowerSchedule_placed hc htry
  obtain ⟨hgids, hmem, hnone, hzero, hreports, hwakes, hgrid⟩ :=
    State.placeGang_results (s.withHead f hd) y x rs (.launch y) hm
  refine ⟨_, _, hexec, hgids, hmem, hnone, hzero, rfl, rfl, rfl, rfl, rfl, s.placedAs_eq x.cores,
    State.newGang_cores _ y x rs, hreports, hwakes, hgrid, fun b hb => ?_⟩
  obtain ⟨q, -, rfl⟩ := List.mem_map.mp hb
  rw [← s.withHead_entryPoint f hd]
  exact newBlock_fresh _ _ _ _ _

/-- A native saved gang is put back. -/
theorem sowerSchedule_saved {g : Gang} (hc : s.candidates f = .saved g :: rest)
    (hs : (s.keepTarget f (s.candidates f)).openSets (.saved g) = x :: xs) (hw : s.clearWay g.lrec x.cores = none)
    (hg : g.portHalt = false) :
    ∃ (t : State) (d : Gang), exec (.sowerSchedule f) s = .next t ∧ t.gang? g.gid = some d ∧ d.status = s.startsAs x.cores ∧
      t.reports = s.reports ++ [(2, g.gid)] ∧
      ∀ n b b0, d.blocks[n]? = some b → g.blocks[n]? = some b0 → b.core = x.cores.getD n 0 ∧
        b.rows.map (fun r => (r.sregs, r.vregs, r.pct)) = b0.rows.map (fun r => (r.sregs, r.vregs, r.pct)) := by
  obtain ⟨hd, hu⟩ := s.keepTarget_withHead f (s.candidates f)
  have htry : (s.keepTarget f (s.candidates f)).tryPlace (.saved g) = .placed ((s.withHead f hd).restoreGang g x []) := by
    rw [hu] at hs ⊢
    exact State.tryPlace_saved hs hg (s.withHead_clearWay f hd hw)
  have hexec := execSowerSchedule_placed hc htry
  obtain ⟨d, hfound, hstatus, hreports, hblocks⟩ := (s.withHead f hd).restoreGang_results x (.saved g) hg
  exact ⟨_, d, hexec, hfound, hstatus.trans (s.placedAs_eq x.cores), hreports, hblocks⟩

end

/-- The sets of the statement are the open sets of the state with the kept target. -/
theorem State.keepTarget_openSets (s : State) (f : Nat) (cs : List Cand) (c : Cand) : (s.keepTarget f cs).openSets c =
    (s.coreSets c.dieOk (s.passes c.fld c.lrec) c.lrec).filter
      (fun x => x.cores.all (fun k => !(s.keepTarget f cs).barredTo c k)) := by
  obtain ⟨hd, hu⟩ := s.keepTarget_withHead f cs
  rw [hu, State.openSets, State.withHead_passes, State.withHead_coreSets]

/-- Settles O48: the choice, the placement and the restore by `execSowerSchedule_no`, `sowerSchedule_launch` and
`sowerSchedule_saved`, and the fallow states by `fallowEntry_results` and `fallowExit_results`. -/
theorem placementFallowResults : Obligations.PlacementFallowResults := by
  unfold Obligations.PlacementFallowResults
  refine ⟨fun s f => ⟨execSowerSchedule_none, fun c rest hc => ?_, fun h hh => ⟨execHeadReservationBar_kept hh,
    execHeadReservationBar_bars hh⟩⟩, fun s die hd hl => ?_⟩
  · intro u sets
    have hsets : sets = u.openSets c := (s.keepTarget_openSets f (s.candidates f) c).symm
    refine ⟨State.keepTarget_usable _, fun h k hh hi hr ht hk => State.barredTo_of_target hh hi hr ht hk,
      fun h0 hr => execSowerSchedule_no hc hr (State.tryPlace_no (hsets ▸ h0)), fun x xs hx hw => ⟨?_, ?_⟩⟩
    · exact State.coreSets_test (List.mem_of_mem_filter (show x ∈ sets from hx ▸ List.mem_cons_self))
    · rw [hsets] at hx
      refine ⟨fun y rs hy hr hn hp hm => ?_, fun g hg hport => ?_⟩
      · subst hy
        exact sowerSchedule_launch hc hx hw hr hn hp hm
      · subst hg
        exact sowerSchedule_saved hc hx hw hport
  · obtain ⟨hkept, hnone, henters⟩ := fallowEntry_results s hd hl
    refine ⟨hkept, hnone, henters, fun hw hg hq hc => (fallowExit_results hl hw hq).1 hg hc,
      fun hw hq => (fallowExit_results hl hw hq).2, execFallowExit_asleep⟩

end Sys2Proof.Machine
end

section
/-! ## Words and their fields (O56, O55)

A word as the pile of its fields, lowest first, and the fields cut from it; the seven formats; the opcode table as one
function, and what each of its entries gives back. -/
namespace Sys2Proof.Machine

/-! ### Fields laid side by side (00 R2) -/

theorem inT_iff {n : Nat} {x : Int} : inT n x = true ↔ |x| ≤ maxT n := by simp [inT, abs_le]

/-- The number whose fields, from the lowest trits up, are values of the given numbers of trits. -/
def pile : List (Nat × Int) → Int
  | [] => 0
  | (n, v) :: r => v + 3 ^ n * pile r

/-- The fields of a number from trit lo up, of the given numbers of trits. -/
def cut (x : Int) (lo : Nat) : List Nat → List (Nat × Int)
  | [] => []
  | n :: ns => (n, field x lo n) :: cut x (lo + n) ns

/-- Every value has at most its number of trits. -/
def Piled (l : List (Nat × Int)) : Prop := ∀ q ∈ l, |q.2| ≤ maxT q.1

theorem dropT_add_mul {n : Nat} {a : Int} (b : Int) (ha : |a| ≤ maxT n) : dropT (a + 3 ^ n * b) n = b := by
  unfold dropT
  rw [wrapT_add_mul, wrapT_of_abs_le ha, add_sub_cancel_left]
  exact Int.mul_ediv_cancel_left _ (by positivity)

theorem dropT_dropT (x : Int) (n m : Nat) : dropT (dropT x n) m = dropT x (n + m) := by
  have hx := wrapT_add_dropT x (n + m)
  generalize dropT x (n + m) = q at hx ⊢
  have hl : wrapT n x + 3 ^ n * (field x n m + 3 ^ m * q) = x := by
    rw [← wrapT_add_field, pow_add] at hx
    linear_combination hx
  have h1 : dropT x n = field x n m + 3 ^ m * q := by
    rw [← dropT_add_mul (field x n m + 3 ^ m * q) (abs_wrapT_le n x), hl]
  rw [h1, dropT_add_mul _ (abs_field_le x n m)]

theorem field_dropT (x : Int) (k lo n : Nat) : field (dropT x k) lo n = field x (k + lo) n := by
  rw [field_eq_wrapT_dropT, dropT_dropT, ← field_eq_wrapT_dropT]

/-- Two fields side by side are one. -/
theorem field_add_field (x : Int) (lo n m : Nat) : field x lo n + 3 ^ n * field x (lo + n) m = field x lo (n + m) := by
  rw [← field_dropT, field_eq_wrapT_dropT x lo, wrapT_add_field, ← field_eq_wrapT_dropT]

theorem cut_dropT (x : Int) (k lo : Nat) (ns : List Nat) : cut (dropT x k) lo ns = cut x (k + lo) ns := by
  induction ns generalizing lo with
  | nil => rfl
  | cons n ns ih => rw [cut, cut, field_dropT, ih, Nat.add_assoc]

/-- What is cut from a pile is what was laid there. -/
theorem cut_pile {l : List (Nat × Int)} (h : Piled l) : cut (pile l) 0 (l.map Prod.fst) = l := by
  induction l with
  | nil => rfl
  | cons q r ih =>
    obtain ⟨n, v⟩ := q
    obtain ⟨hv, hr⟩ : |v| ≤ maxT n ∧ Piled r := ⟨h (n, v) (by simp), fun p hp => h p (by simp [hp])⟩
    have hfirst : field (pile ((n, v) :: r)) 0 n = v := by
      rw [field_zero, pile, wrapT_add_mul, wrapT_of_abs_le hv]
    have hrest := cut_dropT (pile ((n, v) :: r)) n 0 (r.map Prod.fst)
    rw [pile, dropT_add_mul _ hv, ih hr, Nat.add_zero] at hrest
    rw [List.map_cons, cut, hfirst, Nat.zero_add, pile, ← hrest]

/-- What is cut from a number, piled up, is the whole field. -/
theorem pile_cut (x : Int) (lo : Nat) (ns : List Nat) : pile (cut x lo ns) = field x lo ns.sum := by
  induction ns generalizing lo with
  | nil => simp [cut, pile, field]
  | cons n ns ih => rw [cut, pile, ih, field_add_field, List.sum_cons]

theorem piled_cut (x : Int) (lo : Nat) (ns : List Nat) : Piled (cut x lo ns) := by
  induction ns generalizing lo with
  | nil => simp [cut, Piled]
  | cons n ns ih => exact List.forall_mem_cons.mpr ⟨abs_field_le x lo n, ih (lo + n)⟩

/-- What stands above a field does not count for it. -/
theorem field_add_above {lo n k : Nat} (h : lo + n ≤ k) (a b : Int) : field (a + 3 ^ k * b) lo n = field a lo n := by
  obtain ⟨d, rfl⟩ := Nat.exists_eq_add_of_le h
  have hdrop : dropT (a + 3 ^ (lo + n + d) * b) lo = dropT a lo + 3 ^ n * (3 ^ d * b) := by
    have hs : a + 3 ^ (lo + n + d) * b = wrapT lo a + 3 ^ lo * (dropT a lo + 3 ^ n * (3 ^ d * b)) := by
      nth_rw 1 [← wrapT_add_dropT a lo]
      ring
    rw [hs, dropT_add_mul _ (abs_wrapT_le lo a)]
  rw [field_eq_wrapT_dropT, hdrop, wrapT_add_mul, ← field_eq_wrapT_dropT]

theorem cut_add_above {lo k : Nat} {ns : List Nat} (h : lo + ns.sum ≤ k) (a b : Int) :
    cut (a + 3 ^ k * b) lo ns = cut a lo ns := by
  induction ns generalizing lo with
  | nil => rfl
  | cons n ns ih =>
    rw [List.sum_cons] at h
    rw [cut, cut, field_add_above (by omega), ih (by omega)]

theorem word_wval (w : Word) : word (wval w) = w := by
  have := w.isLt
  apply Fin.ext
  unfold wval word
  split <;> simp only [] <;> omega

theorem abs_pile_le {l : List (Nat × Int)} (h : Piled l) : |pile l| ≤ maxT (l.map Prod.fst).sum := by
  induction l with
  | nil => simp [pile, maxT]
  | cons q r ih => exact abs_add_mul_pow_le (h q (by simp)) (ih (fun p hp => h p (by simp [hp])))

/-! ### The formats (06 R93, Tables 6.1 to 6.6)

Each format's operands as a pile: the word of an instruction is the pile with its function and its class on top, and
the format reads it back. -/

def layA (f : FA) : List (Nat × Int) := [(2, f.ty), (4, f.pred), (5, f.b), (5, f.a), (5, f.dst)]
def layB (f : FB) : List (Nat × Int) := [(2, f.ty), (9, f.imm), (5, f.a), (5, f.dst)]
def layC (f : FC) : List (Nat × Int) := [(1, f.ty), (5, f.c), (5, f.b), (5, f.a), (5, f.dst)]
def layD (f : FD) : List (Nat × Int) := [(2, f.width), (4, f.pred), (5, f.off), (5, f.base), (5, f.data)]
def layE (f : FE) : List (Nat × Int) := [(16, f.off), (4, f.pred), (1, f.unif)]
def layF (f : FF) : List (Nat × Int) := [(4, f.ctl), (2, f.slot), (5, f.z), (5, f.y), (5, f.x)]
def layH (f : FH) : List (Nat × Int) := [(21, f.pay)]

/-- A format: the check, the value of the operand trits and the reading of a word's value that the model has for it, and
the layout that ties them together. -/
structure Format (F : Type) where
  wf : F → Bool
  enc : F → Int
  fmt : Int → F
  lay : F → List (Nat × Int)
  wf_iff : ∀ f, wf f = true ↔ Piled (lay f)
  enc_eq : ∀ f, enc f = pile (lay f)
  widths : List Nat
  lay_widths : ∀ f, (lay f).map Prod.fst = widths
  sum_widths : widths.sum = 21
  lay_fmt : ∀ x, lay (fmt x) = cut x 0 widths
  lay_inj : ∀ f g, lay f = lay g → f = g

theorem piled_cons {q : Nat × Int} {l : List (Nat × Int)} : Piled (q :: l) ↔ inT q.1 q.2 = true ∧ Piled l := by
  rw [inT_iff]
  exact List.forall_mem_cons

theorem piled_nil : Piled [] := by simp [Piled]

def formatA : Format FA where
  wf := FA.wf
  enc := FA.enc
  fmt := fmtA
  lay := layA
  wf_iff f := by simp only [layA, piled_cons, piled_nil, FA.wf, Bool.and_eq_true]; tauto
  enc_eq f := by simp only [layA, pile, FA.enc]; ring
  widths := [2, 4, 5, 5, 5]
  lay_widths _ := rfl
  sum_widths := rfl
  lay_fmt _ := rfl
  lay_inj f g h := by cases f; cases g; simp_all [layA]

def formatB : Format FB where
  wf := FB.wf
  enc := FB.enc
  fmt := fmtB
  lay := layB
  wf_iff f := by simp only [layB, piled_cons, piled_nil, FB.wf, Bool.and_eq_true]; tauto
  enc_eq f := by simp only [layB, pile, FB.enc]; ring
  widths := [2, 9, 5, 5]
  lay_widths _ := rfl
  sum_widths := rfl
  lay_fmt _ := rfl
  lay_inj f g h := by cases f; cases g; simp_all [layB]

def formatC : Format FC where
  wf := FC.wf
  enc := FC.enc
  fmt := fmtC
  lay := layC
  wf_iff f := by simp only [layC, piled_cons, piled_nil, FC.wf, Bool.and_eq_true]; tauto
  enc_eq f := by simp only [layC, pile, FC.enc]; ring
  widths := [1, 5, 5, 5, 5]
  lay_widths _ := rfl
  sum_widths := rfl
  lay_fmt _ := rfl
  lay_inj f g h := by cases f; cases g; simp_all [layC]

def formatD : Format FD where
  wf := FD.wf
  enc := FD.enc
  fmt := fmtD
  lay := layD
  wf_iff f := by simp only [layD, piled_cons, piled_nil, FD.wf, Bool.and_eq_true]; tauto
  enc_eq f := by simp only [layD, pile, FD.enc]; ring
  widths := [2, 4, 5, 5, 5]
  lay_widths _ := rfl
  sum_widths := rfl
  lay_fmt _ := rfl
  lay_inj f g h := by cases f; cases g; simp_all [layD]

def formatE : Format FE where
  wf := FE.wf
  enc := FE.enc
  fmt := fmtE
  lay := layE
  wf_iff f := by simp only [layE, piled_cons, piled_nil, FE.wf, Bool.and_eq_true]; tauto
  enc_eq f := by simp only [layE, pile, FE.enc]; ring
  widths := [16, 4, 1]
  lay_widths _ := rfl
  sum_widths := rfl
  lay_fmt _ := rfl
  lay_inj f g h := by cases f; cases g; simp_all [layE]

def formatF : Format FF where
  wf := FF.wf
  enc := FF.enc
  fmt := fmtF
  lay := layF
  wf_iff f := by simp only [layF, piled_cons, piled_nil, FF.wf, Bool.and_eq_true]; tauto
  enc_eq f := by simp only [layF, pile, FF.enc]; ring
  widths := [4, 2, 5, 5, 5]
  lay_widths _ := rfl
  sum_widths := rfl
  lay_fmt _ := rfl
  lay_inj f g h := by cases f; cases g; simp_all [layF]

def formatH : Format FH where
  wf := FH.wf
  enc := FH.enc
  fmt := fmtH
  lay := layH
  wf_iff f := by simp only [layH, piled_cons, piled_nil, FH.wf]; tauto
  enc_eq f := by simp only [layH, pile, FH.enc]; ring
  widths := [21]
  lay_widths _ := rfl
  sum_widths := rfl
  lay_fmt _ := rfl
  lay_inj f g h := by cases f; cases g; simp_all [layH]

section
variable {F : Type} (φ : Format F)

theorem Format.wf_fmt (x : Int) : φ.wf (φ.fmt x) = true := by
  rw [φ.wf_iff, φ.lay_fmt]
  exact piled_cut x 0 φ.widths

/-- The operand trits of a word are those of its operands. -/
theorem Format.enc_fmt (x : Int) : φ.enc (φ.fmt x) = field x 0 21 := by
  rw [φ.enc_eq, φ.lay_fmt, pile_cut, φ.sum_widths]

theorem Format.abs_enc_le {f : F} (h : φ.wf f = true) : |φ.enc f| ≤ maxT 21 := by
  rw [φ.enc_eq, ← φ.sum_widths, ← φ.lay_widths f]
  exact abs_pile_le ((φ.wf_iff f).mp h)

/-- The operands read back from trits below others are those that were laid there. -/
theorem Format.fmt_enc_add {f : F} (h : φ.wf f = true) (b : Int) : φ.fmt (φ.enc f + 3 ^ 21 * b) = f := by
  apply φ.lay_inj
  rw [φ.lay_fmt, cut_add_above (by simp [φ.sum_widths]), φ.enc_eq, ← φ.lay_widths f, cut_pile ((φ.wf_iff f).mp h)]

end

/-! ### The opcode table (06 R91, Table 6.9) -/

/-- What the opcode table holds for a class and a function, of a word whose value is x. -/
def opcodeEntry (cls fn x : Int) : Option (Except DecodeError Instr) :=
  if cls = 0 then decode_p0 fn x
  else if cls = 1 then decode_p1 fn x
  else if cls = 2 then decode_p2 fn x
  else if cls = 3 then decode_p3 fn x
  else if cls = 4 then decode_p4 fn x
  else if cls = 5 then decode_p5 fn x
  else if cls = 6 then decode_p6 fn x
  else if cls = 7 then decode_p7 fn x
  else if cls = 8 then decode_p8 fn x
  else if cls = -1 then decode_m1 fn x
  else if cls = -2 then decode_m2 fn x
  else if cls = -3 then decode_m3 fn x
  else if cls = -4 then decode_m4 fn x
  else if cls = -5 then decode_m5 fn x
  else if cls = -6 then decode_m6 fn x
  else if cls = -7 then decode_m7 fn x
  else if cls = -8 then decode_m8 fn x
  else if cls = -9 then decode_m9 fn x
  else if cls = -10 then decode_m10 fn x
  else if cls = -11 then decode_m11 fn x
  else none

theorem decode_eq (w : Word) : decode w =
    (opcodeEntry (field (wval w) 24 3) (field (wval w) 21 3) (wval w)).getD (.ok (.unassignedOpcode w)) := by
  unfold decode
  simp only []
  change (match opcodeEntry _ _ _ with | some y => y | none => _) = _
  cases opcodeEntry (field (wval w) 24 3) (field (wval w) 21 3) (wval w) <;> rfl

theorem encOp_eq (cls fn e : Int) : encOp cls fn e = pile [(21, e), (3, fn), (3, cls)] := by
  simp only [encOp, pile]
  ring

section
variable {cls fn e : Int} (hc : |cls| ≤ maxT 3) (hf : |fn| ≤ maxT 3) (he : |e| ≤ maxT 21)
include hc hf he

theorem piled_opcode : Piled [(21, e), (3, fn), (3, cls)] := by
  simp only [piled_cons, inT_iff]
  exact ⟨he, hf, hc, piled_nil⟩

/-- The word of an opcode and its operand trits decodes to what the opcode table holds for it. -/
theorem decode_encOp {y : Except DecodeError Instr} (h : opcodeEntry cls fn (encOp cls fn e) = some y) :
    decode (word (encOp cls fn e)) = y := by
  have hp := piled_opcode hc hf he
  have hw : wval (word (encOp cls fn e)) = encOp cls fn e := wval_word (encOp_eq cls fn e ▸ abs_pile_le hp)
  have hcut : cut (encOp cls fn e) 0 [21, 3, 3] = [(21, e), (3, fn), (3, cls)] := encOp_eq cls fn e ▸ cut_pile hp
  obtain ⟨-, hfn, hcls⟩ : field (encOp cls fn e) 0 21 = e ∧ field (encOp cls fn e) 21 3 = fn ∧
      field (encOp cls fn e) 24 3 = cls := by simpa [cut] using hcut
  rw [decode_eq, hw, hfn, hcls, h]
  rfl

end

/-- A value of at most 27 trits is that of its opcode and its operand trits. -/
theorem encOp_field {x : Int} (h : |x| ≤ maxT 27) : encOp (field x 24 3) (field x 21 3) (field x 0 21) = x := by
  rw [encOp_eq]
  exact (pile_cut x 0 [21, 3, 3]).trans ((field_zero x 27).trans (wrapT_of_abs_le h))

/-- An instruction of a format decodes from its word where the table has it, of the word's operands, under its opcode. -/
theorem Format.decode_word {F : Type} (φ : Format F) {cls fn : Int} {f : F} {i : Instr} (hf : φ.wf f = true)
    (hcf : |cls| ≤ maxT 3 ∧ |fn| ≤ maxT 3) (h : ∀ x, φ.fmt x = f → opcodeEntry cls fn x = some (.ok i)) :
    decode (word (encOp cls fn (φ.enc f))) = .ok i := by
  refine decode_encOp hcf.1 hcf.2 (φ.abs_enc_le hf) (h _ ?_)
  rw [encOp_eq]
  exact φ.fmt_enc_add hf _

/-- The opcodes that have several forms, by type, and the types that none of their forms has (08 R152, 23 Table 23.4). -/
def ReservedType (cls fn ty : Int) : Prop :=
  (cls = 4 ∧ fn = 9 ∧ (ty < -1 ∨ 1 < ty)) ∨
  (cls = -11 ∧ 1 ≤ fn ∧ fn ≤ 4 ∧ (ty < 0 ∨ (ty = 0 ∧ fn ≤ 2) ∨ (1 < ty ∧ fn ≠ 1) ∨ 3 < ty))

/-- What an entry of the opcode table says of the words of its opcode: the instruction gives back the opcode and the
operand trits, a refused type is reserved, and no entry is an opcode that is not assigned. -/
def ReadsBack (cls fn x : Int) : Option (Except DecodeError Instr) → Prop
  | some (.ok i) => encodeVal i = some (encOp cls fn (field x 0 21)) ∧ i.wf = true ∧ assigned cls fn = true
  | some (.error _) => ReservedType cls fn (field x 0 2) ∧ assigned cls fn = true
  | none => assigned cls fn = false

section
variable {cls fn n x : Int} {y : Except DecodeError Instr} {i : Instr} {r : Option (Except DecodeError Instr)}

/-- A row of a class's table. -/
theorem ReadsBack.row (hy : ReadsBack cls n x (some y)) (hr : fn ≠ n → ReadsBack cls fn x r) :
    ReadsBack cls fn x (if fn = n then some y else r) := by
  split_ifs with h
  · exact h ▸ hy
  · exact hr h

/-- A class of the table. -/
theorem ReadsBack.table {c : Int} {a : Option (Except DecodeError Instr)} (ha : ReadsBack c fn x a)
    (hr : cls ≠ c → ReadsBack cls fn x r) : ReadsBack cls fn x (if cls = c then a else r) := by
  split_ifs with h
  · exact h ▸ ha
  · exact hr h

theorem ReadsBack.ofFormat {F : Type} (φ : Format F) (he : encodeVal i = some (encOp cls fn (φ.enc (φ.fmt x))))
    (hw : i.wf = φ.wf (φ.fmt x)) (ha : assigned cls fn = true) : ReadsBack cls fn x (some (.ok i)) :=
  ⟨by rw [he, φ.enc_fmt], hw.trans (φ.wf_fmt x), ha⟩

/-- A form of an opcode that the type selects. -/
theorem ReadsBack.ofType {t : Int} (ht : (fmtA x).ty = t) (he : encodeVal i = some (encOp cls fn (fmtA x).enc))
    (hw : i.wf = ((fmtA x).wf && decide ((fmtA x).ty = t))) (ha : assigned cls fn = true) :
    ReadsBack cls fn x (some (.ok i)) :=
  .ofFormat formatA he (by rw [hw, ht]; simp [formatA]) ha

theorem ReadsBack.reserved {e : DecodeError} (h : ReservedType cls fn (fmtA x).ty) (ha : assigned cls fn = true) :
    ReadsBack cls fn x (some (.error e)) :=
  ⟨h, ha⟩

end

/-! The classes of Table 6.9. -/

section
variable {fn x : Int} (hf : -13 ≤ fn ∧ fn ≤ 13)
include hf

theorem decode_p0_readsBack : ReadsBack 0 fn x (decode_p0 fn x) := by
  unfold decode_p0
  iterate 5 refine .row (.ofFormat formatH rfl rfl rfl) fun _ => ?_
  simp [ReadsBack, assigned]
  omega

theorem decode_p1_readsBack : ReadsBack 1 fn x (decode_p1 fn x) := by
  unfold decode_p1
  iterate 26 refine .row (.ofFormat formatA rfl rfl rfl) fun _ => ?_
  simp [ReadsBack, assigned]
  omega

theorem decode_p2_readsBack : ReadsBack 2 fn x (decode_p2 fn x) := by
  unfold decode_p2
  iterate 8 refine .row (.ofFormat formatB rfl rfl rfl) fun _ => ?_
  simp [ReadsBack, assigned]
  omega

theorem decode_p3_readsBack : ReadsBack 3 fn x (decode_p3 fn x) := by
  unfold decode_p3
  iterate 5 refine .row (.ofFormat formatC rfl rfl rfl) fun _ => ?_
  simp [ReadsBack, assigned]
  omega

theorem decode_p4_readsBack : ReadsBack 4 fn x (decode_p4 fn x) := by
  unfold decode_p4
  iterate 8 refine .row (.ofFormat formatA rfl rfl rfl) fun _ => ?_
  refine .row ?_ fun _ => ?_
  · split_ifs with h0 h1 h2
    · exact .ofType h0 rfl rfl rfl
    · exact .ofType h1 rfl rfl rfl
    · exact .ofType h2 rfl rfl rfl
    · exact .reserved (by simp [ReservedType]; omega) rfl
  iterate 2 refine .row (.ofFormat formatA rfl rfl rfl) fun _ => ?_
  simp [ReadsBack, assigned]
  omega

theorem decode_p5_readsBack : ReadsBack 5 fn x (decode_p5 fn x) := by
  unfold decode_p5
  iterate 21 refine .row (.ofFormat formatA rfl rfl rfl) fun _ => ?_
  simp [ReadsBack, assigned]
  omega

omit hf in
theorem decode_p6_readsBack : ReadsBack 6 fn x (decode_p6 fn x) := by
  unfold decode_p6
  refine .row (.ofFormat formatC rfl rfl rfl) fun _ => ?_
  simp [ReadsBack, assigned]
  omega

theorem decode_p7_readsBack : ReadsBack 7 fn x (decode_p7 fn x) := by
  unfold decode_p7
  split_ifs with h
  · exact .ofFormat formatA rfl (by simp [Instr.wf, formatA, h]) (by simp [assigned]; omega)
  · simp [ReadsBack, assigned]
    omega

theorem decode_p8_readsBack : ReadsBack 8 fn x (decode_p8 fn x) := by
  unfold decode_p8
  iterate 6 refine .row (.ofFormat formatA rfl rfl rfl) fun _ => ?_
  simp [ReadsBack, assigned]
  omega

theorem decode_m1_readsBack : ReadsBack (-1) fn x (decode_m1 fn x) := by
  unfold decode_m1
  iterate 2 refine .row (.ofFormat formatE rfl rfl rfl) fun _ => ?_
  simp [ReadsBack, assigned]
  omega

theorem decode_m2_readsBack : ReadsBack (-2) fn x (decode_m2 fn x) := by
  unfold decode_m2
  iterate 5 refine .row (.ofFormat formatA rfl rfl rfl) fun _ => ?_
  refine .row (.ofFormat formatB rfl rfl rfl) fun _ => ?_
  iterate 2 refine .row (.ofFormat formatA rfl rfl rfl) fun _ => ?_
  simp [ReadsBack, assigned]
  omega

theorem decode_m3_readsBack : ReadsBack (-3) fn x (decode_m3 fn x) := by
  unfold decode_m3
  iterate 4 refine .row (.ofFormat formatA rfl rfl rfl) fun _ => ?_
  iterate 3 refine .row (.ofFormat formatB rfl rfl rfl) fun _ => ?_
  refine .row (.ofFormat formatF rfl rfl rfl) fun _ => ?_
  refine .row (.ofFormat formatA rfl rfl rfl) fun _ => ?_
  simp [ReadsBack, assigned]
  omega

theorem decode_m4_readsBack : ReadsBack (-4) fn x (decode_m4 fn x) := by
  unfold decode_m4
  iterate 13 refine .row (.ofFormat formatD rfl rfl rfl) fun _ => ?_
  simp [ReadsBack, assigned]
  omega

theorem decode_m5_readsBack : ReadsBack (-5) fn x (decode_m5 fn x) := by
  unfold decode_m5
  iterate 8 refine .row (.ofFormat formatF rfl rfl rfl) fun _ => ?_
  simp [ReadsBack, assigned]
  omega

theorem decode_m6_readsBack : ReadsBack (-6) fn x (decode_m6 fn x) := by
  unfold decode_m6
  iterate 6 refine .row (.ofFormat formatF rfl rfl rfl) fun _ => ?_
  simp [ReadsBack, assigned]
  omega

theorem decode_m7_readsBack : ReadsBack (-7) fn x (decode_m7 fn x) := by
  unfold decode_m7
  iterate 9 refine .row (.ofFormat formatF rfl rfl rfl) fun _ => ?_
  simp [ReadsBack, assigned]
  omega

theorem decode_m8_readsBack : ReadsBack (-8) fn x (decode_m8 fn x) := by
  unfold decode_m8
  iterate 8 refine .row (.ofFormat formatC rfl rfl rfl) fun _ => ?_
  simp [ReadsBack, assigned]
  omega

theorem decode_m9_readsBack : ReadsBack (-9) fn x (decode_m9 fn x) := by
  unfold decode_m9
  iterate 7 refine .row (.ofFormat formatC rfl rfl rfl) fun _ => ?_
  simp [ReadsBack, assigned]
  omega

theorem decode_m10_readsBack : ReadsBack (-10) fn x (decode_m10 fn x) := by
  unfold decode_m10
  iterate 5 refine .row (.ofFormat formatA rfl rfl rfl) fun _ => ?_
  simp [ReadsBack, assigned]
  omega

theorem decode_m11_readsBack : ReadsBack (-11) fn x (decode_m11 fn x) := by
  unfold decode_m11
  refine .row ?_ fun _ => ?_
  · split_ifs with h0 h1 h2
    · exact .ofType h0 rfl rfl rfl
    · exact .ofType h1 rfl rfl rfl
    · exact .ofType h2 rfl rfl rfl
    · exact .reserved (by simp [ReservedType]; omega) rfl
  refine .row ?_ fun _ => ?_
  · split_ifs with h0 h1
    · exact .ofType h0 rfl rfl rfl
    · exact .ofType h1 rfl rfl rfl
    · exact .reserved (by simp [ReservedType]; omega) rfl
  refine .row ?_ fun _ => ?_
  · split_ifs with h0 h1
    · exact .ofType h0 rfl rfl rfl
    · exact .ofType h1 rfl rfl rfl
    · exact .reserved (by simp [ReservedType]; omega) rfl
  refine .row ?_ fun _ => ?_
  · split_ifs with h0 h1
    · exact .ofType h0 rfl rfl rfl
    · exact .ofType h1 rfl rfl rfl
    · exact .reserved (by simp [ReservedType]; omega) rfl
  simp [ReadsBack, assigned]
  omega

end

/-- Every entry of the opcode table reads back. -/
theorem opcodeEntry_readsBack {cls fn : Int} (x : Int) (hf : |fn| ≤ maxT 3) : ReadsBack cls fn x (opcodeEntry cls fn x) := by
  replace hf : -13 ≤ fn ∧ fn ≤ 13 := abs_le.mp hf
  unfold opcodeEntry
  refine .table (decode_p0_readsBack hf) fun _ => ?_
  refine .table (decode_p1_readsBack hf) fun _ => ?_
  refine .table (decode_p2_readsBack hf) fun _ => ?_
  refine .table (decode_p3_readsBack hf) fun _ => ?_
  refine .table (decode_p4_readsBack hf) fun _ => ?_
  refine .table (decode_p5_readsBack hf) fun _ => ?_
  refine .table decode_p6_readsBack fun _ => ?_
  refine .table (decode_p7_readsBack hf) fun _ => ?_
  refine .table (decode_p8_readsBack hf) fun _ => ?_
  refine .table (decode_m1_readsBack hf) fun _ => ?_
  refine .table (decode_m2_readsBack hf) fun _ => ?_
  refine .table (decode_m3_readsBack hf) fun _ => ?_
  refine .table (decode_m4_readsBack hf) fun _ => ?_
  refine .table (decode_m5_readsBack hf) fun _ => ?_
  refine .table (decode_m6_readsBack hf) fun _ => ?_
  refine .table (decode_m7_readsBack hf) fun _ => ?_
  refine .table (decode_m8_readsBack hf) fun _ => ?_
  refine .table (decode_m9_readsBack hf) fun _ => ?_
  refine .table (decode_m10_readsBack hf) fun _ => ?_
  refine .table (decode_m11_readsBack hf) fun _ => ?_
  simp [ReadsBack, assigned, *]

/-- The word of a well-formed instruction decodes to it. -/
theorem decode_encodeVal {i : Instr} {v : Int} (h : i.wf = true) (he : encodeVal i = some v) : decode (word v) = .ok i := by
  cases i with
  | mov f | add f | sub f | mul f | mulh f | div f | mod f | divt f | modt f | min f | max f | abs f | sgn f | shl f
    | shr f | rot f | tcnt f | tmin f | tmax f | tnot f | tsum f | tmul f | tcons f | pack9 f | unp9 f | cmp f | qmin f
    | qmax f | qnot f | qmov f | sel f | voteAll f | voteAny f | voteCnt f | movs f | lane f | fadd f | fsub f | fmul f
    | fdiv f | fsqrt f | frcp f | frsq f | fmin f | fmax f | fabs f | fcmp f | fcls f | fscl f | fexn f | frnd f | fexp f
    | flog f | fsint f | fcost f | flgr f | flgc f | xlnAt f | xlnBk f | xlnFw f | xlnTri f | lred f | lscan f | jmpr f
    | callr f | ret f | exit f | yield f | rte f | bkpt f | watch f | sleep f | time f | cyc f | evwait f | fence f
    | bara f | barw f | bars f | barl f =>
    cases he
    exact formatA.decode_word h (by decide) (fun _ hx => by subst hx; rfl)
  | movi f | addi f | muli f | shli f | shri f | cmpi f | text f | tins f | trap f | csrr f | csrw f | csrx f =>
    cases he
    exact formatB.decode_word h (by decide) (fun _ hx => by subst hx; rfl)
  | mad f | clamp f | tsel f | lea f | lead f | fma f | atomAdd f | atomMin f | atomMax f | atomTmin f | atomTmax f
    | atomXchg f | atomCas f | atomFadd f | redAdd f | redMin f | redMax f | redTmin f | redTmax f | redX81 f | redFadd f =>
    cases he
    exact formatC.decode_word h (by decide) (fun _ hx => by subst hx; rfl)
  | gld f | gst f | glds f | prf f | lds f | sts f | ldsWf f | ldsWfe f | stsWe f | stsSt f | ldp f | stp f | ldc f =>
    cases he
    exact formatD.decode_word h (by decide) (fun _ hx => by subst hx; rfl)
  | br f | call f =>
    cases he
    exact formatE.decode_word h (by decide) (fun _ hx => by subst hx; rfl)
  | launch f | tnew f | tsplit f | tfree f | tacq f | trel f | tqry f | fenceT f | redc f | mma f | mmas f | mxrel f
    | quant f | deq f | qcnt f | cpy f | gath f | scat f | peer f | chain f | coll f | qfence f | bclose f | bwait f =>
    cases he
    exact formatF.decode_word h (by decide) (fun _ hx => by subst hx; rfl)
  | hdr f | imm f | modh f | nop f | safe f =>
    cases he
    exact formatH.decode_word h (by decide) (fun _ hx => by subst hx; rfl)
  | movqToRegister f | movqToPredicate f | movqBallot f | replayTok f | replayPage f | replayFail f | tlbiFld f
    | tlbiVa f | ctxs f | ctxsPort f | ctxr f | ctxrDrop f =>
    cases he
    obtain ⟨hf, hty⟩ := (Bool.and_eq_true _ _).mp h
    rw [decide_eq_true_eq] at hty
    refine formatA.decode_word hf (by decide) (fun x hx => ?_)
    subst hx
    simp only [formatA] at hty
    simp [opcodeEntry, decode_p4, decode_m11, formatA, hty]
  | cvt src f =>
    cases he
    obtain ⟨hs, hf⟩ := (Bool.and_eq_true _ _).mp h
    rw [decide_eq_true_eq] at hs
    have hsrc : |src| ≤ maxT 3 := abs_le.mpr (show -13 ≤ src ∧ src ≤ 13 by omega)
    exact formatA.decode_word hf ⟨by decide, hsrc⟩ (fun x hx => by subst hx; simp [opcodeEntry, decode_p7, formatA, hs])
  | unassignedOpcode w =>
    cases he
    have hread := opcodeEntry_readsBack (cls := field (wval w) 24 3) (wval w) (abs_field_le (wval w) 21 3)
    rw [word_wval, decode_eq]
    replace h : assigned (field (wval w) 24 3) (field (wval w) 21 3) = false := by simpa [Instr.wf] using h
    cases hy : opcodeEntry (field (wval w) 24 3) (field (wval w) 21 3) (wval w) with
    | none => rfl
    | some y => cases y <;> simp_all [ReadsBack]
  | _ => cases he

/-- A word gives back what it decodes to: its own instruction, or a type that its opcode reserves. -/
theorem decode_readsBack (w : Word) : (∀ i, decode w = .ok i → encodeVal i = some (wval w) ∧ i.wf = true) ∧
    ∀ e, decode w = .error e → ReservedType (field (wval w) 24 3) (field (wval w) 21 3) (field (wval w) 0 2) := by
  have hread := opcodeEntry_readsBack (cls := field (wval w) 24 3) (wval w) (abs_field_le (wval w) 21 3)
  rw [decode_eq]
  generalize hy : opcodeEntry (field (wval w) 24 3) (field (wval w) 21 3) (wval w) = y at hread
  match y, hread with
  | some (.ok i), ⟨henc, hwf, _⟩ =>
    refine ⟨fun j hj => ?_, nofun⟩
    cases hj
    exact ⟨by rw [henc, encOp_field (abs_wval_le w)], hwf⟩
  | some (.error e), ⟨hres, _⟩ => exact ⟨nofun, fun _ _ => hres⟩
  | none, hna =>
    refine ⟨fun j hj => ?_, nofun⟩
    cases hj
    exact ⟨rfl, by simpa [Instr.wf, ReadsBack] using hna⟩

/-- Settles O56: `decode_encodeVal`, by the format of the instruction, and `decode_readsBack`, by the opcode's entry. -/
theorem roundTrip : Obligations.RoundTrip := by
  unfold Obligations.RoundTrip
  refine ⟨fun i w hi he => ?_, fun w i hd => ?_, fun w e hd => (decode_readsBack w).2 e hd⟩
  · obtain ⟨v, hv, rfl⟩ := Option.map_eq_some_iff.mp he
    exact decode_encodeVal hi hv
  · obtain ⟨henc, hwf⟩ := (decode_readsBack w).1 i hd
    exact ⟨by rw [encode, henc, Option.map_some, word_wval], hwf⟩

/-- Settles O55: the decoder evaluated on the words. -/
theorem decodeWords : Obligations.DecodeWords := by
  unfold Obligations.DecodeWords
  decide

end Sys2Proof.Machine
end

section
/-! ## The checks of an instruction, a trap, NOP, and the completion of floats (O11, O12, O13, O18)

What `gate` answers at each of its checks (06 R92); what `takeTrap` does with and without a handler (23 R399, R402). -/
namespace Sys2Proof.Machine

section
variable {s : State} {c : Ctx}

/-! ### The checks in their order (06 R92) -/

section
variable {tr : Bool} {us : List Use} {fields : Bool} {a : Accept}

/-- Check 2 comes first. -/
theorem gate_illop_clause (h : clauseOk c tr = false) : gate c tr us fields a = .error Trap.illop := by
  simp only [gate, h, need_false, bind_error]

/-- Check 3 comes next. -/
theorem gate_illop_register (hc : clauseOk c tr = true) (h : us.all (fun u => regsOk c u.f u.n u.isDst) = false) :
    gate c tr us fields a = .error Trap.illop := by
  simp only [gate, hc, h, need_true, need_false, bind_ok, bind_error]

end

/-- One register, named as one of a group. -/
theorem regsOk_one (f : Int) (d : Bool) : regsOk c f 1 d = regOk c f d := by simp [regsOk]

theorem alu_error {a : Alu} {g : Nat → List Int × Fx} {t : Trap} (h : aluGate c a = .error t) : alu s c a g = .error t := by
  rw [alu, h, bind_error]

section
variable {f : FA} {i : Instr} {types : Bool} {a : Accept} {g : Bool → Int → Int → Int × Fx} (h : Issuing s c)
  (hi : exec i s = intAB s f types a g)
include h hi

/-- A class +1 instruction of sources a and b whose checks fail traps so. -/
theorem intAB_error {t : Trap}
    (he : gate c false [dst f.dst, src f.a, src f.b] (predOk f.pred && types && sideOk c f.dst [f.a, f.b]) a = .error t) :
    exec i s = .next (takeTrap s c t) :=
  hi.trans (withRow_error h (alu_error he))

/-- The three checks of such an instruction. -/
theorem intAB_checks :
    (clauseOk c false = false → exec i s = .next (takeTrap s c Trap.illop)) ∧
    (clauseOk c false = true → (regOk c f.dst true && regOk c f.a false && regOk c f.b false) = false →
      exec i s = .next (takeTrap s c Trap.illop)) ∧
    (Named c false [dst f.dst, src f.a, src f.b] →
      (predOk f.pred && types && sideOk c f.dst [f.a, f.b] && pfxOk a c) = false →
      exec i s = .next (takeTrap s c Trap.illmod)) := by
  refine ⟨fun hc => intAB_error h hi (gate_illop_clause hc), fun hc hr => intAB_error h hi (gate_illop_register hc ?_),
    fun hn hf => intAB_error h hi (gate_illmod hn hf)⟩
  simpa [dst, src, regsOk_one, Bool.and_assoc] using hr

end

end

/-- Settles O13: each of the instructions is `intAB` with its types and prefixes. -/
theorem checkOrder : Obligations.CheckOrder := by
  unfold Obligations.CheckOrder
  intro s c f h q hq
  simp only [List.mem_cons, List.not_mem_nil, or_false] at hq
  rcases hq with rfl | rfl | rfl | rfl | rfl | rfl | rfl | rfl | rfl
  · exact intAB_checks h (by unfold exec execAdd; rfl)
  · exact intAB_checks h (by unfold exec execSub; rfl)
  · exact intAB_checks h (by unfold exec execMul; rfl)
  · exact intAB_checks h (by unfold exec execMulh; rfl)
  · exact intAB_checks h (by unfold exec execDiv; rfl)
  · exact intAB_checks h (by unfold exec execMin; rfl)
  · exact intAB_checks h (by unfold exec execShl; rfl)
  · exact intAB_checks h (by unfold exec execRot; rfl)
  · exact intAB_checks h (by unfold exec execTmin; rfl)

/-! ### NOP (06 R105) -/

/-- A row that has issued no IMM or MODH has 0 in every field of theirs, which every instruction accepts. -/
theorem pfxOk_of_no_prefix {c : Ctx} (h : c.r.pfx = none) (a : Accept) : pfxOk a c = true := by
  simp [pfxOk, Ctx.immHi, Ctx.mod, h, modOk, yesOk, predOk, condOk, predCode, predSel, field, wrapT]

/-- Settles O11: the checks of NOP. -/
theorem nopResults : Obligations.NopResults := by
  unfold Obligations.NopResults
  intro s c f h hn
  refine ⟨fun hp hx => withRow_ok h ?_, fun hp => withRow_error h ?_⟩
  · rw [gate_ok ⟨hn, by simp [hp, hx], pfxOk_of_no_prefix hx _⟩, bind_ok]
  · rw [gate_illmod hn (by simp [hp]), bind_error]

/-! ### Taking a trap (23 R399, R402) -/

section
variable {s : State} {c : Ctx} {t : Trap}

/-- What a trap writes before the instruction has any effect: TRAPPC, TRAPCAUSE, TRAPINFO, TRAPCLS. -/
def State.trapHandler (s : State) (c : Ctx) (t : Trap) : Handler :=
  ⟨true, c.act, (t.pc.getD c.e.addr).toWord, false, t.cause.code, false,
    match t.info with | some x => word x | none => s.trapWord c, c.e.rem, c.e.fa, c.e.fb, 0⟩

/-- With a handler, and outside it, the group continues there. -/
theorem takeTrap_handled (hh : 0 ≤ c.g.lrec.hndl) (ha : c.r.handler.active = false) :
    takeTrap s c t = s.trapped c { c.r with handler := s.trapHandler c t, ahead := none } false
      [c.goto c.act (s.funcAddr c c.g.lrec.hndl)] := by
  unfold takeTrap takeTrapAt
  rw [if_neg (by simp [ha, hh])]
  rfl

/-- Without one, or inside it, the trap is logged and the grid ends. -/
theorem takeTrap_fatal (h : c.g.lrec.hndl < 0 ∨ c.r.handler.active = true) :
    takeTrap s c t = (s.logRow t.cause.code c.ref (t.pc.getD c.e.addr).toWord (s.trapHandler c t).info 0).endGrid
      c.g.grid t.cause.code.toNat := by
  unfold takeTrap takeTrapAt
  rw [if_pos h]
  rfl

end

/-- Settles O12: `takeTrap` with a handler and without one. -/
theorem trapEntry : Obligations.TrapEntry := by
  unfold Obligations.TrapEntry
  intro s c w h
  have hexec : exec (.unassignedOpcode w) s = .next (takeTrap s c Trap.illop) := withRow_error (f := fun _ => .error Trap.illop) h rfl
  refine ⟨fun hh ha => ?_, fun hf => ⟨_, hexec, ?_, ?_, ?_⟩⟩
  · rw [hexec, takeTrap_handled hh ha]
    rfl
  · rw [takeTrap_fatal hf]
    exact State.endGrid_retires _ (.inl rfl)
  · rw [takeTrap_fatal hf]
    exact State.log_counts ..
  · exact State.tryteAt_of_memories (takeTrap_mem ..) (takeTrap_peerMem ..) (takeTrap_hostMem ..)

/-! ### Completion of floating-point instructions (09 R155, R168) -/

/-- The instruction writes n words to every acting thread's destination. -/
def WritesWords (s : State) (c : Ctx) (i : Instr) (d pred : Int) (n : Nat) : Prop :=
  ∃ v : Nat → List Int × Fx, exec i s = .next (s.computed c d pred v) ∧ ∀ p, (v p).1.length = n

section
variable {s : State} {c : Ctx} {f : FA} {i : Instr}

theorem floatAB_writes {types : Bool} (h : Issuing s c)
    (hf : AluFree c f.dst 1 [src f.a, src f.b] f.pred (predOk f.pred && types) accAB) (g : FKind → Int → Int → Int × Fx)
    (he : exec i s = floatAB s f types g) : WritesWords s c i f.dst f.pred 1 :=
  ⟨_, he.trans (withRow_ok h (alu_ok (a := ⟨f.dst, 1, _, f.pred, _, accAB⟩) hf)), fun _ => rfl⟩

theorem floatA_writes {fields : Bool} (h : Issuing s c)
    (hf : AluFree c f.dst 1 [src f.a] f.pred (predOk f.pred && fields) accA) (g : FKind → Int → Int × Fx)
    (he : exec i s = floatA s f fields g) : WritesWords s c i f.dst f.pred 1 :=
  ⟨_, he.trans (withRow_ok h (alu_ok (a := ⟨f.dst, 1, _, f.pred, _, accA⟩) hf)), fun _ => rfl⟩

end

/-- Settles O18: the instructions of one and of two sources, then FMA, FSCL and CVT. -/
theorem floatCompletion : Obligations.FloatCompletion := by
  unfold Obligations.FloatCompletion
  intro s c h
  refine ⟨fun f hf => ?_, fun f hf => ?_, fun f hf => ?_, fun f hf => ?_, fun f hf => ?_, fun f hf => ?_, fun f hf => ?_,
    fun f fn a hs hl hf => ?_⟩
  · exact ⟨floatAB_writes h hf flAdd rfl, floatAB_writes h hf _ (execFsub_eq f s), floatAB_writes h hf flMul rfl,
      floatAB_writes h hf flMin rfl, floatAB_writes h hf flMax rfl⟩
  · exact ⟨_, withRow_ok h (alu_ok (a := ⟨f.dst, 1, _, c.mod.pred, true, _⟩) hf), fun _ => rfl⟩
  · exact floatAB_writes h hf flDiv rfl
  · exact ⟨floatA_writes h hf flSqrt rfl, floatA_writes h hf flRcp rfl, floatA_writes h hf flRsq rfl,
      floatA_writes h hf (fun _ => flExp) rfl, floatA_writes h hf (fun _ => flLog) rfl,
      floatA_writes h hf (fun _ => flTurn false) rfl, floatA_writes h hf (fun _ => flTurn true) rfl,
      floatA_writes h hf (fun _ x => (flClass x, Fx.clear)) rfl, floatA_writes h hf (fun _ x => flExponent x) rfl⟩
  · exact floatA_writes h hf flAbs rfl
  · exact ⟨_, withRow_ok h (alu_ok (a := ⟨f.dst, 1, _, f.pred, _, accA⟩) hf), fun _ => rfl⟩
  · exact floatA_writes h hf (fun k x => flIntegral k f.b x) rfl
  · exact ⟨c.cvtWords a (cvtDst f.ty) f, exec_cvt h hs hl hf,
      fun p => length_cvtWords c f p hl fun e r hb => (binFormat_of_cvtDst hb).2.1⟩

end Sys2Proof.Machine
end

section
/-! ## CSRR, CSRW and CSRX (O22)

What the common checks of the three leave to do, by the kind of register: FX, which is a thread's, and those of the row. -/
namespace Sys2Proof.Machine

section
variable {s : State} {c : Ctx} {f : FB} {rdD wrC : Bool}

/-! ### The checks -/

/-- The registers that the instruction names. -/
def csrUses (f : FB) (rdD wrC : Bool) : List Use := (if rdD then [dst f.dst] else []) ++ (if wrC then [src f.a] else [])

/-- The fields that check 4 of 06 R92 reads before the register's number. -/
def csrFields (c : Ctx) (f : FB) (rdD wrC : Bool) : Bool :=
  f.ty == 0 && pfxOk { p := true } c && (rdD || f.dst == 0) && (wrC || f.a == 0)

/-- An instruction whose registers may be named comes to its other fields. -/
theorem Named.csr_bind (h : Named c false (csrUses f rdD wrC)) (k : Except Trap State) : (do
    need (clauseOk c false) Trap.illop
    need ((csrUses f rdD wrC).all (fun u => regsOk c u.f u.n u.isDst)) Trap.illop
    lockCheck c (if rdD then [f.dst] else [])
    k) = k := by
  obtain ⟨hc, hr, hl⟩ := h
  have hlock : lockCheck c (if rdD then [f.dst] else []) = .ok () := by
    refine lockCheck_ok fun x hx => ?_
    cases rdD with
    | false => cases hx
    | true =>
      obtain rfl := List.mem_singleton.mp hx
      exact hl (dst f.dst) (by simp [csrUses]) rfl _ (by simp [Use.fields, dst, succReg_zero])
  rw [hc, need_true, bind_ok, List.all_eq_true.mpr hr, need_true, bind_ok, hlock, bind_ok]

/-- A field that is not legal traps ILLMOD before the register's number is looked at. -/
theorem csr_illmod (h : Issuing s c) (hn : Named c false (csrUses f rdD wrC)) (hf : csrFields c f rdD wrC = false) :
    csr s f rdD wrC = .next (takeTrap s c Trap.illmod) := by
  refine withRow_error h ((hn.csr_bind _).trans ?_)
  rw [show (f.ty == 0 && _ && _ && _) = false from hf]
  rfl

/-- Then a number that Table 10.2 does not list traps ILLOP. -/
theorem csr_illop (h : Issuing s c) (hn : Named c false (csrUses f rdD wrC)) (hf : csrFields c f rdD wrC = true)
    (hi : csrListed f.imm = false) : csr s f rdD wrC = .next (takeTrap s c Trap.illop) := by
  refine withRow_error h ((hn.csr_bind _).trans ?_)
  rw [show (f.ty == 0 && _ && _ && _) = true from hf, hi]
  rfl

/-- Then a write of a register that has no writable field traps ILLMOD. -/
theorem csrw_illmod (h : Issuing s c) (hn : Named c false [src f.a]) (hi : csrListed f.imm = true)
    (ht : csrThread f.imm = false) (hw : csrWritable c f.imm = false) :
    csr s f false true = .next (takeTrap s c Trap.illmod) := by
  cases hf : csrFields c f false true with
  | false => exact csr_illmod h hn hf
  | true =>
    refine withRow_error h ((Named.csr_bind (rdD := false) (wrC := true) hn _).trans ?_)
    rw [show (f.ty == 0 && _ && _ && _) = true from hf, hi, ht, hw]
    cases rowSrcs c [f.a] <;> rfl

/-! ### What they do (10 R190) -/

/-- A register of the row, of a condition that is not mixed. -/
theorem csr_row (h : Issuing s c) (hn : Named c false (csrUses f rdD wrC)) (hf : csrFields c f rdD wrC = true)
    (hb : usesBusy c (csrUses f rdD wrC) = false) (hi : csrListed f.imm = true) (ht : csrThread f.imm = false)
    (hd : rdD = true → scaDst c f.dst = true)
    (hw : wrC = true → rowSrcs c [f.a] = true ∧ csrWritable c f.imm = true ∧ uniform c [f.a] = true)
    (ho : OneWay c c.mod.pred) :
    csr s f rdD wrC = .next (s.finish c (if (c.acting c.mod.pred).length = c.act.length then
      (let r := if rdD then wrRow c.gen0 c.w c.r c.act f.dst (csrVal s c f.imm 0) else c.r
       if wrC then csrSetRow r f.imm (rdRow c f.a) else r) else c.r)) := by
  refine withRow_ok h ((hn.csr_bind _).trans ?_)
  rw [show (f.ty == 0 && _ && _ && _) = true from hf, hi, ht]
  have hd' : (!rdD || scaDst c f.dst) = true := by cases rdD <;> simp_all
  obtain ⟨h1, h2, h3⟩ : (!wrC || rowSrcs c [f.a]) = true ∧ (!wrC || csrWritable c f.imm) = true ∧
      (!wrC || uniform c [f.a]) = true := by cases wrC <;> simp_all
  simp only [if_false, Bool.false_eq_true, hd', h1, h2, h3, need_true, bind_ok, Bool.and_false, Bool.false_and,
    Bool.or_false, rowActs_ok ho]
  rw [csrUses] at hb
  simp only [hb, Bool.false_eq_true, if_false]
  by_cases hl : (c.acting c.mod.pred).length = c.act.length <;> simp [hl]

/-- FX, thread by thread. -/
theorem csr_fx (h : Issuing s c) (hn : Named c false (csrUses f rdD wrC)) (hf : csrFields c f rdD wrC = true)
    (hb : usesBusy c (csrUses f rdD wrC) = false) (hi : f.imm = 1) (hd : rdD = true → vecDst c f.dst = true ∧ fxBusy c = false)
    (hw : wrC = true → ∀ p ∈ c.acting c.mod.pred, field (rd c f.a p) 6 21 = 0) :
    csr s f rdD wrC = .next (s.finish c ((c.acting c.mod.pred).foldl (fun r p =>
      let r := if rdD then wrReg c.gen0 c.w r f.dst p (c.r.fxOf p).toInt else r
      if wrC then csrSetFx r p (rd c f.a p) else r) c.r)) := by
  refine withRow_ok h ((hn.csr_bind _).trans ?_)
  rw [show (f.ty == 0 && _ && _ && _) = true from hf, hi]
  obtain ⟨h1, h2⟩ : (!rdD || vecDst c f.dst) = true ∧ (rdD && true && fxBusy c) = false := by cases rdD <;> simp_all
  have h3 : (!wrC || (c.acting c.mod.pred).all (fun p => field (rd c f.a p) 6 21 == 0)) = true := by
    cases wrC with
    | false => rfl
    | true => simpa using hw rfl
  simp only [show csrListed 1 = true from rfl, show csrThread 1 = true from rfl, show csrWritable c 1 = true from rfl,
    if_true, need_true, bind_ok, h1, h2, h3, Bool.or_true, Bool.true_or]
  rw [csrUses] at hb
  rw [hb]
  rfl

end

theorem exec_csrr (f : FB) (s : State) : exec (.csrr f) s = csr s f true false := rfl
theorem exec_csrw (f : FB) (s : State) : exec (.csrw f) s = csr s f false true := rfl
theorem exec_csrx (f : FB) (s : State) : exec (.csrx f) s = csr s f true true := rfl

/-! ### The flags of FX that a write clears -/

/-- What is kept of a thread's flags once written is kept when written again. -/
theorem Fx.keep_keep (x : Fx) (k : Nat → Bool) : (x.keep k).keep k = x.keep k := by
  simp [Fx.keep]

theorem Fx.bit_keep (x : Fx) (k : Nat → Bool) {i : Nat} (h : i < 6) : (x.keep k).bit i = (x.bit i && k i) := by
  interval_cases i <;> rfl

theorem Row.fxOf_csrSetFx (r : Row) (p q : Nat) (v : Int) :
    (csrSetFx r p v).fxOf q = if q = p then (r.fxOf p).keep (fun i => trit v i != 0) else r.fxOf q := by
  unfold csrSetFx Row.setFx Row.fxOf
  by_cases hq : q = p
  · subst hq
    by_cases hl : q < r.fx.length
    · simp [List.getD_eq_getElem?_getD, hl]
    · simp [List.getD_eq_getElem?_getD, hl, Fx.keep, Fx.clear]
  · simp [List.getD_eq_getElem?_getD, hq, Ne.symm hq]

/-- After the writes of some threads each of them keeps the flags that it did not write 0, and every other thread its own. -/
theorem Row.fxOf_csrSetFxs (v : Nat → Int) (ts : List Nat) (r : Row) (q : Nat) :
    (ts.foldl (fun r p => csrSetFx r p (v p)) r).fxOf q =
      if q ∈ ts then (r.fxOf q).keep (fun i => trit (v q) i != 0) else r.fxOf q := by
  induction ts generalizing r with
  | nil => simp
  | cons p ts ih =>
    rw [List.foldl_cons, ih, Row.fxOf_csrSetFx]
    by_cases hq : q = p
    · subst hq
      by_cases hm : q ∈ ts <;> simp [hm, Fx.keep_keep]
    · simp [hq]

theorem Row.csrSetFxs_rest (v : Nat → Int) (ts : List Nat) (r : Row) :
    { ts.foldl (fun r p => csrSetFx r p (v p)) r with fx := r.fx } = r := by
  have h := foldl_keeps (f := fun (r : Row) p => csrSetFx r p (v p)) (p := fun x => ({ x with fx := r.fx } : Row))
    (fun _ _ => rfl) ts r
  exact h

/-- Settles O22: the checks of `csr`, FX by `csr_fx`, the registers of the row by `csr_row`. -/
theorem csrResults : Obligations.CsrResults := by
  unfold Obligations.CsrResults
  intro s c f h hd b value
  have hval : ∀ n ∈ ([2, 3, 4, 5, 6, 7, 9, 10, 11] : List Int), csrListed n = true ∧ csrThread n = false ∧
      csrVal s c n 0 = value n := by
    intro n hn
    simp only [List.mem_cons, List.not_mem_nil, or_false] at hn
    rcases hn with rfl | rfl | rfl | rfl | rfl | rfl | rfl | rfl | rfl <;> exact ⟨rfl, rfl, by simp [csrVal, value, hd, b]⟩
  refine ⟨fun hi ho hl => ?_, fun hi hx hl => ?_, fun hi ha hu => ?_, fun hi hw hl => ?_,
    fun hi => ⟨fun hl => ?_, fun hl => ?_, fun hl => ?_⟩, fun hn ht => ?_, fun hi hn => ?_⟩
  · obtain ⟨⟨hn, hf, hp⟩, hb⟩ := hl
    simp only [Bool.and_eq_true] at hf
    obtain ⟨hlist, hthr, hv⟩ := hval f.imm hi
    rw [exec_csrr, ← hv]
    exact csr_row (rdD := true) (wrC := false) h hn (by simp [csrFields, hf, hp]) hb hlist hthr (fun _ => hf.2) nofun ho
  · obtain ⟨⟨hn, hf, hp⟩, hb⟩ := hl
    simp only [Bool.and_eq_true] at hf
    rw [exec_csrr]
    exact csr_fx (rdD := true) (wrC := false) h hn (by simp [csrFields, hf, hp]) hb hi (fun _ => ⟨hf.2, hx⟩) nofun
  · obtain ⟨hmem, hwr⟩ : f.imm ∈ ([2, 3, 4, 5, 6, 7, 9, 10, 11] : List Int) ∧ csrWritable c f.imm = true := by
      rcases hi with hi | ⟨hi, hact⟩
      · rw [hi]
        exact ⟨by decide, rfl⟩
      · rw [hi]
        exact ⟨by decide, hact⟩
    obtain ⟨hlist, hthr, hv⟩ := hval f.imm hmem
    intro put
    have hput : ∀ r, csrSetRow r f.imm (rdRow c f.a) = put r := by
      rcases hi with hi | ⟨hi, -⟩ <;> simp [csrSetRow, put, hi]
    refine ⟨fun hl => ?_, fun hl => ?_⟩
    · obtain ⟨⟨hn, hf, hp⟩, hb⟩ := hl
      simp only [Bool.and_eq_true] at hf
      rw [exec_csrw, ← hput, csr_row (rdD := false) (wrC := true) h hn (by simp [csrFields, hf, hp]) hb hlist hthr nofun
        (fun _ => ⟨hf.2, hwr, hu⟩) (.inl ha), if_pos ha]
      rfl
    · obtain ⟨⟨hn, hf, hp⟩, hb⟩ := hl
      simp only [Bool.and_eq_true] at hf
      rw [exec_csrx, ← hput, ← hv, csr_row (rdD := true) (wrC := true) h hn (by simp [csrFields, hf, hp]) hb hlist hthr
        (fun _ => hf.1.2) (fun _ => ⟨hf.2, hwr, hu⟩) (.inl ha), if_pos ha]
      rfl
  · obtain ⟨⟨hn, hf, hp⟩, hb⟩ := hl
    simp only [Bool.and_eq_true] at hf
    rw [exec_csrw]
    refine ⟨_, csr_fx (rdD := false) (wrC := true) h hn (by simp [csrFields, hf, hp]) hb hi nofun (fun _ => hw), ?_⟩
    simp only [Bool.false_eq_true, if_false, if_true]
    refine ⟨Row.csrSetFxs_rest _ _ _, fun p hp => ?_, fun p hp i hi => ?_⟩
    · rw [Row.fxOf_csrSetFxs, if_neg hp]
    · rw [Row.fxOf_csrSetFxs, if_pos hp, Fx.bit_keep _ _ hi]
  · obtain ⟨hn, hf, hp⟩ := hl
    simp only [Bool.and_eq_true] at hf
    rw [exec_csrr]
    exact csr_illop (rdD := true) (wrC := false) h hn (by simp [csrFields, hf, hp]) hi
  · obtain ⟨hn, hf, hp⟩ := hl
    simp only [Bool.and_eq_true] at hf
    rw [exec_csrw]
    exact csr_illop (rdD := false) (wrC := true) h hn (by simp [csrFields, hf, hp]) hi
  · obtain ⟨hn, hf, hp⟩ := hl
    rw [exec_csrx]
    exact csr_illop (rdD := true) (wrC := true) h hn (by simp [csrFields, hf, hp]) hi
  · rw [exec_csrr]
    exact csr_illmod (rdD := true) (wrC := false) h hn (by simp [csrFields, ht])
  · obtain ⟨hlist, hthr, hwr⟩ : csrListed f.imm = true ∧ csrThread f.imm = false ∧ csrWritable c f.imm = false := by
      simp only [List.mem_cons, List.not_mem_nil, or_false] at hi
      rcases hi with hi | hi | hi | hi | hi | hi | hi <;> rw [hi] <;> exact ⟨rfl, rfl, rfl⟩
    rw [exec_csrw]
    exact csrw_illmod h hn hlist hthr hwr

end Sys2Proof.Machine
end

section
/-! ## What a step does (O53)

The step's choice, by its watchdogs, its agenda and what is due; a side's choice is a row that is ready on it. -/
namespace Sys2Proof.Machine

section
variable {s : State}

/-! ### The choice of a row (07 R125) -/

theorem bestBy_mem {α : Type} {m : α → Int} {l : List α} {x : α} (h : bestBy m l = some x) : x ∈ l := by
  induction l generalizing x with
  | nil => cases h
  | cons y r ih =>
    unfold bestBy at h
    split at h
    · cases h
      exact List.mem_cons_self
    · rename_i z hz
      split at h
      · cases h
        exact List.mem_cons_self
      · cases h
        exact List.mem_cons_of_mem _ (ih hz)

theorem pickRow_mem {scalar : Bool} {ready : List (RowRef × Gang × Row)} {r : RowRef} (h : pickRow scalar ready = some r) :
    ∃ q ∈ ready, q.1 = r := by
  unfold pickRow at h
  obtain ⟨q, hq, rfl⟩ := Option.map_eq_some_iff.mp h
  refine ⟨q, ?_, rfl⟩
  split at hq
  · exact bestBy_mem hq
  · exact List.mem_of_mem_filter (bestBy_mem hq)

/-- The row that a side of a core chooses is ready on it. -/
theorem State.chooseRow_ready {core : Nat} {scalar : Bool} {r : RowRef} {t : State}
    (h : s.chooseRow core scalar = some (r, t)) : s.readyOn scalar r = true := by
  unfold State.chooseRow at h
  obtain ⟨p, hp, hr⟩ := Option.map_eq_some_iff.mp h
  cases hr
  obtain ⟨q, hq, rfl⟩ := pickRow_mem hp
  exact (List.mem_filter.mp hq).2

/-- So is the row that the first side with a ready row chooses. -/
theorem State.chooseFrom_ready {sides : List Nat} {k : Nat} {r : RowRef} {t : State}
    (h : s.chooseFrom sides = some (k, r, t)) : s.readyOn (k % 2 == 1) r = true := by
  induction sides with
  | nil => cases h
  | cons u us ih =>
    unfold State.chooseFrom at h
    split at h
    · exact ih h
    · rename_i hc
      cases h
      exact State.chooseRow_ready hc

/-- A row alone on its core has the turn it is named for. -/
theorem State.turnOf_alone {r : RowRef} {b : Block} {x : RowRef × Gang × Row} (hb : s.block? r = some b)
    (hx : s.rowsOn b.core = [x]) : s.turnOf r = (r, s) := by
  simp [State.turnOf, hb, hx]

/-! ### A step's one action (log 2) -/

theorem step_expiry {r : RowRef} (h : s.stallDue = some r) : step s = expiry r s.tick := by
  rw [step, State.advance, h]

theorem step_agenda {a : Act} {rest : List Act} (h : s.stallDue = none) (ha : s.agenda = a :: rest) :
    step s = act a { s.tick with agenda := rest } := by
  rw [step, State.advance, h, ha]

theorem step_idle (h : s.stallDue = none) (ha : s.agenda = []) : step s = idleAct s.tick := by
  rw [step, State.advance, h, ha]

/-- A device step on the agenda, but for the expiry of a watchdog, is its meaning. -/
theorem act_event {i : Instr} (he : encode i = none) (hi : ∀ r, i ≠ .stallWatchdogExpiry r) : act (.event i) s = exec i s := by
  unfold act
  split
  case h_5 r heq => exact absurd (Act.event.inj heq) (hi r)
  case h_6 heq =>
    cases heq
    simp [he]
  all_goals contradiction

theorem expiry_early {r : RowRef} (h : s.expired r = false) : expiry r s = .next s := by
  rw [expiry, h]
  rfl

/-- A change of the entry that is found depends on that entry alone. -/
theorem modFirst_congr {α : Type} {p : α → Bool} {f g : α → α} {l : List α} {x : α} (h : l.find? p = some x)
    (hx : f x = g x) : modFirst p f l = modFirst p g l := by
  induction l with
  | nil => rfl
  | cons a l ih =>
    by_cases ha : p a = true
    · obtain rfl : a = x := by simpa [List.find?_cons, ha] using h
      simp only [modFirst, ha, if_true, hx]
    · rw [List.find?_cons_of_neg ha] at h
      simp only [modFirst, ha, ih h]
      rfl

/-- So does a change of a row. -/
theorem State.modRow_congr {r : RowRef} {x : Row} {f g : Row → Row} (h : s.row? r = some x) (hx : f x = g x) :
    s.modRow r f = s.modRow r g := by
  obtain ⟨b, hb, hr⟩ := Option.bind_eq_some_iff.mp h
  obtain ⟨d, hd, hb⟩ := Option.bind_eq_some_iff.mp hb
  unfold State.modRow State.modBlock State.modGang Gang.modBlock Block.modRow
  rw [modFirst_congr hd]
  rw [modFirst_congr hb]
  rw [modFirst_congr hr hx]

theorem State.expired_row {r : RowRef} (h : s.expired r = true) : ∃ x, s.row? r = some x := by
  unfold State.expired at h
  split at h
  · exact ⟨_, ‹_›⟩
  · cases h

/-- One that has run out reports a wait of its row. -/
theorem expiry_late {r : RowRef} (h : s.expired r = true) :
    ∃ w, expiry r s = exec (.stallWatchdogExpiry r) (s.modRow r (fun x => { x with wait := w })) := by
  obtain ⟨x, hx⟩ := State.expired_row h
  refine ⟨(firstWait (s.waits r)).orElse (fun _ => x.wait), ?_⟩
  rw [expiry, if_pos h]
  exact congrArg _ (State.modRow_congr hx rfl)

/-! ### With nothing on the agenda -/

theorem idleAct_due {t : State} (h : firstDue s s.pending = some t) : idleAct s = .next t := by
  rw [idleAct, h]

theorem idleAct_attempt {t : State} (h : firstDue s s.pending = none) (ha : s.attempt = some t) : idleAct s = .next t := by
  rw [idleAct, h, ha]

theorem idleAct_quiet (h : firstDue s s.pending = none) (ha : s.attempt = none) (hc : s.chooseFrom s.sidesInTurn = none) :
    idleAct s = .next s := by
  rw [idleAct, h, ha, hc]

theorem idleAct_chosen {k : Nat} {r : RowRef} {t : State} (h : firstDue s s.pending = none) (ha : s.attempt = none)
    (hc : s.chooseFrom s.sidesInTurn = some (k, r, t)) :
    idleAct s = State.sideStep { t with turn := k + 1 } (k % 2 == 1) r := by
  rw [idleAct, h, ha, hc]

/-! ### What a side does -/

theorem State.sideStep_vector {r : RowRef} (h : s.ranOf r = 0) : s.sideStep false r = issueStep r s := by
  rw [State.sideStep, h]
  rfl

theorem State.sideStep_scalar {r : RowRef} (h : s.scalarNext r = true) : s.sideStep true r = issueStep r s := by
  rw [State.sideStep, h]
  rfl

theorem State.sideStep_ahead {r : RowRef} {t : State} (h : s.scalarNext r = false) (ha : s.aheadStep r = some t) :
    s.sideStep true r = .next t := by
  rw [State.sideStep, h, ha]
  rfl

end

/-- Settles O53: one lemma for each action that a step takes. -/
theorem stepTakesTurns : Obligations.StepTakesTurns := by
  unfold Obligations.StepTakesTurns
  intro s
  refine ⟨fun r => step_expiry, fun hs => ⟨fun a rest ha => ?_, fun ha => ?_⟩, fun r =>
    ⟨State.sideStep_vector, State.sideStep_scalar, fun h t => State.sideStep_ahead h⟩⟩
  · rw [step_agenda hs ha]
    intro u
    refine ⟨?_, ?_, ?_, ?_, ?_, ?_⟩
    · rintro r rfl
      refine ⟨fun q v hv => ?_, fun b x => State.turnOf_alone⟩
      rw [show act (.issue r) u = (u.turnOf r).2.sideStep (u.scalarNext r) (u.turnOf r).1 from rfl, hv]
    · rintro i rfl he hi
      exact act_event he hi
    · rintro r rfl
      exact ⟨expiry_early, expiry_late⟩
    · rintro rfl
      rfl
    · rintro x rfl
      rfl
    · rintro o rfl
      rfl
  · rw [step_idle hs ha]
    exact ⟨fun t => idleAct_due, fun hd => ⟨fun t => idleAct_attempt hd, fun hq => ⟨idleAct_quiet hd hq,
      fun k r u hc => ⟨idleAct_chosen hd hq hc, State.chooseFrom_ready hc⟩⟩⟩⟩

end Sys2Proof.Machine
end

section
/-! ## Rows after an update of a row

What the accessors of a row, and its context, give once a row of the device has changed. -/
namespace Sys2Proof.Machine

/-! ### Lists -/

/-- The entry that is found, once it has changed. -/
theorem find_modFirst_map {α : Type} {p : α → Bool} {f : α → α} {l : List α}
    (hf : ∀ x, l.find? p = some x → p (f x) = p x) : (modFirst p f l).find? p = (l.find? p).map f := by
  induction l with
  | nil => rfl
  | cons a l ih =>
    by_cases ha : p a = true
    · have := hf a (List.find?_cons_of_pos ha)
      simp [modFirst, ha, this]
    · have ih := ih fun x hx => hf x (by rw [List.find?_cons_of_neg ha, hx])
      simp [modFirst, ha, ih]

/-- Any other entry is found as before. -/
theorem find_modFirst_apart {α : Type} {p q : α → Bool} {f : α → α} {l : List α}
    (hf : ∀ x, l.find? p = some x → q (f x) = q x) (hpq : ∀ y, p y = true → q y = false) :
    (modFirst p f l).find? q = l.find? q := by
  induction l with
  | nil => rfl
  | cons a l ih =>
    by_cases ha : p a = true
    · simp [modFirst, ha, hf a (List.find?_cons_of_pos ha), hpq a ha]
    · have ih := ih fun x hx => hf x (by rw [List.find?_cons_of_neg ha, hx])
      simp [modFirst, ha, List.find?_cons, ih]

/-- A key that names one entry does not name another. -/
theorem beq_key_apart {α β : Type} [BEq β] [LawfulBEq β] {k : α → β} {i j : β} (hij : j ≠ i) (y : α) (hy : (k y == i) = true) :
    (k y == j) = false := by
  rw [eq_of_beq hy]
  exact beq_eq_false_iff_ne.mpr hij.symm

/-! ### Gangs, blocks and rows by their keys -/

section
variable {s : State} {r q : RowRef} {x : Row} {f : Row → Row}

theorem State.gang?_modGang {i : Word} {h : Gang → Gang} (hh : ∀ g, (h g).gid = g.gid) :
    (s.modGang i h).gang? i = (s.gang? i).map h :=
  find_modFirst_map fun g _ => by rw [hh]

theorem State.gang?_modGang_other {i j : Word} {h : Gang → Gang} (hh : ∀ g, (h g).gid = g.gid) (hij : j ≠ i) :
    (s.modGang i h).gang? j = s.gang? j :=
  find_modFirst_apart (fun g _ => by rw [hh]) (beq_key_apart hij)

theorem Gang.block?_modBlock {g : Gang} {n : Nat} {h : Block → Block} (hh : ∀ b, (h b).blk = b.blk) :
    (g.modBlock n h).block? n = (g.block? n).map h :=
  find_modFirst_map fun b _ => by rw [hh]

theorem Gang.block?_modBlock_other {g : Gang} {m n : Nat} {h : Block → Block} (hh : ∀ b, (h b).blk = b.blk) (hmn : m ≠ n) :
    (g.modBlock n h).block? m = g.block? m :=
  find_modFirst_apart (fun b _ => by rw [hh]) (beq_key_apart hmn)

theorem Block.row?_modRow {b : Block} {n : Nat} (hf : ∀ x, b.row? n = some x → (f x).row = x.row) :
    (b.modRow n f).row? n = (b.row? n).map f :=
  find_modFirst_map fun x hx => by rw [hf x hx]

theorem Block.row?_modRow_other {b : Block} {m n : Nat} (hf : ∀ x, b.row? n = some x → (f x).row = x.row) (hmn : m ≠ n) :
    (b.modRow n f).row? m = b.row? m :=
  find_modFirst_apart (fun x hx => by rw [hf x hx]) (beq_key_apart hmn)

/-! ### The row that changes, and the others -/

theorem State.gang?_modRow : (s.modRow r f).gang? r.gid = (s.gang? r.gid).map (·.modBlock r.blk (·.modRow r.row f)) :=
  State.gang?_modGang fun _ => rfl

theorem State.block?_modRow : (s.modRow r f).block? r = (s.block? r).map (·.modRow r.row f) := by
  unfold State.block?
  rw [State.gang?_modRow]
  cases s.gang? r.gid with
  | none => rfl
  | some g => exact Gang.block?_modBlock fun _ => rfl

/-- The changed row is the one found in its place. -/
theorem State.row?_modRow (h : s.row? r = some x) (hf : (f x).row = x.row) : (s.modRow r f).row? r = some (f x) := by
  obtain ⟨b, hb, hx⟩ := Option.bind_eq_some_iff.mp h
  unfold State.row?
  rw [State.block?_modRow, hb]
  refine (Block.row?_modRow fun y hy => ?_).trans (by rw [hx]; rfl)
  obtain rfl := Option.some.inj (hx.symm.trans hy)
  exact hf

/-- Every other row is the one found before. -/
theorem State.row?_modRow_other (hf : ∀ x, s.row? r = some x → (f x).row = x.row) (hq : q ≠ r) :
    (s.modRow r f).row? q = s.row? q := by
  obtain ⟨i, j, k⟩ := r
  obtain ⟨i', j', k'⟩ := q
  unfold State.row? State.block?
  by_cases hi : i' = i
  · subst hi
    rw [State.gang?_modRow (r := ⟨i', j, k⟩)]
    cases hg : s.gang? i' with
    | none => rfl
    | some g =>
      simp only [Option.map_some, Option.bind_some]
      by_cases hj : j' = j
      · subst hj
        rw [Gang.block?_modBlock (h := fun b => b.modRow k f) fun _ => rfl]
        cases hb : g.block? j' with
        | none => rfl
        | some b =>
          refine Block.row?_modRow_other (fun x hx => hf x ?_) fun hk => hq (by rw [hk])
          simp [State.row?, State.block?, hg, hb, hx]
      · rw [Gang.block?_modBlock_other (h := fun b => b.modRow k f) (fun _ => rfl) hj]
  · exact congrArg (fun o => Option.bind (Option.bind o _) _) (State.gang?_modGang_other (fun _ => rfl) hi)

/-! ### The context of a row that changes -/

/-- The context of a row, with its parts. -/
theorem State.ctxOf_eq_some {c : Ctx} : s.ctxOf r = some c ↔ c.ref = r ∧ s.gang? r.gid = some c.g ∧
    c.g.block? r.blk = some c.b ∧ c.b.row? r.row = some c.r ∧ chooseHead c.r = some c.e ∧ c.k = Prefix.count c.r.pfx := by
  constructor
  · intro h
    unfold State.ctxOf State.ctxBy at h
    split at h
    · cases h
    · split at h
      · cases h
      · split at h
        · cases h
        · split at h
          · cases h
          · cases h
            simp [*]
  · rintro ⟨rfl, hg, hb, hx, he, hk⟩
    simp [State.ctxOf, State.ctxBy, hg, hb, hx, he, ← hk]

/-- A change that leaves the head group and the prefixes. -/
def Ctx.modRow (c : Ctx) (f : Row → Row) : Ctx :=
  { c with g := c.g.modBlock c.ref.blk (·.modRow c.ref.row f), b := c.b.modRow c.ref.row f, r := f c.r }

theorem State.ctxOf_modRow {c : Ctx} (h : s.ctxOf r = some c) (hrow : (f c.r).row = c.r.row)
    (hhead : chooseHead (f c.r) = chooseHead c.r) (hpfx : (f c.r).pfx = c.r.pfx) :
    (s.modRow r f).ctxOf r = some (c.modRow f) := by
  obtain ⟨rfl, hg, hb, hx, he, hk⟩ := State.ctxOf_eq_some.mp h
  refine State.ctxOf_eq_some.mpr ⟨rfl, ?_, ?_, ?_, hhead.trans he, hk.trans (by rw [Ctx.modRow, hpfx])⟩
  · rw [State.gang?_modRow, hg]
    rfl
  · exact (Gang.block?_modBlock (h := fun b => b.modRow c.ref.row f) fun _ => rfl).trans (by rw [hb]; rfl)
  · refine (Block.row?_modRow fun y hy => ?_).trans (by rw [hx]; rfl)
    obtain rfl := Option.some.inj (hx.symm.trans hy)
    exact hrow

end

end Sys2Proof.Machine
end

section
/-! ## The issue of a row (O54)

What `issueRow` and `issueStep` do for the word at a row's head group, what `settled` leaves, and the state in which the
next step issues a word put in its reach. -/
namespace Sys2Proof.Machine

section
variable {s : State} {r : RowRef} {c : Ctx}

/-! ### The row that issues -/

theorem State.ctxOf_issuing (h : s.ctxOf r = some c) :
    (s.issuing r).ctxOf r = some (c.modRow fun x => { x with wait := none }) :=
  State.ctxOf_modRow h rfl rfl rfl

theorem State.fetch_eq (h : s.ctxOf r = some c) : s.fetch r = s.codeWord c.fld c.ia := by
  rw [State.fetch, h, Option.bind_some]

theorem State.fetch_issuing (h : s.ctxOf r = some c) : (s.issuing r).fetch r = s.codeWord c.fld c.ia := by
  rw [State.fetch_eq (State.ctxOf_issuing h)]
  rfl

/-- The issue of a row is the meaning of its word's instruction. -/
theorem issueRow_decoded {w : Word} {i : Instr} (h : s.ctxOf r = some c) (hw : s.codeWord c.fld c.ia = some w)
    (hi : decode w = .ok i) : issueRow r s = exec i (s.issuing r) := by
  simp only [issueRow, State.ctxOf_issuing h, State.fetch_issuing h, hw, hi]

/-- Past the end of the code it is a trap. -/
theorem issueRow_past_end (h : s.ctxOf r = some c) (hw : s.codeWord c.fld c.ia = none) :
    issueRow r s = withRow (s.issuing r) (fun _ => .error Trap.illop) := by
  simp only [issueRow, State.ctxOf_issuing h, State.fetch_issuing h, hw]

/-- A row that nothing holds may issue. -/
theorem State.issuing_issues (h : s.ctxOf r = some c) (hb : c.blocked = false) (ha : c.r.acquiring = false)
    (hg : c.gen0 = true → c.r.busy = []) : Issuing (s.issuing r) (c.modRow fun x => { x with wait := none }) := by
  refine ⟨State.ctxOf_issuing h, hb, ha, ?_⟩
  show (c.gen0 && !c.r.busy.isEmpty) = false
  cases h0 : c.gen0 with
  | false => rfl
  | true => rw [hg h0]; rfl

/-! ### A step of the row in program order -/

theorem issueStep_blocked {w : Word} (h : s.ctxOf r = some c) (hw : s.codeWord c.fld c.ia = some w) (hb : c.blocked = true) :
    issueStep r s = issueRow r s := by
  simp only [issueStep, h, State.fetch_eq h, hw, hb, if_true]

theorem issueStep_past_end (h : s.ctxOf r = some c) (hw : s.codeWord c.fld c.ia = none) :
    issueStep r s = issueRow r s := by
  simp only [issueStep, h, State.fetch_eq h, hw]

theorem issueStep_held {w : Word} {k : Int} (h : s.ctxOf r = some c) (hw : s.codeWord c.fld c.ia = some w)
    (hb : c.blocked = false) (hk : s.sideHold c w = some k) : issueStep r s = .next ((s.issuing r).hold c k) := by
  simp only [issueStep, h, State.fetch_eq h, hw, hb, hk, Bool.false_eq_true, if_false]

theorem issueStep_issues {w : Word} {t : State} (h : s.ctxOf r = some c) (hw : s.codeWord c.fld c.ia = some w)
    (hb : c.blocked = false) (hk : s.sideHold c w = none) (ht : issueRow r s = .next t) :
    issueStep r s = .next (t.settled c w true) := by
  simp only [issueStep, h, State.fetch_eq h, hw, hb, hk, ht, Bool.false_eq_true, if_false]

theorem issueStep_stops {w : Word} (h : s.ctxOf r = some c) (hw : s.codeWord c.fld c.ia = some w)
    (hb : c.blocked = false) (hk : s.sideHold c w = none) (ht : ∀ t, issueRow r s ≠ .next t) :
    issueStep r s = issueRow r s := by
  simp only [issueStep, h, State.fetch_eq h, hw, hb, hk, Bool.false_eq_true, if_false]

/-! ### After the issue -/

/-- The row after its issue: its side's count, its queues, and its scalar side's work. -/
def settledRow (c : Ctx) (w : Word) (x : Row) : Row :=
  { x with
    ahead := keepAhead c w x, vs := nextVs c w x
    waitS := if c.scalar w then 0 else x.waitS, waitV := if c.scalar w then x.waitV else 0 }

theorem State.leftCode_frame (s : State) (c : Ctx) (x : Row) :
    (s.leftCode c x).mem = s.mem ∧ (s.leftCode c x).host = s.host ∧ (s.leftCode c x).gangs = s.gangs := by
  unfold State.leftCode
  split <;> exact ⟨rfl, rfl, rfl⟩

/-- The unit of a word that has issued for the first time is taken. -/
def State.unitTaken (s : State) (c : Ctx) (w : Word) (first : Bool) : State :=
  if first then (match unitOfWord (c.scalar w) w with | some u => s.useUnit c.core u | none => s) else s

theorem State.unitTaken_frame (s : State) (c : Ctx) (w : Word) (b : Bool) :
    (s.unitTaken c w b).mem = s.mem ∧ (s.unitTaken c w b).host = s.host ∧ (s.unitTaken c w b).gangs = s.gangs := by
  unfold State.unitTaken
  split
  · split <;> exact ⟨rfl, rfl, rfl⟩
  · exact ⟨rfl, rfl, rfl⟩

theorem State.settled_eq (t : State) (c : Ctx) (w : Word) (fresh : Bool) : t.settled c w fresh = match t.row? c.ref with
    | none => t
    | some x => if x.wait.isSome || x.fault.isSome then t else
        ((t.modRow c.ref (settledRow c w)).unitTaken c w (fresh && x.handler == c.r.handler)).leftCode c x := rfl

/-- Nothing changes after the issue of a row that waits; of another, its row, the use of a unit and the code it has left. -/
theorem State.settled_frame (t : State) (c : Ctx) (w : Word) (fresh : Bool) :
    (t.settled c w fresh).mem = t.mem ∧ (t.settled c w fresh).host = t.host ∧
      ((t.settled c w fresh).gangs = t.gangs ∨ (t.settled c w fresh).gangs = (t.modRow c.ref (settledRow c w)).gangs) := by
  rw [State.settled_eq]
  cases t.row? c.ref with
  | none => exact ⟨rfl, rfl, .inl rfl⟩
  | some x =>
    dsimp only
    split
    · exact ⟨rfl, rfl, .inl rfl⟩
    · obtain ⟨hm, hh, hg⟩ := State.unitTaken_frame (t.modRow c.ref (settledRow c w)) c w (fresh && x.handler == c.r.handler)
      obtain ⟨hm', hh', hg'⟩ := State.leftCode_frame
        ((t.modRow c.ref (settledRow c w)).unitTaken c w (fresh && x.handler == c.r.handler)) c x
      exact ⟨hm'.trans hm, hh'.trans hh, .inr (hg'.trans hg)⟩

/-- Of each row no more than that has changed. -/
theorem State.settled_row {t : State} {c : Ctx} {w : Word} {fresh : Bool} {q : RowRef} {y : Row} (h : t.row? q = some y) :
    ∃ z, (t.settled c w fresh).row? q = some z ∧
      { z with ahead := y.ahead, vs := y.vs, waitS := y.waitS, waitV := y.waitV } = y := by
  obtain ⟨-, -, hg | hg⟩ := State.settled_frame t c w fresh
  · exact ⟨y, (State.row?_of_gangs hg q).trans h, rfl⟩
  · rw [State.row?_of_gangs hg q]
    by_cases hq : q = c.ref
    · subst hq
      exact ⟨_, State.row?_modRow h rfl, rfl⟩
    · exact ⟨y, (State.row?_modRow_other (f := settledRow c w) (fun _ _ => rfl) hq).trans h, rfl⟩

end

/-! ### A word in reach of the next step (log 1) -/

section
variable (s : State) (w : Word)

/-- The place of the row that stands at the word. -/
def probeRef : RowRef := ⟨probeGid, 0, 0⟩

/-- The state in which that row issues: time has passed. -/
def State.probed : State := { (s.probe w).tick with agenda := [] }

theorem mem_allRows {s : State} {q : RowRef × Gang × Block × Row} (h : q ∈ s.allRows) :
    q.2.1 ∈ s.gangs ∧ q.2.2.1 ∈ q.2.1.blocks ∧ q.2.2.2 ∈ q.2.2.1.rows := by
  obtain ⟨g, hg, hq⟩ := List.mem_flatMap.mp h
  obtain ⟨b, hb, hq⟩ := List.mem_flatMap.mp hq
  obtain ⟨x, hx, rfl⟩ := List.mem_map.mp hq
  exact ⟨hg, hb, hx⟩

/-- No watchdog has counted. -/
theorem State.probe_stall {q : RowRef × Gang × Block × Row} (h : q ∈ (s.probe w).allRows) : q.2.2.2.stall = 0 := by
  obtain ⟨hg, hb, hx⟩ := mem_allRows h
  generalize q.2.2.2 = x at hx
  generalize q.2.2.1 = b at hb hx
  generalize q.2.1 = g at hg hb
  rcases List.mem_cons.mp hg with rfl | hg
  · obtain rfl := List.mem_singleton.mp hb
    obtain rfl := List.mem_singleton.mp hx
    rfl
  · obtain ⟨g, -, rfl⟩ := List.mem_map.mp hg
    obtain ⟨b, -, rfl⟩ := List.mem_map.mp hb
    obtain ⟨x, -, rfl⟩ := List.mem_map.mp hx
    rfl

theorem State.probe_stallDue : (s.probe w).stallDue = none := by
  unfold State.stallDue
  rw [List.find?_eq_none.mpr fun q hq => ?_, Option.map_none]
  rw [State.probe_stall s w hq]
  simp

/-- The other gangs stand on other cores. -/
theorem besideProbe_core {gs : List Gang} {g : Gang} (hg : g ∈ besideProbe gs) {b : Block} (hb : b ∈ g.blocks) : b.core ≠ 0 := by
  obtain ⟨x, hx, rfl⟩ := List.mem_map.mp hg
  obtain ⟨y, hy, rfl⟩ := List.mem_map.mp hb
  have hall := (List.mem_filter.mp hx).2
  simp only [Bool.and_eq_true, List.all_eq_true] at hall
  simpa using hall.2 y hy

theorem tickGang_core {cyc : Nat → Nat} {g : Gang} (h : ∀ b ∈ g.blocks, b.core ≠ 0) {b : Block}
    (hb : b ∈ (tickGang cyc g).blocks) : b.core ≠ 0 := by
  obtain ⟨y, hy, rfl⟩ := List.mem_map.mp hb
  exact h y hy

theorem State.rowsOn_cons {s : State} {g : Gang} {gs : List Gang} {core : Nat} (hs : s.gangs = g :: gs)
    (h : ∀ x ∈ gs, ∀ b ∈ x.blocks, b.core ≠ core) : s.rowsOn core = { s with gangs := [g] }.rowsOn core := by
  have hnone : (gs.flatMap (fun g => g.blocks.flatMap (fun b => b.rows.map (fun r =>
      ((⟨g.gid, b.blk, r.row⟩ : RowRef), g, b, r))))).filter (fun q => q.2.2.1.core == core) = [] := by
    refine List.filter_eq_nil_iff.mpr fun q hq => ?_
    obtain ⟨g, hg, hq⟩ := List.mem_flatMap.mp hq
    obtain ⟨b, hb, hq⟩ := List.mem_flatMap.mp hq
    obtain ⟨x, hx, rfl⟩ := List.mem_map.mp hq
    simpa using h g hg b hb
  simp only [State.rowsOn, State.allRows, hs, List.flatMap_cons, List.filter_append, hnone, List.flatMap_nil,
    List.filter_nil]

theorem State.probed_gangs : ∃ cyc, (s.probed w).gangs = tickGang cyc (probeGang w) :: (besideProbe s.gangs).map (tickGang cyc) :=
  ⟨_, rfl⟩

theorem State.probed_rowsOn : ∃ g x, (s.probed w).rowsOn 0 = [(probeRef, g, x)] := by
  obtain ⟨cyc, hcyc⟩ := State.probed_gangs s w
  rw [State.rowsOn_cons hcyc fun x hx b hb => ?_]
  · exact ⟨_, _, rfl⟩
  · obtain ⟨g, hg, rfl⟩ := List.mem_map.mp hx
    exact tickGang_core (fun _ => besideProbe_core hg) hb

theorem State.probed_block : ∃ b, (s.probed w).block? probeRef = some b ∧ b.core = 0 := ⟨_, rfl, rfl⟩

theorem State.probed_turnOf : (s.probed w).turnOf probeRef = (probeRef, s.probed w) := by
  obtain ⟨b, hb, hcore⟩ := State.probed_block s w
  obtain ⟨g, x, hx⟩ := State.probed_rowsOn s w
  exact State.turnOf_alone hb (hcore ▸ hx)

theorem State.probed_ranOf : (s.probed w).ranOf probeRef = 0 := rfl

/-- Its next step is the issue of the row that stands at it. -/
theorem step_probe : step (s.probe w) = issueStep probeRef (s.probed w) := by
  rw [step_agenda (State.probe_stallDue s w) rfl]
  show ((s.probed w).turnOf probeRef).2.sideStep ((s.probed w).scalarNext probeRef) ((s.probed w).turnOf probeRef).1 = _
  rw [State.probed_turnOf]
  cases hn : (s.probed w).scalarNext probeRef with
  | true => exact State.sideStep_scalar hn
  | false => exact State.sideStep_vector (State.probed_ranOf s w)

/-- And the row fetches it. -/
theorem State.probed_fetch (hf : 0 < s.fields.length) : ∃ c, (s.probed w).ctxOf probeRef = some c ∧ c.blocked = false ∧
    (s.probed w).codeWord c.fld c.ia = some w := by
  refine ⟨_, rfl, rfl, ?_⟩
  obtain ⟨f, fs, hfs⟩ := List.exists_cons_of_length_pos hf
  have hfields : (s.probed w).fields = { f with slots := probeSlot w :: f.slots.filter (fun x => x.slot != 0) } :: fs := by
    show modAt s.fields 0 _ = _
    rw [hfs]
    rfl
  show (s.probed w).codeWord 0 ⟨1, 0, 0⟩ = some w
  unfold State.codeWord State.gener? State.slot? State.fieldSt
  rw [hfields]
  rfl

end

/-- Settles O54: the issue of a row is `exec` of its decoded word, held or settled by its side. -/
theorem stepRunsDecoded : Obligations.StepRunsDecoded := by
  unfold Obligations.StepRunsDecoded
  refine ⟨fun s r c h => ?_, fun t c w => ?_, fun s w hf => ?_⟩
  · intro u
    refine ⟨rfl, fun w i hw hi => ?_, fun hw hb ha hg => ?_⟩
    · have hrow := issueRow_decoded h hw hi
      refine ⟨fun hb => (issueStep_blocked h hw hb).trans hrow, fun k hb => issueStep_held h hw hb,
        fun hb hk => ⟨fun t ht => ?_, fun ht => ?_⟩⟩
      · exact issueStep_issues h hw hb hk (hrow.trans ht)
      · exact (issueStep_stops h hw hb hk (by rwa [hrow])).trans hrow
    · refine ⟨_, State.ctxOf_issuing h, ?_⟩
      rw [issueStep_past_end h hw, issueRow_past_end h hw]
      exact withRow_error (State.issuing_issues h hb ha hg) rfl
  · obtain ⟨hm, hh, -⟩ := State.settled_frame t c w true
    exact ⟨hm, hh, fun q y => State.settled_row⟩
  · intro u
    exact ⟨step_probe s w, State.probed_ranOf s w, State.probed_fetch s w hf⟩

end Sys2Proof.Machine
end

section
/-! ## Privileged instructions (O39)

The checks that REPLAY, TLBI, CTXS and CTXR share, TLBI after its issue, and a replayed entry. -/
namespace Sys2Proof.Machine

/-! ### The issue (06 R109, 23 R407) -/

/-- The sources of a privileged instruction. -/
def privSrcs (f : FA) (hasB : Bool) : List Int := [f.a] ++ (if hasB then [f.b] else [])
/-- The registers it names. -/
def privUses (f : FA) (hasD hasB : Bool) : List Use := (if hasD then [dst f.dst] else []) ++ (privSrcs f hasB).map src
/-- Its other fields hold what they may. -/
def privFields (c : Ctx) (f : FA) (hasD hasB : Bool) : Bool :=
  predOk f.pred && (if hasD then scaDst c f.dst else f.dst == 0) && (hasB || f.b == 0) && rowSrcs c (privSrcs f hasB) &&
    c.r.pfx.isNone

/-- Its checks on the issuing row, and what it means there. -/
def privBody (s : State) (f : FA) (hasD hasB : Bool) (go : Ctx → Except Trap State) (c : Ctx) : Except Trap State := do
  gate c false (privUses f hasD hasB) (privFields c f hasD hasB) {}
  need (c.core == mgmtCore) ⟨.prot, some (wval (Config.freeWord s.steps)), none⟩
  if usesBusy c (privUses f hasD hasB) then .ok (s.hold c 11)
  else if flagWait c f.pred c.e.fb then .ok (s.hold c 2 c.e.fb)
  else
    need (uniform c (privSrcs f hasB)) (Trap.nonUniform c)
    let acts ← rowActs c f.pred
    if !acts then .ok (s.finish c c.r) else go c

/-- On the management core a row that acts passes the checks. -/
def PrivGoes (c : Ctx) (f : FA) (hasD hasB : Bool) : Prop :=
  c.core = 960 ∧ Free c false (privUses f hasD hasB) (privFields c f hasD hasB) {} ∧ flagFull c.r c.e.fb = false ∧
    uniform c (privSrcs f hasB) = true ∧ rowActs c f.pred = .ok true

section
variable {s t : State} {c : Ctx} {f : FA} {hasD hasB : Bool} {go : Ctx → Except Trap State}

theorem privileged_eq : privileged s f hasD hasB go = withRow s (privBody s f hasD hasB go) := rfl

/-- On a compute core it traps PROT. -/
theorem privileged_prot (h : Issuing s c) (hl : Legal c false (privUses f hasD hasB) (privFields c f hasD hasB) {})
    (hc : c.core ≠ 960) : ∃ x : Int, privileged s f hasD hasB go = .next (takeTrap s c ⟨.prot, some x, none⟩) := by
  refine ⟨wval (Config.freeWord s.steps), privileged_eq.trans (withRow_error h ?_)⟩
  unfold privBody
  rw [gate_ok hl, bind_ok, show (c.core == mgmtCore) = false from beq_eq_false_iff_ne.mpr hc, need_false, bind_error]

theorem PrivGoes.body (h : PrivGoes c f hasD hasB) : privBody s f hasD hasB go c = go c := by
  obtain ⟨hc, ⟨hl, hbusy⟩, hflag, hu, ha⟩ := h
  have hcore : (c.core == mgmtCore) = true := beq_iff_eq.mpr hc
  have hwait : flagWait c f.pred c.e.fb = false := by simp [flagWait, hflag]
  simp [privBody, gate_ok hl, hcore, hbusy, hwait, hu, ha]

theorem privileged_ok (h : Issuing s c) (hp : PrivGoes c f hasD hasB) (hgo : go c = .ok t) :
    privileged s f hasD hasB go = .next t :=
  privileged_eq.trans (withRow_ok h (hp.body.trans hgo))

theorem privileged_error {e : Trap} (h : Issuing s c) (hp : PrivGoes c f hasD hasB) (hgo : go c = .error e) :
    privileged s f hasD hasB go = .next (takeTrap s c e) :=
  privileged_eq.trans (withRow_error h (hp.body.trans hgo))

/-! ### REPLAY (23 R408) -/

theorem tokenOk_eq {a b : Int} : tokenOk a b = decide (0 ≤ a ∧ a ≤ 11 ∧ field b 9 18 = 0) := by
  rw [Bool.eq_iff_iff]
  simp [tokenOk, and_assoc]

theorem execReplayTok_bad (h : Issuing s c) (hp : PrivGoes c f true true) (hb : tokenOk (rdRow c f.a) (rdRow c f.b) = false) :
    execReplayTok f s = .next (takeTrap s c Trap.illmod) :=
  privileged_error h hp (by simp [hb])

theorem execReplayFail_bad (h : Issuing s c) (hp : PrivGoes c f true true) (hb : tokenOk (rdRow c f.a) (rdRow c f.b) = false) :
    execReplayFail f s = .next (takeTrap s c Trap.illmod) :=
  privileged_error h hp (by simp [hb])

/-- REPLAY with what it does to the entry its token names, if there is one. -/
def State.onToken (s : State) (c : Ctx) (f : FA) (entry : State → Nat → Int → State) : State :=
  match s.tokenEntry (rdRow c f.a).toNat (rdRow c f.b) with
  | some w => (entry (s.finish c c.r) (rdRow c f.a).toNat w.idx).privDone c f.dst 1
  | none => (s.finish c c.r).privDone c f.dst 0

theorem execReplayTok_acts (h : Issuing s c) (hp : PrivGoes c f true true) (hb : tokenOk (rdRow c f.a) (rdRow c f.b) = true) :
    execReplayTok f s = .next (s.onToken c f State.replayEntry) :=
  privileged_ok h hp (by simp only [hb, need_true, bind_ok]; rfl)

theorem execReplayFail_acts (h : Issuing s c) (hp : PrivGoes c f true true) (hb : tokenOk (rdRow c f.a) (rdRow c f.b) = true) :
    execReplayFail f s = .next (s.onToken c f State.failEntry) :=
  privileged_ok h hp (by simp only [hb, need_true, bind_ok]; rfl)

theorem execReplayPage_acts (h : Issuing s c) (hp : PrivGoes c f true true) (ha : 0 ≤ rdRow c f.a ∧ rdRow c f.a ≤ 11) :
    execReplayPage f s = .next (((s.pageEntries (rdRow c f.a).toNat (rdRow c f.b)).foldl (fun t e => t.replayEntry e.1 e.2)
      (s.finish c c.r)).privDone c f.dst ((s.pageEntries (rdRow c f.a).toNat (rdRow c f.b)).length : Int)) :=
  privileged_ok h hp (by simp only [decide_eq_true ha, need_true, bind_ok])

/-! ### TLBI issues (23 R409) -/

theorem tlbi_acts {va : Ctx → Option Word} (h : Issuing s c) (hp : PrivGoes c f false hasB)
    (ha : 0 ≤ rdRow c f.a ∧ rdRow c f.a ≤ 11) :
    tlbi s f hasB va = .next (s.finish c (({ c.r with
      fifo := c.r.fifo ++ [markEntry s c 4]
      tlbis := c.r.tlbis ++ [(⟨(rdRow c f.a).toNat, va c, c.e.fb, s.steps, none⟩ : TlbiOp)] } : Row).flagUp c.e.fb)) :=
  privileged_ok h hp (by simp only [decide_eq_true ha, need_true, bind_ok]; rfl)

end

/-! ### The removals of a TLBI -/

section
variable {s : State} {p : TlbEntry → Bool}

/-- An entry of a map after a change of one key is an entry as before, or the new one. -/
theorem mem_amSet {β : Type} [DecidableEq β] {d v : β} {m : List (Nat × β)} {a : Nat} {k : Nat × β} (h : k ∈ amSet d m a v) :
    k ∈ m ∨ k.2 = v := by
  induction m with
  | nil =>
    unfold amSet at h
    split at h
    · exact .inl h
    · exact .inr (by rw [List.mem_singleton.mp h])
  | cons q r ih =>
    unfold amSet at h
    split at h
    · split at h
      · exact .inl h
      · rcases List.mem_cons.mp h with rfl | h
        · exact .inr rfl
        · exact .inl h
    · split at h
      · split at h
        · exact .inl (List.mem_cons_of_mem _ h)
        · rcases List.mem_cons.mp h with rfl | h
          · exact .inr rfl
          · exact .inl (List.mem_cons_of_mem _ h)
      · rcases List.mem_cons.mp h with rfl | h
        · exact .inl List.mem_cons_self
        · exact (ih h).imp_left (List.mem_cons_of_mem _)

/-- The caches of several units after the removals hold no entry that is removed. -/
theorem mem_keyed {l m : List (Nat × List TlbEntry)} (hm : ∀ k ∈ m, ∀ e ∈ k.2, p e = false) {k : Nat × List TlbEntry}
    (h : k ∈ l.foldl (fun m q => amSet [] m q.1 (q.2.filter (fun t => !p t))) m) {e : TlbEntry} (he : e ∈ k.2) :
    p e = false := by
  induction l generalizing m with
  | nil => exact hm k h e he
  | cons q l ih =>
    refine ih (fun k hk e he => ?_) h
    rcases mem_amSet hk with hk | hk
    · exact hm k hk e he
    · rw [hk] at he
      simpa using (List.mem_filter.mp he).2

theorem State.dropEntries_tlb :
    (∀ k ∈ (s.dropEntries p).cores, ∀ e ∈ k.tlb, p e = false) ∧
    (∀ k ∈ (s.dropEntries p).quadTlb, ∀ e ∈ k.2, p e = false) ∧
    ∀ k ∈ (s.dropEntries p).walker, ∀ e ∈ k.2, p e = false := by
  refine ⟨fun k hk e he => ?_, fun k hk e he => mem_keyed (m := []) (fun _ h => nomatch h) hk he,
    fun k hk e he => mem_keyed (m := []) (fun _ h => nomatch h) hk he⟩
  obtain ⟨k, -, rfl⟩ := List.mem_map.mp hk
  simpa using (List.mem_filter.mp he).2

/-- An entry that a TLBI leaves is of another field or of another address. -/
theorem TlbiOp.left {o : TlbiOp} {e : TlbEntry} (h : o.gone e = false) (hf : e.fld = o.fld) :
    ∃ va, o.va = some va ∧ e.unit ≠ unitOf e.level (wval va) := by
  unfold TlbiOp.gone at h
  split at h
  · simp [hf] at h
  · rename_i va hva
    exact ⟨va, hva, by simpa [hf] using h⟩

end

/-! ### TLBI goes on (23 R409) -/

section
variable {s : State} {r : RowRef} {g : Gang} {b : Block} {x : Row} {o : TlbiOp} {rest : List TlbiOp}

/-- With nothing parked and no atomic waiting, WAIT_FULL_RETRY is the step of the row's oldest TLBI. -/
theorem exec_waitFullRetry_tlbi (hg : s.gang? r.gid = some g) (hb : s.block? r = some b) (hx : s.row? r = some x)
    (ha : g.absent = false) (hp : x.parks = []) (hr : x.rels = []) : exec (.waitFullRetry r) s = .next (s.tlbiStep r) := by
  show execWaitFullRetry r s = _
  unfold execWaitFullRetry
  simp only [hg, hb, hx, ha, hp, hr, List.filter_nil, ite_self, Bool.false_eq_true, if_false]
  rfl

/-- The row once the removals of its TLBI are made. -/
def tlbiRemoved (n : Nat) (o : TlbiOp) (x : Row) : Row :=
  { x with tlbis := modFirst (· == o) (fun o => { o with done_ := some n }) x.tlbis }
/-- The row once its oldest TLBI is complete. -/
def tlbiCompleted (o : TlbiOp) (x : Row) : Row := { x with tlbis := x.tlbis.drop 1 }.flagDown o.flag

theorem tlbiRemoved_eq (n : Nat) (ho : x.tlbis = o :: rest) :
    tlbiRemoved n o x = { x with tlbis := { o with done_ := some n } :: rest } := by
  simp [tlbiRemoved, ho, modFirst]

/-- Of the row only its TLBIs and its flag change as one completes. -/
theorem tlbiCompleted_frame (w : Watch) (ho : x.tlbis = o :: rest) :
    let y := tlbiCompleted o { x with watch := w }
    y.row = x.row ∧ y.tlbis = rest ∧ y.flags = (x.flagDown o.flag).flags ∧ y.vregs = x.vregs ∧ y.sregs = x.sregs ∧
      y.pregs = x.pregs := by
  unfold tlbiCompleted Row.flagDown
  split <;> simp [ho]

variable (hx : s.row? r = some x) (ho : x.tlbis = o :: rest)
include hx ho

theorem State.tlbiStep_waits (hm : s.releaseMetAt r o.stamp = false) : s.tlbiStep r = s := by
  simp [State.tlbiStep, hx, ho, hm]

theorem State.tlbiStep_removes (hm : s.releaseMetAt r o.stamp = true) (hd : o.done_ = none) :
    s.tlbiStep r = ((s.flight 4).dropEntries o.gone).modRow r (tlbiRemoved s.steps o) := by
  simp only [State.tlbiStep, hx, ho, hm, hd, Option.bind_some, List.head?_cons, Bool.not_true, Bool.false_eq_true, if_false]
  rfl

theorem State.tlbiStep_uses {n : Nat} (hm : s.releaseMetAt r o.stamp = true) (hd : o.done_ = some n)
    (hu : s.usingOld o.fld o.range n = true) : s.tlbiStep r = s := by
  simp [State.tlbiStep, hx, ho, hm, hd, hu]

theorem State.tlbiStep_completes {n : Nat} (hm : s.releaseMetAt r o.stamp = true) (hd : o.done_ = some n)
    (hu : s.usingOld o.fld o.range n = false)
    (hs : s.snoopFirst true ((s.movingLines o.fld o.range).filter (fun l => !(s.partialsOf l).isEmpty)) = none) :
    s.tlbiStep r = (s.settleMoving o.fld o.range (s.movingLines o.fld o.range)).modRow r (tlbiCompleted o) := by
  simp only [State.tlbiStep, hx, ho, hm, hd, hu, hs, Option.bind_some, List.head?_cons, Bool.not_true, Bool.false_eq_true, if_false]
  rfl

end

/-! ### What the flush of partial lines leaves of a row (16 R287) -/

/-- A row without its watch. -/
def Row.unwatched (x : Row) : Row := { x with watch := Watch.off }
theorem Row.eq_of_unwatched {x y : Row} (h : y.unwatched = x.unwatched) : y = { x with watch := y.watch } :=
  congrArg (fun z : Row => { z with watch := y.watch }) h

/-- Every row of the device by its place, without its watch. -/
def State.rowsView (s : State) : List (Word × List (Nat × List Row)) :=
  s.gangs.map (fun g => (g.gid, g.blocks.map (fun b => (b.blk, b.rows.map Row.unwatched))))
/-- The row of a place. -/
def rowIn (v : List (Word × List (Nat × List Row))) (r : RowRef) : Option Row :=
  ((v.find? (fun g => g.1 == r.gid)).bind (fun g => g.2.find? (fun b => b.1 == r.blk))).bind
    (fun b => b.2.find? (fun x => x.row == r.row))

theorem rowIn_rowsView (s : State) (r : RowRef) : rowIn s.rowsView r = (s.row? r).map Row.unwatched := by
  unfold rowIn State.rowsView State.row? State.block? State.gang?
  rw [List.find?_map]
  simp only [Function.comp_def]
  cases s.gangs.find? (fun g => g.gid == r.gid) with
  | none => rfl
  | some g =>
    simp only [Option.map_some, Option.bind_some, List.find?_map, Function.comp_def]
    unfold Gang.block?
    cases g.blocks.find? (fun b => b.blk == r.blk) with
    | none => rfl
    | some b =>
      simp only [Option.map_some, Option.bind_some, List.find?_map, Function.comp_def]
      rfl

/-- A row is found again where the view is the same, and differs at most in its watch. -/
theorem State.row?_of_rowsView {s t : State} (h : t.rowsView = s.rowsView) {r : RowRef} {x : Row} (hx : s.row? r = some x) :
    ∃ y, t.row? r = some y ∧ y.unwatched = x.unwatched := by
  have hv := rowIn_rowsView t r
  rw [h, rowIn_rowsView, hx] at hv
  exact Option.map_eq_some_iff.mp hv.symm

section
variable (s : State)

theorem State.rowsView_of_gangs {s t : State} (h : t.gangs = s.gangs) : t.rowsView = s.rowsView := by
  rw [State.rowsView, h, State.rowsView]

/-- A change of the rows that leaves all but their watches. -/
theorem State.rowsView_mapRows {f : Gang → Row → Row} (hf : ∀ g x, (f g x).unwatched = x.unwatched) :
    ({ s with gangs := s.gangs.map (fun g => { g with blocks := g.blocks.map (fun b => { b with rows := b.rows.map (f g) }) }) }
      : State).rowsView = s.rowsView := by
  simp [State.rowsView, Function.comp_def, hf]

theorem State.trigger_rowsView (line : Loc) : (s.trigger line).rowsView = s.rowsView :=
  s.rowsView_mapRows fun g x => by dsimp only; split <;> rfl

/-- A block whose partial for a line is gone. -/
def Block.dropPartial (line : Loc) (b : Block) : Block := { b with partials := b.partials.filter (fun q => q.line != line) }

theorem State.dropPartial_rowsView (who : RowRef) (line : Loc) :
    (s.modBlock who (Block.dropPartial line)).rowsView = s.rowsView := by
  have hblocks : ∀ g : Gang, (modFirst (fun b => b.blk == who.blk) (Block.dropPartial line) g.blocks).map
      (fun b => (b.blk, b.rows.map Row.unwatched)) = g.blocks.map (fun b => (b.blk, b.rows.map Row.unwatched)) :=
    fun g => map_modFirst (fun _ => by rfl) _
  exact map_modFirst (g := (·.modBlock who.blk (Block.dropPartial line)))
    (k := fun g => (g.gid, g.blocks.map (fun b => (b.blk, b.rows.map Row.unwatched)))) (fun g => Prod.ext rfl (hblocks g)) _

theorem State.setHostByte_gangs (a v : Nat) : (s.setHostByte a v).gangs = s.gangs := rfl
theorem State.dropCopies_gangs (core : Nat) (ls : List Loc) : (s.dropCopies core ls).gangs = s.gangs := rfl
theorem State.dropCopies_mem (core : Nat) (ls : List Loc) : (s.dropCopies core ls).mem = s.mem := rfl

theorem State.setHostBlock_gangs (o : Nat) (bs : List Nat) : (s.setHostBlock o bs).gangs = s.gangs := by
  unfold State.setHostBlock
  exact foldl_keeps (p := State.gangs) (fun t i => t.setHostByte_gangs _ _) _ s

theorem State.putTrytes_gangs (l : Loc) (ws : List (Nat × Tryte)) : (s.putTrytes l ws).gangs = s.gangs := by
  unfold State.putTrytes
  split
  · rfl
  · rfl
  · exact foldl_keeps (p := State.gangs) (fun t w => t.setHostByte_gangs _ _) ws s
  · exact s.setHostBlock_gangs _ _
  · rfl

theorem State.evict_gangs (x : L2Line) : (s.evict x).gangs = s.gangs := (s.storeTag_writesBack x).keeps State.gangs rfl

theorem State.makeRoom_gangs (die slice line : Nat) : (s.makeRoom die slice line).gangs = s.gangs := by
  unfold State.makeRoom
  dsimp only
  split
  · rfl
  · split
    · rfl
    · split
      · rfl
      · exact s.evict_gangs _

theorem State.l2Write_gangs (l : Loc) (c : Bool) : (s.l2Write l c).gangs = s.gangs := by
  unfold State.l2Write State.l2Fill
  split
  · rfl
  · exact s.makeRoom_gangs _ _ _

theorem State.homePut_rowsView (line : Loc) (ws : List (Nat × Tryte)) (c : Bool) : (s.homePut line ws c).rowsView = s.rowsView := by
  unfold State.homePut
  rw [State.trigger_rowsView]
  exact State.rowsView_of_gangs ((State.l2Write_gangs _ line c).trans (s.putTrytes_gangs line ws))

theorem State.flushOne_rowsView (who : RowRef) (line : Loc) : (s.flushOne who line).rowsView = s.rowsView := by
  unfold State.flushOne
  split
  · rfl
  · dsimp only
    split
    · refine (State.dropPartial_rowsView _ who line).trans ?_
      exact State.rowsView_of_gangs (s.log_gangs ..)
    · split
      · refine (State.dropPartial_rowsView _ who line).trans ?_
        exact State.rowsView_of_gangs (s.log_gangs ..)
      · refine (State.dropPartial_rowsView _ who line).trans ?_
        exact s.homePut_rowsView line _ _

theorem State.flushLine_rowsView (line : Loc) : (s.flushLine line).rowsView = s.rowsView :=
  foldl_keeps (p := State.rowsView) (fun t w => t.flushOne_rowsView w line) _ s

/-- The lines of moving pages are settled without a change of a row but of its watch. -/
theorem State.settleMoving_rowsView (f : Nat) (p : Int → Bool) (ls : List Loc) : (s.settleMoving f p ls).rowsView = s.rowsView := by
  unfold State.settleMoving
  refine (State.rowsView_mapRows _ fun g x => by dsimp only; split <;> rfl).trans ?_
  refine (State.rowsView_of_gangs (foldl_keeps (p := State.gangs) (fun t h => t.dropCopies_gangs _ _) _ _)).trans ?_
  exact foldl_keeps (p := State.rowsView) (fun t l => t.flushLine_rowsView l) ls s

/-- With no line to settle memory is as it was. -/
theorem State.settleMoving_mem (f : Nat) (p : Int → Bool) : (s.settleMoving f p []).mem = s.mem := by
  unfold State.settleMoving
  exact foldl_keeps (p := State.mem) (fun t h => t.dropCopies_mem _ _) _ s

end

/-! ### A replayed entry (12 R228) -/

section
variable {s : State} {die : Nat} {i : Int}

theorem State.replayEntry_free : ∀ w ∈ ((s.replayEntry die i).die die).waits, w.idx = i → w.live = false := by
  intro w hw hi
  unfold State.replayEntry State.freeEntry at hw
  by_cases hd : die < (s.modRows (Row.replayed die i)).dies.length
  · rw [State.die_modDie_same hd] at hw
    obtain ⟨v, -, rfl⟩ := List.mem_map.mp hw
    by_cases hv : v.idx = i ∧ v.live = true
    · rw [if_pos hv]
    · rw [if_neg hv] at hi ⊢
      simpa [hi] using hv
  · rw [State.die, State.modDie, List.getD_eq_default _ _ (by rw [length_modAt]; omega)] at hw
    cases hw

theorem State.replayEntry_rows {q : RowRef × Gang × Block × Row} (hq : q ∈ (s.replayEntry die i).allRows) {f : FaultRec}
    (hf : q.2.2.2.fault = some f) : (die, i) ∉ f.units := by
  obtain ⟨hg, hb, hx⟩ := mem_allRows hq
  generalize q.2.2.2 = x at hx hf
  generalize q.2.2.1 = b at hb hx
  generalize q.2.1 = g at hg hb
  obtain ⟨g, -, rfl⟩ := List.mem_map.mp hg
  obtain ⟨b, -, rfl⟩ := List.mem_map.mp hb
  obtain ⟨x, -, rfl⟩ := List.mem_map.mp hx
  obtain ⟨f, -, rfl⟩ := Option.map_eq_some_iff.mp hf
  simp

end

/-! ### The statement -/

section
variable {s : State} {c : Ctx} {f : FA}

/-- REPLAY's fields, with both of its sources. -/
theorem privFields_both : privFields c f true true =
    (predOk f.pred && scaDst c f.dst && rowSrcs c [f.a, f.b] && c.r.pfx.isNone) := by
  simp [privFields, privSrcs]

theorem privileged_on_compute_core {hasD hasB : Bool} {i : Instr} {go : Ctx → Except Trap State} (h : Issuing s c) (hc : c.core ≠ 960)
    (hi : exec i s = privileged s f hasD hasB go) (hl : Legal c false (privUses f hasD hasB) (privFields c f hasD hasB) {}) :
    ∃ x : Int, exec i s = .next (takeTrap s c ⟨.prot, some x, none⟩) := by
  rw [hi]
  exact privileged_prot h hl hc

end

/-- Settles O39: the shared checks, each form of REPLAY and TLBI after them, the steps of a TLBI, and a replayed entry. -/
theorem privilegedResults : Obligations.PrivilegedResults := by
  unfold Obligations.PrivilegedResults
  refine ⟨fun s c f h hc q hq => ?_, ⟨fun s c f h hc ha => ⟨fun hf hflag hu => ?_, fun q hq hf hflag hu h0 h11 => ?_⟩,
    fun s r g b x o rest hg hb hx habs hp hr ho => ⟨fun hm => ?_, fun hm hd => ?_, fun n hm hd => ⟨fun huse => ?_, fun huse hs => ?_⟩⟩,
    fun s die i => ⟨State.replayEntry_free, fun q hq f => State.replayEntry_rows hq, State.tryteAt_of_memories rfl rfl rfl⟩⟩⟩
  · simp only [List.mem_cons, List.not_mem_nil, or_false] at hq
    intro srcs hl
    rcases hq with rfl | rfl | rfl | rfl | rfl | rfl | rfl | rfl | rfl
    · exact privileged_on_compute_core h hc (by unfold exec execReplayTok; rfl) hl
    · exact privileged_on_compute_core h hc (by unfold exec execReplayPage; rfl) hl
    · exact privileged_on_compute_core h hc (by unfold exec execReplayFail; rfl) hl
    · exact privileged_on_compute_core h hc (by unfold exec execTlbiFld tlbi; rfl) hl
    · exact privileged_on_compute_core h hc (by unfold exec execTlbiVa tlbi; rfl) hl
    · exact privileged_on_compute_core h hc (by unfold exec execCtxs ctxs; rfl) hl
    · exact privileged_on_compute_core h hc (by unfold exec execCtxsPort ctxs; rfl) hl
    · exact privileged_on_compute_core h hc (by unfold exec execCtxr ctxr; rfl) hl
    · exact privileged_on_compute_core h hc (by unfold exec execCtxrDrop ctxr; rfl) hl
  · rw [← privFields_both] at hf
    have hp : PrivGoes c f true true := ⟨hc, hf, hflag, hu, ha⟩
    intro done good
    refine ⟨fun hb => ?_, fun hb hn => ?_, fun w hb hw => ?_, fun h0 h11 => execReplayPage_acts h hp ⟨h0, h11⟩⟩
    · have hb : tokenOk (rdRow c f.a) (rdRow c f.b) = false := tokenOk_eq.trans (decide_eq_false hb)
      exact ⟨execReplayTok_bad h hp hb, execReplayFail_bad h hp hb⟩
    · have hb : tokenOk (rdRow c f.a) (rdRow c f.b) = true := tokenOk_eq.trans (decide_eq_true hb)
      have htok := execReplayTok_acts h hp hb
      have hfail := execReplayFail_acts h hp hb
      rw [State.onToken, hn] at htok hfail
      exact ⟨htok, hfail⟩
    · have hb : tokenOk (rdRow c f.a) (rdRow c f.b) = true := tokenOk_eq.trans (decide_eq_true hb)
      have htok := execReplayTok_acts h hp hb
      have hfail := execReplayFail_acts h hp hb
      rw [State.onToken, hw] at htok hfail
      exact ⟨htok, hfail⟩
  · simp only [List.mem_cons, List.not_mem_nil, or_false] at hq
    rcases hq with rfl | rfl
    · exact tlbi_acts (hasB := false) h ⟨hc, hf, hflag, hu, ha⟩ ⟨h0, h11⟩
    · exact tlbi_acts (hasB := true) h ⟨hc, hf, hflag, hu, ha⟩ ⟨h0, h11⟩
  · rw [exec_waitFullRetry_tlbi hg hb hx habs hp hr, State.tlbiStep_waits hx ho hm]
  · refine ⟨_, _, by rw [exec_waitFullRetry_tlbi hg hb hx habs hp hr, State.tlbiStep_removes hx ho hm hd],
      State.row?_modRow (s := (s.flight 4).dropEntries o.gone) hx rfl, rfl, tlbiRemoved_eq _ ho, ?_⟩
    obtain ⟨hc, hq, hw⟩ := State.dropEntries_tlb (s := s.flight 4) (p := o.gone)
    exact ⟨fun k hk e he => TlbiOp.left (hc k hk e he), fun k hk e he => TlbiOp.left (hq k hk e he),
      fun k hk e he => TlbiOp.left (hw k hk e he)⟩
  · rw [exec_waitFullRetry_tlbi hg hb hx habs hp hr, State.tlbiStep_uses hx ho hm hd huse]
  · obtain ⟨y, hy, hyx⟩ := State.row?_of_rowsView (s.settleMoving_rowsView o.fld o.range (s.movingLines o.fld o.range)) hx
    rw [Row.eq_of_unwatched hyx] at hy
    obtain ⟨hrow, hrest⟩ := tlbiCompleted_frame (rest := rest) y.watch ho
    obtain ⟨htlbis, hflags, hv, hsr, hpr⟩ := hrest
    refine ⟨_, _, by rw [exec_waitFullRetry_tlbi hg hb hx habs hp hr, State.tlbiStep_completes hx ho hm hd huse hs],
      State.row?_modRow hy hrow, htlbis, hflags, hv, hsr, hpr, fun hl => ?_⟩
    rw [hl]
    exact s.settleMoving_mem o.fld o.range

end Sys2Proof.Machine
end

section
/-! ## What computing instructions leave alone (O14)

The rows after an issue, a wait and a trap; the words that `computed`, `gathered` and `predicated` write; and the frame of
every instruction that `alu` runs. -/
namespace Sys2Proof.Machine

/-! ### Writes at several places of a list -/

section
variable {α : Type} {k : Nat → Nat} {y : Nat → α} {ts : List Nat} {l : List α}

theorem getElem?_foldl_set_other {i : Nat} (h : ∀ p ∈ ts, i ≠ k p) :
    (ts.foldl (fun l p => l.set (k p) (y p)) l)[i]? = l[i]? := by
  induction ts generalizing l with
  | nil => rfl
  | cons q ts ih =>
    rw [List.foldl_cons, ih fun p hp => h p (List.mem_cons_of_mem _ hp), List.getElem?_set_ne (h q List.mem_cons_self).symm]

theorem getElem?_foldl_set_mem (hk : ∀ p q, k p = k q → p = q) {p : Nat} (hp : p ∈ ts) (hl : k p < l.length) :
    (ts.foldl (fun l p => l.set (k p) (y p)) l)[k p]? = some (y p) := by
  induction ts generalizing l with
  | nil => cases hp
  | cons q ts ih =>
    rw [List.foldl_cons]
    by_cases hin : p ∈ ts
    · exact ih hin (by simpa using hl)
    · obtain rfl : p = q := (List.mem_cons.mp hp).resolve_right hin
      rw [getElem?_foldl_set_other fun r hr hkr => hin (hk p r hkr ▸ hr)]
      exact List.getElem?_set_self hl

/-- A write keeps every place but those excepted. -/
theorem getElem?_set_or {m : List α} {P : Prop} {i j : Nat} {v : α} (h : P ∨ l[j]? = m[j]?) (hi : j = i → P) :
    P ∨ (l.set i v)[j]? = m[j]? := by
  by_cases hj : j = i
  · exact .inl (hi hj)
  · rw [List.getElem?_set_ne (Ne.symm hj)]
    exact h

end

/-! ### The row that an instruction writes (06 R96, 11 R204) -/

theorem wrRegs_one (gen0 : Bool) (w : Nat) (r : Row) (d : Int) (p : Nat) (v : Int) :
    wrRegs gen0 w r d p [v] = wrReg gen0 w r d p v := by
  simp [wrRegs, succReg]

theorem Row.fxOf_raise_other (r : Row) {p q : Nat} (x : Fx) (h : q ≠ p) : (r.raise p x).fxOf q = r.fxOf q := by
  simp [Row.raise, Row.setFx, Row.fxOf, List.getD_eq_getElem?_getD, List.getElem?_set_ne h.symm]

/-- A row after writes of one register `d` by some threads, with their flags. -/
structure Computes (c : Ctx) (d : Int) (ts : List Nat) (x : Row) : Prop where
  rest : { x with fx := c.r.fx, vregs := c.r.vregs, sregs := c.r.sregs, pregs := c.r.pregs } = c.r
  fx : ∀ p, p ∉ ts → x.fxOf p = c.r.fxOf p
  sregs : ∀ j, (c.gen0 = false ∧ isSca d = true ∧ j = (-d - 1).toNat) ∨ x.sregs[j]? = c.r.sregs[j]?
  vregs : ∀ j, (∃ p ∈ ts, c.gen0 = false ∧ isVec d = true ∧ j = c.w * d.toNat + p) ∨ x.vregs[j]? = c.r.vregs[j]?
  pregs : ∀ j, (∃ p ∈ ts, c.gen0 = true ∧ j = c.w * (d + 121).toNat + p) ∨ x.pregs[j]? = c.r.pregs[j]?

section
variable {c : Ctx} {d pred : Int} {ts : List Nat} {x : Row} {g : Nat → List Int × Fx}

theorem Computes.refl : Computes c d ts c.r := ⟨rfl, fun _ _ => rfl, fun _ => .inr rfl, fun _ => .inr rfl, fun _ => .inr rfl⟩

theorem Computes.row (h : Computes c d ts x) : x.row = c.r.row := (congrArg Row.row h.rest :)

theorem Computes.mono {us : List Nat} (h : Computes c d ts x) (hs : ∀ p ∈ ts, p ∈ us) : Computes c d us x :=
  ⟨h.rest, fun p hp => h.fx p fun ht => hp (hs p ht), h.sregs,
    fun j => (h.vregs j).imp_left fun ⟨p, hp, hj⟩ => ⟨p, hs p hp, hj⟩,
    fun j => (h.pregs j).imp_left fun ⟨p, hp, hj⟩ => ⟨p, hs p hp, hj⟩⟩

theorem Computes.raise (h : Computes c d ts x) {p : Nat} (hp : p ∈ ts) (e : Fx) : Computes c d ts (x.raise p e) :=
  ⟨h.rest, fun q hq => (x.fxOf_raise_other e fun hqp : q = p => hq (hqp ▸ hp)).trans (h.fx q hq), h.sregs, h.vregs, h.pregs⟩

theorem Computes.raiseAll (h : Computes c d ts x) (e : Fx) : Computes c d ts (x.raiseAll ts e) :=
  List.foldlRecOn ts _ h fun _ hr _ hp => hr.raise hp e

theorem isVec_of_isSca (h : isSca d = true) : isVec d = false := by
  simp only [isSca, isVec, decide_eq_true_eq, decide_eq_false_iff_not] at h ⊢
  omega

/-- A write of `d` by one of the threads, or of a scalar register for the row. -/
theorem Computes.wrReg (h : Computes c d ts x) {p : Nat} (hp : p ∈ ts ∨ rowSide c d = true) (v : Int) :
    Computes c d ts (Sys2Proof.Machine.wrReg c.gen0 c.w x d p v) := by
  unfold Sys2Proof.Machine.wrReg
  cases h0 : c.gen0 with
  | true =>
    have hp : p ∈ ts := hp.resolve_right (by simp [rowSide, h0])
    exact ⟨h.rest, h.fx, h.sregs, h.vregs, fun j => getElem?_set_or (h.pregs j) fun hj => ⟨p, hp, h0, hj⟩⟩
  | false =>
    simp only [Bool.false_eq_true, if_false]
    split
    · rename_i hv
      have hp : p ∈ ts := hp.resolve_right fun hr => by
        rw [rowSide, Bool.and_eq_true] at hr
        rw [isVec_of_isSca hr.2] at hv
        cases hv
      exact ⟨h.rest, h.fx, h.sregs, fun j => getElem?_set_or (h.vregs j) fun hj => ⟨p, hp, h0, hv, hj⟩, h.pregs⟩
    · split
      · rename_i hs
        exact ⟨h.rest, h.fx, fun j => getElem?_set_or (h.sregs j) fun hj => ⟨h0, hs, hj⟩, h.vregs, h.pregs⟩
      · exact h

theorem Computes.perThread (hg : ∀ p, ∃ v, (g p).1 = [v]) : Computes c d (c.acting pred) (perThread c d pred g) := by
  refine List.foldlRecOn _ _ Computes.refl fun r hr p hp => ?_
  obtain ⟨v, hv⟩ := hg p
  rw [hv, wrRegs_one]
  exact (hr.wrReg (.inl hp) v).raise hp _

theorem Computes.perRow (hg : ∀ p, ∃ v, (g p).1 = [v]) (hd : rowSide c d = true) : Computes c d c.act (perRow c d g) := by
  obtain ⟨v, hv⟩ := hg (c.act.headD 0)
  have hw := (Computes.refl (c := c) (d := d) (ts := c.act)).wrReg (p := 0) (.inr hd) v
  rw [show c.gen0 = false by simpa [rowSide] using (Bool.and_eq_true_iff.mp hd).1] at hw
  unfold Sys2Proof.Machine.perRow
  rw [hv, wrRegs_one]
  exact hw.raiseAll _

end

/-! ### The row after an issue, a wait or a trap (07 R117, R125) -/

section
variable {s : State} {c : Ctx} {x : Row}

theorem State.row?_of_ctx? (h : s.ctx? = some c) : s.row? c.ref = some c.r := by
  obtain ⟨r, -, hr⟩ := Option.bind_eq_some_iff.mp h
  obtain ⟨rfl, -, hx⟩ := State.ctxOf_ref hr
  exact hx

/-- An issue is a change of its row alone. -/
theorem State.issued_row (h : s.ctx? = some c) (hx : x.row = c.r.row) (moves : List PcEntry) :
    (s.issued c x moves).row? c.ref =
      some (x.moved (movePct (s.age c.fld) (x.parkedAt c.e.addr) x.pct c.e moves)) :=
  State.row?_modRow (State.row?_of_ctx? h) hx

theorem State.trapped_eq (s : State) (c : Ctx) (x : Row) (b : Bool) (moves : List PcEntry) :
    ∃ pct, s.trapped c x b moves = s.modRow c.ref (fun _ => x.moved pct) := by
  unfold State.trapped
  split <;> exact ⟨_, rfl⟩

/-- What a change of the issuing row leaves as it was. -/
theorem State.modRow_frame (h : s.ctx? = some c) {f : Row → Row} (hf : (f c.r).row = c.r.row) :
    { s.modRow c.ref f with gangs := s.gangs } = s ∧ (∀ l, (s.modRow c.ref f).tryteAt l = s.tryteAt l) ∧
      ∀ r, r ≠ c.ref → (s.modRow c.ref f).row? r = s.row? r := by
  refine ⟨rfl, fun l => State.tryteAt_of_memories rfl rfl rfl l, fun r hr => State.row?_modRow_other (fun y hy => ?_) hr⟩
  obtain rfl := Option.some.inj ((State.row?_of_ctx? h).symm.trans hy)
  exact hf

end

/-! ### The group at the next word (07 R118) -/

theorem mem_insNat {a b : Nat} {l : List Nat} : a ∈ insNat b l ↔ a = b ∨ a ∈ l := by
  induction l with
  | nil => simp [insNat]
  | cons k l ih =>
    unfold insNat
    split
    · simp
    · split
      · rename_i h
        simp [h]
      · simp only [List.mem_cons, ih]
        tauto

theorem mem_joinEntry {x y : PcEntry} {p : Nat} (h : p ∈ y.threads) : p ∈ (joinEntry x y).threads := by
  have hfold : ∀ (ts l : List Nat), p ∈ ts ∨ p ∈ l → p ∈ ts.foldl (fun l t => insNat t l) l := by
    intro ts
    induction ts with
    | nil => intro l hl; simpa using hl
    | cons t ts ih =>
      intro l hl
      refine ih _ ?_
      rw [mem_insNat]
      rcases hl with hl | hl
      · rcases List.mem_cons.mp hl with rfl | hl
        · exact .inr (.inl rfl)
        · exact .inl hl
      · exact .inr (.inr hl)
  exact hfold y.threads x.threads (.inl h)

/-- A table into which a group has been inserted has an entry at its address that holds its threads. -/
theorem insEntry_has (age : CodeAddr → Nat) (n : PcEntry) (l : List PcEntry) :
    ∃ e ∈ insEntry age n l, e.addr = n.addr ∧ ∀ p ∈ n.threads, p ∈ e.threads := by
  induction l with
  | nil => exact ⟨n, List.mem_singleton_self n, rfl, fun _ h => h⟩
  | cons e l ih =>
    unfold insEntry
    split
    · rename_i he
      exact ⟨joinEntry e n, List.mem_cons_self, he, fun p => mem_joinEntry⟩
    · split
      · exact ⟨n, List.mem_cons_self, rfl, fun _ h => h⟩
      · obtain ⟨m, hm, hrest⟩ := ih
        exact ⟨m, List.mem_cons_of_mem _ hm, hrest⟩

theorem movePct_next {c : Ctx} (h : c.act ≠ []) (age : CodeAddr → Nat) (parked : List Nat) (pct : List PcEntry) :
    ∃ e ∈ movePct age parked pct c.e [c.next], e.addr = c.e.addr.plus ((c.k : Int) + 1) ∧ ∀ p ∈ c.act, p ∈ e.threads := by
  have hne : c.next.threads.isEmpty = false := by
    rw [List.isEmpty_eq_false_iff]
    exact h
  unfold movePct regroup
  rw [List.foldl_cons, hne]
  exact insEntry_has age c.next _

/-! ### Predicates of several threads (08 R148) -/

section
variable {r : Row} {n p : Nat}

theorem Row.q_setQ_same (t : Trit) (hp : p < r.qs.length) (hn : n < (r.qs.getD p []).length) : (r.setQ n p t).q n p = t := by
  unfold Row.q Row.setQ
  rw [getD_modAt_same hp, List.getD_eq_getElem?_getD, List.getElem?_set_self hn]
  rfl

theorem Row.q_setQ_other {m q : Nat} (t : Trit) (h : q ≠ p ∨ m ≠ n) : (r.setQ n p t).q m q = r.q m q := by
  unfold Row.q Row.setQ
  by_cases hq : q = p
  · subst hq
    have hm : m ≠ n := h.resolve_left (fun hn => hn rfl)
    refine getD_modAt_keeps (fun l : List Trit => l.getD m .zero) ?_
    simp only [List.getD_eq_getElem?_getD, List.getElem?_set_ne hm.symm]
  · rw [getD_modAt_other hq]

theorem Row.length_setQ (t : Trit) (q : Nat) : ((r.setQ n p t).qs.getD q []).length = (r.qs.getD q []).length :=
  getD_modAt_keeps List.length (by simp)

/-- The row after some threads have each written one predicate. -/
def Row.setQs (n : Nat) (g : Nat → Trit) (ts : List Nat) (r : Row) : Row := ts.foldl (fun r p => r.setQ n p (g p)) r

theorem Row.q_setQs_other {g : Nat → Trit} {ts : List Nat} {m q : Nat} (h : q ∉ ts ∨ m ≠ n) :
    (r.setQs n g ts).q m q = r.q m q :=
  List.foldlRecOn ts _ (motive := fun x : Row => x.q m q = r.q m q) rfl fun _ hx _ ht =>
    (Row.q_setQ_other _ (h.imp_left fun hq (hqt : q = _) => hq (hqt ▸ ht))).trans hx

theorem Row.q_setQs_mem {g : Nat → Trit} {ts : List Nat} (hp : p ∈ ts) (hl : p < r.qs.length)
    (hn : n < (r.qs.getD p []).length) : (r.setQs n g ts).q n p = g p := by
  induction ts generalizing r with
  | nil => cases hp
  | cons t ts ih =>
    show ((r.setQ n t (g t)).setQs n g ts).q n p = g p
    by_cases hin : p ∈ ts
    · exact ih hin (by simpa [Row.setQ] using hl) (by rwa [Row.length_setQ])
    · obtain rfl : p = t := (List.mem_cons.mp hp).resolve_right hin
      rw [Row.q_setQs_other (.inl hin), Row.q_setQ_same _ hl hn]

theorem Row.setQs_rest (g : Nat → Trit) (ts : List Nat) : { r.setQs n g ts with qs := r.qs } = r :=
  foldl_keeps (f := fun r p => r.setQ n p (g p)) (p := fun x : Row => { x with qs := r.qs }) (fun _ _ => rfl) ts r

end

/-! ### What `computed`, `gathered` and `predicated` mean in the row -/

section
variable {s : State} {c : Ctx} {d pred : Int}

theorem rowSide_of_isVec (h : isVec d = true) : rowSide c d = false := by
  rw [rowSide, Bool.and_eq_false_iff]
  refine .inr ?_
  rw [Bool.eq_false_iff]
  intro hs
  rw [isVec_of_isSca hs] at h
  cases h

/-- The vector registers after each acting thread has written its word. -/
theorem perThread_vregs (h0 : c.gen0 = false) (hd : isVec d = true) (v : Nat → Int) (x : Nat → Fx) :
    (perThread c d pred (fun p => ([v p], x p))).vregs =
      (c.acting pred).foldl (fun l p => l.set (c.w * d.toNat + p) (word (v p))) c.r.vregs := by
  refine (List.foldl_hom Row.vregs fun r p => ?_).symm
  rw [wrRegs_one, wrReg, h0, hd]
  rfl

theorem computed_vec (h : s.ctx? = some c) (v : Nat → Int) (x : Nat → Fx) (h0 : c.gen0 = false) (hd : isVec d = true) :
    ∃ r, (s.computed c d pred (fun p => ([v p], x p))).row? c.ref = some r ∧
      (∀ p ∈ c.acting pred, c.w * d.toNat + p < c.r.vregs.length → r.vreg c.w d.toNat p = word (v p)) ∧
      (∀ i, (∀ p ∈ c.acting pred, i ≠ c.w * d.toNat + p) → r.vregs[i]? = c.r.vregs[i]?) ∧
      (∀ p, p ∉ c.acting pred → r.fxOf p = c.r.fxOf p) ∧
      r.sregs = c.r.sregs ∧ r.pregs = c.r.pregs ∧ r.qs = c.r.qs ∧ r.flags = c.r.flags ∧ r.busy = c.r.busy ∧
      r.handler = c.r.handler := by
  have hcomp : Computes c d (c.acting pred) (perThread c d pred (fun p => ([v p], x p))) := Computes.perThread fun p => ⟨v p, rfl⟩
  have hvregs := perThread_vregs (pred := pred) h0 hd v x
  rw [State.computed, rowSide_of_isVec hd]
  generalize perThread c d pred (fun p => ([v p], x p)) = y at hcomp hvregs
  refine ⟨_, State.issued_row h hcomp.row [c.next], fun p hp hl => ?_, fun i hi => ?_, hcomp.fx, ?_, ?_,
    (congrArg Row.qs hcomp.rest :), (congrArg Row.flags hcomp.rest :), (congrArg Row.busy hcomp.rest :),
    (congrArg Row.handler hcomp.rest :)⟩
  · show y.vregs.getD (c.w * d.toNat + p) 0 = word (v p)
    rw [hvregs, List.getD_eq_getElem?_getD,
      getElem?_foldl_set_mem (k := fun p => c.w * d.toNat + p) (fun _ _ => Nat.add_left_cancel) hp hl]
    rfl
  · exact (hcomp.vregs i).resolve_left fun ⟨p, hp, _, _, hj⟩ => hi p hp hj
  · exact List.ext_getElem? fun j => (hcomp.sregs j).resolve_left fun ⟨_, hs, _⟩ => by simp [isVec_of_isSca hs] at hd
  · exact List.ext_getElem? fun j => (hcomp.pregs j).resolve_left fun ⟨_, _, hg, _⟩ => by simp [h0] at hg

theorem gathered_row (h : s.ctx? = some c) (v : Int) (h0 : c.gen0 = false) (hd : isSca d = true) :
    ∃ r, (s.gathered c d pred v).row? c.ref = some r ∧
      ((c.acting pred).length = c.act.length → (-d - 1).toNat < c.r.sregs.length → r.sreg (-d - 1).toNat = word v) ∧
      (∀ i, i ≠ (-d - 1).toNat → r.sregs[i]? = c.r.sregs[i]?) ∧
      r.vregs = c.r.vregs ∧ r.pregs = c.r.pregs ∧ r.qs = c.r.qs ∧ r.fx = c.r.fx ∧ r.flags = c.r.flags ∧
      r.handler = c.r.handler := by
  have hw : wrRow c.gen0 c.w c.r c.act d v = c.r.setS (-d - 1).toNat (word v) := by
    simp [wrRow, wrReg, h0, hd, isVec_of_isSca hd]
  rw [State.gathered, hw]
  by_cases ha : (c.acting pred).length = c.act.length
  · rw [if_pos ha]
    refine ⟨_, State.issued_row (x := c.r.setS (-d - 1).toNat (word v)) h rfl [c.next], fun _ hl => ?_,
      fun i hi => List.getElem?_set_ne hi.symm, rfl, rfl, rfl, rfl, rfl, rfl⟩
    show (c.r.sregs.set _ _).getD _ _ = _
    rw [List.getD_eq_getElem?_getD, List.getElem?_set_self hl]
    rfl
  · rw [if_neg ha]
    exact ⟨_, State.issued_row h rfl [c.next], fun hn => absurd hn ha, fun _ _ => rfl, rfl, rfl, rfl, rfl, rfl, rfl⟩

theorem predicated_row (h : s.ctx? = some c) (g : Nat → Trit) :
    ∃ r, (s.predicated c d pred g).row? c.ref = some r ∧
      (∀ p ∈ c.acting pred, p < c.r.qs.length → d.toNat < (c.r.qs.getD p []).length → r.q d.toNat p = g p) ∧
      (∀ p n, p ∉ c.acting pred ∨ n ≠ d.toNat → r.q n p = c.r.q n p) ∧
      r.vregs = c.r.vregs ∧ r.sregs = c.r.sregs ∧ r.pregs = c.r.pregs ∧ r.fx = c.r.fx ∧ r.flags = c.r.flags ∧
      r.handler = c.r.handler ∧
      (c.act ≠ [] → ∃ e ∈ r.pct, e.addr = c.e.addr.plus ((c.k : Int) + 1) ∧ ∀ p ∈ c.act, p ∈ e.threads) := by
  have hrest := Row.setQs_rest (r := c.r) (n := d.toNat) g (c.acting pred)
  refine ⟨_, State.issued_row h (x := c.r.setQs d.toNat g (c.acting pred)) (congrArg Row.row hrest :) [c.next],
    fun p hp => Row.q_setQs_mem hp, fun p n => Row.q_setQs_other, (congrArg Row.vregs hrest :), (congrArg Row.sregs hrest :),
    (congrArg Row.pregs hrest :), (congrArg Row.fx hrest :), (congrArg Row.flags hrest :), (congrArg Row.handler hrest :),
    fun hne => movePct_next hne _ _ _⟩

end

/-! ### The frame of a computing instruction (06 R92) -/

/-- What a computing instruction of destination `d` leaves of its own row. -/
def RowFrame (c : Ctx) (d : Int) (x : Row) : Prop :=
  { x with pct := c.r.pct, pfx := c.r.pfx, head := c.r.head, wait := c.r.wait, stall := c.r.stall, ahead := c.r.ahead
           handler := c.r.handler, fx := c.r.fx, vregs := c.r.vregs, sregs := c.r.sregs
           pregs := c.r.pregs } = c.r ∧
  (∀ p, p ∉ c.act → x.fxOf p = c.r.fxOf p) ∧
  (∀ j, (c.gen0 = false ∧ isSca d = true ∧ j = (-d - 1).toNat) ∨ x.sregs[j]? = c.r.sregs[j]?) ∧
  (∀ j, (∃ p ∈ c.act, c.gen0 = false ∧ isVec d = true ∧ j = c.w * d.toNat + p) ∨ x.vregs[j]? = c.r.vregs[j]?) ∧
  (∀ j, (∃ p ∈ c.act, c.gen0 = true ∧ j = c.w * (d + 121).toNat + p) ∨ x.pregs[j]? = c.r.pregs[j]?)

/-- And what it leaves of the device. -/
def ComputeFrame (s : State) (c : Ctx) (d : Int) (t : State) : Prop :=
  (∀ l, t.tryteAt l = s.tryteAt l) ∧
  { t with gangs := s.gangs, grids := s.grids, host := s.host, tileQ := s.tileQ } = s ∧
  (∀ q ∈ s.tileQ, (∀ g ∈ s.gangs, g.gid = q.who.gid → g.absent = false) → q ∈ t.tileQ) ∧
  { t.host with log := s.host.log, eloghead := s.host.eloghead, eloglost := s.host.eloglost } = s.host ∧
  (∀ r g, s.gang? r.gid = some g → g.absent = false → r ≠ c.ref → t.row? r = s.row? r) ∧
  ∃ x, t.row? c.ref = some x ∧ RowFrame c d x

section
variable {s t : State} {c : Ctx} {d : Int} {x : Row}

theorem Computes.rowFrame (h : Computes c d c.act x) (pct : List PcEntry) : RowFrame c d (x.moved pct) := by
  refine ⟨?_, h.fx, h.sregs, h.vregs, h.pregs⟩
  exact congrArg (fun y : Row => { y with
    pct := c.r.pct, pfx := c.r.pfx, head := c.r.head, wait := c.r.wait, stall := c.r.stall, ahead := c.r.ahead
    handler := c.r.handler }) h.rest

theorem RowFrame.row (h : RowFrame c d x) : x.row = c.r.row := (congrArg Row.row h.1 :)

/-- The frame of a change of the row. -/
theorem ComputeFrame.modRow (h : s.ctx? = some c) {f : Row → Row} (hf : RowFrame c d (f c.r)) :
    ComputeFrame s c d (s.modRow c.ref f) := by
  obtain ⟨-, hmem, hrow⟩ := State.modRow_frame h hf.row
  exact ⟨hmem, rfl, fun q hq _ => hq, rfl, fun r _ _ _ => hrow r, f c.r, State.row?_modRow (State.row?_of_ctx? h) hf.row, hf⟩

theorem ComputeFrame.refl (h : s.ctx? = some c) : ComputeFrame s c d s :=
  ⟨fun _ => rfl, rfl, fun _ hq _ => hq, rfl, fun _ _ _ _ _ => rfl, c.r, State.row?_of_ctx? h,
    rfl, fun _ _ => rfl, fun _ => .inr rfl, fun _ => .inr rfl, fun _ => .inr rfl⟩

theorem ComputeFrame.hold (h : s.ctx? = some c) (k : Int) : ComputeFrame s c d (s.hold c k) :=
  ComputeFrame.modRow h ⟨rfl, fun _ _ => rfl, fun _ => .inr rfl, fun _ => .inr rfl, fun _ => .inr rfl⟩

theorem ComputeFrame.finish (h : s.ctx? = some c) (hx : Computes c d c.act x) : ComputeFrame s c d (s.finish c x) :=
  ComputeFrame.modRow h (hx.rowFrame _)

/-! ### The frame of a trap -/

theorem ComputeFrame.trapped (h : s.ctx? = some c) (hd : Handler) (b : Bool) (moves : List PcEntry) :
    ComputeFrame s c d (s.trapped c { c.r with handler := hd, ahead := none } b moves) := by
  obtain ⟨pct, hpct⟩ := State.trapped_eq s c { c.r with handler := hd, ahead := none } b moves
  rw [hpct]
  exact ComputeFrame.modRow h ⟨rfl, fun _ _ => rfl, fun _ => .inr rfl, fun _ => .inr rfl, fun _ => .inr rfl⟩

/-- A log record changes the log and its counts alone. -/
theorem State.logRow_host (s : State) (k : Int) (r : RowRef) (pc i : Word) (l : Int) :
    ∃ h, s.logRow k r pc i l = { s with host := h } ∧
      { h with log := s.host.log, eloghead := s.host.eloghead, eloglost := s.host.eloglost } = s.host := by
  unfold State.logRow State.log
  dsimp only
  split <;> exact ⟨_, rfl, rfl⟩

theorem Gang.stopped_gid (n : Nat) (g : Gang) : (g.stopped n).gid = g.gid := by
  unfold Gang.stopped
  split
  · rfl
  · split <;> rfl

theorem Gang.stopped_blocks {n : Nat} {g : Gang} (h : g.absent = false) : (g.stopped n).blocks = g.blocks := by
  unfold Gang.stopped
  rw [h]
  split <;> rfl

/-- The end of a grid leaves the rows of a gang that stands on its cores. -/
theorem State.endGrid_row? {r : RowRef} {g : Gang} (hg : s.gang? r.gid = some g) (ha : g.absent = false) (n k : Nat) :
    (s.endGrid n k).row? r = s.row? r := by
  have hfind : (s.endGrid n k).gang? r.gid = some (g.stopped n) := by
    unfold State.gang? at hg ⊢
    rw [State.endGrid_gangs, List.find?_map]
    simp only [Function.comp_def, Gang.stopped_gid, hg, Option.map_some]
  unfold State.row? State.block?
  rw [hfind, hg, Option.bind_some, Option.bind_some]
  unfold Gang.block?
  rw [Gang.stopped_blocks ha]

theorem mem_tileQ_endGrid {n k : Nat} {q : TileReq} (hq : q ∈ s.tileQ)
    (h : ∀ g ∈ s.gangs, g.gid = q.who.gid → g.absent = false) : q ∈ (s.endGrid n k).tileQ := by
  refine List.mem_filter.mpr ⟨hq, ?_⟩
  rw [Bool.not_eq_true', List.contains_eq_mem, decide_eq_false_iff_not]
  intro hin
  obtain ⟨g, hg, hgid⟩ := List.mem_map.mp hin
  obtain ⟨hg, hgone⟩ := List.mem_filter.mp hg
  rw [h g hg hgid] at hgone
  simp at hgone

/-- The gang of a row that is not blocked stands on its cores. -/
theorem Ctx.not_absent (hb : c.blocked = false) : c.g.absent = false := by
  have hs : c.g.status = .resident := by
    simp only [Ctx.blocked, Bool.or_eq_false_iff, bne_eq_false_iff_eq] at hb
    exact hb.2
  rw [Gang.absent, hs]
  rfl

theorem ComputeFrame.endGrid (h : s.ctx? = some c) (hb : c.blocked = false) (k : Int) (pc i : Word) (l : Int) (n m : Nat) :
    ComputeFrame s c d ((s.logRow k c.ref pc i l).endGrid n m) := by
  obtain ⟨hst, heq, hhost⟩ := s.logRow_host k c.ref pc i l
  obtain ⟨r, -, hr⟩ := Option.bind_eq_some_iff.mp h
  obtain ⟨rfl, hg, -⟩ := State.ctxOf_eq_some.mp hr
  have hrow : ∀ r g, s.gang? r.gid = some g → g.absent = false →
      ((s.logRow k c.ref pc i l).endGrid n m).row? r = s.row? r := fun r g hg ha => by
    rw [heq]
    exact (State.endGrid_row? (s := { s with host := hst }) hg ha n m)
  refine ⟨fun l => ?_, ?_, fun q hq ha => ?_, ?_, fun r g hg ha _ => hrow r g hg ha, c.r,
    (hrow c.ref c.g hg (Ctx.not_absent hb)).trans (State.row?_of_ctx? h), rfl, fun _ _ => rfl, fun _ => .inr rfl,
    fun _ => .inr rfl, fun _ => .inr rfl⟩
  all_goals rw [heq]
  · exact State.tryteAt_of_memories rfl rfl rfl l
  · rfl
  · exact mem_tileQ_endGrid (s := { s with host := hst }) hq ha
  · exact hhost

theorem ComputeFrame.takeTrap (h : s.ctx? = some c) (hb : c.blocked = false) (e : Trap) :
    ComputeFrame s c d (takeTrap s c e) := by
  by_cases hf : c.g.lrec.hndl < 0 ∨ c.r.handler.active = true
  · rw [takeTrap_fatal hf]
    exact ComputeFrame.endGrid h hb ..
  · rw [not_or, not_lt, Bool.not_eq_true] at hf
    rw [takeTrap_handled hf.1 hf.2]
    exact ComputeFrame.trapped h ..

/-! ### The frame of `alu` -/

/-- What the issuing row may come to: nothing, a wait, what the meaning gives, or a trap. -/
theorem ComputeFrame.withRow {F : Ctx → Except Trap State} (h : s.ctx? = some c)
    (hF : ∀ t, F c = .ok t → ComputeFrame s c d t) (ht : withRow s F = .next t) : ComputeFrame s c d t := by
  unfold Sys2Proof.Machine.withRow at ht
  rw [h] at ht
  dsimp only at ht
  split at ht
  · cases ht
    exact ComputeFrame.refl h
  · rename_i hb
    split at ht
    · cases ht
      exact ComputeFrame.hold h 15
    · split at ht
      · cases ht
        exact ComputeFrame.hold h 11
      · split at ht
        · cases ht
          exact hF _ ‹_›
        · cases ht
          exact ComputeFrame.takeTrap h (by simpa using hb) _

/-- What passes a check goes on behind it. -/
theorem of_bind_eq_ok {ε α β : Type} {x : Except ε α} {f : α → Except ε β} {b : β} (h : (x >>= f) = .ok b) :
    ∃ a, x = .ok a ∧ f a = .ok b := by
  cases x with
  | error e => cases h
  | ok a => exact ⟨a, rfl, h⟩

/-- `alu` waits, or writes for the row or for its acting threads. -/
theorem alu_cases {a : Alu} {g : Nat → List Int × Fx} (ht : alu s c a g = .ok t) :
    t = s.hold c 11 ∨ t = s.finish c c.r ∨ (rowSide c a.dst = true ∧ t = s.finish c (perRow c a.dst g)) ∨
      t = s.finish c (perThread c a.dst a.pred g) := by
  obtain ⟨_, -, ht⟩ := of_bind_eq_ok ht
  split at ht
  · cases ht
    exact .inl rfl
  · split at ht
    · rename_i hd
      obtain ⟨acts, -, ht⟩ := of_bind_eq_ok ht
      cases ht
      cases acts with
      | true => exact .inr (.inr (.inl ⟨hd, rfl⟩))
      | false => exact .inr (.inl rfl)
    · cases ht
      exact .inr (.inr (.inr rfl))

/-- So its frame is that of one destination register. -/
theorem ComputeFrame.alu {a : Alu} {g : Nat → List Int × Fx} (h : s.ctx? = some c) (hg : ∀ p, ∃ v, (g p).1 = [v])
    (ht : alu s c a g = .ok t) : ComputeFrame s c a.dst t := by
  rcases alu_cases ht with rfl | rfl | ⟨hd, rfl⟩ | rfl
  · exact ComputeFrame.hold h 11
  · exact ComputeFrame.finish h Computes.refl
  · exact ComputeFrame.finish h (Computes.perRow hg hd)
  · exact ComputeFrame.finish h ((Computes.perThread hg).mono fun _ => List.mem_of_mem_filter)

section
variable {f : FA} {i : Instr} (h : s.ctx? = some c)
include h

theorem intAB_frame {types : Bool} {a : Accept} {g : Bool → Int → Int → Int × Fx} (ht : intAB s f types a g = .next t) :
    ComputeFrame s c f.dst t :=
  ComputeFrame.withRow h (fun _ hok => ComputeFrame.alu h (fun _ => ⟨_, rfl⟩) hok) ht

theorem intA_frame {fields : Bool} {a : Accept} {g : Bool → Int → Int × Fx} (ht : intA s f fields a g = .next t) :
    ComputeFrame s c f.dst t :=
  ComputeFrame.withRow h (fun _ hok => ComputeFrame.alu h (fun _ => ⟨_, rfl⟩) hok) ht

theorem floatAB_frame {types : Bool} {g : FKind → Int → Int → Int × Fx} (ht : floatAB s f types g = .next t) :
    ComputeFrame s c f.dst t :=
  ComputeFrame.withRow h (fun _ hok => ComputeFrame.alu h (fun _ => ⟨_, rfl⟩) hok) ht

theorem floatA_frame {fields : Bool} {g : FKind → Int → Int × Fx} (ht : floatA s f fields g = .next t) :
    ComputeFrame s c f.dst t :=
  ComputeFrame.withRow h (fun _ hok => ComputeFrame.alu h (fun _ => ⟨_, rfl⟩) hok) ht

/-- MOV of a special in generation 0 writes one portable register of each acting thread. -/
theorem execMov_frame (ht : execMov f s = .next t) : ComputeFrame s c f.dst t := by
  refine ComputeFrame.withRow h (fun u hok => ?_) ht
  split at hok
  · obtain ⟨_, -, hok⟩ := of_bind_eq_ok hok
    obtain ⟨_, -, hok⟩ := of_bind_eq_ok hok
    obtain ⟨_, -, hok⟩ := of_bind_eq_ok hok
    obtain ⟨_, -, hok⟩ := of_bind_eq_ok hok
    split at hok
    · cases hok
      exact ComputeFrame.hold h 11
    · cases hok
      exact ComputeFrame.finish h ((Computes.perThread fun _ => ⟨_, rfl⟩).mono fun _ => List.mem_of_mem_filter)
  · exact ComputeFrame.alu h (fun _ => ⟨_, rfl⟩) hok

end

end

/-- Settles O14: the frames of the row's changes, the words that each result writes, and `alu` for every instruction. -/
theorem issueComputeFrame : Obligations.IssueComputeFrame := by
  unfold Obligations.IssueComputeFrame
  refine ⟨fun s c x moves b kind flag slot h hx => ⟨fun t ht => ?_, fun t ht => ?_, ?_⟩,
    fun s c d pred h => ⟨computed_vec h, gathered_row h, predicated_row h⟩, fun s t c f h i hi ht => ?_⟩
  · simp only [List.mem_cons, List.not_mem_nil, or_false] at ht
    rcases ht with rfl | rfl | rfl | rfl
    · exact State.modRow_frame h hx
    · exact State.modRow_frame h hx
    · obtain ⟨pct, hpct⟩ := State.trapped_eq s c x b moves
      rw [hpct]
      exact State.modRow_frame h hx
    · exact State.modRow_frame h rfl
  · simp only [List.mem_cons, List.not_mem_nil, or_false] at ht
    rcases ht with rfl | rfl
    · exact ⟨_, State.issued_row h hx moves, rfl⟩
    · obtain ⟨pct, hpct⟩ := State.trapped_eq s c x b moves
      rw [hpct]
      exact ⟨_, State.row?_modRow (State.row?_of_ctx? h) hx, rfl⟩
  · exact ⟨_, State.row?_modRow (State.row?_of_ctx? h) rfl, rfl⟩
  · show ComputeFrame s c f.dst t
    simp only [List.mem_cons, List.not_mem_nil, or_false] at hi
    rcases hi with rfl | rfl | rfl | rfl | rfl | rfl | rfl | rfl | rfl | rfl | rfl | rfl | rfl | rfl | rfl | rfl | rfl | rfl |
      rfl | rfl | rfl | rfl | rfl | rfl | rfl | rfl | rfl | rfl | rfl | rfl | rfl | rfl | rfl | rfl | rfl
    all_goals unfold exec at ht
    iterate 10 exact intAB_frame h ht
    iterate 2 exact intA_frame h ht
    iterate 3 exact intAB_frame h ht
    · exact intA_frame h ht
    iterate 2 exact intAB_frame h ht
    · exact intA_frame h ht
    iterate 4 exact intAB_frame h ht
    · exact intA_frame h ht
    · exact execMov_frame h ht
    iterate 4 exact floatAB_frame h ht
    iterate 3 exact floatA_frame h ht
    iterate 2 exact floatAB_frame h ht
    · exact floatA_frame h ht

end Sys2Proof.Machine
end

section
/-! ## Trits and completed elements

The trits of fields, negated numbers and numbers built trit by trit (00 R2, R6); elements wrapped or saturated, with their flag
(08 R130, R132). -/
namespace Sys2Proof.Machine

/-! ### Trits (00 R2, R6) -/

theorem maxT_one : maxT 1 = 1 := by decide

theorem wrapT_zero (n : Nat) : wrapT n 0 = 0 := wrapT_of_abs_le (by simpa using maxT_nonneg n)

theorem abs_trit_le (x : Int) (i : Nat) : |trit x i| ≤ 1 := maxT_one ▸ abs_field_le x i 1

/-- A field within the low n trits is one of these trits' value. -/
theorem field_wrapT (x : Int) {lo m n : Nat} (h : lo + m ≤ n) : field (wrapT n x) lo m = field x lo m := by
  nth_rw 2 [← wrapT_add_dropT x n]
  exact (field_add_above h _ _).symm

theorem maxT_mono {n m : Nat} (h : n ≤ m) : maxT n ≤ maxT m := by
  have h1 := two_mul_maxT_add_one n
  have h2 := two_mul_maxT_add_one m
  have h3 : (3 : Int) ^ n ≤ 3 ^ m := pow_le_pow_right₀ (by norm_num) h
  omega

/-- The trits of a field are the number's trits from its place on. -/
theorem trit_field (x : Int) (lo : Nat) {n i : Nat} (h : i < n) : trit (field x lo n) i = trit x (lo + i) := by
  rw [field_eq_wrapT_dropT, trit, field_wrapT _ (by omega), field_dropT, trit]

theorem trit_neg (x : Int) (i : Nat) : trit (-x) i = -trit x i := by
  have hn (n : Nat) (y : Int) : wrapT n (-y) = -wrapT n y :=
    wrapT_eq_of_dvd ((abs_neg _).trans_le (abs_wrapT_le n y)) (by
      rw [show -y - -wrapT n y = -(y - wrapT n y) by ring]
      exact (dvd_sub_wrapT n y).neg_right)
  have hd : dropT (-x) i = -dropT x i := by
    rw [dropT, dropT, hn, show -x - -wrapT i x = -(x - wrapT i x) by ring]
    exact Int.neg_ediv_of_dvd (dvd_sub_wrapT i x)
  rw [trit, trit, field_eq_wrapT_dropT, field_eq_wrapT_dropT, hd, hn]

/-- Numbers of n trits with the same trits are one. -/
theorem eq_of_trit_eq {n : Nat} {x y : Int} (hx : |x| ≤ maxT n) (hy : |y| ≤ maxT n)
    (h : ∀ i < n, trit x i = trit y i) : x = y := by
  suffices hw : ∀ m ≤ n, wrapT m x = wrapT m y by
    rw [← wrapT_of_abs_le hx, ← wrapT_of_abs_le hy, hw n le_rfl]
  intro m
  induction m with
  | zero => simp
  | succ m ih =>
    intro hm
    rw [← wrapT_add_field m 1 x, ← wrapT_add_field m 1 y, ih (by omega)]
    exact congrArg (fun t => wrapT m y + 3 ^ m * t) (h m (by omega))

/-- The number whose trits a function gives. -/
theorem foldl_trits {g : Nat → Int} (hg : ∀ i, |g i| ≤ 1) (n : Nat) :
    |(List.range n).foldl (fun acc i => acc + g i * 3 ^ i) 0| ≤ maxT n ∧
      ∀ i < n, trit ((List.range n).foldl (fun acc i => acc + g i * 3 ^ i) 0) i = g i := by
  induction n with
  | zero => simp [maxT]
  | succ n ih =>
    obtain ⟨hb, ht⟩ := ih
    rw [List.range_succ, List.foldl_append, List.foldl_cons, List.foldl_nil, mul_comm (g n)]
    generalize (List.range n).foldl (fun acc i => acc + g i * 3 ^ i) 0 = x at hb ht ⊢
    refine ⟨abs_add_mul_pow_le hb (maxT_one ▸ hg n), fun i hi => ?_⟩
    rcases Nat.lt_succ_iff_lt_or_eq.mp hi with h | rfl
    · exact (field_add_above (by omega) _ _).trans (ht i h)
    · exact (field_add_mul 1 _ hb).trans (wrapT_of_abs_le (maxT_one ▸ hg i))

theorem abs_ofTrits_le {g : Nat → Int} (hg : ∀ i, |g i| ≤ 1) : |ofTrits g| ≤ maxT 27 := (foldl_trits hg 27).1

theorem trit_ofTrits {g : Nat → Int} (hg : ∀ i, |g i| ≤ 1) {i : Nat} (hi : i < 27) : trit (ofTrits g) i = g i :=
  (foldl_trits hg 27).2 i hi

/-- An operation that gives a trit for two trits. -/
def OnTrits (g : Int → Int → Int) : Prop := ∀ x y, |x| ≤ 1 → |y| ≤ 1 → |g x y| ≤ 1

theorem abs_perTrit_le {g : Int → Int → Int} (hg : OnTrits g) (x y : Int) : |perTrit g x y| ≤ maxT 27 :=
  abs_ofTrits_le fun i => hg _ _ (abs_trit_le x i) (abs_trit_le y i)

theorem trit_perTrit {g : Int → Int → Int} (hg : OnTrits g) (x y : Int) {i : Nat} (hi : i < 27) :
    trit (perTrit g x y) i = g (trit x i) (trit y i) :=
  trit_ofTrits (fun i => hg _ _ (abs_trit_le x i) (abs_trit_le y i)) hi

/-! ### Elements completed (08 R130, R132) -/

theorem elemMin_eq_min : elemMin = fun x y => Min.min x y := by
  funext x y
  exact (min_def x y).symm

theorem elemMax_eq_max : elemMax = fun x y => Max.max x y := by
  funext x y
  exact (max_def x y).symm

theorem abs_elemMin_le {x y m : Int} (hx : |x| ≤ m) (hy : |y| ≤ m) : |elemMin x y| ≤ m := by
  rw [elemMin_eq_min]
  exact abs_min_le_max_abs_abs.trans (max_le hx hy)

theorem abs_elemMax_le {x y m : Int} (hx : |x| ≤ m) (hy : |y| ≤ m) : |elemMax x y| ≤ m := by
  rw [elemMax_eq_max]
  exact abs_max_le_max_abs_abs.trans (max_le hx hy)

theorem completed_complete (w : Nat) (sat : Bool) (e : Int) : Completed w sat e (complete w sat e).1 := by
  cases sat with
  | false => rfl
  | true =>
    simp only [Completed, complete, satT, if_true]
    split_ifs <;> omega

theorem abs_complete_le (w : Nat) (sat : Bool) (e : Int) : |(complete w sat e).1| ≤ maxT w := by
  have := maxT_nonneg w
  cases sat with
  | false => exact abs_wrapT_le w e
  | true =>
    simp only [complete, satT, if_true, abs_le]
    split_ifs <;> omega

theorem complete_flags (w : Nat) (sat : Bool) (e : Int) :
    (complete w sat e).2 = Fx.cond (sat && decide (maxT w < |e|)) Fx.IO := by
  have := maxT_nonneg w
  cases sat with
  | false => rfl
  | true =>
    simp only [complete, satT, if_true, Bool.true_and, lt_abs]
    congr 2
    split_ifs <;> simp only [eq_iff_iff] <;> omega

theorem Fx.union_cond (x : Fx) (a b : Bool) : (Fx.cond a x).union (Fx.cond b x) = Fx.cond (a || b) x := by
  cases a <;> cases b <;> simp [Fx.cond, Fx.union, Fx.clear]

/-- A flag that some elements raise is raised when one of them does. -/
theorem Fx.unions_cond (x : Fx) (n : Nat) (b : Nat → Bool) :
    Fx.unions n (fun j => Fx.cond (b j) x) = Fx.cond ((List.range n).any b) x := by
  unfold Fx.unions
  induction n with
  | zero => rfl
  | succ n ih => simp [List.range_succ, ih, Fx.union_cond]

theorem elem_perElem {w : Nat} {f : Nat → Int × Fx} (hf : ∀ j < elems w, |(f j).1| ≤ maxT w) {j : Nat} (hj : j < elems w) :
    elem (perElem w f).1 w j = (f j).1 := isWord_perElem hf j hj

theorem abs_elem_le (x : Int) (w j : Nat) : |elem x w j| ≤ maxT w := abs_field_le _ _ _

/-- A word whose elements are completed, each from its exact value. -/
theorem perElem_complete (w : Nat) (sat : Bool) (e : Nat → Int) :
    (∀ j < elems w, Completed w sat (e j) (elem (perElem w (fun j => complete w sat (e j))).1 w j)) ∧
      OnlyIO w sat e (perElem w (fun j => complete w sat (e j))).2 := by
  refine ⟨fun j hj => ?_, ?_⟩
  · rw [elem_perElem (fun j _ => abs_complete_le w sat (e j)) hj]
    exact completed_complete w sat (e j)
  · rw [perElem_snd]
    simp only [complete_flags, Fx.unions_cond, OnlyIO, List.and_any_distrib_left]

theorem onlyIO_congr {w : Nat} {sat : Bool} {e e' : Nat → Int} {x : Fx} (he : ∀ j < elems w, e j = e' j)
    (h : OnlyIO w sat e x) : OnlyIO w sat e' x := by
  have ha : (List.range (elems w)).any (fun j => decide (maxT w < |e j|)) =
      (List.range (elems w)).any (fun j => decide (maxT w < |e' j|)) := by
    rw [Bool.eq_iff_iff]
    simp only [List.any_eq_true, List.mem_range]
    exact exists_congr fun j => and_congr_right fun hj => by rw [he j hj]
  rw [OnlyIO, ← ha]
  exact h

/-- A word of elements that raise no flag. -/
theorem perElem_flagless {w : Nat} {e : Nat → Int} (he : ∀ j < elems w, |e j| ≤ maxT w) :
    (perElem w (fun j => (e j, Fx.clear))).2 = Fx.clear ∧
      ∀ j < elems w, elem (perElem w (fun j => (e j, Fx.clear))).1 w j = e j := by
  refine ⟨?_, fun j hj => elem_perElem he hj⟩
  rw [perElem_snd]
  exact (Fx.unions_cond Fx.clear (elems w) fun _ => false).trans (ite_self _)

/-- A word whose elements' exact values lie in range: it has them, and no flag. -/
theorem packed_exact {w : Nat} {g : Int → Int → Int} {x y : Int}
    (hg : ∀ j < elems w, |g (elem x w j) (elem y w j)| ≤ maxT w) :
    (packed w false g x y).2 = Fx.clear ∧
      ∀ j < elems w, elem (packed w false g x y).1 w j = g (elem x w j) (elem y w j) := by
  obtain ⟨he, hx⟩ := perElem_complete w false (fun j => g (elem x w j) (elem y w j))
  exact ⟨hx, fun j hj => (he j hj).trans (wrapT_of_abs_le (hg j hj))⟩

end Sys2Proof.Machine
end

section
/-! ## Plain integer arithmetic (O1)

Sources and prefixes of computing instructions; the words that an instruction of one and of two sources computes; ADD to SGN. -/
namespace Sys2Proof.Machine

/-! ### Operands and prefixes (06 R103, 08 R132) -/

section
variable {c : Ctx} {a : Accept}

theorem na_eq_zero (h : pfxOk a c = true) (ha : a.na = false) : c.mod.na = 0 := by
  simp only [pfxOk, modOk, yesOk, ha, Bool.and_eq_true, Bool.false_and, Bool.or_false, beq_iff_eq] at h
  tauto

theorem nb_eq_zero (h : pfxOk a c = true) (ha : a.nb = false) : c.mod.nb = 0 := by
  simp only [pfxOk, modOk, yesOk, ha, Bool.and_eq_true, Bool.false_and, Bool.or_false, beq_iff_eq] at h
  tauto

/-- Without IMM the immediate is the field. -/
theorem immVal_eq (h : pfxOk a c = true) (ha : a.imm = false) (imm : Int) : c.immVal imm = imm := by
  have h0 : c.immHi = none := by simpa [ha] using (Bool.and_eq_true_iff.mp h).1
  simp [Ctx.immVal, h0]

/-- Without negation a source is the register's word. -/
theorem srcA_eq_rd (h : pfxOk a c = true) (ha : a.na = false) (f : Int) (p : Nat) : c.srcA f p = rd c f p := by
  simp [Ctx.srcA, negIf, na_eq_zero h ha]

theorem srcB_eq_rd (h : pfxOk a c = true) (ha : a.nb = false) (f : Int) (p : Nat) : c.srcB f p = rd c f p := by
  simp [Ctx.srcB, negIf, nb_eq_zero h ha]

end

theorem abs_negIf_le {x m : Int} (n : Int) (h : |x| ≤ m) : |negIf n x| ≤ m := by
  unfold negIf
  split
  · rwa [abs_neg]
  · exact h

/-- The prefixes of an instruction that may run are ones it accepts. -/
theorem AluFree.pfxOk {c : Ctx} {d pred : Int} {n : Nat} {srcs : List Use} {fields : Bool} {a : Accept}
    (h : AluFree c d n srcs pred fields a) : pfxOk a c = true := h.1.1.2.2

theorem AluFree.fields {c : Ctx} {d pred : Int} {n : Nat} {srcs : List Use} {fields : Bool} {a : Accept}
    (h : AluFree c d n srcs pred fields a) : fields = true := (Bool.and_eq_true_iff.mp h.1.1.2.1).1

/-! ### Instructions of one and of two sources (08 R130, R135) -/

section
variable {s : State} {c : Ctx} {f : FA} {i : Instr} {types : Bool} {a : Accept} (h : Issuing s c)
include h

/-- The words that an instruction of sources a and b computes. -/
theorem intAB_computed {g : Bool → Int → Int → Int × Fx} (hi : exec i s = intAB s f types a g)
    (hf : AluFree c f.dst 1 [src f.a, src f.b] f.pred (predOk f.pred && types) a) :
    exec i s = .next (s.computed c f.dst f.pred (fun p =>
      ([(g c.sat (c.srcA f.a p) (c.srcB f.b p)).1], (g c.sat (c.srcA f.a p) (c.srcB f.b p)).2))) :=
  hi.trans (withRow_ok h (alu_ok (a := ⟨f.dst, 1, _, f.pred, _, a⟩) hf))

/-- The words that an instruction of source a computes. -/
theorem intA_computed {g : Bool → Int → Int × Fx} (hi : exec i s = intA s f types a g)
    (hf : AluFree c f.dst 1 [src f.a] f.pred (predOk f.pred && types) a) :
    exec i s = .next (s.computed c f.dst f.pred (fun p => ([(g c.sat (c.srcA f.a p)).1], (g c.sat (c.srcA f.a p)).2))) :=
  hi.trans (withRow_ok h (alu_ok (a := ⟨f.dst, 1, _, f.pred, _, a⟩) hf))

/-- … where it raises no flag. -/
theorem intAB_flagless {g : Bool → Int → Int → Int × Fx} (hi : exec i s = intAB s f types a g)
    (hf : AluFree c f.dst 1 [src f.a, src f.b] f.pred (predOk f.pred && types) a)
    (hx : ∀ p, (g c.sat (c.srcA f.a p) (c.srcB f.b p)).2 = Fx.clear) :
    exec i s = .next (s.computed c f.dst f.pred (fun p => ([(g c.sat (c.srcA f.a p) (c.srcB f.b p)).1], Fx.clear))) := by
  rw [intAB_computed h hi hf]
  simp only [hx]

theorem intA_flagless {g : Bool → Int → Int × Fx} (hi : exec i s = intA s f types a g)
    (hf : AluFree c f.dst 1 [src f.a] f.pred (predOk f.pred && types) a) (hx : ∀ p, (g c.sat (c.srcA f.a p)).2 = Fx.clear) :
    exec i s = .next (s.computed c f.dst f.pred (fun p => ([(g c.sat (c.srcA f.a p)).1], Fx.clear))) := by
  rw [intA_computed h hi hf]
  simp only [hx]

/-- An element operation completed, on sources a and b. -/
theorem intAB_completed {w : Nat} {g : Int → Int → Int} (hi : exec i s = intAB s f types a (fun sat => packed w sat g))
    (hf : AluFree c f.dst 1 [src f.a, src f.b] f.pred (predOk f.pred && types) a) :
    ∃ v : Nat → Int × Fx, exec i s = .next (s.computed c f.dst f.pred (fun p => ([(v p).1], (v p).2))) ∧
      ∀ p, (∀ j < elems w, Completed w c.sat (g (elem (c.srcA f.a p) w j) (elem (c.srcB f.b p) w j)) (elem (v p).1 w j)) ∧
        OnlyIO w c.sat (fun j => g (elem (c.srcA f.a p) w j) (elem (c.srcB f.b p) w j)) (v p).2 :=
  ⟨_, intAB_computed h hi hf, fun _ => perElem_complete w c.sat _⟩

/-- An element operation that stays in range, on sources a and b. -/
theorem intAB_exact {w : Nat} {g : Int → Int → Int} (hi : exec i s = intAB s f types a (fun _ => packed w false g))
    (hf : AluFree c f.dst 1 [src f.a, src f.b] f.pred (predOk f.pred && types) a)
    (hg : ∀ x y, |x| ≤ maxT w → |y| ≤ maxT w → |g x y| ≤ maxT w) :
    ∃ v : Nat → Int, exec i s = .next (s.computed c f.dst f.pred (fun p => ([v p], Fx.clear))) ∧
      ∀ p, ∀ j < elems w, elem (v p) w j = g (elem (c.srcA f.a p) w j) (elem (c.srcB f.b p) w j) := by
  have hp (p : Nat) := packed_exact (x := c.srcA f.a p) (y := c.srcB f.b p)
    fun j _ => hg _ _ (abs_elem_le _ w j) (abs_elem_le _ w j)
  exact ⟨_, intAB_flagless h hi hf fun p => (hp p).1, fun p => (hp p).2⟩

/-- An element operation that stays in range, on source a. -/
theorem intA_exact {w : Nat} {g : Int → Int} (hi : exec i s = intA s f types a (fun _ x => packed w false (fun x _ => g x) x 0))
    (hf : AluFree c f.dst 1 [src f.a] f.pred (predOk f.pred && types) a) (hg : ∀ x, |x| ≤ maxT w → |g x| ≤ maxT w) :
    ∃ v : Nat → Int, exec i s = .next (s.computed c f.dst f.pred (fun p => ([v p], Fx.clear))) ∧
      ∀ p, ∀ j < elems w, elem (v p) w j = g (elem (c.srcA f.a p) w j) := by
  have hp (p : Nat) := packed_exact (g := fun x _ => g x) (x := c.srcA f.a p) (y := 0) fun j _ => hg _ (abs_elem_le _ w j)
  exact ⟨_, intA_flagless h hi hf fun p => (hp p).1, fun p => (hp p).2⟩

end

/-! ### Plain arithmetic (08 R136) -/

/-- The high part of a product of two elements is an element … -/
theorem elemMulh_mul_add (w : Nat) (x y : Int) : elemMulh w x y * 3 ^ w + wrapT w (x * y) = x * y := by
  have h := wrapT_add_dropT (x * y) w
  rw [mul_comm, add_comm]
  exact h

theorem abs_elemMulh_le {w : Nat} {x y : Int} (hx : |x| ≤ maxT w) (hy : |y| ≤ maxT w) : |elemMulh w x y| ≤ maxT w := by
  refine abs_dropT_le ?_
  have h := two_mul_maxT_add_one w
  have hm : |x * y| ≤ maxT w * maxT w := abs_mul x y ▸ mul_le_mul hx hy (abs_nonneg y) (maxT_nonneg w)
  rw [pow_add, ← h]
  nlinarith [maxT_nonneg w]

theorem elemAbs_eq_abs (x : Int) : elemAbs x = |x| := by
  unfold elemAbs
  split
  next h => exact (abs_of_neg h).symm
  next h => exact (abs_of_nonneg (not_lt.mp h)).symm

theorem abs_sgn_le (x : Int) : |Sys2Proof.sgn x| ≤ 1 := by
  unfold Sys2Proof.sgn
  split_ifs <;> simp

section
variable {s : State} {c : Ctx} {f : FA} (h : Issuing s c)
include h

/-- MOV copies its source. -/
theorem mov_results (hf : AluFree c f.dst 1 [src f.a] f.pred (predOk f.pred && f.ty == 0 && f.b == 0) {})
    (hs : ¬(c.gen0 = true ∧ f.ty = -4)) :
    exec (.mov f) s = .next (s.computed c f.dst f.pred (fun p => ([rd c f.a p], Fx.clear))) := by
  refine withRow_ok h ?_
  rw [if_neg (by simpa using hs)]
  exact alu_ok (a := ⟨f.dst, 1, _, f.pred, _, {}⟩) hf

end

/-- Settles O1: ADD, SUB and MUL are completed element by element, the others stay in range. -/
theorem integerResults : Obligations.IntegerResults := by
  unfold Obligations.IntegerResults
  refine ⟨fun s c f h hf q hq => ?_, fun s c f h => ⟨mov_results h, fun hf q hq => ?_, fun hf q hq => ?_⟩⟩
  · simp only [List.mem_cons, List.not_mem_nil, or_false] at hq
    rcases hq with rfl | rfl | rfl
    · exact intAB_completed h (g := elemAdd) rfl hf
    · exact intAB_completed h (g := elemSub) rfl hf
    · exact intAB_completed h (g := elemMul) rfl hf
  · simp only [List.mem_cons, List.not_mem_nil, or_false] at hq
    rcases hq with rfl | rfl | rfl
    · obtain ⟨v, he, hv⟩ := intAB_exact h (i := .mulh f) rfl hf fun _ _ => abs_elemMulh_le
      exact ⟨v, he, fun p j hj => by rw [hv p j hj]; exact elemMulh_mul_add _ _ _⟩
    · obtain ⟨v, he, hv⟩ := intAB_exact h (i := .min f) rfl hf fun _ _ => abs_elemMin_le
      refine ⟨v, he, fun p j hj => ?_⟩
      rw [hv p j hj, elemMin_eq_min]
      exact ⟨min_le_left _ _, min_le_right _ _, min_choice _ _⟩
    · obtain ⟨v, he, hv⟩ := intAB_exact h (i := .max f) rfl hf fun _ _ => abs_elemMax_le
      refine ⟨v, he, fun p j hj => ?_⟩
      rw [hv p j hj, elemMax_eq_max]
      exact ⟨le_max_left _ _, le_max_right _ _, max_choice _ _⟩
  · simp only [List.mem_cons, List.not_mem_nil, or_false] at hq
    rcases hq with rfl | rfl
    · obtain ⟨v, he, hv⟩ := intA_exact h (i := .abs f) rfl hf fun x hx => by rwa [elemAbs_eq_abs, abs_abs]
      exact ⟨v, he, fun p j hj => (hv p j hj).trans (elemAbs_eq_abs _)⟩
    · exact intA_exact h (i := .sgn f) (g := Sys2Proof.sgn) rfl hf fun x _ =>
        (abs_sgn_le x).trans (maxT_one ▸ maxT_mono (by unfold widthOfA; split <;> decide))

end Sys2Proof.Machine
end

section
/-! ## Division, shifts and rotation (O2)

Quotients and remainders (08 R137); elements shifted and rotated (08 R138). -/
namespace Sys2Proof.Machine

/-! ### Division (08 R137) -/

/-- With its sign taken away the quotient of `divNear` is a quotient of magnitudes, rounded half down. -/
theorem natAbs_near_bounds {a b : Nat} (hb : 0 < b) :
    2 * ((2 * a + b - 1) / (2 * b) * b) ≤ 2 * a + (b - 1) ∧ 2 * a ≤ 2 * ((2 * a + b - 1) / (2 * b) * b) + b := by
  have h1 := Nat.div_add_mod (2 * a + b - 1) (2 * b)
  have h2 := Nat.mod_lt (2 * a + b - 1) (show 0 < 2 * b by omega)
  generalize (2 * a + b - 1) / (2 * b) = q at h1
  rw [show 2 * b * q = 2 * (q * b) by ring] at h1
  omega

/-- The product of a quotient with its divisor, by the sign of the dividend. -/
theorem divNear_mul {x y : Int} (hy : y ≠ 0) :
    ∃ m : Int, 0 ≤ m ∧ divNear x y * y = (if x < 0 then -m else m) ∧
      2 * m ≤ 2 * |x| + (|y| - 1) ∧ 2 * |x| ≤ 2 * m + |y| := by
  obtain ⟨h1, h2⟩ := natAbs_near_bounds (a := x.natAbs) (b := y.natAbs) (by omega)
  unfold divNear
  rw [Int.abs_eq_natAbs, Int.abs_eq_natAbs]
  generalize (2 * x.natAbs + y.natAbs - 1) / (2 * y.natAbs) = q at h1 h2
  refine ⟨((q * y.natAbs : Nat) : Int), by positivity, ?_, by omega, by omega⟩
  push_cast
  rcases lt_or_ge x 0 with hx | hx <;> rcases lt_or_ge y 0 with h | h
  · simp [hx, h, abs_of_neg h]
  · simp [hx, h.not_gt, abs_of_nonneg h]
  · simp [hx.not_gt, h, abs_of_neg h]
  · simp [hx.not_gt, h.not_gt, abs_of_nonneg h]

/-- What DIV and MOD give: the nearest quotient, of two the one of smaller magnitude. -/
theorem divNear_spec {x y : Int} (hy : y ≠ 0) :
    2 * |x - divNear x y * y| ≤ |y| ∧ (2 * |x - divNear x y * y| = |y| → |divNear x y * y| ≤ |x|) := by
  obtain ⟨m, h0, hm, h1, h2⟩ := divNear_mul (x := x) hy
  rw [hm]
  rcases lt_or_ge x 0 with hx | hx
  · rw [if_pos hx, abs_neg, abs_of_nonneg h0]
    rw [abs_of_neg hx] at *
    rcases abs_cases (x - -m) with ⟨h, -⟩ | ⟨h, -⟩ <;> omega
  · rw [if_neg hx.not_gt, abs_of_nonneg h0]
    rw [abs_of_nonneg hx] at *
    rcases abs_cases (x - m) with ⟨h, -⟩ | ⟨h, -⟩ <;> omega

/-- A quotient that is no 0 has at most the magnitude of the dividend. -/
theorem abs_le_of_near {x y q : Int} (hy : y ≠ 0) (h : 2 * |x - q * y| ≤ |y|) (ht : 2 * |x - q * y| = |y| → |q * y| ≤ |x|) :
    |q| ≤ |x| := by
  by_contra hlt
  have hy1 : 1 ≤ |y| := Int.one_le_abs hy
  have hq : |q| * |y| ≤ |x| + |x - q * y| := by
    rw [← abs_mul]
    have := abs_sub_abs_le_abs_sub (q * y) x
    rw [abs_sub_comm] at this
    omega
  by_cases he : 2 * |x - q * y| = |y|
  · have := ht he
    rw [abs_mul] at this
    nlinarith [abs_nonneg q]
  · nlinarith [abs_nonneg q, abs_nonneg x]

theorem divZero_spec {x y : Int} (hy : y ≠ 0) :
    |x - divZero x y * y| < |y| ∧ 0 ≤ x * (x - divZero x y * y) ∧ |divZero x y| ≤ |x| := by
  have hr : x - divZero x y * y = x.tmod y := by
    have := Int.tmod_add_mul_tdiv x y
    unfold divZero
    linarith [mul_comm y (x.tdiv y)]
  rw [hr]
  refine ⟨?_, ?_, ?_⟩
  · have := Int.natAbs_tmod x y
    have := Nat.mod_lt x.natAbs (show 0 < y.natAbs by omega)
    rw [Int.abs_eq_natAbs, Int.abs_eq_natAbs]
    omega
  · rcases le_total 0 x with hx | hx
    · exact mul_nonneg hx (Int.tmod_nonneg y hx)
    · have := Int.tmod_nonneg y (neg_nonneg.mpr hx)
      rw [Int.neg_tmod] at this
      exact mul_nonneg_of_nonpos_of_nonpos hx (neg_nonneg.mp this)
  · have h : (x.tdiv y).natAbs = x.natAbs / y.natAbs := Int.natAbs_tdiv x y
    rw [divZero, Int.abs_eq_natAbs, Int.abs_eq_natAbs, h]
    exact_mod_cast Nat.div_le_self _ _

theorem quot_zero (near : Bool) (x : Int) : quot near x 0 = (0, Fx.DZ) := rfl

theorem quot_of_ne {near : Bool} {x y : Int} (hy : y ≠ 0) :
    quot near x y = (if near then divNear x y else divZero x y, Fx.clear) := if_neg hy

theorem quot_flags (near : Bool) (x y : Int) : (quot near x y).2 = Fx.cond (y == 0) Fx.DZ := by
  by_cases hy : y = 0
  · subst hy
    rfl
  · rw [quot_of_ne hy]
    simp [Fx.cond, hy]

theorem abs_quot_le (near : Bool) (x y : Int) : |(quot near x y).1| ≤ |x| := by
  by_cases hy : y = 0
  · subst hy
    simp [quot_zero]
  · rw [quot_of_ne hy]
    cases near with
    | false => exact (divZero_spec hy).2.2
    | true => exact abs_le_of_near hy (divNear_spec hy).1 (divNear_spec hy).2

/-- A remainder is that of a zero divisor, or less than the divisor. -/
theorem abs_remdr_le {near : Bool} {x y m : Int} (hx : |x| ≤ m) (hy : |y| ≤ m) : |(remdr near x y).1| ≤ m := by
  unfold remdr
  by_cases h0 : y = 0
  · subst h0
    simpa [quot_zero] using hx
  · rw [quot_of_ne h0]
    cases near with
    | false =>
      have := (divZero_spec (x := x) h0).1
      simp only [Bool.false_eq_true, if_false]
      omega
    | true =>
      have := (divNear_spec (x := x) h0).1
      have := abs_nonneg (x - divNear x y * y)
      simp only [if_true]
      omega

/-- Elements that complete themselves: the words' elements, and one flag of some of them. -/
theorem packedFx_cond {w : Nat} {g : Int → Int → Int × Fx} {x y : Int} {b : Int → Bool} {e : Fx}
    (hx : ∀ x y, (g x y).2 = Fx.cond (b y) e)
    (hg : ∀ x y, |x| ≤ maxT w → |y| ≤ maxT w → |(g x y).1| ≤ maxT w) :
    (packedFx w g x y).2 = Fx.cond ((List.range (elems w)).any (fun j => b (elem y w j))) e ∧
      ∀ j < elems w, elem (packedFx w g x y).1 w j = (g (elem x w j) (elem y w j)).1 := by
  refine ⟨?_, fun j hj => elem_perElem (fun j _ => hg _ _ (abs_elem_le x w j) (abs_elem_le y w j)) hj⟩
  rw [packedFx, perElem_snd]
  simp only [hx, Fx.unions_cond]

/-- The four results of an element whose divisor is y. -/
theorem quot_remdr_spec (x y : Int) :
    if y = 0 then (quot true x y).1 = 0 ∧ (remdr true x y).1 = x ∧ (quot false x y).1 = 0 ∧ (remdr false x y).1 = x
    else
      x = (quot true x y).1 * y + (remdr true x y).1 ∧ 2 * |(remdr true x y).1| ≤ |y| ∧
      (2 * |(remdr true x y).1| = |y| → |(quot true x y).1 * y| ≤ |x|) ∧
      x = (quot false x y).1 * y + (remdr false x y).1 ∧ |(remdr false x y).1| < |y| ∧ 0 ≤ x * (remdr false x y).1 := by
  unfold remdr
  by_cases hy : y = 0
  · subst hy
    simp [quot_zero]
  · rw [if_neg hy, quot_of_ne hy, quot_of_ne hy]
    obtain ⟨h1, h2⟩ := divNear_spec (x := x) hy
    obtain ⟨h3, h4, -⟩ := divZero_spec (x := x) hy
    exact ⟨by ring, h1, h2, by ring, h3, h4⟩

/-! ### Shifts and rotation (08 R138) -/

theorem complete_below {w : Nat} {e : Int} (h : e < -maxT w) : complete w true e = (-maxT w, Fx.IO) := by
  simp [complete, satT, h, h.ne', Fx.cond]

theorem complete_above {w : Nat} {e : Int} (h : maxT w < e) : complete w true e = (maxT w, Fx.IO) := by
  have := maxT_nonneg w
  simp [complete, satT, h, h.ne, show ¬e < -maxT w by omega, Fx.cond]

/-- An element shifted up by its width or more has lost every trit, or lies beyond the range as it did. -/
theorem complete_shift_min {w m : Nat} {sat : Bool} {x : Int} :
    complete w sat (x * 3 ^ (Min.min m w)) = complete w sat (x * 3 ^ m) := by
  rcases le_total m w with h | h
  · rw [min_eq_left h]
  rw [min_eq_right h]
  obtain ⟨d, rfl⟩ := Nat.exists_eq_add_of_le h
  have hw := two_mul_maxT_add_one w
  have hd : (1 : Int) ≤ 3 ^ d := one_le_pow₀ (by norm_num)
  rw [pow_add]
  cases sat with
  | false =>
    have h0 (y : Int) : wrapT w (3 ^ w * y) = 0 := by
      have := wrapT_add_mul w 0 y
      rwa [zero_add, wrapT_zero] at this
    have e : x * (3 ^ w * 3 ^ d) = 3 ^ w * (x * 3 ^ d) := by ring
    simp only [complete, Bool.false_eq_true, if_false]
    rw [e, h0, mul_comm x, h0]
  | true =>
    have := maxT_nonneg w
    have hp : (3 : Int) ^ w ≤ 3 ^ w * 3 ^ d := le_mul_of_one_le_right (by positivity) hd
    generalize (3 : Int) ^ w * 3 ^ d = q at hp
    rcases lt_trichotomy x 0 with hx | rfl | hx
    · rw [complete_below (by nlinarith), complete_below (by nlinarith)]
    · simp
    · rw [complete_above (by nlinarith), complete_above (by nlinarith)]

/-- A shift up is exact, then completed. -/
theorem shiftElem_up (w : Nat) (sat : Bool) (m : Nat) (x : Int) : shiftElem w sat m x = complete w sat (x * 3 ^ m) := by
  have e : (Min.min (m : Int) (w : Int)).toNat = Min.min m w := by omega
  rw [shiftElem, if_pos (Int.natCast_nonneg m), e, complete_shift_min]

/-- A shift down drops the low trits and raises nothing. -/
theorem shiftElem_down {w : Nat} {sat : Bool} {m : Int} (hm : m < 0) (x : Int) :
    shiftElem w sat m x = (if -m < (w : Int) then field x (-m).toNat (w - (-m).toNat) else 0, Fx.clear) := by
  rw [shiftElem, if_neg hm.not_ge]
  split <;> rfl

theorem shiftWord_up (w : Nat) (sat : Bool) (m : Nat) (x : Int) :
    (∀ j < elems w, Completed w sat (elem x w j * 3 ^ m) (elem (shiftWord w sat m x).1 w j)) ∧
      OnlyIO w sat (fun j => elem x w j * 3 ^ m) (shiftWord w sat m x).2 := by
  have h := perElem_complete w sat (fun j => elem x w j * 3 ^ m)
  simpa only [shiftWord, shiftElem_up] using h

theorem shiftWord_down {w : Nat} {sat : Bool} {m : Int} (hm : m < 0) (x : Int) :
    (shiftWord w sat m x).2 = Fx.clear ∧ ∀ j < elems w, elem (shiftWord w sat m x).1 w j =
      if -m < (w : Int) then field (elem x w j) (-m).toNat (w - (-m).toNat) else 0 := by
  simp only [shiftWord, shiftElem_down hm]
  refine perElem_flagless fun j _ => ?_
  split
  · exact (abs_field_le _ _ _).trans (maxT_mono (by omega))
  · simpa using maxT_nonneg w

/-- A shift down by fewer trits than an element has. -/
theorem shiftWord_neg {w n : Nat} (hn : n < w) (x : Int) :
    (shiftWord w false (-(n : Int)) x).2 = Fx.clear ∧
      ∀ j < elems w, elem (shiftWord w false (-(n : Int)) x).1 w j = field (elem x w j) n (w - n) := by
  rcases Nat.eq_zero_or_pos n with rfl | h0
  · obtain ⟨he, hx⟩ := shiftWord_up w false 0 x
    refine ⟨hx, fun j hj => (he j hj).trans ?_⟩
    rw [pow_zero, mul_one, field_zero, Nat.sub_zero]
  · obtain ⟨hx, he⟩ := shiftWord_down (w := w) (sat := false) (m := -(n : Int)) (by omega) x
    refine ⟨hx, fun j hj => (he j hj).trans ?_⟩
    rw [neg_neg, Int.toNat_natCast, if_pos (by omega)]

/-- A rotation moves trit (i − n) mod w to trit i. -/
theorem rotElem_spec {w : Nat} (hw : 0 < w) (n x : Int) :
    |rotElem w n x| ≤ maxT w ∧ ∀ i < w, trit (rotElem w n x) i = trit x (((i : Int) - n) % (w : Int)).toNat := by
  have h0 := Int.emod_nonneg n (show (w : Int) ≠ 0 by omega)
  have h1 := Int.emod_lt_of_pos n (show (0 : Int) < w by omega)
  have hn (i : Int) : (i - n) % w = (i - n % w) % w := by simp
  obtain ⟨k, hk⟩ := Int.eq_ofNat_of_zero_le h0
  have e : rotElem w n x = field x (w - k) k + 3 ^ k * field x 0 (w - k) := by
    simp only [rotElem, hk, Int.toNat_natCast]
    ring
  rw [e]
  refine ⟨?_, fun i hi => ?_⟩
  · have := abs_add_mul_pow_le (abs_field_le x (w - k) k) (abs_field_le x 0 (w - k))
    rwa [show k + (w - k) = w by omega] at this
  rw [hn, hk]
  by_cases hik : i < k
  · have hmod : ((i : Int) - k) % w = (w - k + i : Nat) := by
      rw [← Int.add_emod_right, Int.emod_eq_of_lt] <;> omega
    rw [hmod, Int.toNat_natCast, trit, field_add_above (by omega), ← trit, trit_field _ _ hik]
  · have hmod : ((i : Int) - k) % w = (i - k : Nat) := by
      rw [Int.emod_eq_of_lt] <;> omega
    obtain ⟨d, rfl⟩ := Nat.exists_eq_add_of_le (not_lt.mp hik)
    rw [hmod, Int.toNat_natCast, Nat.add_sub_cancel_left, trit, ← field_dropT, dropT_add_mul _ (abs_field_le ..), ← trit,
      trit_field _ _ (by omega), Nat.zero_add]

theorem widthOfA_pos (ty : Int) : 0 < widthOfA ty := by
  unfold widthOfA
  split <;> decide

theorem rotWord_spec {w : Nat} (hw : 0 < w) (n x : Int) :
    (rotWord w n x).2 = Fx.clear ∧ ∀ j < elems w, ∀ i < w,
      trit (elem (rotWord w n x).1 w j) i = trit (elem x w j) (((i : Int) - n) % (w : Int)).toNat := by
  obtain ⟨hx, he⟩ := perElem_flagless (w := w) (e := fun j => rotElem w n (elem x w j)) fun j _ => (rotElem_spec hw n _).1
  refine ⟨hx, fun j hj i hi => ?_⟩
  rw [rotWord, he j hj]
  exact (rotElem_spec hw n _).2 i hi

section
variable {s : State} {c : Ctx} {f : FA} (h : Issuing s c)
include h

/-- DIV, MOD, DIVT and MODT, with their one flag. -/
theorem divide_results (hf : AluFree c f.dst 1 [src f.a, src f.b] f.pred (predOk f.pred && t27t9 f.ty) accAB) {i : Instr}
    {g : Int → Int → Int × Fx} (hi : exec i s = intAB s f (t27t9 f.ty) accAB (fun _ => packedFx (widthOfA f.ty) g))
    (hx : ∀ x y, (g x y).2 = Fx.cond (y == 0) Fx.DZ)
    (hg : ∀ x y, |x| ≤ maxT (widthOfA f.ty) → |y| ≤ maxT (widthOfA f.ty) → |(g x y).1| ≤ maxT (widthOfA f.ty)) :
    ∃ v : Nat → Int,
      exec i s = .next (s.computed c f.dst f.pred (fun p => ([v p], Fx.cond ((List.range (elems (widthOfA f.ty))).any
        (fun j => elem (c.srcB f.b p) (widthOfA f.ty) j == 0)) Fx.DZ))) ∧
      ∀ p, ∀ j < elems (widthOfA f.ty), elem (v p) (widthOfA f.ty) j =
        (g (elem (c.srcA f.a p) (widthOfA f.ty) j) (elem (c.srcB f.b p) (widthOfA f.ty) j)).1 := by
  have hp (p : Nat) := packedFx_cond (x := c.srcA f.a p) (y := c.srcB f.b p) hx hg
  refine ⟨_, (intAB_computed h hi hf).trans ?_, fun p => (hp p).2⟩
  simp only [fun p => (hp p).1]

/-- SHL and SHR, whose count is m of the word b. -/
theorem shift_results (hf : AluFree c f.dst 1 [src f.a, src f.b] f.pred (predOk f.pred && t27t9 f.ty) accS) {i : Instr}
    {m : Int → Int} (hi : exec i s = intAB s f (t27t9 f.ty) accS (fun sat x y => shiftWord (widthOfA f.ty) sat (m y) x)) :
    ∃ v : Nat → Int × Fx,
      exec i s = .next (s.computed c f.dst f.pred (fun p => ([(v p).1], (v p).2))) ∧
      ∀ p,
        let w := widthOfA f.ty
        let m := m (c.srcB f.b p)
        if 0 ≤ m then
          (∀ j < elems w, Completed w c.sat (elem (c.srcA f.a p) w j * 3 ^ m.toNat) (elem (v p).1 w j)) ∧
          OnlyIO w c.sat (fun j => elem (c.srcA f.a p) w j * 3 ^ m.toNat) (v p).2
        else
          (v p).2 = Fx.clear ∧
          ∀ j < elems w, elem (v p).1 w j =
            if -m < (w : Int) then field (elem (c.srcA f.a p) w j) (-m).toNat (w - (-m).toNat) else 0 := by
  refine ⟨_, intAB_computed h hi hf, fun p => ?_⟩
  dsimp only
  split
  next h0 =>
    obtain ⟨k, hk⟩ := Int.eq_ofNat_of_zero_le h0
    rw [hk, Int.toNat_natCast]
    exact shiftWord_up ..
  next h0 => exact shiftWord_down (not_le.mp h0) _

theorem rot_results (hf : AluFree c f.dst 1 [src f.a, src f.b] f.pred (predOk f.pred && t27t9 f.ty) {}) :
    ∃ v : Nat → Int,
      exec (.rot f) s = .next (s.computed c f.dst f.pred (fun p => ([v p], Fx.clear))) ∧
      ∀ p, ∀ j < elems (widthOfA f.ty), ∀ i < widthOfA f.ty,
        trit (elem (v p) (widthOfA f.ty) j) i =
          trit (elem (rd c f.a p) (widthOfA f.ty) j) (((i : Int) - rd c f.b p) % (widthOfA f.ty : Int)).toNat := by
  have hp (p : Nat) := rotWord_spec (widthOfA_pos f.ty) (c.srcB f.b p) (c.srcA f.a p)
  refine ⟨_, intAB_flagless h (g := fun _ x y => rotWord (widthOfA f.ty) y x) rfl hf fun p => (hp p).1, fun p => ?_⟩
  rw [← srcA_eq_rd hf.pfxOk rfl, ← srcB_eq_rd hf.pfxOk rfl]
  exact (hp p).2

end

/-- Settles O2: the four results of a division share their flag, the shifts their word, and ROT moves trits. -/
theorem divideShiftResults : Obligations.DivideShiftResults := by
  unfold Obligations.DivideShiftResults
  refine ⟨fun s c f h hf => ?_, fun s c f h => ⟨fun hf q hq => ?_, rot_results h⟩⟩
  · obtain ⟨dn, hdn, edn⟩ := divide_results h hf (i := .div f) (g := quot true) rfl (quot_flags true)
      fun x y hx _ => (abs_quot_le true x y).trans hx
    obtain ⟨mn, hmn, emn⟩ := divide_results h hf (i := .mod f) (g := remdr true) rfl (quot_flags true) fun _ _ => abs_remdr_le
    obtain ⟨dt, hdt, edt⟩ := divide_results h hf (i := .divt f) (g := quot false) rfl (quot_flags false)
      fun x y hx _ => (abs_quot_le false x y).trans hx
    obtain ⟨mt, hmt, emt⟩ := divide_results h hf (i := .modt f) (g := remdr false) rfl (quot_flags false) fun _ _ => abs_remdr_le
    refine ⟨dn, mn, dt, mt, _, hdn, hmn, hdt, hmt, fun p => ⟨rfl, fun j hj => ?_⟩⟩
    dsimp only
    rw [edn p j hj, emn p j hj, edt p j hj, emt p j hj]
    exact quot_remdr_spec _ _
  · simp only [List.mem_cons, List.not_mem_nil, or_false] at hq
    rcases hq with rfl | rfl
    · have := shift_results h hf (i := .shl f) (m := fun n => n) rfl
      simpa only [srcB_eq_rd hf.pfxOk rfl] using this
    · have := shift_results h hf (i := .shr f) (m := fun n => -n) rfl
      simpa only [srcB_eq_rd hf.pfxOk rfl] using this

end Sys2Proof.Machine
end

section
/-! ## Trit-wise instructions (O3)

Counts of trits (08 R139), the per-trit operations of Table 8.2 (08 R140), elements put in and taken out (08 R141). -/
namespace Sys2Proof.Machine

/-! ### Counts of trits (08 R139) -/

/-- How many of the first n values are 0 before the first that is not. -/
theorem length_takeWhile_zero (u : Nat → Int) (n : Nat) :
    (((List.range n).map u).takeWhile (· == 0)).length ≤ n ∧
      (∀ i < (((List.range n).map u).takeWhile (· == 0)).length, u i = 0) ∧
      ((((List.range n).map u).takeWhile (· == 0)).length < n →
        u (((List.range n).map u).takeWhile (· == 0)).length ≠ 0) := by
  induction n generalizing u with
  | zero => simp
  | succ n ih =>
    obtain ⟨h1, h2, h3⟩ := ih (u ∘ Nat.succ)
    rw [List.range_succ_eq_map, List.map_cons, List.map_map, List.takeWhile_cons]
    generalize (((List.range n).map (u ∘ Nat.succ)).takeWhile (· == 0)) = l at h1 h2 h3
    by_cases h0 : u 0 = 0
    · rw [if_pos (by simpa using h0), List.length_cons]
      refine ⟨by omega, fun i hi => ?_, fun h => h3 (by omega)⟩
      cases i with
      | zero => exact h0
      | succ i => exact h2 i (by omega)
    · rw [if_neg (by simpa using h0)]
      exact ⟨by simp, fun i hi => absurd hi (by simp), fun _ => h0⟩

theorem trits27_reverse (x : Int) : (trits27 x).reverse = (List.range 27).map (fun i => trit x (26 - i)) := by
  rw [trits27, ← List.map_reverse, show (List.range 27).reverse = (List.range 27).map (26 - ·) by decide, List.map_map]
  rfl

/-- TCNT counts trailing zeros, leading zeros, or trits of one value. -/
theorem tritCount_spec (v x : Int) :
    if v = 2 then
      0 ≤ tritCount v x ∧ tritCount v x ≤ 27 ∧ (∀ i : Nat, (i : Int) < tritCount v x → trit x i = 0) ∧
      (tritCount v x < 27 → trit x (tritCount v x).toNat ≠ 0)
    else if v = -2 then
      0 ≤ tritCount v x ∧ tritCount v x ≤ 27 ∧ (∀ i : Nat, (i : Int) < tritCount v x → trit x (26 - i) = 0) ∧
      (tritCount v x < 27 → trit x (26 - (tritCount v x).toNat) ≠ 0)
    else tritCount v x = (((List.range 27).countP (fun i => trit x i == v) : Nat) : Int) := by
  have hz (u : Nat → Int) (k : Nat) (hk : k = (((List.range 27).map u).takeWhile (· == 0)).length) :
      (0 : Int) ≤ k ∧ (k : Int) ≤ 27 ∧ (∀ i : Nat, (i : Int) < k → u i = 0) ∧ ((k : Int) < 27 → u (k : Int).toNat ≠ 0) := by
    obtain ⟨h1, h2, h3⟩ := length_takeWhile_zero u 27
    rw [← hk] at h1 h2 h3
    exact ⟨by omega, by omega, fun i hi => h2 i (by omega), fun h => h3 (by omega)⟩
  unfold tritCount
  split_ifs with h1 h2
  · exact hz (trit x) _ rfl
  · exact hz (fun i => trit x (26 - i)) _ (by rw [trits27_reverse])
  · rw [trits27, ← List.countP_eq_length_filter, List.countP_map]
    rfl

/-! ### The operations of Table 8.2 (08 R140) -/

theorem trit_cases {x : Int} (h : |x| ≤ 1) : x = -1 ∨ x = 0 ∨ x = 1 := by
  rw [abs_le] at h
  omega

theorem onTrits_min : OnTrits elemMin := fun _ _ => abs_elemMin_le

theorem onTrits_max : OnTrits elemMax := fun _ _ => abs_elemMax_le

theorem onTrits_sum : OnTrits tritSum := fun x y _ _ => maxT_one ▸ abs_wrapT_le 1 (x + y)

theorem onTrits_mul : OnTrits (fun x y => x * y) := fun x y hx hy =>
  (abs_mul x y).trans_le (mul_le_one₀ hx (abs_nonneg y) hy)

theorem onTrits_cons : OnTrits tritCons := fun x y hx _ => by
  unfold tritCons
  split
  · exact hx
  · simp

/-- Addition modulo 3. -/
theorem tritSum_eq {x y : Int} (hx : |x| ≤ 1) (hy : |y| ≤ 1) : tritSum x y = if x = y then -x else x + y := by
  rcases trit_cases hx with rfl | rfl | rfl <;> rcases trit_cases hy with rfl | rfl | rfl <;> decide

/-! ### A field put into a number (00 R6) -/

/-- The number d with its trits pos .. pos + len − 1 replaced by those of v. -/
def insertT (d : Int) (pos len : Nat) (v : Int) : Int := d - field d pos len * 3 ^ pos + v * 3 ^ pos

theorem insElem9_eq (x : Int) (k : Nat) (v : Int) : insElem9 x k v = insertT x (9 * k) 9 v := rfl

section
variable {d v : Int} {pos len lo n : Nat}

theorem insertT_eq : insertT d pos len v = wrapT pos d + 3 ^ pos * (v + 3 ^ len * dropT d (pos + len)) := by
  have h1 := wrapT_add_dropT d (pos + len)
  rw [← wrapT_add_field, pow_add] at h1
  unfold insertT
  linear_combination (exp := 1) -h1

theorem field_insertT_self (hv : |v| ≤ maxT len) : field (insertT d pos len v) pos len = v := by
  rw [insertT_eq, field_add_mul len _ (abs_wrapT_le pos d), wrapT_add_mul, wrapT_of_abs_le hv]

theorem field_insertT_below (h : lo + n ≤ pos) : field (insertT d pos len v) lo n = field d lo n := by
  rw [insertT_eq, field_add_above h, field_wrapT d h]

theorem field_insertT_above (hv : |v| ≤ maxT len) (h : pos + len ≤ lo) : field (insertT d pos len v) lo n = field d lo n := by
  obtain ⟨k, rfl⟩ := Nat.exists_eq_add_of_le h
  rw [← field_dropT, ← field_dropT, insertT_eq, ← dropT_dropT, dropT_add_mul _ (abs_wrapT_le pos d), dropT_add_mul _ hv]

end

/-- The elements of a word one of whose elements is replaced. -/
theorem elem_insElem9 {x v : Int} {k : Nat} (hv : |v| ≤ maxT 9) :
    elem (insElem9 x k v) 9 k = v ∧ ∀ j, j ≠ k → elem (insElem9 x k v) 9 j = elem x 9 j := by
  rw [insElem9_eq]
  refine ⟨field_insertT_self hv, fun j hj => ?_⟩
  rcases Nat.lt_or_gt_of_ne hj with h | h
  · exact field_insertT_below (by omega)
  · exact field_insertT_above hv (by omega)

/-- TINS puts a field of x into d. -/
theorem tinsWord_eq (d x : Int) (pos len : Nat) : tinsWord d x pos len = insertT d pos len (field x 0 len) := rfl

theorem trit_tinsWord (d x : Int) (pos len i : Nat) :
    trit (tinsWord d x pos len) i = if pos ≤ i ∧ i < pos + len then trit x (i - pos) else trit d i := by
  rw [tinsWord_eq]
  split
  next hi =>
    obtain ⟨k, rfl⟩ := Nat.exists_eq_add_of_le hi.1
    rw [← trit_field _ pos (n := len) (by omega), field_insertT_self (abs_field_le ..), trit_field _ _ (by omega),
      Nat.add_sub_cancel_left, Nat.zero_add]
  next hi =>
    rcases Nat.lt_or_ge i pos with hl | hl
    · exact field_insertT_below hl
    · exact field_insertT_above (abs_field_le ..) (by omega)

/-! ### The instructions -/

section
variable {s : State} {c : Ctx} {f : FA} (h : Issuing s c)
include h

theorem tcnt_results
    (hf : AluFree c f.dst 1 [src f.a] f.pred (predOk f.pred && (f.ty == 0 && decide (-2 ≤ f.b ∧ f.b ≤ 2))) {}) :
    exec (.tcnt f) s = .next (s.computed c f.dst f.pred (fun p => ([tritCount f.b (rd c f.a p)], Fx.clear))) := by
  have he := intA_flagless h (i := .tcnt f) (g := fun _ x => (tritCount f.b x, Fx.clear)) rfl hf fun _ => rfl
  simpa only [srcA_eq_rd hf.pfxOk rfl] using he

/-- An instruction that works trit by trit. -/
theorem perTrit_results (hf : AluFree c f.dst 1 [src f.a, src f.b] f.pred (predOk f.pred && f.ty == 0) accAB) {i : Instr}
    {g e : Int → Int → Int} (hi : exec i s = intAB s f (f.ty == 0) accAB (fun _ x y => (perTrit g x y, Fx.clear)))
    (hg : OnTrits g) (he : ∀ x y, |x| ≤ 1 → |y| ≤ 1 → g x y = e x y) :
    ∃ v : Nat → Int, exec i s = .next (s.computed c f.dst f.pred (fun p => ([v p], Fx.clear))) ∧
      ∀ p, |v p| ≤ maxT 27 ∧ ∀ i < 27, trit (v p) i = e (trit (c.srcA f.a p) i) (trit (c.srcB f.b p) i) :=
  ⟨_, intAB_flagless h hi hf fun _ => rfl, fun _ => ⟨abs_perTrit_le hg _ _, fun i hi =>
    (trit_perTrit hg _ _ hi).trans (he _ _ (abs_trit_le _ i) (abs_trit_le _ i))⟩⟩

theorem pack9_results (hf : AluFree c f.dst 1 [src f.a, src f.b] f.pred (predOk f.pred && k012 f.ty) accS) :
    ∃ v : Nat → Int × Fx,
      exec (.pack9 f) s = .next (s.computed c f.dst f.pred (fun p => ([(v p).1], (v p).2))) ∧
      ∀ p,
        Completed 9 c.sat (rd c f.a p) (elem (v p).1 9 f.ty.toNat) ∧
        (∀ j < 3, j ≠ f.ty.toNat → elem (v p).1 9 j = elem (rd c f.b p) 9 j) ∧
        (v p).2 = Fx.cond (c.sat && decide (maxT 9 < |rd c f.a p|)) Fx.IO := by
  refine ⟨_, intAB_computed h (show exec (.pack9 f) s = execPack9 f s from rfl) hf, fun p => ?_⟩
  dsimp only
  rw [← srcA_eq_rd hf.pfxOk rfl, ← srcB_eq_rd hf.pfxOk rfl]
  obtain ⟨hk, hj⟩ := elem_insElem9 (x := c.srcB f.b p) (k := f.ty.toNat) (abs_complete_le 9 c.sat (c.srcA f.a p))
  exact ⟨by rw [hk]; exact completed_complete 9 c.sat _, fun j _ => hj j, complete_flags 9 c.sat _⟩

theorem unp9_results (hf : AluFree c f.dst 1 [src f.a] f.pred (predOk f.pred && (k012 f.ty && f.b == 0)) {}) :
    exec (.unp9 f) s =
      .next (s.computed c f.dst f.pred (fun p => ([field (rd c f.a p) (9 * f.ty.toNat) 9], Fx.clear))) := by
  have he := intA_flagless h (i := .unp9 f) (g := fun _ x => (elem x 9 f.ty.toNat, Fx.clear)) rfl hf fun _ => rfl
  simpa only [srcA_eq_rd hf.pfxOk rfl, elem] using he

end

/-- Settles O3: TCNT by `tritCount_spec`, the operations of Table 8.2 on each pair of trits, PACK9 by `elem_insElem9`. -/
theorem tritWordResults : Obligations.TritWordResults := by
  unfold Obligations.TritWordResults
  refine ⟨fun s c f h => ⟨fun hf => ⟨_, tcnt_results h hf, fun p => tritCount_spec _ _⟩, fun hf q hq => ?_, fun hf => ?_⟩,
    fun s c f h => ⟨pack9_results h, unp9_results h⟩⟩
  · simp only [List.mem_cons, List.not_mem_nil, or_false] at hq
    rcases hq with rfl | rfl | rfl | rfl | rfl
    · exact perTrit_results h hf (i := .tmin f) rfl onTrits_min fun x y _ _ => congrFun₂ elemMin_eq_min x y
    · exact perTrit_results h hf (i := .tmax f) rfl onTrits_max fun x y _ _ => congrFun₂ elemMax_eq_max x y
    · exact perTrit_results h hf (i := .tsum f) rfl onTrits_sum fun _ _ => tritSum_eq
    · exact perTrit_results h hf (i := .tmul f) rfl onTrits_mul fun _ _ _ _ => rfl
    · exact perTrit_results h hf (i := .tcons f) rfl onTrits_cons fun _ _ _ _ => rfl
  · exact ⟨_, intA_flagless h (i := .tnot f) (g := fun _ x => (-x, Fx.clear)) rfl hf fun _ => rfl, fun _ i _ => trit_neg _ i⟩

end Sys2Proof.Machine
end

section
/-! ## Comparisons, predicates, selection and single lanes (O4, O7, O9)

Predicates of several threads (08 R148, R150), the forms of MOVQ (08 R152), SEL (08 R151), MOVS and LANE (08 R154). -/
namespace Sys2Proof.Machine

/-! ### Signs (08 R148) -/

theorem ofSign_sgn (x : Int) : Trit.ofSign (Sys2Proof.sgn x) = Trit.ofSign x := by
  unfold Sys2Proof.sgn
  split_ifs <;> simp_all [Trit.ofSign]

theorem ofSign_toInt (t : Trit) : Trit.ofSign t.toInt = t := by cases t <;> rfl

theorem abs_toInt_le (t : Trit) : |t.toInt| ≤ 1 := by cases t <;> decide

/-! ### Writes of the acting threads, and traps -/

theorem perThread_one (c : Ctx) (d pred : Int) (v : Nat → Int) :
    perThread c d pred (fun p => ([v p], Fx.clear)) =
      (c.acting pred).foldl (fun r p => wrReg c.gen0 c.w r d p (v p)) c.r := by
  simp only [perThread, wrRegs_one, raise_clear]

theorem isSca_of_isVec {d : Int} (h : isVec d = true) : isSca d = false := by
  simp only [isSca, isVec, decide_eq_true_eq, decide_eq_false_iff_not] at h ⊢
  omega

theorem vecDst_of_isSca {c : Ctx} {d : Int} (h0 : c.gen0 = false) (hd : isSca d = true) : vecDst c d = false := by
  simp [vecDst, h0, isVec_of_isSca hd]

theorem scaDst_of_isVec {c : Ctx} {d : Int} (h0 : c.gen0 = false) (hd : isVec d = true) : scaDst c d = false := by
  simp [scaDst, h0, isSca_of_isVec hd]

/-- A gather that names what it may and whose fields are at fault traps ILLMOD. -/
theorem gather_illmod {s : State} {c : Ctx} {d pred v : Int} {srcs : List Use} {rows : List Int}
    {fields : Bool} (hn : Named c false (dst d :: srcs))
    (hf : (fields && predOk pred && scaDst c d && rowSrcs c rows) = false) :
    gather s c d srcs rows pred fields v = .error Trap.illmod := by
  rw [gather, gate_illmod hn (by simp [hf]), bind_error]

/-- The ballot of a beat holds the predicate of each active thread. -/
theorem ballot_spec (c : Ctx) (qa beat : Int) :
    |ballot c qa beat| ≤ maxT 27 ∧ ∀ l < 27, trit (ballot c qa beat) l =
      if 27 * beat.toNat + l ∈ c.act then (c.r.q qa.toNat (27 * beat.toNat + l)).toInt else 0 := by
  have hq (l : Nat) : |if c.act.contains (27 * beat.toNat + l) then c.qv qa (27 * beat.toNat + l) else 0| ≤ 1 := by
    split
    · exact abs_toInt_le _
    · simp
  refine ⟨abs_ofTrits_le hq, fun l hl => (trit_ofTrits hq hl).trans ?_⟩
  simp only [List.contains_iff_mem, Ctx.qv]

/-! ### Comparisons and predicate instructions (08 R148, R150) -/

section
variable {s : State} {c : Ctx} (h : Issuing s c)
include h

theorem cmp_results (f : FA) (hf : Free c false [src f.a, src f.b] (f.ty == 0 && predOk f.pred && qNum f.dst) accAB) :
    exec (.cmp f) s = .next (s.predicated c f.dst f.pred (fun p => Trit.ofSign (c.srcA f.a p - c.srcB f.b p))) := by
  refine (withRow_ok h (quAlu_ok hf fun _ => rfl)).trans ?_
  simp only [ofSign_sgn]
  rfl

theorem cmpi_results (f : FB)
    (hf : Free c false [src f.a] (f.ty == 0 && predOk c.mod.pred && qNum f.dst) { p := true, imm := true, na := true }) :
    exec (.cmpi f) s =
      .next (s.predicated c f.dst c.mod.pred (fun p => Trit.ofSign (c.srcA f.a p - c.immVal f.imm))) := by
  refine (withRow_ok h (quAlu_ok hf fun _ => rfl)).trans ?_
  simp only [ofSign_sgn]
  rfl

variable {f : FA}

theorem qmin_qmax_results
    (hf : Free c false [] (f.ty == 0 && qNum f.a && qNum f.b && predOk f.pred && qNum f.dst) accAB) :
    exec (.qmin f) s = .next (s.predicated c f.dst f.pred (fun p =>
      Trit.ofSign (Min.min (negIf c.mod.na (c.qv f.a p)) (negIf c.mod.nb (c.qv f.b p))))) ∧
    exec (.qmax f) s = .next (s.predicated c f.dst f.pred (fun p =>
      Trit.ofSign (Max.max (negIf c.mod.na (c.qv f.a p)) (negIf c.mod.nb (c.qv f.b p))))) := by
  refine ⟨(withRow_ok h (quAlu_ok hf fun _ => rfl)).trans ?_, (withRow_ok h (quAlu_ok hf fun _ => rfl)).trans ?_⟩
  · rw [elemMin_eq_min]
  · rw [elemMax_eq_max]

theorem qnot_qmov_results (hf : Free c false [] (f.ty == 0 && qNum f.a && f.b == 0 && predOk f.pred && qNum f.dst) {}) :
    exec (.qnot f) s = .next (s.predicated c f.dst f.pred (fun p => Trit.ofSign (-(c.r.q f.a.toNat p).toInt))) ∧
    exec (.qmov f) s = .next (s.predicated c f.dst f.pred (fun p => c.r.q f.a.toNat p)) := by
  refine ⟨withRow_ok h (quAlu_ok hf fun _ => rfl), (withRow_ok h (quAlu_ok hf fun _ => rfl)).trans ?_⟩
  simp only [Ctx.qv, ofSign_toInt]

/-! ### The forms of MOVQ (08 R152) -/

theorem movqToRegister_results
    (hf : Free c false [dst f.dst] (predOk f.pred && vecDst c f.dst && f.ty == 0 && qNum f.a && f.b == 0) {}) :
    exec (.movqToRegister f) s = .next (s.finish c ((c.acting f.pred).foldl
      (fun (r : Row) p => wrReg c.gen0 c.w r f.dst p (c.r.q f.a.toNat p).toInt) c.r)) := by
  obtain ⟨hl, hb⟩ := hf
  refine withRow_ok h ?_
  dsimp only
  rw [gate_ok hl, bind_ok, hb, perThread_one]
  rfl

theorem movqToPredicate_results (hf : Free c false [src f.a] (f.ty == 1 && f.b == 0 && predOk f.pred && qNum f.dst) {}) :
    exec (.movqToPredicate f) s = .next (s.predicated c f.dst f.pred (fun p => Trit.ofSign (rd c f.a p))) := by
  refine (withRow_ok h (quAlu_ok hf fun _ => rfl)).trans ?_
  simp only [ofSign_sgn]

theorem movqBallot_results
    (hf : RowFree c f.dst [] [] f.pred (f.ty == -1 && qNum f.a && decide (0 ≤ f.b ∧ f.b ≤ 2))) :
    exec (.movqBallot f) s = .next (s.gathered c f.dst f.pred (ballot c f.a f.b)) :=
  withRow_ok h (gather_ok hf)

theorem movq_illmod (hn : Named c false [dst f.dst]) (h0 : c.gen0 = false) :
    (isSca f.dst = true → exec (.movqToRegister f) s = .next (takeTrap s c Trap.illmod)) ∧
    (isVec f.dst = true → exec (.movqBallot f) s = .next (takeTrap s c Trap.illmod)) ∧
    (f.b < 0 ∨ 2 < f.b → exec (.movqBallot f) s = .next (takeTrap s c Trap.illmod)) := by
  refine ⟨fun hd => withRow_error h ?_, fun hd => withRow_error h (gather_illmod hn ?_),
    fun hb => withRow_error h (gather_illmod hn ?_)⟩
  · dsimp only
    rw [gate_illmod hn, bind_error]
    simp [vecDst_of_isSca h0 hd]
  · simp [scaDst_of_isVec h0 hd]
  · simp [show ¬(0 ≤ f.b ∧ f.b ≤ 2) by omega]

/-! ### SEL (08 R151) -/

theorem sel_results (hf : Free c false [dst f.dst, src f.a, src f.b] (predOk f.pred && vecDst c f.dst) accAB) :
    exec (.sel f) s = .next (s.finish c ((c.acting f.pred).foldl (fun (r : Row) p =>
      match c.r.q (f.ty + 4).toNat p with
      | .pos => wrReg c.gen0 c.w r f.dst p (c.srcA f.a p)
      | .neg => wrReg c.gen0 c.w r f.dst p (c.srcB f.b p)
      | .zero => r) c.r)) := by
  obtain ⟨hl, hb⟩ := hf
  refine withRow_ok h ?_
  dsimp only
  rw [gate_ok hl, bind_ok, hb, if_neg Bool.false_ne_true]
  congr 3
  funext r p
  cases hq : c.r.q (f.ty + 4).toNat p <;> simp [Ctx.qv, hq, Trit.toInt, Ctx.srcA, Ctx.srcB]

theorem sel_illmod (hn : Named c false [dst f.dst, src f.a, src f.b]) (h0 : c.gen0 = false) (hd : isSca f.dst = true) :
    exec (.sel f) s = .next (takeTrap s c Trap.illmod) := by
  refine withRow_error h ?_
  dsimp only
  rw [gate_illmod hn, bind_error]
  simp [vecDst_of_isSca h0 hd]

/-! ### Single lanes (08 R154) -/

theorem movs_results (hf : RowFree c f.dst [src f.a, src f.b] [f.b] f.pred (f.ty == 0)) :
    exec (.movs f) s = .next (s.gathered c f.dst f.pred
      (if 0 ≤ rdRow c f.b ∧ (rdRow c f.b).toNat ∈ c.act then rd c f.a (rdRow c f.b).toNat else 0)) :=
  withRow_ok h (gather_ok hf)

theorem lane_results
    (hf : Free c false [dst f.dst, src f.a, src f.b]
      (predOk f.pred && vecDst c f.dst && f.ty == 0 && rowSrcs c [f.a, f.b]) {})
    (hu : uniform c [f.a, f.b] = true) (ho : OneWay c f.pred) :
    exec (.lane f) s = .next (s.finish c
      (if (c.acting f.pred).length = c.act.length ∧ 0 ≤ rdRow c f.b ∧ (rdRow c f.b).toNat ∈ c.act then
        wrReg c.gen0 c.w c.r f.dst (rdRow c f.b).toNat (rdRow c f.a) else c.r)) := by
  obtain ⟨hl, hb⟩ := hf
  refine withRow_ok h ?_
  dsimp only
  rw [gate_ok hl, bind_ok, hb, if_neg Bool.false_ne_true, hu, need_true, bind_ok, rowActs_ok ho, bind_ok]
  simp only [decide_eq_true_eq]

theorem movs_lane_illmod (hn : Named c false [dst f.dst, src f.a, src f.b]) (h0 : c.gen0 = false) :
    (isVec f.dst = true → exec (.movs f) s = .next (takeTrap s c Trap.illmod)) ∧
    (isSca f.dst = true → exec (.lane f) s = .next (takeTrap s c Trap.illmod)) := by
  refine ⟨fun hd => withRow_error h (gather_illmod hn ?_), fun hd => withRow_error h ?_⟩
  · simp [scaDst_of_isVec h0 hd]
  · dsimp only
    rw [gate_illmod hn, bind_error]
    simp [vecDst_of_isSca h0 hd]

end

/-- Settles O4: comparisons and predicate instructions through `quAlu`, each form of MOVQ by its own lemma. -/
theorem comparePredicateResults : Obligations.ComparePredicateResults := by
  unfold Obligations.ComparePredicateResults
  exact ⟨fun s c h => ⟨cmp_results h, cmpi_results h⟩, fun s c f h => ⟨qmin_qmax_results h, qnot_qmov_results h⟩,
    fun s c f h => ⟨movqToRegister_results h, movqToPredicate_results h,
      fun hf => ⟨_, movqBallot_results h hf, ballot_spec ..⟩, movq_illmod h⟩⟩

/-- Settles O7: `sel_results`, and the trap of a scalar destination. -/
theorem selResults : Obligations.SelResults := by
  unfold Obligations.SelResults
  exact fun s c f h => ⟨sel_results h, sel_illmod h⟩

/-- Settles O9: `movs_results` and `lane_results`, and the traps of the wrong kind of destination. -/
theorem laneMoveResults : Obligations.LaneMoveResults := by
  unfold Obligations.LaneMoveResults
  exact fun s c f h => ⟨movs_results h, lane_results h, movs_lane_illmod h⟩

end Sys2Proof.Machine
end

section
/-! ## Immediate and three-source forms (O5, O6)

MOVI to SHRI (08 R143), TEXT and TINS (08 R144), MAD to LEAD (08 R145 to R147). -/
namespace Sys2Proof.Machine

/-! ### Immediate forms (08 R142, R143) -/

/-- The count of an immediate shift. -/
theorem shiftCount_eq {c : Ctx} {f : FB} {a : Accept} {q : Bool} (hf : AluFree c f.dst 1 [src f.a] c.mod.pred
    (q && decide (0 ≤ f.imm ∧ f.imm < (widthOfA f.ty : Int))) a) : ∃ n : Nat, f.imm = n ∧ n < widthOfA f.ty := by
  have hc := hf.fields
  simp only [Bool.and_eq_true, decide_eq_true_eq] at hc
  exact ⟨f.imm.toNat, by omega, by omega⟩

section
variable {s : State} {c : Ctx} {f : FB} {i : Instr} {fields : Int → Bool} {a : Accept} {g : Bool → Int → Int → Int × Fx}
  (h : Issuing s c)
include h

/-- The words that an immediate form computes from source a. -/
theorem immA_computed (hi : exec i s = immForm s f true fields a g)
    (hf : AluFree c f.dst 1 [src f.a] c.mod.pred (fields (c.immVal f.imm)) a) :
    exec i s = .next (s.computed c f.dst c.mod.pred (fun p =>
      ([(g c.sat (c.srcA f.a p) (c.immVal f.imm)).1], (g c.sat (c.srcA f.a p) (c.immVal f.imm)).2))) := by
  rw [← Bool.and_true (fields _)] at hf
  exact hi.trans (withRow_ok h (alu_ok (a := ⟨f.dst, 1, _, c.mod.pred, _, a⟩) hf))

/-- … where it raises no flag. -/
theorem immA_flagless (hi : exec i s = immForm s f true fields a g)
    (hf : AluFree c f.dst 1 [src f.a] c.mod.pred (fields (c.immVal f.imm)) a)
    (hx : ∀ p, (g c.sat (c.srcA f.a p) (c.immVal f.imm)).2 = Fx.clear) :
    exec i s = .next (s.computed c f.dst c.mod.pred (fun p => ([(g c.sat (c.srcA f.a p) (c.immVal f.imm)).1], Fx.clear))) := by
  rw [immA_computed h hi hf]
  simp only [hx]

theorem movi_results (hf : AluFree c f.dst 1 [] c.mod.pred (t27t9 f.ty && f.a == 0) (accImm f.ty)) :
    ∃ v : Int,
      exec (.movi f) s = .next (s.computed c f.dst c.mod.pred (fun _ => ([v], Fx.clear))) ∧
      ∀ j < elems (widthOfA f.ty), elem v (widthOfA f.ty) j = wrapT (widthOfA f.ty) (c.immVal f.imm) := by
  obtain ⟨he, hx⟩ := perElem_complete (widthOfA f.ty) false (fun _ => c.immVal f.imm)
  refine ⟨_, (withRow_ok h (alu_ok (a := ⟨f.dst, 1, [], c.mod.pred, t27t9 f.ty && f.a == 0, accImm f.ty⟩) hf)).trans ?_, he⟩
  simp only [show (perElem (widthOfA f.ty) fun _ => complete (widthOfA f.ty) false (c.immVal f.imm)).2 = Fx.clear from hx]

/-- ADDI and MULI complete an element operation with the immediate. -/
theorem immediate_completed (hf : AluFree c f.dst 1 [src f.a] c.mod.pred (t27t9 f.ty) a) {e : Int → Int → Int}
    (hi : exec i s = immForm s f true (fun _ => t27t9 f.ty) a
      (fun sat x y => packed (widthOfA f.ty) sat (fun x _ => e x y) x 0)) :
    ∃ v : Nat → Int × Fx,
      exec i s = .next (s.computed c f.dst c.mod.pred (fun p => ([(v p).1], (v p).2))) ∧
      ∀ p,
        (∀ j < elems (widthOfA f.ty), Completed (widthOfA f.ty) c.sat
          (e (elem (c.srcA f.a p) (widthOfA f.ty) j) (c.immVal f.imm)) (elem (v p).1 (widthOfA f.ty) j)) ∧
        OnlyIO (widthOfA f.ty) c.sat (fun j => e (elem (c.srcA f.a p) (widthOfA f.ty) j) (c.immVal f.imm)) (v p).2 :=
  ⟨_, immA_computed h hi hf, fun _ => perElem_complete _ c.sat _⟩

theorem shli_results (hf : AluFree c f.dst 1 [src f.a] c.mod.pred
    (t27t9 f.ty && decide (0 ≤ f.imm ∧ f.imm < (widthOfA f.ty : Int))) { p := true, sat := true }) :
    ∃ v : Nat → Int × Fx,
      exec (.shli f) s = .next (s.computed c f.dst c.mod.pred (fun p => ([(v p).1], (v p).2))) ∧
      ∀ p,
        (∀ j < elems (widthOfA f.ty), Completed (widthOfA f.ty) c.sat
          (elem (rd c f.a p) (widthOfA f.ty) j * 3 ^ f.imm.toNat) (elem (v p).1 (widthOfA f.ty) j)) ∧
        OnlyIO (widthOfA f.ty) c.sat (fun j => elem (rd c f.a p) (widthOfA f.ty) j * 3 ^ f.imm.toNat) (v p).2 := by
  have hy : c.immVal f.imm = f.imm := immVal_eq hf.pfxOk rfl _
  obtain ⟨n, hn, -⟩ := shiftCount_eq hf
  have he := immA_computed h (show exec (.shli f) s = execShli f s from rfl) (by rw [hy]; exact hf)
  refine ⟨_, he, fun p => ?_⟩
  rw [hy, srcA_eq_rd hf.pfxOk rfl, hn, Int.toNat_natCast]
  exact shiftWord_up ..

theorem shri_results (hf : AluFree c f.dst 1 [src f.a] c.mod.pred
    (t27t9 f.ty && decide (0 ≤ f.imm ∧ f.imm < (widthOfA f.ty : Int))) { p := true }) :
    ∃ v : Nat → Int,
      exec (.shri f) s = .next (s.computed c f.dst c.mod.pred (fun p => ([v p], Fx.clear))) ∧
      ∀ p, ∀ j < elems (widthOfA f.ty), elem (v p) (widthOfA f.ty) j =
        field (elem (rd c f.a p) (widthOfA f.ty) j) f.imm.toNat (widthOfA f.ty - f.imm.toNat) := by
  have hy : c.immVal f.imm = f.imm := immVal_eq hf.pfxOk rfl _
  obtain ⟨n, hn, hlt⟩ := shiftCount_eq hf
  have hp (p : Nat) := shiftWord_neg hlt (c.srcA f.a p)
  refine ⟨_, immA_flagless h (show exec (.shri f) s = execShri f s from rfl) (by rw [hy]; exact hf) fun p => ?_, fun p => ?_⟩
  · rw [hy, hn]
    exact (hp p).1
  · rw [hy, ← srcA_eq_rd hf.pfxOk rfl, hn, Int.toNat_natCast]
    exact (hp p).2

/-! ### TEXT and TINS (08 R144) -/

theorem text_results (hf : AluFree c f.dst 1 [src f.a] c.mod.pred (f.ty == 0 && textOk f.imm) { p := true }) :
    exec (.text f) s = .next (s.computed c f.dst c.mod.pred
      (fun p => ([field (rd c f.a p) (field f.imm 0 4).toNat (field f.imm 4 5).toNat], Fx.clear))) := by
  have hy : c.immVal f.imm = f.imm := immVal_eq hf.pfxOk rfl _
  have he := immA_flagless h (show exec (.text f) s = execText f s from rfl) (by rw [hy]; exact hf) fun _ => rfl
  simpa only [hy, srcA_eq_rd hf.pfxOk rfl, textPos, textLen] using he

theorem tins_results (hf : AluFree c f.dst 1 [src f.a] c.mod.pred (f.ty == 0 && textOk f.imm) { p := true }) :
    exec (.tins f) s = .next (s.computed c f.dst c.mod.pred (fun p =>
      ([tinsWord (rd c f.dst p) (rd c f.a p) (textPos f.imm).toNat (textLen f.imm).toNat], Fx.clear))) := by
  have hy : c.immVal f.imm = f.imm := immVal_eq hf.pfxOk rfl _
  refine withRow_ok h ?_
  dsimp only
  rw [hy]
  exact alu_ok (a := ⟨f.dst, 1, _, c.mod.pred, _, _⟩) hf

end

/-- Settles O5: each immediate form by its own lemma, the trits of TINS by `trit_tinsWord`. -/
theorem immediateFieldResults : Obligations.ImmediateFieldResults := by
  unfold Obligations.ImmediateFieldResults
  refine ⟨fun s c f h => ⟨movi_results h, fun hf q hq => ?_, shli_results h, shri_results h⟩, fun s c f h hf =>
    ⟨text_results h hf, _, tins_results h hf, fun p i _ => trit_tinsWord ..⟩⟩
  simp only [List.mem_cons, List.not_mem_nil, or_false] at hq
  rcases hq with rfl | rfl
  · exact immediate_completed h hf (i := .addi f) (e := fun x y => x + y) rfl
  · exact immediate_completed h hf (i := .muli f) (e := fun x y => x * y) rfl

/-! ### Three-source forms (08 R145 to R147) -/

theorem abs_tselTrit_le {x y z : Int} (hy : |y| ≤ 1) (hz : |z| ≤ 1) : |tselTrit x y z| ≤ 1 := by
  unfold tselTrit
  split_ifs
  · exact hy
  · simp
  · exact hz

/-- The trit that TSEL picks by the trit x. -/
theorem tselTrit_eq {x : Int} (hx : |x| ≤ 1) (y z : Int) :
    tselTrit x y z = if x = -1 then y else if x = 0 then 0 else z := by
  rcases trit_cases hx with rfl | rfl | rfl <;> simp [tselTrit]

/-- The word that TSEL picks trit by trit. -/
theorem ofTrits_tselTrit (x y z : Int) :
    |ofTrits (fun i => tselTrit (trit x i) (trit y i) (trit z i))| ≤ maxT 27 ∧
      ∀ i < 27, trit (ofTrits (fun i => tselTrit (trit x i) (trit y i) (trit z i))) i =
        if trit x i = -1 then trit y i else if trit x i = 0 then 0 else trit z i := by
  have ht (i : Nat) : |tselTrit (trit x i) (trit y i) (trit z i)| ≤ 1 := abs_tselTrit_le (abs_trit_le ..) (abs_trit_le ..)
  exact ⟨abs_ofTrits_le ht, fun i hi => (trit_ofTrits ht hi).trans (tselTrit_eq (abs_trit_le ..) _ _)⟩

section
variable {s : State} {c : Ctx} {f : FC} {i : Instr} {fields : Bool} {a : Accept} {g : Bool → Int → Int → Int → Int × Fx}
  (h : Issuing s c)
include h

/-- The words that a three-source form computes. -/
theorem three_computed (hi : exec i s = three s f fields a g)
    (hf : AluFree c f.dst 1 [src f.a, src f.b, src f.c] c.mod.pred fields a) :
    exec i s = .next (s.computed c f.dst c.mod.pred (fun p =>
      ([(g c.sat (c.srcA f.a p) (c.srcB f.b p) (c.srcC f.c p)).1], (g c.sat (c.srcA f.a p) (c.srcB f.b p) (c.srcC f.c p)).2))) :=
  hi.trans (withRow_ok h (alu_ok (a := ⟨f.dst, 1, _, c.mod.pred, _, a⟩) hf))

/-- … where it raises no flag. -/
theorem three_flagless (hi : exec i s = three s f fields a g)
    (hf : AluFree c f.dst 1 [src f.a, src f.b, src f.c] c.mod.pred fields a)
    (hx : ∀ p, (g c.sat (c.srcA f.a p) (c.srcB f.b p) (c.srcC f.c p)).2 = Fx.clear) :
    exec i s = .next (s.computed c f.dst c.mod.pred (fun p =>
      ([(g c.sat (c.srcA f.a p) (c.srcB f.b p) (c.srcC f.c p)).1], Fx.clear))) := by
  rw [three_computed h hi hf]
  simp only [hx]

theorem mad_results (hf : AluFree c f.dst 1 [src f.a, src f.b, src f.c] c.mod.pred (t27t9 f.ty) { accABC with sat := true }) :
    ∃ v : Nat → Int × Fx,
      exec (.mad f) s = .next (s.computed c f.dst c.mod.pred (fun p => ([(v p).1], (v p).2))) ∧
      ∀ p,
        let e := fun j => elem (c.srcA f.a p) (widthOfC f.ty) j * elem (c.srcB f.b p) (widthOfC f.ty) j +
          elem (c.srcC f.c p) (widthOfC f.ty) j
        (∀ j < elems (widthOfC f.ty), Completed (widthOfC f.ty) c.sat (e j) (elem (v p).1 (widthOfC f.ty) j)) ∧
        OnlyIO (widthOfC f.ty) c.sat e (v p).2 :=
  ⟨_, three_computed h (show exec (.mad f) s = execMad f s from rfl) hf, fun _ => perElem_complete _ c.sat _⟩

theorem clamp_results (hf : AluFree c f.dst 1 [src f.a, src f.b, src f.c] c.mod.pred (t27t9 f.ty) accABC) :
    ∃ v : Nat → Int,
      exec (.clamp f) s = .next (s.computed c f.dst c.mod.pred (fun p => ([v p], Fx.clear))) ∧
      ∀ p, ∀ j < elems (widthOfC f.ty), elem (v p) (widthOfC f.ty) j =
        Min.min (Max.max (elem (c.srcA f.a p) (widthOfC f.ty) j) (elem (c.srcB f.b p) (widthOfC f.ty) j))
          (elem (c.srcC f.c p) (widthOfC f.ty) j) := by
  have hp (p : Nat) := perElem_flagless (w := widthOfC f.ty)
    (e := fun j => elemMin (elemMax (elem (c.srcA f.a p) _ j) (elem (c.srcB f.b p) _ j)) (elem (c.srcC f.c p) _ j))
    fun j _ => abs_elemMin_le (abs_elemMax_le (abs_elem_le ..) (abs_elem_le ..)) (abs_elem_le ..)
  have he := three_flagless h (show exec (.clamp f) s = execClamp f s from rfl) hf fun p => (hp p).1
  refine ⟨_, he, fun p j hj => ((hp p).2 j hj).trans ?_⟩
  rw [elemMin_eq_min, elemMax_eq_max]

theorem tsel_results (hf : AluFree c f.dst 1 [src f.a, src f.b, src f.c] c.mod.pred (f.ty == 0) accABC) :
    ∃ v : Nat → Int,
      exec (.tsel f) s = .next (s.computed c f.dst c.mod.pred (fun p => ([v p], Fx.clear))) ∧
      ∀ p, |v p| ≤ maxT 27 ∧ ∀ i < 27, trit (v p) i =
        if trit (c.srcA f.a p) i = -1 then trit (c.srcB f.b p) i
        else if trit (c.srcA f.a p) i = 0 then 0 else trit (c.srcC f.c p) i := by
  have he := three_flagless h (show exec (.tsel f) s = execTsel f s from rfl) hf fun _ => rfl
  exact ⟨_, he, fun p => ofTrits_tselTrit _ _ _⟩

/-- LEA and LEAD wrap an address. -/
theorem lea_lead_results
    (hf : AluFree c f.dst 1 [src f.a, src f.b] c.mod.pred (f.ty == 0 && decide (0 ≤ f.c ∧ f.c ≤ 26))
      { p := true, na := true, nb := true }) :
    exec (.lea f) s = .next (s.computed c f.dst c.mod.pred
      (fun p => ([wrapT 27 (c.srcA f.a p + c.srcB f.b p * 3 ^ f.c.toNat)], Fx.clear))) ∧
    exec (.lead f) s = .next (s.computed c f.dst c.mod.pred
      (fun p => ([wrapT 27 (3 ^ f.c.toNat * Int.floor ((c.srcA f.a p : Rat) / 3 ^ f.c.toNat) +
        c.srcB f.b p * 3 ^ f.c.toNat)], Fx.clear))) := by
  refine ⟨withRow_ok h (alu_ok (a := ⟨f.dst, 1, _, c.mod.pred, _, _⟩) hf), ?_⟩
  simp only [floor_div_pow]
  exact withRow_ok h (alu_ok (a := ⟨f.dst, 1, _, c.mod.pred, _, _⟩) hf)

end

/-- Settles O6, instruction by instruction. -/
theorem threeSourceResults : Obligations.ThreeSourceResults := by
  unfold Obligations.ThreeSourceResults
  exact fun s c f h => ⟨mad_results h, clamp_results h, tsel_results h, lea_lead_results h⟩

end Sys2Proof.Machine
end

section
/-! ## Votes and shuffles (O8)

Votes (08 R153); the source positions of shuffles (09 R171). -/
namespace Sys2Proof.Machine

/-! ### Votes (08 R153) -/

/-- Whether the trit or flag that a vote reads in a thread meets its condition. -/
def voteMet (c : Ctx) (f : FA) (p : Nat) : Bool := condHolds f.ty (voteTrit c f.a p)

theorem voteHeld_eq (c : Ctx) (f : FA) : voteHeld c f = c.act.filter (voteMet c f) := rfl

theorem voteHeld_all (c : Ctx) (f : FA) : (voteHeld c f).length = c.act.length ↔ ∀ p ∈ c.act, voteMet c f p = true := by
  rw [voteHeld_eq, List.length_filter_eq_length_iff]

theorem voteHeld_any (c : Ctx) (f : FA) : 0 < (voteHeld c f).length ↔ ∃ p ∈ c.act, voteMet c f p = true := by
  rw [voteHeld_eq, List.length_pos_iff_exists_mem]
  simp only [List.mem_filter]

section
variable {s : State} {c : Ctx} {f : FA}

/-- A vote writes its value once no ATOM owes the flag that it reads. -/
theorem vote_ok (hf : RowFree c f.dst [] [] f.pred (voteFields f)) (hx : f.a < 0 → fxBusy c = false) (v : Int) :
    vote s c f v = .ok (s.gathered c f.dst f.pred v) := by
  rw [vote, gather_ok hf, Except.map, if_neg fun hb => by simp [hx hb.1] at hb]

variable (h : Issuing s c)
include h

theorem vote_results (hf : RowFree c f.dst [] [] f.pred (voteFields f)) (hx : f.a < 0 → fxBusy c = false) :
    exec (.voteAll f) s =
      .next (s.gathered c f.dst f.pred (if ∀ p ∈ c.act, voteMet c f p = true then 1 else -1)) ∧
    exec (.voteAny f) s =
      .next (s.gathered c f.dst f.pred (if ∃ p ∈ c.act, voteMet c f p = true then 1 else -1)) ∧
    exec (.voteCnt f) s = .next (s.gathered c f.dst f.pred ((c.act.countP (voteMet c f) : Nat) : Int)) := by
  refine ⟨(withRow_ok h (vote_ok hf hx _)).trans ?_, (withRow_ok h (vote_ok hf hx _)).trans ?_,
    (withRow_ok h (vote_ok hf hx _)).trans ?_⟩
  · rw [if_congr (voteHeld_all c f) rfl rfl]
  · rw [if_congr (voteHeld_any c f) rfl rfl]
  · rw [voteHeld_eq, List.countP_eq_length_filter]

theorem vote_illmod (hn : Named c false [dst f.dst]) (h0 : c.gen0 = false) (hd : isVec f.dst = true) :
    ∀ i ∈ [Instr.voteAll f, .voteAny f, .voteCnt f], exec i s = .next (takeTrap s c Trap.illmod) := by
  have hv (v : Int) : vote s c f v = .error Trap.illmod := by
    rw [vote, gather_illmod hn (by simp [scaDst_of_isVec h0 hd]), Except.map]
  intro i hi
  simp only [List.mem_cons, List.not_mem_nil, or_false] at hi
  rcases hi with rfl | rfl | rfl
  · exact withRow_error h (hv _)
  · exact withRow_error h (hv _)
  · exact withRow_error h (hv _)

end

/-! ### Shuffles (09 R171) -/

/-- A row has 9, 27 or 81 threads (04 R61). -/
theorem Ctx.w_cases (c : Ctx) : c.w = 9 ∨ c.w = 27 ∨ c.w = 81 := by
  unfold Ctx.w LaunchRec.width
  dsimp only
  split_ifs <;> simp

section
variable {s : State} {c : Ctx} {f : FA}

/-- What a shuffle delivers: the source thread's word, where it is active and in the segment. -/
theorem shuffled_eq (sg t : Nat) (u : Int) :
    shuffled c f sg t u =
      if ((sg * (t / sg) : Nat) : Int) ≤ u ∧ u < ((sg * (t / sg) : Nat) : Int) + sg ∧ u.toNat ∈ c.act then rd c f.a u.toNat
      else rd c f.a t := rfl

/-- The butterfly partner, digit by digit. -/
theorem triPartner_eq (t : Nat) (b : Int) :
    let digit := fun (t k : Nat) (b : Int) => (((t / 3 ^ k % 3 : Nat) : Int) + trit b k) % 3
    triPartner c.w t b = digit t 0 b + 3 * digit t 1 b + (if c.w = 9 then 0 else 9 * digit t 2 b) +
      (if c.w = 81 then 27 * digit t 3 b else 0) := by
  intro digit
  rcases c.w_cases with hw | hw | hw
  all_goals
    simp only [triPartner, levels, hw, digit, List.range_succ, List.range_zero, List.nil_append, List.cons_append,
      List.foldl_cons, List.foldl_nil, reduceIte, Nat.reduceEqDiff]
    ring

variable (h : Issuing s c)
include h

/-- A shuffle by a source position, and its trap. -/
theorem shuffle_results {i : Instr} {tyOk : Bool} {sg : Ctx → Nat} {u : Ctx → Nat → Int → Int}
    (hi : exec i s = shuffle s f tyOk sg u) :
    (Free c false [dst f.dst, src f.a, src f.b] (predOk f.pred && tyOk && vecDst c f.dst) {} →
      exec i s = .next (s.finish c ((c.acting f.pred).foldl (fun (r : Row) t =>
        wrReg c.gen0 c.w r f.dst t (shuffled c f (sg c) t (u c t (rd c f.b t)))) c.r))) ∧
    (Named c false [dst f.dst, src f.a, src f.b] → c.gen0 = false → isSca f.dst = true →
      exec i s = .next (takeTrap s c Trap.illmod)) := by
  rw [hi]
  refine ⟨fun ⟨hl, hb⟩ => withRow_ok h ?_, fun hn h0 hd => withRow_error h ?_⟩
  · dsimp only
    rw [gate_ok hl, bind_ok, hb, perThread_one, if_neg Bool.false_ne_true]
  · dsimp only
    rw [gate_illmod hn, bind_error]
    simp [vecDst_of_isSca h0 hd]

end

end Sys2Proof.Machine
end

section
/-! ## Values combined across threads (O8)

The operators of 09 Table 9.6 on integers and their laws; the tree of 09 R173, which gives each element's total. -/
namespace Sys2Proof.Machine

/-! ### Operators on integers (09 Table 9.6) -/

/-- An operator on integer elements of a type, with the value that changes nothing. -/
structure LaneLaws (o : LaneOp) (ty : Int) (op : Int → Int → Int) (e : Int) : Prop where
  op_eq : intOp o = op
  id_eq : laneId o ty = List.replicate (elems (widthOfA ty)) e
  assoc : ∀ x y z, op (op x y) z = op x (op y z)
  comm : ∀ x y, op x y = op y x
  id_op : ∀ x, |x| ≤ maxT (widthOfA ty) → op e x = x
  abs_id : |e| ≤ maxT (widthOfA ty)

section
variable {g : Int → Int → Int}

theorem perTrit_assoc (hg : OnTrits g) (ha : ∀ x y z, g (g x y) z = g x (g y z)) (x y z : Int) :
    perTrit g (perTrit g x y) z = perTrit g x (perTrit g y z) := by
  refine eq_of_trit_eq (abs_perTrit_le hg _ _) (abs_perTrit_le hg _ _) fun i hi => ?_
  rw [trit_perTrit hg _ _ hi, trit_perTrit hg _ _ hi, trit_perTrit hg _ _ hi, trit_perTrit hg _ _ hi, ha]

theorem perTrit_comm (hg : OnTrits g) (hc : ∀ x y, g x y = g y x) (x y : Int) : perTrit g x y = perTrit g y x := by
  refine eq_of_trit_eq (abs_perTrit_le hg _ _) (abs_perTrit_le hg _ _) fun i hi => ?_
  rw [trit_perTrit hg _ _ hi, trit_perTrit hg _ _ hi, hc]

/-- A word of equal trits that change nothing. -/
theorem perTrit_id (hg : OnTrits g) {e u x : Int} (he : ∀ i < 27, trit e i = u) (hu : ∀ t, |t| ≤ 1 → g u t = t)
    (hx : |x| ≤ maxT 27) : perTrit g e x = x := by
  refine eq_of_trit_eq (abs_perTrit_le hg _ _) hx fun i hi => ?_
  rw [trit_perTrit hg _ _ hi, he i hi, hu _ (abs_trit_le x i)]

end

theorem trit_maxT : ∀ i < 27, trit (maxT 27) i = 1 := by decide

theorem laneLaws_add {ty : Int} (ht : t27t9 ty = true) : LaneLaws .add ty (fun x y => x + y) 0 where
  op_eq := rfl
  id_eq := by
    rcases (by simpa [t27t9] using ht : ty = 0 ∨ ty = 1) with rfl | rfl <;> rfl
  assoc := add_assoc
  comm := add_comm
  id_op x _ := zero_add x
  abs_id := by simpa using maxT_nonneg _

theorem laneLaws_min {ty : Int} (ht : t27t9 ty = true) : LaneLaws .min ty (fun x y => Min.min x y) (maxT (widthOfA ty)) where
  op_eq := elemMin_eq_min
  id_eq := by
    rcases (by simpa [t27t9] using ht : ty = 0 ∨ ty = 1) with rfl | rfl <;> rfl
  assoc := min_assoc
  comm := min_comm
  id_op x hx := min_eq_right (abs_le.mp hx).2
  abs_id := (abs_of_nonneg (maxT_nonneg _)).le

theorem laneLaws_max {ty : Int} (ht : t27t9 ty = true) : LaneLaws .max ty (fun x y => Max.max x y) (-(maxT (widthOfA ty))) where
  op_eq := elemMax_eq_max
  id_eq := by
    rcases (by simpa [t27t9] using ht : ty = 0 ∨ ty = 1) with rfl | rfl <;> rfl
  assoc := max_assoc
  comm := max_comm
  id_op x hx := max_eq_right (abs_le.mp hx).1
  abs_id := by rw [abs_neg, abs_of_nonneg (maxT_nonneg _)]

theorem laneLaws_tmin : LaneLaws .tmin 0 (perTrit (fun x y => Min.min x y)) (maxT 27) where
  op_eq := by rw [← elemMin_eq_min]; rfl
  id_eq := rfl
  assoc := perTrit_assoc (elemMin_eq_min ▸ onTrits_min) min_assoc
  comm := perTrit_comm (elemMin_eq_min ▸ onTrits_min) min_comm
  id_op _ hx := perTrit_id (elemMin_eq_min ▸ onTrits_min) trit_maxT (fun _ ht => min_eq_right (abs_le.mp ht).2) hx
  abs_id := (abs_of_nonneg (maxT_nonneg _)).le

theorem laneLaws_tmax : LaneLaws .tmax 0 (perTrit (fun x y => Max.max x y)) (-(maxT 27)) where
  op_eq := by rw [← elemMax_eq_max]; rfl
  id_eq := rfl
  assoc := perTrit_assoc (elemMax_eq_max ▸ onTrits_max) max_assoc
  comm := perTrit_comm (elemMax_eq_max ▸ onTrits_max) max_comm
  id_op _ hx := perTrit_id (elemMax_eq_max ▸ onTrits_max) (fun i hi => by rw [trit_neg, trit_maxT i hi])
    (fun _ ht => max_eq_right (abs_le.mp ht).1) hx
  abs_id := by rw [abs_neg]; exact (abs_of_nonneg (maxT_nonneg _)).le

/-! ### Values that are combined (09 R173) -/

theorem getD_zipWith {g : Int → Int → Int} {l m : List Int} {j : Nat} (hl : j < l.length) (hm : j < m.length) :
    (List.zipWith g l m).getD j 0 = g (l.getD j 0) (m.getD j 0) := by
  have hz : j < (List.zipWith g l m).length := by
    rw [List.length_zipWith]
    omega
  rw [List.getD_eq_getElem _ _ hz, List.getD_eq_getElem _ _ hl, List.getD_eq_getElem _ _ hm, List.getElem_zipWith]

theorem clear_union (x : Fx) : Fx.clear.union x = x := by simp [Fx.union, Fx.clear]

/-- An integer value of a type: as many elements as it has, each kept by the operator's identity, and no flag. -/
structure LaneInt (ty : Int) (op : Int → Int → Int) (e : Int) (a : LaneAcc) : Prop where
  length : a.els.length = elems (widthOfA ty)
  fx : a.fx = Fx.clear
  fixed : ∀ j < elems (widthOfA ty), op e (a.els.getD j 0) = a.els.getD j 0

section
variable {ty : Int} {op : Int → Int → Int} {e : Int} {sat : Bool} {a : LaneAcc}

/-- Its elements completed. -/
theorem laneDone_eq (h3 : ty ≠ 3) (ha : LaneInt ty op e a) :
    laneDone ty sat a = perElem (widthOfA ty) (fun j => complete (widthOfA ty) sat (a.els.getD j 0)) := by
  rw [laneDone, if_neg h3, ha.fx, ha.length]
  exact Prod.ext rfl (clear_union _)

theorem laneDone_results (h3 : ty ≠ 3) (ha : LaneInt ty op e a) :
    (∀ j < elems (widthOfA ty), Completed (widthOfA ty) sat (a.els.getD j 0) (elem (laneDone ty sat a).1 (widthOfA ty) j)) ∧
      OnlyIO (widthOfA ty) sat (fun j => a.els.getD j 0) (laneDone ty sat a).2 := by
  rw [laneDone_eq h3 ha]
  exact perElem_complete _ sat _

end

theorem ty_ne_three {ty : Int} (ht : t27t9 ty = true) : ty ≠ 3 := by
  rintro rfl
  cases ht

/-- The elements of a source word. -/
theorem laneEls_spec {ty x : Int} (ht : t27t9 ty = true) (hx : |x| ≤ maxT 27) :
    (laneEls ty x).length = elems (widthOfA ty) ∧
      ∀ j < elems (widthOfA ty), |(laneEls ty x).getD j 0| ≤ maxT (widthOfA ty) := by
  rcases (by simpa [t27t9] using ht : ty = 0 ∨ ty = 1) with rfl | rfl
  · refine ⟨rfl, fun j hj => ?_⟩
    obtain rfl : j = 0 := by simpa [elems, widthOfA] using hj
    exact hx
  · refine ⟨rfl, fun j hj => ?_⟩
    have hj : j < 3 := hj
    interval_cases j <;> exact abs_elem_le _ _ _

theorem abs_laneSrc_le {c : Ctx} {f : FA} (h3 : f.ty ≠ 3) (p : Nat) : |laneSrc c f p| ≤ maxT 27 := by
  simp only [laneSrc, if_neg h3]
  split
  · rw [abs_neg]
    exact abs_rd_le c f.a p
  · exact abs_rd_le c f.a p

/-! ### The tree (09 R173) -/

section
variable {o : LaneOp} {ty : Int}

theorem length_treeLevel (l : List LaneAcc) {m : Nat} (h : l.length = 3 * m) : (treeLevel o ty l).length = m := by
  induction m generalizing l with
  | zero =>
    obtain rfl := List.length_eq_zero_iff.mp h
    rfl
  | succ m ih =>
    match l, h with
    | x :: y :: z :: r, h => simpa [treeLevel] using ih r (by simpa [Nat.mul_succ] using h)

/-- n levels leave one value of 3^n. -/
theorem treeTotal_singleton (n : Nat) (l : List LaneAcc) (h : l.length = 3 ^ n) : ∃ a, treeTotal o ty n l = [a] := by
  induction n generalizing l with
  | zero => exact List.length_eq_one_iff.mp h
  | succ n ih => exact ih _ (length_treeLevel l (by rw [h, pow_succ']))

theorem pow_levels (c : Ctx) : 3 ^ levels c.w = c.w := by
  rcases c.w_cases with h | h | h <;> rw [h] <;> rfl

variable {op : Int → Int → Int} {e : Int} (hL : LaneLaws o ty op e) (h3 : ty ≠ 3)
include hL h3

theorem laneInt_node3 {x y z : LaneAcc} (hx : LaneInt ty op e x) (hy : LaneInt ty op e y) (hz : LaneInt ty op e z) :
    LaneInt ty op e (node3 o ty x y z) ∧ ∀ j < elems (widthOfA ty),
      (node3 o ty x y z).els.getD j 0 = op (op (x.els.getD j 0) (y.els.getD j 0)) (z.els.getD j 0) := by
  have hn : node3 o ty x y z = ⟨List.zipWith op (List.zipWith op x.els y.els) z.els, Fx.clear⟩ := by
    rw [node3, if_neg h3, hL.op_eq]
  have hv (j : Nat) (hj : j < elems (widthOfA ty)) :
      (node3 o ty x y z).els.getD j 0 = op (op (x.els.getD j 0) (y.els.getD j 0)) (z.els.getD j 0) := by
    have hxy : j < (List.zipWith op x.els y.els).length := by simpa [hx.length, hy.length] using hj
    rw [hn, getD_zipWith hxy (hz.length ▸ hj), getD_zipWith (hx.length ▸ hj) (hy.length ▸ hj)]
  refine ⟨⟨?_, by rw [hn], fun j hj => ?_⟩, hv⟩
  · simp [hn, hx.length, hy.length, hz.length]
  · rw [hv j hj, ← hL.assoc, ← hL.assoc, hx.fixed j hj]

/-- A level keeps the total of each element. -/
theorem treeLevel_total (l : List LaneAcc) {m : Nat} (h : l.length = 3 * m) (hl : ∀ a ∈ l, LaneInt ty op e a) :
    (∀ a ∈ treeLevel o ty l, LaneInt ty op e a) ∧ ∀ j < elems (widthOfA ty), ∀ acc,
      ((treeLevel o ty l).map (·.els.getD j 0)).foldl op acc = (l.map (·.els.getD j 0)).foldl op acc := by
  induction m generalizing l with
  | zero =>
    obtain rfl := List.length_eq_zero_iff.mp h
    exact ⟨hl, fun _ _ _ => rfl⟩
  | succ m ih =>
    match l, h with
    | x :: y :: z :: r, h =>
      simp only [List.forall_mem_cons] at hl
      obtain ⟨hx, hy, hz, hr⟩ := hl
      obtain ⟨h1, h2⟩ := ih r (by simpa [Nat.mul_succ] using h) hr
      obtain ⟨hn, hv⟩ := laneInt_node3 hL h3 hx hy hz
      refine ⟨List.forall_mem_cons.mpr ⟨hn, h1⟩, fun j hj acc => ?_⟩
      simp only [treeLevel, List.map_cons, List.foldl_cons]
      rw [h2 j hj, hv j hj, hL.assoc, hL.assoc, hL.assoc]

/-- So the tree gives the total of each element. -/
theorem treeTotal_total (n : Nat) (l : List LaneAcc) (h : l.length = 3 ^ n) (hl : ∀ a ∈ l, LaneInt ty op e a) :
    ∃ a, treeTotal o ty n l = [a] ∧ LaneInt ty op e a ∧ ∀ j < elems (widthOfA ty),
      a.els.getD j 0 = (l.map (·.els.getD j 0)).foldl op e := by
  induction n generalizing l with
  | zero =>
    obtain ⟨a, rfl⟩ := List.length_eq_one_iff.mp h
    have ha := hl a (by simp)
    exact ⟨a, rfl, ha, fun j hj => (ha.fixed j hj).symm⟩
  | succ n ih =>
    have hm : l.length = 3 * 3 ^ n := by rw [h, pow_succ']
    obtain ⟨h1, h2⟩ := treeLevel_total hL h3 l hm hl
    obtain ⟨a, ha, hi, hv⟩ := ih _ (length_treeLevel l hm) h1
    exact ⟨a, ha, hi, fun j hj => (hv j hj).trans (h2 j hj e)⟩

end

/-! ### LRED -/

section
variable {c : Ctx} {f : FA} {o : LaneOp} {op : Int → Int → Int} {e : Int}

/-- A source word's elements, as a value. -/
theorem laneInt_src (ht : t27t9 f.ty = true) (hL : LaneLaws o f.ty op e) (p : Nat) :
    LaneInt f.ty op e ⟨laneEls f.ty (laneSrc c f p), Fx.clear⟩ := by
  obtain ⟨h1, h2⟩ := laneEls_spec ht (abs_laneSrc_le (c := c) (ty_ne_three ht) p)
  exact ⟨h1, rfl, fun j hj => hL.id_op _ (h2 j hj)⟩

theorem getD_laneId (hL : LaneLaws o f.ty op e) {j : Nat} (hj : j < elems (widthOfA f.ty)) : (laneId o f.ty).getD j 0 = e := by
  rw [hL.id_eq, List.getD_eq_getElem _ _ (by simpa using hj), List.getElem_replicate]

theorem laneInt_id (hL : LaneLaws o f.ty op e) : LaneInt f.ty op e ⟨laneId o f.ty, Fx.clear⟩ :=
  ⟨by simp [hL.id_eq], rfl, fun j hj => by
    dsimp only
    rw [getD_laneId hL hj]
    exact hL.id_op e hL.abs_id⟩

/-- Threads that do not contribute stand for the identity, which leaves the total as it is. -/
theorem foldl_skip (hL : LaneLaws o f.ty op e) {P : Nat → Bool} {v : Nat → Int} (l : List Nat) {acc : Int}
    (ha : op e acc = acc) : (l.map (fun p => if P p then v p else e)).foldl op acc = ((l.filter P).map v).foldl op acc := by
  induction l generalizing acc with
  | nil => rfl
  | cons p l ih =>
    rw [List.map_cons, List.foldl_cons, List.filter_cons]
    cases hp : P p with
    | true => exact ih (by rw [← hL.assoc, ha])
    | false =>
      rw [if_neg Bool.false_ne_true, if_neg Bool.false_ne_true, hL.comm acc, ha]
      exact ih ha

/-- The total of integers: each element's operator folded over the contributing threads, completed. -/
theorem laneTotal_int (ht : t27t9 f.ty = true) (hL : LaneLaws o f.ty op e) (ts : List Nat) :
    let total := fun j => (((List.range c.w).filter (fun p => ts.contains p)).map
      (fun p => (laneEls f.ty (laneSrc c f p)).getD j 0)).foldl op e
    (∀ j < elems (widthOfA f.ty), Completed (widthOfA f.ty) c.sat (total j) (elem (laneTotal c f o ts).1 (widthOfA f.ty) j)) ∧
      OnlyIO (widthOfA f.ty) c.sat total (laneTotal c f o ts).2 := by
  intro total
  obtain ⟨a, ha, hi, hv⟩ := treeTotal_total hL (ty_ne_three ht) (levels c.w) ((List.range c.w).map (fun p =>
    (⟨if ts.contains p then laneEls f.ty (laneSrc c f p) else laneId o f.ty, Fx.clear⟩ : LaneAcc)))
    (by rw [List.length_map, List.length_range, pow_levels]) (by
      intro a ha
      obtain ⟨p, -, rfl⟩ := List.mem_map.mp ha
      split
      · exact laneInt_src ht hL p
      · exact laneInt_id hL)
  have hval (j : Nat) (hj : j < elems (widthOfA f.ty)) : a.els.getD j 0 = total j := by
    refine ((hv j hj).trans ?_).trans (foldl_skip hL _ (hL.id_op e hL.abs_id))
    rw [List.map_map]
    congr 2
    funext p
    dsimp only [Function.comp]
    split
    · rfl
    · exact getD_laneId hL hj
  have hd : laneTotal c f o ts = laneDone f.ty c.sat a := by
    unfold laneTotal
    dsimp only
    rw [ha]
    rfl
  rw [hd]
  obtain ⟨h1, h2⟩ := laneDone_results (sat := c.sat) (ty_ne_three ht) hi
  exact ⟨fun j hj => hval j hj ▸ h1 j hj, onlyIO_congr hval h2⟩

end

end Sys2Proof.Machine
end

section
/-! ## Reductions and scans (O8)

LRED through the tree's total (09 R172, R173), LSCAN through its running values (09 R174), and the statement. -/
namespace Sys2Proof.Machine

/-! ### LRED (09 R172, R173) -/

/-- The threads that contribute to a reduction. -/
def laneThreads (c : Ctx) (f : FA) : List Nat := if rowSide c f.dst then c.act else c.acting f.pred

section
variable {s : State} {c : Ctx} {f : FA} (h : Issuing s c)
include h

/-- LRED writes its total to the row, or to every acting thread. -/
theorem lred_computed
    (hf : Free c false [dst f.dst, src f.a] (predOk f.pred && decide (0 < f.b) && laneOpOk f.b f.ty) (laneAcc f))
    (ho : rowSide c f.dst = true → OneWay c f.pred) :
    exec (.lred f) s = .next (s.computed c f.dst f.pred (fun _ =>
      ([(laneTotal c f ((laneOp f.b).getD .add) (laneThreads c f)).1],
        (laneTotal c f ((laneOp f.b).getD .add) (laneThreads c f)).2))) := by
  obtain ⟨hl, hb⟩ := hf
  refine withRow_ok h ?_
  dsimp only
  rw [gate_ok hl, bind_ok, hb, if_neg Bool.false_ne_true, State.computed, laneThreads]
  cases hr : rowSide c f.dst with
  | false => rfl
  | true =>
    simp only [if_true, rowActs_ok (ho hr), bind_ok, decide_eq_true_eq, perRow, wrRegs_one]

/-- LRED of integers. -/
theorem lred_int {op : Int → Int → Int} {e : Int} {o : LaneOp} (ht : t27t9 f.ty = true) (hop : laneOp f.b = some o)
    (hL : LaneLaws o f.ty op e)
    (hf : Free c false [dst f.dst, src f.a] (predOk f.pred && decide (0 < f.b) && laneOpOk f.b f.ty) (laneAcc f))
    (ho : rowSide c f.dst = true → OneWay c f.pred) :
    ∃ v : Int × Fx, exec (.lred f) s = .next (s.computed c f.dst f.pred (fun _ => ([v.1], v.2))) ∧
      let ts := (List.range c.w).filter (fun p => (laneThreads c f).contains p)
      let el := fun j p => (laneEls f.ty (laneSrc c f p)).getD j 0
      (∀ j < elems (widthOfA f.ty), Completed (widthOfA f.ty) c.sat ((ts.map (el j)).foldl op e) (elem v.1 (widthOfA f.ty) j)) ∧
      OnlyIO (widthOfA f.ty) c.sat (fun j => (ts.map (el j)).foldl op e) v.2 := by
  refine ⟨_, lred_computed h hf ho, ?_⟩
  rw [hop]
  exact laneTotal_int ht hL _

/-- LRED of F27 words along the tree. -/
theorem lred_float (ht : f.ty = 3) (hb : 1 ≤ f.b) (hb' : f.b ≤ 3)
    (hf : Free c false [dst f.dst, src f.a] (predOk f.pred) (laneAcc f)) (ho : rowSide c f.dst = true → OneWay c f.pred) :
    ∃ v : Int × Fx, exec (.lred f) s = .next (s.computed c f.dst f.pred (fun _ => ([v.1], v.2))) ∧
      ∃ a : LaneAcc, v = (a.els.headD 0, a.fx) ∧
        treeTotal ((laneOp f.b).getD .add) 3 (levels c.w)
          ((List.range c.w).map (fun p =>
            if (laneThreads c f).contains p then ⟨[laneSrc c f p], Fx.clear⟩
            else ⟨laneId ((laneOp f.b).getD .add) 3, Fx.clear⟩)) = [a] := by
  have hop : laneOpOk f.b f.ty = true := by
    rw [ht]
    obtain hb | hb | hb : f.b = 1 ∨ f.b = 2 ∨ f.b = 3 := by omega
    all_goals rw [hb]; rfl
  have hf' : Free c false [dst f.dst, src f.a] (predOk f.pred && decide (0 < f.b) && laneOpOk f.b f.ty) (laneAcc f) := by
    rwa [hop, decide_eq_true (by omega : 0 < f.b), Bool.and_true, Bool.and_true]
  obtain ⟨a, ha⟩ := treeTotal_singleton (o := (laneOp f.b).getD .add) (ty := 3) (levels c.w) ((List.range c.w).map (fun p =>
    if (laneThreads c f).contains p then (⟨[laneSrc c f p], Fx.clear⟩ : LaneAcc)
    else ⟨laneId ((laneOp f.b).getD .add) 3, Fx.clear⟩)) (by rw [List.length_map, List.length_range, pow_levels])
  refine ⟨_, lred_computed h hf' ho, a, ?_, ha⟩
  have hleaf (p : Nat) : (⟨if (laneThreads c f).contains p then laneEls 3 (laneSrc c f p)
      else laneId ((laneOp f.b).getD .add) 3, Fx.clear⟩ : LaneAcc) =
      if (laneThreads c f).contains p then ⟨[laneSrc c f p], Fx.clear⟩ else ⟨laneId ((laneOp f.b).getD .add) 3, Fx.clear⟩ := by
    split <;> rfl
  rw [laneTotal, ht]
  simp only [hleaf]
  rw [ha]
  rfl

end

/-! ### LSCAN (09 R174) -/

/-- The running value after the first n contributing threads. -/
def scanAt (c : Ctx) (f : FA) (o : LaneOp) (ts : List Nat) (n : Nat) : LaneAcc :=
  (ts.take n).foldl (fun a p => scanStep o f.ty a (laneSrc c f p)) ⟨laneId o f.ty, Fx.clear⟩

section
variable {s : State} {c : Ctx} {f : FA}

theorem scanAll_eq (o : LaneOp) (ts : List Nat) (acc : LaneAcc) :
    scanAll c f o ts acc = (List.range ts.length).map (fun n => (ts.getD n 0,
      (ts.take n).foldl (fun a p => scanStep o f.ty a (laneSrc c f p)) acc,
      (ts.take (n + 1)).foldl (fun a p => scanStep o f.ty a (laneSrc c f p)) acc)) := by
  induction ts generalizing acc with
  | nil => rfl
  | cons p ts ih =>
    rw [scanAll, ih, List.length_cons, List.range_succ_eq_map, List.map_cons, List.map_map]
    rfl

theorem scanAt_succ (o : LaneOp) {ts : List Nat} {n : Nat} (hn : n < ts.length) :
    scanAt c f o ts (n + 1) = scanStep o f.ty (scanAt c f o ts n) (laneSrc c f (ts.getD n 0)) := by
  rw [scanAt, scanAt, List.take_succ_eq_append_getElem hn, List.foldl_append, List.getD_eq_getElem _ _ hn]
  rfl

/-- The running value of integers. -/
theorem scan_int {o : LaneOp} {op : Int → Int → Int} {e : Int} (ht : t27t9 f.ty = true) (hL : LaneLaws o f.ty op e)
    (l : List Nat) {acc : LaneAcc} (ha : LaneInt f.ty op e acc) :
    LaneInt f.ty op e (l.foldl (fun a p => scanStep o f.ty a (laneSrc c f p)) acc) ∧ ∀ j < elems (widthOfA f.ty),
      (l.foldl (fun a p => scanStep o f.ty a (laneSrc c f p)) acc).els.getD j 0 =
        (l.map (fun p => (laneEls f.ty (laneSrc c f p)).getD j 0)).foldl op (acc.els.getD j 0) := by
  induction l generalizing acc with
  | nil => exact ⟨ha, fun _ _ => rfl⟩
  | cons p l ih =>
    have hp := laneInt_src (c := c) ht hL p
    have hstep : scanStep o f.ty acc (laneSrc c f p) = ⟨List.zipWith op acc.els (laneEls f.ty (laneSrc c f p)), Fx.clear⟩ := by
      rw [scanStep, if_neg (ty_ne_three ht), hL.op_eq]
    have hv (j : Nat) (hj : j < elems (widthOfA f.ty)) : (scanStep o f.ty acc (laneSrc c f p)).els.getD j 0 =
        op (acc.els.getD j 0) ((laneEls f.ty (laneSrc c f p)).getD j 0) := by
      rw [hstep, getD_zipWith (ha.length ▸ hj) (hp.length ▸ hj)]
    have hi : LaneInt f.ty op e (scanStep o f.ty acc (laneSrc c f p)) := by
      refine ⟨?_, by rw [hstep], fun j hj => ?_⟩
      · have : (laneEls f.ty (laneSrc c f p)).length = elems (widthOfA f.ty) := hp.length
        simp [hstep, ha.length, this]
      · rw [hv j hj, ← hL.assoc, ha.fixed j hj]
    obtain ⟨h1, h2⟩ := ih hi
    exact ⟨h1, fun j hj => by rw [List.foldl_cons, h2 j hj, List.map_cons, List.foldl_cons, hv j hj]⟩

variable (h : Issuing s c)
include h

/-- LSCAN writes each contributing thread its running value. -/
theorem lscan_finish
    (hf : Free c false [dst f.dst, src f.a] (predOk f.pred && vecDst c f.dst && laneOpOk f.b f.ty) (laneAcc f)) :
    ∃ x : Fx, exec (.lscan f) s = .next (s.finish c (((List.range (c.acting f.pred).length).foldl
      (fun (r : Row) n => wrReg c.gen0 c.w r f.dst ((c.acting f.pred).getD n 0)
        (laneDone f.ty c.sat (scanAt c f ((laneOp f.b).getD .add) (c.acting f.pred) (if 0 < f.b then n + 1 else n))).1)
      c.r).raiseAll (c.acting f.pred) x)) := by
  obtain ⟨hl, hb⟩ := hf
  refine Exists.imp (fun x hx => withRow_ok h hx) ?_
  dsimp only
  rw [gate_ok hl, bind_ok, hb, if_neg Bool.false_ne_true, scanAll_eq, List.map_map, List.foldl_map]
  refine ⟨_, congrArg (fun r : Row => Except.ok (s.finish c (r.raiseAll (c.acting f.pred) _))) ?_⟩
  congr 1
  funext r n
  dsimp only [Function.comp]
  split <;> rfl

/-- LSCAN of integers. -/
theorem lscan_int {o : LaneOp} {op : Int → Int → Int} {e : Int} (ht : t27t9 f.ty = true) (hop : laneOp f.b = some o)
    (hL : LaneLaws o f.ty op e)
    (hf : Free c false [dst f.dst, src f.a] (predOk f.pred && vecDst c f.dst && laneOpOk f.b f.ty) (laneAcc f)) :
    let ts := c.acting f.pred
    let el := fun j p => (laneEls f.ty (laneSrc c f p)).getD j 0
    ∃ (v : Nat → Int) (x : Fx),
      exec (.lscan f) s = .next (s.finish c (((List.range ts.length).foldl
        (fun (r : Row) n => wrReg c.gen0 c.w r f.dst (ts.getD n 0) (v n)) c.r).raiseAll ts x)) ∧
      ∀ n < ts.length, ∀ j < elems (widthOfA f.ty), Completed (widthOfA f.ty) c.sat
        (((ts.take (if 0 < f.b then n + 1 else n)).map (el j)).foldl op e) (elem (v n) (widthOfA f.ty) j) := by
  intro ts el
  obtain ⟨x, hx⟩ := lscan_finish h hf
  rw [hop] at hx
  refine ⟨_, x, hx, fun n _ j hj => ?_⟩
  obtain ⟨hi, hv⟩ := scan_int (c := c) ht hL (ts.take (if 0 < f.b then n + 1 else n)) (laneInt_id hL)
  have hd := (laneDone_results (sat := c.sat) (ty_ne_three ht) hi).1 j hj
  rw [hv j hj] at hd
  dsimp only at hd
  rwa [getD_laneId hL hj] at hd

/-- LSCAN of F27 words, step by step. -/
theorem lscan_float (ht : f.ty = 3) (hb : 1 ≤ |f.b|) (hb' : |f.b| ≤ 3)
    (hf : Free c false [dst f.dst, src f.a] (predOk f.pred && vecDst c f.dst) (laneAcc f)) :
    let ts := c.acting f.pred
    let o := (laneOp f.b).getD .add
    ∃ (acc : Nat → Int) (x : Fx),
      exec (.lscan f) s = .next (s.finish c (((List.range ts.length).foldl
        (fun (r : Row) n => wrReg c.gen0 c.w r f.dst (ts.getD n 0) (if 0 < f.b then acc (n + 1) else acc n))
        c.r).raiseAll ts x)) ∧
      [acc 0] = laneId o 3 ∧
      ∀ n < ts.length, acc (n + 1) = (flOp o (acc n) (laneSrc c f (ts.getD n 0))).1 := by
  intro ts o
  have hop : laneOpOk f.b f.ty = true := by
    rw [ht]
    rw [Int.abs_eq_natAbs] at hb hb'
    obtain hb | hb | hb : f.b.natAbs = 1 ∨ f.b.natAbs = 2 ∨ f.b.natAbs = 3 := by omega
    all_goals simp [laneOpOk, laneOp, hb]
  have hf' : Free c false [dst f.dst, src f.a] (predOk f.pred && vecDst c f.dst && laneOpOk f.b f.ty) (laneAcc f) := by
    rwa [hop, Bool.and_true]
  obtain ⟨x, hx⟩ := lscan_finish h hf'
  refine ⟨fun n => (scanAt c f o ts n).els.headD 0, x, hx.trans ?_, ?_, fun n hn => ?_⟩
  · congr 4
    funext r n
    rw [laneDone, if_pos ht]
    split <;> rfl
  · simp [scanAt, laneId, ht]
  · dsimp only
    rw [scanAt_succ o hn, scanStep, if_pos ht]
    rfl

end

/-! ### The statement -/

theorem laneOp_abs (b : Int) : laneOp |b| = laneOp b := by rw [laneOp, Int.natAbs_abs, laneOp]

/-- The codes of Table 9.6 and what they compute on integers. -/
theorem laneLaws_of_code {ty : Int} (ht : t27t9 ty = true) (q : Int × (Int → Int → Int) × Int)
    (hq : q ∈ (if ty = 0 then
      [(1, (fun x y => x + y), 0), (2, (fun x y => Min.min x y), maxT (widthOfA ty)),
        (3, (fun x y => Max.max x y), -(maxT (widthOfA ty)))] ++
      [(4, perTrit (fun x y => Min.min x y), maxT 27), (5, perTrit (fun x y => Max.max x y), -(maxT 27))]
      else [(1, (fun x y => x + y), 0), (2, (fun x y => Min.min x y), maxT (widthOfA ty)),
        (3, (fun x y => Max.max x y), -(maxT (widthOfA ty)))] : List (Int × (Int → Int → Int) × Int))) :
    ∃ o, laneOp q.1 = some o ∧ LaneLaws o ty q.2.1 q.2.2 := by
  split at hq
  next h0 =>
    subst h0
    simp only [List.mem_append, List.mem_cons, List.not_mem_nil, or_false] at hq
    rcases hq with (rfl | rfl | rfl) | (rfl | rfl)
    · exact ⟨_, rfl, laneLaws_add ht⟩
    · exact ⟨_, rfl, laneLaws_min ht⟩
    · exact ⟨_, rfl, laneLaws_max ht⟩
    · exact ⟨_, rfl, laneLaws_tmin⟩
    · exact ⟨_, rfl, laneLaws_tmax⟩
  next h0 =>
    simp only [List.mem_cons, List.not_mem_nil, or_false] at hq
    rcases hq with rfl | rfl | rfl
    · exact ⟨_, rfl, laneLaws_add ht⟩
    · exact ⟨_, rfl, laneLaws_min ht⟩
    · exact ⟨_, rfl, laneLaws_max ht⟩

/-- Settles O8: votes and shuffles by their lemmas, LRED through the tree's total, LSCAN through its running values. -/
theorem voteLaneResults : Obligations.VoteLaneResults := by
  unfold Obligations.VoteLaneResults
  refine ⟨fun s c f h => ⟨fun hf hx => vote_results h hf hx, vote_illmod h⟩, fun s c f h q hq => ?_, fun s c f h =>
    ⟨fun q hq ht => ?_, lred_float h, lscan_float h⟩⟩
  · simp only [List.mem_cons, List.not_mem_nil, or_false] at hq
    rcases hq with rfl | rfl | rfl | rfl
    · obtain ⟨h1, h2⟩ := shuffle_results h (show exec (.xlnAt f) s = execXlnAt f s from rfl)
      refine ⟨fun hf => ⟨_, h1 hf, fun t => ?_⟩, h2⟩
      rw [shuffled_eq]
      dsimp only
      split
      · rfl
      · exact if_neg fun hlt => by omega
    · obtain ⟨h1, h2⟩ := shuffle_results h (show exec (.xlnBk f) s = execXlnBk f s from rfl)
      exact ⟨fun hf => ⟨_, h1 hf, fun t => shuffled_eq ..⟩, h2⟩
    · obtain ⟨h1, h2⟩ := shuffle_results h (show exec (.xlnFw f) s = execXlnFw f s from rfl)
      exact ⟨fun hf => ⟨_, h1 hf, fun t => shuffled_eq ..⟩, h2⟩
    · obtain ⟨h1, h2⟩ := shuffle_results h (show exec (.xlnTri f) s = execXlnTri f s from rfl)
      refine ⟨fun hf => ⟨_, h1 hf, fun t => ?_⟩, h2⟩
      dsimp only
      rw [shuffled_eq, triPartner_eq]
  · obtain ⟨o, ho, hL⟩ := laneLaws_of_code ht q hq
    exact ⟨fun hb => lred_int h ht (by rw [hb, ho]) hL, fun hb => lscan_int h ht (by rw [← laneOp_abs, hb, ho]) hL⟩

end Sys2Proof.Machine
end
